-- ==== Sys2Proof/Word.lean ====
section
/-! DEFINITION. The word types of the LN9032 model and the two plain containers its state is built from:
a sparse map keyed by numbers and a sparse byte memory. Their operations are in Machine/Bits.lean. -/

namespace Sys2Proof

/-- One byte (R3: multi-byte fields are stored least significant byte first). -/
abbrev Byte := BitVec 8

/-- Every register is 32 bits wide (R392). -/
abbrev W32 := BitVec 32

/-- A Keep word (R8, R351). -/
abbrev W64 := BitVec 64

/-- A sparse map: pairs of a key and a value, keys strictly rising. -/
abbrev NMap (α : Type) := List (Nat × α)

end Sys2Proof
end

