-- ==== Sys2Proof/Syntax.lean ====
section
/-! DEFINITION. The commands of the block: one constructor for each of the 202 rows of the operation table, with the
operands the row's text implies. The table gives no bits and no operand fields, so operands are the model's reading of
each row (log entry 12). -/

namespace Sys2Proof

/-- The two functions of the host port (R286). -/
inductive Func where
  | pf0
  | pf1
deriving DecidableEq, Repr

/-- The rails of Table 17-1 that assert POR when they leave their window (R374). -/
inductive Rail where
  | vddSram | vddAon | vddPhy | vddhPhy | vddqDram | vppDram | vddAna | vddIo18 | vddIo33
deriving DecidableEq, Repr

/-- The reference clocks of Table 17-4. -/
inductive RefClk where
  | href | mref | xtal | aonclk
deriving DecidableEq, Repr

/-- How a completion for a device-originated read ends (Table 13-4). -/
inductive RdStatus where
  | ok | ur | ca | poison
deriving DecidableEq, Repr

/-- The wake events of R381. -/
inductive WakeSrc where
  | host | member | presence | known | notice | pfd | chipRst | droop
deriving DecidableEq, Repr

/-- What Identify, Set Features and the controller registers report of a member (R271 to R273). -/
structure MemberIdent where
  /-- CAP.MQES -/
  mqes : Nat
  /-- the namespace uses a 4,096-byte LBA format with 0, 8 or 16 bytes of metadata -/
  lba4k : Bool
  /-- metadata bytes of the format in use -/
  metaBytes : Nat
  /-- end-to-end protection information enabled -/
  protInfo : Bool
  /-- first 16 bytes, NGUID -/
  nguid : List Byte
  /-- formatted capacity in LBAs -/
  lbas : Nat
  /-- a volatile write cache is present and enabled -/
  vwc : Bool
deriving DecidableEq, Repr

/-- One block as a member returns it: its data bytes (absent tail bytes are zero) and its metadata bytes. -/
structure MBlock where
  data : List Byte
  tag : List Byte
deriving DecidableEq, Repr

/-- What comes with a member's completion. -/
inductive MPayload where
  | none
  | blocks (bs : List MBlock)
  | ident (i : MemberIdent)
  | granted (ioq : Nat)
  | smart (critical : Nat)
deriving DecidableEq, Repr

/-- What a Gauge sample measures (R212, R217). -/
structure GaSample where
  /-- mean voltage from GA_CSN to GA_CSP over the millisecond in 100 nV units, signed -/
  vshunt : Int
  /-- pin voltage of GA_VPACK in microvolts -/
  vpackPin : Nat
deriving DecidableEq, Repr

/-- What a control period measures (R177 to R179, R199). -/
structure MwSample where
  /-- the held phase voltages at the pins in microvolts; none when the period held no sample (R184) -/
  phase : Option (Nat × Nat × Nat)
  /-- levels of MW_ENC_A (bit 0) and MW_ENC_B (bit 1) after each edge of the period, in order -/
  ab : List Nat
  /-- resolver tracking angle, a mechanical turn in 65,536 -/
  res : BitVec 16
  /-- SPD_IN in the mode's unit (Table 09-12); none while it has no edge -/
  spdIn : Option Nat
deriving DecidableEq, Repr

/-- A peak comparator's input at a pin (R175, R185). -/
structure PeakPin where
  /-- the DC-link comparator, else a phase comparator -/
  dc : Bool
  /-- pin voltage in microvolts -/
  uv : Nat
deriving DecidableEq, Repr

/-- What a learning window measured (R141, R142). -/
structure LearnSample where
  /-- mean input power in milliwatts -/
  pin : Nat
  /-- member write and read bytes per second -/
  w : Nat
  r : Nat
  /-- a member changed, VIN left its 2 % band, within the window -/
  memberChanged : Bool
  vinMoved : Bool
deriving DecidableEq, Repr

/-- What goes wrong in a Loom job (R65, R66): an input word of logical chunk x that SECDED cannot correct, in block b; or a lane
parity error in block b, once or again when the block is computed again. -/
inductive LoomErr where
  | ecc (x b : Nat)
  | lane (b : Nat) (again : Bool)
deriving DecidableEq, Repr

/-- Errors of the State Cache (R92): a tag whose parity is wrong, a data word that SECDED corrects, one it cannot correct, in a
line; and a 64-bit word of the merging buffer, by its internal address, that cannot be corrected. -/
inductive ScErr where
  | tagParity (line : Nat)
  | corrected (line : Nat)
  | uncorrectable (line : Nat)
  | bufferWord (addr : Nat)
deriving DecidableEq, Repr

/-- A fill that returns, and the errors the cache has found by then (R92). -/
structure ScFill where
  line : Nat
  errs : List ScErr := []
deriving DecidableEq, Repr

/-- SECDED errors of the Keep (R351): a word, by its number, that is corrected; a word that cannot be corrected; and the word of a
register's KW fields that cannot be corrected. -/
inductive KeepErr where
  | corrected (w : Nat)
  | uncorrectable (w : Nat)
  | setting (reg : Nat)
deriving DecidableEq, Repr

/-- A value for KW fields, and the errors that reads of the Keep have met since the last such write (R351, log entry 147). -/
structure KwWrite where
  val : W32
  errs : List KeepErr := []
deriving DecidableEq, Repr

/-- What the Almanac samples every 100 ms beside the model's own state (Tables 16-9, 16-10). -/
structure AlSample where
  tj : Int
  vddCore : Nat
  vin : Nat
  hub : Nat
  rpm : Nat
  packT : Int
deriving DecidableEq, Repr

/-- A register access made from the console (R409), at a PF1 BAR0 offset. A write carries what BRK_FB shows, for the
self-test that MW_CTRL.CLEAR runs (R193). -/
inductive ConsoleOp where
  | read (off : Nat)
  | write (off : Nat) (val : W32) (brkFb : Bool)
deriving DecidableEq, Repr

/-- What a commissioning step measured (R201): enough to close the step it ends. -/
structure CommMeas where
  /-- the step ended as it should; false for a hold beyond 3 % or no lock -/
  ok : Bool
  /-- back-EMF line peak in microvolts and electrical speed in mrad/s (step 1) -/
  bemf : Nat
  omegaE : Nat
  /-- mean, lowest and highest input power in mW over a hold -/
  power : Nat
  powerLo : Nat
  powerHi : Nat
  /-- a run: input energy in mJ, duration in microseconds, and the integrals of w, w^2 and w^3 over it (w in rad/s) -/
  energy : Nat
  us : Nat
  w1 : Nat
  w2 : Nat
  w3 : Nat
  /-- fitted coefficients of the coast -/
  c0 : Rat
  c1 : Rat
  c2 : Rat
deriving DecidableEq, Repr

/-- The commands: one constructor per row of the operation table, in its order. -/
inductive Instr where
  | powerOnReset (strap : BitVec 2)
  | railOutOfWindow (rail : Rail)
  | chipRstAssert
  | coreReset (mv : Nat)
  | startupStep
  | memberWaitExpiry
  | droopStage (mv : Nat)
  | dumpOnlyEntry (mv : Nat)
  | vcoreSettleExpiry
  | refclkLoss (clk : RefClk)
  | thermCrossing (tj : Int)
  | timeSaveTimer
  | sleepEval
  | wakeEvent (src : WakeSrc)
  | dramRetrain (tj : Int)
  | speedWindow (laps : List Nat)
  | lowClr (n : Nat)
  | vinFilterExpiry (mv : Nat)
  | pfNLow
  | dumpVcoreRequest
  | destageStop
  | dumpSnapshot
  | vinReturn (mv : Nat)
  | resumeWaitExpiry
  | keepLowVoltage (mv : Nat)
  | perstAssert
  | perstRelease
  | hotReset
  | hostLinkDown
  | flr (f : Func)
  | flrWaitDone (f : Func)
  | bmeClear (f : Func)
  | bmeSet (f : Func)
  | d3hotEntry (f : Func)
  | d0Return (f : Func)
  | configRequest (f : Func) (off : Nat) (wr : Option W32)
  | bar0InvalidAccess (f : Func) (off len : Nat) (wr : Bool)
  | bar2Access (f : Func) (off len : Nat) (wr : Option (List Byte)) (ecc : Bool)
  | hostReadCompletion (tag : Nat) (st : RdStatus) (data : List Byte)
  | hostReadTimeout (tag : Nat)
  | tagQuarantineExpiry (tag : Nat)
  | hpDatapathError
  | freezeForce
  | freezeRelease
  | msixUnmask (f : Func) (vec : Nat)
  | ltrIdleTimer
  | sqTailDoorbell (f : Func) (q : Nat) (val : W32)
  | cqHeadDoorbell (f : Func) (q : Nat) (val : W32)
  | inlineSlotWrite (f : Func) (q off : Nat) (data : List Byte)
  | inlFlush (f : Func) (q : Nat)
  | sqEnable (f : Func) (q : Nat)
  | sqDisable (f : Func) (q : Nat)
  | cqEnable (f : Func) (q : Nat)
  | cqDisable (f : Func) (q : Nat)
  | ringDrainDone (f : Func) (q : Nat)
  | ringFetch
  | ownRereadTimeout (f : Func) (q : Nat)
  | headReportTimer (f : Func) (q : Nat)
  | collectorDeposit
  | completionDrain
  | cqOwnPoll (f : Func) (q : Nat)
  | coalesceTimeout (f : Func) (q : Nat)
  | inlineStaleTimeout
  | collectorPromoteTimeout
  | stallNoticeTimeout
  | noticeDrain
  | almanacEventTake
  | read (h : Nat)
  | write (h : Nat)
  | writeZeroes (h : Nat)
  | flush (h : Nat)
  | deallocate (h : Nat)
  | logAppend (h : Nat)
  | logRead (h : Nat)
  | logTrim (h : Nat)
  | volumeStatus (h : Nat)
  | streamStatus (h : Nat)
  | holdingRecheck (st : Nat)
  | arrayCreate (h : Nat)
  | arrayDelete (h : Nat)
  | volumeCreate (h : Nat)
  | volumeDelete (h : Nat)
  | volumeDeleteProceed (vol : Nat)
  | volumeSet (h : Nat)
  | spareSet (h : Nat)
  | streamCreate (h : Nat)
  | streamDelete (h : Nat)
  | memberFail (h : Nat)
  | rebuildInPlace (h : Nat)
  | stripeRelease (h : Nat)
  | setMode (h : Nat)
  | writeBack (h : Nat)
  | timeSet (h : Nat)
  | commission (h : Nat)
  | arrayImport (h : Nat)
  | imageImport (h : Nat)
  | fwDownload (h : Nat)
  | fwActivate (h : Nat)
  | fwRestart
  | getNonce (h : Nat)
  | almanacClear (h : Nat)
  | keySet (h : Nat)
  | noticeRoute (h : Nat)
  | nonceExpiry
  | creditWaitGrant
  | creditWaitTimeout
  | slotWaitResume
  | claimWaitResume (arr stripe : Nat)
  | idleTimerExpiry (fr : Nat)
  | ageLimitExpiry (fr : Nat)
  | destageStart
  | ldWbClear
  | ldWbSet
  | ldDrain
  | ldProbeRead
  | ledgerEntryGrant
  | statePageTimer (arr page : Nat)
  | copyBlockTimer (arr blk : Nat)
  | loomJobSubmit (q : Nat)
  | loomJobStart
  | loomJobComplete (ctx : Nat) (err : Option LoomErr)
  | lmTjobGo
  | injectDp
  | scFillReturn (fill : ScFill)
  | scBufferWriteback
  | scDisable
  | scDrainDone
  | scEnable
  | scInvalidateDone
  | ceilingRecompute
  | learnWindow (m : LearnSample)
  | relearnModel
  | mwControlPeriod (m : MwSample)
  | hubSample (pinUv : Nat) (brkFb : Bool)
  | chopOvFilterExpiry (brkFb : Bool)
  | peakTrip (p : PeakPin)
  | mwStartCommand (brkFb : Bool)
  | mwStopCommand
  | mwClear (brkFb : Bool)
  | mwComm
  | mwAbort
  | commissionStepDone (m : CommMeas)
  | alignTimer
  | rampTimeout
  | catchObsTimer
  | lockConfirm
  | catchBrakeWait
  | holdEntryTimer
  | lockedRotor
  | lockRetryExpiry
  | retryCountReset
  | shortExitTimer
  | encoderIndex (ab : List Nat)
  | feedbackLost
  | spdInTimeout
  | gaugeSample (m : GaSample)
  | gaugeOffsetZero
  | packRemoval
  | gaugeSlowPoll (idUv ntcUv : Nat)
  | packInsertion (code : Nat)
  | gaugeSettled
  | gaForget
  | memberCompletion (port qp cid : Nat) (ok dnr : Bool) (pay : MPayload)
  | deadlineExpiry (port qp cid : Nat)
  | memberCmdTimeout (port qp cid : Nat)
  | memberLongTimeout (port qp cid : Nat)
  | memberLinkDown (port : Nat)
  | memberLinkUp (port lanes speed : Nat)
  | retrainTimeout (port : Nat)
  | trainingTimeout (port : Nat)
  | readyWaitTimeout (port : Nat)
  | powerWaitExpiry (port : Nat)
  | presencePoll (bus : Nat) (ack : Bool) (bits : BitVec 16)
  | smartPoll (port : Nat)
  | walkIssue (arr : Nat)
  | rebuildCheckpoint (arr : Nat)
  | scrubCheckpoint (arr : Nat)
  | scrubVisit (arr : Nat)
  | repairStart
  | resyncStart
  | menderRetryTimer (task : Nat)
  | arrayIdleTimer (arr : Nat)
  | kwFieldWrite (off : Nat) (val : KwWrite)
  | epochHourClose
  | almanacCheckpoint
  | conditionCloseDelay
  | repeatFlush
  | almanacSnapshot (slot : Nat)
  | mgtTransaction (ptr : Nat) (wr : List Byte) (rdLen : Nat)
  | mgtSlotWrite (slot : Nat)
  | mgtHealthRefresh
  | tapInstruction (code : BitVec 6)
  | consoleInput (op : ConsoleOp)
  | loLatchRead (off : Nat)
  | registerWrite (f : Func) (off len : Nat) (val : W64)
  | chipRstRelease (strap : BitVec 2)
  | coreResetRelease (strap : BitVec 2) (mv : Nat)
  | vinBreak (mv : Nat)
  | almanacSample (m : AlSample)
  | refreshRateStep (tj : Int)
  | hostLinkUp (width speed : Nat)
  | cstsRdy (port : Nat)
deriving DecidableEq, Repr

end Sys2Proof
end

