-- ==== Sys2Proof/Decode.lean ====
section
/-! DEFINITION. Words of the operation table. No row of the table gives bits, so no word spells a command. -/

namespace Sys2Proof

/-- The command a word of the table spells: none, since no row has bits. -/
def decodeTableWord (_nbits _w : Nat) : Option Instr := none

end Sys2Proof
end

