-- ==== Sys2Proof/Config.lean ====
section
/-! DEFINITION. What the spec leaves open: free values and functions no proof can see into, and the few
constants the model fixes (each with its log entry). -/

namespace Sys2Proof.Config

/-- Free value number `n` of a run, as a number: the step that needs one reads State.free and advances it.
DESIGN CHOICE, log entry 2. -/
opaque freeNat : Nat → Nat

/-- Random bytes of the on-chip source: a nonce (R359) or an array identifier (Table 02-4). Log entry 2. -/
opaque freeBytes : Nat → Nat → List Byte

/-- Does a firmware image (its bytes) verify against the Ursegus key (R346)? The key and the algorithm are not
given. Log entry 7. -/
opaque fwVerify : List Byte → Bool

/-- Version of a firmware image (R346). The image's layout is not given. Log entry 7. -/
opaque fwVersion : List Byte → W32

/-- Version of the Boot ROM firmware shown in RV_FW (R346): not given. Log entry 7. -/
opaque bootVersion : W32

/-- Device Serial Number fused at manufacture (Table 13-2). Log entry 8. -/
opaque serial : W64

/-- Laps of monitor n at trim (R19): fused at manufacture, not given. Log entry 8. -/
opaque lapTrim : Nat → Nat

/-- Keep page (0 to 15) that holds the KW word of the register at an address; the arrangement of words in the
settings region is not an interface (R350). Log entry 9. -/
opaque settingsPage : Nat → Fin 16

/-- What the Keep view shows of the settings region (R350: not an interface). Arguments: free value number,
Keep offset. Log entry 9. -/
opaque settingsView : Nat → Nat → Byte

/-- A value of a configuration space dword that Table 13-1 and Table 13-2 leave to the PCI Express standard.
Arguments: free value number, function, offset. Log entry 10. -/
opaque configRead : Nat → Nat → Nat → W32

/-- Value and severity of an event or notice whose chapter names its condition and no number for it. Log entry 24. -/
opaque eventValue : Nat → Nat
opaque eventSev : Nat → Nat

/-- Starting covariance of the fit of R142, and thereby how fast the first windows move it: not given. Log entry 27. -/
opaque rlsStart : Nat → Rat

/-- Quotient of a value by zero, where a formula of the spec divides by a quantity that is zero. Log entry 2. -/
opaque divByZero : Rat → Rat

/-- Natural logarithm of a number that is not positive, where the formula of R210 would take one: no value is stated.
Log entry 11. -/
opaque lnQ : Rat → Rat

/-- Pi to twenty decimals; the spec states no precision for its formulas. DESIGN CHOICE, log entry 11. -/
def piQ : Rat := (314159265358979323846 : Rat) / 100000000000000000000

/-- Coefficient register c as IEEE 754 single bits (MW_C_LOSSn) rounded from a value; the rounding is not given.
Log entry 11. -/
opaque f32Bits : Rat → W32

end Sys2Proof.Config
end

