-- ==== Sys2Proof/Machine/Real.lean ====
section
/-! DEFINITION. The real functions the formulas of chapters 09 and 10 use (R178 to R181, R199, R202, R210), computed in
fixed point to more than twenty decimals. The spec states no precision (DESIGN CHOICE, log entry 11). -/

namespace Sys2Proof.Machine

/-- Integer square root, one bit at a time from bit n − 1 down, starting from r. -/
def isqrtFrom (v : Nat) : Nat → Nat → Nat
  | 0, r => r
  | n + 1, r => isqrtFrom v n (if (r + 2 ^ n) * (r + 2 ^ n) ≤ v then r + 2 ^ n else r)

/-- The largest number whose square is at most v. -/
def isqrt (v : Nat) : Nat := isqrtFrom v (v.log2 / 2 + 1) 0

/-- Integer cube root of a number below 2^(3n), in the same way. -/
def icbrtFrom (v : Nat) : Nat → Nat → Nat
  | 0, r => r
  | n + 1, r => icbrtFrom v n (if (r + 2 ^ n) * (r + 2 ^ n) * (r + 2 ^ n) ≤ v then r + 2 ^ n else r)

/-- One in the fixed point the series use. -/
def fxOne : Nat := 10 ^ 24

/-- Square root; 0 of a negative number, which no formula takes. -/
def sqrtQ (q : Rat) : Rat := (isqrt (q * fxOne * fxOne).floor.toNat : Nat) / (fxOne : Nat)

/-- Sine and cosine series at x in fixed point: n more terms, the next one t with number k. -/
def trigTerms (x : Int) : Nat → Nat → Int → Int
  | 0, _, _ => 0
  | n + 1, k, t => t + trigTerms x n (k + 2) (-(t * x / fxOne * x / fxOne / ((k + 1) * (k + 2) : Nat)))

/-- 2π times a turn fraction brought into [−1/2, 1/2), in fixed point. -/
def turnFx (q : Rat) : Int := (2 * Config.piQ * (q - (q + 1 / 2).floor) * fxOne).floor

/-- Sine and cosine of a turn fraction. -/
def sinTurn (q : Rat) : Rat := (trigTerms (turnFx q) 18 1 (turnFx q) : Int) / (fxOne : Nat)
def cosTurn (q : Rat) : Rat := (trigTerms (turnFx q) 18 0 fxOne : Int) / (fxOne : Nat)

/-- Odd power series at x, of the inverse tangent (sign −1) or its hyperbolic form (sign 1). -/
def oddTerms (sign x2 : Int) : Nat → Nat → Int → Int
  | 0, _, _ => 0
  | n + 1, k, t => t / (k : Nat) + oddTerms sign x2 n (k + 2) (sign * (t * x2 / fxOne))

/-- Inverse tangent of z in [0, 1], in radians: two half angles, then the series. -/
def atanUnit (z : Rat) : Rat :=
  let half := fun (z : Rat) => z / (1 + sqrtQ (1 + z * z))
  let x := (half (half z) * fxOne).floor
  4 * (oddTerms (-1) (x * x / fxOne) 20 1 x : Int) / (fxOne : Nat)

/-- The angle of a vector, in turns; 0 for the zero vector. -/
def angleTurn (a b : Rat) : Rat :=
  let m := if a < 0 then -a else a
  let n := if b < 0 then -b else b
  let t := if n = 0 ∧ m = 0 then 0
    else if n ≤ m then atanUnit (n / m) / (2 * Config.piQ) else 1 / 4 - atanUnit (m / n) / (2 * Config.piQ)
  let t := if a < 0 then 1 / 2 - t else t
  if b < 0 then -t else t

/-- Natural logarithm of a number in [1, 2). -/
def lnUnit (m : Rat) : Rat :=
  let x := ((m - 1) / (m + 1) * fxOne).floor
  2 * (oddTerms 1 (x * x / fxOne) 26 1 x : Int) / (fxOne : Nat)

/-- Exponent e with 2^e ≤ p/q < 2^(e + 1), of positive p and q. -/
def log2Q (p q : Nat) : Int :=
  let e : Int := (p.log2 : Int) - (q.log2 : Int)
  if e ≥ 0 then (if q * 2 ^ e.toNat ≤ p then e else e - 1) else (if q ≤ p * 2 ^ (-e).toNat then e else e - 1)

/-- Natural logarithm of a positive number; of another it is free (Config.lnQ), because the spec states none. -/
def lnQ (r : Rat) : Rat :=
  if r ≤ 0 then Config.lnQ r
  else
    let e := log2Q r.num.toNat r.den
    let m := if e ≥ 0 then r / (2 ^ e.toNat : Nat) else r * (2 ^ (-e).toNat : Nat)
    lnUnit m + (e : Int) * lnUnit (3 / 2) + (e : Int) * lnUnit (4 / 3)

end Sys2Proof.Machine
end

