-- ==== Sys2Proof/Machine/Bits.lean ====
section
/-! DEFINITION. Arithmetic and containers every block uses: sparse maps, byte memory in canonical form, bit fields,
byte order (R3), CRC-32C (R39), GF(2^8) (R52), SHA-256 and HMAC-SHA-256 (R360). -/

namespace Sys2Proof.Machine

/-! ### Sparse maps -/

/-- The value at a key, if one is listed. -/
def mapGet? {α : Type} : NMap α → Nat → Option α
  | [], _ => none
  | (k, v) :: t, q => if k = q then some v else mapGet? t q

/-- The value at a key, or a default. -/
def mapGetD {α : Type} (m : NMap α) (k : Nat) (d : α) : α := (mapGet? m k).getD d

/-- Set the value at a key, keeping the keys rising. -/
def mapSet {α : Type} : NMap α → Nat → α → NMap α
  | [], q, x => [(q, x)]
  | (k, v) :: t, q, x =>
    if q < k then (q, x) :: (k, v) :: t
    else if q = k then (q, x) :: t
    else (k, v) :: mapSet t q x

/-- Remove every entry of a key. -/
def mapErase {α : Type} (m : NMap α) (q : Nat) : NMap α := m.filter fun e => e.1 != q

/-- Change the value at a key, starting from a default. -/
def mapUpd {α : Type} (m : NMap α) (k : Nat) (d : α) (f : α → α) : NMap α := mapSet m k (f (mapGetD m k d))

/-! ### Byte memory: addresses strictly rising, no entry zero (an unlisted byte reads 0, log entries 4 and 5) -/

/-- One byte. -/
def memRead : List Host.Cell → Nat → Byte
  | [], _ => 0
  | (k, v) :: t, a => if k = a then v else memRead t a

/-- Write one byte, keeping the canonical form: a zero is not listed. -/
def memWrite : List Host.Cell → Nat → Byte → List Host.Cell
  | [], a, b => if b = 0 then [] else [(a, b)]
  | (k, v) :: t, a, b =>
    if a < k then (if b = 0 then (k, v) :: t else (a, b) :: (k, v) :: t)
    else if a = k then (if b = 0 then t else (a, b) :: t)
    else (k, v) :: memWrite t a b

/-- Keys rise strictly from a bound and no listed byte is zero. -/
def memWfFrom : Nat → List Host.Cell → Bool
  | _, [] => true
  | lo, (k, v) :: t => decide (lo ≤ k) && (v != 0) && memWfFrom (k + 1) t

/-- The canonical form of a byte memory. -/
def memWf (m : List Host.Cell) : Bool := memWfFrom 0 m

/-- n bytes from an address. -/
def memReadN (m : List Host.Cell) (a : Nat) : Nat → List Byte
  | 0 => []
  | n + 1 => memRead m a :: memReadN m (a + 1) n

/-- Write bytes from an address. -/
def memWriteN (m : List Host.Cell) (a : Nat) : List Byte → List Host.Cell
  | [] => m
  | b :: bs => memWriteN (memWrite m a b) (a + 1) bs

/-! ### Bits and bytes -/

/-- Bits hi down to lo of a number. -/
def bits (v hi lo : Nat) : Nat := (v >>> lo) % 2 ^ (hi + 1 - lo)

/-- Bit i of a number. -/
def bit (v i : Nat) : Bool := v.testBit i

/-- A number with bits hi down to lo replaced. -/
def setBits (v hi lo x : Nat) : Nat :=
  (v >>> (hi + 1)) <<< (hi + 1) + (x % 2 ^ (hi + 1 - lo)) <<< lo + v % 2 ^ lo

/-- 0 or 1. -/
def b2n (b : Bool) : Nat := if b then 1 else 0

/-- The nearer limit (fields whose values outside a range act as the nearer limit). -/
def clampN (lo hi v : Nat) : Nat := max lo (min hi v)

/-- Counters saturate at 0xFFFF_FFFF. -/
def sat32 (v : Nat) : Nat := min v 0xFFFFFFFF

/-- Bytes of a number, least significant first (R3). -/
def toLe : Nat → Nat → List Byte
  | 0, _ => []
  | n + 1, v => BitVec.ofNat 8 v :: toLe n (v / 256)

/-- The number bytes hold, least significant first (R3). -/
def leNat : List Byte → Nat
  | [] => 0
  | b :: bs => b.toNat + 256 * leNat bs

/-- n bytes of a byte string from an offset, zero beyond its end. -/
def bytesAt (bs : List Byte) (off n : Nat) : List Byte :=
  let t := (bs.drop off).take n
  t ++ List.replicate (n - t.length) 0

/-- The number in n bytes of a byte string at an offset (R3). -/
def leAt (bs : List Byte) (off n : Nat) : Nat := leNat (bytesAt bs off n)

/-- Put bytes into a byte string at an offset. -/
def putBytes (bs : List Byte) (off : Nat) (x : List Byte) : List Byte :=
  bytesAt bs 0 off ++ x ++ bs.drop (off + x.length)

/-- n zero bytes. -/
def zeros (n : Nat) : List Byte := List.replicate n 0

/-- The set bits of a mask below n, rising. -/
def maskBits (n v : Nat) : List Nat := (List.range n).filter fun i => v.testBit i

/-- The mask of a list of bit numbers. -/
def toMask (l : List Nat) : Nat := l.foldl (fun m i => m ||| 1 <<< i) 0

/-- Number of set bits below n. -/
def popCount (n v : Nat) : Nat := (maskBits n v).length

/-- A quotient rounded up. -/
def ceilDiv (a b : Nat) : Nat := (a + b - 1) / b

/-- Sum of a list. -/
def sumN (l : List Nat) : Nat := l.foldl (· + ·) 0

/-- Largest of a list, 0 if empty. -/
def maxN (l : List Nat) : Nat := l.foldl max 0

/-- The element with the least key, the first of equals. -/
def minBy {α : Type} (key : α → Nat) : List α → Option α
  | [] => none
  | x :: t => match minBy key t with
    | none => some x
    | some y => if key y < key x then some y else some x

/-- Low w bits of an integer (two's complement). -/
def intBits (w : Nat) (i : Int) : Nat := (i % (2 ^ w : Nat)).toNat

/-- The integer low w bits hold in two's complement. -/
def signExt (w v : Nat) : Int := if v.testBit (w - 1) then (v % 2 ^ w : Nat) - (2 ^ w : Nat) else (v % 2 ^ w : Nat)

/-! ### CRC-32C (R39) -/

/-- Eight steps of the reflected Castagnoli polynomial. -/
def crcShift : Nat → Nat → Nat
  | 0, c => c
  | n + 1, c => crcShift n (if c % 2 = 1 then (c / 2) ^^^ 0x82F63B78 else c / 2)

/-- CRC-32C of bytes. -/
def crc32c (bs : List Byte) : Nat :=
  (bs.foldl (fun c b => crcShift 8 (c ^^^ b.toNat)) 0xFFFFFFFF) ^^^ 0xFFFFFFFF

/-! ### GF(2^8) with reduction polynomial 0x11D (R52) -/

/-- Multiplication by x. -/
def gfX (a : Nat) : Nat := if a < 128 then 2 * a else (2 * a) ^^^ 0x11D

/-- Product, n bits of b. -/
def gfMulN : Nat → Nat → Nat → Nat
  | 0, _, _ => 0
  | n + 1, a, b => (if b % 2 = 1 then a else 0) ^^^ gfMulN n (gfX a) (b / 2)

/-- Product. -/
def gfMul (a b : Nat) : Nat := gfMulN 8 a b

/-- a to the power n by repeated squaring over k bits of n. -/
def gfPow : Nat → Nat → Nat → Nat
  | 0, _, _ => 1
  | k + 1, a, n => gfMul (if n % 2 = 1 then a else 1) (gfPow k (gfMul a a) (n / 2))

/-- Inverse: a^254. -/
def gfInv (a : Nat) : Nat := gfPow 8 a 254

/-- Coefficient of data chunk i in parity j (R52). -/
def gfCoef (j i : Nat) : Nat := gfMul (gfInv (j ^^^ (4 + i))) (4 + i)

/-- A byte string times a constant. -/
def gfScale (c : Nat) (bs : List Byte) : List Byte := bs.map fun b => BitVec.ofNat 8 (gfMul c b.toNat)

/-- XOR of two byte strings, the shorter taken as zero-filled. -/
def xorBytes : List Byte → List Byte → List Byte
  | [], b => b
  | a, [] => a
  | x :: a, y :: b => (x ^^^ y) :: xorBytes a b

/-- XOR of a list of byte strings. -/
def xorAll (l : List (List Byte)) : List Byte := l.foldl xorBytes []

/-! ### SHA-256 (FIPS 180-4) and HMAC (RFC 2104), named by R360. Words are numbers below 2^32. -/

/-- The first 64 primes: up to 311, no number needs a divisor above 17. -/
def shaPrimes : List Nat := (List.range 312).filter fun n => decide (2 ≤ n) && [2, 3, 5, 7, 11, 13, 17].all fun d => n == d || n % d != 0

/-- Round constants: 32 bits of the fraction of the cube root of each prime. -/
def shaCube : List Nat := shaPrimes.map fun p => icbrtFrom (p * 2 ^ 96) 36 0 % 2 ^ 32

/-- Initial hash value: 32 bits of the fraction of the square root of the first eight primes. -/
def shaRoot : List Nat := (shaPrimes.take 8).map fun p => isqrtFrom (p * 2 ^ 64) 40 0 % 2 ^ 32

/-- A word turned right by n bits. -/
def turn32 (n x : Nat) : Nat := x / 2 ^ n + x % 2 ^ n * 2 ^ (32 - n)

/-- Exclusive or of a word turned by two amounts, and of a third form of it. -/
def mix32 (a b : Nat) (f : Nat → Nat) (x : Nat) : Nat := turn32 a x ^^^ turn32 b x ^^^ f x

/-- The schedule, newest word first, extended by n words. -/
def shaExtend : Nat → List Nat → List Nat
  | 0, w => w
  | n + 1, w => shaExtend n
      ((w.getD 15 0 + mix32 7 18 (· / 2 ^ 3) (w.getD 14 0) + w.getD 6 0 + mix32 17 19 (· / 2 ^ 10) (w.getD 1 0)) % 2 ^ 32 :: w)

/-- Eight working words. -/
structure ShaState where
  a : Nat
  b : Nat
  c : Nat
  d : Nat
  e : Nat
  f : Nat
  g : Nat
  h : Nat
deriving DecidableEq, Repr

def ShaState.words (v : ShaState) : List Nat := [v.a, v.b, v.c, v.d, v.e, v.f, v.g, v.h]
def ShaState.ofWords (w : List Nat) : ShaState :=
  ⟨w.getD 0 0, w.getD 1 0, w.getD 2 0, w.getD 3 0, w.getD 4 0, w.getD 5 0, w.getD 6 0, w.getD 7 0⟩

/-- One round with the sum of its constant and its word. Choice: f where e has a one, else g; majority of a, b and c. -/
def ShaState.round (v : ShaState) (kw : Nat) : ShaState :=
  let choice := (v.f ^^^ v.g) &&& v.e ^^^ v.g
  let major := (v.a ||| v.b) &&& v.c ||| v.a &&& v.b
  let t := v.h + mix32 6 11 (turn32 25) v.e + choice + kw
  { a := (t + mix32 2 13 (turn32 22) v.a + major) % 2 ^ 32, b := v.a, c := v.b, d := v.c
    e := (v.d + t) % 2 ^ 32, f := v.e, g := v.f, h := v.g }

/-- The hash value after a 64-byte block. -/
def shaAbsorb (hash : List Nat) (blk : List Byte) : List Nat :=
  let first := (List.range 16).map fun i => leNat (bytesAt blk (4 * i) 4).reverse
  let sched := (shaExtend 48 first.reverse).reverse
  let out := (List.zipWith (· + ·) shaCube sched).foldl ShaState.round (.ofWords hash)
  List.zipWith (fun x y => (x + y) % 2 ^ 32) hash out.words

/-- SHA-256: a one bit, zeros, and the length in bits as 64 bits big-endian fill the last block. -/
def sha256 (m : List Byte) : List Byte :=
  let p := m ++ [0x80] ++ zeros ((119 - m.length % 64) % 64) ++ (toLe 8 (8 * m.length)).reverse
  let hash := (List.range (p.length / 64)).foldl (fun h i => shaAbsorb h (bytesAt p (64 * i) 64)) shaRoot
  hash.flatMap fun w => (toLe 4 w).reverse

/-- HMAC-SHA-256 with a key of at most 64 bytes. -/
def hmacSha256 (key msg : List Byte) : List Byte :=
  let k := bytesAt key 0 64
  let pad := fun (x : Byte) => k.map fun b => b ^^^ x
  sha256 (pad 0x5C ++ sha256 (pad 0x36 ++ msg))

end Sys2Proof.Machine
end

