-- ==== Sys2Proof/Machine/Flags.lean ====
section
/-! DEFINITION. The codes that completions, notices and events carry: statuses (Table 15-7), completion flags (Table 15-2),
severities (Table 16-8) and the ranks of the raising units (Table 14-6). -/

namespace Sys2Proof.Machine

/-! ### Status codes, Table 15-7 -/
def St.success : Nat := 0x00
def St.invalidEntry : Nat := 0x01
def St.invalidOpcode : Nat := 0x02
def St.invalidField : Nat := 0x03
def St.notReady : Nat := 0x04
def St.modeRefused : Nat := 0x05
def St.busy : Nat := 0x06
def St.invalidVolume : Nat := 0x07
def St.invalidStream : Nat := 0x08
def St.classMismatch : Nat := 0x09
def St.lbaRange : Nat := 0x0A
def St.arrayOffline : Nat := 0x0B
def St.lostData : Nat := 0x10
def St.logFull : Nat := 0x11
def St.bufferTooSmall : Nat := 0x12
def St.dataTransferError : Nat := 0x13
def St.limit : Nat := 0x14
def St.memberAbsent : Nat := 0x15
def St.memberUnsuitable : Nat := 0x16
def St.noSpace : Nat := 0x17
def St.inUse : Nat := 0x18
def St.arrayIncomplete : Nat := 0x19
def St.authFailed : Nat := 0x1A
def St.imageInvalid : Nat := 0x1B
def St.aborted : Nat := 0x1C
def St.internal : Nat := 0x1D

/-! ### Completion flags, byte 0x0F of Table 15-2 -/
def Cf.skipped : Nat := 1
def Cf.gap : Nat := 2
def Cf.truncated : Nat := 4
def Cf.writeThrough : Nat := 8
def Cf.notice : Nat := 16

/-! ### Severities, Table 16-8 -/
def Sev.info : Nat := 0
def Sev.notice : Nat := 1
def Sev.warning : Nat := 2
def Sev.fault : Nat := 3
def Sev.critical : Nat := 4
def Sev.audit : Nat := 5

/-! ### Ranks of the units, Table 14-6 -/
def Rank.hamper : Nat := 0
def Rank.supply : Nat := 1
def Rank.millwheel : Nat := 2
def Rank.tally : Nat := 3
def Rank.gauge : Nat := 4
def Rank.ledger : Nat := 5
def Rank.mender : Nat := 6
def Rank.reeve : Nat := 7
def Rank.loom (ctx : Nat) : Nat := 8 + ctx
def Rank.quad (port : Nat) : Nat := 16 + port / 4
def Rank.larder (n : Nat) : Nat := 24 + n % 4
def Rank.packer : Nat := 28
def Rank.stateCache : Nat := 29
def Rank.ringEngine : Nat := 30
def Rank.hostPort : Nat := 31

end Sys2Proof.Machine
end

