-- ==== Sys2Proof/Machine/Operands.lean ====
section
/-! DEFINITION. The operands of a command: the fields of a submission entry (Table 15-1), the host buffer it names (R338),
ring positions in the form of Table 14-2 and the marking modes (Tables 14-1, 14-2). -/

namespace Sys2Proof.Machine

/-! ### Submission entry, Table 15-1 -/
def Ent.opc (e : List Byte) : Nat := leAt e 0x00 1
def Ent.flags (e : List Byte) : Nat := leAt e 0x01 1
def Ent.sgl (e : List Byte) : Bool := bit (Ent.flags e) 0
def Ent.cid (e : List Byte) : Nat := leAt e 0x02 2
def Ent.tgt (e : List Byte) : Nat := leAt e 0x04 2
def Ent.nseg (e : List Byte) : Nat := leAt e 0x06 2
def Ent.dptr (e : List Byte) : Nat := leAt e 0x08 8
def Ent.p0 (e : List Byte) : Nat := leAt e 0x10 8
def Ent.p1 (e : List Byte) : Nat := leAt e 0x18 4
def Ent.p2 (e : List Byte) : Nat := leAt e 0x1C 4
def Ent.p3 (e : List Byte) : List Byte := bytesAt e 0x20 28
/-- Bytes 0x3C to 0x3E and the low bits of byte 0x3F are reserved. -/
def Ent.tail (e : List Byte) : Nat := leAt e 0x3C 3 + leAt e 0x3F 1 % 128
/-- The marking bit (R316). -/
def Ent.own (e : List Byte) : Bool := bit (leAt e 0x3F 1) 7

/-! ### Host buffers, R338 -/

/-- Segments of a list: 16 bytes each, address then length; the last four bytes are reserved. -/
def parseSegs (bs : List Byte) : Nat → List (Nat × Nat)
  | 0 => []
  | n + 1 => (leAt bs 0 8, leAt bs 8 4) :: parseSegs (bs.drop 16) n

/-- Reserved bytes of every segment are zero and every length is at least 1. -/
def segsOk (bs : List Byte) : Nat → Bool
  | 0 => true
  | n + 1 => decide (leAt bs 8 4 ≥ 1) && leAt bs 12 4 == 0 && segsOk (bs.drop 16) n

/-- Total length of a buffer. -/
def segsLen (l : List (Nat × Nat)) : Nat := sumN (l.map (·.2))

/-- The part of a buffer from byte off, len bytes long, as contiguous pieces. -/
def segSlice : List (Nat × Nat) → Nat → Nat → List (Nat × Nat)
  | [], _, _ => []
  | (a, n) :: t, off, len =>
    if len = 0 then []
    else if off ≥ n then segSlice t (off - n) len
    else
      let k := min (n - off) len
      (a + off, k) :: segSlice t 0 (len - k)

/-! ### Ring positions, Table 14-2 and R313 -/

/-- Extended position of a doorbell value in a ring of n entries. -/
def posExt (n v : Nat) : Nat := (v / 65536 % 2 * n + v % 65536) % (2 * n)

/-- Table 14-2 form of an extended position. -/
def posOf (n x : Nat) : Nat := x % (2 * n) / n * 65536 + x % (2 * n) % n

/-- Distance from a to b in extended positions. -/
def posDiff (n a b : Nat) : Nat := (posExt n b + 2 * n - posExt n a) % (2 * n)

/-- A position moved forward. -/
def posAdd (n v d : Nat) : Nat := posOf n (posExt n v + d)

/-- INDEX of a position. -/
def posIdx (v : Nat) : Nat := v % 65536

/-- LAP of a position. -/
def posLap (v : Nat) : Nat := v / 65536 % 2

/-- Is the INDEX of a doorbell value in range (R313)? -/
def posValid (n v : Nat) : Bool := decide (v % 65536 < n)

/-- Ownership mode: rings of 8,192 entries or more (Table 14-1). -/
def ownMode (n : Nat) : Bool := decide (n > 4096)

end Sys2Proof.Machine
end

