-- ==== Sys2Proof/Machine/RegMap.lean ====
section
/-! DEFINITION. The register map (R390 to R392, Tables 18-1 to 18-6): every register with its field types and reset values,
keyed by its PF1 BAR0 offset, or by its PF0 BAR0 offset plus 0x10_0000. -/

namespace Sys2Proof.Machine

/-- Field types of Table 00-2. -/
inductive RTy where
  | ro | rw | wo | w1c | w1s | kw
deriving DecidableEq, Repr

/-- Reset domains of Table 00-3. -/
inductive RDom where
  | por | chip | host | func | keep
deriving DecidableEq, Repr

/-- A field: its bits, type and reset value. -/
structure RField where
  hi : Nat
  lo : Nat
  ty : RTy
  rst : Nat
deriving DecidableEq, Repr

/-- A register or an indexed family of registers: n1 copies s1 apart, each of n2 copies s2 apart. -/
structure RegDesc where
  base : Nat
  n1 : Nat
  s1 : Nat
  n2 : Nat
  s2 : Nat
  dom : RDom
  fields : List RField
deriving DecidableEq, Repr

def Reg.LN_SPEED : Nat := 0x15000
def Reg.LN_MON (n : Nat) : Nat := 0x15010 + 4 * n
def Reg.ST_FREE : Nat := 0x8000
def Reg.ST_FREE_RUN : Nat := 0x8004
def Reg.ST_LAYOUT : Nat := 0x8008
def Reg.ST_EIDX : Nat := 0x8010
def Reg.ST_EDATA : Nat := 0x8014
def Reg.ST_TAG_CRC : Nat := 0x8020
def Reg.ST_TAG_PLACE : Nat := 0x8024
def Reg.ST_TAG_STALE : Nat := 0x8028
def Reg.ST_ACFG (n : Nat) : Nat := 0x8100 + 64 * n
def Reg.ST_ABASE (n : Nat) : Nat := 0x8104 + 64 * n
def Reg.ST_ACOUNT (n : Nat) : Nat := 0x8108 + 64 * n
def Reg.ST_AEPOCH (n : Nat) : Nat := 0x810C + 64 * n
def Reg.ST_AFAIL (n : Nat) : Nat := 0x8110 + 64 * n
def Reg.ST_ALOST (n : Nat) : Nat := 0x8114 + 64 * n
def Reg.ST_ARESYNC (n : Nat) : Nat := 0x8118 + 64 * n
def Reg.ST_APOS (a m : Nat) : Nat := 0x8120 + 64 * a + 4 * m
def Reg.ST_SPARE (n : Nat) : Nat := 0x8200 + 4 * n
def Reg.ST_VSEL : Nat := 0x8400
def Reg.ST_VCFG : Nat := 0x8404
def Reg.ST_VBASE : Nat := 0x8408
def Reg.ST_VCOUNT : Nat := 0x840C
def Reg.LM_CTRL : Nat := 0x9000
def Reg.LM_STATUS : Nat := 0x9004
def Reg.LM_AGE : Nat := 0x9008
def Reg.LM_QSTAT (n : Nat) : Nat := 0x9010 + 4 * n
def Reg.LM_JOBS (n : Nat) : Nat := 0x9020 + 4 * n
def Reg.LM_INBYTES_LO : Nat := 0x9030
def Reg.LM_INBYTES_HI : Nat := 0x9034
def Reg.LM_MISMATCH : Nat := 0x9040
def Reg.LM_LOCATED : Nat := 0x9044
def Reg.LM_UNLOC : Nat := 0x9048
def Reg.LM_SRC_ECC : Nat := 0x904C
def Reg.LM_DP_ERR : Nat := 0x9050
def Reg.LM_BADDESC : Nat := 0x9054
def Reg.LM_COEF_CRC : Nat := 0x9058
def Reg.LM_TJOB_LO : Nat := 0x9060
def Reg.LM_TJOB_HI : Nat := 0x9064
def Reg.LM_TJOB_GO : Nat := 0x9068
def Reg.LM_TJOB_STAT : Nat := 0x906C
def Reg.LD_CTRL : Nat := 0x6000
def Reg.LD_STATUS : Nat := 0x6004
def Reg.LD_IDLE : Nat := 0x6008
def Reg.LD_AGE : Nat := 0x600C
def Reg.LD_PRESSURE : Nat := 0x6010
def Reg.LD_DCTL : Nat := 0x6014
def Reg.LD_DIRTY_LO : Nat := 0x6020
def Reg.LD_DIRTY_HI : Nat := 0x6024
def Reg.LD_HELD_LO : Nat := 0x6028
def Reg.LD_HELD_HI : Nat := 0x602C
def Reg.LD_FREE : Nat := 0x6030
def Reg.LD_DESC_FREE : Nat := 0x6034
def Reg.LD_FRAMES : Nat := 0x6038
def Reg.LD_PARKED : Nat := 0x603C
def Reg.LD_DST_FULL : Nat := 0x6040
def Reg.LD_DST_PARTIAL : Nat := 0x6044
def Reg.LD_DST_WT : Nat := 0x6048
def Reg.LD_FILL_BLOCKS : Nat := 0x604C
def Reg.LD_SUCC : Nat := 0x6050
def Reg.LD_SLOT_WAITS : Nat := 0x6054
def Reg.LD_HITS : Nat := 0x6058
def Reg.LD_MISSES : Nat := 0x605C
def Reg.LD_PROBE_SEL : Nat := 0x6080
def Reg.LD_PROBE_BLK_LO : Nat := 0x6084
def Reg.LD_PROBE_BLK_HI : Nat := 0x6088
def Reg.LD_PROBE : Nat := 0x608C
def Reg.LD_PROBE_ADDR_LO : Nat := 0x6090
def Reg.LD_PROBE_ADDR_HI : Nat := 0x6094
def Reg.SC_CTRL : Nat := 0x7000
def Reg.SC_STATUS : Nat := 0x7004
def Reg.SC_HIT : Nat := 0x7010
def Reg.SC_MISS : Nat := 0x7014
def Reg.SC_MERGED : Nat := 0x7018
def Reg.SC_EVWAIT : Nat := 0x701C
def Reg.SC_PF_ISSUED : Nat := 0x7020
def Reg.SC_PF_USED : Nat := 0x7024
def Reg.SC_ECC_CORR : Nat := 0x7028
def Reg.SC_ECC_UNCORR : Nat := 0x702C
def Reg.SC_TAG_PAR : Nat := 0x7030
def Reg.SC_LFSR : Nat := 0x7040
def Reg.LG_STATUS : Nat := 0xA000
def Reg.LG_HEAD_LO : Nat := 0xA008
def Reg.LG_HEAD_HI : Nat := 0xA00C
def Reg.LG_TAIL_LO : Nat := 0xA010
def Reg.LG_TAIL_HI : Nat := 0xA014
def Reg.LG_LIVE : Nat := 0xA020
def Reg.LG_HIWAT : Nat := 0xA024
def Reg.LG_ACOPY (n : Nat) : Nat := 0xA040 + 4 * n
def Reg.LG_RING_WAITS : Nat := 0xA060
def Reg.LG_MOVES : Nat := 0xA064
def Reg.LG_CPY_ERR : Nat := 0xA068
def Reg.LG_TORN : Nat := 0xA06C
def Reg.LG_RP_READ : Nat := 0xA080
def Reg.LG_RP_RESYNC : Nat := 0xA084
def Reg.LG_RP_DEGRADED : Nat := 0xA088
def Reg.LG_RP_LOST : Nat := 0xA08C
def Reg.LG_RP_CLEAN : Nat := 0xA090
def Reg.SV_STATUS : Nat := 0x4800
def Reg.SV_BOOT : Nat := 0x4804
def Reg.SV_BOOT_T : Nat := 0x4808
def Reg.SV_VREADY (n : Nat) : Nat := 0x4810 + 4 * n
def Reg.SV_VSEL : Nat := 0x4840
def Reg.SV_VBOOT : Nat := 0x4844
def Reg.SV_LSEL : Nat := 0x4880
def Reg.SV_LCFG : Nat := 0x4884
def Reg.SV_LBASE : Nat := 0x4888
def Reg.SV_LCOUNT : Nat := 0x488C
def Reg.SV_LRECMAX : Nat := 0x4890
def Reg.SV_LRETAIN : Nat := 0x4894
def Reg.SV_LNEXT_LO : Nat := 0x4898
def Reg.SV_LNEXT_HI : Nat := 0x489C
def Reg.SV_LVIS_LO : Nat := 0x48A0
def Reg.SV_LVIS_HI : Nat := 0x48A4
def Reg.SV_LOLD_LO : Nat := 0x48A8
def Reg.SV_LOLD_HI : Nat := 0x48AC
def Reg.SV_LTRIM_LO : Nat := 0x48B0
def Reg.SV_LTRIM_HI : Nat := 0x48B4
def Reg.SV_LCUR : Nat := 0x48B8
def Reg.SV_APPENDS : Nat := 0x4900
def Reg.SV_APPEND_WT : Nat := 0x4904
def Reg.SV_LOG_FULL : Nat := 0x4908
def Reg.SV_VOIDS : Nat := 0x490C
def Reg.SV_RETAIN_BRK : Nat := 0x4910
def Reg.SV_CLASS_REJ : Nat := 0x4914
def Reg.SV_READ_TRUNC : Nat := 0x4918
def Reg.TL_CTRL : Nat := 0xF000
def Reg.TL_STATUS : Nat := 0xF004
def Reg.TL_CEIL_LO : Nat := 0xF008
def Reg.TL_CEIL_HI : Nat := 0xF00C
def Reg.TL_COMMIT_LO : Nat := 0xF010
def Reg.TL_COMMIT_HI : Nat := 0xF014
def Reg.TL_CEIL_MAX : Nat := 0xF018
def Reg.TL_WAIT : Nat := 0xF01C
def Reg.TL_EAVAIL : Nat := 0xF020
def Reg.TL_EWHEEL : Nat := 0xF024
def Reg.TL_EPACK : Nat := 0xF028
def Reg.TL_EBULK : Nat := 0xF02C
def Reg.TL_ENEED : Nat := 0xF030
def Reg.TL_EREQ : Nat := 0xF034
def Reg.TL_LRN_EBYTE : Nat := 0xF040
def Reg.TL_LRN_PBASE : Nat := 0xF044
def Reg.TL_LRN_TFIX : Nat := 0xF048
def Reg.TL_LRN_BMEM : Nat := 0xF04C
def Reg.TL_LRN_CORR : Nat := 0xF050
def Reg.TL_USE_EBYTE : Nat := 0xF060
def Reg.TL_USE_PBASE : Nat := 0xF064
def Reg.TL_USE_TFIX : Nat := 0xF068
def Reg.TL_USE_BDUMP : Nat := 0xF06C
def Reg.TL_USE_CORR : Nat := 0xF070
def Reg.TL_USE_MH : Nat := 0xF074
def Reg.TL_DECL_J : Nat := 0xF080
def Reg.TL_DECL_EBYTE : Nat := 0xF084
def Reg.TL_DECL_PBASE : Nat := 0xF088
def Reg.TL_DECL_ETA : Nat := 0xF08C
def Reg.TL_EBYTE_FLOOR : Nat := 0xF090
def Reg.TL_WHEEL_MIN : Nat := 0xF094
def Reg.TL_BULK : Nat := 0xF098
def Reg.TL_LD_PRED : Nat := 0xF0A0
def Reg.TL_LD_MEAS : Nat := 0xF0A4
def Reg.TL_LD_MIB : Nat := 0xF0A8
def Reg.TL_LD_MS : Nat := 0xF0AC
def Reg.TL_LD_K : Nat := 0xF0B0
def Reg.TL_GRANTS : Nat := 0xF0C0
def Reg.TL_WAITED : Nat := 0xF0C4
def Reg.TL_TIMEOUTS : Nat := 0xF0C8
def Reg.TL_REFUSED_NOW : Nat := 0xF0CC
def Reg.TL_OVER_EVENTS : Nat := 0xF0D0
def Reg.TL_WINDOWS : Nat := 0xF0D4
def Reg.TL_RELEARN : Nat := 0xF0E0
def Reg.HM_STATUS : Nat := 0xD000
def Reg.HM_DIR : Nat := 0xD008
def Reg.HM_IMAGE_LO : Nat := 0xD010
def Reg.HM_IMAGE_HI : Nat := 0xD014
def Reg.HM_DIRTY_LO : Nat := 0xD018
def Reg.HM_DIRTY_HI : Nat := 0xD01C
def Reg.HM_ROWS : Nat := 0xD020
def Reg.HM_FRAMES : Nat := 0xD024
def Reg.HM_PORTS : Nat := 0xD028
def Reg.HM_SEAL_US : Nat := 0xD02C
def Reg.HM_SKIPPED : Nat := 0xD030
def Reg.HM_RESUME : Nat := 0xD040
def Reg.HM_PROGRESS : Nat := 0xD050
def Reg.HM_REPAIRED : Nat := 0xD060
def Reg.HM_LOST_BLOCKS : Nat := 0xD064
def Reg.HM_SUPERSEDED : Nat := 0xD068
def Reg.HM_UNUSABLE : Nat := 0xD06C
def Reg.MW_CTRL : Nat := 0x10000
def Reg.MW_STATUS : Nat := 0x10004
def Reg.MW_CFG : Nat := 0x10008
def Reg.MW_ENC : Nat := 0x1000C
def Reg.MW_OFFSET : Nat := 0x10010
def Reg.MW_DEAD : Nat := 0x10014
def Reg.MW_VDIV : Nat := 0x10018
def Reg.MW_HUB_A : Nat := 0x10020
def Reg.MW_HUB_B : Nat := 0x10024
def Reg.MW_HUB_C : Nat := 0x10028
def Reg.MW_ITRIP : Nat := 0x1002C
def Reg.MW_TLIM_MOT : Nat := 0x10030
def Reg.MW_TLIM_GEN : Nat := 0x10034
def Reg.MW_PLIM : Nat := 0x10038
def Reg.MW_BANDS : Nat := 0x1003C
def Reg.MW_PSI : Nat := 0x10040
def Reg.MW_EST : Nat := 0x10044
def Reg.MW_SPDPI : Nat := 0x10048
def Reg.MW_HUBPI : Nat := 0x1004C
def Reg.MW_START : Nat := 0x10050
def Reg.MW_RPM_HANDOVER : Nat := 0x10054
def Reg.MW_RPM_CATCH : Nat := 0x10058
def Reg.MW_RPM_ALIGN : Nat := 0x1005C
def Reg.MW_RPM_MAX : Nat := 0x10060
def Reg.MW_RPM_GENSTOP : Nat := 0x10064
def Reg.MW_CATCH : Nat := 0x10068
def Reg.MW_LOCK : Nat := 0x1006C
def Reg.MW_SPD_CMD : Nat := 0x10070
def Reg.MW_ONOFF : Nat := 0x10074
def Reg.MW_CURVE (n : Nat) : Nat := 0x10080 + 4 * n
def Reg.MW_SPDIN : Nat := 0x100C0
def Reg.MW_SPDIN_LO : Nat := 0x100C4
def Reg.MW_SPDIN_HI : Nat := 0x100C8
def Reg.MW_SPDIN_OFF : Nat := 0x100CC
def Reg.MW_SPEED : Nat := 0x10100
def Reg.MW_TORQUE : Nat := 0x10108
def Reg.MW_ANGLE : Nat := 0x10104
def Reg.MW_PSI_EST : Nat := 0x1010C
def Reg.MW_HUB : Nat := 0x10110
def Reg.MW_BEMF : Nat := 0x10118
def Reg.MW_TARGET : Nat := 0x10114
def Reg.MW_TRIP_PH : Nat := 0x10120
def Reg.MW_TRIP_DC : Nat := 0x10124
def Reg.MW_STARTS : Nat := 0x10128
def Reg.MW_CATCHES : Nat := 0x1012C
def Reg.MW_LOCKS : Nat := 0x10130
def Reg.MW_SHORTS : Nat := 0x10134
def Reg.MW_CHOP_MS : Nat := 0x10138
def Reg.MW_COMM : Nat := 0x10140
def Reg.MW_COMM_ACC : Nat := 0x10144
def Reg.MW_C_STATUS : Nat := 0x10150
def Reg.MW_C_J : Nat := 0x10154
def Reg.MW_C_ETA : Nat := 0x10158
def Reg.MW_C_PSI : Nat := 0x1015C
def Reg.MW_C_LOSS0 : Nat := 0x10160
def Reg.MW_C_LOSS1 : Nat := 0x10164
def Reg.MW_C_LOSS2 : Nat := 0x10168
def Reg.GA_CTRL : Nat := 0x11000
def Reg.GA_STATUS : Nat := 0x11004
def Reg.GA_ID (n : Nat) : Nat := 0x11010 + 4 * n
def Reg.GA_VLIM : Nat := 0x11030
def Reg.GA_TLIM : Nat := 0x11034
def Reg.GA_SHUNT : Nat := 0x11038
def Reg.GA_GAIN : Nat := 0x1103C
def Reg.GA_DEADBAND : Nat := 0x11040
def Reg.GA_DUMP : Nat := 0x11044
def Reg.GA_WB_MIN : Nat := 0x11048
def Reg.GA_VDIV : Nat := 0x1104C
def Reg.GA_RSTEP : Nat := 0x11050
def Reg.GA_CURRENT : Nat := 0x11100
def Reg.GA_COUNT : Nat := 0x11110
def Reg.GA_QV : Nat := 0x11114
def Reg.GA_VPACK : Nat := 0x11104
def Reg.GA_VOC : Nat := 0x11108
def Reg.GA_TEMP : Nat := 0x1110C
def Reg.GA_CAP : Nat := 0x11118
def Reg.GA_RINT : Nat := 0x1111C
def Reg.GA_EPACK : Nat := 0x11120
def Reg.GA_EDUMP : Nat := 0x11124
def Reg.GA_REC_SEQ_LO : Nat := 0x11130
def Reg.GA_REC_SEQ_HI : Nat := 0x11134
def Reg.GA_INSERTS : Nat := 0x11140
def Reg.GA_REMOVALS : Nat := 0x11144
def Reg.GA_LEARNS : Nat := 0x11148
def Reg.GA_DISAGREES : Nat := 0x1114C
def Reg.GA_WRITEBACKS : Nat := 0x11150
def Reg.MD_CTRL : Nat := 0xC000
def Reg.MD_STATUS : Nat := 0xC004
def Reg.MD_CFG : Nat := 0xC008
def Reg.MD_SCRUB : Nat := 0xC00C
def Reg.MD_MBW : Nat := 0xC010
def Reg.MD_FAIL : Nat := 0xC014
def Reg.MD_DEPTH : Nat := 0xC018
def Reg.MD_LASTFAIL : Nat := 0xC01C
def Reg.MD_RBMASK (n : Nat) : Nat := 0xC100 + 64 * n
def Reg.MD_RBNEXT (n : Nat) : Nat := 0xC104 + 64 * n
def Reg.MD_RBLEFT (n : Nat) : Nat := 0xC108 + 64 * n
def Reg.MD_SCNEXT (n : Nat) : Nat := 0xC10C + 64 * n
def Reg.MD_SCPASS (n : Nat) : Nat := 0xC110 + 64 * n
def Reg.MD_OFF (n : Nat) : Nat := 0xC114 + 64 * n
def Reg.MD_RB_CHUNKS : Nat := 0xC200
def Reg.MD_REPAIRS : Nat := 0xC204
def Reg.MD_RESYNCS : Nat := 0xC208
def Reg.MD_SC_STRIPES : Nat := 0xC20C
def Reg.MD_SC_LOCATED : Nat := 0xC210
def Reg.MD_SC_UNLOC : Nat := 0xC214
def Reg.MD_K2_UNCONF : Nat := 0xC218
def Reg.MD_REPQ_DROP : Nat := 0xC21C
def Reg.MD_MEMBER_FAILS : Nat := 0xC220
def Reg.MP_STATUS : Nat := 0xB000
def Reg.MP_READY : Nat := 0xB004
def Reg.MP_PRESENT : Nat := 0xB008
def Reg.MP_QUAD (n : Nat) : Nat := 0xB010 + 4 * n
def Reg.MP_QSTAT : Nat := 0xB030
def Reg.MP_TIMING : Nat := 0xB040
def Reg.MP_CFG : Nat := 0xB044
def Reg.MP_HP : Nat := 0xB048
def Reg.MP_SB_IN (n : Nat) : Nat := 0xB050 + 8 * n
def Reg.MP_SB_OUT (n : Nat) : Nat := 0xB054 + 8 * n
def Reg.MP_VDL_SEL : Nat := 0xB060
def Reg.MP_VDL : Nat := 0xB064
def Reg.MP_LOCATE : Nat := 0xB070
def Reg.MP_P_STATE (n : Nat) : Nat := 0xB400 + 32 * n
def Reg.MP_P_OUT (n : Nat) : Nat := 0xB404 + 32 * n
def Reg.MP_P_RDERR (n : Nat) : Nat := 0xB408 + 32 * n
def Reg.MP_P_WRERR (n : Nat) : Nat := 0xB40C + 32 * n
def Reg.MP_P_TMO (n : Nat) : Nat := 0xB410 + 32 * n
def Reg.MP_P_LATE (n : Nat) : Nat := 0xB414 + 32 * n
def Reg.MP_P_DLEXP (n : Nat) : Nat := 0xB418 + 32 * n
def Reg.MP_P_RETRAINS (n : Nat) : Nat := 0xB41C + 32 * n
def Reg.HP_STATUS : Nat := 0x2000
def Reg.HP_FREEZE : Nat := 0x2004
def Reg.HP_FRZ_CFG : Nat := 0x2008
def Reg.HP_BAR2CFG : Nat := 0x200C
def Reg.HP_SUBSYS : Nat := 0x2010
def Reg.HP_LTR : Nat := 0x2014
def Reg.HP_KVIEW : Nat := 0x2018
def Reg.HP_NP : Nat := 0x2020
def Reg.HP_CTO : Nat := 0x2040
def Reg.HP_LATE : Nat := 0x2044
def Reg.HP_POISON : Nat := 0x2048
def Reg.HP_URCA : Nat := 0x204C
def Reg.HP_BADACC : Nat := 0x2050
def Reg.HP_DROP_FRZ : Nat := 0x2054
def Reg.HP_FLR : Nat := 0x2058
def Reg.HP_LINKDOWN : Nat := 0x205C
def Reg.HP_PME : Nat := 0x2060
def Reg.WT_STATUS : Nat := 0x3000
def Reg.WT_MISS : Nat := 0x3010
def Reg.WT_DENY : Nat := 0x3014
def Reg.WT_ECC : Nat := 0x3018
def Reg.WT_E_CTRL (n : Nat) : Nat := 0x3100 + 16 * n
def Reg.WT_E_BASE (n : Nat) : Nat := 0x3104 + 16 * n
def Reg.WT_E_TGT_LO (n : Nat) : Nat := 0x3108 + 16 * n
def Reg.WT_E_TGT_HI (n : Nat) : Nat := 0x310C + 16 * n
def Reg.BK_INL_STATUS : Nat := 0x15100
def Reg.BK_COL_STATUS : Nat := 0x15104
def Reg.BK_STALE : Nat := 0x15110
def Reg.BK_STALL_T : Nat := 0x15114
def Reg.BK_ISEL : Nat := 0x15120
def Reg.BK_IDATA : Nat := 0x15124
def Reg.BK_INL_OVERRUNS : Nat := 0x15140
def Reg.BK_INL_STALES : Nat := 0x15144
def Reg.BK_INL_SUPERSEDED : Nat := 0x15148
def Reg.BK_COL_PROMOTED : Nat := 0x1514C
def Reg.BK_COL_SETASIDE : Nat := 0x15150
def Reg.BK_COL_STALLS : Nat := 0x15154
def Reg.KP_STATUS : Nat := 0xE000
def Reg.KP_WSEL : Nat := 0xE004
def Reg.KP_WEAR_LO : Nat := 0xE008
def Reg.KP_WEAR_HI : Nat := 0xE00C
def Reg.KP_WARN (n : Nat) : Nat := 0xE010 + 4 * n
def Reg.KP_NONCE_CTR_LO : Nat := 0xE030
def Reg.KP_NONCE_CTR_HI : Nat := 0xE034
def Reg.KP_CORR : Nat := 0xE040
def Reg.KP_UNCORR : Nat := 0xE044
def Reg.KP_INHIBIT : Nat := 0xE048
def Reg.KP_SKIPPED : Nat := 0xE04C
def Reg.AL_STATUS : Nat := 0x13000
def Reg.AL_SEQ_LO : Nat := 0x13008
def Reg.AL_SEQ_HI : Nat := 0x1300C
def Reg.AL_FOUND : Nat := 0x13010
def Reg.AL_RSEL : Nat := 0x13020
def Reg.AL_RSTAT : Nat := 0x13024
def Reg.AL_MGT : Nat := 0x13028
def Reg.AL_DROPPED : Nat := 0x13040
def Reg.AL_TORN : Nat := 0x13044
def Reg.AL_REPEATS : Nat := 0x13048
def Reg.AL_CLEARS : Nat := 0x1304C
def Reg.AL_RECORDS : Nat := 0x13050
def Reg.SS_STATUS : Nat := 0x12000
def Reg.SS_PFD : Nat := 0x12004
def Reg.SS_VCORE : Nat := 0x12008
def Reg.SS_SENSE : Nat := 0x1200C
def Reg.SS_VIN : Nat := 0x12010
def Reg.SS_IIN : Nat := 0x12014
def Reg.SS_VDDC : Nat := 0x12018
def Reg.SS_TJ : Nat := 0x1201C
def Reg.SS_PIN : Nat := 0x12020
def Reg.SS_EIN : Nat := 0x12024
def Reg.SS_THERM : Nat := 0x12028
def Reg.SS_TSAVE_LO : Nat := 0x12030
def Reg.SS_TSAVE_HI : Nat := 0x12034
def Reg.SS_PFDS : Nat := 0x12040
def Reg.SS_DROOPS : Nat := 0x12044
def Reg.SS_DUMPONLY : Nat := 0x12048
def Reg.SS_CORE_RESETS : Nat := 0x1204C
def Reg.SS_CLKLOSS : Nat := 0x12050
def Reg.SP_CFG : Nat := 0x14000
def Reg.SP_STATUS : Nat := 0x14004
def Reg.SP_NEXT_US : Nat := 0x14008
def Reg.SP_HOST_US : Nat := 0x1400C
def Reg.SP_RES_A0 : Nat := 0x14020
def Reg.SP_RES_A1 : Nat := 0x14024
def Reg.SP_RES_A2 : Nat := 0x14028
def Reg.SP_RES_A3 : Nat := 0x1402C
def Reg.SP_WAKES : Nat := 0x14030
def Reg.DC_STATUS : Nat := 0x6800
def Reg.DC_RETRAIN : Nat := 0x6804
def Reg.DC_ECC_CORR : Nat := 0x6810
def Reg.DC_ECC_UNCORR : Nat := 0x6814
def Reg.DC_RETRAINS : Nat := 0x6818
def Reg.RV_MODE : Nat := 0x1000
def Reg.RV_FW : Nat := 0x1004
def Reg.RV_FW_SRC : Nat := 0x1008
def Reg.RV_STARTUP : Nat := 0x1010
def Reg.RV_ST_TIME : Nat := 0x1014
def Reg.TD_ID : Nat := 0x16000
def Reg.TD_CTRL : Nat := 0x16004
def Reg.TD_UART : Nat := 0x16008
def Reg.TD_SCAN_SEL : Nat := 0x16010
def Reg.TD_SCAN_DATA : Nat := 0x16014
def Reg.RG_SQ_BASE_LO (pf0 : Bool) (q : Nat) : Nat := (if pf0 then 0x110000 else 0x4000) + 64 * q
def Reg.RG_SQ_BASE_HI (pf0 : Bool) (q : Nat) : Nat := (if pf0 then 0x110004 else 0x4004) + 64 * q
def Reg.RG_SQ_CFG (pf0 : Bool) (q : Nat) : Nat := (if pf0 then 0x110008 else 0x4008) + 64 * q
def Reg.RG_SQ_HR_LO (pf0 : Bool) (q : Nat) : Nat := (if pf0 then 0x11000C else 0x400C) + 64 * q
def Reg.RG_SQ_HR_HI (pf0 : Bool) (q : Nat) : Nat := (if pf0 then 0x110010 else 0x4010) + 64 * q
def Reg.RG_SQ_CTRL (pf0 : Bool) (q : Nat) : Nat := (if pf0 then 0x110014 else 0x4014) + 64 * q
def Reg.RG_SQ_STATUS (pf0 : Bool) (q : Nat) : Nat := (if pf0 then 0x110018 else 0x4018) + 64 * q
def Reg.RG_SQ_HEAD (pf0 : Bool) (q : Nat) : Nat := (if pf0 then 0x11001C else 0x401C) + 64 * q
def Reg.RG_SQ_PUB (pf0 : Bool) (q : Nat) : Nat := (if pf0 then 0x110020 else 0x4020) + 64 * q
def Reg.RG_SQ_COUNT (pf0 : Bool) (q : Nat) : Nat := (if pf0 then 0x110024 else 0x4024) + 64 * q
def Reg.RG_CQ_BASE_LO (pf0 : Bool) (q : Nat) : Nat := (if pf0 then 0x114000 else 0x4100) + 64 * q
def Reg.RG_CQ_BASE_HI (pf0 : Bool) (q : Nat) : Nat := (if pf0 then 0x114004 else 0x4104) + 64 * q
def Reg.RG_CQ_CFG (pf0 : Bool) (q : Nat) : Nat := (if pf0 then 0x114008 else 0x4108) + 64 * q
def Reg.RG_CQ_COAL (pf0 : Bool) (q : Nat) : Nat := (if pf0 then 0x11400C else 0x410C) + 64 * q
def Reg.RG_CQ_CTRL (pf0 : Bool) (q : Nat) : Nat := (if pf0 then 0x114014 else 0x4114) + 64 * q
def Reg.RG_CQ_STATUS (pf0 : Bool) (q : Nat) : Nat := (if pf0 then 0x114018 else 0x4118) + 64 * q
def Reg.RG_CQ_HEAD (pf0 : Bool) (q : Nat) : Nat := (if pf0 then 0x11401C else 0x411C) + 64 * q
def Reg.RG_CQ_TAIL (pf0 : Bool) (q : Nat) : Nat := (if pf0 then 0x114020 else 0x4120) + 64 * q
def Reg.RG_CQ_COUNT (pf0 : Bool) (q : Nat) : Nat := (if pf0 then 0x114024 else 0x4124) + 64 * q
def Reg.RG_CQ_STALLS (pf0 : Bool) (q : Nat) : Nat := (if pf0 then 0x114028 else 0x4128) + 64 * q
def Reg.RG_SQ_TDB (pf0 : Bool) (q : Nat) : Nat := (if pf0 then 0x140000 else 0x4200) + 8 * q
def Reg.RG_CQ_HDB (pf0 : Bool) (q : Nat) : Nat := (if pf0 then 0x140800 else 0x4240) + 8 * q
def Reg.RG_STATUS (pf0 : Bool) : Nat := if pf0 then 0x101000 else 0x4600
def Reg.RG_WEIGHT (pf0 : Bool) : Nat := if pf0 then 0x101004 else 0x4604
def Reg.RG_INLINE_ORPHAN (pf0 : Bool) : Nat := if pf0 then 0x101010 else 0x4610
def Reg.RG_INLINE_GAP (pf0 : Bool) : Nat := if pf0 then 0x101014 else 0x4614
def Reg.RG_BADDB (pf0 : Bool) : Nat := if pf0 then 0x101018 else 0x4618
def Reg.RG_BADOWN (pf0 : Bool) : Nat := if pf0 then 0x10101C else 0x461C
def Reg.RG_CQ_DISCARD (pf0 : Bool) : Nat := if pf0 then 0x101020 else 0x4620

/-- Part 0 of the register table. -/
def regTable0 : List RegDesc := [
  ⟨0x15000, 1, 1, 1, 1, .chip, [⟨9, 0, .ro, 0x0⟩, ⟨12, 10, .ro, 0x0⟩, ⟨31, 16, .ro, 0x0⟩]⟩,
  ⟨0x15010, 8, 4, 1, 1, .chip, [⟨9, 0, .ro, 0x0⟩, ⟨25, 16, .ro, 0x3FF⟩, ⟨31, 31, .wo, 0x0⟩]⟩,
  ⟨0x8000, 1, 1, 1, 1, .chip, [⟨24, 0, .ro, 0x1000000⟩]⟩,
  ⟨0x8004, 1, 1, 1, 1, .chip, [⟨24, 0, .ro, 0x1000000⟩]⟩,
  ⟨0x8008, 1, 1, 1, 1, .keep, [⟨4, 0, .kw, 0x2⟩]⟩,
  ⟨0x8010, 1, 1, 1, 1, .func, [⟨23, 0, .rw, 0x0⟩, ⟨25, 24, .rw, 0x0⟩]⟩,
  ⟨0x8014, 1, 1, 1, 1, .chip, [⟨31, 0, .ro, 0xFFFFFFFF⟩]⟩,
  ⟨0x8020, 1, 1, 1, 1, .chip, [⟨31, 0, .ro, 0x0⟩]⟩,
  ⟨0x8024, 1, 1, 1, 1, .chip, [⟨31, 0, .ro, 0x0⟩]⟩,
  ⟨0x8028, 1, 1, 1, 1, .chip, [⟨31, 0, .ro, 0x0⟩]⟩,
  ⟨0x8100, 4, 64, 1, 1, .keep, [⟨0, 0, .ro, 0x0⟩, ⟨2, 1, .ro, 0x0⟩, ⟨7, 3, .ro, 0x0⟩, ⟨10, 8, .ro, 0x0⟩, ⟨13, 11, .ro, 0x0⟩, ⟨15, 14, .ro, 0x0⟩, ⟨17, 16, .ro, 0x0⟩, ⟨29, 24, .ro, 0x0⟩]⟩,
  ⟨0x8104, 4, 64, 1, 1, .keep, [⟨23, 0, .ro, 0x0⟩]⟩,
  ⟨0x8108, 4, 64, 1, 1, .keep, [⟨24, 0, .ro, 0x0⟩]⟩,
  ⟨0x810C, 4, 64, 1, 1, .keep, [⟨23, 0, .ro, 0x0⟩]⟩,
  ⟨0x8110, 4, 64, 1, 1, .keep, [⟨31, 0, .ro, 0x0⟩]⟩,
  ⟨0x8114, 4, 64, 1, 1, .chip, [⟨24, 0, .ro, 0x0⟩]⟩,
  ⟨0x8118, 4, 64, 1, 1, .chip, [⟨24, 0, .ro, 0x0⟩]⟩,
  ⟨0x8120, 4, 64, 8, 4, .keep, [⟨4, 0, .ro, 0x0⟩, ⟨7, 7, .ro, 0x0⟩, ⟨15, 8, .ro, 0x0⟩, ⟨23, 16, .ro, 0x0⟩, ⟨31, 24, .ro, 0x0⟩]⟩,
  ⟨0x8200, 4, 4, 1, 1, .keep, [⟨0, 0, .ro, 0x0⟩, ⟨5, 1, .ro, 0x0⟩, ⟨11, 8, .ro, 0x0⟩]⟩,
  ⟨0x8400, 1, 1, 1, 1, .func, [⟨7, 0, .rw, 0x0⟩]⟩,
  ⟨0x8404, 1, 1, 1, 1, .keep, [⟨0, 0, .ro, 0x0⟩, ⟨2, 1, .ro, 0x0⟩, ⟨4, 3, .ro, 0x0⟩, ⟨5, 5, .ro, 0x0⟩]⟩,
  ⟨0x8408, 1, 1, 1, 1, .keep, [⟨23, 0, .ro, 0x0⟩]⟩,
  ⟨0x840C, 1, 1, 1, 1, .keep, [⟨24, 0, .ro, 0x0⟩]⟩,
  ⟨0x9000, 1, 1, 1, 1, .chip, [⟨0, 0, .rw, 0x0⟩, ⟨1, 1, .wo, 0x0⟩]⟩,
  ⟨0x9004, 1, 1, 1, 1, .chip, [⟨0, 0, .ro, 0x1⟩, ⟨1, 1, .ro, 0x0⟩, ⟨2, 2, .ro, 0x0⟩, ⟨3, 3, .ro, 0x0⟩, ⟨4, 4, .ro, 0x0⟩, ⟨11, 8, .ro, 0x0⟩]⟩]

/-- Part 1 of the register table. -/
def regTable1 : List RegDesc := [
  ⟨0x9008, 1, 1, 1, 1, .chip, [⟨15, 0, .rw, 0x3E8⟩]⟩,
  ⟨0x9010, 4, 4, 1, 1, .chip, [⟨5, 0, .ro, 0x0⟩, ⟨31, 16, .ro, 0x0⟩]⟩,
  ⟨0x9020, 4, 4, 1, 1, .chip, [⟨31, 0, .ro, 0x0⟩]⟩,
  ⟨0x9030, 1, 1, 1, 1, .chip, [⟨31, 0, .ro, 0x0⟩]⟩,
  ⟨0x9034, 1, 1, 1, 1, .chip, [⟨31, 0, .ro, 0x0⟩]⟩,
  ⟨0x9040, 1, 1, 1, 1, .chip, [⟨31, 0, .ro, 0x0⟩]⟩,
  ⟨0x9044, 1, 1, 1, 1, .chip, [⟨31, 0, .ro, 0x0⟩]⟩,
  ⟨0x9048, 1, 1, 1, 1, .chip, [⟨31, 0, .ro, 0x0⟩]⟩,
  ⟨0x904C, 1, 1, 1, 1, .chip, [⟨31, 0, .ro, 0x0⟩]⟩,
  ⟨0x9050, 1, 1, 1, 1, .chip, [⟨31, 0, .ro, 0x0⟩]⟩,
  ⟨0x9054, 1, 1, 1, 1, .chip, [⟨31, 0, .ro, 0x0⟩]⟩,
  ⟨0x9058, 1, 1, 1, 1, .chip, [⟨31, 0, .ro, 0x0⟩]⟩,
  ⟨0x9060, 1, 1, 1, 1, .func, [⟨31, 6, .rw, 0x0⟩]⟩,
  ⟨0x9064, 1, 1, 1, 1, .func, [⟨15, 0, .rw, 0x0⟩]⟩,
  ⟨0x9068, 1, 1, 1, 1, .func, [⟨0, 0, .wo, 0x0⟩]⟩,
  ⟨0x906C, 1, 1, 1, 1, .chip, [⟨0, 0, .ro, 0x0⟩, ⟨1, 1, .w1c, 0x0⟩, ⟨2, 2, .w1c, 0x0⟩, ⟨15, 8, .ro, 0x0⟩]⟩,
  ⟨0x6000, 1, 1, 1, 1, .chip, [⟨0, 0, .rw, 0x1⟩, ⟨1, 1, .wo, 0x0⟩]⟩,
  ⟨0x6004, 1, 1, 1, 1, .chip, [⟨0, 0, .ro, 0x0⟩, ⟨1, 1, .ro, 0x0⟩, ⟨2, 2, .ro, 0x0⟩, ⟨3, 3, .ro, 0x0⟩, ⟨4, 4, .ro, 0x0⟩]⟩,
  ⟨0x6008, 1, 1, 1, 1, .keep, [⟨15, 0, .kw, 0x64⟩, ⟨31, 16, .kw, 0x14⟩]⟩,
  ⟨0x600C, 1, 1, 1, 1, .keep, [⟨15, 0, .kw, 0x7D0⟩]⟩,
  ⟨0x6010, 1, 1, 1, 1, .keep, [⟨6, 0, .kw, 0x4B⟩, ⟨14, 8, .kw, 0x32⟩]⟩,
  ⟨0x6014, 1, 1, 1, 1, .chip, [⟨7, 0, .rw, 0x40⟩]⟩,
  ⟨0x6020, 1, 1, 1, 1, .chip, [⟨31, 0, .ro, 0x0⟩]⟩,
  ⟨0x6024, 1, 1, 1, 1, .chip, [⟨31, 0, .ro, 0x0⟩]⟩,
  ⟨0x6028, 1, 1, 1, 1, .chip, [⟨31, 0, .ro, 0x0⟩]⟩]

/-- Part 2 of the register table. -/
def regTable2 : List RegDesc := [
  ⟨0x602C, 1, 1, 1, 1, .chip, [⟨31, 0, .ro, 0x0⟩]⟩,
  ⟨0x6030, 1, 1, 1, 1, .chip, [⟨19, 0, .ro, 0xF0000⟩]⟩,
  ⟨0x6034, 1, 1, 1, 1, .chip, [⟨18, 0, .ro, 0x40000⟩]⟩,
  ⟨0x6038, 1, 1, 1, 1, .chip, [⟨16, 0, .ro, 0x0⟩]⟩,
  ⟨0x603C, 1, 1, 1, 1, .chip, [⟨16, 0, .ro, 0x0⟩]⟩,
  ⟨0x6040, 1, 1, 1, 1, .chip, [⟨31, 0, .ro, 0x0⟩]⟩,
  ⟨0x6044, 1, 1, 1, 1, .chip, [⟨31, 0, .ro, 0x0⟩]⟩,
  ⟨0x6048, 1, 1, 1, 1, .chip, [⟨31, 0, .ro, 0x0⟩]⟩,
  ⟨0x604C, 1, 1, 1, 1, .chip, [⟨31, 0, .ro, 0x0⟩]⟩,
  ⟨0x6050, 1, 1, 1, 1, .chip, [⟨31, 0, .ro, 0x0⟩]⟩,
  ⟨0x6054, 1, 1, 1, 1, .chip, [⟨31, 0, .ro, 0x0⟩]⟩,
  ⟨0x6058, 1, 1, 1, 1, .chip, [⟨31, 0, .ro, 0x0⟩]⟩,
  ⟨0x605C, 1, 1, 1, 1, .chip, [⟨31, 0, .ro, 0x0⟩]⟩,
  ⟨0x6080, 1, 1, 1, 1, .func, [⟨7, 0, .rw, 0x0⟩]⟩,
  ⟨0x6084, 1, 1, 1, 1, .func, [⟨31, 0, .rw, 0x0⟩]⟩,
  ⟨0x6088, 1, 1, 1, 1, .func, [⟨31, 0, .rw, 0x0⟩]⟩,
  ⟨0x608C, 1, 1, 1, 1, .chip, [⟨1, 0, .ro, 0x0⟩, ⟨4, 2, .ro, 0x0⟩, ⟨5, 5, .ro, 0x0⟩, ⟨6, 6, .ro, 0x0⟩]⟩,
  ⟨0x6090, 1, 1, 1, 1, .chip, [⟨31, 12, .ro, 0x0⟩]⟩,
  ⟨0x6094, 1, 1, 1, 1, .chip, [⟨15, 0, .ro, 0x0⟩]⟩,
  ⟨0x7000, 1, 1, 1, 1, .chip, [⟨0, 0, .rw, 0x1⟩, ⟨1, 1, .rw, 0x1⟩, ⟨2, 2, .rw, 0x1⟩, ⟨6, 4, .rw, 0x4⟩]⟩,
  ⟨0x7004, 1, 1, 1, 1, .chip, [⟨0, 0, .ro, 0x0⟩, ⟨1, 1, .ro, 0x0⟩, ⟨2, 2, .ro, 0x1⟩, ⟨3, 3, .ro, 0x0⟩, ⟨13, 8, .ro, 0x0⟩, ⟨21, 16, .ro, 0x0⟩]⟩,
  ⟨0x7010, 1, 1, 1, 1, .chip, [⟨31, 0, .ro, 0x0⟩]⟩,
  ⟨0x7014, 1, 1, 1, 1, .chip, [⟨31, 0, .ro, 0x0⟩]⟩,
  ⟨0x7018, 1, 1, 1, 1, .chip, [⟨31, 0, .ro, 0x0⟩]⟩,
  ⟨0x701C, 1, 1, 1, 1, .chip, [⟨31, 0, .ro, 0x0⟩]⟩]

/-- Part 3 of the register table. -/
def regTable3 : List RegDesc := [
  ⟨0x7020, 1, 1, 1, 1, .chip, [⟨31, 0, .ro, 0x0⟩]⟩,
  ⟨0x7024, 1, 1, 1, 1, .chip, [⟨31, 0, .ro, 0x0⟩]⟩,
  ⟨0x7028, 1, 1, 1, 1, .chip, [⟨31, 0, .ro, 0x0⟩]⟩,
  ⟨0x702C, 1, 1, 1, 1, .chip, [⟨31, 0, .ro, 0x0⟩]⟩,
  ⟨0x7030, 1, 1, 1, 1, .chip, [⟨31, 0, .ro, 0x0⟩]⟩,
  ⟨0x7040, 1, 1, 1, 1, .chip, [⟨15, 0, .rw, 0xACE1⟩]⟩,
  ⟨0xA000, 1, 1, 1, 1, .chip, [⟨0, 0, .ro, 0x0⟩, ⟨1, 1, .ro, 0x0⟩, ⟨2, 2, .ro, 0x0⟩, ⟨3, 3, .ro, 0x0⟩, ⟨4, 4, .ro, 0x0⟩, ⟨5, 5, .ro, 0x0⟩]⟩,
  ⟨0xA008, 1, 1, 1, 1, .chip, [⟨31, 0, .ro, 0x0⟩]⟩,
  ⟨0xA00C, 1, 1, 1, 1, .chip, [⟨31, 0, .ro, 0x0⟩]⟩,
  ⟨0xA010, 1, 1, 1, 1, .chip, [⟨31, 0, .ro, 0x0⟩]⟩,
  ⟨0xA014, 1, 1, 1, 1, .chip, [⟨31, 0, .ro, 0x0⟩]⟩,
  ⟨0xA020, 1, 1, 1, 1, .chip, [⟨14, 0, .ro, 0x0⟩, ⟨23, 16, .ro, 0x0⟩]⟩,
  ⟨0xA024, 1, 1, 1, 1, .keep, [⟨13, 0, .kw, 0x3000⟩, ⟨22, 16, .kw, 0xA⟩]⟩,
  ⟨0xA040, 4, 4, 1, 1, .keep, [⟨4, 0, .ro, 0x0⟩, ⟨7, 7, .ro, 0x0⟩, ⟨12, 8, .ro, 0x0⟩, ⟨15, 15, .ro, 0x0⟩, ⟨31, 16, .ro, 0x0⟩]⟩,
  ⟨0xA060, 1, 1, 1, 1, .chip, [⟨31, 0, .ro, 0x0⟩]⟩,
  ⟨0xA064, 1, 1, 1, 1, .chip, [⟨31, 0, .ro, 0x0⟩]⟩,
  ⟨0xA068, 1, 1, 1, 1, .chip, [⟨31, 0, .ro, 0x0⟩]⟩,
  ⟨0xA06C, 1, 1, 1, 1, .chip, [⟨31, 0, .ro, 0x0⟩]⟩,
  ⟨0xA080, 1, 1, 1, 1, .chip, [⟨31, 0, .ro, 0x0⟩]⟩,
  ⟨0xA084, 1, 1, 1, 1, .chip, [⟨31, 0, .ro, 0x0⟩]⟩,
  ⟨0xA088, 1, 1, 1, 1, .chip, [⟨31, 0, .ro, 0x0⟩]⟩,
  ⟨0xA08C, 1, 1, 1, 1, .chip, [⟨31, 0, .ro, 0x0⟩]⟩,
  ⟨0xA090, 1, 1, 1, 1, .chip, [⟨31, 0, .ro, 0x0⟩]⟩,
  ⟨0x4800, 1, 1, 1, 1, .chip, [⟨0, 0, .ro, 0x0⟩, ⟨1, 1, .ro, 0x0⟩]⟩,
  ⟨0x4804, 1, 1, 1, 1, .chip, [⟨8, 0, .ro, 0x0⟩, ⟨24, 16, .ro, 0x0⟩]⟩]

/-- Part 4 of the register table. -/
def regTable4 : List RegDesc := [
  ⟨0x4808, 1, 1, 1, 1, .chip, [⟨31, 0, .ro, 0xFFFFFFFF⟩]⟩,
  ⟨0x4810, 8, 4, 1, 1, .chip, [⟨31, 0, .ro, 0x0⟩]⟩,
  ⟨0x4840, 1, 1, 1, 1, .func, [⟨7, 0, .rw, 0x0⟩]⟩,
  ⟨0x4844, 1, 1, 1, 1, .keep, [⟨2, 0, .ro, 0x0⟩]⟩,
  ⟨0x4880, 1, 1, 1, 1, .func, [⟨9, 0, .rw, 0x0⟩]⟩,
  ⟨0x4884, 1, 1, 1, 1, .keep, [⟨1, 0, .ro, 0x0⟩, ⟨2, 2, .ro, 0x0⟩, ⟨15, 8, .ro, 0x0⟩, ⟨31, 16, .ro, 0x0⟩]⟩,
  ⟨0x4888, 1, 1, 1, 1, .keep, [⟨23, 0, .ro, 0x0⟩]⟩,
  ⟨0x488C, 1, 1, 1, 1, .keep, [⟨24, 0, .ro, 0x0⟩]⟩,
  ⟨0x4890, 1, 1, 1, 1, .keep, [⟨20, 0, .ro, 0x0⟩]⟩,
  ⟨0x4894, 1, 1, 1, 1, .keep, [⟨31, 0, .ro, 0x0⟩]⟩,
  ⟨0x4898, 1, 1, 1, 1, .chip, [⟨31, 0, .ro, 0x0⟩]⟩,
  ⟨0x489C, 1, 1, 1, 1, .chip, [⟨31, 0, .ro, 0x0⟩]⟩,
  ⟨0x48A0, 1, 1, 1, 1, .chip, [⟨31, 0, .ro, 0x0⟩]⟩,
  ⟨0x48A4, 1, 1, 1, 1, .chip, [⟨31, 0, .ro, 0x0⟩]⟩,
  ⟨0x48A8, 1, 1, 1, 1, .chip, [⟨31, 0, .ro, 0x0⟩]⟩,
  ⟨0x48AC, 1, 1, 1, 1, .chip, [⟨31, 0, .ro, 0x0⟩]⟩,
  ⟨0x48B0, 1, 1, 1, 1, .keep, [⟨31, 0, .ro, 0x0⟩]⟩,
  ⟨0x48B4, 1, 1, 1, 1, .keep, [⟨31, 0, .ro, 0x0⟩]⟩,
  ⟨0x48B8, 1, 1, 1, 1, .chip, [⟨23, 0, .ro, 0x0⟩]⟩,
  ⟨0x4900, 1, 1, 1, 1, .chip, [⟨31, 0, .ro, 0x0⟩]⟩,
  ⟨0x4904, 1, 1, 1, 1, .chip, [⟨31, 0, .ro, 0x0⟩]⟩,
  ⟨0x4908, 1, 1, 1, 1, .chip, [⟨31, 0, .ro, 0x0⟩]⟩,
  ⟨0x490C, 1, 1, 1, 1, .chip, [⟨31, 0, .ro, 0x0⟩]⟩,
  ⟨0x4910, 1, 1, 1, 1, .chip, [⟨31, 0, .ro, 0x0⟩]⟩,
  ⟨0x4914, 1, 1, 1, 1, .chip, [⟨31, 0, .ro, 0x0⟩]⟩]

/-- Part 5 of the register table. -/
def regTable5 : List RegDesc := [
  ⟨0x4918, 1, 1, 1, 1, .chip, [⟨31, 0, .ro, 0x0⟩]⟩,
  ⟨0xF000, 1, 1, 1, 1, .keep, [⟨0, 0, .kw, 0x0⟩, ⟨1, 1, .kw, 0x1⟩, ⟨2, 2, .kw, 0x1⟩, ⟨15, 8, .kw, 0x32⟩, ⟨23, 16, .kw, 0x14⟩]⟩,
  ⟨0xF004, 1, 1, 1, 1, .chip, [⟨1, 0, .ro, 0x0⟩, ⟨2, 2, .ro, 0x0⟩, ⟨3, 3, .ro, 0x0⟩, ⟨4, 4, .ro, 0x0⟩, ⟨5, 5, .ro, 0x0⟩, ⟨6, 6, .ro, 0x1⟩, ⟨7, 7, .ro, 0x0⟩, ⟨8, 8, .ro, 0x0⟩, ⟨9, 9, .ro, 0x0⟩]⟩,
  ⟨0xF008, 1, 1, 1, 1, .chip, [⟨31, 0, .ro, 0x0⟩]⟩,
  ⟨0xF00C, 1, 1, 1, 1, .chip, [⟨31, 0, .ro, 0x0⟩]⟩,
  ⟨0xF010, 1, 1, 1, 1, .chip, [⟨31, 0, .ro, 0x0⟩]⟩,
  ⟨0xF014, 1, 1, 1, 1, .chip, [⟨31, 0, .ro, 0x0⟩]⟩,
  ⟨0xF018, 1, 1, 1, 1, .keep, [⟨13, 0, .kw, 0x3000⟩]⟩,
  ⟨0xF01C, 1, 1, 1, 1, .keep, [⟨13, 0, .kw, 0x3E8⟩]⟩,
  ⟨0xF020, 1, 1, 1, 1, .chip, [⟨31, 0, .ro, 0x0⟩]⟩,
  ⟨0xF024, 1, 1, 1, 1, .chip, [⟨31, 0, .ro, 0x0⟩]⟩,
  ⟨0xF028, 1, 1, 1, 1, .chip, [⟨31, 0, .ro, 0x0⟩]⟩,
  ⟨0xF02C, 1, 1, 1, 1, .chip, [⟨31, 0, .ro, 0x0⟩]⟩,
  ⟨0xF030, 1, 1, 1, 1, .chip, [⟨31, 0, .ro, 0x0⟩]⟩,
  ⟨0xF034, 1, 1, 1, 1, .chip, [⟨31, 0, .ro, 0x0⟩]⟩,
  ⟨0xF040, 1, 1, 1, 1, .keep, [⟨31, 0, .ro, 0x0⟩]⟩,
  ⟨0xF044, 1, 1, 1, 1, .keep, [⟨31, 0, .ro, 0x0⟩]⟩,
  ⟨0xF048, 1, 1, 1, 1, .keep, [⟨31, 0, .ro, 0x0⟩]⟩,
  ⟨0xF04C, 1, 1, 1, 1, .keep, [⟨31, 0, .ro, 0x0⟩]⟩,
  ⟨0xF050, 1, 1, 1, 1, .keep, [⟨31, 0, .ro, 0x0⟩]⟩,
  ⟨0xF060, 1, 1, 1, 1, .chip, [⟨31, 0, .ro, 0x0⟩]⟩,
  ⟨0xF064, 1, 1, 1, 1, .chip, [⟨31, 0, .ro, 0x0⟩]⟩,
  ⟨0xF068, 1, 1, 1, 1, .chip, [⟨31, 0, .ro, 0x0⟩]⟩,
  ⟨0xF06C, 1, 1, 1, 1, .chip, [⟨31, 0, .ro, 0x0⟩]⟩,
  ⟨0xF070, 1, 1, 1, 1, .chip, [⟨31, 0, .ro, 0x0⟩]⟩]

/-- Part 6 of the register table. -/
def regTable6 : List RegDesc := [
  ⟨0xF074, 1, 1, 1, 1, .chip, [⟨31, 0, .ro, 0x0⟩]⟩,
  ⟨0xF080, 1, 1, 1, 1, .keep, [⟨31, 0, .kw, 0x0⟩]⟩,
  ⟨0xF084, 1, 1, 1, 1, .keep, [⟨31, 0, .kw, 0x0⟩]⟩,
  ⟨0xF088, 1, 1, 1, 1, .keep, [⟨31, 0, .kw, 0x0⟩]⟩,
  ⟨0xF08C, 1, 1, 1, 1, .keep, [⟨6, 0, .kw, 0x0⟩]⟩,
  ⟨0xF090, 1, 1, 1, 1, .keep, [⟨31, 0, .kw, 0x7D0⟩]⟩,
  ⟨0xF094, 1, 1, 1, 1, .keep, [⟨16, 0, .kw, 0x4E20⟩]⟩,
  ⟨0xF098, 1, 1, 1, 1, .keep, [⟨15, 0, .kw, 0x0⟩, ⟨25, 16, .kw, 0x168⟩]⟩,
  ⟨0xF0A0, 1, 1, 1, 1, .keep, [⟨31, 0, .ro, 0x0⟩]⟩,
  ⟨0xF0A4, 1, 1, 1, 1, .keep, [⟨31, 0, .ro, 0x0⟩]⟩,
  ⟨0xF0A8, 1, 1, 1, 1, .keep, [⟨31, 0, .ro, 0x0⟩]⟩,
  ⟨0xF0AC, 1, 1, 1, 1, .keep, [⟨31, 0, .ro, 0x0⟩]⟩,
  ⟨0xF0B0, 1, 1, 1, 1, .keep, [⟨31, 0, .ro, 0x0⟩]⟩,
  ⟨0xF0C0, 1, 1, 1, 1, .chip, [⟨31, 0, .ro, 0x0⟩]⟩,
  ⟨0xF0C4, 1, 1, 1, 1, .chip, [⟨31, 0, .ro, 0x0⟩]⟩,
  ⟨0xF0C8, 1, 1, 1, 1, .chip, [⟨31, 0, .ro, 0x0⟩]⟩,
  ⟨0xF0CC, 1, 1, 1, 1, .chip, [⟨31, 0, .ro, 0x0⟩]⟩,
  ⟨0xF0D0, 1, 1, 1, 1, .chip, [⟨31, 0, .ro, 0x0⟩]⟩,
  ⟨0xF0D4, 1, 1, 1, 1, .chip, [⟨31, 0, .ro, 0x0⟩]⟩,
  ⟨0xF0E0, 1, 1, 1, 1, .func, [⟨0, 0, .wo, 0x0⟩]⟩,
  ⟨0xD000, 1, 1, 1, 1, .chip, [⟨2, 0, .ro, 0x0⟩, ⟨3, 3, .ro, 0x0⟩, ⟨4, 4, .ro, 0x0⟩, ⟨5, 5, .ro, 0x0⟩, ⟨7, 6, .ro, 0x0⟩, ⟨8, 8, .ro, 0x0⟩]⟩,
  ⟨0xD008, 1, 1, 1, 1, .keep, [⟨7, 0, .ro, 0x0⟩]⟩,
  ⟨0xD010, 1, 1, 1, 1, .keep, [⟨31, 0, .ro, 0x0⟩]⟩,
  ⟨0xD014, 1, 1, 1, 1, .keep, [⟨31, 0, .ro, 0x0⟩]⟩,
  ⟨0xD018, 1, 1, 1, 1, .keep, [⟨31, 0, .ro, 0x0⟩]⟩]

/-- Part 7 of the register table. -/
def regTable7 : List RegDesc := [
  ⟨0xD01C, 1, 1, 1, 1, .keep, [⟨31, 0, .ro, 0x0⟩]⟩,
  ⟨0xD020, 1, 1, 1, 1, .keep, [⟨31, 0, .ro, 0x0⟩]⟩,
  ⟨0xD024, 1, 1, 1, 1, .keep, [⟨31, 0, .ro, 0x0⟩]⟩,
  ⟨0xD028, 1, 1, 1, 1, .keep, [⟨31, 0, .ro, 0x0⟩]⟩,
  ⟨0xD02C, 1, 1, 1, 1, .keep, [⟨31, 0, .ro, 0x0⟩]⟩,
  ⟨0xD030, 1, 1, 1, 1, .keep, [⟨31, 0, .ro, 0x0⟩]⟩,
  ⟨0xD040, 1, 1, 1, 1, .keep, [⟨15, 0, .kw, 0x32⟩]⟩,
  ⟨0xD050, 1, 1, 1, 1, .chip, [⟨16, 0, .ro, 0x0⟩]⟩,
  ⟨0xD060, 1, 1, 1, 1, .chip, [⟨31, 0, .ro, 0x0⟩]⟩,
  ⟨0xD064, 1, 1, 1, 1, .chip, [⟨31, 0, .ro, 0x0⟩]⟩,
  ⟨0xD068, 1, 1, 1, 1, .chip, [⟨31, 0, .ro, 0x0⟩]⟩,
  ⟨0xD06C, 1, 1, 1, 1, .chip, [⟨31, 0, .ro, 0x0⟩]⟩,
  ⟨0x10000, 1, 1, 1, 1, .chip, [⟨0, 0, .rw, 0x1⟩, ⟨1, 1, .rw, 0x0⟩, ⟨2, 2, .wo, 0x0⟩, ⟨3, 3, .wo, 0x0⟩, ⟨4, 4, .wo, 0x0⟩]⟩,
  ⟨0x10004, 1, 1, 1, 1, .chip, [⟨3, 0, .ro, 0x0⟩, ⟨4, 4, .ro, 0x0⟩, ⟨5, 5, .ro, 0x0⟩, ⟨6, 6, .ro, 0x0⟩, ⟨7, 7, .ro, 0x0⟩, ⟨8, 8, .ro, 0x0⟩, ⟨9, 9, .ro, 0x0⟩, ⟨10, 10, .ro, 0x0⟩, ⟨11, 11, .ro, 0x0⟩, ⟨12, 12, .ro, 0x0⟩, ⟨13, 13, .ro, 0x0⟩, ⟨14, 14, .ro, 0x1⟩, ⟨19, 16, .ro, 0x0⟩, ⟨22, 20, .ro, 0x0⟩]⟩,
  ⟨0x10008, 1, 1, 1, 1, .keep, [⟨3, 0, .kw, 0x2⟩, ⟨5, 4, .kw, 0x0⟩, ⟨6, 6, .kw, 0x1⟩, ⟨9, 8, .kw, 0x1⟩, ⟨11, 10, .kw, 0x0⟩, ⟨21, 16, .kw, 0x19⟩]⟩,
  ⟨0x1000C, 1, 1, 1, 1, .keep, [⟨13, 0, .kw, 0x400⟩]⟩,
  ⟨0x10010, 1, 1, 1, 1, .keep, [⟨15, 0, .kw, 0x0⟩, ⟨16, 16, .kw, 0x0⟩]⟩,
  ⟨0x10014, 1, 1, 1, 1, .keep, [⟨7, 0, .kw, 0x14⟩]⟩,
  ⟨0x10018, 1, 1, 1, 1, .keep, [⟨15, 0, .kw, 0x1770⟩, ⟨31, 16, .kw, 0x1770⟩]⟩,
  ⟨0x10020, 1, 1, 1, 1, .keep, [⟨9, 0, .kw, 0x1CC⟩, ⟨25, 16, .kw, 0x208⟩]⟩,
  ⟨0x10024, 1, 1, 1, 1, .keep, [⟨9, 0, .kw, 0x230⟩, ⟨25, 16, .kw, 0x23A⟩]⟩,
  ⟨0x10028, 1, 1, 1, 1, .keep, [⟨9, 0, .kw, 0x258⟩, ⟨15, 12, .kw, 0xA⟩, ⟨23, 16, .kw, 0x14⟩]⟩,
  ⟨0x1002C, 1, 1, 1, 1, .keep, [⟨7, 0, .kw, 0x80⟩, ⟨15, 8, .kw, 0xA0⟩, ⟨23, 16, .kw, 0x40⟩, ⟨31, 24, .kw, 0xC0⟩]⟩,
  ⟨0x10030, 1, 1, 1, 1, .keep, [⟨31, 0, .kw, 0x186A0⟩]⟩,
  ⟨0x10034, 1, 1, 1, 1, .keep, [⟨31, 0, .kw, 0x186A0⟩]⟩]

/-- Part 8 of the register table. -/
def regTable8 : List RegDesc := [
  ⟨0x10038, 1, 1, 1, 1, .keep, [⟨15, 0, .kw, 0xC8⟩]⟩,
  ⟨0x1003C, 1, 1, 1, 1, .keep, [⟨7, 0, .kw, 0x14⟩, ⟨15, 8, .kw, 0x32⟩, ⟨23, 16, .kw, 0x14⟩]⟩,
  ⟨0x10040, 1, 1, 1, 1, .keep, [⟨15, 0, .kw, 0x0⟩]⟩,
  ⟨0x10044, 1, 1, 1, 1, .keep, [⟨15, 0, .kw, 0x32⟩, ⟨31, 16, .kw, 0xC8⟩]⟩,
  ⟨0x10048, 1, 1, 1, 1, .keep, [⟨15, 0, .kw, 0xC8⟩]⟩,
  ⟨0x1004C, 1, 1, 1, 1, .keep, [⟨15, 0, .kw, 0x64⟩, ⟨31, 16, .kw, 0x14⟩]⟩,
  ⟨0x10050, 1, 1, 1, 1, .keep, [⟨15, 0, .kw, 0xC8⟩, ⟨31, 16, .kw, 0x1F4⟩]⟩,
  ⟨0x10054, 1, 1, 1, 1, .keep, [⟨16, 0, .kw, 0xBB8⟩]⟩,
  ⟨0x10058, 1, 1, 1, 1, .keep, [⟨16, 0, .kw, 0x7D0⟩]⟩,
  ⟨0x1005C, 1, 1, 1, 1, .keep, [⟨16, 0, .kw, 0xC8⟩]⟩,
  ⟨0x10060, 1, 1, 1, 1, .keep, [⟨16, 0, .kw, 0xEA60⟩]⟩,
  ⟨0x10064, 1, 1, 1, 1, .keep, [⟨16, 0, .kw, 0x1388⟩]⟩,
  ⟨0x10068, 1, 1, 1, 1, .keep, [⟨7, 0, .kw, 0x32⟩, ⟨15, 8, .kw, 0x5⟩, ⟨23, 16, .kw, 0xA⟩]⟩,
  ⟨0x1006C, 1, 1, 1, 1, .keep, [⟨15, 0, .kw, 0xC8⟩, ⟨23, 16, .kw, 0x2⟩, ⟨26, 24, .kw, 0x3⟩]⟩,
  ⟨0x10070, 1, 1, 1, 1, .chip, [⟨16, 0, .rw, 0x0⟩]⟩,
  ⟨0x10074, 1, 1, 1, 1, .keep, [⟨15, 0, .kw, 0xA⟩, ⟨31, 16, .kw, 0x2⟩]⟩,
  ⟨0x10080, 16, 4, 1, 1, .keep, [⟨15, 0, .kw, 0x0⟩, ⟨31, 16, .kw, 0x0⟩]⟩,
  ⟨0x100C0, 1, 1, 1, 1, .keep, [⟨1, 0, .kw, 0x0⟩]⟩,
  ⟨0x100C4, 1, 1, 1, 1, .keep, [⟨15, 0, .kw, 0x1F4⟩, ⟨31, 16, .kw, 0xBB8⟩]⟩,
  ⟨0x100C8, 1, 1, 1, 1, .keep, [⟨15, 0, .kw, 0xBB8⟩, ⟨31, 16, .kw, 0x7530⟩]⟩,
  ⟨0x100CC, 1, 1, 1, 1, .keep, [⟨15, 0, .kw, 0x12C⟩, ⟨31, 16, .kw, 0x64⟩]⟩,
  ⟨0x10100, 1, 1, 1, 1, .chip, [⟨31, 0, .ro, 0x0⟩]⟩,
  ⟨0x10108, 1, 1, 1, 1, .chip, [⟨31, 0, .ro, 0x0⟩]⟩,
  ⟨0x10104, 1, 1, 1, 1, .chip, [⟨15, 0, .ro, 0x0⟩]⟩,
  ⟨0x1010C, 1, 1, 1, 1, .chip, [⟨15, 0, .ro, 0x0⟩]⟩]

/-- Part 9 of the register table. -/
def regTable9 : List RegDesc := [
  ⟨0x10110, 1, 1, 1, 1, .chip, [⟨15, 0, .ro, 0x0⟩]⟩,
  ⟨0x10118, 1, 1, 1, 1, .chip, [⟨15, 0, .ro, 0x0⟩]⟩,
  ⟨0x10114, 1, 1, 1, 1, .chip, [⟨16, 0, .ro, 0x0⟩]⟩,
  ⟨0x10120, 1, 1, 1, 1, .chip, [⟨31, 0, .ro, 0x0⟩]⟩,
  ⟨0x10124, 1, 1, 1, 1, .chip, [⟨31, 0, .ro, 0x0⟩]⟩,
  ⟨0x10128, 1, 1, 1, 1, .chip, [⟨31, 0, .ro, 0x0⟩]⟩,
  ⟨0x1012C, 1, 1, 1, 1, .chip, [⟨31, 0, .ro, 0x0⟩]⟩,
  ⟨0x10130, 1, 1, 1, 1, .chip, [⟨31, 0, .ro, 0x0⟩]⟩,
  ⟨0x10134, 1, 1, 1, 1, .chip, [⟨31, 0, .ro, 0x0⟩]⟩,
  ⟨0x10138, 1, 1, 1, 1, .chip, [⟨31, 0, .ro, 0x0⟩]⟩,
  ⟨0x10140, 1, 1, 1, 1, .keep, [⟨6, 0, .kw, 0x5F⟩, ⟨14, 8, .kw, 0x1E⟩, ⟨22, 16, .kw, 0x5A⟩]⟩,
  ⟨0x10144, 1, 1, 1, 1, .keep, [⟨15, 0, .kw, 0x1F4⟩]⟩,
  ⟨0x10150, 1, 1, 1, 1, .keep, [⟨0, 0, .ro, 0x0⟩, ⟨3, 1, .ro, 0x0⟩, ⟨7, 4, .ro, 0x0⟩]⟩,
  ⟨0x10154, 1, 1, 1, 1, .keep, [⟨31, 0, .ro, 0x0⟩]⟩,
  ⟨0x10158, 1, 1, 1, 1, .keep, [⟨31, 0, .ro, 0x0⟩]⟩,
  ⟨0x1015C, 1, 1, 1, 1, .keep, [⟨31, 0, .ro, 0x0⟩]⟩,
  ⟨0x10160, 1, 1, 1, 1, .keep, [⟨31, 0, .ro, 0x0⟩]⟩,
  ⟨0x10164, 1, 1, 1, 1, .keep, [⟨31, 0, .ro, 0x0⟩]⟩,
  ⟨0x10168, 1, 1, 1, 1, .keep, [⟨31, 0, .ro, 0x0⟩]⟩,
  ⟨0x11000, 1, 1, 1, 1, .chip, [⟨0, 0, .rw, 0x1⟩, ⟨1, 1, .wo, 0x0⟩]⟩,
  ⟨0x11004, 1, 1, 1, 1, .chip, [⟨0, 0, .ro, 0x0⟩, ⟨1, 1, .ro, 0x0⟩, ⟨2, 2, .ro, 0x0⟩, ⟨3, 3, .ro, 0x0⟩, ⟨4, 4, .ro, 0x0⟩, ⟨5, 5, .ro, 0x0⟩, ⟨6, 6, .ro, 0x0⟩, ⟨7, 7, .ro, 0x0⟩, ⟨8, 8, .ro, 0x0⟩, ⟨9, 9, .ro, 0x0⟩, ⟨10, 10, .ro, 0x0⟩, ⟨11, 11, .ro, 0x0⟩, ⟨12, 12, .ro, 0x0⟩, ⟨13, 13, .ro, 0x0⟩, ⟨18, 16, .ro, 0x0⟩, ⟨20, 19, .ro, 0x0⟩]⟩,
  ⟨0x11010, 8, 4, 1, 1, .keep, [⟨1, 0, .kw, 0x0⟩, ⟨7, 2, .kw, 0x0⟩, ⟨23, 8, .kw, 0x0⟩, ⟨31, 24, .kw, 0x0⟩]⟩,
  ⟨0x11030, 1, 1, 1, 1, .keep, [⟨11, 0, .kw, 0x0⟩, ⟨27, 16, .kw, 0x0⟩]⟩,
  ⟨0x11034, 1, 1, 1, 1, .keep, [⟨7, 0, .kw, 0x0⟩, ⟨15, 8, .kw, 0x0⟩, ⟨16, 16, .kw, 0x0⟩]⟩,
  ⟨0x11038, 1, 1, 1, 1, .keep, [⟨23, 0, .kw, 0x3E8⟩]⟩]

/-- Part 10 of the register table. -/
def regTable10 : List RegDesc := [
  ⟨0x1103C, 1, 1, 1, 1, .keep, [⟨31, 0, .kw, 0x0⟩]⟩,
  ⟨0x11040, 1, 1, 1, 1, .keep, [⟨15, 0, .kw, 0x32⟩]⟩,
  ⟨0x11044, 1, 1, 1, 1, .keep, [⟨6, 0, .kw, 0x5A⟩, ⟨31, 16, .kw, 0x64⟩]⟩,
  ⟨0x11048, 1, 1, 1, 1, .keep, [⟨9, 0, .kw, 0x1B8⟩]⟩,
  ⟨0x1104C, 1, 1, 1, 1, .keep, [⟨15, 0, .kw, 0x1770⟩]⟩,
  ⟨0x11050, 1, 1, 1, 1, .keep, [⟨15, 0, .kw, 0x7D0⟩]⟩,
  ⟨0x11100, 1, 1, 1, 1, .chip, [⟨31, 0, .ro, 0x0⟩]⟩,
  ⟨0x11110, 1, 1, 1, 1, .chip, [⟨31, 0, .ro, 0x0⟩]⟩,
  ⟨0x11114, 1, 1, 1, 1, .chip, [⟨31, 0, .ro, 0x0⟩]⟩,
  ⟨0x11104, 1, 1, 1, 1, .chip, [⟨15, 0, .ro, 0x0⟩]⟩,
  ⟨0x11108, 1, 1, 1, 1, .chip, [⟨15, 0, .ro, 0x0⟩]⟩,
  ⟨0x1110C, 1, 1, 1, 1, .chip, [⟨15, 0, .ro, 0x0⟩]⟩,
  ⟨0x11118, 1, 1, 1, 1, .keep, [⟨31, 0, .ro, 0x0⟩]⟩,
  ⟨0x1111C, 1, 1, 1, 1, .keep, [⟨31, 0, .ro, 0x0⟩]⟩,
  ⟨0x11120, 1, 1, 1, 1, .chip, [⟨31, 0, .ro, 0x0⟩]⟩,
  ⟨0x11124, 1, 1, 1, 1, .chip, [⟨31, 0, .ro, 0x0⟩]⟩,
  ⟨0x11130, 1, 1, 1, 1, .keep, [⟨31, 0, .ro, 0x0⟩]⟩,
  ⟨0x11134, 1, 1, 1, 1, .keep, [⟨31, 0, .ro, 0x0⟩]⟩,
  ⟨0x11140, 1, 1, 1, 1, .chip, [⟨31, 0, .ro, 0x0⟩]⟩,
  ⟨0x11144, 1, 1, 1, 1, .chip, [⟨31, 0, .ro, 0x0⟩]⟩,
  ⟨0x11148, 1, 1, 1, 1, .chip, [⟨31, 0, .ro, 0x0⟩]⟩,
  ⟨0x1114C, 1, 1, 1, 1, .chip, [⟨31, 0, .ro, 0x0⟩]⟩,
  ⟨0x11150, 1, 1, 1, 1, .chip, [⟨31, 0, .ro, 0x0⟩]⟩,
  ⟨0xC000, 1, 1, 1, 1, .chip, [⟨3, 0, .rw, 0x0⟩, ⟨7, 4, .rw, 0x0⟩]⟩,
  ⟨0xC004, 1, 1, 1, 1, .chip, [⟨3, 0, .ro, 0x0⟩, ⟨7, 4, .ro, 0x0⟩, ⟨11, 8, .ro, 0x0⟩, ⟨12, 12, .ro, 0x0⟩, ⟨13, 13, .ro, 0x0⟩]⟩]

/-- Part 11 of the register table. -/
def regTable11 : List RegDesc := [
  ⟨0xC008, 1, 1, 1, 1, .keep, [⟨0, 0, .kw, 0x1⟩, ⟨1, 1, .kw, 0x1⟩, ⟨2, 2, .kw, 0x0⟩, ⟨14, 8, .kw, 0x19⟩, ⟨22, 16, .kw, 0x19⟩]⟩,
  ⟨0xC00C, 1, 1, 1, 1, .keep, [⟨8, 0, .kw, 0xE⟩]⟩,
  ⟨0xC010, 1, 1, 1, 1, .keep, [⟨15, 0, .kw, 0xBB8⟩]⟩,
  ⟨0xC014, 1, 1, 1, 1, .keep, [⟨7, 0, .kw, 0x8⟩, ⟨15, 8, .kw, 0x40⟩]⟩,
  ⟨0xC018, 1, 1, 1, 1, .chip, [⟨5, 0, .rw, 0x8⟩]⟩,
  ⟨0xC01C, 1, 1, 1, 1, .chip, [⟨4, 0, .ro, 0x0⟩, ⟨11, 8, .ro, 0x0⟩]⟩,
  ⟨0xC100, 4, 64, 1, 1, .keep, [⟨31, 0, .ro, 0x0⟩]⟩,
  ⟨0xC104, 4, 64, 1, 1, .chip, [⟨23, 0, .ro, 0x0⟩]⟩,
  ⟨0xC108, 4, 64, 1, 1, .chip, [⟨25, 0, .ro, 0x0⟩]⟩,
  ⟨0xC10C, 4, 64, 1, 1, .keep, [⟨23, 0, .ro, 0x0⟩]⟩,
  ⟨0xC110, 4, 64, 1, 1, .keep, [⟨31, 0, .ro, 0x0⟩]⟩,
  ⟨0xC114, 4, 64, 1, 1, .keep, [⟨23, 0, .ro, 0x0⟩, ⟨26, 24, .ro, 0x0⟩, ⟨31, 31, .ro, 0x0⟩]⟩,
  ⟨0xC200, 1, 1, 1, 1, .chip, [⟨31, 0, .ro, 0x0⟩]⟩,
  ⟨0xC204, 1, 1, 1, 1, .chip, [⟨31, 0, .ro, 0x0⟩]⟩,
  ⟨0xC208, 1, 1, 1, 1, .chip, [⟨31, 0, .ro, 0x0⟩]⟩,
  ⟨0xC20C, 1, 1, 1, 1, .chip, [⟨31, 0, .ro, 0x0⟩]⟩,
  ⟨0xC210, 1, 1, 1, 1, .chip, [⟨31, 0, .ro, 0x0⟩]⟩,
  ⟨0xC214, 1, 1, 1, 1, .chip, [⟨31, 0, .ro, 0x0⟩]⟩,
  ⟨0xC218, 1, 1, 1, 1, .chip, [⟨31, 0, .ro, 0x0⟩]⟩,
  ⟨0xC21C, 1, 1, 1, 1, .chip, [⟨31, 0, .ro, 0x0⟩]⟩,
  ⟨0xC220, 1, 1, 1, 1, .chip, [⟨31, 0, .ro, 0x0⟩]⟩,
  ⟨0xB000, 1, 1, 1, 1, .chip, [⟨0, 0, .ro, 0x0⟩, ⟨1, 1, .ro, 0x0⟩]⟩,
  ⟨0xB004, 1, 1, 1, 1, .chip, [⟨31, 0, .ro, 0x0⟩]⟩,
  ⟨0xB008, 1, 1, 1, 1, .chip, [⟨31, 0, .ro, 0x0⟩]⟩,
  ⟨0xB010, 8, 4, 1, 1, .keep, [⟨1, 0, .kw, 0x0⟩]⟩]

/-- Part 12 of the register table. -/
def regTable12 : List RegDesc := [
  ⟨0xB030, 1, 1, 1, 1, .chip, [⟨15, 0, .ro, 0x0⟩]⟩,
  ⟨0xB040, 1, 1, 1, 1, .keep, [⟨11, 0, .kw, 0x1F4⟩, ⟨27, 16, .kw, 0xC8⟩]⟩,
  ⟨0xB044, 1, 1, 1, 1, .keep, [⟨3, 0, .kw, 0x8⟩, ⟨4, 4, .kw, 0x0⟩, ⟨15, 8, .kw, 0x3C⟩]⟩,
  ⟨0xB048, 1, 1, 1, 1, .keep, [⟨15, 0, .kw, 0x64⟩, ⟨21, 16, .kw, 0xA⟩]⟩,
  ⟨0xB050, 2, 8, 1, 1, .keep, [⟨6, 0, .kw, 0x20⟩, ⟨15, 8, .kw, 0x0⟩, ⟨16, 16, .kw, 0x1⟩, ⟨17, 17, .kw, 0x1⟩]⟩,
  ⟨0xB054, 2, 8, 1, 1, .keep, [⟨6, 0, .kw, 0x21⟩, ⟨15, 8, .kw, 0x0⟩]⟩,
  ⟨0xB060, 1, 1, 1, 1, .func, [⟨7, 0, .rw, 0x0⟩]⟩,
  ⟨0xB064, 1, 1, 1, 1, .keep, [⟨15, 0, .ro, 0x32⟩]⟩,
  ⟨0xB070, 1, 1, 1, 1, .chip, [⟨31, 0, .rw, 0x0⟩]⟩,
  ⟨0xB400, 32, 32, 1, 1, .chip, [⟨2, 0, .ro, 0x0⟩, ⟨3, 3, .ro, 0x0⟩, ⟨4, 4, .ro, 0x0⟩, ⟨5, 5, .ro, 0x0⟩, ⟨7, 6, .ro, 0x0⟩, ⟨11, 8, .ro, 0x0⟩, ⟨20, 12, .ro, 0x0⟩, ⟨23, 21, .ro, 0x0⟩, ⟨26, 24, .ro, 0x0⟩, ⟨29, 27, .ro, 0x0⟩]⟩,
  ⟨0xB404, 32, 32, 1, 1, .chip, [⟨10, 0, .ro, 0x0⟩, ⟨26, 16, .ro, 0x0⟩]⟩,
  ⟨0xB408, 32, 32, 1, 1, .chip, [⟨31, 0, .ro, 0x0⟩]⟩,
  ⟨0xB40C, 32, 32, 1, 1, .chip, [⟨31, 0, .ro, 0x0⟩]⟩,
  ⟨0xB410, 32, 32, 1, 1, .chip, [⟨31, 0, .ro, 0x0⟩]⟩,
  ⟨0xB414, 32, 32, 1, 1, .chip, [⟨31, 0, .ro, 0x0⟩]⟩,
  ⟨0xB418, 32, 32, 1, 1, .chip, [⟨31, 0, .ro, 0x0⟩]⟩,
  ⟨0xB41C, 32, 32, 1, 1, .chip, [⟨31, 0, .ro, 0x0⟩]⟩,
  ⟨0x2000, 1, 1, 1, 1, .chip, [⟨0, 0, .ro, 0x0⟩, ⟨1, 1, .ro, 0x0⟩, ⟨2, 2, .ro, 0x0⟩, ⟨7, 4, .ro, 0x0⟩, ⟨10, 8, .ro, 0x0⟩, ⟨13, 12, .ro, 0x0⟩, ⟨15, 14, .ro, 0x0⟩, ⟨16, 16, .ro, 0x0⟩, ⟨17, 17, .ro, 0x0⟩]⟩,
  ⟨0x2004, 1, 1, 1, 1, .host, [⟨3, 0, .ro, 0x0⟩, ⟨4, 4, .ro, 0x0⟩, ⟨5, 5, .wo, 0x0⟩, ⟨6, 6, .wo, 0x0⟩, ⟨8, 8, .ro, 0x0⟩]⟩,
  ⟨0x2008, 1, 1, 1, 1, .keep, [⟨0, 0, .kw, 0x1⟩, ⟨1, 1, .kw, 0x1⟩, ⟨2, 2, .kw, 0x1⟩]⟩,
  ⟨0x200C, 1, 1, 1, 1, .keep, [⟨5, 0, .kw, 0x0⟩, ⟨13, 8, .kw, 0x0⟩]⟩,
  ⟨0x2010, 1, 1, 1, 1, .keep, [⟨15, 0, .kw, 0x1F9B⟩, ⟨31, 16, .kw, 0x1⟩]⟩,
  ⟨0x2014, 1, 1, 1, 1, .keep, [⟨9, 0, .kw, 0x14⟩, ⟨25, 16, .kw, 0x3E8⟩]⟩,
  ⟨0x2018, 1, 1, 1, 1, .func, [⟨2, 0, .rw, 0x0⟩]⟩,
  ⟨0x2020, 1, 1, 1, 1, .chip, [⟨9, 0, .ro, 0x0⟩, ⟨25, 16, .ro, 0x0⟩]⟩]

/-- Part 13 of the register table. -/
def regTable13 : List RegDesc := [
  ⟨0x2040, 1, 1, 1, 1, .chip, [⟨31, 0, .ro, 0x0⟩]⟩,
  ⟨0x2044, 1, 1, 1, 1, .chip, [⟨31, 0, .ro, 0x0⟩]⟩,
  ⟨0x2048, 1, 1, 1, 1, .chip, [⟨31, 0, .ro, 0x0⟩]⟩,
  ⟨0x204C, 1, 1, 1, 1, .chip, [⟨31, 0, .ro, 0x0⟩]⟩,
  ⟨0x2050, 1, 1, 1, 1, .chip, [⟨31, 0, .ro, 0x0⟩]⟩,
  ⟨0x2054, 1, 1, 1, 1, .chip, [⟨31, 0, .ro, 0x0⟩]⟩,
  ⟨0x2058, 1, 1, 1, 1, .chip, [⟨31, 0, .ro, 0x0⟩]⟩,
  ⟨0x205C, 1, 1, 1, 1, .chip, [⟨31, 0, .ro, 0x0⟩]⟩,
  ⟨0x2060, 1, 1, 1, 1, .chip, [⟨31, 0, .ro, 0x0⟩]⟩,
  ⟨0x3000, 1, 1, 1, 1, .host, [⟨6, 0, .ro, 0x0⟩]⟩,
  ⟨0x3010, 1, 1, 1, 1, .chip, [⟨31, 0, .ro, 0x0⟩]⟩,
  ⟨0x3014, 1, 1, 1, 1, .chip, [⟨31, 0, .ro, 0x0⟩]⟩,
  ⟨0x3018, 1, 1, 1, 1, .chip, [⟨31, 0, .ro, 0x0⟩]⟩,
  ⟨0x3100, 64, 16, 1, 1, .host, [⟨0, 0, .rw, 0x0⟩, ⟨1, 1, .rw, 0x0⟩, ⟨2, 2, .rw, 0x0⟩, ⟨3, 3, .rw, 0x0⟩, ⟨21, 16, .rw, 0xC⟩]⟩,
  ⟨0x3104, 64, 16, 1, 1, .host, [⟨31, 12, .rw, 0x0⟩]⟩,
  ⟨0x3108, 64, 16, 1, 1, .host, [⟨31, 12, .rw, 0x0⟩]⟩,
  ⟨0x310C, 64, 16, 1, 1, .host, [⟨15, 0, .rw, 0x0⟩]⟩,
  ⟨0x15100, 1, 1, 1, 1, .chip, [⟨7, 0, .ro, 0x0⟩, ⟨8, 8, .ro, 0x0⟩, ⟨9, 9, .w1c, 0x0⟩]⟩,
  ⟨0x15104, 1, 1, 1, 1, .chip, [⟨8, 0, .ro, 0x0⟩, ⟨9, 9, .ro, 0x0⟩, ⟨10, 10, .ro, 0x0⟩, ⟨19, 12, .ro, 0x0⟩, ⟨27, 20, .ro, 0x0⟩]⟩,
  ⟨0x15110, 1, 1, 1, 1, .keep, [⟨9, 0, .kw, 0x14⟩, ⟨25, 16, .kw, 0x14⟩]⟩,
  ⟨0x15114, 1, 1, 1, 1, .keep, [⟨13, 0, .kw, 0x3E8⟩]⟩,
  ⟨0x15120, 1, 1, 1, 1, .func, [⟨5, 0, .rw, 0x0⟩]⟩,
  ⟨0x15124, 1, 1, 1, 1, .chip, [⟨8, 0, .ro, 0x0⟩, ⟨17, 9, .ro, 0x0⟩, ⟨18, 18, .ro, 0x0⟩]⟩,
  ⟨0x15140, 1, 1, 1, 1, .chip, [⟨31, 0, .ro, 0x0⟩]⟩,
  ⟨0x15144, 1, 1, 1, 1, .chip, [⟨31, 0, .ro, 0x0⟩]⟩]

/-- Part 14 of the register table. -/
def regTable14 : List RegDesc := [
  ⟨0x15148, 1, 1, 1, 1, .chip, [⟨31, 0, .ro, 0x0⟩]⟩,
  ⟨0x1514C, 1, 1, 1, 1, .chip, [⟨31, 0, .ro, 0x0⟩]⟩,
  ⟨0x15150, 1, 1, 1, 1, .chip, [⟨31, 0, .ro, 0x0⟩]⟩,
  ⟨0x15154, 1, 1, 1, 1, .chip, [⟨31, 0, .ro, 0x0⟩]⟩,
  ⟨0xE000, 1, 1, 1, 1, .chip, [⟨0, 0, .ro, 0x0⟩, ⟨1, 1, .ro, 0x0⟩, ⟨2, 2, .ro, 0x0⟩, ⟨3, 3, .ro, 0x0⟩, ⟨4, 4, .ro, 0x0⟩]⟩,
  ⟨0xE004, 1, 1, 1, 1, .func, [⟨7, 0, .rw, 0x0⟩]⟩,
  ⟨0xE008, 1, 1, 1, 1, .chip, [⟨31, 0, .ro, 0x0⟩]⟩,
  ⟨0xE00C, 1, 1, 1, 1, .chip, [⟨31, 0, .ro, 0x0⟩]⟩,
  ⟨0xE010, 8, 4, 1, 1, .chip, [⟨31, 0, .ro, 0x0⟩]⟩,
  ⟨0xE030, 1, 1, 1, 1, .keep, [⟨31, 0, .ro, 0x0⟩]⟩,
  ⟨0xE034, 1, 1, 1, 1, .keep, [⟨31, 0, .ro, 0x0⟩]⟩,
  ⟨0xE040, 1, 1, 1, 1, .chip, [⟨31, 0, .ro, 0x0⟩]⟩,
  ⟨0xE044, 1, 1, 1, 1, .chip, [⟨31, 0, .ro, 0x0⟩]⟩,
  ⟨0xE048, 1, 1, 1, 1, .chip, [⟨31, 0, .ro, 0x0⟩]⟩,
  ⟨0xE04C, 1, 1, 1, 1, .chip, [⟨31, 0, .ro, 0x0⟩]⟩,
  ⟨0x13000, 1, 1, 1, 1, .chip, [⟨8, 0, .ro, 0x1FF⟩, ⟨9, 9, .ro, 0x0⟩, ⟨10, 10, .ro, 0x0⟩, ⟨13, 11, .ro, 0x0⟩]⟩,
  ⟨0x13008, 1, 1, 1, 1, .chip, [⟨31, 0, .ro, 0x0⟩]⟩,
  ⟨0x1300C, 1, 1, 1, 1, .chip, [⟨31, 0, .ro, 0x0⟩]⟩,
  ⟨0x13010, 1, 1, 1, 1, .keep, [⟨6, 0, .ro, 0x0⟩]⟩,
  ⟨0x13020, 1, 1, 1, 1, .func, [⟨8, 0, .rw, 0x0⟩]⟩,
  ⟨0x13024, 1, 1, 1, 1, .func, [⟨0, 0, .ro, 0x0⟩, ⟨1, 1, .ro, 0x0⟩]⟩,
  ⟨0x13028, 1, 1, 1, 1, .keep, [⟨6, 0, .kw, 0x52⟩, ⟨7, 7, .kw, 0x1⟩]⟩,
  ⟨0x13040, 1, 1, 1, 1, .chip, [⟨31, 0, .ro, 0x0⟩]⟩,
  ⟨0x13044, 1, 1, 1, 1, .chip, [⟨31, 0, .ro, 0x0⟩]⟩,
  ⟨0x13048, 1, 1, 1, 1, .chip, [⟨31, 0, .ro, 0x0⟩]⟩]

/-- Part 15 of the register table. -/
def regTable15 : List RegDesc := [
  ⟨0x1304C, 1, 1, 1, 1, .chip, [⟨31, 0, .ro, 0x0⟩]⟩,
  ⟨0x13050, 1, 1, 1, 1, .chip, [⟨31, 0, .ro, 0x0⟩]⟩,
  ⟨0x12000, 1, 1, 1, 1, .chip, [⟨0, 0, .ro, 0x0⟩, ⟨1, 1, .ro, 0x0⟩, ⟨3, 2, .ro, 0x0⟩, ⟨4, 4, .ro, 0x0⟩, ⟨5, 5, .ro, 0x0⟩, ⟨6, 6, .ro, 0x0⟩, ⟨7, 7, .ro, 0x0⟩, ⟨8, 8, .ro, 0x0⟩, ⟨10, 9, .ro, 0x0⟩, ⟨11, 11, .ro, 0x1⟩]⟩,
  ⟨0x12004, 1, 1, 1, 1, .keep, [⟨7, 0, .kw, 0xAA⟩, ⟨14, 8, .kw, 0x8⟩]⟩,
  ⟨0x12008, 1, 1, 1, 1, .keep, [⟨0, 0, .kw, 0x0⟩, ⟨3, 2, .kw, 0x2⟩]⟩,
  ⟨0x1200C, 1, 1, 1, 1, .keep, [⟨15, 0, .kw, 0xBB8⟩, ⟨31, 16, .kw, 0x7D0⟩]⟩,
  ⟨0x12010, 1, 1, 1, 1, .chip, [⟨15, 0, .ro, 0x0⟩]⟩,
  ⟨0x12014, 1, 1, 1, 1, .chip, [⟨15, 0, .ro, 0x0⟩]⟩,
  ⟨0x12018, 1, 1, 1, 1, .chip, [⟨15, 0, .ro, 0x0⟩]⟩,
  ⟨0x1201C, 1, 1, 1, 1, .chip, [⟨15, 0, .ro, 0x0⟩]⟩,
  ⟨0x12020, 1, 1, 1, 1, .chip, [⟨31, 0, .ro, 0x0⟩]⟩,
  ⟨0x12024, 1, 1, 1, 1, .chip, [⟨31, 0, .ro, 0x0⟩]⟩,
  ⟨0x12028, 1, 1, 1, 1, .keep, [⟨7, 0, .kw, 0x91⟩, ⟨11, 8, .kw, 0x5⟩]⟩,
  ⟨0x12030, 1, 1, 1, 1, .keep, [⟨31, 0, .ro, 0x0⟩]⟩,
  ⟨0x12034, 1, 1, 1, 1, .keep, [⟨31, 0, .ro, 0x0⟩]⟩,
  ⟨0x12040, 1, 1, 1, 1, .chip, [⟨31, 0, .ro, 0x0⟩]⟩,
  ⟨0x12044, 1, 1, 1, 1, .chip, [⟨31, 0, .ro, 0x0⟩]⟩,
  ⟨0x12048, 1, 1, 1, 1, .chip, [⟨31, 0, .ro, 0x0⟩]⟩,
  ⟨0x1204C, 1, 1, 1, 1, .chip, [⟨31, 0, .ro, 0x0⟩]⟩,
  ⟨0x12050, 1, 1, 1, 1, .chip, [⟨31, 0, .ro, 0x0⟩]⟩,
  ⟨0x14000, 1, 1, 1, 1, .keep, [⟨1, 0, .kw, 0x3⟩, ⟨7, 4, .kw, 0x2⟩, ⟨31, 16, .kw, 0x3E8⟩]⟩,
  ⟨0x14004, 1, 1, 1, 1, .chip, [⟨1, 0, .ro, 0x0⟩, ⟨10, 8, .ro, 0x0⟩]⟩,
  ⟨0x14008, 1, 1, 1, 1, .chip, [⟨31, 0, .ro, 0x0⟩]⟩,
  ⟨0x1400C, 1, 1, 1, 1, .chip, [⟨31, 0, .ro, 0x0⟩]⟩,
  ⟨0x14020, 1, 1, 1, 1, .chip, [⟨31, 0, .ro, 0x0⟩]⟩]

/-- Part 16 of the register table. -/
def regTable16 : List RegDesc := [
  ⟨0x14024, 1, 1, 1, 1, .chip, [⟨31, 0, .ro, 0x0⟩]⟩,
  ⟨0x14028, 1, 1, 1, 1, .chip, [⟨31, 0, .ro, 0x0⟩]⟩,
  ⟨0x1402C, 1, 1, 1, 1, .chip, [⟨31, 0, .ro, 0x0⟩]⟩,
  ⟨0x14030, 1, 1, 1, 1, .chip, [⟨31, 0, .ro, 0x0⟩]⟩,
  ⟨0x6800, 1, 1, 1, 1, .chip, [⟨1, 0, .ro, 0x0⟩, ⟨2, 2, .ro, 0x0⟩, ⟨3, 3, .ro, 0x1⟩, ⟨4, 4, .ro, 0x0⟩]⟩,
  ⟨0x6804, 1, 1, 1, 1, .keep, [⟨15, 0, .kw, 0x258⟩]⟩,
  ⟨0x6810, 1, 1, 1, 1, .chip, [⟨31, 0, .ro, 0x0⟩]⟩,
  ⟨0x6814, 1, 1, 1, 1, .chip, [⟨31, 0, .ro, 0x0⟩]⟩,
  ⟨0x6818, 1, 1, 1, 1, .chip, [⟨31, 0, .ro, 0x0⟩]⟩,
  ⟨0x1000, 1, 1, 1, 1, .chip, [⟨1, 0, .ro, 0x0⟩, ⟨3, 2, .ro, 0x0⟩]⟩,
  ⟨0x1004, 1, 1, 1, 1, .chip, [⟨31, 0, .ro, 0x0⟩]⟩,
  ⟨0x1008, 1, 1, 1, 1, .chip, [⟨0, 0, .ro, 0x0⟩]⟩,
  ⟨0x1010, 1, 1, 1, 1, .keep, [⟨15, 0, .kw, 0x2EE0⟩]⟩,
  ⟨0x1014, 1, 1, 1, 1, .chip, [⟨31, 0, .ro, 0xFFFFFFFF⟩]⟩,
  ⟨0x16000, 1, 1, 1, 1, .por, [⟨0, 0, .ro, 0x1⟩, ⟨11, 1, .ro, 0x60F⟩, ⟨27, 12, .ro, 0x9032⟩, ⟨31, 28, .ro, 0x1⟩]⟩,
  ⟨0x16004, 1, 1, 1, 1, .chip, [⟨0, 0, .rw, 0x1⟩, ⟨1, 1, .rw, 0x1⟩]⟩,
  ⟨0x16008, 1, 1, 1, 1, .keep, [⟨1, 0, .kw, 0x1⟩]⟩,
  ⟨0x16010, 1, 1, 1, 1, .func, [⟨2, 0, .rw, 0x0⟩]⟩,
  ⟨0x16014, 1, 1, 1, 1, .chip, [⟨15, 0, .ro, 0x0⟩, ⟨31, 16, .ro, 0x0⟩]⟩,
  ⟨0x110000, 256, 64, 1, 1, .func, [⟨31, 12, .rw, 0x0⟩]⟩,
  ⟨0x4000, 4, 64, 1, 1, .func, [⟨31, 12, .rw, 0x0⟩]⟩,
  ⟨0x110004, 256, 64, 1, 1, .func, [⟨31, 0, .rw, 0x0⟩]⟩,
  ⟨0x4004, 4, 64, 1, 1, .func, [⟨31, 0, .rw, 0x0⟩]⟩,
  ⟨0x110008, 256, 64, 1, 1, .func, [⟨4, 0, .rw, 0x4⟩, ⟨9, 8, .rw, 0x2⟩, ⟨23, 16, .rw, 0x0⟩, ⟨24, 24, .rw, 0x0⟩]⟩,
  ⟨0x4008, 4, 64, 1, 1, .func, [⟨4, 0, .rw, 0x4⟩, ⟨9, 8, .rw, 0x2⟩, ⟨23, 16, .rw, 0x0⟩, ⟨24, 24, .rw, 0x0⟩]⟩]

/-- Part 17 of the register table. -/
def regTable17 : List RegDesc := [
  ⟨0x11000C, 256, 64, 1, 1, .func, [⟨31, 0, .rw, 0x0⟩]⟩,
  ⟨0x400C, 4, 64, 1, 1, .func, [⟨31, 0, .rw, 0x0⟩]⟩,
  ⟨0x110010, 256, 64, 1, 1, .func, [⟨31, 0, .rw, 0x0⟩]⟩,
  ⟨0x4010, 4, 64, 1, 1, .func, [⟨31, 0, .rw, 0x0⟩]⟩,
  ⟨0x110014, 256, 64, 1, 1, .func, [⟨0, 0, .rw, 0x0⟩, ⟨1, 1, .wo, 0x0⟩]⟩,
  ⟨0x4014, 4, 64, 1, 1, .func, [⟨0, 0, .rw, 0x0⟩, ⟨1, 1, .wo, 0x0⟩]⟩,
  ⟨0x110018, 256, 64, 1, 1, .func, [⟨2, 0, .ro, 0x0⟩, ⟨5, 4, .ro, 0x0⟩]⟩,
  ⟨0x4018, 4, 64, 1, 1, .func, [⟨2, 0, .ro, 0x0⟩, ⟨5, 4, .ro, 0x0⟩]⟩,
  ⟨0x11001C, 256, 64, 1, 1, .func, [⟨16, 0, .rw, 0x0⟩]⟩,
  ⟨0x401C, 4, 64, 1, 1, .func, [⟨16, 0, .rw, 0x0⟩]⟩,
  ⟨0x110020, 256, 64, 1, 1, .func, [⟨16, 0, .ro, 0x0⟩]⟩,
  ⟨0x4020, 4, 64, 1, 1, .func, [⟨16, 0, .ro, 0x0⟩]⟩,
  ⟨0x110024, 256, 64, 1, 1, .func, [⟨31, 0, .ro, 0x0⟩]⟩,
  ⟨0x4024, 4, 64, 1, 1, .func, [⟨31, 0, .ro, 0x0⟩]⟩,
  ⟨0x114000, 256, 64, 1, 1, .func, [⟨31, 12, .rw, 0x0⟩]⟩,
  ⟨0x4100, 4, 64, 1, 1, .func, [⟨31, 12, .rw, 0x0⟩]⟩,
  ⟨0x114004, 256, 64, 1, 1, .func, [⟨31, 0, .rw, 0x0⟩]⟩,
  ⟨0x4104, 4, 64, 1, 1, .func, [⟨31, 0, .rw, 0x0⟩]⟩,
  ⟨0x114008, 256, 64, 1, 1, .func, [⟨4, 0, .rw, 0x4⟩, ⟨15, 8, .rw, 0x0⟩, ⟨16, 16, .rw, 0x1⟩, ⟨31, 24, .rw, 0x10⟩]⟩,
  ⟨0x4108, 4, 64, 1, 1, .func, [⟨4, 0, .rw, 0x4⟩, ⟨15, 8, .rw, 0x0⟩, ⟨16, 16, .rw, 0x1⟩, ⟨31, 24, .rw, 0x10⟩]⟩,
  ⟨0x11400C, 256, 64, 1, 1, .func, [⟨7, 0, .rw, 0x0⟩, ⟨23, 8, .rw, 0xA⟩]⟩,
  ⟨0x410C, 4, 64, 1, 1, .func, [⟨7, 0, .rw, 0x0⟩, ⟨23, 8, .rw, 0xA⟩]⟩,
  ⟨0x114014, 256, 64, 1, 1, .func, [⟨0, 0, .rw, 0x0⟩, ⟨1, 1, .wo, 0x0⟩]⟩,
  ⟨0x4114, 4, 64, 1, 1, .func, [⟨0, 0, .rw, 0x0⟩, ⟨1, 1, .wo, 0x0⟩]⟩,
  ⟨0x114018, 256, 64, 1, 1, .func, [⟨2, 0, .ro, 0x0⟩, ⟨3, 3, .ro, 0x0⟩, ⟨15, 8, .ro, 0x0⟩, ⟨23, 16, .ro, 0x0⟩]⟩]

/-- Part 18 of the register table. -/
def regTable18 : List RegDesc := [
  ⟨0x4118, 4, 64, 1, 1, .func, [⟨2, 0, .ro, 0x0⟩, ⟨3, 3, .ro, 0x0⟩, ⟨15, 8, .ro, 0x0⟩, ⟨23, 16, .ro, 0x0⟩]⟩,
  ⟨0x11401C, 256, 64, 1, 1, .func, [⟨16, 0, .ro, 0x0⟩]⟩,
  ⟨0x411C, 4, 64, 1, 1, .func, [⟨16, 0, .ro, 0x0⟩]⟩,
  ⟨0x114020, 256, 64, 1, 1, .func, [⟨16, 0, .ro, 0x0⟩]⟩,
  ⟨0x4120, 4, 64, 1, 1, .func, [⟨16, 0, .ro, 0x0⟩]⟩,
  ⟨0x114024, 256, 64, 1, 1, .func, [⟨31, 0, .ro, 0x0⟩]⟩,
  ⟨0x4124, 4, 64, 1, 1, .func, [⟨31, 0, .ro, 0x0⟩]⟩,
  ⟨0x114028, 256, 64, 1, 1, .func, [⟨31, 0, .ro, 0x0⟩]⟩,
  ⟨0x4128, 4, 64, 1, 1, .func, [⟨31, 0, .ro, 0x0⟩]⟩,
  ⟨0x140000, 256, 8, 1, 1, .func, [⟨16, 0, .rw, 0x0⟩]⟩,
  ⟨0x4200, 4, 8, 1, 1, .func, [⟨16, 0, .rw, 0x0⟩]⟩,
  ⟨0x140800, 256, 8, 1, 1, .func, [⟨16, 0, .rw, 0x0⟩]⟩,
  ⟨0x4240, 4, 8, 1, 1, .func, [⟨16, 0, .rw, 0x0⟩]⟩,
  ⟨0x101000, 1, 64, 1, 1, .func, [⟨0, 0, .w1c, 0x0⟩]⟩,
  ⟨0x4600, 1, 64, 1, 1, .func, [⟨0, 0, .w1c, 0x0⟩]⟩,
  ⟨0x101004, 1, 64, 1, 1, .func, [⟨7, 0, .rw, 0x8⟩, ⟨15, 8, .rw, 0x4⟩, ⟨23, 16, .rw, 0x1⟩]⟩,
  ⟨0x4604, 1, 64, 1, 1, .func, [⟨7, 0, .rw, 0x8⟩, ⟨15, 8, .rw, 0x4⟩, ⟨23, 16, .rw, 0x1⟩]⟩,
  ⟨0x101010, 1, 64, 1, 1, .chip, [⟨31, 0, .ro, 0x0⟩]⟩,
  ⟨0x4610, 1, 64, 1, 1, .chip, [⟨31, 0, .ro, 0x0⟩]⟩,
  ⟨0x101014, 1, 64, 1, 1, .chip, [⟨31, 0, .ro, 0x0⟩]⟩,
  ⟨0x4614, 1, 64, 1, 1, .chip, [⟨31, 0, .ro, 0x0⟩]⟩,
  ⟨0x101018, 1, 64, 1, 1, .chip, [⟨31, 0, .ro, 0x0⟩]⟩,
  ⟨0x4618, 1, 64, 1, 1, .chip, [⟨31, 0, .ro, 0x0⟩]⟩,
  ⟨0x10101C, 1, 64, 1, 1, .chip, [⟨31, 0, .ro, 0x0⟩]⟩,
  ⟨0x461C, 1, 64, 1, 1, .chip, [⟨31, 0, .ro, 0x0⟩]⟩]

/-- Part 19 of the register table. -/
def regTable19 : List RegDesc := [
  ⟨0x101020, 1, 64, 1, 1, .chip, [⟨31, 0, .ro, 0x0⟩]⟩,
  ⟨0x4620, 1, 64, 1, 1, .chip, [⟨31, 0, .ro, 0x0⟩]⟩]

/-- Every register. -/
def regTable : List RegDesc :=
  regTable0 ++ regTable1 ++ regTable2 ++ regTable3 ++ regTable4 ++ regTable5 ++ regTable6 ++ regTable7 ++ regTable8 ++ regTable9 ++ regTable10 ++ regTable11 ++ regTable12 ++ regTable13 ++ regTable14 ++ regTable15 ++ regTable16 ++ regTable17 ++ regTable18 ++ regTable19

/-- Does the family hold the register at a key? -/
def RegDesc.covers (d : RegDesc) (k : Nat) : Bool :=
  if k < d.base then false
  else
    let o := k - d.base
    if d.n2 = 1 then o % d.s1 == 0 && decide (o / d.s1 < d.n1)
    else decide (o / d.s1 < d.n1) && (o % d.s1) % d.s2 == 0 && decide ((o % d.s1) / d.s2 < d.n2)

/-- The description of the register at a key; none where the offset is reserved (R390, R391). -/
def regDesc? (k : Nat) : Option RegDesc := regTable.find? fun d => d.covers k

/-- The value its fields' resets give a register. -/
def RegDesc.reset (d : RegDesc) : Nat := d.fields.foldl (fun v f => v ||| f.rst <<< f.lo) 0

/-- Reset value of the register at a key; 0 where reserved (R6). -/
def regReset (k : Nat) : Nat := match regDesc? k with
  | some d => d.reset
  | none => 0

end Sys2Proof.Machine
end

