-- ==== Sys2Proof/Machine/State.lean ====
section
/-! DEFINITION. The state of the LN9032, as plain data: every register, queue, buffer, counter, mode and pin of the spec,
the queue of waiting commands, the reasons a step can stop, and the state right after a power-on reset of a new part. -/

namespace Sys2Proof.Machine

/-- No command of the model faults. The constructor stands for an access the state cannot hold; nothing raises it. Safe. -/
inductive Fault where
  | none
deriving DecidableEq, Repr

/-- Why a command has no outcome. -/
inductive Refusal where
  /-- The command has no meaning yet. Only an arm of Dispatch.lean may raise it, and none does now. Safe. -/
  | notModelled (mnemonic : String)
deriving DecidableEq, Repr

/-- NVMe operations the controller sends to members (chapter 12). -/
inductive MOp where
  | read | write | writeFua | flush | writeZeroes | dealloc | identCtrl | identNs | setQueues | createQueue | deleteQueue | vwcOff
  | smart | abort
deriving DecidableEq, Repr

/-! ### Log streams and boot volumes (chapter 06) -/

/-- What the header of a log stripe says (Table 06-3). -/
structure LogStripe where
  records : Nat := 0
  first : Nat := 0
  last : Nat := 0
  firstT : Nat := 0
  lastT : Nat := 0
  used : Nat := 0
deriving DecidableEq, Repr

/-- A Log Append in hand: its stream, place and header fields (R113 to R118). -/
structure LogOp where
  stream : Nat
  seq : Nat
  time : Nat
  clamped : Bool
  stripe : Nat
  off : Nat
  /-- first byte its move writes: its own place, or that of a hole before it -/
  from_ : Nat
  len : Nat
  user : Nat
  /-- whether credit has been settled, and whether its payload could not be fetched -/
  credit : Bool
  void : Bool
deriving DecidableEq, Repr

/-- A log stream. The first nine fields are held in the Keep. -/
structure Stream where
  /-- Table 06-2; a FREE stream has no entry -/
  state : Nat
  policy : Nat
  vol : Nat
  idleMs : Nat
  base : Nat
  count : Nat
  recMax : Nat
  retain : Nat
  trim : Nat
  next : Nat
  vis : Nat
  cur : Nat
  lastTime : Nat
  /-- headers of the stripes that hold records, by stripe of the extent -/
  idx : NMap LogStripe
  /-- SEQs above VISIBLE that have completed (R119) -/
  done : List Nat
  /-- refused appends not yet completed (R118) -/
  refused : List Nat
  /-- appends that ended with an error: the next record's move writes a VOID in their place (log entry 143) -/
  holes : List LogOp
  /-- AON count of the last re-check while HOLDING (R111) -/
  holdAt : Nat
deriving DecidableEq, Repr

/-- A Log Read in hand (R123): next SEQ wanted, stripe being read, bytes and records copied, first SEQ copied, and the
blocks of the stripe that have arrived. -/
structure LogRd where
  stream : Nat
  want : Nat
  stripe : Nat
  bytes : Nat
  recs : Nat
  first : Nat
  blks : NMap (List Byte)
deriving DecidableEq, Repr

/-- Streams and boot volumes. -/
structure Services where
  streams : NMap Stream := []
  /-- READY boot volumes (R125) -/
  ready : List Nat := []
  /-- AON count at the start of STARTUP -/
  startAt : Nat := 0
  bootT : Option Nat := none
  recovering : Bool := false
  /-- entries of the restored image's stream table, by stream (Table 08-10) -/
  tab : NMap (List Byte) := []
deriving DecidableEq, Repr

/-! ### Host port (chapter 13) -/

/-- What a device-originated read is for. -/
inductive RdPurpose where
  /-- n entries of submission ring q from a Table 14-2 position (R319) -/
  | fetch (q pos n : Nat)
  /-- one entry read again (R317) -/
  | reread (q pos : Nat)
  /-- the 64-byte line of completion ring c that holds its next entry (R318) -/
  | cqLine (c pos : Nat)
  /-- segment list of command h (R338) -/
  | sgl (h : Nat)
  /-- bytes off to off + len of data block blk of command h -/
  | part (h blk off len : Nat)
  /-- nothing: its ring has been disabled since -/
  | gone
deriving DecidableEq, Repr

/-- A device-originated read that waits for a tag (R294). -/
structure RdReq where
  f : Func
  addr : Nat
  len : Nat
  purp : RdPurpose
deriving DecidableEq, Repr

/-- A device-originated read in flight (R301). -/
structure HostRead where
  tag : Nat
  req : RdReq
  /-- AON count at issue, and the timeout in force then (Table 13-5), µs -/
  issued : Nat
  timeout : Nat
  /-- its data is discarded (R296) -/
  stopped : Bool
  /-- issued by a function then under or reset by FLR (R298, R303) -/
  flr : Bool
deriving DecidableEq, Repr

/-- A quarantined tag and its release time (R301). -/
structure Quar where
  tag : Nat
  freeAt : Nat
deriving DecidableEq, Repr

/-- One MSI-X table entry and its pending bit (R295); a reset leaves every vector masked (Table 13-6). -/
structure Msix where
  addr : Nat := 0
  data : Nat := 0
  mask : Bool := true
  pend : Bool := false
deriving DecidableEq, Repr

/-- A notice and event: Tables 15-9 and 16-8. -/
structure Note where
  unit : Nat
  value : Nat
  sev : Nat
  arg : Nat
  detail : Nat
  amount : Nat
  time : Nat
  rep : Nat
deriving DecidableEq, Repr

/-- What the controller puts out at its boundary, in order (R293 for the host). -/
inductive HostOut where
  | memWrite (f : Func) (addr : Nat) (data : List Byte)
  | memRead (f : Func) (tag addr len : Nat)
  | msix (f : Func) (vec addr data : Nat)
  | ltr (us : Nat)
  | pme (f : Func)
  | cfgReply (f : Func) (off : Nat) (val : W32)
  | cfgRetry (f : Func)
  /-- completion of a BAR read; status 0 success, 1 Unsupported Request, 2 poisoned -/
  | barReply (f : Func) (status : Nat) (data : List Byte)
  /-- NVMe command to a member: port, queue pair (0 admin), identifier, operation, LBA, blocks, data, tags -/
  | member (port qp cid : Nat) (op : MOp) (lba n : Nat) (data tags : List (List Byte))
  /-- bytes an I2C read of the management target returns (R369) -/
  | mgt (data : List Byte)
  /-- a register read answered on the console (R409) -/
  | console (val : W32)
  /-- test data output after an instruction (R407): width and value of the register selected -/
  | tap (width val : Nat)
  /-- output bits written to a sideband bus (R283) -/
  | sideband (bus : Nat) (bits : Nat)
  /-- the text line of a notice on UART_TX (R409); its wording is open (log entry 91) -/
  | line (n : Note)
deriving DecidableEq, Repr

/-- Host port state that is not a register of the map. -/
structure HostPort where
  /-- device-originated reads in flight, oldest first -/
  reads : List HostRead := []
  /-- reads waiting for a tag -/
  rdq : List RdReq := []
  quar : List Quar := []
  /-- configuration space dwords written by the host, keyed by 4096 × function + offset (Tables 13-1, 13-2) -/
  cfg : NMap W32 := []
  /-- MSI-X tables, keyed by 256 × function + vector -/
  msix : NMap Msix := []
  /-- AON count at the start of an FLR in progress (R303) -/
  flr0 : Option Nat := none
  flr1 : Option Nat := none
  /-- PERST# has been released and configuration requests may be answered (R305) -/
  cfgReady : Bool := false
  /-- subsystem IDs and BAR2 sizes as applied at the last HOST reset (HP_SUBSYS, HP_BAR2CFG) -/
  subsys : Nat := 0x00011F9B
  bar2 : Nat := 0
  /-- LTR value last sent, and the AON count since when no PF0 command is outstanding (R308) -/
  ltrLast : Option Nat := none
  ltrIdle : Option Nat := none
  /-- WAKE_N is driven low (R307) -/
  wake : Bool := false
  /-- the link is in L2 with PF1 in D3cold (R307) -/
  d3cold : Bool := false
deriving DecidableEq, Repr

/-! ### Rings and Baskets (chapter 14) -/

/-- A submission ring: positions are Table 14-2 values. -/
structure Sq where
  /-- Table 14-3 -/
  state : Nat := 0
  err : Nat := 0
  head : Nat := 0
  tail : Nat := 0
  pub : Nat := 0
  count : Nat := 0
  /-- bytes of the open inline assembly (R322) -/
  asm : Option (List (Option Byte)) := none
  /-- AON count when the head first advanced beyond the last report (R320) -/
  headAt : Option Nat := none
  /-- entry read with OWN = 0: AON count of that read (R317) -/
  ownAt : Option Nat := none
deriving DecidableEq, Repr

/-- A completion as it travels: Table 15-2 before its marking bit. -/
structure Comp where
  f : Func
  cq : Nat
  sq : Nat
  /-- Table 14-2 position of its submission entry -/
  pos : Nat
  prio : Nat
  cid : Nat
  status : Nat
  cflags : Nat
  res0 : Nat
  res1 : Nat
deriving DecidableEq, Repr

/-- What a unit deposits into the Collector (R12). -/
inductive Deposit where
  | comp (c : Comp)
  | note (n : Note)
deriving DecidableEq, Repr

/-- A Collector item. A notice's stage is released when the Reeve has drained it and the Almanac has taken its event. -/
structure ColItem where
  rank : Nat
  dep : Deposit
  at_ : Nat
  promoted : Bool
  drained : Bool
  taken : Bool
deriving DecidableEq, Repr

/-- A completion ring: positions are Table 14-2 values. -/
structure Cq where
  /-- 0 DISABLED, 1 RUNNING, 3 HALTED_BME, 4 HALTED_FREEZE (R324) -/
  state : Nat := 0
  head : Nat := 0
  tail : Nat := 0
  count : Nat := 0
  stalls : Nat := 0
  stalled : Bool := false
  /-- completions written and not signalled, and the AON count of the oldest (R335) -/
  unsig : Nat := 0
  unsigAt : Nat := 0
  /-- AON count since when completions wait for room (R334) -/
  waitAt : Option Nat := none
  /-- Collector credits held (R331) -/
  credits : Nat := 0
  /-- items set aside, in order (R333) -/
  hold : List Comp := []
  /-- AON count of the last ownership-line read (R318) -/
  pollAt : Option Nat := none
deriving DecidableEq, Repr

/-- An Inline Basket item (R321). -/
structure InlItem where
  f : Func
  q : Nat
  pos : Nat
  data : List Byte
  at_ : Nat
deriving DecidableEq, Repr

/-- Rings, Inline Basket and Collector. -/
structure Rings where
  /-- submission and completion rings, keyed by 256 × function + number -/
  sq : NMap Sq := []
  cq : NMap Cq := []
  /-- grants left in this round for classes 1, 2, 3 (R319) -/
  round : List Nat := [0, 0, 0]
  /-- last ring served in each class, as a key (R17) -/
  rr : NMap Nat := []
  inl : List InlItem := []
  /-- Collector items, oldest first -/
  col : List ColItem := []
  /-- deposits each rank of Table 14-6 presents or keeps in its list of 8, oldest first -/
  units : NMap (List Deposit) := []
  /-- next rank the entry arbiter looks at (R332) -/
  sweep : Nat := 0
  /-- AON count since when the PF0 pool has been empty (R334) -/
  poolAt : Option Nat := none
  /-- notices written so far (Table 15-9) -/
  notices : Nat := 0
  /-- NOTICE_ROUTE: admin completion ring and lowest severity (R349) -/
  routeRing : Nat := 0
  routeSev : Nat := 1
deriving DecidableEq, Repr

/-! ### Commands taken from rings (chapter 15) -/

/-- How far a taken command has come. -/
inductive CmdPh where
  /-- its segment list is being read -/
  | sgl
  /-- its data from the host is being read before it can execute (admin commands) -/
  | data
  /-- checked at the take and ready to execute -/
  | ready
  /-- its credit request waits at the Tally (R136) -/
  | credit
  /-- its blocks are moving, or its pieces are being served -/
  | moving
  /-- all its work but an awaited event is done (write-through, background) -/
  | waiting
deriving DecidableEq, Repr

/-- Data of a command that has arrived: block, offset in the block, bytes. -/
structure Part where
  blk : Nat
  off : Nat
  data : List Byte
deriving DecidableEq, Repr

/-- A taken command. -/
structure Cmd where
  h : Nat
  f : Func
  sq : Nat
  cq : Nat
  /-- Table 14-2 position of its entry -/
  pos : Nat
  prio : Nat
  /-- the 64 bytes of Table 15-1 -/
  ent : List Byte
  ph : CmdPh
  /-- the host buffer as address and length pairs (R338) -/
  segs : List (Nat × Nat) := []
  recv : List Part := []
  /-- blocks of the command not yet moved or served, as offsets from the first -/
  todo : List Nat := []
  /-- blocks waiting for a slot or frame (R83) -/
  slotWait : List Nat := []
  /-- credit granted (R135); a write without credit is write-through -/
  credited : Bool := false
  wt : Bool := false
  /-- frames it has blocks in, whose CLOSE it awaits if it is write-through (R73): array, and twice the stripe, one more
  when its blocks lie in successor slots -/
  waits : List (Nat × Nat) := []
  log : Option LogOp := none
  rd : Option LogRd := none
  status : Nat := 0
  cflags : Nat := 0
  res0 : Nat := 0
  res1 : Nat := 0
  /-- AON count when it was taken or when its credit request began to wait -/
  since : Nat := 0
  /-- a reset of its function has passed: its completion is discarded (R296, Table 13-6) -/
  quiet : Bool := false
deriving DecidableEq, Repr

/-! ### Keep and Almanac (chapter 16) -/

/-- A valid nonce (R359). -/
structure Nonce where
  val : List Byte
  at_ : Nat
deriving DecidableEq, Repr

/-- Keep state beside its bytes; the KEEP domain's typed records follow in their own blocks. -/
structure KeepSt where
  /-- writes are inhibited since VDD_KEEP fell (R353) -/
  inhibit : Bool := false
  /-- word writes per page since the last save (R355) -/
  wear : NMap Nat := []
  /-- offset from the AON count to device time, held in the Keep (R345); after POR it is SS_TSAVE plus 60 s (R385) -/
  timeOff : Nat := 60000000
  nonce : Option Nonce := none
  /-- words of the Keep that cannot be corrected, by number (R351) -/
  unc : List Nat := []
deriving DecidableEq, Repr

/-- An extreme: value and device time (Table 16-7). -/
structure AlExt where
  val : Int
  time : Nat
deriving DecidableEq, Repr

/-- The open epoch (R363). -/
structure AlOpen where
  start : Nat := 0
  /-- AON count at open, at the last checkpoint -/
  at_ : Nat := 0
  ckAt : Nat := 0
  sev : Nat := 0
  /-- signature of the first event of the highest severity: unit, value, arg, detail, amount -/
  sig : Option (Nat × Nat × Nat × Nat × Nat) := none
  ext : NMap AlExt := []
  /-- histogram bins, keyed by 16 × histogram + bin -/
  hist : NMap Nat := []
  slot : Option Nat := none
  seq : Nat := 0
  /-- AON count at which a held CONDITION close is due (R363) -/
  condAt : Option Nat := none
deriving DecidableEq, Repr

/-- The Almanac. -/
structure Almanac where
  isOpen : Bool := false
  cur : AlOpen := {}
  /-- AON count of the last close -/
  lastClose : Option Nat := none
  /-- merged repeats not yet written, the slot of the record they repeat, and the AON count of the last REPEAT write (R366) -/
  reps : Nat := 0
  repSlot : Nat := 0
  repAt : Nat := 0
  /-- records dropped since the previous record closed -/
  drops : Nat := 0
  /-- snapshot buffers (R368, R370) and their DONE and VALID bits -/
  rbuf : List Byte := []
  mgtBuf : List Byte := []
  mgtDone : Bool := false
  mgtValid : Bool := false
  mgtSlot : Nat := 0
  mgtPtr : Nat := 0
  /-- the health block of the last refresh (R370) and the refresh count -/
  health : List Byte := []
  refreshes : Nat := 0
deriving DecidableEq, Repr

/-! ### Arrays, volumes and the Stripe State Table (chapter 02) -/

/-- An array record, held in the Keep (ST_ACFGa and the registers beside it). -/
structure ArrayRec where
  /-- 0 PARITY, 1 MIRROR2, 2 MIRROR3 -/
  kind : Nat
  /-- D or G -/
  dw : Nat
  /-- K, or n − 1 -/
  k : Nat
  chunk : Nat
  meta_ : Nat
  /-- Table 02-10: 0 CREATING, 1 ONLINE, 2 OFFLINE, 3 DELETING -/
  state : Nat
  base : Nat
  count : Nat
  epoch : Nat
  /-- ST_AFAILa -/
  failed : Nat
  /-- port at each position -/
  pos : List Nat
  /-- hamper region, LBAs (R32) -/
  h : Nat
  ident : List Byte
  created : Nat
  /-- LABEL_GEN last written, by position -/
  labelGen : List Nat
  /-- Ledger copies (LG_ACOPYa): positions, validity, moves -/
  copyA : Option Nat
  copyB : Option Nat
  moves : Nat
  /-- NGUID of the member at each position, as recorded at assignment (R271) -/
  nguid : List (List Byte)
deriving DecidableEq, Repr

/-- A volume record, held in the Keep. -/
structure Vol where
  /-- 0 BLOCK, 1 LOG, 2 BOOT -/
  cls : Nat
  arr : Nat
  base : Nat
  count : Nat
  deleting : Bool
  prio : Nat
  /-- read deadline in 100 µs units (R275) -/
  deadline : Nat
deriving DecidableEq, Repr

/-- A spare, held in the Keep (ST_SPAREk). -/
structure Spare where
  port : Nat
  arrays : Nat
deriving DecidableEq, Repr

/-- A claim on a stripe (R44) and the task that holds it. -/
structure Hold where
  arr : Nat
  stripe : Nat
  owner : Nat
deriving DecidableEq, Repr

/-- Arrays, volumes and claims. arrays, vols and spares are KEEP; the rest is CHIP. -/
structure Arrays where
  arrays : NMap ArrayRec := []
  vols : NMap Vol := []
  spares : NMap Spare := []
  holds : List Hold := []
  /-- claimants waiting, in order: array, stripe, task (R44) -/
  claimQ : List Hold := []
  /-- state-area pages that differ from their member copies, keyed by 65536 × array + page, with the AON count of the
  first change not yet written (R46) -/
  pages : NMap Nat := []
  /-- a command ordered by the Reeve that runs in the background: handle of the command, opcode -/
  long : List (Nat × Nat) := []
deriving DecidableEq, Repr

/-! ### Member ports (chapter 12) -/

/-- Whose command a member command is. -/
inductive MClient where
  /-- block blk of host command h -/
  | host (h blk : Nat)
  /-- read of cell c, blocks from o, of task t -/
  | read (t c o : Nat)
  /-- write or flush of position p for task t -/
  | write (t p : Nat)
  /-- write or flush of the dump, naming its port -/
  | dump (p : Nat)
  /-- restore read of data chunk u, or of the XOR chunk of dump frame u - 2^32 -/
  | restore (u : Nat)
  /-- initialisation of the port, step of Table 12-4 -/
  | init
  | smart
  | none
deriving DecidableEq, Repr

/-- A command to a member: waiting, held or outstanding. -/
structure MCmd where
  port : Nat
  qp : Nat
  cid : Nat
  op : MOp
  lba : Nat
  n : Nat
  data : List (List Byte)
  tags : List (List Byte)
  client : MClient
  /-- AON count at issue; for a command that waits or is held, the time already counted (R277) -/
  issued : Nat
  /-- AON count at which its read deadline passes (R275); none when it carries none -/
  dl : Option Nat
  /-- already issued again once (R274) -/
  again : Bool
  /-- its deadline has passed: what arrives is late (R275) -/
  expired : Bool
  /-- timed out, ended internally and quarantined (R278) -/
  timedOut : Bool
deriving DecidableEq, Repr

/-- A member port. -/
structure Port where
  /-- Table 12-5 -/
  state : Nat := 0
  reason : Nat := 0
  vwc : Bool := false
  warn : Bool := false
  down : Bool := false
  meta_ : Nat := 0
  ioq : Nat := 0
  depth : Nat := 0
  lanes : Nat := 0
  speed : Nat := 0
  present : Bool := false
  /-- polls running with presence seen -/
  polls : Nat := 0
  /-- AON count of entry to POWERING, of the start of the bound in force (R285), and of CC.EN -/
  since : Nat := 0
  boundAt : Nat := 0
  enAt : Nat := 0
  /-- CSTS.RDY has set since CC.EN -/
  rdy : Bool := false
  /-- what Identify reported, and the label blocks read from a new member, by LBA (R248) -/
  idn : Option MemberIdent := none
  lab : NMap (List Byte) := []
  /-- INIT was entered from RETRAIN -/
  fromRetrain : Bool := false
  /-- NGUID and capacity of the member (R271, R33), and whether it is identified -/
  ident : Bool := false
  nguid : List Byte := []
  lbas : Nat := 0
  /-- the member is failed and takes no command (R246) -/
  failed : Bool := false
  /-- I/O pair served last (R272) -/
  rr : Nat := 0
  smartAt : Nat := 0
  /-- AON counts of recent timeouts, failed writes and unrecovered reads (R245) -/
  tmos : List Nat := []
  werrs : List Nat := []
  rerrs : List Nat := []
deriving DecidableEq, Repr

/-- Member ports and the sideband buses. -/
structure Members where
  ports : NMap Port := []
  /-- widths in force, as MP_QSTAT (R268) -/
  widths : Nat := 0
  /-- outstanding or held commands, oldest first -/
  cmds : List MCmd := []
  /-- commands waiting for a port or an identifier, oldest first -/
  wait : List MCmd := []
  /-- ended commands whose clients have still to act -/
  ends : List (MCmd × Bool × MPayload) := []
  /-- unanswered polls of each bus running, and output bits last written (R283) -/
  nak0 : Nat := 0
  nak1 : Nat := 0
  out0 : Nat := 0
  out1 : Nat := 0
  /-- member reads ended, of which one in 256 is sampled (R362) -/
  nread : Nat := 0
deriving DecidableEq, Repr

/-! ### The Loom (chapter 03) -/

/-- Where a chunk of a job lies: an internal address, or cell c of a task's buffers from block o. -/
inductive LLoc where
  | addr (a : Nat)
  | buf (t c o : Nat)
  /-- data chunk u of the dump's stream, or the XOR chunk of dump frame t -/
  | dump (u : Nat)
  | dumpXor (t : Nat)
deriving DecidableEq, Repr

/-- Whose job a job is. -/
inductive LClient where
  | task (t : Nat)
  | dump (fr : Nat)
  | test
deriving DecidableEq, Repr

/-- A Loom job (Table 03-3). -/
structure LJob where
  id : Nat
  q : Nat
  op : Nat
  d : Nat
  k : Nat
  erase : Nat
  zero : Nat
  len : Nat
  crcOut : Bool
  tag : Nat
  src : NMap LLoc
  dst : NMap LLoc
  /-- source and destination list, result record and CRC list addresses of a test job -/
  srcList : Nat := 0
  dstList : Nat := 0
  result : Nat
  crcList : Nat
  /-- a staged completion is deposited at the end, named by the handle of its command (R62) -/
  collect : Bool := false
  handle : Nat := 0
  /-- STRIPE and ARRAY of the job, for Almanac events -/
  context : Nat := 0
  client : LClient
  /-- the job is a second submission (R412) -/
  second : Bool
  /-- descriptor found bad (R60) -/
  bad : Bool
  /-- AON count at entry to the queue -/
  at_ : Nat
  /-- parked at a block boundary (R64) -/
  parked : Bool
deriving DecidableEq, Repr

/-- What a job gave (Table 03-4). -/
structure LRes where
  status : Nat
  synd : Nat
  located : Nat
  srcBad : Nat
  blockBad : Nat
  inBytes : Nat
  /-- CRC of output block: key 64 × ordinal + block -/
  crcs : NMap Nat
deriving DecidableEq, Repr

/-- The Loom. -/
structure Loom where
  /-- jobs whose clients wait for a queue credit (R15, R63) -/
  waiting : List LJob := []
  /-- the four queues, in arrival order, keyed by queue -/
  queues : NMap (List LJob) := []
  /-- contexts holding a job -/
  ctx : NMap LJob := []
  /-- pending injections (LM_CTRL.INJECT_DP) -/
  inject : Nat := 0
  /-- AON counts of recent DATAPATH endings (R66) -/
  dpEnds : List Nat := []
deriving DecidableEq, Repr

/-! ### The Ledger (chapter 05) -/

/-- What goes on once an entry is in the Keep ring. -/
inductive LgCont where
  | task (t : Nat)
  /-- stripe marked LOST under Table 11-7 -/
  | lost
  /-- stripe set RESYNC_DUE -/
  | resync
  /-- release of a LOST stripe by admin command h -/
  | release (h : Nat)
  | dumpOpen
  | dumpSeal
  /-- written by replay or import -/
  | replay
deriving DecidableEq, Repr

/-- A request for a Ledger entry (Table 05-1, without SEQ and CRC). -/
structure LgReq where
  /-- 0 Larder, 1 Mender, 2 Hamper, 3 replay and import -/
  unit : Nat
  kind : Nat
  arr : Nat
  stripe : Nat
  gen : Nat
  mask : Nat
  frame : Nat
  /-- bytes 12 to 27 of a dump entry -/
  dump : List Byte
  cont : LgCont
  /-- its wait has been counted (R101) -/
  counted : Bool
deriving DecidableEq, Repr

/-- A live entry (R100). -/
structure LgLive where
  seq : Nat
  kind : Nat
  arr : Nat
  stripe : Nat
  gen : Nat
  frame : Nat
  /-- a state-area page written after the entry took effect covers the stripe -/
  paged : Bool
deriving DecidableEq, Repr

/-- The Ledger. -/
structure Ledger where
  reqs : List LgReq := []
  live : List LgLive := []
  /-- unit served last in each rank (R98) -/
  rr : NMap Nat := []
  /-- copy blocks changed since they were written, keyed by 1024 × array + block, with the AON count of the change -/
  copies : NMap Nat := []
  /-- copy positions excluded after a failed block write, keyed by array (R103) -/
  excl : NMap Nat := []
  /-- arrays whose copy is being moved, with the target position and whether copy B is the one moved -/
  moving : NMap (Nat × Bool) := []
  /-- arrays whose replay has finished, and those whose RESYNC entries of R104 step 5 are still to be written -/
  replayed : Nat := 0
  replaying : Nat := 0
  /-- stripes set RESYNC_DUE by the OPEN-state override of R105: array, stripe, GEN_LO given -/
  torn : List (Nat × Nat × Nat) := []
deriving DecidableEq, Repr

/-! ### The Larder and the State Cache (chapter 04) -/

/-- A slot: its internal address and the state of each block (Table 04-2). -/
structure Slot where
  addr : Nat
  blks : List Nat
deriving DecidableEq, Repr

/-- A frame. -/
structure Frame where
  arr : Nat
  stripe : Nat
  vol : Nat
  /-- log stream, when it belongs to one -/
  stream : Option Nat
  /-- Table 04-3 -/
  state : Nat
  /-- queue class once READY, and order of entry to READY -/
  cls : Nat
  order : Nat
  /-- data slots and successor slots by chunk -/
  cur : NMap Slot
  succ : NMap Slot
  /-- parity slots by parity -/
  par : NMap Nat
  /-- AON counts of the last write, of the first DIRTY or HELD block, and of the first write to a successor slot -/
  idleAt : Nat
  ageAt : Nat
  succAt : Nat
  /-- a write-through command has blocks in the frame, now or in its successor slots (R73) -/
  wt : Bool
  wtNext : Bool
  /-- read since the clock hand last passed (R83) -/
  used : Bool
  /-- parked by a Loom FAULT (R412) -/
  faulted : Bool
  /-- frame record it was restored from (R167), and whether its other blocks count as zeros (FIRST, R168) -/
  img : Option Nat
  first : Bool
  /-- GEN of the destage in progress -/
  gen : Nat
  /-- its destage writes the stripe's resync -/
  resync : Bool
  /-- its current slots hold an earlier lap of a log stream, dropped while the frame was busy (R121) -/
  lap : Bool
deriving DecidableEq, Repr

/-- The Larder. -/
structure Larder where
  /-- directory of frames, by frame index -/
  frames : NMap Frame := []
  nextOrder : Nat := 0
  /-- clock hand over frame indexes (R83) -/
  hand : Nat := 0
  /-- who waits for a slot or frame: command and block, or task (fill read), in order -/
  slotQ : List (Nat × Nat) := []
  /-- the waiter that tries again: its wait has been counted (R83) -/
  slotTry : Option Nat := none
  /-- who waits for the dump to end, or for a frame to leave PARKED: command and block, or task, and the stripe (R70, R152) -/
  stopQ : List ((Nat × Nat) × Nat × Nat) := []
  /-- block moves are stopped by the dump snapshot (R152) -/
  movesStopped : Bool := false
  /-- no new destage starts (R150) -/
  destageStopped : Bool := false
  /-- stripes whose write opened on UNWRITTEN and has had no CLOSE since (Table 08-3, FIRST) -/
  firsts : List (Nat × Nat) := []
deriving DecidableEq, Repr

/-- A line of the State Cache: its way, its tag (the line address), its 64 bytes as filled and written since. -/
structure ScLine where
  way : Nat
  tag : Nat
  prefetched : Bool
  data : List Byte
deriving DecidableEq, Repr

/-- A miss register (R89): line address, victim set and way, secondary misses merged. -/
structure ScMiss where
  line : Nat
  way : Nat
  victim : Option Nat
  merged : Nat
  prefetch : Bool
deriving DecidableEq, Repr

/-- A stride stream (R91). -/
structure ScStream where
  req : Nat
  last : Nat
  dist : Int
  run : Nat
deriving DecidableEq, Repr

/-- The State Cache. -/
structure StateCache where
  /-- valid lines by set -/
  sets : NMap (List ScLine) := []
  /-- merging buffer, oldest first: line address and the bytes written (offset, byte) -/
  buf : List (Nat × NMap Byte) := []
  miss : List ScMiss := []
  streams : List ScStream := []
  /-- writes that wait for room in the buffer, or for the end of a drain (R87, R93), oldest first: address and bytes -/
  wwait : List (Nat × List Byte) := []
  /-- reads that wait for a miss register, a merge, a way or an eviction (R88 to R90), oldest first: requester and line -/
  rwait : List (Nat × Nat) := []
  /-- AON count at the start of a full invalidation -/
  invAt : Nat := 0
deriving DecidableEq, Repr

/-! ### Tasks of the data plane, and the Mender (chapters 04, 05, 11) -/

/-- What a task does. -/
inductive TKind where
  /-- reconstruction of block blk of host command h -/
  | hostRecon (h blk : Nat)
  | destage (fr : Nat)
  | walk (n : Nat)
  | repair (pos map : Nat)
  | scrub
  | resync
  /-- write of Ledger copy block k; the tasks that wait for it are in the same phase -/
  | copyBlk (k : Nat)
  | copyMove
  | statePage (p : Nat)
  /-- creation or deletion steps of an array, for command h (0 none) -/
  | create (h : Nat)
  | delete (h : Nat)
  | volDelete (h vol : Nat)
  /-- regions of a rebuild target before the walk (Table 11-3), and its completion flush -/
  | target (p : Nat)
  | targetEnd (p : Nat)
  | checkpoint
  /-- load of an array's table from its state areas, at STARTUP or for import command h -/
  | load (h : Nat)
  /-- rebuild of a log stream at STARTUP (R124) -/
  | stream (n : Nat)
  /-- ARRAY_IMPORT: labels, then Ledger copies, before the load; label rewrites and copies after it -/
  | import_ (h : Nat)
deriving DecidableEq, Repr

/-- Where a task stands. -/
inductive TPhase where
  | claim
  | read
  | recon
  | check
  | locate
  | ledgerOpen
  | copyOpen
  | encode
  | write
  | flush
  | ledgerClose
  | waitSlot
  | retry
  | step (n : Nat)
deriving DecidableEq, Repr

/-- A unit of work over one stripe or one region. -/
structure Task where
  id : Nat
  kind : TKind
  arr : Nat
  stripe : Nat
  /-- blocks of each chunk it works on -/
  off : Nat
  len : Nat
  phase : TPhase
  /-- chunk data by 64 × cell + block; a cell is a logical index (parity) or a position (mirror) -/
  bufs : NMap (List Byte) := []
  /-- cells known erased -/
  erased : List Nat := []
  /-- blocks that failed on working positions, as 64 × cell + block -/
  bad : List Nat := []
  /-- member commands outstanding -/
  outst : Nat := 0
  /-- positions whose write failed -/
  fails : List Nat := []
  gen : Nat := 0
  /-- its OPEN has been granted (R98) -/
  opened : Bool := false
  /-- state of the stripe before the claim -/
  prev : Nat := 0
  /-- a DATAPATH ending has been resubmitted -/
  second : Bool := false
  /-- a scrub finding is being confirmed under a claim; a first K = 2 location -/
  confirm : Bool := false
  loc1 : Option Nat := none
  crcs : NMap Nat := []
  since : Nat := 0
  /-- list of work left: positions, blocks or pages -/
  left : List Nat := []
deriving DecidableEq, Repr

/-- A repair queue entry (R259): a map of 0 names no blocks. -/
structure RepEnt where
  arr : Nat
  stripe : Nat
  pos : Nat
  map : Nat
deriving DecidableEq, Repr

/-- A position under rebuild, held in the Keep (Table 11-5). -/
structure PosWord where
  join : Nat
  target : Nat
  inPlace : Bool
deriving DecidableEq, Repr

/-- A walk of an array. -/
structure Walk where
  /-- stripes issued, and issued numbers finished at or above WALKED -/
  issued : Nat := 0
  walked : Nat := 0
  finished : List Nat := []
  /-- AON count and WALKED of the last checkpoint -/
  ckAt : Nat := 0
  ckWalked : Nat := 0
  active : Bool := false
  /-- a DATAPATH ending holds the walk (R412) -/
  stuck : Bool := false
deriving DecidableEq, Repr

/-- A scrub of an array. -/
structure Scrub where
  running : Bool := false
  next : Nat := 0
  ckAt : Nat := 0
  ckCount : Nat := 0
  visitAt : Nat := 0
deriving DecidableEq, Repr

/-- The Mender. pos is KEEP (it mirrors the position words); the rest is CHIP. -/
structure Mender where
  /-- position words, keyed by 32 × array + position -/
  pos : NMap PosWord := []
  walks : NMap Walk := []
  scrubs : NMap Scrub := []
  repq : List RepEnt := []
  tasks : List Task := []
  /-- Mender bytes per port in the present 10 ms window, and its start (R251) -/
  rate : NMap Nat := []
  rateAt : Nat := 0
  /-- AON count of the last PF0 command end per array, and arrays at the idle cap (R251) -/
  arrIdle : NMap Nat := []
  idleCap : Nat := 0
deriving DecidableEq, Repr

/-! ### The Tally (chapter 07) -/

/-- A request for credit that waits (R136): command, the blocks it counts, a block asked for alone (R72), and the AON count
when it joined. While the gate is CLOSED_PFD, since holds the time already waited. -/
structure TReq where
  h : Nat
  blks : List Nat
  alone : Bool
  since : Nat
deriving DecidableEq, Repr

/-- The record of a sealed dump (R144): speeds in rpm and HUB in 10 mV at PFD and at seal, pack energy in mJ, bytes dumped,
times in µs, members used, predicted energy in mJ with the k in use and with k = 1, and whether it may correct the model. -/
structure DumpRec where
  rpm0 : Int
  rpm1 : Int
  hub0 : Nat
  hub1 : Nat
  pack : Nat
  bytes : Nat
  tData : Nat
  tSeal : Nat
  m : Nat
  pred : Nat
  need1 : Rat
  usable : Bool
deriving DecidableEq, Repr

/-- The Tally beside its registers. -/
structure Tally where
  waitQ : List TReq := []
  /-- granted blocks not yet DIRTY: command and its blocks (R135) -/
  resv : List (Nat × List Nat) := []
  /-- used values of R143: e_byte pJ/B, P_base mW, t_fixed µs, b_m MB/s, k in 1/1,024 -/
  use : List Nat := [40000, 400000, 100000, 1000, 1024]
  /-- AON counts when each used value last changed -/
  chgAt : List Nat := [0, 0, 0, 0, 0]
  /-- the last E_req computed with M_h of 2 or more, mJ (R140) -/
  ereq : Nat := 0
  /-- least-squares fit of R142: parameters, covariance, windows used, lowest and highest w; none before the first -/
  theta : List Rat := [0, 0, 0]
  cov : Option (List (List Rat)) := none
  used : Nat := 0
  wSpan : Option (Nat × Nat) := none
  /-- the used values have not been computed since CHIP reset: the first computation takes their targets (R143, R146) -/
  fresh : Bool := true
  /-- learned values as published, 0 for one that only the Keep holds; used values at the last write of the Keep, and the AON
  count of that write (R142, R145) -/
  lrn : List Nat := [0, 0, 0, 0, 0]
  lrnW : List Nat := [0, 0, 0, 0, 0]
  lrnAt : Option Nat := none
  /-- AON count since when LEARN_EN is 1, PFD is not declared and the pack is not charging (R141) -/
  learnAt : Nat := 0
  /-- the record of the last sealed dump, held in the Keep until a STARTUP derives from it (R144) -/
  dumpRec : Option DumpRec := none
deriving DecidableEq, Repr


/-! ### The Millwheel (chapter 09) beside its registers -/

/-- A commissioning in progress (R201): what its steps have measured. -/
structure MwComm where
  step : Nat := 1
  psi : Nat := 0
  /-- mean input power of the hold at ω_1, mW -/
  pBase : Nat := 0
  /-- run_mot: input energy in mJ, duration in µs, integrals of ω, ω² and ω³ -/
  eMot : Nat := 0
  usMot : Nat := 0
  wMot : Nat × Nat × Nat := (0, 0, 0)
  /-- run_gen, in the same way -/
  eGen : Nat := 0
  usGen : Nat := 0
  wGen : Nat × Nat × Nat := (0, 0, 0)
  c0 : Rat := 0
  c1 : Rat := 0
  c2 : Rat := 0
  /-- admin command it serves, 0 none -/
  cmd : Nat := 0
deriving DecidableEq, Repr

/-- The drive's internal state. Angles in electrical turns, speeds in electrical rad/s, flux in Wb, torque in N·m. -/
structure Mw where
  th : Rat := 0
  om : Rat := 0
  al : Rat := 0
  /-- encoder: count since the last index or alignment, the angle it counts from in 1/65,536 turn, the last A and B levels -/
  cnt : Int := 0
  ref : Nat := 0
  ab : Option Nat := none
  /-- resolver: last tracking angle, a mechanical turn in 65,536 -/
  res : Nat := 0
  psiA : Rat := 0
  psiB : Rat := 0
  fluxOut : Int := 0
  torqOut : Int := 0
  /-- vector of the present period (Table 09-3), gates UH UL VH VL WH WL in bits 0 to 5, chopper switch -/
  vec : Nat := 0
  gates : Nat := 0
  brk : Bool := false
  /-- active time of the period and the debt carried (R184), ns -/
  act : Rat := 0
  debt : Rat := 0
  spdI : Rat := 0
  hubI : Rat := 0
  tref : Rat := 0
  that : Rat := 0
  /-- the speed source asks to run -/
  ask : Bool := false
  /-- observer within its lock conditions since, and its speed then -/
  okAt : Option Nat := none
  okOm : Rat := 0
  /-- entry to the present state -/
  at_ : Nat := 0
  lowAt : Option Nat := none
  nearAt : Option Nat := none
  /-- CATCH: the speed lies between the two thresholds since -/
  waitAt : Option Nat := none
  /-- settings as they were before writes outside OFF that have not yet taken effect: register and value -/
  old : List (Nat × Nat) := []
  sec : Nat := 0
  secAt : Nat := 0
  tripPh : Bool := false
  tripDc : Bool := false
  dcRun : Nat := 0
  ovAt : Option Nat := none
  emfAt : Option Nat := none
  /-- short-braking periods run in CATCH; period count there -/
  brake : Bool := false
  per : Nat := 0
  retryAt : Nat := 0
  /-- open-loop angle of the ramp, turns -/
  ramp : Rat := 0
  aligned : Bool := false
  idxSeen : Bool := false
  spdV : Nat := 0
  spdAt : Nat := 0
  chopUs : Nat := 0
  comm : Option MwComm := none
deriving DecidableEq, Repr

/-! ### The Gauge (chapter 10) beside its registers -/

/-- The Gauge's internal state: charge in coulombs, current in A, voltage in V. -/
structure Ga where
  q : Rat := 0
  i : Rat := 0
  v : Rat := 0
  /-- samples of the present second and their sum (GA_CURRENT) -/
  n : Nat := 0
  sum : Rat := 0
  /-- the next sample uses the previous current (R213) -/
  zero : Bool := false
  /-- 1 EOD, 2 EOC: kind of the anchor held, and Q_c before it was reset -/
  anchor : Nat := 0
  anchorQ : Rat := 0
  /-- nothing has broken the span since the anchor (R229) -/
  span : Bool := false
  /-- R_int when last written, in µΩ; AON count of the last write-back; learns of the record and time of the last -/
  rintW : Nat := 0
  wbAt : Nat := 0
  learns : Nat := 0
  learnT : Nat := 0
  /-- consecutive samples beyond full scale; consecutive identity readings that give another code -/
  overN : Nat := 0
  noId : Nat := 0
  /-- GA_NTC lies within its limits and GA_ID gives one code: that code, and since when (R208) -/
  steady : Option (Nat × Nat) := none
  /-- AON count at insertion or CHIP reset while the first second runs (R224) -/
  seenAt : Option Nat := none
  temp : Rat := 25
  packEn : Bool := false
  edump : Rat := 0
deriving DecidableEq, Repr

/-! ### Supplies, power states and reset (chapter 17) beside their registers -/

/-- What the Supply Supervisor, the Sleep Planner and the reset logic hold. -/
structure Power where
  /-- POR or CHIP reset is in force (nothing has been released yet) -/
  held : Bool := false
  /-- RST_DONE pin -/
  rstDone : Bool := false
  /-- strap value sampled (Table 17-9) -/
  strap : Nat := 0
  /-- STRAP_MODE as the pins stand, and CHIP_RST_N low -/
  strapPin : Nat := 0
  rstLow : Bool := false
  /-- a core reset by the Droop Guard waits for VDD_CORE and VIN (Table 17-3) -/
  core : Bool := false
  /-- step of Table 17-8 last taken, and AON count at release -/
  step : Nat := 1
  relAt : Nat := 0
  /-- AON count of the last change of VCORE_SEL code, and the code before it (R378) -/
  codeAt : Nat := 0
  oldCode : Nat := 0
  /-- SNS_VIN last seen in mV, and PF_N low -/
  vin : Nat := 24000
  pfLow : Bool := false
  /-- AON count since when the entry conditions of A1 to A3 hold (R382), and of entry to the present power state -/
  calm : NMap Nat := []
  stateAt : Nat := 0
  savedAt : Nat := 0
  /-- Tj at the last DRAM training in 0.1 °C, and its AON count -/
  trainTj : Int := 0
  trainAt : Nat := 0
  /-- time spent in each power state before the present stay, µs -/
  resUs : NMap Nat := []
  /-- laps of each monitor in the last window (R19) -/
  laps : List Nat := []
  /-- TAP instruction in force; IDCODE after Test-Logic-Reset (R407) -/
  tap : Nat := 2
deriving DecidableEq, Repr

/-! ### The Hamper (chapter 08) -/

/-- A slot in the image (Table 08-3): where it lies and what it holds. -/
structure DumpSlot where
  arr : Nat
  stripe : Nat
  succ : Bool
  first : Bool
  chunk : Nat
  vol : Nat
  gen : Nat
  frame : Nat
  map : Nat
  blk : Nat
deriving DecidableEq, Repr

/-- A dump in progress, fixed at the snapshot. -/
structure Dump where
  /-- used ports, rising -/
  ports : List Nat
  /-- IMAGE_ID, known once DUMP_OPEN is granted -/
  id : Nat
  /-- PFD time, device time -/
  pfdTime : Nat
  dirty : Nat
  skipped : Nat
  frames : Nat
  slots : List DumpSlot
  /-- blocks of the data stream up to the trailer, an empty one standing for zeros, and the first chunk of each region -/
  stream : List (List Byte)
  regions : List Nat
  /-- XOR chunks computed: frame, blocks; and frames whose XOR job ended with DATAPATH -/
  xors : NMap (List (List Byte))
  noxor : List Nat
  /-- 0 before DUMP_OPEN, 1 regions, 2 XOR of the trailer's frame, 3 trailer, 4 its XOR chunk, 5 flush, 6 DUMP_SEAL, 7 done -/
  step : Nat
  /-- member commands and Loom jobs still to end in this step -/
  outst : Nat
  /-- ports whose flush succeeded -/
  flushed : List Nat
  /-- AON counts of the first and the last frame -/
  t0 : Nat
  t1 : Nat
deriving DecidableEq, Repr

/-- A restore in progress (Table 08-8). Dump frames are read whole, one at a time. -/
structure Restore where
  id : Nat
  ports : List Nat
  /-- ports that are missing or changed -/
  gone : List Nat := []
  /-- first LBA of each port's hamper region -/
  base : NMap Nat
  /-- frame records, dump frames, and first chunk of each region -/
  frames : Nat
  rows : Nat
  regions : List Nat
  /-- blocks of the stream that were read or rebuilt, by 64 × chunk + block; chunks lost; frames with no XOR chunk -/
  blks : NMap (List Byte) := []
  lostCh : List Nat := []
  noxor : List Nat := []
  /-- dump frames wanted, read, and the one being read, with whether its XOR chunk is being read -/
  want : List Nat := []
  got : List Nat := []
  cur : Option Nat := none
  xorPh : Bool := false
  /-- chunks of the frame being read that failed (its XOR chunk as 2^32 + frame), the XOR chunk read, and reads outstanding -/
  bad : List Nat := []
  xor : List (List Byte) := []
  outst : Nat := 0
  slots : List DumpSlot := []
  lostRecs : List Nat := []
  pages : List (Nat × Nat) := []
  streams : List Byte := []
  /-- 0 start, 1 header and trailer, 2 metadata A, 3 metadata B, 4 state pages, 5 waiting for the table, 6 taking frames,
  7 a frame's data, 8 all taken; 10 to 13 the acceptance of an import -/
  step : Nat := 0
  next : Nat := 0
  lost : Nat := 0
  /-- array numbers of the image's arrays -/
  amap : List Nat := [0, 1, 2, 3]
  /-- the command an import serves, 0 for STARTUP -/
  cmd : Nat := 0
deriving DecidableEq, Repr

/-- The Hamper. -/
structure Hamper where
  dump : Option Dump := none
  restore : Option Restore := none
  /-- a restore begun by IMAGE_IMPORT runs (R173) -/
  importing : Bool := false
  /-- AON count at PFD, and at the supply failure that lets steps 2 and 3 follow (R166) -/
  pfdAt : Nat := 0
  supAt : Option Nat := none
  /-- delay of the steps of Table 08-1 by a wake from A3, µs -/
  late : Nat := 0
  /-- AON count since when VIN has stayed returned during PFD (R149, R164) -/
  vinAt : Option Nat := none
  /-- the sequence has passed step 3, step 4 and step 5 -/
  vcore : Bool := false
  stopped : Bool := false
  snapped : Bool := false
  /-- a CHIP reset waits for the dump (R166) -/
  rstWait : Bool := false
  /-- at PFD: device time, wheel speed in rpm and whether it is valid, HUB in 10 mV, chopper µs and shorts so far (R144) -/
  pfdTime : Nat := 0
  rpm0 : Int := 0
  rpmOk : Bool := false
  hub0 : Nat := 0
  chop0 : Nat := 0
  shorts0 : Nat := 0
  /-- this PFD wrote DUMPING to the directory (R165) -/
  made : Bool := false
  /-- VIN has returned since PFD -/
  vinBack : Bool := false
deriving DecidableEq, Repr

/-! ### The machine -/

/-- The whole machine. -/
structure State where
  /-- commands waiting, first in first out (the host's interface) -/
  pending : List Instr := []
  /-- AON count in µs (R4, R385) -/
  now : Nat := 0
  /-- number of the next free value (log entry 2) -/
  free : Nat := 0
  /-- next handle of a taken entry, task or job (log entry 3) -/
  nextH : Nat := 1
  /-- boundary outputs in order (R293) -/
  out : List HostOut := []
  /-- register file: PF1 BAR0 offset, or PF0 BAR0 offset + 0x10_0000; an unlisted register holds its reset value -/
  regs : NMap W32 := []
  /-- HI halves latched by reads of LO (R392), keyed by the HI register -/
  latch : NMap W32 := []
  /-- stacked DRAM and SRAM, by 48-bit internal address (R24) -/
  mem : List Host.Cell := []
  /-- the Keep (R14, R350), by Keep offset -/
  keep : List Host.Cell := []
  hp : HostPort := {}
  rg : Rings := {}
  /-- commands taken and not yet completed, in the order taken -/
  cmds : List Cmd := []
  kp : KeepSt := {}
  al : Almanac := {}
  st : Arrays := {}
  mp : Members := {}
  lm : Loom := {}
  lg : Ledger := {}
  ld : Larder := {}
  sc : StateCache := {}
  md : Mender := {}
  tl : Tally := {}
  sv : Services := {}
  hm : Hamper := {}
  mw : Mw := {}
  ga : Ga := {}
  pw : Power := {}
deriving DecidableEq, Repr

/-- The machine right after power-on reset of a new part: every register at its reset or manufacture value. -/
def State.reset : State := {}

end Sys2Proof.Machine
end

