-- ==== Sys2Proof/Machine/Ops.lean ====
section
/-! DEFINITION. The named operations over State that every block shares: registers by field, memory, the Keep with its wear
accounting (R353 to R357), free values, device time, notices and completions (R331, R349), and host memory traffic
(R293, R294). -/

namespace Sys2Proof.Machine

/-- The outcome type of a command. -/
abbrev Out := Host.Outcome State Fault Refusal

/-! ### Registers -/

/-- Stored value of a register. -/
def State.reg (s : State) (k : Nat) : Nat := match mapGet? s.regs k with
  | some v => v.toNat
  | none => regReset k

/-- Store a register. -/
def State.setReg (s : State) (k v : Nat) : State := { s with regs := mapSet s.regs k (BitVec.ofNat 32 v) }

/-- A field of a register. -/
def State.fld (s : State) (k hi lo : Nat) : Nat := bits (s.reg k) hi lo

/-- Store a field of a register. -/
def State.setFld (s : State) (k hi lo v : Nat) : State := s.setReg k (setBits (s.reg k) hi lo v)

/-- One bit of a register. -/
def State.flag (s : State) (k i : Nat) : Bool := bit (s.reg k) i

/-- Store one bit of a register. -/
def State.setFlag (s : State) (k i : Nat) (b : Bool) : State := s.setFld k i i (b2n b)

/-- Count n more events in a counter that saturates at 0xFFFF_FFFF. -/
def State.bumpN (s : State) (k n : Nat) : State := s.setReg k (sat32 (s.reg k + n))

/-- Count one more event. -/
def State.bump (s : State) (k : Nat) : State := s.bumpN k 1

/-- A 64-bit value in a LO/HI pair of registers. -/
def State.reg64 (s : State) (lo : Nat) : Nat := s.reg lo + s.reg (lo + 4) * 2 ^ 32

/-- Store a LO/HI pair. -/
def State.setReg64 (s : State) (lo v : Nat) : State := (s.setReg lo (v % 2 ^ 32)).setReg (lo + 4) (v / 2 ^ 32)

/-- Which stored registers a reset of a domain clears (R9, Table 00-3). FUNC registers belong to PF0 above 0x10_0000. -/
def domCleared (por chip host f0 f1 : Bool) (k : Nat) : Bool := match regDesc? k with
  | none => false
  | some d => match d.dom with
    | .por => por
    | .chip => chip
    | .host => host
    | .func => if k ≥ 0x100000 then f0 else f1
    | .keep => false

/-- Return the registers of the cleared domains to their reset values. -/
def State.clearRegs (s : State) (por chip host f0 f1 : Bool) : State :=
  { s with regs := s.regs.filter fun e => !domCleared por chip host f0 f1 e.1
           latch := s.latch.filter fun e => !domCleared por chip host f0 f1 e.1 }

/-! ### Memory -/

/-- Bytes of stacked DRAM or SRAM. -/
def State.memN (s : State) (a n : Nat) : List Byte := memReadN s.mem a n

/-- Write bytes of stacked DRAM or SRAM. -/
def State.memPut (s : State) (a : Nat) (bs : List Byte) : State := { s with mem := memWriteN s.mem a bs }

/-- A number in memory (R3). -/
def State.memNat (s : State) (a n : Nat) : Nat := leNat (s.memN a n)

/-- Bytes of the Keep. -/
def State.keepN (s : State) (a n : Nat) : List Byte := memReadN s.keep a n

/-- A number in the Keep. -/
def State.keepNat (s : State) (a n : Nat) : Nat := leNat (s.keepN a n)

/-! ### Free values and handles -/

/-- The next free value, below a bound. -/
def State.freeBelow (s : State) (n : Nat) : Nat × State := (Config.freeNat s.free % n, { s with free := s.free + 1 })

/-- A new handle. -/
def State.newH (s : State) : Nat × State := (s.nextH, { s with nextH := s.nextH + 1 })

/-- Add boundary outputs. -/
def State.put (s : State) (o : List HostOut) : State := { s with out := s.out ++ o }

/-! ### Time -/

/-- Device time (R4): the AON count plus the stored offset (R345), 64 bits. -/
def State.time (s : State) : Nat := (s.now + s.kp.timeOff) % 2 ^ 64

/-! ### Notices and events (R12, R331, R349) -/

def Deposit.isNote : Deposit → Bool
  | .note _ => true
  | .comp _ => false

/-- Does a unit's notice hold its notice credit inside the Collector? -/
def State.noteOut (s : State) (rank : Nat) : Bool := s.rg.col.any fun i => i.rank == rank && i.dep.isNote

/-- Merge one more occurrence into the last notice of a list (R331). -/
def mergeLast (l : List Deposit) (rep : Nat) : List Deposit := match l.reverse with
  | .note n :: t => (Deposit.note { n with rep := min 0xFFFF (n.rep + rep) } :: t).reverse
  | d :: t => (d :: (mergeRest t)).reverse
  | [] => []
where
  mergeRest : List Deposit → List Deposit
    | .note n :: t => .note { n with rep := min 0xFFFF (n.rep + rep) } :: t
    | d :: t => d :: mergeRest t
    | [] => []

/-- A unit hands over a deposit: a completion always finds its place; notices beyond the one with credit and the list of 8
merge into the last one. -/
def State.deposit (s : State) (rank : Nat) (d : Deposit) : State :=
  let l := mapGetD s.rg.units rank []
  let k := (l.filter Deposit.isNote).length + b2n (s.noteOut rank)
  let l' := if d.isNote && decide (k ≥ 9) then mergeLast l 1 else l ++ [d]
  { s with rg.units := mapSet s.rg.units rank l' }

/-- Raise a notice and event with detail. -/
def State.noteD (s : State) (unit value sev arg detail amount : Nat) : State :=
  s.deposit unit (.note ⟨unit, value, sev, arg, detail, amount, s.time, 0⟩)

/-- Raise a notice and event. -/
def State.note (s : State) (unit value sev arg : Nat) : State := s.noteD unit value sev arg 0 0

/-! ### Keep writes (R353 to R357) -/

/-- Word writes that make a page warn (R356): MEAN pages are the Ledger ring and the Almanac. -/
def wearLevel (page : Nat) : Nat := if 0x10 ≤ page ∧ page < 0xD0 then 512 * (5 * 10 ^ 11) else 10 ^ 10

/-- Word writes to a page since manufacture. -/
def State.wear (s : State) (page : Nat) : Nat := s.keepNat (0xF800 + 8 * page) 8 + mapGetD s.kp.wear page 0

/-- Count word writes to a page and warn once at its level (R355, R357). -/
def State.addWear (s : State) (page n : Nat) : State :=
  let s := { s with kp.wear := mapUpd s.kp.wear page 0 (· + n) }
  if s.wear page ≥ wearLevel page ∧ s.flag (Reg.KP_WARN (page / 32)) (page % 32) = false then
    ((s.setFlag (Reg.KP_WARN (page / 32)) (page % 32) true).setFlag Reg.KP_STATUS 2 true).note
      Rank.reeve 0x20 Sev.warning page
  else s

/-- Write one aligned word of the Keep, or count it as inhibited (R353). What is written can be corrected again (R351). -/
def State.keepWord (s : State) (off v : Nat) : State :=
  if s.kp.inhibit then s.bump Reg.KP_INHIBIT
  else { s with keep := memWriteN s.keep off (toLe 8 v), kp.unc := s.kp.unc.filter (· != off / 8) }.addWear (off / 4096) 1

/-- Write words of the Keep in increasing order. -/
def State.keepWords (s : State) (off : Nat) : List Nat → State
  | [] => s
  | v :: t => (s.keepWord off v).keepWords (off + 8) t

/-- A register after a KW write: its KW fields are replaced. -/
def RegDesc.kwWrite (d : RegDesc) (old v : Nat) : Nat := d.fields.foldl (fun acc x =>
  if x.ty = .kw then setBits acc x.hi x.lo (bits v x.hi x.lo) else acc) old

/-- Does a range of the Keep hold a word that cannot be corrected (R351)? -/
def State.keepBad (s : State) (off n : Nat) : Bool := s.kp.unc.any fun w => decide (off < 8 * w + 8) && decide (8 * w < off + n)

/-- A SECDED error of the Keep (R351): a corrected word is written back; one that cannot be corrected stays so until it is written,
its value free; a register of the settings reads its reset value. -/
def State.keepErr (s : State) : KeepErr → State
  | .corrected w => (s.bump Reg.KP_CORR).keepWord (8 * w) (s.keepNat (8 * w) 8)
  | .uncorrectable w =>
    let (v, s) := s.freeBelow (2 ^ 64)
    (State.bump { s with keep := if s.kp.inhibit then s.keep else memWriteN s.keep (8 * w) (toLe 8 v)
                         kp.unc := if s.kp.unc.contains w then s.kp.unc else s.kp.unc ++ [w] }
      Reg.KP_UNCORR).note Rank.reeve 0x21 Sev.fault 0
  | .setting k => match regDesc? k with
    | some d => (((s.setReg k (d.kwWrite (s.reg k) (regReset k))).bump Reg.KP_UNCORR).setFlag Reg.KP_STATUS 4 true).note
        Rank.reeve 0x21 Sev.fault 0
    | none => s

/-- The 64-bit words of a byte string. -/
def toWords (bs : List Byte) : List Nat := (List.range (bs.length / 8)).map fun i => leAt bs (8 * i) 8

/-- Write bytes that fill whole words. -/
def State.keepPut (s : State) (off : Nat) (bs : List Byte) : State := s.keepWords off (toWords bs)

/-- A setting or learned value held in a register of the KEEP domain is stored: a word of its page is written, unless the
stored value is equal (R354) or writes are inhibited (R353). -/
def State.kwStore (s : State) (page k v : Nat) : State :=
  if s.reg k = v % 2 ^ 32 then s.bump Reg.KP_SKIPPED
  else if s.kp.inhibit then s.bump Reg.KP_INHIBIT
  else (s.setReg k v).addWear page 1

/-- A record of the controller's own held as typed KEEP state is stored in one word of the settings region. -/
def State.keepRec (s : State) (id : Nat) (f : State → State) : State :=
  if s.kp.inhibit then s.bump Reg.KP_INHIBIT else (f s).addWear (Config.settingsPage id) 1

/-- Request a core voltage code (Table 17-2); a change is remembered for the Droop Guard (R378). -/
def State.vcoreGo (s : State) (code : Nat) : State :=
  let old := s.fld Reg.SS_STATUS 10 9
  if old = code % 4 then s
  else State.setFld { s with pw.codeAt := s.now, pw.oldCode := old } Reg.SS_STATUS 10 9 code

/-- The service code of SS_VCORE.SVC. -/
def State.svcCode (s : State) : Nat := s.fld Reg.SS_VCORE 0 0

/-! ### Functions of the host port -/

/-- Map key of something numbered per function. -/
def fkey (f : Func) (n : Nat) : Nat := match f with
  | .pf0 => n
  | .pf1 => 256 + n

/-- Function of a map key. -/
def keyFunc (k : Nat) : Func := if k < 256 then .pf0 else .pf1

def isPf0 : Func → Bool
  | .pf0 => true
  | .pf1 => false

/-- Host-written configuration dword, reset value 0. -/
def State.cfgW (s : State) (f : Func) (off : Nat) : Nat := (mapGetD s.hp.cfg (4096 * b2n (!isPf0 f) + off) 0).toNat

/-- Store a configuration dword. -/
def State.setCfg (s : State) (f : Func) (off v : Nat) : State :=
  { s with hp.cfg := mapSet s.hp.cfg (4096 * b2n (!isPf0 f) + off) (BitVec.ofNat 32 v) }

def bmeBit (f : Func) : Nat := if isPf0 f then 16 else 17
def dstLo (f : Func) : Nat := if isPf0 f then 12 else 14

/-- Bus Master Enable of a function. -/
def State.bme (s : State) (f : Func) : Bool := s.flag Reg.HP_STATUS (bmeBit f)

/-- Freeze in force. -/
def State.frozen (s : State) : Bool := s.flag Reg.HP_STATUS 2

/-- Power state of a function: 0 D0, 3 D3hot. -/
def State.dstate (s : State) (f : Func) : Nat := s.fld Reg.HP_STATUS (dstLo f + 1) (dstLo f)

/-- FLR of a function in progress. -/
def State.inFlr (s : State) (f : Func) : Bool := (match f with
  | .pf0 => s.hp.flr0
  | .pf1 => s.hp.flr1).isSome

/-- May a function issue requests to the host (R296, R299, R303, R306)? -/
def State.canIssue (s : State) (f : Func) : Bool := s.bme f && !s.frozen && !s.inFlr f && s.dstate f == 0

/-! ### Host memory traffic (R293, R294, R301) -/

/-- Timeout of Table 13-5 in µs from the function's Completion Timeout Value. -/
def ctoUs (enc : Nat) : Nat := match enc with
  | 0b0001 => 90
  | 0b0010 => 9000
  | 0b0101 => 50000
  | 0b0110 => 200000
  | 0b1001 => 800000
  | 0b1010 => 3000000
  | 0b1101 => 12000000
  | 0b1110 => 60000000
  | _ => 40000

/-- Tags in all: 768 with 10-bit tags, 256 without (R294). 10-bit Tag Requester Enable is bit 12 of Device Control 2. -/
def State.tagMax (s : State) : Nat := if bit (s.cfgW .pf0 0x88) 12 then 768 else 256

/-- Tags in flight or quarantined. -/
def State.tagBusy (s : State) (t : Nat) : Bool :=
  s.hp.reads.any (fun r => r.tag == t) || s.hp.quar.any (fun q => q.tag == t)

/-- The lowest free tag for a function: PF0 leaves 32 for PF1. -/
def State.freeTag (s : State) (f : Func) : Option Nat :=
  let used := s.hp.reads.length + s.hp.quar.length
  let lim := if isPf0 f then s.tagMax - 32 else s.tagMax
  if used ≥ lim then none else (List.range s.tagMax).find? fun t => !s.tagBusy t

/-- The tag a read of a function takes now; none while an earlier one of the function waits (R293). -/
def State.readTag (s : State) (f : Func) : Option Nat := if s.hp.rdq.any fun q => q.f == f then none else s.freeTag f

/-- Issue a read if a tag is free; leave it waiting otherwise; drop it if the function may issue nothing. -/
def State.tryRead (s : State) (r : RdReq) : State :=
  if !s.canIssue r.f then s
  else match s.readTag r.f with
    | none => { s with hp.rdq := s.hp.rdq ++ [r] }
    | some t =>
      { s with hp.reads := s.hp.reads ++ [⟨t, r, s.now, ctoUs (bits (s.cfgW r.f 0x88) 3 0), false, false⟩]
               out := s.out ++ [.memRead r.f t r.addr r.len] }

/-- Issue reads in order. -/
def State.issue (s : State) (l : List RdReq) : State := l.foldl State.tryRead s

/-- Give freed tags to waiting reads, in order. -/
def State.pumpReads (s : State) : State :=
  let q := s.hp.rdq
  State.issue { s with hp.rdq := [] } q

/-- A memory write to the host, when the function may issue. -/
def State.hostWrite (s : State) (f : Func) (addr : Nat) (d : List Byte) : State :=
  if s.canIssue f then s.put [.memWrite f addr d] else s

/-- Write bytes into a host buffer from byte off. -/
def State.hostWriteSegs (s : State) (f : Func) (segs : List (Nat × Nat)) (off : Nat) (d : List Byte) : State :=
  (segSlice segs off d.length).foldl (fun (p : State × List Byte) a =>
    (p.1.hostWrite f a.1 (p.2.take a.2), p.2.drop a.2)) (s, d) |>.1

/-! ### Taken commands -/

/-- The taken command with a handle. -/
def State.cmd? (s : State) (h : Nat) : Option Cmd := s.cmds.find? fun c => c.h == h

/-- Replace a taken command. -/
def State.setCmd (s : State) (c : Cmd) : State := { s with cmds := s.cmds.map fun d => if d.h == c.h then c else d }

/-- Change a taken command. -/
def State.updCmd (s : State) (h : Nat) (f : Cmd → Cmd) : State :=
  { s with cmds := s.cmds.map fun d => if d.h == h then f d else d }

/-- Volume a PF0 command touches. -/
def State.cmdVol (s : State) (c : Cmd) : Option Nat :=
  let o := Ent.opc c.ent
  if o = 0x10 ∨ o = 0x11 ∨ o = 0x12 ∨ o = 0x19 then (mapGet? s.sv.streams (Ent.tgt c.ent)).map (·.vol) else some (Ent.tgt c.ent)

/-- Array a PF0 command touches. -/
def State.cmdArr (s : State) (c : Cmd) : Option Nat := match s.cmdVol c with
  | some v => (mapGet? s.st.vols v).map (·.arr)
  | none => none

/-- The idle time of a command's array starts again (R251). -/
def State.arrEnded (s : State) (c : Cmd) : State := match (if isPf0 c.f then s.cmdArr c else none) with
  | some a => { s with md.arrIdle := mapSet s.md.arrIdle a s.now }
  | none => s

/-- Forget a command without completion (R296) and return its Collector credit. -/
def State.dropCmd (s : State) (c : Cmd) : State :=
  { s.arrEnded c with cmds := s.cmds.filter (fun d => d.h != c.h),
                      rg.cq := mapUpd s.rg.cq (fkey c.f c.cq) {} fun q => { q with credits := q.credits - 1 } }

/-- The moment the last PF0 command ends starts the idle time of R308. -/
def State.markIdle (s : State) : State :=
  if s.cmds.any (fun c => isPf0 c.f) then s
  else if s.hp.ltrIdle.isSome then s else { s with hp.ltrIdle := some s.now }

/-- A command ends: its completion is deposited by the unit of a rank (R12, R339). -/
def State.finish (s : State) (rank : Nat) (c : Cmd) : State :=
  let comp : Comp := ⟨c.f, c.cq, c.sq, c.pos, c.prio, Ent.cid c.ent, c.status, c.cflags,
    c.res0 % 2 ^ 48, c.res1 % 2 ^ 40⟩
  if c.quiet then (s.dropCmd c).markIdle
  else (State.deposit { s.arrEnded c with cmds := s.cmds.filter fun d => d.h != c.h } rank (.comp comp)).markIdle

/-- A command ends with a status and no result. -/
def State.finishSt (s : State) (rank : Nat) (c : Cmd) (status : Nat) : State :=
  s.finish rank { c with status := status, res0 := 0, res1 := 0, cflags := 0 }

/-! ### Almanac measures (R362) -/

/-- Count one occurrence in a bin of a histogram of the open epoch, saturating. -/
def State.alHist (s : State) (h bin : Nat) : State :=
  { s with al.cur.hist := mapUpd s.al.cur.hist (16 * h + min bin 15) 0 fun v => sat32 (v + 1) }

/-- Offer a value to an extreme that keeps the highest. -/
def State.alMax (s : State) (i : Nat) (v : Int) : State := match mapGet? s.al.cur.ext i with
  | some e => if v > e.val then { s with al.cur.ext := mapSet s.al.cur.ext i ⟨v, s.time⟩ } else s
  | none => { s with al.cur.ext := mapSet s.al.cur.ext i ⟨v, s.time⟩ }

/-- Offer a value to an extreme that keeps the lowest. -/
def State.alMin (s : State) (i : Nat) (v : Int) : State := match mapGet? s.al.cur.ext i with
  | some e => if v < e.val then { s with al.cur.ext := mapSet s.al.cur.ext i ⟨v, s.time⟩ } else s
  | none => { s with al.cur.ext := mapSet s.al.cur.ext i ⟨v, s.time⟩ }

/-- A time has come d µs after t. -/
def State.due (s : State) (t d : Nat) : Bool := decide (s.now ≥ t + d)

end Sys2Proof.Machine
end

