-- ==== Sys2Proof/Machine/Almanac.lean ====
section
/-! DEFINITION. The Keep's keys and nonces and the Almanac's records (chapter 16): record layout, slots, epochs, repeats,
the scan at CHIP reset, snapshots, the management target and clearing. -/

namespace Sys2Proof.Machine

/-- Keep offset of a slot (Table 16-1). -/
def alSlot (n : Nat) : Nat := 0x90000 + 0x400 * n

/-- Is a 1 KiB record valid (R361)? The constant is checked first. -/
def recOk (r : List Byte) : Bool := leAt r 0x3FC 4 == 0xA1A1A1A1 && leAt r 0x3F8 4 == crc32c (bytesAt r 0 0x3F8)

def State.alRec (s : State) (n : Nat) : List Byte := s.keepN (alSlot n) 0x400

/-- Validity of a slot; an empty slot fails on the mark alone. -/
def State.alValid (s : State) (n : Nat) : Bool := !s.keepBad (alSlot n) 0x400 && s.keepNat (alSlot n + 0x3FC) 4 == 0xA1A1A1A1 && recOk (s.alRec n)
def State.alSeqOf (s : State) (n : Nat) : Nat := s.keepNat (alSlot n) 8
def State.alSevOf (s : State) (n : Nat) : Nat := s.keepNat (alSlot n + 0x18) 1
def State.alKindOf (s : State) (n : Nat) : Nat := s.keepNat (alSlot n + 0x19) 1 % 16
def State.alOpenOf (s : State) (n : Nat) : Bool := bit (s.keepNat (alSlot n + 0x19) 1) 7
def State.alPendOf (s : State) (n : Nat) : Bool := bit (s.keepNat (alSlot n + 0x19) 1) 6

/-- Header of Table 16-8. -/
def alHeader (seq start stop sev kind reason rep upd drops : Nat) (sig : Nat × Nat × Nat × Nat × Nat) : List Byte :=
  toLe 8 seq ++ toLe 8 start ++ toLe 8 stop ++ toLe 1 sev ++ toLe 1 kind ++ toLe 1 reason ++ [0] ++ toLe 4 rep ++
  toLe 4 upd ++ toLe 4 drops ++ toLe 1 sig.1 ++ toLe 1 sig.2.1 ++ toLe 2 sig.2.2.1 ++ toLe 4 sig.2.2.2.1 ++
  toLe 8 sig.2.2.2.2 ++ zeros 8

/-- Extremes and histograms of an epoch (Table 16-7). -/
def alMeasures (o : AlOpen) : List Byte :=
  ((List.range 16).flatMap fun i => match mapGet? o.ext i with
    | some e => toLe 8 (intBits 64 e.val) ++ toLe 8 e.time
    | none => zeros 16) ++
  ((List.range 160).flatMap fun i => toLe 4 (mapGetD o.hist i 0)) ++ zeros 56

/-- A record with its valid mark (R361). -/
def alMark (body : List Byte) : List Byte := body ++ toLe 4 (crc32c body) ++ toLe 4 0xA1A1A1A1

/-- Write a record into a slot in the order of R365; UPDATE_COUNT counts the write. -/
def State.alWrite (s : State) (slot : Nat) (body : List Byte) : State :=
  let upd := s.keepNat (alSlot slot + 0x20) 4
  let r := alMark (putBytes body 0x20 (toLe 4 ((upd + 1) % 2 ^ 32)))
  let s := s.keepWord (alSlot slot + 0x3F8) 0
  let s := s.keepPut (alSlot slot) (bytesAt r 0 0x3F8)
  s.keepWord (alSlot slot + 0x3F8) (leAt r 0x3F8 8)

/-- Slots from n on that a new record may take: not the one the open record holds to its end (R364; log entry 132). -/
def State.alFree (s : State) (n k : Nat) : List Nat := ((List.range k).map (· + n)).filter fun i => s.al.cur.slot != some i

/-- The slot a record of a severity takes (R364); slots a predicate names count as invalid. -/
def State.alChoose (s : State) (sev : Nat) (gone : Nat → Bool) : Option Nat :=
  let next := s.fld Reg.AL_FOUND 6 0
  match s.alFree next (64 - next) with
  | n :: _ => some n
  | [] =>
    let rot := s.alFree 64 192
    match rot.find? fun n => !s.alValid n || gone n with
    | some n => some n
    | none => minBy s.alSeqOf (rot.filter fun n => decide (s.alSevOf n ≤ sev))

/-- The founding pointer moves once the record in its slot has its mark (R364). -/
def State.alFounded (s : State) (slot : Nat) : State :=
  let next := s.fld Reg.AL_FOUND 6 0
  if slot < 64 ∧ (slot = next ∨ (slot = next + 1 ∧ s.al.cur.slot = some next)) then
    s.kwStore (Config.settingsPage Reg.AL_FOUND) Reg.AL_FOUND (slot + 1)
  else s

/-- Give the open record its slot and SEQ if it has none and a slot qualifies. -/
def State.alTakeSlot (s : State) : State :=
  if s.al.cur.slot.isSome then s
  else match s.alChoose s.al.cur.sev (fun _ => false) with
    | none => s
    | some n =>
      let seq := s.reg64 Reg.AL_SEQ_LO
      State.setReg64 { s with al.cur.slot := some n, al.cur.seq := seq } Reg.AL_SEQ_LO (seq + 1)

/-- Body of the open record. -/
def State.alBody (s : State) (kind reason stop : Nat) : List Byte :=
  let o := s.al.cur
  alHeader o.seq o.start stop o.sev kind reason 0 0 s.al.drops (o.sig.getD (0, 0, 0, 0, 0)) ++ alMeasures o

/-- A new epoch opens (R363). -/
def State.alOpenEpoch (s : State) : State :=
  { s with al.isOpen := true, al.cur := { start := s.time, at_ := s.now, ckAt := s.now } }

/-- Device time is saved in the Keep (R385). -/
def State.timeSave (s : State) : State :=
  if s.reg64 Reg.SS_TSAVE_LO = s.time then { s with pw.savedAt := s.now }.bump Reg.KP_SKIPPED
  else if s.kp.inhibit then { s with pw.savedAt := s.now }.bump Reg.KP_INHIBIT
  else ({ s with pw.savedAt := s.now }.setReg64 Reg.SS_TSAVE_LO s.time).addWear (Config.settingsPage Reg.SS_TSAVE_LO) 1

/-- Save the wear counts accumulated since the last close (R355). -/
def State.saveWear (s : State) : State :=
  if s.kp.inhibit then s.bumpN Reg.KP_INHIBIT s.kp.wear.length
  else
    let l := s.kp.wear
    let keep := l.foldl (fun m e => memWriteN m (0xF800 + 8 * e.1) (toLe 8 (s.wear e.1))) s.keep
    State.addWear { s with keep := keep, kp.wear := [] } 0xF l.length

/-- The closed valid record with the highest SEQ. -/
def State.alNewest (s : State) : Option Nat :=
  ((List.range 256).filter fun n => s.alValid n && !s.alOpenOf n).foldl (fun b n => match b with
    | none => some n
    | some m => if s.alSeqOf n > s.alSeqOf m then some n else b) none

/-- Write the merged repeats into the record they repeat (R366); a record that is gone takes none. -/
def State.alFlushReps (s : State) : State :=
  let n := s.al.repSlot
  if s.al.reps = 0 then s
  else if s.alValid n ∧ s.alKindOf n = 2 ∧ s.alOpenOf n = false then
    let r := s.alRec n
    let body := putBytes (bytesAt r 0 0x3F8) 0x1C (toLe 4 (sat32 (leAt r 0x1C 4 + s.al.reps)))
    { s.alWrite n body with al.reps := 0, al.repAt := s.now }
  else { s with al.reps := 0 }

/-- The closing record of the open epoch, or its drop where no slot qualifies (R361, R365). -/
def State.alPut (s : State) (kind reason : Nat) : State :=
  let s := s.alTakeSlot
  match s.al.cur.slot with
  | none => { s with al.drops := s.al.drops + 1 }.bump Reg.AL_DROPPED |>.note Rank.reeve 0x22 Sev.notice 0
  | some n =>
    let s := s.alWrite n (s.alBody kind reason s.time)
    { (s.alFounded n).bump Reg.AL_RECORDS with al.drops := 0 }

/-- Close the open epoch (kind 1 EPOCH or 2 CONDITION; reasons of Table 16-8) and open the next. -/
def State.alClose (s : State) (kind reason : Nat) : State :=
  if !s.al.isOpen then s
  else
    let s := s.alPut kind reason
    State.alOpenEpoch { s.saveWear.timeSave with al.lastClose := some s.now }

/-- The close at a power failure: the last repeats, then the record (R363, R366). -/
def State.alPfdClose (s : State) : State := s.alFlushReps.alClose 1 2

def execEpochHourClose (s : State) : Out :=
  .next <| if s.al.isOpen ∧ s.due s.al.cur.at_ 3600000000 then s.alClose 1 1 else s

/-- Checkpoint of the open record with OPEN set (R364); skipped while no slot qualifies. -/
def State.alCheckpoint (s : State) : State :=
  let s := s.alTakeSlot
  match s.al.cur.slot with
  | none => { s with al.cur.ckAt := s.now }
  | some n => { ((s.alWrite n (s.alBody (1 + 128) 0 s.time)).alFounded n).timeSave with al.cur.ckAt := s.now }

def execAlmanacCheckpoint (s : State) : Out :=
  .next <| if s.al.isOpen ∧ s.due s.al.cur.ckAt 600000000 then s.alCheckpoint else s

def execConditionCloseDelay (s : State) : Out :=
  .next <| match s.al.cur.condAt with
    | some t => if s.al.isOpen ∧ s.now ≥ t then s.alClose 2 3 else s
    | none => s

def execRepeatFlush (s : State) : Out :=
  .next <| if s.al.reps > 0 ∧ s.due s.al.repAt 1000000 then s.alFlushReps else s

/-- Signature bytes 0x28 to 0x2F of a record. -/
def alSigBytes (unit value arg detail : Nat) : List Byte := toLe 1 unit ++ toLe 1 value ++ toLe 2 arg ++ toLe 4 detail

/-- Is an event a repeat of the newest closed record (R366)? -/
def State.alIsRepeat (s : State) (n : Note) : Bool := decide (n.sev ≥ Sev.fault) && (match s.alNewest with
  | some k => s.alKindOf k == 2 && s.keepN (alSlot k + 0x28) 8 == alSigBytes n.unit n.value n.arg n.detail
  | none => false)

/-- An event of the epoch raises its severity; the first of the highest severity gives the signature. -/
def AlOpen.see (o : AlOpen) (n : Note) : AlOpen :=
  if o.sig.isNone ∨ n.sev > o.sev then
    { o with sev := max o.sev n.sev, sig := some (n.unit, n.value, n.arg, n.detail, n.amount) }
  else o

/-- A repeat is counted for the newest closed record; repeats that wait for another one are written first. -/
def State.alRepeat (s : State) (n : Note) : State :=
  let k := s.alNewest.getD 0
  let s := if s.al.repSlot = k then s else s.alFlushReps
  { s with al.reps := s.al.reps + 1 + n.rep, al.repSlot := k }.bumpN Reg.AL_REPEATS (1 + n.rep)

/-- UART_TX carries a line for a notice while TD_CTRL.CONSOLE is 1 (R409). -/
def State.conLine (s : State) (n : Note) : State := if s.flag Reg.TD_CTRL 1 then s.put [.line n] else s

/-- The Almanac takes an event (R363, R366, R409). The event of a clear closes no epoch (R371). -/
def State.alTake (s : State) (n : Note) : State :=
  let s := (s.conLine n).alHist 9 n.sev
  if s.alIsRepeat n then s.alRepeat n
  else
    let s := { s with al.cur := s.al.cur.see n }
    if n.sev < Sev.fault ∨ n.sev = Sev.audit then s
    else match s.al.lastClose with
      | some t =>
        if s.now < t + 1000000 then
          { s with al.cur.condAt := some (s.al.cur.condAt.getD (t + 1000000)) }
        else s.alClose 2 3
      | none => s.alClose 2 3

def execAlmanacEventTake (s : State) : Out :=
  .next <| if !s.al.isOpen then s
    else match s.rg.col.find? fun i => i.dep.isNote && !i.taken with
      | none => s
      | some i => match i.dep with
        | .comp _ => s
        | .note n =>
          State.alTake { s with
            rg.col := releaseOne s.rg.col } n
where
  /-- the first event not yet taken is taken; its stage is freed once its notice is drained too -/
  releaseOne : List ColItem → List ColItem
    | [] => []
    | i :: t =>
      if i.dep.isNote && !i.taken then
        if i.drained then t else { i with taken := true } :: t
      else i :: releaseOne t

/-! ### Scan at CHIP reset (R357, R367) -/

/-- The clear of a range (R371 steps 2 and 3): invalidate every slot but AUDIT records, then rewrite the AUDIT record. -/
def State.alClearRange (s : State) (slot first last : Nat) : State :=
  let s := ((List.range (last + 1 - first)).map (· + first)).foldl (fun s n =>
    if s.alValid n && s.alKindOf n == 3 then s else s.keepWord (alSlot n + 0x3F8) 0) s
  let r := s.alRec slot
  ((s.alWrite slot (putBytes (bytesAt r 0 0x3F8) 0x19 (toLe 1 3))).bump Reg.AL_CLEARS).noteD
    Rank.reeve 0x23 Sev.audit 0 0 0

def State.alScanSlot (s : State) (n : Nat) : State :=
  if !s.alValid n then
    if s.keepNat (alSlot n + 0x20) 4 ≠ 0 then s.bump Reg.AL_TORN else s
  else
    let r := bytesAt (s.alRec n) 0 0x3F8
    if s.alOpenOf n then
      s.alWrite n (putBytes (putBytes r 0x19 (toLe 1 (leAt r 0x19 1 % 128))) 0x1A (toLe 1 4))
    else if s.alPendOf n then s.alClearRange n (leAt r 0x2A 2) (min 255 (leAt r 0x2C 4))
    else s

def State.alScan (s : State) : State :=
  let s := (List.range 256).foldl State.alScanSlot s
  let top := (List.range 256).foldl (fun m n => if s.alValid n then max m (s.alSeqOf n + 1) else m) 0
  s.setReg64 Reg.AL_SEQ_LO top

/-- Warning bits are recomputed from the saved counters (R357). -/
def State.wearScan (s : State) : State :=
  (List.range 256).foldl (fun s p =>
    if s.keepNat (0xF800 + 8 * p) 8 ≥ wearLevel p then
      (s.setFlag (Reg.KP_WARN (p / 32)) (p % 32) true).setFlag Reg.KP_STATUS 2 true
    else s) s

/-! ### Snapshots and the management target (R368 to R370) -/

/-- The record of a slot, or the open record as it stands. -/
def State.alCopy (s : State) (slot : Option Nat) : List Byte := match slot with
  | some n => s.alRec n
  | none => if s.al.isOpen then alMark (s.alBody (1 + 128) 0 s.time) else zeros 1024

/-- Is the copy a valid record (R351, R361)? -/
def State.alCopyOk (s : State) (slot : Option Nat) : Bool := match slot with
  | some n => s.alValid n
  | none => recOk (s.alCopy none)

def State.alSnap (s : State) (slot : Nat) : State :=
  if slot < 0x100 ∨ slot = 0x1FF then
    let x := if slot = 0x1FF then none else some slot
    (State.setReg { s with al.rbuf := s.alCopy x } Reg.AL_RSEL slot).setReg Reg.AL_RSTAT (1 + 2 * b2n (s.alCopyOk x))
  else s

def execAlmanacSnapshot (slot : Nat) (s : State) : Out := .next (s.alSnap slot)

/-- A write of SLOT in the management map (R370). -/
def State.mgtSnap (s : State) (slot : Nat) : State :=
  let s := { s with al.mgtSlot := slot }
  if slot < 0x100 ∨ slot = 0xFFFF then
    let x := if slot = 0xFFFF then none else some slot
    { s with al.mgtBuf := s.alCopy x, al.mgtDone := true, al.mgtValid := s.alCopyOk x }
  else s

def execMgtSlotWrite (slot : Nat) (s : State) : Out :=
  .next <| if s.flag Reg.AL_MGT 7 then s.mgtSnap (slot % 65536) else s

/-- One byte of the map of Table 16-12; byte 0x0E shows A3 while the block keeps its last refresh (R370). -/
def State.mgtByte (s : State) (a : Nat) : Byte :=
  if a = 0x0E ∧ s.fld Reg.SP_STATUS 1 0 = 3 then 3
  else if a < 0x40 then s.al.health.getD a 0
  else if a = 0x100 then BitVec.ofNat 8 s.al.mgtSlot
  else if a = 0x101 then BitVec.ofNat 8 (s.al.mgtSlot / 256)
  else if a = 0x102 then BitVec.ofNat 8 (b2n s.al.mgtDone + 2 * b2n s.al.mgtValid)
  else if 0x400 ≤ a ∧ a < 0x800 then s.al.mgtBuf.getD (a - 0x400) 0
  else 0

/-- Bytes of a write that fall on SLOT replace its bytes; none when the write misses it. -/
def mgtSlotOf (old ptr : Nat) (wr : List Byte) : Option Nat :=
  let hit := fun a => decide (ptr ≤ a) && decide (a < ptr + wr.length)
  if hit 0x100 || hit 0x101 then
    some ((if hit 0x100 then (wr.getD (0x100 - ptr) 0).toNat else old % 256) +
      256 * (if hit 0x101 then (wr.getD (0x101 - ptr) 0).toNat else old / 256 % 256))
  else none

def execMgtTransaction (ptr : Nat) (wr : List Byte) (rdLen : Nat) (s : State) : Out :=
  .next <| if s.flag Reg.AL_MGT 7 then
      let p := ptr % 65536
      let s := match mgtSlotOf s.al.mgtSlot p wr with
        | some v => s.mgtSnap v
        | none => s
      let a := p + wr.length
      let s := if rdLen = 0 then s
        else s.put [.mgt ((List.range rdLen).map fun i => s.mgtByte ((a + i) % 65536))]
      { s with al.mgtPtr := (a + rdLen) % 65536 }
    else s

/-! ### Keep supply, keys and nonces (R353, R358, R359) -/

def execKeepLowVoltage (mv : Nat) (s : State) : Out :=
  .next <| if mv < 740 then State.setFlag { s with kp.inhibit := true } Reg.KP_STATUS 0 false else s

/-- The clearing key is set (Table 16-5). -/
def State.keyIsSet (s : State) : Bool := !s.keepBad 0xDC000 0x30 && s.keepNat 0xDC028 8 == 0x4B455901

/-- Write the key in table order, KEY_STATE last. -/
def State.keyWrite (s : State) (key : List Byte) : State :=
  let s := s.keepPut 0xDC000 (bytesAt key 0 32)
  let s := s.keepWord 0xDC020 (crc32c (bytesAt key 0 32))
  (s.keepWord 0xDC028 0x4B455901).setFlag Reg.KP_STATUS 3 true

def execNonceExpiry (s : State) : Out :=
  .next <| match s.kp.nonce with
    | some n => if s.due n.at_ 60000000 then { s with kp.nonce := none } else s
    | none => s

/-- A fresh nonce: NONCE_CTR is incremented and stored, and 24 bytes come from the random source. -/
def State.newNonce (s : State) : List Byte × State :=
  let ctr := s.reg64 Reg.KP_NONCE_CTR_LO + 1
  let s := if s.kp.inhibit then s.bump Reg.KP_INHIBIT
    else (s.setReg64 Reg.KP_NONCE_CTR_LO ctr).addWear (Config.settingsPage Reg.KP_NONCE_CTR_LO) 1
  let v := toLe 8 ctr ++ bytesAt (Config.freeBytes s.free 24) 0 24
  (v, { s with free := s.free + 1, kp.nonce := some ⟨v, s.now⟩ })

/-- Field checks of an authorisation block (R360 step 1). -/
def authFieldsOk (b : List Byte) : Bool :=
  let first := leAt b 0 2
  let last := leAt b 2 2
  leAt b 4 1 == 1 && decide (first ≤ last) && decide (last ≤ 255) &&
  (decide (first ≥ 64) || (first == 0 && decide (last ≥ 63))) && leAt b 5 27 == 0

/-- Does the block's HMAC verify against the key and the nonce, which is valid for 60 s (R359, R360 step 3)? -/
def State.authOk (s : State) (b : List Byte) : Bool := match s.kp.nonce with
  | none => false
  | some n => !s.due n.at_ 60000000 && s.keyIsSet && hmacSha256 (s.keepN 0xDC000 32) (n.val ++ bytesAt b 0 32) == bytesAt b 32 32

/-- An authorised clear (R371). -/
def State.alClear (s : State) (first last : Nat) : State :=
  let s := if first = 0 ∧ last ≥ 63 then s.kwStore (Config.settingsPage Reg.AL_FOUND) Reg.AL_FOUND 0 else s
  let gone := fun n => decide (first ≤ n) && decide (n ≤ last) && s.alKindOf n != 3
  match s.alChoose Sev.audit gone with
  | none => s
  | some slot =>
    let seq := s.reg64 Reg.AL_SEQ_LO
    let s := s.setReg64 Reg.AL_SEQ_LO (seq + 1)
    let body := alHeader seq s.time s.time Sev.audit (3 + 64) 0 0 0 0
      (Rank.reeve, 1, first, last, s.reg64 Reg.KP_NONCE_CTR_LO) ++ zeros (0x3F8 - 64)
    ((s.alWrite slot body).alFounded slot).alClearRange slot first last

end Sys2Proof.Machine
end

