-- ==== Sys2Proof/Machine/Rings.lean ====
section
/-! DEFINITION. The Ring Engine and the Baskets (chapter 14): doorbells, inline push, ring states, head reports, the
Collector, completions, notices and interrupts. Taking entries is in Fetch.lean. -/

namespace Sys2Proof.Machine

/-! ### Reading a ring's configuration -/

/-- Entries of a ring: 2^LOG2N within Table 14-1. -/
def ringSize (f : Func) (log2n : Nat) : Nat := 2 ^ clampN 4 (if isPf0 f then 16 else 12) log2n

def State.sqN (s : State) (f : Func) (q : Nat) : Nat := ringSize f (s.fld (Reg.RG_SQ_CFG (isPf0 f) q) 4 0)
def State.cqN (s : State) (f : Func) (c : Nat) : Nat := ringSize f (s.fld (Reg.RG_CQ_CFG (isPf0 f) c) 4 0)
def State.sqPrio (s : State) (f : Func) (q : Nat) : Nat :=
  if isPf0 f then s.fld (Reg.RG_SQ_CFG true q) 9 8 else 0
def State.sqCq (s : State) (f : Func) (q : Nat) : Nat :=
  if isPf0 f then s.fld (Reg.RG_SQ_CFG true q) 23 16 else s.fld (Reg.RG_SQ_CFG false q) 17 16
def State.sqInline (s : State) (f : Func) (q : Nat) : Bool := s.flag (Reg.RG_SQ_CFG (isPf0 f) q) 24
def State.hrAddr (s : State) (f : Func) (q : Nat) : Nat := s.reg64 (Reg.RG_SQ_HR_LO (isPf0 f) q) / 8 * 8
def State.sqBase (s : State) (f : Func) (q : Nat) : Nat := s.reg64 (Reg.RG_SQ_BASE_LO (isPf0 f) q) / 4096 * 4096
def State.cqBase (s : State) (f : Func) (c : Nat) : Nat := s.reg64 (Reg.RG_CQ_BASE_LO (isPf0 f) c) / 4096 * 4096
def State.cqVector (s : State) (f : Func) (c : Nat) : Nat :=
  if isPf0 f then s.fld (Reg.RG_CQ_CFG true c) 15 8 else s.fld (Reg.RG_CQ_CFG false c) 12 8
def State.cqIen (s : State) (f : Func) (c : Nat) : Bool := s.flag (Reg.RG_CQ_CFG (isPf0 f) c) 16
def State.creditMax (s : State) (f : Func) (c : Nat) : Nat :=
  if isPf0 f then clampN 1 208 (s.fld (Reg.RG_CQ_CFG true c) 31 24) else 4

def State.sq (s : State) (f : Func) (q : Nat) : Sq := mapGetD s.rg.sq (fkey f q) {}
def State.cq (s : State) (f : Func) (c : Nat) : Cq := mapGetD s.rg.cq (fkey f c) {}
def State.setSq (s : State) (f : Func) (q : Nat) (x : Sq) : State := { s with rg.sq := mapSet s.rg.sq (fkey f q) x }
def State.setCq (s : State) (f : Func) (c : Nat) (x : Cq) : State := { s with rg.cq := mapSet s.rg.cq (fkey f c) x }
def State.updSq (s : State) (f : Func) (q : Nat) (g : Sq → Sq) : State := s.setSq f q (g (s.sq f q))
def State.updCq (s : State) (f : Func) (c : Nat) (g : Cq → Cq) : State := s.setCq f c (g (s.cq f c))

/-- Occupancy of a submission ring. -/
def State.sqOcc (s : State) (f : Func) (q : Nat) : Nat := posDiff (s.sqN f q) (s.sq f q).head (s.sq f q).tail

/-- Room in a completion ring. -/
def State.cqRoom (s : State) (f : Func) (c : Nat) : Nat :=
  s.cqN f c - posDiff (s.cqN f c) (s.cq f c).head (s.cq f c).tail

/-- Collector credits a device-originated read holds for the entries it fetches (R319). -/
def RdPurpose.credits : RdPurpose → Nat
  | .fetch _ _ n => n
  | .reread _ _ => 1
  | .cqLine _ _ | .sgl _ | .part _ _ _ _ | .gone => 0

/-- Submission ring a read fetches from. -/
def RdPurpose.ring : RdPurpose → Option Nat
  | .fetch q _ _ => some q
  | .reread q _ => some q
  | .cqLine _ _ | .sgl _ | .part _ _ _ _ | .gone => none

/-- Reads asked for and not stopped. -/
def State.liveReads (s : State) : List RdReq := s.hp.rdq ++ (s.hp.reads.filter fun r => !r.stopped).map (·.req)

/-- Credits held by fetches of the rings a predicate names. -/
def State.fetchCredits (s : State) (p : Func → Nat → Bool) : Nat :=
  sumN (s.liveReads.map fun r => match r.purp.ring with
    | some q => if p r.f q then r.purp.credits else 0
    | none => 0)

/-- Credits of a completion ring in use. -/
def State.cqCredits (s : State) (f : Func) (c : Nat) : Nat :=
  (s.cq f c).credits + s.fetchCredits fun g q => g == f && s.sqCq g q == c

/-- PF0 credits of the pool in use (Table 14-6). -/
def State.poolUsed (s : State) : Nat :=
  sumN (s.rg.cq.map fun e => if e.1 < 256 then e.2.credits else 0) + s.fetchCredits fun g _ => isPf0 g

/-- The time the pool has been empty runs while it is empty; the POOL_EMPTY bit falls with it (R334). -/
def State.markPool (s : State) : State :=
  if s.poolUsed ≥ 208 then
    if s.rg.poolAt.isSome then s else { s with rg.poolAt := some s.now }
  else if s.rg.poolAt.isSome then ({ s with rg.poolAt := none }).setFlag Reg.BK_COL_STATUS 10 false
  else s

/-- Return n Collector credits of a completion ring (R331). -/
def State.creditBack (s : State) (f : Func) (c n : Nat) : State :=
  (s.updCq f c fun q => { q with credits := q.credits - n }).markPool

/-! ### Halting -/

/-- A ring enters HALTED_ERR with its notice (R314, R319, Table 14-7). -/
def State.haltErr (s : State) (f : Func) (q err : Nat) : State :=
  (s.updSq f q fun x => { x with state := 5, err := err }).note Rank.ringEngine 0x01 Sev.warning (q % 256)

/-- Every RUNNING ring of a function enters a halted state (R296, R299). -/
def State.haltFunc (s : State) (f : Func) (st : Nat) : State :=
  { s with
    rg.sq := s.rg.sq.map fun e => if keyFunc e.1 == f && e.2.state == 1 then (e.1, { e.2 with state := st }) else e
    rg.cq := s.rg.cq.map fun e =>
      if keyFunc e.1 == f && e.2.state == 1 then (e.1, { e.2 with state := st, waitAt := none, stalled := false }) else e }

/-! ### Doorbells (R313 to R315) -/

/-- A write to PF0 BAR0 is dropped and counted during Freeze (R299). -/
def State.pf0Dropped (s : State) (f : Func) : Bool := isPf0 f && s.frozen

def State.tailDoorbell (s : State) (f : Func) (q v : Nat) : State :=
  let r := s.sq f q
  let n := s.sqN f q
  if r.state ≠ 1 then s
  else if posValid n v ∧ posDiff n r.tail v ≤ n - s.sqOcc f q then s.setSq f q { r with tail := v }
  else (s.bump (Reg.RG_BADDB (isPf0 f))).haltErr f q 1

def execSqTailDoorbell (f : Func) (q : Nat) (val : W32) (s : State) : Out :=
  .next <| if s.pf0Dropped f then s.bump Reg.HP_DROP_FRZ else s.tailDoorbell f q (val.toNat % 2 ^ 17)

/-- Room has come to a completion ring: a stall ends and is measured (R334). -/
def State.endWait (s : State) (f : Func) (c : Nat) : State :=
  let r := s.cq f c
  match r.waitAt with
  | none => s
  | some t =>
    if s.cqRoom f c = 0 then s
    else
      let d := s.now - t
      let s := if r.stalled then (s.alHist 6 (if d < 1000 then 0 else Nat.log2 (d / 1000))).alMax 12 d else s
      s.setCq f c { r with waitAt := none, stalled := false }

def State.headDoorbell (s : State) (f : Func) (c v : Nat) : State :=
  let r := s.cq f c
  let n := s.cqN f c
  if r.state = 0 then s
  else if posValid n v ∧ posDiff n r.head v ≤ posDiff n r.head r.tail then
    (s.setCq f c { r with head := v }).endWait f c
  else (s.bump (Reg.RG_BADDB (isPf0 f))).note Rank.ringEngine 0x01 Sev.warning (c % 256)

def execCqHeadDoorbell (f : Func) (q : Nat) (val : W32) (s : State) : Out :=
  .next <| if s.pf0Dropped f then s.bump Reg.HP_DROP_FRZ else s.headDoorbell f q (val.toNat % 2 ^ 17)

/-! ### Inline push (R321, R322, R329) -/

/-- Lengths and alignments an inline slot accepts. -/
def inlineOk (off len : Nat) : Bool :=
  (len == 64 && off == 0) || ((len == 4 || len == 8 || len == 16 || len == 32) && off % len == 0 && decide (off + len ≤ 64))

/-- Put bytes into an assembly. -/
def asmPut (asm : List (Option Byte)) (off : Nat) (d : List Byte) : List (Option Byte) :=
  asm.take off ++ d.map some ++ asm.drop (off + d.length)

/-- A committed entry advances the tail and enters the Inline Basket unless it has a gap or the Basket is full. -/
def State.inlineCommit (s : State) (f : Func) (q : Nat) (asm : List (Option Byte)) : State :=
  let r := s.sq f q
  let n := s.sqN f q
  if s.sqOcc f q ≥ n then (s.bump (Reg.RG_BADDB (isPf0 f))).haltErr f q 2
  else
    let s := s.setSq f q { r with tail := posAdd n r.tail 1 }
    if asm.any Option.isNone then s.bump (Reg.RG_INLINE_GAP (isPf0 f))
    else if s.rg.inl.length ≥ 128 then (s.setFlag Reg.BK_INL_STATUS 9 true).bump Reg.BK_INL_OVERRUNS
    else { s with rg.inl := s.rg.inl ++ [⟨f, q, r.tail, asm.map (·.getD 0), s.now⟩] }

def State.inlineWrite (s : State) (f : Func) (q off : Nat) (d : List Byte) : State :=
  let r := s.sq f q
  if r.state ≠ 1 ∨ s.sqInline f q = false then s.bump (Reg.RG_INLINE_ORPHAN (isPf0 f))
  else
    match (if off = 0 then some (List.replicate 64 none) else r.asm) with
    | none => s.bump (Reg.RG_INLINE_ORPHAN (isPf0 f))
    | some a =>
      let a := asmPut a off d
      if off ≤ 0x38 ∧ off + d.length ≥ 0x40 then (s.setSq f q { r with asm := none }).inlineCommit f q a
      else s.setSq f q { r with asm := some a }

def State.inlWrite (s : State) (f : Func) (q off : Nat) (data : List Byte) : State :=
  if s.pf0Dropped f then s.bump Reg.HP_DROP_FRZ
  else if inlineOk off data.length then s.inlineWrite f q off data
  else s.bump Reg.HP_BADACC

def execInlineSlotWrite (f : Func) (q off : Nat) (data : List Byte) (s : State) : Out := .next (s.inlWrite f q off data)

/-- Discard the partial assembly and the Basket items of a ring (R322). -/
def State.inlFlush (s : State) (f : Func) (q : Nat) : State :=
  { (s.updSq f q fun r => { r with asm := none }) with
    rg.inl := s.rg.inl.filter fun i => !(i.f == f && i.q == q) }

def execInlFlush (f : Func) (q : Nat) (s : State) : Out :=
  .next <| if s.pf0Dropped f then s.bump Reg.HP_DROP_FRZ else s.inlFlush f q

/-! ### Head reports (R320) -/

/-- Write the head report of a ring if its function may write. -/
def State.reportHead (s : State) (f : Func) (q : Nat) : State :=
  let r := s.sq f q
  if s.canIssue f then
    (s.hostWrite f (s.hrAddr f q) (toLe 8 r.head)).setSq f q { r with pub := r.head, headAt := none }
  else s

/-- Does the entry at a position lie beyond the last head report? -/
def State.beyondReport (s : State) (f : Func) (q pos : Nat) : Bool :=
  let r := s.sq f q
  let n := s.sqN f q
  decide (posDiff n r.pub pos < posDiff n r.pub r.head)

/-- Move the consumed head of a ring over n entries taken. -/
def State.advanceHead (s : State) (f : Func) (q n : Nat) : State :=
  s.updSq f q fun r => { r with head := posAdd (s.sqN f q) r.head n, count := (r.count + n) % 2 ^ 32
                                headAt := if r.headAt.isSome then r.headAt else some s.now }

def execHeadReportTimer (f : Func) (q : Nat) (s : State) : Out :=
  .next <| match (s.sq f q).headAt with
    | some t => if s.due t 2 then s.reportHead f q else s
    | none => s

/-! ### Ring states (R312, R323, R324) -/

/-- A refused configuration write or enable. -/
def State.cfgErr (s : State) (f : Func) : State := s.setFlag (Reg.RG_STATUS (isPf0 f)) 0 true

def State.sqEnable (s : State) (f : Func) (q : Nat) : State :=
  if s.pf0Dropped f then s.bump Reg.HP_DROP_FRZ
  else
    let r := s.sq f q
    if r.state ≠ 0 then s
    else if s.hrAddr f q = 0 ∨ (s.cq f (s.sqCq f q)).state ≠ 1 then s.cfgErr f
    else (s.setFlag (Reg.RG_SQ_CTRL (isPf0 f) q) 0 true).setSq f q
      { r with state := 1, err := 0, tail := r.head, asm := none, headAt := none, ownAt := none }

def execSqEnable (f : Func) (q : Nat) (s : State) : Out := .next (s.sqEnable f q)

/-- What a disabled ring's fetches bring is not taken. -/
def RdReq.gone (f : Func) (q : Nat) (r : RdReq) : RdReq :=
  if r.f == f && r.purp.ring == some q then { r with purp := .gone } else r

def State.fetchGone (s : State) (f : Func) (q : Nat) : State :=
  { s with hp.rdq := s.hp.rdq.map (RdReq.gone f q)
           hp.reads := s.hp.reads.map fun r => { r with req := r.req.gone f q } }

def State.sqDisable (s : State) (f : Func) (q : Nat) : State :=
  if s.pf0Dropped f then s.bump Reg.HP_DROP_FRZ
  else
    let r := s.sq f q
    let s := s.setFlag (Reg.RG_SQ_CTRL (isPf0 f) q) 0 false
    if r.state = 0 then s else (s.fetchGone f q).setSq f q { r with state := 2, asm := none }

def execSqDisable (f : Func) (q : Nat) (s : State) : Out := .next (s.sqDisable f q)

def Deposit.ofSq (f : Func) (q : Nat) : Deposit → Bool
  | .comp c => c.f == f && c.sq == q
  | .note _ => false

def Deposit.ofCq (f : Func) (q : Nat) : Deposit → Bool
  | .comp c => c.f == f && c.cq == q
  | .note _ => false

/-- Commands of a submission ring in flight: taken and not ended, or ended with a completion not yet written. -/
def State.inFlight (s : State) (f : Func) (q : Nat) : Bool :=
  s.cmds.any (fun c => c.f == f && c.sq == q && !c.quiet) ||
  s.rg.units.any (fun e => e.2.any (Deposit.ofSq f q)) ||
  s.rg.col.any (fun i => i.dep.ofSq f q) ||
  s.rg.cq.any (fun e => e.2.hold.any fun c => c.f == f && c.sq == q)

def execRingDrainDone (f : Func) (q : Nat) (s : State) : Out :=
  .next <| if (s.sq f q).state = 2 ∧ s.inFlight f q = false then
      (s.reportHead f q).updSq f q fun r => { r with state := 0, err := 0, headAt := none, ownAt := none }
    else s

def State.cqEnable (s : State) (f : Func) (q : Nat) : State :=
  if s.pf0Dropped f then s.bump Reg.HP_DROP_FRZ
  else
    let r := s.cq f q
    if r.state ≠ 0 then s
    else (s.setFlag (Reg.RG_CQ_CTRL (isPf0 f) q) 0 true).setCq f q
      { r with state := 1, head := 0, tail := 0, unsig := 0, waitAt := none, stalled := false, pollAt := none }

def execCqEnable (f : Func) (q : Nat) (s : State) : Out := .next (s.cqEnable f q)

/-- Discard every completion held for the completion rings a predicate names; the number discarded comes with it. -/
def State.discardComps (s : State) (p : Func → Nat → Bool) : Nat × State :=
  let hit : Deposit → Bool := fun d => match d with
    | .comp c => p c.f c.cq
    | .note _ => false
  let nu := sumN (s.rg.units.map fun e => (e.2.filter hit).length)
  let nc := (s.rg.col.filter fun i => hit i.dep).length
  let nh := sumN (s.rg.cq.map fun e => if p (keyFunc e.1) (e.1 % 256) then e.2.hold.length else 0)
  let dec (f : Func) (c : Nat) : Nat :=
    sumN (s.rg.units.map fun e => (e.2.filter fun d => hit d && d.ofCq f c).length) +
    (s.rg.col.filter fun i => hit i.dep && i.dep.ofCq f c).length
  (nu + nc + nh,
   State.markPool { s with
     rg.units := s.rg.units.map fun e => (e.1, e.2.filter fun d => !hit d)
     rg.col := s.rg.col.filter fun i => !hit i.dep
     rg.cq := s.rg.cq.map fun e =>
       if p (keyFunc e.1) (e.1 % 256) then
         (e.1, { e.2 with credits := e.2.credits - (dec (keyFunc e.1) (e.1 % 256) + e.2.hold.length), hold := [] })
       else e })

def State.cqDisable (s : State) (f : Func) (q : Nat) : State :=
  if s.pf0Dropped f then s.bump Reg.HP_DROP_FRZ
  else if (s.cq f q).state = 0 then s
  else if s.rg.sq.any (fun e => keyFunc e.1 == f && e.2.state != 0 && s.sqCq f (e.1 % 256) == q) then s.cfgErr f
  else
    let (n, s) := s.discardComps fun g c => g == f && c == q
    ((s.bumpN (Reg.RG_CQ_DISCARD (isPf0 f)) n).setFlag (Reg.RG_CQ_CTRL (isPf0 f) q) 0 false).updCq f q
      fun r => { r with state := 0, unsig := 0, waitAt := none, stalled := false, pollAt := none }

def execCqDisable (f : Func) (q : Nat) (s : State) : Out := .next (s.cqDisable f q)

/-! ### MSI-X (R295, R335, R336) -/

def State.msixEnt (s : State) (f : Func) (v : Nat) : Msix := mapGetD s.hp.msix (fkey f v) {}
def State.setMsix (s : State) (f : Func) (v : Nat) (m : Msix) : State :=
  { s with hp.msix := mapSet s.hp.msix (fkey f v) m }

/-- MSI-X Enable (bit 15) and Function Mask (bit 14) of Message Control, in the dword at 0x50. -/
def State.msixEn (s : State) (f : Func) : Bool := bit (s.cfgW f 0x50) 31
def State.msixFmask (s : State) (f : Func) : Bool := bit (s.cfgW f 0x50) 30

/-- A message of a vector: sent, or made pending by masking; held back without pending by BME and Freeze. -/
def State.sendMsix (s : State) (f : Func) (v : Nat) : State :=
  let m := s.msixEnt f v
  if !s.canIssue f then s
  else if m.mask || !s.msixEn f || s.msixFmask f then s.setMsix f v { m with pend := true }
  else s.put [.msix f v m.addr m.data]

/-- Signal everything written to a completion ring. -/
def State.signal (s : State) (f : Func) (c : Nat) : State :=
  (s.sendMsix f (s.cqVector f c)).updCq f c fun r => { r with unsig := 0 }

/-- A pending vector that is now unmasked sends one message. -/
def State.unmaskSend (s : State) (f : Func) (v : Nat) : State :=
  let m := s.msixEnt f v
  if m.pend && !m.mask && s.msixEn f && !s.msixFmask f && s.canIssue f then
    (s.setMsix f v { m with pend := false }).put [.msix f v m.addr m.data]
  else s

def execMsixUnmask (f : Func) (vec : Nat) (s : State) : Out :=
  .next ((s.setMsix f vec { s.msixEnt f vec with mask := false }).unmaskSend f vec)

def execCoalesceTimeout (f : Func) (q : Nat) (s : State) : Out :=
  let r := s.cq f q
  .next <| if r.state = 1 ∧ r.unsig > 0 ∧ s.cqIen f q ∧
      s.due r.unsigAt (max 1 (s.fld (Reg.RG_CQ_COAL (isPf0 f) q) 23 8)) then s.signal f q
    else s

/-! ### Writing completions (R316, R333, R339) -/

/-- The 16 bytes of Table 15-2 with their marking bit. -/
def compBytes (c : Comp) (mark : Nat) : List Byte :=
  toLe 6 c.res0 ++ toLe 5 c.res1 ++ toLe 1 c.sq ++ toLe 2 c.cid ++ toLe 1 c.status ++ toLe 1 (c.cflags % 32 + 128 * mark)

/-- Write one entry at the tail of a completion ring and signal as R335 says. -/
def State.writeCq (s : State) (f : Func) (cq : Nat) (c : Comp) : State :=
  let r := s.cq f cq
  let n := s.cqN f cq
  let mark := if ownMode n then 1 else 1 - posLap r.tail
  let s := s.hostWrite f (s.cqBase f cq + 16 * posIdx r.tail) (compBytes c mark)
  let s := s.setCq f cq { r with tail := posAdd n r.tail 1, count := (r.count + 1) % 2 ^ 32, unsig := r.unsig + 1
                                 unsigAt := if r.unsig = 0 then s.now else r.unsigAt }
  if s.cqIen f cq && (decide (r.unsig + 1 ≥ max 1 (s.fld (Reg.RG_CQ_COAL (isPf0 f) cq) 7 0)) || c.status != 0) then
    s.signal f cq
  else s

/-- Write a completion, its head report first where its entry lies beyond the last one (R320). -/
def State.writeComp (s : State) (c : Comp) : State :=
  let s := if s.beyondReport c.f c.sq c.pos then s.reportHead c.f c.sq else s
  (s.writeCq c.f c.cq c).creditBack c.f c.cq 1

/-! ### The Collector (R327, R331 to R334) -/

/-- PF1 outside D0 with PME_En set: a notice of WARNING or higher wakes the host (R307). -/
def State.pmeSet (s : State) (sev : Nat) : State :=
  let p := s.cfgW .pf1 0x44
  if decide (sev ≥ Sev.warning) && (s.dstate .pf1 != 0 || s.hp.d3cold) && bit p 8 && !bit p 15 then
    let s := (s.setCfg .pf1 0x44 (setBits p 15 15 1)).bump Reg.HP_PME
    if s.hp.d3cold then { s with hp.wake := true } else s.put [.pme .pf1]
  else s

/-- The deposit a unit presents: the first one that holds its credit. -/
def State.presented (s : State) (rank : Nat) : Option Deposit :=
  (mapGetD s.rg.units rank []).find? fun d => !d.isNote || !s.noteOut rank

/-- Ranks in sweep order from the next one (R332). -/
def State.sweepOrder (s : State) : List Nat := (List.range 32).map fun i => (s.rg.sweep + i) % 32

/-- The arbiter grants the first presented deposit of its sweep. -/
def State.grantDeposit (s : State) : State :=
  match s.sweepOrder.find? fun r => (s.presented r).isSome with
  | none => s
  | some r => match s.presented r with
    | none => s
    | some d =>
      let s := { s with
        rg.units := mapUpd s.rg.units r [] fun l => l.erase d
        rg.col := s.rg.col ++ [⟨r, d, s.now, false, !d.isNote, !d.isNote⟩]
        rg.sweep := (r + 1) % 32 }
      match d with
      | .note n => s.pmeSet n.sev
      | .comp _ => s

def execCollectorDeposit (s : State) : Out := .next s.grantDeposit

/-- Priority class of an item as the reader sees it: promoted first, then the lowest class. -/
def ColItem.key (i : ColItem) : Nat := match i.dep with
  | .comp c => if i.promoted then 0 else 1 + c.prio
  | .note _ => 9

/-- Can the Ring Engine use an item now? -/
def State.colUsable (s : State) (i : ColItem) : Bool := match i.dep with
  | .comp c => (s.cq c.f c.cq).state != 1 || s.canIssue c.f
  | .note _ => false

/-- Up to n items of one completion ring from a window, in the order the reader takes them (R327). -/
def takeItems (f : Func) (c : Nat) : Nat → List ColItem → List ColItem
  | 0, _ => []
  | n + 1, w => match minBy ColItem.key (w.filter fun i => i.dep.ofCq f c) with
    | some i => i :: takeItems f c n (w.erase i)
    | none => []

/-- The completion an item carries. -/
def ColItem.comp (i : ColItem) : Option Comp := match i.dep with
  | .comp c => some c
  | .note _ => none

/-- Take up to n completions of a ring from the front window of the Collector; the completions and what stays. -/
def takeComps (f : Func) (c n : Nat) (col : List ColItem) : List Comp × List ColItem :=
  let l := takeItems f c n (col.take 16)
  (l.filterMap ColItem.comp, l.foldl List.erase col)

/-- Drain for one completion ring: a ring that takes no writes loses the items; one without room has them set aside; else
up to 4 are written. -/
def State.drainRing (s : State) (f : Func) (c : Nat) : State :=
  let r := s.cq f c
  if r.state ≠ 1 then
    let (a, rest) := takeComps f c 4 s.rg.col
    State.creditBack { s with rg.col := rest } f c a.length
  else
    let room := s.cqRoom f c
    let held := r.hold.take (min 4 room)
    let (a, rest) := takeComps f c (if room = 0 then 1 else min 4 room - held.length) s.rg.col
    let s := { s with rg.col := rest }
    if room = 0 then
      (s.setCq f c { r with hold := r.hold ++ a, waitAt := if r.waitAt.isSome then r.waitAt else some s.now }).bumpN
        Reg.BK_COL_SETASIDE a.length
    else
      (held ++ a).foldl State.writeComp (s.setCq f c { r with hold := r.hold.drop (min 4 room) })

/-- The ring the Ring Engine drains next: one with held items and room, else that of the best usable item of the window. -/
def State.drainChoice (s : State) : Option (Func × Nat) :=
  match s.rg.cq.find? fun e => !e.2.hold.isEmpty && e.2.state == 1 && s.canIssue (keyFunc e.1) &&
      decide (s.cqRoom (keyFunc e.1) (e.1 % 256) > 0) with
  | some e => some (keyFunc e.1, e.1 % 256)
  | none => match minBy ColItem.key ((s.rg.col.take 16).filter s.colUsable) with
    | some i => match i.dep with
      | .comp c => some (c.f, c.cq)
      | .note _ => none
    | none => none

def execCompletionDrain (s : State) : Out :=
  .next <| match s.drainChoice with
    | some (f, c) => s.drainRing f c
    | none => s

/-! ### Ownership-mode polling (R318) -/

/-- Completions of a ring are waiting for room. -/
def State.cqWaiting (s : State) (f : Func) (c : Nat) : Bool :=
  !(s.cq f c).hold.isEmpty || s.rg.col.any fun i => i.dep.ofCq f c

def execCqOwnPoll (f : Func) (q : Nat) (s : State) : Out :=
  let r := s.cq f q
  .next <| if ownMode (s.cqN f q) && r.state == 1 && s.cqRoom f q == 0 && s.cqWaiting f q && s.canIssue f &&
      (match r.pollAt with
        | some t => s.due t 2
        | none => true) then
      (s.setCq f q { r with pollAt := some s.now }).tryRead
        ⟨f, s.cqBase f q + 16 * (posIdx r.head / 4 * 4), 64, .cqLine q r.head⟩
    else s

/-- Entries of a line from index i that read OWN = 0, up to the end of the line. -/
def releasedRun (line : List Byte) (i : Nat) : Nat → Nat
  | 0 => 0
  | n + 1 => if i < 4 && !bit (leAt line (16 * i + 15) 1) 7 then 1 + releasedRun line (i + 1) n else 0

/-- The line of a completion ring has been read: released entries free the head (R318). -/
def State.cqLineRead (s : State) (f : Func) (c pos : Nat) (line : List Byte) : State :=
  let r := s.cq f c
  if r.head ≠ pos then s
  else (s.setCq f c { r with head := posAdd (s.cqN f c) r.head (releasedRun line (posIdx pos % 4) 4) }).endWait f c

/-! ### Staleness and stalls (R326, R327, R334) -/

def State.inlStaleUs (s : State) : Nat := clampN 1 1000 (s.fld Reg.BK_STALE 9 0)
def State.colStaleUs (s : State) : Nat := clampN 1 1000 (s.fld Reg.BK_STALE 25 16)
def State.stallUs (s : State) : Nat := clampN 100 10000 (s.fld Reg.BK_STALL_T 13 0)

def execInlineStaleTimeout (s : State) : Out :=
  .next <| match s.rg.inl.find? fun i => s.due i.at_ s.inlStaleUs with
    | some i => ({ s with rg.inl := s.rg.inl.erase i }).bump Reg.BK_INL_STALES
    | none => s

/-- Promote the first item a predicate holds of. -/
def promoteFirst (p : ColItem → Bool) : List ColItem → List ColItem
  | [] => []
  | i :: t => if p i then { i with promoted := true } :: t else i :: promoteFirst p t

def execCollectorPromoteTimeout (s : State) : Out :=
  let p : ColItem → Bool := fun i => !i.promoted && s.due i.at_ s.colStaleUs
  .next <| if s.rg.col.any p then
      ({ s with rg.col := promoteFirst p s.rg.col }).bump Reg.BK_COL_PROMOTED
    else s

/-- A completion ring has had no room for the stall time and has not been reported. -/
def State.stallDue (s : State) (e : Nat × Cq) : Bool := !e.2.stalled && (match e.2.waitAt with
  | some t => s.due t s.stallUs
  | none => false)

def execStallNoticeTimeout (s : State) : Out :=
  .next <| match s.rg.cq.find? s.stallDue with
    | some e =>
      (((s.updCq (keyFunc e.1) (e.1 % 256) fun r => { r with stalled := true, stalls := sat32 (r.stalls + 1) }).note
        Rank.ringEngine 0x02 Sev.notice (e.1 % 256)).bump Reg.BK_COL_STALLS)
    | none =>
      match s.rg.poolAt with
      | some t =>
        if s.due t s.stallUs ∧ s.flag Reg.BK_COL_STATUS 10 = false then
          ((s.setFlag Reg.BK_COL_STATUS 10 true).note Rank.ringEngine 0x03 Sev.warning 0).bump Reg.BK_COL_STALLS
        else s
      | none => s

/-! ### Notices (R349) -/

/-- RES1 of a notice, Table 15-9. -/
def noteRes1 (n : Note) : Nat :=
  n.value % 256 + n.unit % 32 * 2 ^ 8 + n.sev % 8 * 2 ^ 13 + n.rep % 65536 * 2 ^ 16 + n.arg % 256 * 2 ^ 32

/-- A notice as a completion entry. -/
def noteComp (n : Note) (ring count : Nat) : Comp :=
  ⟨.pf1, ring, 0xFF, 0, 0, count % 65536, 0, Cf.notice, n.time % 2 ^ 48, noteRes1 n⟩

/-- Mark the first item a predicate holds of as drained or taken, and release it when both have happened. -/
def releaseItem (p : ColItem → Bool) (f : ColItem → ColItem) : List ColItem → List ColItem
  | [] => []
  | i :: t =>
    if p i then
      let j := f i
      if j.drained && j.taken then t else j :: t
    else i :: releaseItem p f t

/-- Is a notice delivered to its ring? -/
def State.noteRouted (s : State) (n : Note) : Bool :=
  decide (n.sev ≥ s.rg.routeSev) && (s.cq .pf1 s.rg.routeRing).state == 1

/-- The first undrained notice of the front window. -/
def State.nextNotice (s : State) : Option Note :=
  match (s.rg.col.take 16).find? fun i => i.dep.isNote && !i.drained with
  | some i => match i.dep with
    | .note n => some n
    | .comp _ => none
  | none => none

def execNoticeDrain (s : State) : Out :=
  .next <| match s.nextNotice with
    | none => s
    | some n =>
      let go (s : State) : State := { s with
        rg.col := releaseItem (fun i => i.dep.isNote && !i.drained) (fun i => { i with drained := true }) s.rg.col
        rg.notices := s.rg.notices + 1 }
      if s.noteRouted n then
        if s.cqRoom .pf1 s.rg.routeRing = 0 ∨ s.canIssue .pf1 = false then s
        else (go s).writeCq .pf1 s.rg.routeRing (noteComp n s.rg.routeRing (s.rg.notices + 1))
      else go s

end Sys2Proof.Machine
end

