-- ==== Sys2Proof/Machine/StateCache.lean ====
section
/-! DEFINITION. The State Cache (R86 to R94): its lines, the merging buffer, miss registers, the replacement LFSR, the stride
detector, and the requests that wait. The value a read returns comes with the request; a wait shows in what the cache holds and
counts, and in the writes that have not yet reached the buffer (log entry 40). What follows from R92 is in Tasks.lean. -/

namespace Sys2Proof.Machine

/-! ### What a read sees (R87) -/

def scSetOf (line : Nat) : Nat := line % 4096

/-- The line held for a line address. -/
def State.scLine (s : State) (line : Nat) : Option ScLine :=
  (mapGetD s.sc.sets (scSetOf line) []).find? fun l => l.tag == line

/-- ENABLED and DRAINING of SC_STATUS. -/
def State.scEnabled (s : State) : Bool := s.flag Reg.SC_STATUS 0
def State.scDraining (s : State) : Bool := s.flag Reg.SC_STATUS 1

/-- Does a request go to the cache? Not while it is disabled or invalidates, and not while it drains (R93, R94). -/
def State.scServes (s : State) : Bool := s.scEnabled && !s.scDraining

/-- A byte of the merging buffer. -/
def State.scBuf (s : State) (a : Nat) : Option Byte := match s.sc.buf.find? fun e => e.1 == a / 64 with
  | some e => mapGet? e.2 (a % 64)
  | none => none

/-- A byte of a write that waits, the latest one. -/
def State.scWaiting (s : State) (a : Nat) : Option Byte :=
  (s.sc.wwait.reverse.find? fun w => decide (w.1 ≤ a) && decide (a < w.1 + w.2.length)).map fun w => w.2.getD (a - w.1) 0

/-- A byte below the waiting writes: the buffer's, else the line's while the cache serves, else DRAM's. -/
def State.scUnder (s : State) (a : Nat) : Byte := match s.scBuf a with
  | some b => b
  | none => match if s.scServes then s.scLine (a / 64) else none with
    | some l => l.data.getD (a % 64) 0
    | none => memRead s.mem a

/-- Byte of metadata as every block sees it. -/
def State.scByte (s : State) (a : Nat) : Byte := match s.scWaiting a with
  | some b => b
  | none => s.scUnder a

/-- A number of n bytes seen through the State Cache. -/
def State.scNat (s : State) (a n : Nat) : Nat := leNat ((List.range n).map fun i => s.scByte (a + i))

/-! ### Replacement (R88) -/

/-- One advance of the LFSR. -/
def lfsrNext (v : Nat) : Nat :=
  (v * 2 % 65536) + (b2n (bit v 15) + b2n (bit v 13) + b2n (bit v 12) + b2n (bit v 10)) % 2

/-- Advance until the way named is not busy, at most n times; the LFSR keeps every advance. -/
def lfsrPick (busy : List Nat) : Nat → Nat → Nat × Option Nat
  | 0, v => (v, none)
  | n + 1, v =>
    let v := lfsrNext v
    if busy.contains (v % 16) then lfsrPick busy n v else (v, some (v % 16))

/-- The victim way of a set: the lowest invalid way, else by the LFSR, advanced once and up to 16 times more. The new LFSR state
comes with it; no way means that every way met was busy. -/
def victimWay (lines : List ScLine) (busy : List Nat) (lfsr : Nat) : Nat × Option Nat :=
  match (List.range 16).find? fun w => !busy.contains w && !lines.any (fun l => l.way == w) with
  | some w => (lfsr, some w)
  | none => lfsrPick busy 17 lfsr

/-- Allocate a miss register and a way for a line; the victim line enters EVICTING and leaves its set. -/
def State.scMissAlloc (s : State) (line : Nat) (pf : Bool) : Bool × State :=
  if s.sc.miss.length ≥ 32 then (false, s)
  else
    let lines := mapGetD s.sc.sets (scSetOf line) []
    let busy := (s.sc.miss.filter fun m => scSetOf m.line == scSetOf line).map (·.way)
    match victimWay lines busy (s.fld Reg.SC_LFSR 15 0) with
    | (v, none) => (false, s.setFld Reg.SC_LFSR 15 0 v)
    | (v, some w) =>
      let victim := (lines.find? fun l => l.way == w).map (·.tag)
      (true, State.setFld { s with
        sc.sets := mapSet s.sc.sets (scSetOf line) (lines.filter fun l => l.way != w)
        sc.miss := s.sc.miss ++ [⟨line, w, victim, 0, pf⟩] } Reg.SC_LFSR 15 0 v)

/-! ### The stride detector (R91) -/

/-- Requesters on the Lanes: 0 to 3 the walk of an array, and these. -/
def Req.larder : Nat := 4
def Req.mender : Nat := 5
def Req.pages : Nat := 6
def Req.replay : Nat := 7
def Req.reads : Nat := 8
def Req.reeve : Nat := 9
def Req.hamper : Nat := 10

/-- Issue prefetches of the next lines at a distance, while more than 8 miss registers are free. -/
def State.scPrefetch (s : State) (line : Nat) (dist : Int) : Nat → Nat → State
  | 0, _ => s
  | n + 1, i =>
    let l := ((line : Int) + dist * (i + 1 : Nat)).toNat
    let s := if s.sc.miss.length < 24 ∧ (s.scLine l).isNone ∧ !s.sc.miss.any (fun m => m.line == l) then
        match s.scMissAlloc l true with
        | (true, s) => s.bump Reg.SC_PF_ISSUED
        | (false, s) => s
      else s
    s.scPrefetch line dist n (i + 1)

/-- The stride detector sees a miss of a stream; slots are replaced least recently used. -/
def State.scStride (s : State) (req line : Nat) : State :=
  if !s.flag Reg.SC_CTRL 2 then s
  else
    match s.sc.streams.find? fun x => x.req == req with
    | none => { s with sc.streams := ⟨req, line, 0, 0⟩ :: s.sc.streams.take 15 }
    | some x =>
      let d : Int := (line : Int) - x.last
      let run := if d = x.dist ∧ d ≠ 0 ∧ d.natAbs ≤ 64 then x.run + 1 else 1
      let s := { s with sc.streams := ⟨req, line, d, run⟩ :: s.sc.streams.filter (fun y => y.req != req) }
      if run ≥ 2 then s.scPrefetch line d (max 1 (s.fld Reg.SC_CTRL 6 4)) 0 else s

/-! ### Reads (R88 to R90) -/

/-- A read joins the reads that wait. -/
def State.scReadWait (s : State) (req line : Nat) : State := { s with sc.rwait := s.sc.rwait ++ [(req, line)] }

/-- A read of a line that is not held: it merges into the miss register of its line, waits for the eviction of its own address,
or takes a register and a way of its own; a merge beyond eight, a missing register or way waits. -/
def State.scMissed (s : State) (req line : Nat) (again : Bool) : State := match s.sc.miss.find? fun m => m.line == line with
  | some m =>
    if m.merged < 8 then
      let ms := s.sc.miss.map fun x => if x.line == line then { x with merged := x.merged + 1, prefetch := false } else x
      State.bump { s with sc.miss := ms } Reg.SC_MERGED
    else s.scReadWait req line
  | none =>
    if s.sc.miss.any fun m => m.victim == some line then (if again then s else s.bump Reg.SC_EVWAIT).scReadWait req line
    else match s.scMissAlloc line false with
      | (true, s) => (s.bump Reg.SC_MISS).scStride req line
      | (false, s) => s.scReadWait req line

/-- A read of a line by a requester; one presented again has counted its wait. -/
def State.scRead (s : State) (req line : Nat) (again : Bool) : State := match s.scLine line with
  | some l =>
    let s := s.bump Reg.SC_HIT
    if l.prefetched then
      let ls := (mapGetD s.sc.sets (scSetOf line) []).map fun x => if x.tag == line then { x with prefetched := false } else x
      State.bump { s with sc.sets := mapSet s.sc.sets (scSetOf line) ls } Reg.SC_PF_USED
    else s
  | none => s.scMissed req line again

/-- A read of the line at an internal address: hit, miss, merge or wait; DRAM serves it while the cache does not. -/
def State.scTouch (s : State) (req addr : Nat) : State :=
  if s.scDraining then s.scReadWait req (addr / 64)
  else if s.scEnabled then s.scRead req (addr / 64) false else s

/-- Waiting reads are presented again, in order. -/
def State.scReadsAgain (s : State) : State :=
  s.sc.rwait.foldl (fun s e => s.scRead e.1 e.2 true) { s with sc.rwait := [] }

/-! ### Writes (R87) -/

/-- Write the bytes of a buffer line to DRAM. -/
def drainLine (m : List Host.Cell) (line : Nat) : NMap Byte → List Host.Cell
  | [] => m
  | (o, b) :: t => drainLine (memWrite m (64 * line + o) b) line t

/-- Put bytes into a line of bytes. -/
def putLine (l : NMap Byte) (o : Nat) : List Byte → NMap Byte
  | [] => l
  | b :: t => putLine (mapSet l o b) (o + 1) t

/-- A write updates the line if it is held. -/
def State.scLinePut (s : State) (a : Nat) (bs : List Byte) : State :=
  let ls := (mapGetD s.sc.sets (scSetOf (a / 64)) []).map fun x =>
    if x.tag == a / 64 then { x with data := putBytes x.data (a % 64) bs } else x
  if (s.scLine (a / 64)).isSome then { s with sc.sets := mapSet s.sc.sets (scSetOf (a / 64)) ls } else s

/-- Has the merging buffer room for a write, or its line already? -/
def State.scRoom (s : State) (a : Nat) : Bool :=
  s.sc.buf.any (fun e => e.1 == a / 64) || decide (s.sc.buf.length < 32)

/-- Enter a write into the merging buffer, merged with its line. -/
def State.scBufPut (s : State) (a : Nat) (bs : List Byte) : State :=
  { s.scLinePut a bs with
    sc.buf := if s.sc.buf.any (fun e => e.1 == a / 64) then
        s.sc.buf.map fun e => if e.1 == a / 64 then (e.1, putLine e.2 (a % 64) bs) else e
      else s.sc.buf ++ [(a / 64, putLine [] (a % 64) bs)] }

/-- Write bytes within one line: into the merging buffer; to DRAM while the cache is disabled; or it waits, while the cache
drains, the buffer is full and unmergeable, or an earlier write waits. -/
def State.scWrite (s : State) (a : Nat) (bs : List Byte) : State :=
  if s.scDraining ∨ (s.scEnabled = true ∧ (s.scRoom a = false ∨ s.sc.wwait ≠ [])) then
    { s with sc.wwait := s.sc.wwait ++ [(a, bs)] }
  else if s.scEnabled then s.scBufPut a bs
  else s.memPut a bs

/-- Waiting writes enter the buffer, in order, as far as there is room. -/
def State.scWritesGo (s : State) : List (Nat × List Byte) → State
  | [] => { s with sc.wwait := [] }
  | w :: t => if s.scRoom w.1 then (s.scBufPut w.1 w.2).scWritesGo t else { s with sc.wwait := w :: t }

/-- The oldest line of the merging buffer drains to DRAM, and waiting writes follow into the room. -/
def State.scDrain1 (s : State) : State := match s.sc.buf with
  | [] => s
  | e :: t =>
    let s := { s with mem := drainLine s.mem e.1 e.2, sc.buf := t }
    if s.scDraining then s else s.scWritesGo s.sc.wwait

def execScBufferWriteback (s : State) : Out := .next s.scDrain1

/-! ### Fills -/

/-- A fill returns: the line holds DRAM's bytes under the buffer's, its register is free, and waiting reads go on. -/
def State.scFill (s : State) (line : Nat) : State := match s.sc.miss.find? fun m => m.line == line with
  | none => s
  | some m =>
    let data := (List.range 64).map fun i => (s.scBuf (64 * line + i)).getD (memRead s.mem (64 * line + i))
    State.scReadsAgain { s with
      sc.miss := s.sc.miss.filter fun x => x.line != line
      sc.sets := mapUpd s.sc.sets (scSetOf line) [] fun l =>
        ⟨m.way, line, m.prefetch, data⟩ :: l.filter (fun x => x.way != m.way) }

/-- Invalidate a line. -/
def State.scInvLine (s : State) (line : Nat) : State :=
  { s with sc.sets := mapSet s.sc.sets (scSetOf line) ((mapGetD s.sc.sets (scSetOf line) []).filter fun l => l.tag != line) }

/-! ### Enabling and disabling (R93, R94) -/

/-- Clearing EN: during an invalidation it takes effect when that ends. -/
def State.scDisable (s : State) : State :=
  let s := s.setFlag Reg.SC_CTRL 0 false
  if s.flag Reg.SC_STATUS 2 then s
  else if s.scEnabled then s.setFlag Reg.SC_STATUS 1 true else s

def execScDisable (s : State) : Out := .next s.scDisable

/-- Start a full invalidation. -/
def State.scInvalidate (s : State) : State :=
  (State.setFlag { s with sc.sets := [], sc.miss := [], sc.streams := [], sc.rwait := [], sc.invAt := s.now }
    Reg.SC_STATUS 2 true).setFlag Reg.SC_STATUS 3 false

/-- The disabled cache is enabled: by an invalidation, or with its retained lines as they are. -/
def State.scStart (s : State) : State :=
  if s.flag Reg.SC_CTRL 1 then s.scInvalidate
  else ((s.setFlag Reg.SC_STATUS 0 true).setFlag Reg.SC_STATUS 3 true).note Rank.stateCache
    (Config.eventValue 1) Sev.warning 0

/-- Setting EN. While the cache drains or invalidates, the setting takes effect when that ends (R94; for a drain DEDUCED, log
entry 40). -/
def State.scEnable (s : State) : State :=
  let was := s.scEnabled || s.flag Reg.SC_STATUS 2
  let s := s.setFlag Reg.SC_CTRL 0 true
  if was then s else s.scStart

def execScEnable (s : State) : Out := .next s.scEnable

/-- The drain ends: the cache is disabled, the requests that waited go to DRAM, and an EN set meanwhile enables it. -/
def State.scDrained (s : State) : State :=
  let s := (s.setFlag Reg.SC_STATUS 1 false).setFlag Reg.SC_STATUS 0 false
  let s := s.sc.wwait.foldl (fun s w => s.memPut w.1 w.2) s
  let s := { s with sc.wwait := [], sc.rwait := [] }
  if s.flag Reg.SC_CTRL 0 then s.scStart else s

def execScDrainDone (s : State) : Out := .next <| if s.scDraining ∧ s.sc.buf.isEmpty then s.scDrained else s

def execScInvalidateDone (s : State) : Out :=
  .next <| if s.flag Reg.SC_STATUS 2 ∧ s.due s.sc.invAt 64 then
      (s.setFlag Reg.SC_STATUS 2 false).setFlag Reg.SC_STATUS 0 (s.flag Reg.SC_CTRL 0)
    else s

end Sys2Proof.Machine
end

