-- ==== Sys2Proof/Machine/Geometry.lean ====
section
/-! DEFINITION. Arrays, volumes and stripes (chapter 02): placement of chunks (R29 to R35), tags (R36, R37, R40), labels
(R34), Stripe State Table entries (R41, R42), claims (R44) and free ranges (R45). -/

namespace Sys2Proof.Machine

/-! ### Geometry -/

def ArrayRec.mirror (r : ArrayRec) : Bool := r.kind != 0
/-- Copies of a chunk in a mirror. -/
def ArrayRec.n (r : ArrayRec) : Nat := r.k + 1
/-- Width W. -/
def ArrayRec.w (r : ArrayRec) : Nat := if r.mirror then r.n * r.dw else r.dw + r.k
/-- Blocks per chunk. -/
def ArrayRec.b (r : ArrayRec) : Nat := 4 * 2 ^ r.chunk
/-- Volume blocks per stripe. -/
def ArrayRec.sb (r : ArrayRec) : Nat := r.dw * r.b
/-- Metadata bytes of a member block. -/
def ArrayRec.metaBytes (r : ArrayRec) : Nat := 8 * r.meta_
/-- Member LBA of block o of stripe s (R35). -/
def ArrayRec.lba (r : ArrayRec) (s o : Nat) : Nat := 32768 + s * r.b + o

/-- Position of data chunk i (R29), or of its copy c (R30). -/
def ArrayRec.dataPos (r : ArrayRec) (s i c : Nat) : Nat :=
  if r.mirror then i * r.n + c else (r.w - s % r.w + i) % r.w

/-- Position of parity j (R29). -/
def ArrayRec.parPos (r : ArrayRec) (s j : Nat) : Nat := (r.w - r.k + j + r.w - s % r.w) % r.w

/-- Cells of a stripe: logical indexes of a parity array, positions of a mirror. -/
def ArrayRec.cells (r : ArrayRec) : Nat := r.w

/-- Position of a cell. -/
def ArrayRec.cellPos (r : ArrayRec) (s c : Nat) : Nat :=
  if r.mirror then c else if c < r.dw then r.dataPos s c 0 else r.parPos s (c - r.dw)

/-- Cell at a position. -/
def ArrayRec.posCell (r : ArrayRec) (s p : Nat) : Nat := if r.mirror then p else (p + s % r.w) % r.w

/-- Port at a position. -/
def ArrayRec.port (r : ArrayRec) (p : Nat) : Nat := r.pos.getD p 0

def State.arr? (s : State) (a : Nat) : Option ArrayRec := mapGet? s.st.arrays a

/-- Store an array record in the Keep. -/
def State.setArr (s : State) (a : Nat) (r : ArrayRec) : State :=
  s.keepRec (Reg.ST_ACFG a) fun s => { s with st.arrays := mapSet s.st.arrays a r }

def State.updArr (s : State) (a : Nat) (f : ArrayRec → ArrayRec) : State := match s.arr? a with
  | some r => s.setArr a (f r)
  | none => s

def State.vol? (s : State) (v : Nat) : Option Vol := mapGet? s.st.vols v

/-- The volume a stripe of an array lies in. -/
def State.volOf (s : State) (a stripe : Nat) : Option (Nat × Vol) :=
  s.st.vols.find? fun e => e.2.arr == a && decide (e.2.base ≤ stripe) && decide (stripe < e.2.base + e.2.count)

/-- A volume block as array stripe, data chunk and block of the chunk (R35). -/
def mapBlock (r : ArrayRec) (v : Vol) (blk : Nat) : Nat × Nat × Nat :=
  (v.base + blk / r.sb, blk % r.sb / r.b, blk % r.sb % r.b)

/-- The volume block at chunk i, block o of an array stripe. -/
def unmapBlock (r : ArrayRec) (v : Vol) (stripe i o : Nat) : Nat := (stripe - v.base) * r.sb + i * r.b + o

/-! ### The Stripe State Table (R41 to R43) -/

def Sst.unwritten : Nat := 0
def Sst.consistent : Nat := 1
def Sst.open_ : Nat := 2
def Sst.resyncDue : Nat := 3
def Sst.degraded : Nat := 4
def Sst.rebuilding : Nat := 5
def Sst.lost : Nat := 6
def Sst.hampered : Nat := 7

/-- Internal address of an entry. -/
def sstAddr (e : Nat) : Nat := 0x3C0000000 + 4 * e

/-- The entry of a stripe, as seen through the State Cache. -/
def State.sst (s : State) (a stripe : Nat) : Nat := match s.arr? a with
  | some r => s.scNat (sstAddr (r.base + stripe)) 4
  | none => 0

def State.sstState (s : State) (a stripe : Nat) : Nat := s.sst a stripe % 16
def State.sstGen (s : State) (a stripe : Nat) : Nat := bits (s.sst a stripe) 27 4

/-- A lookup of an entry by a requester counts in the State Cache. -/
def State.sstLook (s : State) (req a stripe : Nat) : State := match s.arr? a with
  | some r => s.scTouch req (sstAddr (r.base + stripe))
  | none => s

/-- Replace an entry: the page it lies in now differs from its member copies (R46). -/
def State.setSst (s : State) (a stripe v : Nat) : State := match s.arr? a with
  | some r =>
    let s := s.scWrite (sstAddr (r.base + stripe)) (toLe 4 (v % 2 ^ 31))
    let key := 65536 * a + stripe / 1024
    { s with st.pages := match mapGet? s.st.pages key with
        | some _ => s.st.pages
        | none => mapSet s.st.pages key s.now }
  | none => s

/-- Replace the state of an entry. -/
def State.setSstState (s : State) (a stripe st : Nat) : State := s.setSst a stripe (setBits (s.sst a stripe) 3 0 st)

/-- Replace the state and GEN_LO of an entry. -/
def State.setSstGen (s : State) (a stripe st gen : Nat) : State :=
  s.setSst a stripe (setBits (setBits (s.sst a stripe) 3 0 st) 27 4 gen)

/-- Replace one flag of an entry. -/
def State.setSstBit (s : State) (a stripe i : Nat) (b : Bool) : State :=
  s.setSst a stripe (setBits (s.sst a stripe) i i (b2n b))

/-- A stripe returns to UNWRITTEN: LOG clears; REPAIRED sets where a LOST stripe was released (Table 02-9). -/
def State.sstUnwrite (s : State) (a stripe : Nat) (released : Bool) : State :=
  let v := setBits (setBits (s.sst a stripe) 3 0 Sst.unwritten) 30 30 0
  s.setSst a stripe (if released then setBits v 29 29 1 else v)

/-- GEN of a stripe as the table holds it (R42). -/
def State.genNow (s : State) (a stripe : Nat) : Nat := match s.arr? a with
  | some r => (r.epoch % 2 ^ 24) * 2 ^ 24 + s.sstGen a stripe
  | none => 0

/-- GEN the next write of a stripe takes; the epoch is raised first where GEN_LO wraps (R42). -/
def State.genNext (s : State) (a stripe : Nat) : Nat × State :=
  match s.arr? a with
  | none => (0, s)
  | some r =>
    let lo := s.sstGen a stripe
    if lo = 0xFFFFFF then
      let e := (r.epoch + 1) % 2 ^ 24
      (e * 2 ^ 24, s.setArr a { r with epoch := e })
    else (r.epoch * 2 ^ 24 + lo + 1, s)

/-! ### Members of a stripe -/

/-- A position that is failed and has no active target takes nothing. -/
def State.posTarget (s : State) (a p : Nat) : Bool := (mapGet? s.md.pos (32 * a + p)).isSome

/-- Positions that may be read: not failed in ST_AFAILa. -/
def State.posReadable (s : State) (a : Nat) (r : ArrayRec) (p : Nat) : Bool :=
  !bit r.failed p && (match mapGet? s.mp.ports (r.port p) with
    | some q => !q.failed && (q.state == 4 || q.state == 5 || q.state == 3)
    | none => false) && decide (a < 4)

/-- Positions a whole-stripe write goes to: working ones and rebuild targets. -/
def State.posWritable (s : State) (a : Nat) (r : ArrayRec) (p : Nat) : Bool :=
  if bit r.failed p then s.posTarget a p else s.posReadable a r p

/-- Positions a write of a stripe reaches. -/
def State.writeSet (s : State) (a : Nat) (r : ArrayRec) : List Nat := (List.range r.w).filter (s.posWritable a r)

/-- Cells of a stripe that cannot be read because their position is failed. -/
def State.failedCells (s : State) (a : Nat) (r : ArrayRec) (stripe : Nat) : List Nat :=
  (List.range r.w).filter fun c => !s.posReadable a r (r.cellPos stripe c)

/-- Data chunk a cell of a mirror holds a copy of. -/
def ArrayRec.chunkOf (r : ArrayRec) (c : Nat) : Nat := if r.mirror then c / r.n else c

/-- Is an erasure set of a stripe beyond redundancy (R255)? -/
def beyond (r : ArrayRec) (state : Nat) (er : List Nat) : Bool :=
  if state = Sst.resyncDue then !er.isEmpty
  else if r.mirror then
    (List.range r.dw).any fun i => (List.range r.n).all fun c => er.contains (i * r.n + c)
  else decide ((er.eraseDups).length > r.k)

/-! ### Tags (R36, R37, R40) -/

/-- Tag of a block of the data area. -/
def State.dataTag (s : State) (a : Nat) (r : ArrayRec) (stripe c o gen : Nat) (data : List Byte) : List Byte :=
  let crc := toLe 4 (crc32c data)
  let ci := r.chunkOf c
  let id := if !r.mirror && decide (c ≥ r.dw) then (stripe % 2 ^ 24, 0xFF00 + (c - r.dw))
    else match s.volOf a stripe with
      | some (v, rec) => (unmapBlock r rec stripe ci o % 2 ^ 32, v)
      | none => (0, 0)
  if r.meta_ = 2 then crc ++ toLe 4 id.1 ++ toLe 6 gen ++ toLe 2 id.2
  else if r.meta_ = 1 then crc ++ toLe 4 (gen % 2 ^ 32)
  else []

/-- Tag of a block outside the data area (R37, R102): identifier words and generation. -/
def sideTag (metaCode w4 gen id : Nat) (data : List Byte) : List Byte :=
  if metaCode = 2 then toLe 4 (crc32c data) ++ toLe 4 w4 ++ toLe 6 gen ++ toLe 2 id
  else if metaCode = 1 then toLe 4 (crc32c data) ++ toLe 4 (gen % 2 ^ 32)
  else []

/-- A HAMPERED stripe whose latest Ledger entry is an OPEN without a CLOSE (R169). -/
def State.hamperOpen (s : State) (a stripe : Nat) : Bool :=
  s.sstState a stripe == Sst.hampered && s.lg.live.any fun e => e.kind == 1 && e.arr == a && e.stripe == stripe

/-- A RESYNC_DUE stripe set so by an OPEN without a CLOSE whose GEN the table holds, or by the OPEN-state override (R106). -/
def State.tornOpen (s : State) (a stripe : Nat) : Bool :=
  let g := s.sstGen a stripe
  s.sstState a stripe == Sst.resyncDue &&
  (s.lg.torn.contains (a, stripe, g) ||
    s.lg.live.any fun e => e.kind == 1 && e.arr == a && e.stripe == stripe && e.gen % 2 ^ 24 == g &&
      !s.lg.live.any fun c => c.kind == 2 && c.arr == a && c.stripe == stripe && decide (c.seq > e.seq))

/-- GEN_LO values check 4 accepts for a data chunk: one more for a stripe waiting under R106. -/
def State.genOk (s : State) (a stripe : Nat) (dataCell : Bool) (g : Nat) : Bool :=
  let t := s.sstGen a stripe
  g == t || (dataCell && (s.tornOpen a stripe || s.hamperOpen a stripe) && g == (t + 2 ^ 24 - 1) % 2 ^ 24)

/-- Checks 2 to 4 of Table 02-6: the counter of the first that fails. -/
def State.tagCheck (s : State) (a : Nat) (r : ArrayRec) (stripe c o : Nat) (m : MBlock) : Option Nat :=
  let want := s.dataTag a r stripe c o 0 m.data
  let isData := r.mirror || decide (c < r.dw)
  if r.meta_ = 0 then none
  else if leAt m.tag 0 4 ≠ crc32c (bytesAt m.data 0 4096) then some Reg.ST_TAG_CRC
  else if r.meta_ = 2 ∧ (bytesAt m.tag 4 4 ≠ bytesAt want 4 4 ∨ bytesAt m.tag 14 2 ≠ bytesAt want 14 2) then
    some Reg.ST_TAG_PLACE
  else
    let g := if r.meta_ = 2 then leAt m.tag 8 3 else leAt m.tag 4 3
    if s.genOk a stripe isData g then none else some Reg.ST_TAG_STALE

/-! ### Labels (R34) -/

/-- The 64 bytes of a label, or zeros for a removed one. -/
def labelBytes (a p gen : Nat) (r : ArrayRec) (zero : Bool) : List Byte :=
  let sig : List Byte := if zero then zeros 8 else [0x4C, 0x45, 0x42, 0x4C, 0x41, 0x42, 0x45, 0x4C]
  let b := sig ++ bytesAt r.ident 0 16 ++ toLe 1 a ++ toLe 1 p ++ toLe 1 r.kind ++ toLe 1 r.dw ++ toLe 1 r.k ++
    toLe 1 r.chunk ++ toLe 1 r.meta_ ++ [0] ++ toLe 4 r.count ++ toLe 4 r.h ++ toLe 8 gen ++ toLe 6 r.created ++ zeros 6
  b ++ toLe 4 (crc32c b)

/-- A label that checks: its bytes. -/
def labelOk (b : List Byte) : Bool := leAt b 60 4 == crc32c (bytesAt b 0 60)

/-- Has a label the signature of an array? -/
def labelSigned (b : List Byte) : Bool := bytesAt b 0 8 == [0x4C, 0x45, 0x42, 0x4C, 0x41, 0x42, 0x45, 0x4C]

/-! ### Free ranges (R45, R50) -/

/-- Lowest start of a free run of n items below a limit, given taken ranges (start, length). -/
def firstFit (taken : List (Nat × Nat)) (n lim : Nat) : Option Nat :=
  let starts := 0 :: taken.map fun t => t.1 + t.2
  let ok := fun x => decide (x + n ≤ lim) && taken.all fun t => decide (x + n ≤ t.1) || decide (t.1 + t.2 ≤ x)
  minBy id (starts.filter ok)

/-- Largest free run below a limit. -/
def freeRun (taken : List (Nat × Nat)) (lim : Nat) : Nat :=
  let starts := 0 :: taken.map fun t => t.1 + t.2
  maxN (starts.map fun x =>
    if taken.any (fun t => decide (t.1 ≤ x) && decide (x < t.1 + t.2)) then 0
    else ((taken.filter fun t => decide (t.1 ≥ x)).map (·.1)).foldl min lim - x)

def State.entryRanges (s : State) : List (Nat × Nat) := s.st.arrays.map fun e => (e.2.base, e.2.count)
def sstEntries : Nat := 16777216

/-- Ports in arrays and spares. -/
def State.assigned (s : State) (port : Nat) : Bool :=
  s.st.arrays.any (fun e => (List.range e.2.w).any fun p => e.2.port p == port) ||
  s.st.spares.any (fun e => e.2.port == port)

/-- The array and position of a port. -/
def State.portPos (s : State) (port : Nat) : Option (Nat × Nat) :=
  s.st.arrays.findSome? fun e => ((List.range e.2.w).find? fun p => e.2.port p == port).map fun p => (e.1, p)

/-! ### Claims (R44) -/

def State.holder (s : State) (a stripe : Nat) : Option Nat :=
  (s.st.holds.find? fun h => h.arr == a && h.stripe == stripe).map (·.owner)

/-- Take a stripe, or wait in line for it. -/
def State.claim (s : State) (a stripe owner : Nat) : Bool × State :=
  match s.holder a stripe with
  | none => (true, { s with st.holds := s.st.holds ++ [⟨a, stripe, owner⟩] })
  | some _ => (false, { s with st.claimQ := s.st.claimQ ++ [⟨a, stripe, owner⟩] })

/-- Give a stripe back. -/
def State.unclaim (s : State) (owner : Nat) : State :=
  { s with st.holds := s.st.holds.filter fun h => h.owner != owner }

/-! ### Mode and phase -/

/-- Global mode (RV_MODE): 0 STARTUP, 1 SERVICE, 2 RECOVERY, 3 TEST. -/
def State.mode (s : State) : Nat := s.fld Reg.RV_MODE 1 0
def State.testMode (s : State) : Bool := s.mode == 3

/-- PFD declared (SS_STATUS.PFD). -/
def State.pfd (s : State) : Bool := s.flag Reg.SS_STATUS 0

end Sys2Proof.Machine
end

