-- ==== Sys2Proof/Machine/Loom.lean ====
section
/-! DEFINITION. The Loom (chapter 03): the code (R52 to R54), the operations (R55 to R58), descriptors (R59, R60), queues and
contexts (R63, R64), injected errors and FAULT (R65, R66). What a client does with a result is in Tasks.lean. -/

namespace Sys2Proof.Machine

/-! ### Linear algebra over GF(2^8) -/

/-- XOR of two rows of coefficients. -/
def rowXor : List Nat → List Nat → List Nat
  | [], b => b
  | a, [] => a
  | x :: a, y :: b => (x ^^^ y) :: rowXor a b

/-- Clear column c of every row but row c, which is scaled to 1 there. Every leading minor of the matrix is non-zero
(R52), so no rows are exchanged. -/
def elimCol (m : List (List Nat)) (c : Nat) : List (List Nat) :=
  let p := m.getD c []
  let p := p.map (gfMul (gfInv (p.getD c 0)))
  (List.range m.length).map fun r =>
    let row := m.getD r []
    if r = c then p else rowXor row (p.map (gfMul (row.getD c 0)))

/-- Inverse of an n by n matrix. -/
def gfMatInv (m : List (List Nat)) : List (List Nat) :=
  let n := m.length
  let aug := (List.range n).map fun r => m.getD r [] ++ (List.range n).map fun c => if r = c then 1 else 0
  ((List.range n).foldl elimCol aug).map fun row => row.drop n

/-- Linear combination of byte strings. -/
def combine (l : List (Nat × List Byte)) : List Byte := xorAll (l.map fun e => gfScale e.1 e.2)

/-! ### Jobs -/

namespace Op
def encode : Nat := 1
def check : Nat := 2
def recon : Nat := 3
def locate : Nat := 4
def xor : Nat := 5
def mirrorCmp : Nat := 6
end Op

namespace Ls
def ok : Nat := 0
def mismatch : Nat := 1
def located : Nat := 2
def unlocatable : Nat := 3
def tooMany : Nat := 4
def badDesc : Nat := 5
def unsupported : Nat := 6
def sourceEcc : Nat := 7
def datapath : Nat := 8
def cancelled : Nat := 9
end Ls

/-- E_d and E_p of R56. -/
def LJob.ed (j : LJob) : List Nat := (List.range j.d).filter fun i => j.erase.testBit i && !j.zero.testBit i
def LJob.ep (j : LJob) : List Nat := (List.range j.k).filter fun p => j.erase.testBit (j.d + p)
/-- Data chunks read: not erased and not zero. -/
def LJob.dataIn (j : LJob) : List Nat :=
  (List.range j.d).filter fun i => !j.zero.testBit i && !(j.op == Op.recon && j.erase.testBit i)
/-- Parities a RECON reads (R56 step 2). -/
def LJob.rows (j : LJob) : List Nat := ((List.range j.k).filter fun p => !j.erase.testBit (j.d + p)).take j.ed.length

/-- Logical indexes a job reads (Table 03-2). -/
def LJob.inputs (j : LJob) : List Nat :=
  if j.op = Op.encode then j.dataIn
  else if j.op = Op.recon then j.dataIn ++ j.rows.map (j.d + ·)
  else if j.op = Op.check ∨ j.op = Op.locate then j.dataIn ++ (List.range j.k).map (j.d + ·)
  else List.range j.d

/-- Chunks whose bytes count as input (Table 03-2): CHECK and LOCATE count every data chunk and parity. -/
def LJob.inCount (j : LJob) : Nat := if j.op = Op.check ∨ j.op = Op.locate then j.d + j.k else j.inputs.length

/-- Logical indexes a job writes. -/
def LJob.outputs (j : LJob) : List Nat :=
  if j.op = Op.encode then (List.range j.k).map (j.d + ·)
  else if j.op = Op.recon then (List.range (j.d + j.k)).filter fun x => j.erase.testBit x
  else if j.op = Op.xor then [0]
  else []

/-- Block b of a chunk. -/
def State.loomBlk (s : State) (l : LLoc) (b : Nat) : List Byte := match l with
  | .addr a => s.memN (a + 4096 * b) 4096
  | .buf t c o => match s.md.tasks.find? fun x => x.id == t with
    | some x => mapGetD x.bufs (64 * c + o + b) []
    | none => []
  | .dump u => match s.hm.dump with
    | some d => d.stream.getD (64 * u + b) []
    | none => []
  | .dumpXor t => match s.hm.dump with
    | some d => (mapGetD d.xors t []).getD b []
    | none => []

def State.loomIn (s : State) (j : LJob) (x b : Nat) : List Byte := match mapGet? j.src x with
  | some l => s.loomBlk l b
  | none => []

/-- Write block b of an output. -/
def State.loomOut (s : State) (j : LJob) (x b : Nat) (d : List Byte) : State := match mapGet? j.dst x with
  | some (.addr a) => s.memPut (a + 4096 * b) (bytesAt d 0 4096)
  | some (.buf t c o) => { s with md.tasks := s.md.tasks.map fun y =>
      if y.id == t then { y with bufs := mapSet y.bufs (64 * c + o + b) d } else y }
  | some (.dumpXor t) => match s.hm.dump with
    | some u => { s with hm.dump := some { u with xors := mapUpd u.xors t [] fun l => bytesPad l b ++ [d] } }
    | none => s
  | some (.dump _) => s
  | none => s
where
  /-- blocks are written in increasing order; what stands before block b is kept -/
  bytesPad (l : List (List Byte)) (b : Nat) : List (List Byte) := l.take b ++ List.replicate (b - l.length) []

/-- Is data chunk i taken as zeros? ZERO applies to ENCODE, CHECK, RECON and LOCATE (R55). -/
def LJob.isZero (j : LJob) (i : Nat) : Bool := decide (j.op ≤ Op.locate) && j.zero.testBit i

/-- Data chunk i of a stripe as the job sees it before solving. -/
def State.loomData (s : State) (j : LJob) (i b : Nat) : List Byte :=
  if j.isZero i || (j.op == Op.recon && j.erase.testBit i) then [] else s.loomIn j i b

/-- Outputs of block b (R52, R56, R58). -/
def State.loomBlock (s : State) (j : LJob) (b : Nat) : List (Nat × List Byte) :=
  let data := (List.range j.d).map fun i => s.loomData j i b
  let parity := fun (ds : List (List Byte)) (p : Nat) => combine ((List.range j.d).map fun i => (gfCoef p i, ds.getD i []))
  if j.op = Op.encode then (List.range j.k).map fun p => (j.d + p, parity data p)
  else if j.op = Op.xor then [(0, xorAll data)]
  else if j.op = Op.recon then
    let rows := j.rows
    let ed := j.ed
    let m := gfMatInv (rows.map fun p => ed.map fun i => gfCoef p i)
    let syn := rows.map fun p => xorBytes (s.loomIn j (j.d + p) b) (parity data p)
    let solved := (List.range ed.length).map fun r =>
      combine ((List.range rows.length).map fun c => ((m.getD r []).getD c 0, syn.getD c []))
    let full := (List.range j.d).map fun i => match (List.range ed.length).find? fun r => ed.getD r 99 == i with
      | some r => solved.getD r []
      | none => data.getD i []
    j.outputs.map fun x => (x, if x < j.d then full.getD x [] else parity full (x - j.d))
  else []

/-- Syndromes of block b: stored parity XOR recomputed parity. -/
def State.loomSynd (s : State) (j : LJob) (b : Nat) : List (List Byte) :=
  let data := (List.range j.d).map fun i => s.loomData j i b
  (List.range j.k).map fun p =>
    bytesAt (xorBytes (s.loomIn j (j.d + p) b) (combine ((List.range j.d).map fun i => (gfCoef p i, data.getD i [])))) 0 4096

/-- Class of one byte position (R57): 0 CLEAN, 1 UNLOCATABLE, 2 + x names logical chunk x. -/
def locByte (d k : Nat) (sy : List Nat) : Nat :=
  let g := fun i => sy.getD i 0
  if sy.all (· == 0) then 0
  else if g 0 ≠ 0 ∧ g 1 ≠ 0 then
    let q := gfMul (g 1) (gfInv (g 0))
    match (List.range d).filter fun i => gfCoef 1 i == q with
    | [i] => if ((List.range k).drop 2).all fun p => g p == gfMul (gfCoef p i) (g 0) then 2 + i else 1
    | _ => 1
  else match (List.range k).filter fun p => g p != 0 with
    | [p] => 2 + d + p
    | _ => 1

/-- Combine classes: all CLEAN, one chunk named by every non-CLEAN one, or UNLOCATABLE. -/
def locJoin (l : List Nat) : Nat := match (l.filter (· != 0)).eraseDups with
  | [] => 0
  | [x] => x
  | _ => 1

/-- Class of a block from its syndromes. -/
def locBlock (d k : Nat) (sy : List (List Byte)) : Nat :=
  locJoin ((List.range 4096).map fun t => locByte d k (sy.map fun l => (l.getD t 0).toNat))

/-- Comparison of copies at one block (R58): 0 AGREE, 1 UNLOCATABLE or MISMATCH, 2 + c names copy c. -/
def cmpBlock (c : List (List Byte)) : Nat :=
  let g := fun i => bytesAt (c.getD i []) 0 4096
  if c.length ≤ 2 then (if g 0 = g 1 then 0 else 1)
  else locJoin ((List.range 4096).map fun t =>
    let x := fun i => (g i).getD t 0
    if x 0 = x 1 then (if x 1 = x 2 then 0 else 4) else if x 0 = x 2 then 3 else if x 1 = x 2 then 2 else 1)

/-- An empty result. -/
def LRes.of (st : Nat) : LRes := ⟨st, 0, 0, 0xFF, 0, 0, []⟩

/-- Compute and write the first n blocks of a job with outputs; their CRCs come with it (R61). -/
def State.loomWrite (s : State) (j : LJob) (n : Nat) : NMap Nat × State :=
  let outs := (List.range n).map fun b => (b, s.loomBlock j b)
  let ords := j.outputs
  (outs.foldl (fun m e => e.2.foldl (fun m o =>
      mapSet m (64 * (ords.findIdx (· == o.1)) + e.1) (crc32c (bytesAt o.2 0 4096))) m) [],
   outs.foldl (fun s e => e.2.foldl (fun s o => s.loomOut j o.1 e.1 o.2) s) s)

/-- Run a job whose descriptor is good, with no error: outputs written, and the result. -/
def State.loomRun (s : State) (j : LJob) : LRes × State :=
  let inb := j.inCount * j.len * 4096
  let blks := List.range j.len
  let base : LRes := { LRes.of Ls.ok with inBytes := inb }
  if j.op = Op.check then
    let sy := blks.map fun b => s.loomSynd j b
    let bad := toMask (blks.filter fun b => (sy.getD b []).any fun l => l.any (· != 0))
    let synd := toMask ((List.range j.k).filter fun p => sy.any fun l => (l.getD p []).any (· != 0))
    ({ base with status := if synd = 0 then Ls.ok else Ls.mismatch, synd := synd, blockBad := bad }, s)
  else if j.op = Op.locate then
    let cl := blks.map fun b => locBlock j.d j.k (s.loomSynd j b)
    let bad := toMask (blks.filter fun b => cl.getD b 0 != 0)
    match locJoin cl with
    | 0 => (base, s)
    | 1 => ({ base with status := Ls.unlocatable, blockBad := bad }, s)
    | x + 2 =>
      ({ base with status := Ls.located, blockBad := bad
                   located := x % 32 + 32 * b2n (decide (x ≥ j.d)) + 64 * b2n (decide (j.k ≥ 3)) + 128 }, s)
  else if j.op = Op.mirrorCmp then
    let cl := blks.map fun b => cmpBlock ((List.range j.d).map fun c => s.loomIn j c b)
    let bad := toMask (blks.filter fun b => cl.getD b 0 != 0)
    match locJoin cl with
    | 0 => (base, s)
    | 1 => ({ base with status := if j.d = 2 then Ls.mismatch else Ls.unlocatable, blockBad := bad }, s)
    | x + 2 => ({ base with status := Ls.located, blockBad := bad, located := x + 64 + 128 }, s)
  else
    let (crcs, s) := s.loomWrite j j.len
    ({ base with crcs := crcs }, s)

/-- A job that stops at block b with a status: the blocks before it are written, and it has read b + 1 blocks (R65, R66; that the
block it stops at counts as read is DEDUCED, log entry 142). -/
def State.loomStop (s : State) (j : LJob) (b : Nat) (st src : Nat) : LRes × State :=
  let (crcs, s) := s.loomWrite j b
  ({ LRes.of st with inBytes := j.inCount * (b + 1) * 4096, srcBad := src, crcs := crcs }, s)

/-! ### Descriptors (R59, R60) -/

/-- Does an address range lie inside stacked DRAM or the SRAM pools (R24)? -/
def loomMapped (a n : Nat) : Bool :=
  decide (a + n ≤ 0x400000000) || (decide (0x10000000000 ≤ a) && decide (a + n ≤ 0x10002800000))

/-- May a chunk lie at an address: aligned, and inside stacked DRAM or the SRAM pools (R60)? -/
def loomRangeOk (a n : Nat) : Bool := decide (a % 4096 = 0) && loomMapped a n

def rangesMeet (a b n : Nat) : Bool := decide (a < b + n) && decide (b < a + n)

/-- A list of 32 entries: address and VALID. -/
def State.loomList (s : State) (a : Nat) : NMap LLoc :=
  (List.range 32).filterMap fun x =>
    let v := s.memNat (a + 8 * x) 8
    if bit v 63 then some (x, .addr (v % 2 ^ 48)) else none

def LLoc.addr? : LLoc → Nat
  | .addr a => a
  | .buf _ _ _ => 0
  | .dump _ => 0
  | .dumpXor _ => 0

/-- Do the lists, the result record and the CRC list a descriptor names lie inside stacked DRAM or the SRAM pools (R24, R60)?
Alignment to 4,096 bytes is asked of chunk addresses only (DEDUCED, log entry 142). -/
def LJob.namesOk (j : LJob) : Bool :=
  loomMapped j.srcList 256 && loomMapped j.dstList 256 && loomMapped j.result 32 &&
  loomMapped j.crcList (if j.crcOut then 256 * j.outputs.length else 4)

/-- Does a job hold to R60, its lists at hand? A K of 0 is outside its range for LOCATE too, so that such a job is
BAD_DESCRIPTOR and not LOCATE_UNSUPPORTED, which is left to K = 1 (DEDUCED, log entry 142). -/
def LJob.ok (j : LJob) : Bool :=
  let ins := j.inputs.map fun x => mapGet? j.src x
  let outs := j.outputs.map fun x => mapGet? j.dst x
  let n := j.len * 4096
  let ia := ins.filterMap fun l => l.map LLoc.addr?
  let oa := outs.filterMap fun l => l.map LLoc.addr?
  decide (1 ≤ j.op) && decide (j.op ≤ 6) && decide (1 ≤ j.len) && decide (j.len ≤ 64) &&
  (if j.op ≤ 4 then decide (2 ≤ j.d) && decide (j.d ≤ 28) && decide (1 ≤ j.k) && decide (j.k ≤ 4)
   else if j.op = 5 then decide (1 ≤ j.d) && decide (j.d ≤ 31) && j.k == 0
   else (j.d == 2 || j.d == 3) && j.k == 0) &&
  decide (j.d + j.k ≤ 32) && ins.all Option.isSome && outs.all Option.isSome &&
  (ia ++ oa).all (fun a => loomRangeOk a n) &&
  oa.all (fun o => ia.all fun i => !rangesMeet o i n) &&
  (List.range oa.length).all fun x => (List.range x).all fun y => !rangesMeet (oa.getD x 0) (oa.getD y 0) n

/-- Read a test descriptor (Table 03-3) into a job. It is read when a context takes the job, its QUEUE when LM_TJOB_GO is written;
the spec names no moment (DESIGN CHOICE, log entry 142). -/
def State.loomDecode (s : State) (j : LJob) : LJob :=
  let d := s.memN j.result 64
  let f := fun o n => leAt d o n
  let resv := f 0 1 / 64 == 0 && f 3 1 / 4 == 0 && f 22 2 == 0 && f 30 2 == 0 && f 38 2 == 0 && f 46 2 == 0 &&
    f 56 8 == 0
  let j' := { j with op := f 0 1 % 16, d := f 1 1, k := f 2 1, crcOut := bit (f 3 1) 0, erase := f 4 4, zero := f 8 4,
                     len := f 12 2, tag := f 14 2, src := s.loomList (f 16 6), dst := s.loomList (f 24 6),
                     srcList := f 16 6, dstList := f 24 6, result := f 32 6, crcList := f 40 6, collect := bit (f 3 1) 1,
                     context := f 48 4, handle := f 52 4 }
  { j' with bad := !(resv && f 48 4 / 2 ^ 26 == 0 && j'.namesOk && j'.ok) }

/-! ### Queues and contexts (R63, R64) -/

/-- A client asks for a place in a queue. -/
def State.loomSubmit (s : State) (j : LJob) : State := { s with lm.waiting := s.lm.waiting ++ [j] }

def State.loomQ (s : State) (q : Nat) : List LJob := mapGetD s.lm.queues q []

/-- Remove the first element a predicate holds of. -/
def removeFirst {α : Type} (p : α → Bool) : List α → List α
  | [] => []
  | x :: t => if p x then t else x :: removeFirst p t

def execLoomJobSubmit (q : Nat) (s : State) : Out :=
  .next <| match s.lm.waiting.find? fun j => j.q == q with
    | some j =>
      if (s.loomQ q).length < 32 then
        { s with lm.waiting := removeFirst (fun x => x.q == q) s.lm.waiting
                 lm.queues := mapUpd s.lm.queues q [] (· ++ [{ j with at_ := s.now }]) }
      else s
    | none => s

def State.loomFault (s : State) : Bool := s.flag Reg.LM_STATUS 2
def State.dumpOnly (s : State) : Bool := s.flag Reg.LM_STATUS 4

/-- May a job of a queue start now? -/
def State.loomMay (s : State) (q : Nat) : Bool :=
  if s.dumpOnly then q == 0 else !s.pfd || q == 0 || q == 2

/-- The next job to take, and whether aging takes it. -/
def State.loomPick (s : State) : Option (LJob × Bool) :=
  let age := max 100 (s.fld Reg.LM_AGE 15 0)
  let heads := (List.range 4).filterMap fun q => if s.loomMay q then (s.loomQ q).head? else none
  match minBy (fun j => j.at_) (heads.filter fun j => decide (s.now > j.at_ + age)) with
  | some j => some (j, true)
  | none => heads.head?.map fun j => (j, false)

/-- The free context with the lowest number. -/
def State.loomFree (s : State) : Option Nat := (List.range 8).find? fun c => (mapGet? s.lm.ctx c).isNone

/-- A context takes the next job. A test job's descriptor is read now, and not at the GO write (DESIGN CHOICE, log entry 142). -/
def execLoomJobStart (s : State) : Out :=
  .next <|
    if s.testMode ∧ s.flag Reg.LM_CTRL 0 then s
    else match s.loomFree, s.loomPick with
      | some c, some (j, aged) =>
        let j' := match j.client with
          | .test => s.loomDecode j
          | _ => j
        let s := { s with lm.queues := mapUpd s.lm.queues j.q [] (·.drop 1), lm.ctx := mapSet s.lm.ctx c j' }
        if aged then s.setFld (Reg.LM_QSTAT j.q) 31 16 (min 0xFFFF (s.fld (Reg.LM_QSTAT j.q) 31 16 + 1)) else s
      | _, _ => s

/-- From PFD on, contexts with jobs of queues 1 and 3 park (R64). -/
def State.loomPark (s : State) : State :=
  { s with lm.ctx := s.lm.ctx.map fun e => if e.2.q == 1 || e.2.q == 3 then (e.1, { e.2 with parked := true }) else e }

/-- Parked jobs continue. -/
def State.loomUnpark (s : State) : State :=
  { s with lm.ctx := s.lm.ctx.map fun e => (e.1, { e.2 with parked := false }) }

/-- Counter of a status. -/
def loomCounter (st : Nat) : Option Nat :=
  if st = Ls.mismatch then some Reg.LM_MISMATCH
  else if st = Ls.located then some Reg.LM_LOCATED
  else if st = Ls.unlocatable then some Reg.LM_UNLOC
  else if st = Ls.sourceEcc then some Reg.LM_SRC_ECC
  else if st = Ls.datapath then some Reg.LM_DP_ERR
  else if st = Ls.badDesc then some Reg.LM_BADDESC
  else none

/-- The third DATAPATH ending within 1 s latches FAULT (R66). -/
def State.loomDp (s : State) (ctx : Nat) : State :=
  let ends := s.now :: s.lm.dpEnds.filter fun t => decide (s.now < t + 1000000)
  let s := { s with lm.dpEnds := ends }
  if ends.length ≥ 3 ∧ s.loomFault = false then
    (s.setFlag Reg.LM_STATUS 2 true).note (Rank.loom ctx) (Config.eventValue 2) Sev.critical ctx
  else s

/-- The result record of a test job (Table 03-4) after its CRC list; nothing where the record's address was refused. -/
def State.loomRecord (s : State) (j : LJob) (r : LRes) : State :=
  if !loomMapped j.result 32 then s
  else
  let s := if j.crcOut then r.crcs.foldl (fun s e => s.memPut (j.crcList + 4 * e.1) (toLe 4 e.2)) s else s
  s.memPut j.result (toLe 1 r.status ++ toLe 1 j.op ++ toLe 2 j.tag ++ toLe 1 r.synd ++ toLe 1 r.located ++
    toLe 1 r.srcBad ++ [0] ++ toLe 8 r.blockBad ++ toLe 8 r.inBytes ++ zeros 8)

/-- The first block a job stops at, with its status and the input named, if any: an input word beyond correction (R65), or two
lane parity errors on one block (R66). Injections hit the first computations: two pending ones end the job at block 0, a single
one is consumed there and the block computed again. -/
def LJob.stopAt (j : LJob) (inject : Nat) (err : Option LoomErr) : Option (Nat × Nat × Nat) := match err with
  | some (.ecc x b) =>
    if j.inputs.contains x ∧ b < j.len ∧ (b = 0 ∨ inject < 2) then some (b, Ls.sourceEcc, x)
    else if inject ≥ 2 then some (0, Ls.datapath, 0xFF) else none
  | some (.lane b again) =>
    if inject ≥ 2 then some (0, Ls.datapath, 0xFF)
    else if again ∧ b < j.len then some (b, Ls.datapath, 0xFF) else none
  | none => if inject ≥ 2 then some (0, Ls.datapath, 0xFF) else none

/-- What a job gives: faults and refusals first, then errors of a block (R60, R65, R66). A descriptor that breaks R60 and also
names too many erasures ends with BAD_DESCRIPTOR (DEDUCED: it is checked before the job starts; log entry 142). -/
def State.loomExec (s : State) (j : LJob) (err : Option LoomErr) : LRes × State :=
  if s.loomFault then (LRes.of Ls.datapath, s)
  else if j.bad then (LRes.of Ls.badDesc, s)
  else if j.op = Op.locate ∧ j.k < 2 then (LRes.of Ls.unsupported, s)
  else if j.op = Op.recon ∧ j.ed.length + j.ep.length > j.k then (LRes.of Ls.tooMany, s)
  else match j.stopAt s.lm.inject err with
    | some (b, st, src) =>
      State.loomStop { s with lm.inject := s.lm.inject - (if st = Ls.sourceEcc ∧ b = 0 then 0 else 2) } j b st src
    | none => State.loomRun { s with lm.inject := 0 } j

/-- A job leaves its context: outputs, record, counters. -/
def State.loomEnd (s : State) (ctx : Nat) (j : LJob) (err : Option LoomErr) : LRes × State :=
  let (r, s) := s.loomExec j err
  let s := { s with lm.ctx := mapErase s.lm.ctx ctx }
  let s := match j.client with
    | .test => s.loomRecord j r
    | _ => s
  let s := s.setReg (Reg.LM_JOBS j.q) (s.reg (Reg.LM_JOBS j.q) + 1)
  let s := s.setReg64 Reg.LM_INBYTES_LO (s.reg64 Reg.LM_INBYTES_LO + r.inBytes)
  let s := match loomCounter r.status with
    | some k => s.bump k
    | none => s
  (r, if r.status = Ls.datapath then s.loomDp ctx else s)

/-- Jobs of a task leave the waiting list and the queues. -/
def State.loomDrop (s : State) (p : LJob → Bool) : State :=
  { s with lm.waiting := s.lm.waiting.filter fun j => !p j
           lm.queues := s.lm.queues.map fun e => (e.1, e.2.filter fun j => !p j) }

/-- A parked queue 1 job whose host command ends is completed with CANCELLED at that moment (R64). -/
def State.loomCancel (s : State) (t : Nat) : State :=
  match s.lm.ctx.find? fun e => e.2.parked && e.2.q == 1 && e.2.client == .task t with
  | some e => State.setReg { s with lm.ctx := mapErase s.lm.ctx e.1 } (Reg.LM_JOBS 1) (s.reg (Reg.LM_JOBS 1) + 1)
  | none => s

def State.tjobGo (s : State) : State :=
  if s.testMode = false ∨ s.flag Reg.LM_TJOB_STAT 0 then s.setFlag Reg.LM_TJOB_STAT 1 true
  else
    let (h, s) := s.newH
    let a := s.reg Reg.LM_TJOB_LO / 64 * 64 + s.fld Reg.LM_TJOB_HI 15 0 * 2 ^ 32
    (s.setFlag Reg.LM_TJOB_STAT 0 true).loomSubmit
      { id := h, q := bits (s.memNat a 1) 5 4, op := 0, d := 0, k := 0, erase := 0, zero := 0, len := 0, crcOut := false, tag := 0,
        src := [], dst := [], result := a, crcList := 0, client := .test, second := false, bad := false, at_ := 0,
        parked := false }

def execLmTjobGo (s : State) : Out := .next s.tjobGo

def State.injectDp (s : State) : State :=
  if s.testMode then { s with lm.inject := min 15 (s.lm.inject + 1) } else s

def execInjectDp (s : State) : Out := .next s.injectDp

/-- The working coefficient table (Table 03-1) and its CRC, computed at each CHIP reset (R66). -/
def coefTable : List Byte :=
  (List.range 4).flatMap fun j => ((List.range 28).map fun i => BitVec.ofNat 8 (gfCoef j i)) ++ zeros 4

end Sys2Proof.Machine
end

