-- ==== Sys2Proof/Machine/Members.lean ====
section
/-! DEFINITION. Member ports (chapter 12): which ports exist, issuing NVMe commands, identifiers, ends of commands, and the
sideband outputs. What a client does when its command ends is in Tasks.lean. -/

namespace Sys2Proof.Machine

/-! ### Port states (Table 12-5) -/

def Ps.absent : Nat := 0
def Ps.powering : Nat := 1
def Ps.training : Nat := 2
def Ps.init : Nat := 3
def Ps.ready : Nat := 4
def Ps.retrain : Nat := 5
def Ps.rejected : Nat := 6
def Ps.disabled : Nat := 7

def State.port (s : State) (p : Nat) : Port := mapGetD s.mp.ports p {}
def State.setPort (s : State) (p : Nat) (q : Port) : State := { s with mp.ports := mapSet s.mp.ports p q }
def State.updPort (s : State) (p : Nat) (f : Port → Port) : State := s.setPort p (f (s.port p))

/-- Does a port exist under the widths in force (R267)? -/
def State.portExists (s : State) (p : Nat) : Bool :=
  let w := bits s.mp.widths (2 * (p / 4) + 1) (2 * (p / 4))
  decide (p < 32) && (if w = 0 then p % 4 == 0 else if w = 1 then p % 2 == 0 else true)

def tmoUs (s : State) : Nat := 1000 * clampN 100 2000 (s.fld Reg.MP_TIMING 11 0)
def retrainUs (s : State) : Nat := 1000 * clampN 10 2000 (s.fld Reg.MP_TIMING 27 16)
def pwrUs (s : State) : Nat := 1000 * clampN 10 5000 (s.fld Reg.MP_HP 15 0)
def ioqWanted (s : State) : Nat := clampN 1 8 (s.fld Reg.MP_CFG 3 0)

/-! ### Issuing commands -/

def MOp.isAdmin : MOp → Bool
  | .read | .write | .writeFua | .flush | .writeZeroes | .dealloc => false
  | .identCtrl | .identNs | .setQueues | .createQueue | .deleteQueue | .vwcOff | .smart | .abort => true

/-- Identifiers in use on a queue pair, quarantined ones included (R279). -/
def State.qpUsed (s : State) (port qp : Nat) : List Nat :=
  (s.mp.cmds.filter fun c => c.port == port && c.qp == qp).map (·.cid)

/-- Depth of a queue pair (R272). -/
def State.qpDepth (s : State) (port qp : Nat) : Nat := if qp = 0 then 32 else (s.port port).depth

/-- I/O pair for the next command of a port: round robin from the one after the last served. -/
def State.nextPair (s : State) (port : Nat) : Option Nat :=
  let q := s.port port
  ((List.range q.ioq).map fun i => (q.rr + i) % q.ioq + 1).find? fun p =>
    decide ((s.qpUsed port p).length < s.qpDepth port p)

/-- Is a task one of the Mender's (R251, R264)? -/
def TKind.mender : TKind → Bool
  | .walk _ | .repair _ _ | .scrub | .resync | .target _ | .targetEnd _ | .checkpoint => true
  | .hostRecon _ _ | .destage _ | .copyBlk _ | .copyMove | .statePage _ | .create _ | .delete _ | .volDelete _ _
  | .load _ | .stream _ | .import_ _ => false

/-- Is a command of a task of the Mender held back: from PFD on none is issued (Table 11-9)? -/
def State.menderHeld (s : State) (c : MCmd) : Bool := s.pfd && (match c.client with
  | .read t _ _ => s.md.tasks.any fun x => x.id == t && x.kind.mender
  | .write t _ => s.md.tasks.any fun x => x.id == t && x.kind.mender
  | .host _ _ | .dump _ | .restore _ | .init | .smart | .none => false)

/-- The pair a command can go to now. -/
def State.mpPair (s : State) (c : MCmd) : Option Nat :=
  let q := s.port c.port
  if (q.failed && c.client != .init) || s.menderHeld c then none
  else if c.op.isAdmin then
    if (q.state = Ps.ready ∨ q.state = Ps.init) ∧ (s.qpUsed c.port 0).length < 32 then some 0 else none
  else if q.state = Ps.ready then s.nextPair c.port
  else none

/-- Send a command on a pair with the lowest free identifier. The time counted before it is kept (R277). -/
def State.mpSend (s : State) (c : MCmd) (qp : Nat) : State :=
  let used := s.qpUsed c.port qp
  let cid := ((List.range (s.qpDepth c.port qp)).find? fun i => !used.contains i).getD 0
  let s := if qp = 0 then s else s.updPort c.port fun q => { q with rr := qp % q.ioq }
  State.put { s with mp.cmds := s.mp.cmds ++ [{ c with qp := qp, cid := cid, issued := s.now - c.issued }] }
    [.member c.port qp cid c.op c.lba c.n c.data c.tags]

/-- Issue a command, or let it wait for its port or an identifier. From PFD on, a port in RETRAIN holds no writes (R282). -/
def State.mpIssue (s : State) (c : MCmd) : State :=
  if s.pfd ∧ (s.port c.port).state = Ps.retrain ∧ c.op.isAdmin = false ∧ c.op ≠ .read then
    { s with mp.ends := s.mp.ends ++ [(c, false, .none)] }
  else if s.mp.wait.any (fun w => w.port == c.port && w.op.isAdmin == c.op.isAdmin && !s.menderHeld w) then
    { s with mp.wait := s.mp.wait ++ [c] }
  else match s.mpPair c with
    | some qp => s.mpSend c qp
    | none => { s with mp.wait := s.mp.wait ++ [c] }

/-- A new command. -/
def mcmd (port : Nat) (op : MOp) (lba n : Nat) (client : MClient) : MCmd :=
  { port := port, qp := 0, cid := 0, op := op, lba := lba, n := n, data := [], tags := [], client := client, issued := 0,
    dl := none, again := false, expired := false, timedOut := false }

/-- Issue waiting commands of a port in order, at most n of them. -/
def State.mpPumpN (s : State) (port : Nat) : Nat → State
  | 0 => s
  | n + 1 => match s.mp.wait.find? fun w => w.port == port && (s.mpPair w).isSome with
    | none => s
    | some w => match s.mpPair w with
      | some qp => State.mpPumpN (State.mpSend { s with mp.wait := s.mp.wait.erase w } w qp) port n
      | none => s

def State.mpPump (s : State) (port : Nat) : State := s.mpPumpN port s.mp.wait.length

/-- Remove an outstanding command; its identifier is free. -/
def State.mpRemove (s : State) (c : MCmd) : State := { s with mp.cmds := s.mp.cmds.erase c }

/-- Replace an outstanding command. -/
def State.mpReplace (s : State) (c d : MCmd) : State :=
  { s with mp.cmds := s.mp.cmds.map fun x => if x == c then d else x }

/-- A command has ended: its client acts when the ends are settled. -/
def State.mpEnd (s : State) (c : MCmd) (ok : Bool) (pay : MPayload) : State :=
  { s with mp.ends := s.mp.ends ++ [(c, ok, pay)] }

/-- Commands outstanding on a port, for R31 and MP_Pn_OUT. -/
def State.mpOut (s : State) (port : Nat) : Nat :=
  (s.mp.cmds.filter fun c => c.port == port && c.qp != 0 && !c.timedOut).length

/-- Every command of a port ends as failed, those already ended internally aside; the pairs' identifiers are free. -/
def State.mpEndAll (s : State) (port : Nat) : State :=
  let mine := fun (c : MCmd) => c.port == port
  let live := (s.mp.cmds ++ s.mp.wait).filter fun c => mine c && !c.expired && !c.timedOut
  { s with mp.cmds := s.mp.cmds.filter fun c => !mine c
           mp.wait := s.mp.wait.filter fun c => !mine c
           mp.ends := s.mp.ends ++ live.map fun c => (c, false, .none) }

/-- Hold the commands of a port in RETRAIN: those outstanding go back in line, first, with the time already counted; those
ended internally are dropped with their queues (R281). -/
def State.mpHold (s : State) (port : Nat) : State :=
  let mine := s.mp.cmds.filter fun c => c.port == port && !c.expired && !c.timedOut && !c.op.isAdmin
  { s with mp.cmds := s.mp.cmds.filter fun c => c.port != port
           mp.wait := mine.map (fun c => { c with issued := s.now - c.issued }) ++ s.mp.wait }

/-- The command outstanding with an identifier. -/
def State.mpFind (s : State) (port qp cid : Nat) : Option MCmd :=
  s.mp.cmds.find? fun c => c.port == port && c.qp == qp && c.cid == cid

/-! ### Sideband outputs (R283) -/

/-- PWR_EN, PERST_N, FAULT and LOCATE of a port. -/
def State.sbBits (s : State) (p : Nat) : Nat :=
  let q := s.port p
  let on := s.portExists p && q.state != Ps.absent
  let pwr := on
  let perst := on && q.state != Ps.powering
  let fault := on && (q.state == Ps.rejected || (q.failed && s.assigned p))
  b2n pwr + 2 * b2n perst + 4 * b2n fault + 8 * b2n (s.portExists p && s.flag Reg.MP_LOCATE p)

/-- The 64 output bits of a bus. -/
def State.sbWord (s : State) (bus : Nat) : Nat :=
  sumN ((List.range 16).map fun b => s.sbBits (16 * bus + b) * 2 ^ (4 * b))

/-- Write the two expanders' words where they differ from what was written last. -/
def State.sbSend (s : State) (w0 w1 : Nat) : State :=
  let s := if w0 = s.mp.out0 then s else State.put { s with mp.out0 := w0 } [.sideband 0 w0]
  if w1 = s.mp.out1 then s else State.put { s with mp.out1 := w1 } [.sideband 1 w1]

/-- Write the outputs of each bus whose bits changed. -/
def State.sbSync (s : State) : State := s.sbSend (s.sbWord 0) (s.sbWord 1)


end Sys2Proof.Machine
end

