-- ==== Sys2Proof/Machine/Ledger.lean ====
section
/-! DEFINITION. The Ledger (chapter 05): entries (R96, R97), the Keep ring (R98), live entries and their limits (R100, R101)
and the content of copy blocks (R102). What a granted entry lets its owner do is in Tasks.lean. -/

namespace Sys2Proof.Machine

namespace Lk
def open_ : Nat := 1
def close : Nat := 2
def resync : Nat := 3
def lost : Nat := 4
def dumpOpen : Nat := 5
def dumpSeal : Nat := 6
end Lk

/-- Keep offset of the slot of a SEQ. -/
def lgSlot (seq : Nat) : Nat := 0x10000 + 32 * (seq % 16384)

/-- The 28 bytes an entry's CRC covers (Table 05-1). -/
def lgBody (seq : Nat) (r : LgReq) : List Byte :=
  if r.kind = Lk.dumpOpen ∨ r.kind = Lk.dumpSeal then
    toLe 8 seq ++ toLe 4 (r.kind * 2 ^ 26) ++ bytesAt r.dump 0 16
  else
    toLe 8 seq ++ toLe 4 (r.stripe % 2 ^ 24 + r.arr % 4 * 2 ^ 24 + r.kind * 2 ^ 26) ++ toLe 6 r.gen ++ zeros 2 ++
    toLe 4 r.mask ++ toLe 4 (r.frame % 2 ^ 20)

/-- An entry with its CRC. -/
def lgBytes (seq : Nat) (r : LgReq) : List Byte := lgBody seq r ++ toLe 4 (crc32c (lgBody seq r))

/-- A decoded entry. -/
structure LgEnt where
  seq : Nat
  kind : Nat
  arr : Nat
  stripe : Nat
  gen : Nat
  mask : Nat
  frame : Nat
deriving DecidableEq, Repr

/-- Decode 32 bytes. -/
def lgDecode (b : List Byte) : LgEnt :=
  let w := leAt b 8 4
  ⟨leAt b 0 8, bits w 29 26, bits w 25 24, w % 2 ^ 24, leAt b 12 6, leAt b 20 4, leAt b 24 4 % 2 ^ 20⟩

/-- Is an entry valid in a slot (R96, R97)? -/
def lgValid (b : List Byte) (slot : Nat) : Bool :=
  let e := lgDecode b
  decide (e.seq ≥ 1) && e.seq % 16384 == slot && decide (1 ≤ e.kind) && decide (e.kind ≤ 6) &&
  leAt b 28 4 == crc32c (bytesAt b 0 28)

/-- The bytes of a slot of the Keep ring. -/
def State.lgRaw (s : State) (slot : Nat) : List Byte := s.keepN (0x10000 + 32 * slot) 32

/-- Does a slot of the Keep ring hold a valid entry? Not with a word that cannot be corrected (R351). -/
def State.lgOk (s : State) (slot : Nat) : Bool := lgValid (s.lgRaw slot) slot && !s.keepBad (0x10000 + 32 * slot) 32

def State.lgHead (s : State) : Nat := s.reg64 Reg.LG_HEAD_LO
/-- Lowest live SEQ (R100). -/
def State.lgTail (s : State) : Nat := s.lg.live.foldl (fun m e => min m e.seq) (s.lgHead + 1)
/-- Distance from tail to head. -/
def State.lgCount (s : State) : Nat := s.lgHead + 1 - s.lgTail
/-- Slots free for reuse (R101). -/
def State.lgFree (s : State) : Nat := 16384 - s.lgCount

/-- Stripes with an unclosed OPEN or RESYNC entry (R101). -/
def State.lgOpen (s : State) : List (Nat × Nat) :=
  ((s.lg.live.filter fun e => (e.kind == Lk.open_ || e.kind == Lk.resync) &&
    !s.lg.live.any (fun c => c.kind == Lk.close && c.arr == e.arr && c.stripe == e.stripe && decide (c.seq > e.seq))).map
    fun e => (e.arr, e.stripe)).eraseDups

def State.lgHiwat (s : State) : Nat := clampN 1024 15360 (s.fld Reg.LG_HIWAT 13 0)
def State.copyUs (s : State) : Nat := 1000 * clampN 1 100 (s.fld Reg.LG_HIWAT 22 16)

/-- Rank of a kind (R98). -/
def lgRank (kind : Nat) : Nat :=
  if kind = Lk.dumpOpen ∨ kind = Lk.dumpSeal then 0 else if kind = Lk.close then 1 else if kind = Lk.open_ then 3 else 2

/-- Must a request wait for free slots or for the open limit (R101)? -/
def State.lgRingBlocked (s : State) (r : LgReq) : Bool :=
  if lgRank r.kind ≤ 1 then decide (s.lgFree = 0)
  else
    decide (s.lgFree ≤ 256) ||
    ((r.kind == Lk.open_ || r.kind == Lk.resync) && !s.lgOpen.contains (r.arr, r.stripe) &&
      decide (s.lgOpen.length ≥ 192))

/-- Must a request wait: under R101, or for the end of a copy move of its array (R103)? -/
def State.lgBlocked (s : State) (r : LgReq) : Bool :=
  s.lgRingBlocked r || (r.kind == Lk.open_ && (mapGet? s.lg.moving r.arr).isSome)

/-- Every wait under R101 is counted once, when it begins. -/
def State.lgCountWaits (s : State) : State :=
  let new := s.lg.reqs.filter fun r => !r.counted && s.lgRingBlocked r
  State.bumpN { s with lg.reqs := s.lg.reqs.map fun r => if new.contains r then { r with counted := true } else r }
    Reg.LG_RING_WAITS new.length

/-- Ask for an entry. -/
def State.lgAsk (s : State) (r : LgReq) : State :=
  State.lgCountWaits { s with lg.reqs := s.lg.reqs ++ [{ r with counted := false }] }

/-- The first request of a unit in a rank that need not wait. A unit's requests are served in its order, but one that waits does
not hold back one that never waits for the limit (R101). -/
def State.lgUnitReq (s : State) (rank unit : Nat) : Option LgReq :=
  s.lg.reqs.find? fun r => r.unit == unit && lgRank r.kind == rank && !s.lgBlocked r

/-- The request the arbiter grants next: rank first, then units in round robin (R98). -/
def State.lgPick (s : State) : Option LgReq :=
  (List.range 4).findSome? fun rank =>
    let last := mapGetD s.lg.rr rank 3
    ((List.range 4).map fun i => (last + 1 + i) % 4).findSome? fun u => s.lgUnitReq rank u

/-- Note the change of an array's copy block that holds a slot (R102). -/
def State.lgTouch (s : State) (arr seq : Nat) : State :=
  let k := 1024 * arr + seq % 16384 / 128
  { s with lg.copies := match mapGet? s.lg.copies k with
      | some _ => s.lg.copies
      | none => mapSet s.lg.copies k s.now }

/-- Write an entry into the Keep ring: the next SEQ, four words in order (R98), and its place among the live ones. The
copy blocks of the array it names, and of the array whose entry it overwrites, change. -/
def State.lgWrite (s : State) (r : LgReq) : Nat × State :=
  let seq := s.lgHead + 1
  let old := lgDecode (s.keepN (lgSlot seq) 32)
  let s := s.keepPut (lgSlot seq) (lgBytes seq r)
  let s := s.setReg64 Reg.LG_HEAD_LO seq
  let s := { s with lg.live := s.lg.live ++ [⟨seq, r.kind, r.arr, r.stripe, r.gen, r.frame, false⟩] }
  let s := if 1 ≤ old.kind ∧ old.kind ≤ 4 ∧ (s.arr? old.arr).isSome then s.lgTouch old.arr seq else s
  (seq, if r.kind ≤ 4 then s.lgTouch r.arr seq else s)

/-- Retire entries a state-area page has covered, and the OPENs and RESYNCs their CLOSEs close (R100). -/
def State.lgRetire (s : State) : State :=
  let gone := s.lg.live.filter fun e => e.paged && (e.kind == Lk.close || e.kind == Lk.lost)
  { s with lg.live := s.lg.live.filter fun e =>
      !gone.contains e &&
      !((e.kind == Lk.open_ || e.kind == Lk.resync) &&
        gone.any (fun c => c.kind == Lk.close && c.arr == e.arr && c.stripe == e.stripe && decide (c.seq > e.seq))) }

/-- A state-area page of an array, written when head stood at a SEQ, is in place. -/
def State.lgPaged (s : State) (arr page head : Nat) : State :=
  State.lgRetire { s with lg.live := s.lg.live.map fun e =>
    if e.arr == arr && e.stripe / 1024 == page && decide (e.seq ≤ head) && decide (e.kind ≤ 4) then { e with paged := true }
    else e }

/-- Arrays and pages the ring's high water mark forces out (R101): those of the oldest live entries, the ones that must retire for the
count to fall below the mark. -/
def State.lgForced (s : State) (arr page : Nat) : Bool :=
  s.lg.live.any fun e => decide (e.kind ≤ 4) && decide (e.seq + s.lgHiwat ≤ s.lgHead + 1) && e.arr == arr &&
    e.stripe / 1024 == page

/-! ### Member copies (R102) -/

/-- Block k of an array's copy. -/
def State.copyBlock (s : State) (arr k : Nat) : List Byte :=
  (List.range 128).flatMap fun i =>
    let b := s.lgRaw (128 * k + i)
    let e := lgDecode b
    if s.lgOk (128 * k + i) && decide (e.kind ≤ 4) && e.arr == arr then b else zeros 32

/-- SEQ of the newest entry in a copy block. -/
def copyNewest (blk : List Byte) : Nat := maxN ((List.range 128).map fun i => leAt blk (32 * i) 8)

def State.copyTag (s : State) (arr k : Nat) (metaCode : Nat) : List Byte :=
  let b := s.copyBlock arr k
  sideTag metaCode k (copyNewest b) (0xFE10 + arr) b

/-- Positions that hold an array's copies now. -/
def ArrayRec.copies (r : ArrayRec) : List Nat := r.copyA.toList ++ r.copyB.toList

end Sys2Proof.Machine
end

