-- ==== Sys2Proof/Machine/Larder.lean ====
section
/-! DEFINITION. The Larder (chapter 04): slots and frames, block states, allocation and eviction, triggers of the destage
queue, write-back and write-through, and the probe. Moving blocks under credit is in Writes.lean, destage in Tasks.lean. -/

namespace Sys2Proof.Machine

/-! ### Codes -/

/-- Block states (Table 04-2). -/
def Bk.invalid : Nat := 0
def Bk.clean : Nat := 1
def Bk.dirty : Nat := 2
def Bk.held : Nat := 3

/-- Frame states (Table 04-3). -/
def Fs.filling : Nat := 1
def Fs.ready : Nat := 2
def Fs.fillread : Nat := 3
def Fs.destaging : Nat := 4
def Fs.clean : Nat := 5
def Fs.parked : Nat := 6

/-! ### Frames and slots -/

def Slot.blk (x : Slot) (o : Nat) : Nat := x.blks.getD o 0
def Slot.set (x : Slot) (o st : Nat) : Slot := { x with blks := x.blks.set o st }
def Slot.count (x : Slot) (st : Nat) : Nat := (x.blks.filter (· == st)).length

def Frame.slots (f : Frame) : List Slot := (f.cur ++ f.succ).map (·.2)
def Frame.count (f : Frame) (st : Nat) : Nat := sumN (f.slots.map fun x => x.count st)
def Frame.hasDirty (f : Frame) : Bool := decide (f.count Bk.dirty > 0)

/-- Is every data block of a frame valid? -/
def Frame.full (f : Frame) (r : ArrayRec) : Bool :=
  (List.range r.dw).all fun i => match mapGet? f.cur i with
    | some x => x.blks.all (· != 0)
    | none => false

def State.frame? (s : State) (n : Nat) : Option Frame := mapGet? s.ld.frames n
def State.setFrame (s : State) (n : Nat) (f : Frame) : State := { s with ld.frames := mapSet s.ld.frames n f }
def State.updFrame (s : State) (n : Nat) (g : Frame → Frame) : State := match s.frame? n with
  | some f => s.setFrame n (g f)
  | none => s
def State.dropFrame (s : State) (n : Nat) : State := { s with ld.frames := mapErase s.ld.frames n }

/-- The frame of a stripe. -/
def State.frameOf (s : State) (a stripe : Nat) : Option (Nat × Frame) :=
  s.ld.frames.find? fun e => e.2.arr == a && e.2.stripe == stripe

/-- Bytes in blocks of a state over the whole Larder. -/
def State.ldBytes (s : State) (st : Nat) : Nat := 4096 * sumN (s.ld.frames.map fun e => e.2.count st)
def State.ldDirty (s : State) : Nat := s.ldBytes Bk.dirty
def State.ldHeld (s : State) : Nat := s.ldBytes Bk.held

/-- Slots allocated: address and size in bytes. -/
def State.slotRanges (s : State) : List (Nat × Nat) :=
  s.ld.frames.flatMap fun e =>
    let n := 4096 * (match s.arr? e.2.arr with
      | some r => r.b
      | none => 4)
    (e.2.slots.map fun x => (x.addr, 4096 * x.blks.length)) ++ e.2.par.map fun p => (p.2, n)

/-- The slot area, 15 GiB (R67). -/
def slotArea : Nat := 0x3C0000000

/-- Free blocks of the buddy allocator (R67), as address and size: every maximal free block is the buddy of a block that holds a
taken place. The last GiB of DRAM is never free. -/
def freeBlocks (taken : List (Nat × Nat)) : List (Nat × Nat) :=
  let all := (slotArea, 2 ^ 30) :: taken
  all.flatMap fun t => (List.range 20).filterMap fun k =>
    let z := 2 ^ (14 + k)
    let a := (t.1 / z ^^^ 1) * z
    if z ≥ t.2 ∧ all.all (fun u => decide (a + z ≤ u.1) || decide (u.1 + u.2 ≤ a)) then some (a, z) else none

/-- Place of a slot of a size: the smallest free block that holds it is split, the lowest of equals (log entry 25). -/
def freeSlot (taken : List (Nat × Nat)) (n : Nat) : Option Nat :=
  (minBy (fun (e : Nat × Nat) => e.2 * 2 ^ 48 + e.1) ((freeBlocks taken).filter fun e => decide (e.2 ≥ n))).map (·.1)

/-! ### Log streams -/

def State.stream? (s : State) (n : Nat) : Option Stream := mapGet? s.sv.streams n
def State.setStream (s : State) (n : Nat) (x : Stream) : State := { s with sv.streams := mapSet s.sv.streams n x }
def State.updStream (s : State) (n : Nat) (f : Stream → Stream) : State := match s.stream? n with
  | some x => s.setStream n (f x)
  | none => s

/-! ### Eviction (R83) -/

/-- Order of frame indexes from the clock hand. -/
def State.clockOrder (s : State) : List Nat :=
  (s.ld.frames.map (·.1)).filter (fun n => decide (n ≥ s.ld.hand)) ++
  (s.ld.frames.map (·.1)).filter (fun n => decide (n < s.ld.hand))

/-- A log stream's current frame is not evicted (R120). -/
def State.logCurrent (s : State) (f : Frame) : Bool := match f.stream with
  | some n => match mapGet? s.sv.streams n, s.vol? f.vol with
    | some x, some v => f.stripe == v.base + x.base + x.cur
    | _, _ => false
  | none => false

/-- Sweep the hand until a CLEAN frame not read since the last pass is found; passing clears the mark. -/
def State.evictFrom (s : State) : List Nat → State × Bool
  | [] => (s, false)
  | n :: t => match s.frame? n with
    | none => s.evictFrom t
    | some f =>
      if f.state = Fs.clean ∧ f.used = false ∧ s.logCurrent f = false then
        ({ s.dropFrame n with ld.hand := n + 1 }, true)
      else State.evictFrom { s.updFrame n (fun f => { f with used := false }) with ld.hand := n + 1 } t

/-- Evict one CLEAN frame: two sweeps find one whenever one exists. -/
def State.evict (s : State) : State × Bool := s.evictFrom (s.clockOrder ++ s.clockOrder)

/-- A slot of n bytes, evicting CLEAN frames for room, at most fuel of them. -/
def State.allocSlot (s : State) (n : Nat) : Nat → Option Nat × State
  | 0 => (none, s)
  | fuel + 1 =>
    let t := s.slotRanges
    match (if t.length < 262144 then freeSlot t n else none) with
    | some a => (some a, s)
    | none =>
      let (s', ok) := s.evict
      if ok then s'.allocSlot n fuel else (none, s')

def State.getSlot (s : State) (r : ArrayRec) : Option Nat × State := s.allocSlot (4096 * r.b) (s.ld.frames.length + 1)

/-- Lowest free frame index. -/
def State.freeFrame (s : State) : Option Nat := (List.range 65536).find? fun n => (s.frame? n).isNone

/-- An empty slot. -/
def Slot.new (r : ArrayRec) (a : Nat) : Slot := ⟨a, List.replicate r.b Bk.invalid⟩

/-- A new frame of a stripe, FILLING. -/
def State.newFrame (s : State) (a stripe vol : Nat) : Option Nat × State :=
  let s := if s.ld.frames.length ≥ 65536 then s.evict.1 else s
  match (if s.ld.frames.length ≥ 65536 then none else s.freeFrame) with
  | none => (none, s)
  | some n =>
    (some n, s.setFrame n
      { arr := a, stripe := stripe, vol := vol, stream := none, state := Fs.filling, cls := 0, order := 0, cur := [],
        succ := [], par := [], idleAt := s.now, ageAt := s.now, succAt := s.now, wt := false, wtNext := false, used := false,
        faulted := false, img := none, first := false, gen := 0, resync := false, lap := false })

/-! ### The destage queue (R75) -/

/-- A frame enters READY in a class; one already READY moves only to a lower class. -/
def State.toReady (s : State) (n cls : Nat) : State := match s.frame? n with
  | none => s
  | some f =>
    if f.state = Fs.filling ∨ (f.state = Fs.ready ∧ cls < f.cls) ∨ f.state = Fs.parked then
      { s.setFrame n { f with state := Fs.ready, cls := cls, order := s.ld.nextOrder, faulted := false } with
        ld.nextOrder := s.ld.nextOrder + 1 }
    else s

def State.framesIn (s : State) (p : Frame → Bool) : List Nat := (s.ld.frames.filter fun e => p e.2).map (·.1)

/-- Frames in FILLREAD or DESTAGING. -/
def State.destaging (s : State) : Nat := (s.framesIn fun f => f.state == Fs.fillread || f.state == Fs.destaging).length

/-- WT_ACTIVE sets and DRAINING clears once nothing DIRTY is left to drain (R84). PARKED frames do not hold it back. -/
def State.wtCheck (s : State) : State :=
  if s.flag Reg.LD_STATUS 1 ∧ !(s.ld.frames.any fun e => e.2.hasDirty && e.2.state != Fs.parked) then
    (s.setFlag Reg.LD_STATUS 0 true).setFlag Reg.LD_STATUS 1 false
  else s

def State.wbOn (s : State) : Bool := s.flag Reg.LD_CTRL 0

/-- Set LD_CTRL.WB (R85). -/
def State.wbSet (s : State) : State :=
  ((s.setFlag Reg.LD_CTRL 0 true).setFlag Reg.LD_STATUS 0 false).setFlag Reg.LD_STATUS 1 false

def execLdWbSet (s : State) : Out := .next s.wbSet

def State.ldDrain (s : State) : State :=
  (s.framesIn fun f => f.state == Fs.filling).foldl (fun s n => s.toReady n 0) s

def execLdDrain (s : State) : Out := .next s.ldDrain

/-- Idle time of a frame in µs (Table 04-4, LD_IDLE; a stream's own for LOG). -/
def State.idleUs (s : State) (f : Frame) : Nat :=
  1000 * (match s.vol? f.vol with
    | some v => if f.stream.isSome then (match mapGet? s.sv.streams (f.stream.getD 0) with
          | some x => x.idleMs
          | none => clampN 1 10000 (s.fld Reg.LD_IDLE 15 0))
        else if v.cls = 2 then clampN 1 10000 (s.fld Reg.LD_IDLE 31 16)
        else clampN 1 10000 (s.fld Reg.LD_IDLE 15 0)
    | none => clampN 1 10000 (s.fld Reg.LD_IDLE 15 0))

def execIdleTimerExpiry (fr : Nat) (s : State) : Out :=
  .next <| match s.frame? fr with
    | some f => if f.state = Fs.filling ∧ s.due f.idleAt (s.idleUs f) then s.toReady fr 2 else s
    | none => s

def execAgeLimitExpiry (fr : Nat) (s : State) : Out :=
  .next <| match s.frame? fr with
    | some f =>
      if f.state = Fs.filling ∧ s.due f.ageAt (1000 * clampN 100 60000 (s.fld Reg.LD_AGE 15 0)) then s.toReady fr 2 else s
    | none => s

/-- Bytes of DIRTY blocks on their way to the members: those of READY frames, and those being destaged. -/
def State.dirtyGoing (s : State) : Nat :=
  4096 * sumN (((s.ld.frames.map (·.2)).filter fun f => f.state == Fs.ready || f.state == Fs.fillread || f.state == Fs.destaging).map
    fun f => sumN (f.cur.map fun e => e.2.count Bk.dirty))

/-- FILLING frames enter READY oldest first, at most n, until what is on its way brings LD_DIRTY below LOWAT percent of the
ceiling. -/
def State.pressTake (s : State) : Nat → State
  | 0 => s
  | n + 1 =>
    if 100 * (s.ldDirty - s.dirtyGoing) < s.fld Reg.LD_PRESSURE 14 8 * s.reg64 Reg.TL_CEIL_LO then s
    else match minBy (fun (e : Nat × Frame) => e.2.ageAt) (s.ld.frames.filter fun e =>
        e.2.state == Fs.filling && e.2.hasDirty) with
      | some e => (s.toReady e.1 2).pressTake n
      | none => s

/-- The pressure trigger (Table 04-4): on above HIWAT percent of the ceiling, off below LOWAT (log entry 47). -/
def State.pressure (s : State) : State :=
  let ceil := s.reg64 Reg.TL_CEIL_LO
  let d := s.ldDirty
  let on := if s.flag Reg.LD_STATUS 4 then !decide (100 * d < s.fld Reg.LD_PRESSURE 14 8 * ceil)
    else decide (100 * d > s.fld Reg.LD_PRESSURE 6 0 * ceil)
  let s := s.setFlag Reg.LD_STATUS 4 on
  if on then s.pressTake s.ld.frames.length else s

/-! ### Waiting for slots, and for what stops moves (R70, R83, R152) -/

/-- Join the line for a slot; a wait is counted once, and a waiter that has tried again stays first. -/
def State.slotJoin (s : State) (h k : Nat) : State :=
  if s.ld.slotTry = some h then { s with ld.slotQ := (h, k) :: s.ld.slotQ, ld.slotTry := none }
  else State.bump { s with ld.slotQ := s.ld.slotQ ++ [(h, k)] } Reg.LD_SLOT_WAITS

/-- Wait until moves go on, or until the frame of a stripe takes writes. -/
def State.stopJoin (s : State) (h k a stripe : Nat) : State :=
  { s with ld.stopQ := s.ld.stopQ ++ [((h, k), a, stripe)] }

/-- Is the frame of a stripe PARKED? -/
def State.parkedAt (s : State) (a stripe : Nat) : Bool := match s.frameOf a stripe with
  | some (_, f) => f.state == Fs.parked
  | none => false

/-- A move that found no place waits: for a slot, or for what stops it. -/
def State.moveWait (s : State) (h k a stripe : Nat) : State :=
  if s.ld.movesStopped ∨ s.parkedAt a stripe then s.stopJoin h k a stripe else s.slotJoin h k

/-! ### Probe (R81, LD_PROBE) -/

/-- The slot a block would be served from, with its frame: successor first. -/
def Frame.serve (f : Frame) (i o : Nat) : Option (Slot × Bool) :=
  let valid := fun (x : Slot) => x.blk o != 0
  match (mapGet? f.succ i).filter valid with
  | some x => some (x, true)
  | none => ((mapGet? f.cur i).filter valid).map fun x => (x, false)

/-- Look the selected block up and latch what is found. -/
def State.ldProbe (s : State) : State :=
  let v := s.fld Reg.LD_PROBE_SEL 7 0
  let blk := s.reg Reg.LD_PROBE_BLK_LO + s.reg Reg.LD_PROBE_BLK_HI * 2 ^ 32
  let none_ := ((s.setReg Reg.LD_PROBE 0).setReg Reg.LD_PROBE_ADDR_LO 0).setReg Reg.LD_PROBE_ADDR_HI 0
  match s.vol? v with
  | none => none_
  | some vr => match s.arr? vr.arr with
    | none => none_
    | some r =>
      let (stripe, i, o) := mapBlock r vr blk
      if stripe ≥ vr.base + vr.count then none_
      else match s.frameOf vr.arr stripe with
        | none => none_
        | some (_, f) => match f.serve i o with
          | none => none_.setReg Reg.LD_PROBE (4 * f.state + 64)
          | some (x, suc) =>
            let a := x.addr + 4096 * o
            ((s.setReg Reg.LD_PROBE (x.blk o + 4 * f.state + 32 * b2n suc + 64)).setReg Reg.LD_PROBE_ADDR_LO
              (a % 2 ^ 32)).setReg Reg.LD_PROBE_ADDR_HI (a / 2 ^ 32)

def execLdProbeRead (s : State) : Out := .next s.ldProbe

end Sys2Proof.Machine
end

