-- ==== Sys2Proof/Machine/Tally.lean ====
section
/-! DEFINITION. The Tally (chapter 07): energy available and needed, the ceiling, the gate, credit, the reserve asked of the
Millwheel, and learning. Energies are in mJ, exact rationals until a register shows them. -/

namespace Sys2Proof.Machine

namespace Gate
def cold : Nat := 0
def metered : Nat := 1
def pfd : Nat := 2
end Gate

def State.gate (s : State) : Nat := s.fld Reg.TL_STATUS 1 0
def State.ceiling (s : State) : Nat := s.reg64 Reg.TL_CEIL_LO

/-- Committed count: LD_DIRTY and the grants not yet DIRTY (R135). -/
def State.committed (s : State) : Nat := s.ldDirty + 4096 * sumN (s.tl.resv.map fun e => e.2.length)

/-! ### Members the dump can use -/

/-- Is the link of a port up (Table 12-5)? -/
def State.linkIsUp (s : State) (p : Nat) : Bool := (s.port p).state == Ps.ready || (s.port p).state == Ps.init

/-- A healthy member (R132): assigned, not failed, its link up; a rebuild target once it is READY. -/
def State.healthy (s : State) (p : Nat) : Bool :=
  s.assigned p && !(s.port p).failed && s.linkIsUp p &&
  (match s.portPos p with
    | some (a, q) => !s.posTarget a q || (s.port p).state == Ps.ready
    | none => true)

def State.healthyList (s : State) : List Nat := (List.range 32).filter s.healthy
def State.mh (s : State) : Nat := s.healthyList.length

/-- Hamper region of a port in LBAs: its array's. A spare belongs to no array and the spec gives no H for it: the model takes it
from the present ST_LAYOUT (DESIGN CHOICE, log entry 146). -/
def State.hamperLbas (s : State) (p : Nat) : Nat := match s.portPos p with
  | some (a, _) => match s.arr? a with
    | some r => r.h
    | none => 0
  | none => s.fld Reg.ST_LAYOUT 4 0 * 262144

def State.hMin (s : State) : Nat := match (s.healthyList.map s.hamperLbas) with
  | [] => 0
  | x :: t => t.foldl min x

/-! ### Model values (R143, R146) -/

def lrnReg (i : Nat) : Nat := Reg.TL_LRN_EBYTE + 4 * i

/-- Learned value i: as published, else as the Keep holds it; 0 for none. -/
def State.learned (s : State) (i : Nat) : Nat := if s.tl.lrn.getD i 0 ≠ 0 then s.tl.lrn.getD i 0 else s.reg (lrnReg i)

/-- Target of value i, and whether it is learned. 0 e_byte, 1 P_base, 2 t_fixed, 3 b_m, 4 k. -/
def State.tlTarget (s : State) (i : Nat) : Nat × Bool :=
  let l := s.learned i
  let decl := if i = 0 then s.reg Reg.TL_DECL_EBYTE else if i = 1 then s.reg Reg.TL_DECL_PBASE else 0
  if l ≠ 0 then
    (if i = 0 then max (5 * l / 4) (s.reg Reg.TL_EBYTE_FLOOR) else if i = 1 then 5 * l / 4 else l, true)
  else if decl ≠ 0 then (decl, false)
  else ([40000, 400000, 100000, 1000, 1024].getD i 0, false)

/-- Is value i a cold default? -/
def State.tlCold (s : State) (i : Nat) : Bool :=
  s.learned i == 0 && !(i == 0 && s.reg Reg.TL_DECL_EBYTE != 0) && !(i == 1 && s.reg Reg.TL_DECL_PBASE != 0)

/-- Move used value i toward its target (R143): at once where it raises E_need, is not learned, or is the first after a reset; else
by at most 1 % of itself per hour since its last change. -/
def State.tlMove (s : State) (i : Nat) : State :=
  let (t, lrn) := s.tlTarget i
  let u := s.tl.use.getD i 0
  let raises := if i = 3 then decide (t < u) else decide (t > u)
  let step := u * (s.now - s.tl.chgAt.getD i 0) / 360000000000
  let v := if raises || !lrn || s.tl.fresh then t else if i = 3 then min t (u + step) else max t (u - step)
  if v = u then s else { s with tl.use := s.tl.use.set i v, tl.chgAt := s.tl.chgAt.set i s.now }

def State.useE (s : State) : Nat := s.tl.use.getD 0 0
def State.useP (s : State) : Nat := s.tl.use.getD 1 0
def State.useT (s : State) : Nat := s.tl.use.getD 2 0
def State.useB (s : State) : Nat := s.tl.use.getD 3 0
def State.useK (s : State) : Nat := s.tl.use.getD 4 0

/-- B_dump in MB/s (R132). -/
def State.bDump (s : State) : Nat := min (s.useB * (s.mh - 1)) 22000

/-- Fixed and per-byte cost of a dump in mJ, for M_h of 2 or more. -/
def State.needFixed (s : State) : Rat := (s.useK : Rat) / 1024 * (s.useP * s.useT) / 1000000
def State.needByte (s : State) : Rat :=
  (s.useK : Rat) / 1024 * ((s.useP : Rat) / s.bDump / 1000000 + (s.useE : Rat) * s.mh / (s.mh - 1) / 1000000000)

/-- E_need(d) in mJ (R132). -/
def State.eNeed (s : State) (d : Nat) : Rat := s.needFixed + s.needByte * d

/-! ### Energy available (R129 to R131) -/

def State.mwState (s : State) : Nat := s.fld Reg.MW_STATUS 3 0
def State.mwFault (s : State) : Bool := s.flag Reg.MW_STATUS 4
def State.mwSpeed (s : State) : Int := signExt 32 (s.reg Reg.MW_SPEED)

/-- ω² of a speed in rpm, in (rad/s)². -/
def omegaSq (rpm : Rat) : Rat := rpm * rpm * Config.piQ * Config.piQ / 900

/-- Inertia in 10^-7 kg m², efficiency as a fraction, and the credited share (Table 07-2). -/
def State.wheelModel (s : State) : Option (Nat × Rat × Rat × Bool) :=
  if s.flag Reg.MW_C_STATUS 0 then some (s.reg Reg.MW_C_J, (s.reg Reg.MW_C_ETA : Rat) / 1000, 1, false)
  else
    let j := s.reg Reg.TL_DECL_J
    let e := min 100 (s.fld Reg.TL_DECL_ETA 6 0)
    if j ≠ 0 ∧ e ≠ 0 then some (j, (e : Rat) / 100, 1 / 2, true) else none

def State.wheelMin (s : State) : Nat := min 120000 (s.fld Reg.TL_WHEEL_MIN 16 0)

/-- May the wheel be credited now (R130)? -/
def State.wheelOk (s : State) : Bool := !s.mwFault && (s.mwState == 4 || s.mwState == 5 || s.mwState == 6)

/-- The wheel term in mJ and whether it is credited. -/
def State.eWheel (s : State) : Rat × Bool := match s.wheelModel with
  | none => (0, false)
  | some (j, eta, share, _) =>
    if !s.wheelOk then (0, false)
    else
      let v := (s.mwSpeed : Rat)
      let d := omegaSq v - omegaSq s.wheelMin
      (if v ≤ (s.wheelMin : Rat) then 0 else share * eta * (j : Rat) / 10000000 * d / 2 * 1000, true)

def State.packOk (s : State) : Bool :=
  s.flag Reg.TL_CTRL 2 && s.flag Reg.GA_STATUS 0 && s.flag Reg.GA_STATUS 1

def State.ePack (s : State) : Nat := if s.packOk then s.reg Reg.GA_EPACK else 0

/-- E_bulk in mJ: C in 10 µF, HUB in 10 mV, V_min in 0.1 V. -/
def State.eBulk (s : State) : Rat :=
  let c : Rat := (s.fld Reg.TL_BULK 15 0 : Nat)
  let v : Rat := (s.fld Reg.MW_HUB 15 0 : Nat)
  let m : Rat := 10 * (s.fld Reg.TL_BULK 25 16 : Nat)
  if v ≤ m then 0 else c * (v * v - m * m) / 2000000

def State.twoSource (s : State) : Bool := s.flag Reg.TL_CTRL 0
def State.margin (s : State) : Rat := (clampN 25 200 (s.fld Reg.TL_CTRL 15 8) : Nat) / 100
def State.extra (s : State) : Rat := (min 100 (s.fld Reg.TL_CTRL 23 16) : Nat) / 100

/-- E_avail in mJ: the lower of the two sources under TWO_SOURCE (R134). -/
def State.eAvail (s : State) : Rat :=
  let w := s.eWheel.1 + s.eBulk
  let p := (s.ePack : Rat) + s.eBulk
  if s.twoSource then min w p else s.eWheel.1 + s.ePack + s.eBulk

/-- A non-negative rational rounded down. -/
def floorQ (q : Rat) : Nat := q.floor.toNat

/-! ### The ceiling (R133, R134) -/

/-- The bounds of R133 but d_energy. -/
def State.ceilCaps (s : State) : Nat :=
  min (min (min 12288 (s.fld Reg.TL_CEIL_MAX 13 0) * 1048576) (12 * 2 ^ 30)) ((s.mh - 1) * s.hMin * 4096 - 134217728)

def State.dEnergy (s : State) : Rat := (s.eAvail / (1 + s.margin) - s.needFixed) / s.needByte

/-- The ceiling in bytes. -/
def State.ceilNow (s : State) : Nat :=
  if s.mh < 2 then 0
  else if s.twoSource && !(s.eWheel.2 && s.packOk) then 0
  else if s.dEnergy ≤ 0 then 0
  else min s.ceilCaps (floorQ s.dEnergy) / 4096 * 4096

/-- E_req in mJ (R140). -/
def State.eReqNow (s : State) (overB : Bool) : Nat :=
  let goal := if overB then s.committed else s.ceilCaps
  floorQ ((1 + s.margin) * s.eNeed goal * (1 + s.extra) - (if s.twoSource then 0 else (s.ePack : Rat)) - s.eBulk)

/-! ### Credit (R135 to R138) -/

/-- OVER follows the committed count (R138), with its notice and event once per entry. -/
def State.tlOver (s : State) : State :=
  let o := decide (s.committed > s.ceiling)
  let was := s.flag Reg.TL_STATUS 5
  let s := s.setFlag Reg.TL_STATUS 5 o
  if o && !was then (s.bump Reg.TL_OVER_EVENTS).noteD Rank.tally 0x02 Sev.notice 0 0 (s.committed % 2 ^ 64) else s

/-- Forget the reservation of a command; OVER clears where the committed count has come down to the ceiling. -/
def State.tlRelease (s : State) (h : Nat) : State :=
  State.tlOver { s with tl.resv := s.tl.resv.filter fun e => e.1 != h }

/-- Reserve blocks for a command. -/
def State.tlReserve (s : State) (h : Nat) (blks : List Nat) : State :=
  let old := match s.tl.resv.find? fun e => e.1 == h with
    | some e => e.2
    | none => []
  (State.bump { s with tl.resv := (s.tl.resv.filter fun e => e.1 != h) ++ [(h, old ++ blks)] } Reg.TL_GRANTS)

/-- Is a block of a command reserved? -/
def State.tlHas (s : State) (h blk : Nat) : Bool := s.tl.resv.any fun e => e.1 == h && e.2.contains blk

/-- A reserved block has become DIRTY. -/
def State.tlSpend (s : State) (h blk : Nat) : State :=
  { s with tl.resv := (s.tl.resv.map fun e => if e.1 == h then (e.1, e.2.erase blk) else e).filter fun e => !e.2.isEmpty }

/-- Can n blocks be granted now (R135, R138)? -/
def State.tlFits (s : State) (n : Nat) : Bool :=
  s.gate == Gate.metered && decide (s.committed + 4096 * n ≤ s.ceiling)

/-- Answer to a request for credit. -/
inductive Credit where
  | granted | refused | waits
deriving DecidableEq, Repr

/-- A request for credit for blocks of a command (R135 to R137). -/
def State.tlAsk (s : State) (h : Nat) (blks : List Nat) (alone : Bool) : Credit × State :=
  let n := blks.length
  if s.gate = Gate.pfd then
    if s.tl.waitQ.length ≥ 256 then (.refused, s.bump Reg.TL_REFUSED_NOW)
    else (.waits, { s with tl.waitQ := s.tl.waitQ ++ [⟨h, blks, alone, 0⟩] })
  else if s.gate = Gate.cold then (.refused, s.bump Reg.TL_REFUSED_NOW)
  else if s.tl.waitQ.isEmpty && s.tlFits n then (.granted, s.tlReserve h blks)
  else if 4096 * n > s.ceiling ∨ s.tl.waitQ.length ≥ 256 ∨ s.fld Reg.TL_WAIT 13 0 = 0 then
    (.refused, s.bump Reg.TL_REFUSED_NOW)
  else (.waits, { s with tl.waitQ := s.tl.waitQ ++ [⟨h, blks, alone, s.now⟩] })

/-- Notices of a source whose credit goes: by MW_FAULT, or by removal of the pack (R139, Table 07-4). -/
def State.tlLost (s : State) (wheel pack : Bool) : State :=
  let s := if s.flag Reg.TL_STATUS 2 && !wheel && s.mwFault then s.note Rank.tally 0x03 Sev.critical 0 else s
  if s.flag Reg.TL_STATUS 4 && !pack && !s.flag Reg.GA_STATUS 0 then s.note Rank.tally 0x04 Sev.warning 0 else s

/-- Recompute the model, the energies, the ceiling and the gate (R133, R13). Waiting requests of a gate that turns cold are
refused by the caller. -/
def State.tlRecompute (s : State) : State :=
  let s := (List.range 5).foldl State.tlMove s
  let s := { s with tl.fresh := false }
  let s := s.setFlag Reg.TL_STATUS 6 ((List.range 5).any s.tlCold)
  let (w, wc) := s.eWheel
  let s := s.tlLost wc s.packOk
  let s := ((s.setFlag Reg.TL_STATUS 2 wc).setFlag Reg.TL_STATUS 3
    (match s.wheelModel with
      | some (_, _, _, d) => d && wc
      | none => false)).setFlag Reg.TL_STATUS 4 s.packOk
  let short := s.twoSource && !(wc && s.packOk)
  let s := if short && !s.flag Reg.TL_STATUS 7 then s.note Rank.tally 0x05 Sev.warning 0 else s
  let s := s.setFlag Reg.TL_STATUS 7 short
  let old := s.ceiling
  let c := s.ceilNow
  let s := s.setReg64 Reg.TL_CEIL_LO c
  let s := if c = 0 ∧ old > 0 then s.note Rank.tally 0x01 Sev.warning 0 else s
  let s := s.tlOver
  let s := (((s.setReg Reg.TL_EAVAIL (sat32 (floorQ s.eAvail))).setReg Reg.TL_EWHEEL (sat32 (floorQ w))).setReg
    Reg.TL_EPACK s.ePack).setReg Reg.TL_EBULK (sat32 (floorQ s.eBulk))
  let s := s.setReg Reg.TL_ENEED (if s.mh < 2 then 0xFFFFFFFF else sat32 (floorQ (s.eNeed s.committed)))
  let s := if s.mh < 2 then s else { s with tl.ereq := s.eReqNow (s.flag Reg.TL_STATUS 5) }
  let s := s.setReg Reg.TL_EREQ (sat32 s.tl.ereq)
  if s.gate = Gate.pfd then s
  else s.setFld Reg.TL_STATUS 1 0 (if c > 0 ∧ s.hm.importing = false then Gate.metered else Gate.cold)

end Sys2Proof.Machine
end

