-- ==== Sys2Proof/Machine/Writes.lean ====
section
/-! DEFINITION. Admitting writes (R71 to R74, R80, R135 to R137): which blocks need credit, moving blocks into slots,
write-through, and the rows that grant or refuse waiting requests and resume waits for slots. -/

namespace Sys2Proof.Machine

/-! ### Blocks of a command -/

/-- Volume, array and place of a block of a command: array number, record, stripe, chunk, block of the chunk. -/
structure Place where
  a : Nat
  r : ArrayRec
  stripe : Nat
  i : Nat
  o : Nat
deriving DecidableEq, Repr

/-- Place of volume block n of volume v. -/
def State.place (s : State) (v n : Nat) : Option Place := match s.vol? v with
  | none => none
  | some vr => match s.arr? vr.arr with
    | none => none
    | some r =>
      let (stripe, i, o) := mapBlock r vr n
      some ⟨vr.arr, r, stripe, i, o⟩

/-- Place of block k of a block command. -/
def State.cmdPlace (s : State) (c : Cmd) (k : Nat) : Option Place := s.place (Ent.tgt c.ent) (Ent.p0 c.ent + k)

/-- Does a write to a frame in this state go to a successor slot (R80)? -/
def Frame.busy (f : Frame) : Bool := f.state == Fs.fillread || f.state == Fs.destaging

/-- State of a block in the slot a write would go to. -/
def State.targetBlk (s : State) (p : Place) : Nat := match s.frameOf p.a p.stripe with
  | none => 0
  | some (_, f) => match mapGet? (if f.busy then f.succ else f.cur) p.i with
    | some x => x.blk p.o
    | none => 0

/-! ### Putting a block into a slot -/

/-- The frame for a write to a stripe: the one there is, or a new one. PARKED frames take no writes. -/
def State.frameFor (s : State) (a stripe vol : Nat) : Option Nat × State := match s.frameOf a stripe with
  | some (n, f) => if f.state = Fs.parked then (none, s) else (some n, s)
  | none => s.newFrame a stripe vol

/-- The slot of a chunk for a write, allocated on first need; a new successor slot is counted. -/
def State.slotFor (s : State) (n : Nat) (r : ArrayRec) (i : Nat) : Option Slot × State := match s.frame? n with
  | none => (none, s)
  | some f => match mapGet? (if f.busy then f.succ else f.cur) i with
    | some x => (some x, s)
    | none => match s.getSlot r with
      | (none, s) => (none, s)
      | (some a, s) => (some (Slot.new r a), if f.busy then s.bump Reg.LD_SUCC else s)

/-- Store a slot back where writes to a frame go. -/
def Frame.putSlot (f : Frame) (i : Nat) (x : Slot) (now : Nat) : Frame :=
  if f.busy then { f with succ := mapSet f.succ i x, succAt := if f.succ.isEmpty then now else f.succAt }
  else { f with cur := mapSet f.cur i x }

/-- A frame takes new DIRTY or HELD data: CLEAN becomes FILLING, its timers start or go on. -/
def Frame.touch (f : Frame) (now : Nat) : Frame :=
  let f := if f.state = Fs.clean then { f with state := Fs.filling, ageAt := now } else f
  { f with idleAt := now }

/-- Put the bytes of a block into the slot a write goes to, as DIRTY or HELD. None when there is no slot or frame. Where the frame
itself was evicted for the slot, a new one takes it. -/
def State.putBlock (s : State) (a stripe vol i o st : Nat) (r : ArrayRec) (data : List Byte) : Option Nat × State :=
  match s.frameFor a stripe vol with
  | (none, s) => (none, s)
  | (some n, s) => match s.slotFor n r i with
    | (none, s) => (none, match s.frame? n with
        | some f => if f.cur.isEmpty ∧ f.succ.isEmpty then s.dropFrame n else s
        | none => s)
    | (some x, s) => match (if (s.frame? n).isSome then (some n, s) else s.newFrame a stripe vol) with
      | (none, s) => (none, s)
      | (some n, s) =>
        let s := s.memPut (x.addr + 4096 * o) (bytesAt data 0 4096)
        let s := s.updFrame n fun f => (f.putSlot i (x.set o st) s.now).touch s.now
        match s.frame? n with
        | some f => (some n, if f.state = Fs.filling ∧ f.full r then s.toReady n 1 else s)
        | none => (some n, s)

/-! ### Write-through (R73) -/

/-- Mark the frames a command has blocks in as holding write-through data; FILLING and READY ones enter class 0. -/
def State.markWt (s : State) (l : List (Nat × Nat)) : State := l.foldl (fun s w =>
  match s.frameOf w.1 (w.2 / 2) with
  | some (n, _) =>
    if w.2 % 2 = 1 then s.updFrame n fun f => { f with wtNext := true }
    else (s.updFrame n fun f => { f with wt := true }).toReady n 0
  | none => s) s

/-- A command becomes write-through. -/
def State.goWt (s : State) (h : Nat) : State := match s.cmd? h with
  | none => s
  | some c => (s.setCmd { c with wt := true }).markWt c.waits

/-- An append of a stream is refused credit: it goes write-through, and every later append of the stream in hand with it (R118). -/
def State.refuse (s : State) (h : Nat) : State := match s.cmd? h with
  | none => s
  | some c => match c.log with
    | none => s.goWt h
    | some op =>
      let s := s.updStream op.stream fun x =>
        { x with refused := if x.refused.contains h then x.refused else x.refused ++ [h] }
      (s.cmds.filter fun d => match d.log with
        | some q => q.stream == op.stream && decide (q.seq ≥ op.seq)
        | none => false).foldl (fun s d => s.goWt d.h) s

/-- Note that a command has blocks in a frame. -/
def State.noteFrame (s : State) (h n : Nat) : State := match s.cmd? h, s.frame? n with
  | some c, some f =>
    let w := (f.arr, 2 * f.stripe + b2n f.busy)
    let s := if c.waits.contains w then s else s.setCmd { c with waits := c.waits ++ [w] }
    if c.wt then s.markWt [w] else s
  | _, _ => s

/-- A command waits for nothing any more, and holds no credit. -/
def State.giveUp (s : State) (h : Nat) : State :=
  { s.tlRelease h with tl.waitQ := s.tl.waitQ.filter (fun q => q.h != h)
                       ld.slotQ := s.ld.slotQ.filter (fun q => q.1 != h)
                       ld.stopQ := s.ld.stopQ.filter fun q => q.1.1 != h }

/-! ### Moving a block of a command (R71, R72, R80) -/

/-- What became of a block move. -/
inductive Move where
  /-- the block lies in a frame -/
  | done (n : Nat)
  /-- no slot or frame; or moves are stopped -/
  | wait
  /-- its credit request waits -/
  | credit
  /-- the array went OFFLINE or the stripe is LOST -/
  | fail (status : Nat)
deriving DecidableEq, Repr

/-- The state a new block takes: it takes over the credit of a DIRTY block, spends its own, or asks for credit alone. -/
def State.blockState (s : State) (h k old : Nat) : Option Nat × State :=
  if old = Bk.dirty then (some Bk.dirty, s)
  else if s.tlHas h k then (some Bk.dirty, s)
  else match s.cmd? h with
    | none => (some Bk.held, s)
    | some c =>
      if c.wt then (some Bk.held, s)
      else match s.tlAsk h [k] true with
        | (.granted, s) => (some Bk.dirty, s)
        | (.refused, s) => (some Bk.held, s.refuse h)
        | (.waits, s) => (none, s)

/-- Move one block of data for command h: block number k within the command, at a place of volume v. -/
def State.moveAt (s : State) (h k v : Nat) (p : Place) (data : List Byte) : Move × State :=
  if s.ld.movesStopped then (.wait, s)
  else if p.r.state = 2 then (.fail St.arrayOffline, s)
  else if s.sstState p.a p.stripe = Sst.lost then (.fail St.lostData, s)
  else match s.blockState h k (s.targetBlk p) with
    | (none, s) => (.credit, s)
    | (some st, s) => match s.putBlock p.a p.stripe v p.i p.o st p.r data with
      | (none, s) => (.wait, s)
      | (some n, s) => (.done n, ((if st = Bk.dirty then s.tlSpend h k else s).noteFrame h n).pressure)

/-- All blocks of a write have moved: it completes early, or waits for the CLOSEs of its frames (R73). -/
def State.writeEnd (s : State) (h : Nat) : State := match s.cmd? h with
  | none => s
  | some c =>
    if !c.todo.isEmpty ∨ c.ph = .credit then s
    else
      let s := s.tlRelease h
      if c.status ≠ 0 then s.finishSt (Rank.larder 0) c c.status
      else if !c.wt then s.finish (Rank.larder (Ent.tgt c.ent)) c
      else if c.waits.isEmpty then
        s.finish (Rank.larder (Ent.tgt c.ent)) { c with cflags := c.cflags ||| Cf.writeThrough }
      else s.setCmd { c with ph := .waiting }

/-- Bytes of block k of a command that have arrived, in order. -/
def Cmd.blockData (c : Cmd) (k : Nat) : List Byte :=
  (c.recv.filter fun p => p.blk == k).foldl (fun b p => putBytes b p.off p.data) []

/-- Move block k of a write; its data stays at hand while it waits. -/
def State.moveBlk (s : State) (h k : Nat) : State := match s.cmd? h with
  | none => s
  | some c => match s.cmdPlace c k with
    | none => (s.updCmd h fun c => { c with todo := c.todo.erase k, status := St.invalidVolume }).writeEnd h
    | some p => match s.moveAt h k (Ent.tgt c.ent) p (c.blockData k) with
      | (.done _, s) => (s.updCmd h fun c =>
          { c with todo := c.todo.erase k, recv := c.recv.filter fun q => q.blk != k }).writeEnd h
      | (.wait, s) => s.moveWait h k p.a p.stripe
      | (.credit, s) => s
      | (.fail st, s) => (s.updCmd h fun c =>
          { c with todo := c.todo.erase k, recv := c.recv.filter fun q => q.blk != k, status := st }).writeEnd h

/-- Blocks of a write that need credit now (R72). -/
def State.needCredit (s : State) (c : Cmd) : List Nat := c.todo.filter fun k => match s.cmdPlace c k with
  | some p => s.targetBlk p != Bk.dirty
  | none => false

end Sys2Proof.Machine
end

