-- ==== Sys2Proof/Machine/Logs.lean ====
section
/-! DEFINITION. Log streams (R110 to R122): placing records, closing frames and recycling stripes, moving record bytes into
the current frame, VISIBLE, trim and the re-check of HOLDING streams. Reading by sequence is in Reads.lean. -/

namespace Sys2Proof.Machine

def Stream.at_ (x : Stream) (e : Nat) : LogStripe := mapGetD x.idx e {}

/-- OLDEST (R121): FIRST_SEQ of the oldest stripe that holds records, or NEXT. -/
def Stream.oldest (x : Stream) : Nat :=
  (x.idx.filter fun e => e.2.records != 0).foldl (fun m e => min m e.2.first) x.next

/-- Array stripe of stripe e of a stream's extent. -/
def State.streamStripe (s : State) (x : Stream) (e : Nat) : Option (Nat × ArrayRec × Nat) := match s.vol? x.vol with
  | none => none
  | some v => match s.arr? v.arr with
    | none => none
    | some r => some (v.arr, r, v.base + x.base + e)

/-- Size of a record (R113). -/
def recSize (len : Nat) : Nat := (32 + len + 31) / 32 * 32

/-- Record header (Table 06-4) and its padded bytes. -/
def recBytes (seq time len stream type flags user : Nat) (payload : List Byte) : List Byte :=
  let b := toLe 8 seq ++ toLe 8 time ++ toLe 4 len ++ toLe 2 stream ++ toLe 1 type ++ toLe 1 flags ++ toLe 4 user
  let p := bytesAt payload 0 len
  bytesAt (b ++ toLe 4 (crc32c (b ++ p)) ++ p) 0 (recSize len)

/-- Stripe header (Table 06-3). -/
def stripeHeader (stream : Nat) (x : LogStripe) : List Byte :=
  let b := [0x4C, 0x45, 0x42, 0x4C, 0x4F, 0x47, 0x53, 0x54] ++ toLe 2 stream ++ zeros 2 ++ toLe 4 x.records ++ toLe 8 x.first ++
    toLe 8 x.last ++ toLe 8 x.firstT ++ toLe 8 x.lastT ++ toLe 4 x.used ++ zeros 8
  b ++ toLe 4 (crc32c b)

/-- Stripe blocks the bytes from off to off + n cover. -/
def spanBlks (off n : Nat) : List Nat := (List.range ((off + n - 1) / 4096 + 1 - off / 4096)).map (off / 4096 + ·)

/-- Does a stripe header check (Table 06-3)? -/
def logHeaderSigned (b : List Byte) : Bool :=
  bytesAt b 0 8 == [0x4C, 0x45, 0x42, 0x4C, 0x4F, 0x47, 0x53, 0x54] && leAt b 60 4 == crc32c (bytesAt b 0 60)

/-- Does a stripe header check and name a stream? -/
def logHeaderOk (b : List Byte) (n : Nat) : Bool := logHeaderSigned b && leAt b 8 2 == n

/-- A header as the stream's index holds it. -/
def logHeader (b : List Byte) : LogStripe :=
  { records := leAt b 12 4, first := leAt b 16 8, last := leAt b 24 8, firstT := leAt b 32 8, lastT := leAt b 40 8
    used := leAt b 48 4 }

/-- The slot a reader of a log frame finds a block in; of a frame that holds an earlier lap, only successor slots count. -/
def Frame.logServe (f : Frame) (i o : Nat) : Option (Slot × Bool) :=
  if f.lap then ((mapGet? f.succ i).filter fun x => x.blk o != 0).map fun x => (x, true) else f.serve i o

/-- Bytes of stripe block k of a log frame as a reader sees them; zeros where it holds none. -/
def State.logBlk (s : State) (a stripe : Nat) (r : ArrayRec) (k : Nat) : List Byte := match s.frameOf a stripe with
  | none => zeros 4096
  | some (_, f) => match f.logServe (k / r.b) (k % r.b) with
    | some (x, _) => s.memN (x.addr + 4096 * (k % r.b)) 4096
    | none => zeros 4096

/-- Bytes of a LOG volume's stripe that hold its header and its records; beyond them it is zeros (R120). A frame that no stream has
claimed yet goes by the header it holds, and whole where it holds none (log entry 73). -/
def State.logLimit (s : State) (f : Frame) (r : ArrayRec) : Nat :=
  let own := match f.serve 0 0 with
    | some (x, _) => if logHeaderSigned (s.memN x.addr 64) then 64 + leAt (s.memN x.addr 64) 48 4 else 4096 * r.sb
    | none => 4096 * r.sb
  match s.vol? f.vol with
  | none => 4096 * r.sb
  | some v =>
    if f.lap then 0
    else if v.cls ≠ 1 then 4096 * r.sb
    else match f.stream with
      | none => own
      | some n => match s.stream? n with
        | none => own
        | some x =>
          let h := x.at_ (f.stripe - v.base - x.base)
          if h.records = 0 then 0 else 64 + h.used

/-- Stripe bytes from lim on in the current slots of a log frame turn to zeros. -/
def State.logZero (s : State) (f : Frame) (r : ArrayRec) (lim : Nat) : State :=
  f.cur.foldl (fun s e => (List.range r.b).foldl (fun s o =>
    let lo := 4096 * (e.1 * r.b + o)
    if lo + 4096 ≤ lim ∨ e.2.blk o = 0 then s
    else s.memPut (e.2.addr + 4096 * o + (lim - lo)) (zeros (4096 - (lim - lo)))) s) s

/-- Overlay bytes that start at stripe byte off on block k. -/
def overlay (blk : List Byte) (k off : Nat) (bs : List Byte) : List Byte :=
  let lo := 4096 * k
  if off ≥ lo then
    if off ≥ lo + 4096 then blk else bytesAt (putBytes blk (off - lo) (bs.take (lo + 4096 - off))) 0 4096
  else bytesAt (putBytes blk 0 ((bs.drop (lo - off)).take 4096)) 0 4096

/-! ### Recycling (R121) -/

/-- May stripe e of a stream be recycled now? -/
def State.recyclable (s : State) (x : Stream) (e : Nat) : Bool :=
  let h := x.at_ e
  h.records == 0 || decide (h.last ≤ x.trim) || x.retain == 0 || decide (s.time > h.lastT + 1000000 * x.retain)

/-- The frame of a stripe drops an earlier lap (R120, R121): a CLEAN one is free; the blocks of one that waits for its destage turn
to zeros; a busy or PARKED one drops them when it is done. -/
def State.lapDrop (s : State) (a stripe : Nat) (r : ArrayRec) : State := match s.frameOf a stripe with
  | none => s
  | some (n, f) =>
    if f.state = Fs.clean then s.dropFrame n
    else if f.busy ∨ f.state = Fs.parked then s.updFrame n fun f => { f with lap := true }
    else s.logZero f r 0

/-- Move a stream onto stripe e: its records are dropped. -/
def State.recycle (s : State) (n e : Nat) : State := match s.stream? n with
  | none => s
  | some x =>
    let s := match s.streamStripe x e with
      | some (a, r, st) => s.lapDrop a st r
      | none => s
    s.setStream n { x with cur := e, idx := mapErase x.idx e, holes := x.holes.filter fun h => h.stripe != e }

/-- The stripe after the current one. -/
def Stream.nextStripe (x : Stream) : Nat := (x.cur + 1) % (max 1 x.count)

/-- Room left in the current stripe. -/
def Stream.room (x : Stream) (r : ArrayRec) : Nat := 4096 * r.sb - (64 + (x.at_ x.cur).used)

/-! ### Records as bytes -/

/-- The record an append writes: VOID when its payload could not be fetched (R117). -/
def LogOp.bytes (op : LogOp) (payload : List Byte) : List Byte :=
  if op.void then recBytes op.seq op.time op.len op.stream 3 (b2n op.clamped) 0 []
  else recBytes op.seq op.time op.len op.stream 1 (b2n op.clamped) op.user payload

/-- Holes of a stripe: places of appends that ended with an error. -/
def Stream.holesIn (x : Stream) (e : Nat) : List LogOp := x.holes.filter fun h => h.stripe == e

/-- First byte a write that ends at the records' end must cover to fill the holes of a stripe too. -/
def Stream.fillFrom (x : Stream) (e off : Nat) : Nat := (x.holesIn e).foldl (fun m h => min m h.off) off

/-- Holes of a stripe laid as VOID records over block k. -/
def Stream.fillHoles (x : Stream) (e k : Nat) (b : List Byte) : List Byte :=
  (x.holesIn e).foldl (fun b h => overlay b k h.off (h.bytes [])) b

/-! ### Closing a frame (R114) -/

/-- Put a block of a log frame: DIRTY where it was, otherwise HELD (log entry 26). -/
def State.logPut (s : State) (n : Nat) (x : Stream) (a stripe : Nat) (r : ArrayRec) (k : Nat) (b : List Byte) :
    Option Nat × State :=
  let p : Place := ⟨a, r, stripe, k / r.b, k % r.b⟩
  let st := if s.targetBlk p = Bk.dirty then Bk.dirty else Bk.held
  let (m, s) := s.putBlock a stripe x.vol p.i p.o st r b
  match m with
  | some f => (some f, s.updFrame f fun y => { y with stream := some n })
  | none => (none, s)

/-- Lay a PAD at off, and the holes before it, over blocks; false when a slot must be waited for. -/
def State.logPads (s : State) (n : Nat) (x : Stream) (a stripe : Nat) (r : ArrayRec) (off : Nat) (pad : List Byte) :
    List Nat → Bool × State
  | [] => (true, s)
  | k :: t => match s.logPut n x a stripe r k (x.fillHoles x.cur k (overlay (s.logBlk a stripe r k) k off pad)) with
    | (none, s) => (false, s)
    | (some _, s) => s.logPads n x a stripe r off pad t

/-- Close the current frame: a PAD over all the room left, the header brought up to date, READY in class 1. Its TIME follows R116.
False when a slot must be waited for. -/
def State.logClose (s : State) (n : Nat) : Bool × State := match s.stream? n with
  | none => (true, s)
  | some x => match s.streamStripe x x.cur with
    | none => (true, s)
    | some (a, r, st) =>
      let room := x.room r
      let off := 64 + (x.at_ x.cur).used
      let h := { x.at_ x.cur with records := (x.at_ x.cur).records + 1, used := (x.at_ x.cur).used + room }
      if room = 0 then (true, match s.frameOf a st with
        | some (f, _) => s.toReady f 1
        | none => s)
      else
        let t := max s.time x.lastTime
        let pad := recBytes 0 t (room - 32) n 2 (b2n (decide (s.time < x.lastTime))) 0 []
        let lo := x.fillFrom x.cur off
        match s.logPads n x a st r off pad (spanBlks lo (off + room - lo)) with
        | (false, s) => (false, s)
        | (true, s) => match s.logPut n x a st r 0 (overlay (s.logBlk a st r 0) 0 0 (stripeHeader n h)) with
          | (none, s) => (false, s)
          | (some f, s) =>
            (true, (s.setStream n { x with
              idx := mapSet x.idx x.cur h, lastTime := t, holes := x.holes.filter fun o => o.stripe != x.cur }).toReady f 1)

/-! ### Appending (R115 to R119) -/

/-- What became of an append's placement. -/
inductive Placed where
  | ok (op : LogOp)
  | full
  | wait
deriving DecidableEq, Repr

/-- Give the next record of a stream its SEQ, TIME and place in the current stripe. -/
def State.logAssign (s : State) (n len user : Nat) : Placed × State := match s.stream? n with
  | none => (.full, s)
  | some x =>
    let now := s.time
    let t := max now x.lastTime
    let h := x.at_ x.cur
    let h' : LogStripe := { records := h.records + 1, first := if h.records = 0 then x.next else h.first, last := x.next
                            firstT := if h.records = 0 then t else h.firstT, lastT := t, used := h.used + recSize len }
    (.ok ⟨n, x.next, t, decide (now < x.lastTime), x.cur, 64 + h.used, x.fillFrom x.cur (64 + h.used), len, user, false, false⟩,
      s.setStream n { x with next := x.next + 1, lastTime := t, idx := mapSet x.idx x.cur h' })

/-- Place a record, closing the frame and moving to the next stripe where it does not fit. -/
def State.logPlace (s : State) (n len user : Nat) : Placed × State := match s.stream? n with
  | none => (.full, s)
  | some x => match s.streamStripe x x.cur with
    | none => (.full, s)
    | some (a, r, _) =>
      if x.state = 2 then (.full, s)
      else if recSize len ≤ x.room r then s.logAssign n len user
      else
        let e := x.nextStripe
        let ok := s.recyclable x e
        match s.logClose n with
        | (false, s) => (.wait, s)
        | (true, s) =>
          if ok then (s.recycle n e).logAssign n len user
          else if x.policy = 1 then
            (((s.recycle n e).bump Reg.SV_RETAIN_BRK).note Rank.packer (Config.eventValue 3)
              (Config.eventSev 3) 0).logAssign n len user
          else (.full, s.updStream n fun x => { x with state := 2, holdAt := s.now })

/-- Stripe blocks an append writes: the header's, and those from its first byte to the record's end. -/
def LogOp.blks (op : LogOp) : List Nat := (0 :: spanBlks op.from_ (op.off + recSize op.len - op.from_)).eraseDups

/-- VISIBLE moves over every completed SEQ that follows it (R119). -/
def visAdvance (vis : Nat) (done : List Nat) : Nat → Nat × List Nat
  | 0 => (vis, done)
  | n + 1 => if done.contains (vis + 1) then visAdvance (vis + 1) (done.erase (vis + 1)) n else (vis, done)

def Stream.complete (x : Stream) (seq : Nat) : Stream :=
  let d := seq :: x.done
  let (v, d) := visAdvance x.vis d d.length
  { x with vis := v, done := d }

/-- An append has ended with an error: its SEQ is used up, and its place is to be written as a VOID (log entry 143). -/
def Stream.drop (x : Stream) (h : Nat) (op : LogOp) : Stream :=
  { x.complete op.seq with refused := x.refused.erase h, holes := x.holes ++ [{ op with void := true }] }

/-- An append completes with its SEQ and TIME. -/
def State.appendEnd (s : State) (c : Cmd) (op : LogOp) : State :=
  let s := s.updStream op.stream fun x => { x.complete op.seq with refused := x.refused.erase c.h }
  let s := s.bump Reg.SV_APPENDS
  let s := if c.wt then s.bump Reg.SV_APPEND_WT else s
  let s := if op.void then s.bump Reg.SV_VOIDS else s
  s.finish Rank.packer { c with status := if op.void then St.dataTransferError else c.status, res0 := op.seq, res1 := op.time
                                cflags := if c.wt then c.cflags ||| Cf.writeThrough else c.cflags }

/-- All blocks of an append have moved. -/
def State.appendMoved (s : State) (h : Nat) : State := match s.cmd? h with
  | none => s
  | some c => match c.log with
    | none => s
    | some op =>
      if !c.todo.isEmpty then s
      else
        let s := s.tlRelease h
        if c.status ≠ 0 then (s.updStream op.stream fun x => x.drop h op).finishSt Rank.packer c c.status
        else
        let s := s.updStream op.stream fun x =>
          { x with holes := x.holes.filter fun o => o.stripe != op.stripe || decide (o.off < op.from_) || decide (o.off ≥ op.off) }
        if !c.wt || c.waits.isEmpty then s.appendEnd c op
        else s.setCmd { c with ph := .waiting }

/-- Move one stripe block of an append. -/
def State.appendBlk (s : State) (h : Nat) (op : LogOp) (payload : List Byte) (k : Nat) : State :=
  match s.stream? op.stream with
  | none => s
  | some x => match s.streamStripe x op.stripe with
    | none => s
    | some (a, r, st) =>
      let p : Place := ⟨a, r, st, k / r.b, k % r.b⟩
      let base := if k = 0 then overlay (s.logBlk a st r 0) 0 0 (stripeHeader op.stream (x.at_ op.stripe)) else s.logBlk a st r k
      match s.moveAt h k x.vol p (overlay (x.fillHoles op.stripe k base) k op.off (op.bytes payload)) with
      | (.done n, s) =>
        (s.updFrame n fun f => { f with stream := some op.stream }).updCmd h fun c => { c with todo := c.todo.erase k }
      | (.wait, s) => s.moveWait h k a st
      | (.credit, s) => s
      | (.fail e, s) => s.updCmd h fun c => { c with todo := c.todo.erase k, status := e }

/-- Move what an append still has to move, once its credit is settled and its payload has arrived. -/
def State.appendMove (s : State) (h : Nat) : State := match s.cmd? h with
  | none => s
  | some c => match c.log with
    | none => s
    | some op =>
      if !op.credit ∨ c.ph ≠ .moving then s
      else
        let l := c.todo.filter fun k =>
          !s.ld.slotQ.contains (h, k) && !(s.ld.stopQ.any fun e => e.1 == (h, k)) && !s.tl.waitQ.any fun q => q.h == h && q.blks.contains k
        (l.foldl (fun s k => s.appendBlk h op (c.blockData 0) k) s).appendMoved h

/-- The credit of an append is settled. -/
def State.appendSettled (s : State) (h : Nat) : State :=
  (s.updCmd h fun c => { c with log := c.log.map fun op => { op with credit := true } }).appendMove h

/-- Credit of an append is granted, or refused and with it the stream's later appends go write-through (R118). -/
def State.appendCredit (s : State) (h : Nat) (ok : Bool) : State := (if ok then s else s.refuse h).appendSettled h

/-- Ask for the credit an append needs, in SEQ order; behind a refused append of its stream, or with write-back off, it goes
write-through (R84, R118). -/
def State.appendAsk (s : State) (h : Nat) (op : LogOp) : State := match s.stream? op.stream with
  | none => s
  | some x => match s.streamStripe x op.stripe with
    | none => s
    | some (a, r, st) =>
      let need := op.blks.filter fun k => s.targetBlk ⟨a, r, st, k / r.b, k % r.b⟩ != Bk.dirty
      if (!x.refused.isEmpty || !s.wbOn) && s.gate != Gate.pfd then (s.goWt h).appendSettled h
      else if need.isEmpty ∧ s.gate = Gate.metered then s.appendCredit h true
      else match s.tlAsk h need false with
        | (.granted, s) => s.appendCredit h true
        | (.refused, s) => s.appendCredit h false
        | (.waits, s) => s

/-- An append is placed: its credit is asked for and its payload is read from the host. -/
def State.appendGo (s : State) (c : Cmd) (op : LogOp) : State :=
  let s := s.setCmd { c with log := some op, todo := op.blks, ph := .data }
  let s := s.appendAsk c.h op
  (segSlice c.segs 0 op.len).foldl (fun (p : State × Nat) e =>
    (p.1.tryRead ⟨c.f, e.1, e.2, .part c.h 0 p.2 e.2⟩, p.2 + e.2)) (s, 0) |>.1

/-- Is an earlier append of the stream still waiting for its place? -/
def State.logQueue (s : State) (n h : Nat) : Bool :=
  s.cmds.any fun c => decide (c.h < h) && c.ph == .waiting && c.log.isNone && Ent.opc c.ent == 0x10 && Ent.tgt c.ent == n

/-- An append that cannot be placed yet waits: behind an earlier one of its stream, until moves go on, or for a slot. -/
def State.appendHold (s : State) (c : Cmd) (n : Nat) : State :=
  let s := s.setCmd { c with ph := .waiting }
  match (s.stream? n).bind fun x => s.streamStripe x x.cur with
  | some (a, _, st) => if s.logQueue n c.h then s.stopJoin c.h 0 a st else s.moveWait c.h 0 a st
  | none => s.moveWait c.h 0 0 0

/-- Execute a Log Append that has passed its checks: place it, or wait, or LOG_FULL. -/
def State.append (s : State) (c : Cmd) : State :=
  let n := Ent.tgt c.ent
  if s.logQueue n c.h ∨ s.ld.movesStopped then s.appendHold c n
  else match s.logPlace n (Ent.p1 c.ent) (Ent.p2 c.ent) with
    | (.ok op, s) => s.appendGo c op
    | (.full, s) => (s.bump Reg.SV_LOG_FULL).finishSt Rank.packer c St.logFull
    | (.wait, s) => s.appendHold c n

/-- The payload of an append has arrived, or could not be read. -/
def State.appendData (s : State) (h : Nat) (ok : Bool) : State := match s.cmd? h with
  | none => s
  | some c => match c.log with
    | none => s
    | some op => (s.setCmd { c with ph := .moving, log := some { op with void := op.void || !ok } }).appendMove h

/-! ### Trim and HOLDING (R111, R122) -/

/-- A HOLDING stream goes on when its next stripe may be recycled. -/
def State.holdCheck (s : State) (n : Nat) : State := match s.stream? n with
  | none => s
  | some x =>
    if x.state = 2 then
      if s.recyclable x x.nextStripe then (s.updStream n fun x => { x with state := 1 }).recycle n x.nextStripe
      else s.updStream n fun x => { x with holdAt := s.now }
    else s

def execHoldingRecheck (st : Nat) (s : State) : Out :=
  .next <| match s.stream? st with
    | some x => if x.state = 2 ∧ s.due x.holdAt 1000000 then s.holdCheck st else s
    | none => s

/-- Set the trim point (R122): the lower of the SEQ and VISIBLE, never lowered; stored in the Keep. -/
def State.trim (s : State) (n seq : Nat) : State := match s.stream? n with
  | none => s
  | some x =>
    let t := max x.trim (min seq x.vis)
    (s.keepRec (Reg.SV_LTRIM_LO + n) fun s => s.updStream n fun x => { x with trim := t }).holdCheck n

end Sys2Proof.Machine
end

