-- ==== Sys2Proof/Machine/Credit.lean ====
section
/-! DEFINITION. What grants and refusals of credit let writes do (R73, R135 to R137), the waiting queue, and the recompute of
the ceiling with its consequences (R13, R133, R136, R139). -/

namespace Sys2Proof.Machine

/-- A write whose credit is settled goes on: its data is read, or its zeros move. -/
def State.writeGo (s : State) (h : Nat) : State := match s.cmd? h with
  | none => s
  | some c =>
    let s := s.setCmd { c with ph := .moving }
    if Ent.opc c.ent = 0x02 then
      c.todo.foldl (fun s k => ((segSlice c.segs (4096 * k) 4096).foldl (fun (p : State × Nat) e =>
        (p.1.tryRead ⟨c.f, e.1, e.2, .part h k p.2 e.2⟩, p.2 + e.2)) (s, 0)).1) s
    else (c.todo.foldl (fun s k => s.moveBlk h k) s).writeEnd h

/-- Admit a write that has passed its checks (R73, R135 to R137). -/
def State.writeAdmit (s : State) (c : Cmd) : State :=
  let h := c.h
  let s := s.setCmd { c with ph := .credit, since := s.now }
  let need := s.needCredit c
  if s.wbOn = false ∧ s.gate ≠ Gate.pfd then (s.goWt h).writeGo h
  else if need.isEmpty ∧ s.gate = Gate.metered then (s.updCmd h fun c => { c with credited := true }).writeGo h
  else if need.isEmpty ∧ s.gate = Gate.cold then (s.goWt h).writeGo h
  else match s.tlAsk h need false with
    | (.granted, s) => (s.updCmd h fun c => { c with credited := true }).writeGo h
    | (.refused, s) => (s.goWt h).writeGo h
    | (.waits, s) => s

/-- A waiting request is answered: its command goes on, early or write-through. -/
def State.tlAnswer (s : State) (q : TReq) (ok : Bool) : State :=
  let s := if ok then s.tlReserve q.h q.blks else s
  match s.cmd? q.h with
  | none => s.tlRelease q.h
  | some c =>
    if c.log.isSome then
      if q.alone then ((if ok then s else s.refuse q.h).appendMove q.h) else s.appendCredit q.h ok
    else if q.alone then q.blks.foldl (fun s k => s.moveBlk q.h k) (if ok then s else s.goWt q.h)
    else if ok then (s.updCmd q.h fun c => { c with credited := true }).writeGo q.h
    else (s.goWt q.h).writeGo q.h

def execCreditWaitGrant (s : State) : Out :=
  .next <| match s.tl.waitQ with
    | [] => s
    | q :: t =>
      if s.tlFits q.blks.length then (State.bump { s with tl.waitQ := t } Reg.TL_WAITED).tlAnswer q true else s

def State.tlWaitUs (s : State) : Nat := min 10000 (s.fld Reg.TL_WAIT 13 0)

def execCreditWaitTimeout (s : State) : Out :=
  .next <| if s.gate = Gate.pfd then s
    else match s.tl.waitQ.find? fun q => s.due q.since s.tlWaitUs with
      | some q => (State.bump { s with tl.waitQ := s.tl.waitQ.erase q } Reg.TL_TIMEOUTS).tlAnswer q false
      | none => s

/-- Every waiting request is refused when the gate enters CLOSED_COLD (R136). -/
def State.tlRefuseAll (s : State) : State :=
  let q := s.tl.waitQ
  q.foldl (fun s x => (s.bump Reg.TL_REFUSED_NOW).tlAnswer x false) { s with tl.waitQ := [] }

/-- Recompute the ceiling and act on it: refusals when the gate turns cold, and the pressure trigger. -/
def State.tlUpdate (s : State) : State :=
  let s := s.tlRecompute
  let s := if s.gate = Gate.cold then s.tlRefuseAll else s
  s.pressure


/-! ### Switching write-back off (R84) -/

/-- A write or append in hand that its credit would have let complete early: it completes write-through from now on. -/
def Cmd.early (c : Cmd) : Bool :=
  isPf0 c.f && !c.wt && (c.ph == .moving || (c.log.isSome && c.ph == .data)) && (c.credited || c.log.isSome)

/-- A write-through command goes on without the credit it waited for. -/
def State.tlLeave (s : State) (q : TReq) : State := match s.cmd? q.h with
  | none => s
  | some c =>
    if c.log.isSome then (if q.alone then s.appendMove q.h else s.appendSettled q.h)
    else if q.alone then q.blks.foldl (fun s k => s.moveBlk q.h k) s
    else s.writeGo q.h

/-- Writes in hand turn write-through when write-back goes off: those moving give their credit back, and those that wait for
credit, unless the gate is CLOSED_PFD, stop waiting (log entry 47). -/
def State.wbDrop (s : State) : State :=
  let s := (s.cmds.filter Cmd.early).foldl (fun s c => (s.tlRelease c.h).goWt c.h) s
  if s.gate = Gate.pfd then s
  else
    let q := s.tl.waitQ
    q.foldl (fun s x => (s.goWt x.h).tlLeave x) { s with tl.waitQ := [] }

/-- Clear LD_CTRL.WB (R84). -/
def State.wbClear (s : State) : State :=
  let s := ((s.setFlag Reg.LD_CTRL 0 false).setFlag Reg.LD_STATUS 1 true).wbDrop
  let l := s.framesIn fun f => (f.state == Fs.filling || f.state == Fs.ready) && f.hasDirty
  (l.foldl (fun s n => s.toReady n 0) s).wtCheck

def execLdWbClear (s : State) : Out := .next <| if s.wbOn then s.wbClear else s

/-- From PFD on, waiting time stands still (R137). -/
def State.tlFreeze (s : State) : State :=
  { s with tl.waitQ := s.tl.waitQ.map fun q => { q with since := s.now - q.since } }

/-! ### Learning (R141 to R145) -/

def matVec (m : List (List Rat)) (v : List Rat) : List Rat :=
  m.map fun r => (List.zipWith (· * ·) r v).foldl (· + ·) 0

/-- One step of recursive least squares with forgetting factor 1,023/1,024 on x = (1, w, r) and y = P_in. -/
def rlsStep (theta : List Rat) (cov : List (List Rat)) (x : List Rat) (y : Rat) : List Rat × List (List Rat) :=
  let lam : Rat := 1023 / 1024
  let px := matVec cov x
  let den := lam + (List.zipWith (· * ·) x px).foldl (· + ·) 0
  let g := px.map (· / den)
  let e := y - (List.zipWith (· * ·) x theta).foldl (· + ·) 0
  (List.zipWith (fun a b => a + b * e) theta g,
   (List.range 3).map fun i => (List.range 3).map fun j =>
     ((cov.getD i []).getD j 0 - g.getD i 0 * px.getD j 0) / lam)

/-- May a window be used (R141)? Its conditions have held for its 64 ms: the last charging sample, LEARN_EN = 0 or PFD, and the
entry to HOLD lie before it. -/
def State.learnOk (s : State) (m : LearnSample) : Bool :=
  s.flag Reg.TL_CTRL 1 && !s.pfd && s.mwState == 5 && !s.flag Reg.GA_STATUS 2 && !m.memberChanged && !m.vinMoved &&
  s.due s.tl.learnAt 64000 && s.due s.mw.at_ 64000

/-- Store learned value i in the Keep. -/
def State.lrnPut (s : State) (i v : Nat) : State := s.kwStore (Config.settingsPage (lrnReg i)) (lrnReg i) (sat32 v)

/-- Has a value changed by more than 1 %? -/
def moved (old v : Nat) : Bool := decide (100 * (max old v - min old v) > old)

/-- The Keep takes the learned values (R145): when a used value has changed by more than 1 % since the last write, and at most once
in 10 minutes. -/
def State.lrnStore (s : State) : State :=
  let due : Bool := match s.tl.lrnAt with
    | some t => s.due t 600000000
    | none => true
  if due = true ∧ (List.range 5).any (fun i => s.tl.lrn.getD i 0 != 0) ∧
      (List.range 5).any (fun i => moved (s.tl.lrnW.getD i 0) (s.tl.use.getD i 0)) then
    let s := (List.range 5).foldl (fun s i => if s.tl.lrn.getD i 0 = 0 then s else s.lrnPut i (s.tl.lrn.getD i 0)) s
    { s with tl.lrnW := s.tl.use, tl.lrnAt := some s.now }
  else s

/-- Learned e_byte and P_base are published after 256 windows whose w values span 2,000 MB/s (R142). -/
def State.lrnPublish (s : State) : State := match s.tl.wSpan with
  | none => s
  | some (lo, hi) =>
    if s.tl.used < 256 ∨ hi < lo + 2000000000 then s
    else { s with tl.lrn := (s.tl.lrn.set 0 (floorQ (s.tl.theta.getD 1 0 * 1000000000))).set 1 (floorQ (s.tl.theta.getD 0 0)) }

/-- A window that may be used enters the fit (R142). -/
def State.lrnTake (s : State) (m : LearnSample) : State :=
  let s := (s.setFlag Reg.TL_STATUS 8 false).bump Reg.TL_WINDOWS
  let cov := s.tl.cov.getD ((List.range 3).map fun i => (List.range 3).map fun j =>
    if i = j then Config.rlsStart s.free else 0)
  let (th, cov) := rlsStep s.tl.theta cov [1, (m.w : Rat), (m.r : Rat)] (m.pin : Rat)
  let span := match s.tl.wSpan with
    | none => (m.w, m.w)
    | some (a, b) => (min a m.w, max b m.w)
  { s with tl.theta := th, tl.used := s.tl.used + 1, tl.wSpan := some span
           free := if s.tl.cov.isSome then s.free else s.free + 1
           tl.cov := some cov }

def execCeilingRecompute (s : State) : Out := .next s.tlUpdate.lrnStore

def execLearnWindow (m : LearnSample) (s : State) : Out :=
  .next <| if !s.learnOk m then s.setFlag Reg.TL_STATUS 8 true else (s.lrnTake m).lrnPublish.tlUpdate.lrnStore

/-- Clear every learned value (R145). -/
def State.relearn (s : State) : State :=
  let s := (List.range 5).foldl (fun s i => s.lrnPut i 0) s
  State.tlUpdate { s with tl.theta := [0, 0, 0], tl.cov := none, tl.used := 0, tl.wSpan := none, tl.lrn := [0, 0, 0, 0, 0] }

def execRelearnModel (s : State) : Out := .next s.relearn

end Sys2Proof.Machine
end

