-- ==== Sys2Proof/Machine/TaskBase.lean ====
section
/-! DEFINITION. Tasks of the data plane: units of work over a stripe that read chunks, plan what they still need within
redundancy (R53, R55, R56, R78, R250, R260, R261, R263), write chunks with their tags (R36, R95) and flush members. -/

namespace Sys2Proof.Machine

/-! ### Bookkeeping -/

def State.task? (s : State) (t : Nat) : Option Task := s.md.tasks.find? fun x => x.id == t
def State.setTask (s : State) (x : Task) : State :=
  { s with md.tasks := s.md.tasks.map fun y => if y.id == x.id then x else y }
def State.updTask (s : State) (t : Nat) (f : Task → Task) : State :=
  { s with md.tasks := s.md.tasks.map fun y => if y.id == t then f y else y }

/-- Add a task; its identifier comes with it. -/
def State.addTask (s : State) (kind : TKind) (arr stripe off len : Nat) (phase : TPhase) : Nat × State :=
  let (t, s) := s.newH
  (t, { s with md.tasks := s.md.tasks ++
    [{ id := t, kind := kind, arr := arr, stripe := stripe, off := off, len := len, phase := phase, since := s.now }] })

/-- A task ends: it gives its stripe back and leaves every line it waits in. -/
def State.endTask (s : State) (t : Nat) : State :=
  let s := (s.loomDrop fun j => j.client == .task t).loomCancel t
  let s := s.unclaim t
  { s with md.tasks := s.md.tasks.filter fun y => y.id != t
           st.claimQ := s.st.claimQ.filter fun h => h.owner != t
           lg.reqs := s.lg.reqs.filter fun r => r.cont != .task t
           mp.wait := s.mp.wait.filter fun c => match c.client with
             | .read x _ _ => x != t
             | .write x _ => x != t
             | _ => true }

/-- Does a task mend blocks it names (R250, R260, R261)? -/
def TKind.fixes : TKind → Bool
  | .walk _ | .repair _ _ | .scrub => true
  | .hostRecon _ _ | .destage _ | .resync | .target _ | .targetEnd _ | .checkpoint | .copyBlk _ | .copyMove | .statePage _
  | .create _ | .delete _ | .volDelete _ _ | .load _ | .stream _ | .import_ _ => false

/-- Count Mender bytes of a port in its 10 ms window (R251). -/
def State.rateAdd (s : State) (k : TKind) (port bytes : Nat) : State :=
  if k.mender && !(k == .resync) then { s with md.rate := mapUpd s.md.rate port 0 (· + bytes) } else s

/-! ### Runs of blocks -/

/-- Split rising block numbers into runs: first block and length. -/
def runs : List Nat → List (Nat × Nat)
  | [] => []
  | x :: t => match runs t with
    | (y, n) :: u => if y = x + 1 then (x, n + 1) :: u else (x, 1) :: (y, n) :: u
    | [] => [(x, 1)]

/-! ### What a task holds and lacks -/

def Task.has (x : Task) (c o : Nat) : Bool := (mapGet? x.bufs (64 * c + o)).isSome
def Task.buf (x : Task) (c o : Nat) : List Byte := mapGetD x.bufs (64 * c + o) []
def Task.blks (x : Task) : List Nat := (List.range x.len).map (x.off + ·)

/-- Blocks of a cell a task lacks. -/
def Task.lacks (x : Task) (c : Nat) (l : List Nat) : List Nat := l.filter fun o => !x.has c o

/-- The readable copy of mirror chunk i on the port with the fewest commands outstanding, the lowest of equals (R31). -/
def State.bestCopy (s : State) (r : ArrayRec) (er : List Nat) (i : Nat) : Option Nat :=
  minBy (fun c => s.mpOut (r.port c)) (((List.range r.n).map fun c => i * r.n + c).filter fun c => !er.contains c)

/-- A copy of mirror chunk i whose block o the task holds. -/
def Task.copyOf (x : Task) (r : ArrayRec) (i o : Nat) : Option Nat :=
  ((List.range r.n).map fun c => i * r.n + c).find? fun c => !x.erased.contains c && x.has c o

/-- What a plan asks for: reads (cell, blocks), or nothing more within redundancy. -/
abbrev Plan := Option (List (Nat × List Nat))

/-- Reads a solve for the erased cells lacks (R56 steps 1 and 2); none beyond redundancy. -/
def reconPlan (x : Task) (r : ArrayRec) (l : List Nat) : Plan :=
  let ed := (List.range r.dw).filter fun c => x.erased.contains c
  let rows := ((List.range r.k).filter fun j => !x.erased.contains (r.dw + j)).take ed.length
  if rows.length < ed.length then none
  else
    let cells := ((List.range r.dw).filter fun c => !x.erased.contains c) ++ rows.map (r.dw + ·)
    some ((cells.map fun c => (c, x.lacks c l)).filter fun e => !e.2.isEmpty)

/-- Reads a mirror task lacks for blocks of chunks; none when every copy of one is erased. -/
def State.mirrorPlan (s : State) (x : Task) (r : ArrayRec) (want : List (Nat × List Nat)) : Plan :=
  want.foldl (fun (acc : Plan) w => match acc with
    | none => none
    | some l =>
      let miss := w.2.filter fun o => (x.copyOf r w.1 o).isNone
      if miss.isEmpty then some l
      else match s.bestCopy r x.erased w.1 with
        | none => none
        | some c => some (l ++ [(c, miss)])) (some [])

/-- The same, each chunk from its lowest-numbered copy that passes its checks (R263). -/
def lowPlan (x : Task) (r : ArrayRec) (want : List (Nat × List Nat)) : Plan :=
  want.foldl (fun (acc : Plan) w => match acc with
    | none => none
    | some l =>
      let miss := w.2.filter fun o => (x.copyOf r w.1 o).isNone
      if miss.isEmpty then some l
      else match ((List.range r.n).map fun c => w.1 * r.n + c).find? fun c => !x.erased.contains c with
        | none => none
        | some c => some (l ++ [(c, miss)])) (some [])

/-- Blocks of data chunk i a frame does not hold. -/
def Frame.invalid (f : Frame) (r : ArrayRec) (i : Nat) : List Nat := match mapGet? f.cur i with
  | none => List.range r.b
  | some x => (List.range r.b).filter fun o => x.blk o == 0

/-- Blocks of data chunk i a frame lacks below a limit of stripe bytes: what lies beyond a log stripe's records is zeros (R120). -/
def Frame.missing (f : Frame) (r : ArrayRec) (lim i : Nat) : List Nat :=
  (f.invalid r i).filter fun o => decide (4096 * (i * r.b + o) < lim)

/-- Are all blocks a frame lacks taken as zeros: an UNWRITTEN stripe, a stream's LOG frame, a restored FIRST frame (R43, R120,
R168)? -/
def Frame.zeroFill (f : Frame) (prev : Nat) : Bool := prev == Sst.unwritten || f.stream.isSome || f.first

/-- Span of a set of blocks: first and length. -/
def spanOf (l : List Nat) : Nat × Nat := match l with
  | [] => (0, 0)
  | x :: t => (t.foldl min x, t.foldl max x + 1 - t.foldl min x)

/-- Blocks a destage lacks in chunks it cannot read directly. -/
def Frame.needSolve (f : Frame) (r : ArrayRec) (lim : Nat) (x : Task) : List Nat :=
  (List.range r.dw).flatMap fun i => if x.erased.contains i then x.lacks i (f.missing r lim i) else []

/-- What a task still has to read (R78, R250, R260, R261, R263, R275). -/
def State.plan (s : State) (x : Task) (r : ArrayRec) : Plan :=
  let l := x.blks
  match x.kind with
  | .hostRecon _ _ =>
    if x.prev = Sst.resyncDue then none
    else if r.mirror then s.mirrorPlan x r [(x.left.headD 0, l)] else reconPlan x r l
  | .destage n => match s.frame? n with
    | none => some []
    | some f =>
      let lim := s.logLimit f r
      if f.zeroFill x.prev then some []
      else if r.mirror then
        let want := (List.range r.dw).map fun i => (i, f.missing r lim i)
        if x.prev = Sst.resyncDue then lowPlan x r want else s.mirrorPlan x r want
      else
        let direct := ((List.range r.dw).filter fun i => !x.erased.contains i).map fun i => (i, x.lacks i (f.missing r lim i))
        let solve := f.needSolve r lim x
        if solve.isEmpty then some (direct.filter fun e => !e.2.isEmpty)
        else if x.prev = Sst.resyncDue ∨ s.hamperOpen x.arr x.stripe then none
        else
          let (o, n) := spanOf solve
          match reconPlan x r ((List.range n).map (o + ·)) with
          | none => none
          | some p => some ((direct.map (fun e => (e.1, e.2.filter fun b => !(p.any fun q => q.1 == e.1 && q.2.contains b))) ++ p).filter
              fun e => !e.2.isEmpty)
  | .walk _ =>
    if x.prev = Sst.resyncDue then resyncPlan s x r l
    else if x.prev = Sst.degraded then allPlan x r l
    else if r.mirror then
      s.mirrorPlan x r (((List.range r.dw).filter fun i => (List.range r.n).any fun c => x.erased.contains (i * r.n + c)).map
        fun i => (i, l))
    else reconPlan x r l
  | .repair _ _ | .scrub =>
    allPlan x r l
  | .resync => resyncPlan s x r l
  | .copyBlk _ | .copyMove | .statePage _ | .create _ | .delete _ | .volDelete _ _ | .target _ | .targetEnd _
  | .checkpoint | .load _ | .stream _ | .import_ _ => some []
where
  /-- every chunk on working positions (R260, R261) -/
  allPlan (x : Task) (r : ArrayRec) (l : List Nat) : Plan :=
    if beyond r x.prev x.erased then none
    else some (((List.range r.w).filter (fun c => !x.erased.contains c)).map (fun c => (c, x.lacks c l)) |>.filter
      fun e => !e.2.isEmpty)
  /-- resync reads every data chunk, or the lowest copy that passes (R263) -/
  resyncPlan (_s : State) (x : Task) (r : ArrayRec) (l : List Nat) : Plan :=
    if r.mirror then
      (List.range r.dw).foldl (fun (acc : Plan) i => match acc with
        | none => none
        | some p => match ((List.range r.n).map fun c => i * r.n + c).find? fun c => !x.erased.contains c with
          | none => none
          | some c => let m := x.lacks c l; if m.isEmpty then some p else some (p ++ [(c, m)])) (some [])
    else if (List.range r.dw).any x.erased.contains then none
    else some (((List.range r.dw).map fun c => (c, x.lacks c l)).filter fun e => !e.2.isEmpty)

/-! ### Member commands of a task -/

/-- Issue a member command of a task. -/
def State.taskCmd (s : State) (t : Nat) (c : MCmd) : State :=
  match s.task? t with
  | none => s
  | some x => ((s.setTask { x with outst := x.outst + 1 }).rateAdd x.kind c.port (4096 * c.n)).mpIssue c

/-- Read runs of blocks of a cell. -/
def State.taskRead (s : State) (t : Nat) (r : ArrayRec) (stripe cell : Nat) (l : List Nat) : State :=
  let port := r.port (r.cellPos stripe cell)
  (runs l).foldl (fun s e => s.taskCmd t (mcmd port .read (r.lba stripe e.1) e.2 (.read t cell e.1))) s

/-- Write blocks at a position of a task. -/
def State.taskWrite (s : State) (t port lba p : Nat) (op : MOp) (data tags : List (List Byte)) : State :=
  s.taskCmd t { mcmd port op lba data.length (.write t p) with data := data, tags := tags }

/-- Flush the members at the positions a predicate names that have a volatile cache (R273). -/
def State.taskFlush (s : State) (t : Nat) (r : ArrayRec) (ps : List Nat) : State :=
  (ps.filter fun p => (s.port (r.port p)).vwc && !(s.port (r.port p)).failed).foldl (fun s p =>
    s.taskCmd t (mcmd (r.port p) .flush 0 0 (.write t p))) s

/-- Does a task wait for no member command? -/
def State.idleTask (s : State) (t : Nat) : Bool := match s.task? t with
  | some x => x.outst == 0
  | none => false

/-! ### Data of a stripe write -/

/-- Block o of a cell as a whole-stripe write has it: from the frame's slots, or from the task's buffers. -/
def State.cellBlk (s : State) (x : Task) (r : ArrayRec) (cell o : Nat) : List Byte := match x.kind with
  | .destage n => match s.frame? n with
    | none => []
    | some f =>
      if !r.mirror && decide (cell ≥ r.dw) then s.memN (mapGetD f.par (cell - r.dw) 0 + 4096 * o) 4096
      else match mapGet? f.cur (r.chunkOf cell) with
        | some z => s.memN (z.addr + 4096 * o) 4096
        | none => []
  | _ =>
    if r.mirror then match x.copyOf r (cell / r.n) o with
      | some c => x.buf c o
      | none => []
    else x.buf cell o

/-- Data and tags of blocks of a cell under a GEN. -/
def State.cellOut (s : State) (x : Task) (r : ArrayRec) (cell gen : Nat) (l : List Nat) : List (List Byte) × List (List Byte) :=
  let d := l.map fun o => bytesAt (s.cellBlk x r cell o) 0 4096
  (d, (l.zip d).map fun e => s.dataTag x.arr r x.stripe cell e.1 gen e.2)

/-- Write blocks of cells (cell, blocks) under a GEN. -/
def State.taskCells (s : State) (t : Nat) (r : ArrayRec) (gen : Nat) (cells : List (Nat × List Nat)) : State :=
  match s.task? t with
  | none => s
  | some x => cells.foldl (fun s e => (runs e.2).foldl (fun s q =>
      let (d, g) := s.cellOut x r e.1 gen ((List.range q.2).map (q.1 + ·))
      let p := r.cellPos x.stripe e.1
      s.taskWrite t (r.port p) (r.lba x.stripe q.1) p .write d g) s) s

/-! ### Loom jobs of a task -/

/-- Submit a job of a task. A read reconstruction has COLLECT set, and names its command (R62). -/
def State.taskLoom (s : State) (t q op d k erase zmask off len : Nat) (crc second : Bool) (src dst : NMap LLoc) : State :=
  let (h, s) := s.newH
  let x := s.task? t
  let host := match x.map (·.kind) with
    | some (.hostRecon c _) => some c
    | _ => none
  s.loomSubmit { id := h, q := q, op := op, d := d, k := k, erase := erase, zero := zmask, len := len, crcOut := crc,
                 tag := off, src := src, dst := dst, result := 0, crcList := 0, client := .task t, second := second,
                 bad := false, at_ := 0, parked := false, collect := host.isSome, handle := host.getD 0
                 context := (x.map fun y => y.stripe % 2 ^ 24 + y.arr % 4 * 2 ^ 24).getD 0 }

/-- Locations in a task's buffers for cells. -/
def bufLocs (t off : Nat) (cells : List Nat) : NMap LLoc := cells.foldl (fun m c => mapSet m c (.buf t c off)) []

/-- RECON of every erased cell of a parity task over a span. -/
def State.taskRecon (s : State) (t q off len : Nat) (second : Bool) : State := match s.task? t with
  | none => s
  | some x => match s.arr? x.arr with
    | none => s
    | some r =>
      let cells := List.range r.w
      (s.updTask t fun x => { x with phase := .recon }).taskLoom t q Op.recon r.dw r.k (toMask x.erased) 0 off len false
        second (bufLocs t off (cells.filter fun c => !x.erased.contains c)) (bufLocs t off x.erased)

end Sys2Proof.Machine
end

