-- ==== Sys2Proof/Machine/Policy.lean ====
section
/-! DEFINITION. Failures and what follows: parking frames (R79), errors beyond redundancy (R255 to R258), failing members
(R245, R246), rebuild targets (R247 to R249), moving Ledger copies (R103), the repair queue (R259) and the DONE bits of a
restore (R162, R167). -/

namespace Sys2Proof.Machine

/-! ### The hamper directory (R162) -/

def hmDir : Nat := 0xD8000
def State.dirState (s : State) : Nat := s.keepNat hmDir 1
def State.dirId (s : State) : Nat := s.keepNat (hmDir + 8) 8

/-- Write STATE with IMAGE_ID[47:0] in the same word. -/
def State.dirPut (s : State) (st : Nat) : State := s.keepWord hmDir (st + (s.dirId % 2 ^ 48) * 2 ^ 16)

namespace Ds
def empty : Nat := 0
def dumping : Nat := 1
def sealed : Nat := 2
def restoring : Nat := 3
def superseded : Nat := 4
def retired : Nat := 5
end Ds

/-- The DONE bitmap is cleared: each of its words that is not zero is written. -/
def State.clearDone (s : State) : State :=
  ((List.range 1024).filter fun i => s.keepNat (hmDir + 0x400 + 8 * i) 8 != 0).foldl
    (fun s i => s.keepWord (hmDir + 0x400 + 8 * i) 0) s


/-- Dump entries are retired (R163). -/
def State.retireDump (s : State) : State :=
  { s with lg.live := s.lg.live.filter fun e => e.kind != Lk.dumpOpen && e.kind != Lk.dumpSeal }

/-- The image of the directory is done with: the bitmap is cleared before STATE is written, and the dump entries are retired. -/
def State.dirEnd (s : State) (st : Nat) : State := (s.clearDone.dirPut st).retireDump

/-- The restored image is RETIRED (Table 08-8 step 8). -/
def State.rsRetire (s : State) : State :=
  State.setFld { s.dirEnd Ds.retired with hm.restore := none, hm.importing := false } Reg.HM_STATUS 2 0 0

def State.isDone (s : State) (f : Nat) : Bool := bit (s.keepNat (hmDir + 0x400 + 8 * (f / 64)) 8) (f % 64)

/-- Does a restore hold a HAMPERED stripe: has the image a record of it that is not done (R44)? -/
def State.rsHolds (s : State) (a stripe : Nat) : Bool := match s.hm.restore with
  | none => false
  | some r => r.slots.any fun d => d.arr == a && d.stripe == stripe && !s.isDone d.frame

/-- Set a DONE bit; when every frame record is done, the image is RETIRED (Table 08-8 steps 7 and 8). -/
def State.hmDone (s : State) (f : Nat) : State :=
  let a := hmDir + 0x400 + 8 * (f / 64)
  let s := s.keepWord a (setBits (s.keepNat a 8) (f % 64) (f % 64) 1)
  match s.hm.restore with
  | none => s
  | some r =>
    let done := ((List.range r.frames).filter s.isDone).length
    let s := s.setReg Reg.HM_PROGRESS done
    if done ≥ r.frames ∧ r.step = 8 then s.rsRetire else s

/-- Frames that a deletion discards go; those in FILLREAD and DESTAGING wait for their CLOSE. A frame restored from an image has its
record done (R162). -/
def State.framesGo (s : State) (p : Frame → Bool) : State :=
  let l := s.ld.frames.filter fun e => p e.2 && !e.2.busy
  l.foldl (fun s e => match e.2.img with
    | some k => (s.dropFrame e.1).hmDone k
    | none => s.dropFrame e.1) s

/-! ### Ending commands with a status -/

/-- A command in hand ends with a status; its reconstructions end with it. -/
def State.failCmd (s : State) (h st : Nat) : State := match s.cmd? h with
  | none => s
  | some c =>
    let s := (s.md.tasks.filter fun t => match t.kind with
      | .hostRecon x _ => x == h
      | _ => false).foldl (fun s t => s.endTask t.id) s
    let s := s.giveUp h
    match c.log with
    | some op => (s.updStream op.stream fun x => x.drop h op).finishSt Rank.packer c st
    | none => s.finishSt (Rank.larder (Ent.tgt c.ent)) c st

/-- Is a command being executed (neither waiting for its checks nor for its own data)? -/
def Cmd.running (c : Cmd) : Bool := c.ph == .credit || c.ph == .moving || c.ph == .waiting || c.log.isSome

/-! ### Parking (R79) -/

/-- HELD blocks of a parked frame are discarded, or turn DIRTY where they came from a dump image (R167). -/
def Slot.park (x : Slot) (restored : Bool) : Slot :=
  { x with blks := x.blks.map fun b => if b == Bk.held then (if restored then Bk.dirty else Bk.invalid) else b }

/-- A frame enters PARKED; write-through commands that wait for it end with a status. -/
def State.parkFrame (s : State) (n st : Nat) (faulted : Bool) : State := match s.frame? n with
  | none => s
  | some f =>
    let w := fun (c : Cmd) => isPf0 c.f && c.wt && c.running &&
      (c.waits.contains (f.arr, 2 * f.stripe) || c.waits.contains (f.arr, 2 * f.stripe + 1))
    let s := if faulted then s else (s.cmds.filter w).foldl (fun s c => s.failCmd c.h st) s
    let k := f.img.isSome
    let s := s.setFrame n { f with state := Fs.parked, faulted := faulted, par := [], wt := faulted && f.wt
                                   wtNext := faulted && f.wtNext, img := if faulted then f.img else none
                                   cur := if faulted then f.cur else f.cur.map fun e => (e.1, e.2.park k)
                                   succ := if faulted then f.succ else f.succ.map fun e => (e.1, e.2.park k) }
    match (if faulted then none else f.img) with
    | some r => (s.hmDone r).tlOver
    | none => s

/-- Blocks of a successor slot laid over the current one: a block that takes the place of a DIRTY one is DIRTY (R72). -/
def State.slotOver (s : State) (x y : Slot) : Slot × State :=
  let l := (List.range y.blks.length).filter fun o => y.blk o != 0
  (l.foldl (fun z o => z.set o (if x.blk o = Bk.dirty then Bk.dirty else y.blk o)) x,
   l.foldl (fun s o => s.memPut (x.addr + 4096 * o) (s.memN (y.addr + 4096 * o) 4096)) s)

/-- Successor slots of a frame laid over its current slots. -/
def State.slotsOver (s : State) (f : Frame) (cur : NMap Slot) : NMap Slot × State :=
  f.succ.foldl (fun (p : NMap Slot × State) e => match mapGet? p.1 e.1 with
    | some x => let (z, s) := p.2.slotOver x e.2; (mapSet p.1 e.1 z, s)
    | none => (mapSet p.1 e.1 e.2, p.2)) (cur, s)

/-- Waits for blocks in successor slots of a stripe become waits for its frame. -/
def State.waitsBack (s : State) (a stripe : Nat) : State :=
  { s with cmds := s.cmds.map fun c => { c with
      waits := (c.waits.map fun w => if w = (a, 2 * stripe + 1) then (a, 2 * stripe) else w).eraseDups } }

/-- A frame whose destage does not go on takes up the blocks written meanwhile, so that each block has one place again (R80). An
earlier lap of a log stream turns to zeros. -/
def State.frameMerge (s : State) (n : Nat) : State := match s.frame? n with
  | none => s
  | some f =>
    let s := match (if f.lap then s.arr? f.arr else none) with
      | some r => s.logZero f r 0
      | none => s
    let (cur, s) := s.slotsOver f f.cur
    (s.setFrame n { f with cur := cur, succ := [], par := [], wt := f.wt || f.wtNext, wtNext := false, resync := false
                           lap := false }).waitsBack f.arr f.stripe

/-- The class the triggers of Table 04-4 give a frame that goes back to the queue. -/
def State.frameClass (s : State) (f : Frame) : Nat :=
  if f.wt || (!s.wbOn && f.hasDirty) then 0
  else min f.cls (match s.arr? f.arr with
    | some r => if f.full r then 1 else 2
    | none => 2)

/-- A frame goes back to READY, in class 0 or in the class its triggers give (R412). -/
def State.frameAgain (s : State) (n : Nat) (zero : Bool) : State :=
  let s := s.frameMerge n
  match s.frame? n with
  | none => s
  | some f => (s.setFrame n { f with state := Fs.filling }).toReady n (if zero then 0 else s.frameClass f)

/-- PARKED frames of an array, or the one of a stripe, re-enter READY in class 0. Those a Loom FAULT parked stay. -/
def State.unpark (s : State) (p : Frame → Bool) : State :=
  (s.framesIn fun f => f.state == Fs.parked && !f.faulted && p f).foldl (fun s n => s.frameAgain n true) s

/-! ### Cancelling tasks -/

/-- A stripe task is dropped: a stripe it held REBUILDING returns to what it was; a resync in mid-write leaves RESYNC_DUE with
the GEN of the cut write. -/
def State.cancelTask (s : State) (t : Nat) : State := match s.task? t with
  | none => s
  | some x =>
    let s := if s.sstState x.arr x.stripe = Sst.rebuilding ∧ s.holder x.arr x.stripe = some t then
        s.setSstState x.arr x.stripe x.prev
      else if x.kind = .resync ∧ s.sstState x.arr x.stripe = Sst.open_ then
        s.setSstGen x.arr x.stripe Sst.resyncDue (x.gen % 2 ^ 24)
      else s
    s.endTask t

def TKind.stripeTask : TKind → Bool
  | .hostRecon _ _ | .destage _ | .walk _ | .repair _ _ | .scrub | .resync => true
  | .copyBlk _ | .copyMove | .statePage _ | .create _ | .delete _ | .volDelete _ _ | .target _ | .targetEnd _
  | .checkpoint | .load _ | .stream _ | .import_ _ => false

/-! ### Words of the checkpoint region (Table 11-5) -/

def ckBase (a : Nat) : Nat := 0xD4000 + 0x200 * a

/-- Write a position word; the typed record follows it. -/
def State.putPos (s : State) (a p : Nat) (w : Option PosWord) : State := match w with
  | some x =>
    { s.keepWord (ckBase a + 0x20 + 8 * p) (x.join % 2 ^ 40 + x.target % 32 * 2 ^ 40 + b2n x.inPlace * 2 ^ 45 + 2 ^ 63) with
      md.pos := mapSet s.md.pos (32 * a + p) x }
  | none =>
    { s.keepWord (ckBase a + 0x20 + 8 * p) (s.keepNat (ckBase a + 0x20 + 8 * p) 8 % 2 ^ 63) with
      md.pos := mapErase s.md.pos (32 * a + p) }

/-- Write the WALK word. -/
def State.putWalk (s : State) (a walked : Nat) (active : Bool) : State :=
  s.keepWord (ckBase a) (walked % 2 ^ 40 + b2n active * 2 ^ 63)

def State.walk (s : State) (a : Nat) : Walk := mapGetD s.md.walks a {}
def State.setWalk (s : State) (a : Nat) (w : Walk) : State := { s with md.walks := mapSet s.md.walks a w }

/-- Positions of an array with a target. -/
def State.targets (s : State) (a : Nat) : List Nat := (List.range 32).filter (s.posTarget a)

/-- Failed positions with no target. -/
def State.orphans (s : State) (a : Nat) : List Nat := match s.arr? a with
  | none => []
  | some r => (List.range r.w).filter fun p => bit r.failed p && !s.posTarget a p

/-! ### Beyond redundancy (Table 11-7) -/

/-- An array enters OFFLINE. -/
def State.goOffline (s : State) (a stripe cause : Nat) : State := match s.arr? a with
  | none => s
  | some r =>
    if r.state ≠ 1 then s
    else
      let s := s.keepWord (ckBase a + 0x10) (stripe % 2 ^ 24 + cause * 2 ^ 24 + 2 ^ 63)
      let s := s.setArr a { r with state := 2 }
      let s := (s.md.tasks.filter fun t => t.arr == a && t.kind.stripeTask).foldl (fun s t => s.cancelTask t.id) s
      let s := (s.cmds.filter fun c => isPf0 c.f && c.running && s.cmdArr c == some a).foldl
        (fun s c => s.failCmd c.h St.arrayOffline) s
      let s := (s.framesIn fun f => f.arr == a && f.state != Fs.clean && f.state != Fs.parked).foldl
        (fun s n => s.parkFrame n St.arrayOffline false) s
      let w := s.walk a
      let s := s.setWalk a { w with active := false, issued := w.ckWalked, walked := w.ckWalked, finished := [] }
      let s := { s with md.scrubs := mapErase s.md.scrubs a }
      s.noteD Rank.mender 0x05 Sev.critical a (stripe % 2 ^ 24) 0

/-- Ask for the LOST entry of a stripe, unless one is already asked for; its frame parks. -/
def State.goLost (s : State) (a stripe mask : Nat) : State :=
  if s.sstState a stripe = Sst.lost ∨ s.lg.reqs.any (fun r => r.arr == a && r.stripe == stripe && r.kind == Lk.lost) then s
  else s.lgAsk { unit := 1, kind := Lk.lost, arr := a, stripe := stripe, gen := s.genNow a stripe, mask := mask,
                 frame := 0xFFFFF, dump := [], cont := .lost, counted := false }

/-- Apply the policy to a stripe beyond redundancy (R256): OFFLINE in SERVICE, LOST in the other modes. The status that
follows for commands comes with it. -/
def State.beyondHit (s : State) (a stripe mask cause : Nat) : Nat × State :=
  if s.mode = 1 then (St.arrayOffline, s.goOffline a stripe cause)
  else (St.lostData, s.goLost a stripe mask)

/-- Mask of the positions of erased cells. -/
def cellMask (r : ArrayRec) (stripe : Nat) (cells : List Nat) : Nat :=
  toMask ((cells.map fun c => r.cellPos stripe c).eraseDups)

/-! ### The repair queue (R259) -/

/-- Queue a repair, or drop and count it when the queue is full. A CONSISTENT stripe with a chunk found wrong becomes DEGRADED
(Table 02-9; R259: entries lost at reset leave their stripes DEGRADED; log entry 115). -/
def State.repAdd (s : State) (a stripe pos map : Nat) : State :=
  let s := if s.sstState a stripe = Sst.consistent then s.setSstState a stripe Sst.degraded else s
  if s.md.repq.any fun e => e.arr == a && e.stripe == stripe && e.pos == pos && (e.map ||| map) == e.map then s
  else if s.md.repq.length ≥ 256 then s.bump Reg.MD_REPQ_DROP
  else { s with md.repq := s.md.repq ++ [⟨a, stripe, pos, map⟩] }

/-! ### Ledger copies (R103) -/

/-- Lowest position that may take a copy: not failed (or a given target), not holding the other, not excluded. -/
def State.copyChoice (s : State) (a : Nat) (r : ArrayRec) (target : Option Nat) : Option Nat :=
  (List.range r.w).find? fun p => (!bit r.failed p || target == some p) && !r.copies.contains p &&
    !bit (mapGetD s.lg.excl a 0) p

/-- Start moving (or restoring) copy A or B of an array; its VALID bit is clear until step 4 of R103 records the new position (DESIGN
CHOICE, log entry 144). The move's task is begun by the next settling. -/
def State.copyMove (s : State) (a : Nat) (isB : Bool) (target : Option Nat) : State := match s.arr? a with
  | none => s
  | some r =>
    let r' := if isB then { r with copyB := none } else { r with copyA := none }
    let s := s.setArr a r'
    if (mapGet? s.lg.moving a).isSome then s
    else match s.copyChoice a r' target with
      | none => s
      | some p =>
        let s := { s with lg.moving := mapSet s.lg.moving a (p, isB) }
        ((s.addTask .copyMove a 0 0 0 (.step 0)).2).bump Reg.LG_MOVES

/-- Is a block of an array's copies on its way to the members? -/
def State.copyWriting (s : State) (a : Nat) (l : List Nat) : Bool :=
  s.md.tasks.any fun t => t.arr == a && l.any fun k => t.kind == .copyBlk k

/-- Tasks that waited for the end of a copy move go on; one whose own copy block is still being written goes on with that. -/
def State.copyFree (s : State) (a : Nat) : State :=
  { s with md.tasks := s.md.tasks.map fun x =>
      if x.arr == a && x.phase == .copyOpen && !s.copyWriting a x.left then
        { x with phase := match x.kind with
          | .target _ => .step 4
          | .import_ _ => .step 9
          | _ => .encode }
      else x }

/-- A Ledger copy on a position that fails moves to another one (R103). -/
def State.copiesLeave (s : State) (a p : Nat) : State := match s.arr? a with
  | some r =>
    if r.copyA = some p then s.copyMove a false none
    else if r.copyB = some p then s.copyMove a true none else s
  | none => s

/-- A move of a Ledger copy onto a position that fails starts again with another one (R103); where none qualifies, what waited for
it goes on. -/
def State.moveLeaves (s : State) (a p : Nat) : State := match mapGet? s.lg.moving a with
  | some (q, isB) =>
    if q = p then
      let s := ({ s with lg.moving := mapErase s.lg.moving a
                         md.tasks := s.md.tasks.filter fun t => !(t.arr == a && t.kind == TKind.copyMove) }).copyMove a isB none
      if (mapGet? s.lg.moving a).isSome then s else s.copyFree a
    else s
  | none => s

/-! ### Targets (R247 to R249) -/

/-- A port that leaves its position or the spares is unassigned: what its member failed for is past (R247). -/
def State.portFree (s : State) (port : Nat) : State := s.updPort port fun q => { q with failed := false }

/-- Member LBAs an array needs (R33). -/
def ArrayRec.needLbas (r : ArrayRec) : Nat := 32768 + r.count * r.b + r.h

/-- Stripes the walk of an array has issued: of an active walk, or of one that stopped at its checkpoint; none where there is no
walk (R249, R256). -/
def State.walkIssued (s : State) (a : Nat) : Option Nat :=
  let w := s.walk a
  let word := s.keepNat (ckBase a) 8
  if w.active then some w.issued else if bit word 63 then some (word % 2 ^ 40) else none

/-- A position takes a target: its word first, then the walk joins or starts; the regions before the data area follow. -/
def State.takeTarget (s : State) (a p port : Nat) (inPlace : Bool) : State :=
  let w := s.walkIssued a
  let s := s.putPos a p (some ⟨w.getD 0, port, inPlace⟩)
  let s := if w.isSome then s
    else (s.putWalk a 0 true).setWalk a { active := true, ckAt := s.now }
  let s := s.updPort port fun q => { q with failed := false }
  let s := s.updArr a fun r => { r with nguid := r.nguid.set p (s.port port).nguid }
  ((((s.addTask (.target p) a 0 0 0 (.step 0)).2).note Rank.mender 0x03 Sev.notice a).sbSync).tlUpdate

/-- May a spare serve an array now (R27, R33, R247)? -/
def State.spareFits (s : State) (a : Nat) (r : ArrayRec) (x : Spare) : Bool :=
  bit x.arrays a && !(s.port x.port).failed && decide ((s.port x.port).lbas ≥ r.needLbas) && (s.port x.port).meta_ == r.meta_

/-- A failed position looks for a target among the spares; one of an array being created takes none, for its creation ends (R48). -/
def State.chooseTarget (s : State) (a p : Nat) : State := match s.arr? a with
  | none => s
  | some r =>
    if r.state = 0 then s
    else match s.st.spares.find? fun e => s.spareFits a r e.2 with
      | some (k, x) =>
        let s := s.keepRec (Reg.ST_SPARE k) fun s => { s with st.spares := mapErase s.st.spares k }
        let s := (s.setArr a { r with pos := r.pos.set p x.port }).portFree (r.port p)
        s.takeTarget a p x.port false
      | none => s.note Rank.mender 0x02 Sev.warning a

/-- A target fails: its word is cleared and the position looks for another (Table 11-9). -/
def State.targetFail (s : State) (a p : Nat) : State :=
  let s := (s.md.tasks.filter fun t => t.arr == a && (t.kind == .target p || t.kind == .targetEnd p)).foldl
    (fun s t => s.endTask t.id) s
  (((s.putPos a p none).copiesLeave a p).moveLeaves a p).chooseTarget a p

/-! ### Failing a member (R245, R246) -/

/-- Failed positions beyond redundancy (R258). -/
def failedBeyond (r : ArrayRec) : Bool :=
  beyond r Sst.consistent ((List.range r.w).filter fun p => bit r.failed p)

/-- In SERVICE, every array with failed positions beyond redundancy enters OFFLINE (R258). -/
def State.offlineAll (s : State) : State := (List.range 4).foldl (fun s a => match s.arr? a with
  | some r => if failedBeyond r then s.goOffline a 0 7 else s
  | none => s) s

/-- A position of an array fails with its member. -/
def State.posFail (s : State) (a p port cause : Nat) : State :=
  let isTarget := s.posTarget a p
  let s := (s.updArr a fun r => { r with failed := r.failed ||| 1 <<< p }).tlUpdate
  let s := if isTarget then s else (s.copiesLeave a p).moveLeaves a p
  let s := if isTarget then s.targetFail a p else s.chooseTarget a p
  let s := s.noteD Rank.mender 0x01 Sev.fault port cause 0
  match s.arr? a with
  | some r => if failedBeyond r ∧ s.mode = 1 then s.goOffline a 0 7 else s
  | none => s

/-- The member of a port is failed: it takes no command, and it is counted and reported with its cause. -/
def State.memberGone (s : State) (port cause : Nat) : State :=
  let s := (s.updPort port fun q => { q with failed := true }).mpEndAll port
  (s.setReg Reg.MD_LASTFAIL (port + 256 * cause)).bump Reg.MD_MEMBER_FAILS

/-- A failed spare leaves the spares. -/
def State.spareFail (s : State) (port cause : Nat) : State :=
  let s := s.keepRec (Reg.ST_SPARE 0) fun s => { s with st.spares := s.st.spares.filter fun e => e.2.port != port }
  ((s.portFree port).tlUpdate).noteD Rank.mender 0x01 Sev.fault port cause 0

/-- What a failed member held: a position of an array, or a spare. FAULT follows. -/
def State.memberOut (s : State) (port cause : Nat) : State := match s.portPos port with
  | none => (s.spareFail port cause).sbSync
  | some (a, p) => (s.posFail a p port cause).sbSync

/-- A member port fails with a cause of Table 11-1, once. -/
def State.failMember (s : State) (port cause : Nat) : State :=
  if (s.port port).failed ∨ s.assigned port = false then s else (s.memberGone port cause).memberOut port cause

/-- Record a moment in a 60 s window and answer whether the count has reached a limit. -/
def winAdd (now n : Nat) (l : List Nat) : List Nat × Bool :=
  let l := now :: l.filter fun t => decide (now < t + 60000000)
  (l, decide (l.length ≥ n))

/-- A command timeout counts toward TIMEOUTS (R245 cause 2). -/
def State.countTmo (s : State) (port : Nat) : State :=
  let (l, hit) := winAdd s.now 3 (s.port port).tmos
  let s := s.updPort port fun q => { q with tmos := l }
  if hit then s.failMember port 2 else s

/-- A failed write or Flush counts toward WRITE_ERRORS (cause 6). -/
def State.countWerr (s : State) (port : Nat) : State :=
  let (l, hit) := winAdd s.now (max 1 (s.fld Reg.MD_FAIL 7 0)) (s.port port).werrs
  let s := (s.updPort port fun q => { q with werrs := l }).bump (Reg.MP_P_WRERR port)
  if hit then s.failMember port 6 else s

/-- An unrecovered read counts toward READ_ERRORS (cause 7). -/
def State.countRerr (s : State) (port : Nat) : State :=
  let (l, hit) := winAdd s.now (max 1 (s.fld Reg.MD_FAIL 15 8)) (s.port port).rerrs
  let s := (s.updPort port fun q => { q with rerrs := l }).bump (Reg.MP_P_RDERR port)
  if hit then s.failMember port 7 else s

end Sys2Proof.Machine
end

