-- ==== Sys2Proof/Machine/Reads.lean ====
section
/-! DEFINITION. Host reads: blocks from the Larder, from members with tag checks and deadlines, by reconstruction, or as zeros
(R31, R40, R43, R81, R250, R275, R342), and reading log records by sequence (R123, Table 15-5). -/

namespace Sys2Proof.Machine

/-! ### Places -/

/-- Place of block k of a read: a volume block, or block k of the log stripe being read. -/
def State.blkPlace (s : State) (c : Cmd) (k : Nat) : Option Place := match c.rd with
  | none => s.cmdPlace c k
  | some rd => match s.stream? rd.stream with
    | none => none
    | some x => match s.streamStripe x rd.stripe with
      | none => none
      | some (a, r, st) => some ⟨a, r, st, k / r.b, k % r.b⟩

/-- Cells of a stripe that wait for a repair, or are under one, where no tag can tell them (0-byte metadata): reads of such a
chunk are reconstructed (Table 02-9, DEGRADED and REBUILDING; log entry 130). -/
def State.namedCells (s : State) (a : Nat) (r : ArrayRec) (stripe : Nat) : List Nat :=
  if r.meta_ ≠ 0 then []
  else
    ((s.md.repq.filter fun e => e.arr == a && e.stripe == stripe && e.map != 0).map fun e => r.posCell stripe e.pos) ++
    ((s.md.tasks.filter fun t => t.arr == a && t.stripe == stripe && t.kind.fixes).flatMap fun t => t.bad.map (· / 64))

/-- Cells of a stripe that reads take for erased. -/
def State.erasedCells (s : State) (a : Nat) (r : ArrayRec) (stripe : Nat) : List Nat :=
  (s.failedCells a r stripe ++ s.namedCells a r stripe).eraseDups

/-- Cell of data chunk i that a read of it goes to now: the chunk itself, or the best copy of a mirror (R31). -/
def State.readCell (s : State) (p : Place) : Option Nat :=
  let er := s.erasedCells p.a p.r p.stripe
  if p.r.mirror then s.bestCopy p.r er p.i else if er.contains p.i then none else some p.i

/-- Can a chunk be had without one more cell (R275)? -/
def State.canRecon (s : State) (p : Place) (cell : Nat) : Bool :=
  s.sstState p.a p.stripe != Sst.resyncDue &&
  !beyond p.r (s.sstState p.a p.stripe) (cell :: s.erasedCells p.a p.r p.stripe)

/-- A block is in the Larder. -/
def State.larderHolds (s : State) (p : Place) : Bool := match s.frameOf p.a p.stripe with
  | some (_, f) => (f.serve p.i p.o).isSome
  | none => false

/-! ### Log records -/

/-- What a scan of a stripe's bytes has copied so far. -/
structure LogScan where
  want : Nat
  recs : Nat
  bytes : Nat
  first : Nat
  /-- bytes to write to the host buffer, and where they start -/
  out : List Byte
  /-- the read is over; the byte limit ended it -/
  stop : Bool
  small : Bool
deriving DecidableEq, Repr

/-- Copy the records of a stripe from a byte offset on (R123). -/
def logScan (bs : List Byte) (vis recLim byteLim : Nat) : Nat → Nat → LogScan → LogScan
  | 0, _, x => x
  | n + 1, off, x =>
    if x.stop then x
    else
      let seq := leAt bs off 8
      let len := leAt bs (off + 16) 4
      let ty := leAt bs (off + 22) 1
      let sz := recSize len
      if ty = 0 then x
      else if ty = 2 ∨ seq < x.want then logScan bs vis recLim byteLim n (off + sz) x
      else if seq > vis ∨ x.recs ≥ recLim then { x with stop := true }
      else if x.bytes + sz > byteLim then { x with stop := true, small := decide (x.recs = 0) }
      else logScan bs vis recLim byteLim n (off + sz)
        { x with want := seq + 1, recs := x.recs + 1, bytes := x.bytes + sz, first := if x.recs = 0 then seq else x.first
                 out := x.out ++ bytesAt bs off sz }

/-- The stripe of a stream that holds a SEQ. -/
def Stream.find (x : Stream) (seq : Nat) : Option (Nat × LogStripe) :=
  x.idx.find? fun e => e.2.records != 0 && decide (e.2.first ≤ seq) && decide (seq ≤ e.2.last)

/-- The SEQ a read goes on with where no stripe holds the one wanted (its stripe is LOST and gave no header): the next that some
stripe holds, or the one after VISIBLE. -/
def Stream.after (x : Stream) (seq : Nat) : Nat :=
  (x.idx.filter fun e => e.2.records != 0 && decide (seq < e.2.first)).foldl (fun m e => min m e.2.first) (x.vis + 1)

/-- A Log Read ends with what it has copied. With no record copied, bits 39 to 16 of RES1 are 0 (DESIGN CHOICE, log entry 58). -/
def State.logReadEnd (s : State) (c : Cmd) (rd : LogRd) (next st flags : Nat) : State :=
  let p0 := Ent.p0 c.ent
  let s := if (c.cflags ||| flags) &&& Cf.truncated ≠ 0 then s.bump Reg.SV_READ_TRUNC else s
  s.finish Rank.packer { c with
    status := st, res0 := next, res1 := rd.recs + min 0xFFFFFF (rd.first - p0) * 2 ^ 16, cflags := c.cflags ||| flags }

/-! ### Delivering blocks -/


/-- Data of block k reaches a READ's host buffer; the last one completes it, by the unit of a rank (R62, Table 14-6). -/
def State.readBlkEnd (s : State) (c : Cmd) (k : Nat) (data : List Byte) (rank : Nat) : State :=
  let s := s.hostWriteSegs c.f c.segs (4096 * k) (bytesAt data 0 4096)
  let c := { c with todo := c.todo.erase k }
  if c.todo.isEmpty then s.finish rank c else s.setCmd c

/-- Block k of a stripe in LOST: zeros, and LOST_DATA with the first offset in RES0 (R342). -/
def State.readLost (s : State) (c : Cmd) (k : Nat) : State :=
  let first := if c.status = St.lostData then min c.res0 k else k
  s.readBlkEnd { c with status := St.lostData, res0 := first } k [] (Rank.larder (Ent.tgt c.ent))

/-- The reconstruction of block k of a read starts, with cells known erased (R275, R40). It is begun by the next settling. -/
def State.startRecon (s : State) (h k : Nat) (p : Place) (er : List Nat) : State :=
  let (t, s) := s.addTask (.hostRecon h k) p.a p.stripe p.o 1 (.step 0)
  s.updTask t fun x => { x with left := [p.i], erased := (s.erasedCells p.a p.r p.stripe ++ er).eraseDups
                                prev := s.sstState p.a p.stripe, gen := s.sstGen p.a p.stripe }

/-- Read block k of a command from its member, with its deadline, or by reconstruction. The syndrome check R40 names for stripes whose
volume requests it is done on no read: the spec gives no volume field that requests it (DESIGN CHOICE, log entry 146). -/
def State.readMember (s : State) (c : Cmd) (k : Nat) (p : Place) : State := match s.readCell p with
  | none => s.startRecon c.h k p []
  | some cell =>
    let dl := match s.volOf p.a p.stripe with
      | some (_, v) => if v.deadline = 0 ∨ s.canRecon p cell = false then none else some (s.now + 100 * v.deadline)
      | none => none
    s.mpIssue { mcmd (p.r.port (p.r.cellPos p.stripe cell)) .read (p.r.lba p.stripe p.o) 1 (.host c.h k) with dl := dl }

/-- What a read finds at a block: data at hand, a LOST stripe, a wait for a HAMPERED or OPEN one, or the members. -/
inductive Found where
  | data (d : List Byte)
  | lost
  | hampered
  | member
deriving DecidableEq, Repr

/-- What a read finds at a block. A LOST stripe gives lost data, whatever a PARKED frame of it holds (R43, R79); else the Larder
comes first (R81). -/
def State.lookBlk (s : State) (p : Place) : Found × State :=
  if s.sstState p.a p.stripe = Sst.lost then (.lost, s.sstLook Req.reads p.a p.stripe)
  else match (match s.frameOf p.a p.stripe with
    | some (n, f) => (f.serve p.i p.o).map fun (z : Slot × Bool) => (n, z.1)
    | none => (none : Option (Nat × Slot))) with
  | some (n, z) => (.data (s.memN (z.addr + 4096 * p.o) 4096), s.updFrame n fun f => { f with used := true })
  | none =>
    let s := s.sstLook Req.reads p.a p.stripe
    let st := s.sstState p.a p.stripe
    (if st = Sst.unwritten then .data []
      else if st = Sst.hampered ∨ st = Sst.open_ then .hampered else .member, s)

/-- Serve block k of a READ. -/
def State.readBlk (s : State) (h k : Nat) : State := match s.cmd? h with
  | none => s
  | some c => match s.blkPlace c k with
    | none => s.failCmd h St.invalidVolume
    | some p => match s.lookBlk p with
      | (.data d, s) => s.readBlkEnd c k d (Rank.larder (Ent.tgt c.ent))
      | (.lost, s) => s.readLost c k
      | (.hampered, s) => s.updCmd h fun c => { c with slotWait := c.slotWait ++ [k] }
      | (.member, s) => s.readMember c k p

/-- The Larder holds block k of a command. -/
def State.blkHit (s : State) (c : Cmd) (k : Nat) : Bool := match s.cmdPlace c k with
  | some p => s.larderHolds p
  | none => false

/-- Execute a READ that has passed its checks: the frames it touches decide between a hit and a miss (R81). -/
def State.readGo (s : State) (c : Cmd) : State :=
  let blks := List.range (Ent.p1 c.ent)
  let s := s.bump (if blks.all (s.blkHit c) then Reg.LD_HITS else Reg.LD_MISSES)
  let s := s.setCmd { c with ph := .moving, todo := blks }
  blks.foldl (fun s k => s.readBlk c.h k) s

/-! ### Log reads (R123) -/

/-- Stripe blocks the records of a stripe take. -/
def LogStripe.blks (x : LogStripe) : List Nat := spanBlks 0 (64 + x.used)

/-- Blocks of the stripe in hand are asked for; what lies in the Larder or is known arrives at once. -/
def State.logReadBlk (s : State) (h k : Nat) : State := match s.cmd? h with
  | none => s
  | some c => match c.rd, s.blkPlace c k with
    | some rd, some p =>
      let got := fun (s : State) (d : List Byte) => s.setCmd { c with rd := some { rd with blks := mapSet rd.blks k d } }
      match s.lookBlk p with
      | (.data d, s) => got s d
      | (.lost, s) => got s []
      | (.hampered, s) => s.updCmd h fun c => { c with slotWait := c.slotWait ++ [k] }
      | (.member, s) => s.readMember c k p
    | _, _ => s

/-- Go on to the stripe that holds the next SEQ wanted, at most n stripes. LOST stripes are passed over; a recycled one ends
the read. -/
def State.logReadNext (s : State) (h : Nat) : Nat → State
  | 0 => s
  | n + 1 => match s.cmd? h with
    | none => s
    | some c => match c.rd with
      | none => s
      | some rd => match s.stream? rd.stream with
        | none => s.failCmd h St.invalidStream
        | some x =>
          if rd.want > x.vis ∨ rd.recs ≥ Ent.p1 c.ent then s.logReadEnd c rd rd.want St.success 0
          else match x.find rd.want with
            | none =>
              if rd.want < x.oldest then s.logReadEnd c rd x.oldest St.success Cf.truncated
              else (s.setCmd { c with cflags := c.cflags ||| Cf.gap, rd := some { rd with want := x.after rd.want } }).logReadNext h n
            | some (e, hd) => match s.streamStripe x e with
              | none => s.failCmd h St.invalidVolume
              | some (a, _, st) =>
                if s.sstState a st = Sst.lost then
                  (s.setCmd { c with cflags := c.cflags ||| Cf.gap, rd := some { rd with want := hd.last + 1 } }).logReadNext h n
                else
                  let s := s.setCmd { c with rd := some { rd with stripe := e, blks := [] }, todo := hd.blks }
                  hd.blks.foldl (fun s k => s.logReadBlk h k) s

/-- The blocks of the stripe in hand have all arrived: its records are copied, and the read goes on or ends. -/
def State.logReadScan (s : State) (h : Nat) : State := match s.cmd? h with
  | none => s
  | some c => match c.rd with
    | none => s
    | some rd => match s.stream? rd.stream with
      | none => s.failCmd h St.invalidStream
      | some x =>
        if c.todo.isEmpty ∨ !c.todo.all (fun k => (mapGet? rd.blks k).isSome) then s
        else if (x.find rd.want).map (·.1) ≠ some rd.stripe then
          s.logReadEnd c rd x.oldest St.success Cf.truncated
        else
          let bs := (c.todo.flatMap fun k => bytesAt (mapGetD rd.blks k []) 0 4096).take (64 + (x.at_ rd.stripe).used)
          let r := logScan bs x.vis (Ent.p1 c.ent) (Ent.p2 c.ent) (bs.length / 32) 64
            ⟨rd.want, rd.recs, rd.bytes, rd.first, [], false, false⟩
          let s := s.hostWriteSegs c.f c.segs rd.bytes r.out
          let rd := { rd with want := r.want, recs := r.recs, bytes := r.bytes, first := r.first, blks := [] }
          let c := { c with rd := some rd, todo := [] }
          if r.stop then s.logReadEnd c rd rd.want (if r.small then St.bufferTooSmall else St.success) 0
          else
            let last := match x.find (rd.want - 1) with
              | some (_, hd) => hd.last
              | none => rd.want - 1
            s.setCmd { c with rd := some { rd with want := min (max rd.want (last + 1)) (x.vis + 1) } }

/-- A Log Read makes what progress it can: at most one pass over the extent. -/
def State.logReadRun (s : State) (h : Nat) : Nat → State
  | 0 => s
  | n + 1 => match s.cmd? h with
    | none => s
    | some c =>
      if c.todo.isEmpty then
        let s := s.logReadNext h (n + 1)
        match s.cmd? h with
        | none => s
        | some c => if c.todo.isEmpty then s else (s.logReadScan h).logReadRun h n
      else match c.rd with
        | some rd => if c.todo.all fun k => (mapGet? rd.blks k).isSome then (s.logReadScan h).logReadRun h n else s
        | none => s

/-- Stripes a stream could need a pass for. -/
def State.logReadAll (s : State) (h : Nat) : State := match s.cmd? h with
  | some c => match c.rd with
    | some rd => match s.stream? rd.stream with
      | some x => s.logReadRun h (2 * x.idx.length + 2)
      | none => s
    | none => s
  | none => s

/-- Execute a LOG_READ that has passed its checks. -/
def State.logReadGo (s : State) (c : Cmd) : State :=
  let n := Ent.tgt c.ent
  match s.stream? n with
  | none => s
  | some x =>
    let p0 := Ent.p0 c.ent
    let rd : LogRd := { stream := n, want := max p0 x.oldest, stripe := 0, bytes := 0, recs := 0, first := p0, blks := [] }
    if p0 > x.vis then s.logReadEnd c rd p0 St.success 0
    else (s.setCmd { c with ph := .moving, todo := [], rd := some rd
                            cflags := if p0 < x.oldest then c.cflags ||| Cf.skipped else c.cflags }).logReadAll c.h

/-! ### Blocks that arrive -/

/-- Block k of a host read has arrived or been made; its unit of Table 14-6 completes the read if it is the last. -/
def State.deliver (s : State) (h k : Nat) (data : List Byte) (rank : Nat) : State := match s.cmd? h with
  | none => s
  | some c => match c.rd with
    | some rd => (s.setCmd { c with rd := some { rd with blks := mapSet rd.blks k data } }).logReadAll h
    | none => if c.todo.contains k then s.readBlkEnd c k data rank else s

/-- The stripe of block k of a host read turned LOST. -/
def State.deliverLost (s : State) (h k : Nat) : State := match s.cmd? h with
  | none => s
  | some c => match c.rd with
    | some rd => match s.stream? rd.stream with
      | none => s.failCmd h St.invalidStream
      | some x =>
        let last := match x.find rd.want with
          | some (_, hd) => hd.last
          | none => rd.want
        (s.setCmd { c with todo := [], cflags := c.cflags ||| Cf.gap
                           rd := some { rd with want := last + 1, blks := [] } }).logReadAll h
    | none => if c.todo.contains k then s.readLost c k else s

/-- The block of a payload at an offset. -/
def payBlk (p : MPayload) (i : Nat) : Option MBlock := match p with
  | .blocks l => l[i]?
  | _ => none

/-- How a block from a member fails the checks of Table 02-6. -/
inductive BlkFault where
  /-- the read was ended internally: an erasure only (R275, R278) -/
  | ended
  /-- the read's final status is not success (check 1) -/
  | status
  /-- a tag check, counted in a register (checks 2 to 4) -/
  | tag (counter : Nat)
deriving DecidableEq, Repr

/-- Check block i of a payload; none when it passes. -/
def State.blockFault (s : State) (a : Nat) (r : ArrayRec) (stripe cell o : Nat) (ok : Bool) (pay : MPayload) (i : Nat) :
    Option BlkFault :=
  if ok = false then (if pay = .none then some .ended else some .status)
  else match payBlk pay i with
    | none => some .status
    | some m => (s.tagCheck a r stripe cell o m).map .tag

/-- A block has failed its checks: the failure counts, and the Mender is given the block (R40) unless the read is its own. -/
def State.blockBad (s : State) (a stripe pos o : Nat) (give : Bool) : BlkFault → State
  | .ended => s
  | .status => if give then s.repAdd a stripe pos (1 <<< o) else s
  | .tag k => if give then (s.bump k).repAdd a stripe pos (1 <<< o) else s.bump k

/-- A block of a host read is looked at again. -/
def State.rereadBlk (s : State) (c : Cmd) (k : Nat) : State :=
  let s := s.setCmd { c with slotWait := c.slotWait.erase k }
  if c.rd.isSome then (s.logReadBlk c.h k).logReadAll c.h else s.readBlk c.h k

/-- A member read of a host read has ended (R40, R274). Where the Larder holds the block by now, or a whole-stripe write has the
stripe OPEN, the reader looks again instead of judging the block (R82; log entry 131). -/
def State.hostReadEnd (s : State) (m : MCmd) (h k : Nat) (ok : Bool) (pay : MPayload) : State := match s.cmd? h with
  | none => s
  | some c => match s.blkPlace c k with
    | none => s.failCmd h St.invalidVolume
    | some p =>
      let pos := ((List.range p.r.w).find? fun q => p.r.port q == m.port).getD 0
      let cell := p.r.posCell p.stripe pos
      match s.blockFault p.a p.r p.stripe cell p.o ok pay 0 with
      | none => s.deliver h k (match payBlk pay 0 with
          | some b => b.data
          | none => []) (Rank.quad m.port)
      | some e =>
        if s.larderHolds p ∨ s.sstState p.a p.stripe = Sst.open_ then s.rereadBlk c k
        else (s.blockBad p.a p.stripe pos p.o true e).startRecon h k p [cell]

/-! ### Reconstruction for a host read -/

/-- The stripe of a reconstruction is beyond redundancy. -/
def State.reconBeyond (s : State) (t : Nat) (x : Task) (r : ArrayRec) (h k : Nat) : State :=
  let (st, s) := (s.endTask t).beyondHit x.arr x.stripe (cellMask r x.stripe x.erased) 0
  if st = St.lostData then s.deliverLost h k else s

/-- Has a whole-stripe write opened the stripe of a reconstruction since it began, or does the Larder hold its block now? The
members may then hold old and new chunks (R82; log entry 131). -/
def State.reconMoved (s : State) (x : Task) (c : Cmd) (k : Nat) : Bool :=
  s.sstState x.arr x.stripe == Sst.open_ || s.sstGen x.arr x.stripe != x.gen || (match s.blkPlace c k with
    | some p => s.larderHolds p
    | none => false)

/-- The command a reconstruction must look again for, if its stripe has moved. -/
def State.reconAgain (s : State) (x : Task) (h k : Nat) : Option Cmd := match s.cmd? h with
  | some c => if s.reconMoved x c k then some c else none
  | none => none

/-- A reconstruction takes its next step: reads, then the solve or the delivery of a copy. -/
def State.reconGo (s : State) (t h k : Nat) : State := match s.task? t with
  | none => s
  | some x => match s.arr? x.arr with
    | none => s.endTask t
    | some r => match s.reconAgain x h k with
      | some c => (s.endTask t).rereadBlk c k
      | none => if beyond r x.prev x.erased then s.reconBeyond t x r h k
      else match s.plan x r with
        | none => s.reconBeyond t x r h k
        | some [] =>
          if r.mirror then
            match x.copyOf r (x.left.headD 0) x.off with
            | some c => (s.endTask t).deliver h k (x.buf c x.off) (Rank.quad (r.port (r.cellPos x.stripe c)))
            | none => (s.endTask t).deliver h k [] (Rank.larder 0)
          else s.taskRecon t 1 x.off 1 false
        | some l => l.foldl (fun s e => s.taskRead t r x.stripe e.1 e.2) (s.setTask { x with phase := .read })

/-- Blocks of a task's read arrive: good ones are kept, bad ones make their cell an erasure. -/
def State.taskBlocks (s : State) (x : Task) (r : ArrayRec) (c o n : Nat) (ok : Bool) (pay : MPayload) : State :=
  (List.range n).foldl (fun s i =>
    match s.blockFault x.arr r x.stripe c (o + i) ok pay i with
    | none => s.updTask x.id fun y => { y with bufs := mapSet y.bufs (64 * c + o + i) (match payBlk pay i with
        | some m => bytesAt m.data 0 4096
        | none => []) }
    | some e => (s.blockBad x.arr x.stripe (r.cellPos x.stripe c) (o + i) (!x.kind.mender) e).updTask x.id fun y => { y with
        bad := (64 * c + o + i) :: y.bad, erased := if y.erased.contains c then y.erased else y.erased ++ [c] }) s

/-! ### Deadlines (R275, R276) -/

def execDeadlineExpiry (port qp cid : Nat) (s : State) : Out :=
  .next <| match s.mpFind port qp cid with
    | none => s
    | some m => match m.dl, m.client with
      | some d, .host h k =>
        if s.now < d ∨ m.expired ∨ m.timedOut then s
        else match s.cmd? h with
          | none => s
          | some c => match s.blkPlace c k with
            | none => s
            | some p =>
              let pos := ((List.range p.r.w).find? fun q => p.r.port q == port).getD 0
              let cell := p.r.posCell p.stripe pos
              if s.canRecon p cell = false then s
              else ((s.mpReplace m { m with expired := true }).bump (Reg.MP_P_DLEXP port)).startRecon h k p [cell]
      | _, _ => s

end Sys2Proof.Machine
end

