-- ==== Sys2Proof/Machine/Stripes.lean ====
section
/-! DEFINITION. Work on whole stripes: destage (R76 to R80, Table 04-5), the rebuild walk (R249 to R251), repair (R260), scrub
(R261, R262) and resync (R263), in the persistence order of Table 05-3, with the outcomes of Loom errors (R412, Table
03-8). -/

namespace Sys2Proof.Machine

/-! ### Shared pieces -/

def TKind.frame : TKind → Option Nat
  | .destage n => some n
  | _ => none

def TKind.isWalk : TKind → Option Nat
  | .walk n => some n
  | _ => none

/-- Cause of Table 11-7 a task gives when it takes an array offline (MD_OFFa.CAUSE). -/
def TKind.cause : TKind → Nat
  | .hostRecon _ _ => 0
  | .walk _ => 1
  | .repair _ _ => 2
  | .resync => 3
  | .scrub => 4
  | .destage _ => 5
  | _ => 6

/-- The unit that asks the Ledger for a task's entries (R98). -/
def TKind.lgUnit : TKind → Nat
  | .destage _ => 0
  | _ => 1

def State.setPhase (s : State) (t : Nat) (p : TPhase) : State := s.updTask t fun x => { x with phase := p, outst := 0 }

/-- Walked stripes: number n of a walk is finished, and WALKED moves over every finished one (R249). -/
def walkAdvance (w : Walk) : Nat → Walk
  | 0 => w
  | n + 1 => if w.finished.contains w.walked then
      walkAdvance { w with walked := w.walked + 1, finished := w.finished.erase w.walked } n
    else w

/-- Positions whose target is complete get their completion steps (Table 11-4). -/
def State.walkComplete (s : State) (a : Nat) : State := match s.arr? a with
  | none => s
  | some r =>
    let w := s.walk a
    (s.targets a).foldl (fun s p => match mapGet? s.md.pos (32 * a + p) with
      | none => s
      | some x =>
        if w.walked ≥ x.join + r.count ∧ !(s.md.tasks.any fun t => t.arr == a && (t.kind == .targetEnd p || t.kind == .target p))
        then (s.addTask (.targetEnd p) a 0 0 0 (.step 0)).2
        else s) s

def State.walkFinish (s : State) (a n : Nat) : State :=
  let w := s.walk a
  (s.setWalk a (walkAdvance { w with finished := n :: w.finished } (w.finished.length + 1))).walkComplete a

/-- A task of the Mender ends without more to do; a walk's stripe counts as walked. -/
def State.menderEnd (s : State) (t : Nat) : State := match s.task? t with
  | none => s
  | some x =>
    let s := s.endTask t
    match x.kind.isWalk with
    | some n => s.walkFinish x.arr n
    | none => s

/-- A Mender task goes back to its claim after 1 s (Table 03-8); its stripe returns to the state it held. -/
def State.menderRetry (s : State) (t : Nat) : State := match s.task? t with
  | none => s
  | some x =>
    let s := if s.sstState x.arr x.stripe = Sst.rebuilding ∧ s.holder x.arr x.stripe = some t then
        s.setSstState x.arr x.stripe x.prev else s
    let s := s.unclaim t
    let s := match x.kind.isWalk with
      | some _ => s.setWalk x.arr { s.walk x.arr with stuck := true }
      | none => s
    s.setTask { x with phase := .retry, outst := 0, since := s.now, bufs := [], erased := [], bad := [], fails := [], second := false
                       confirm := false, loc1 := none, left := [] }

/-- A task finds its stripe beyond redundancy (R256); a frame being destaged parks (R79). -/
def State.taskBeyond (s : State) (t : Nat) (er : List Nat) : State := match s.task? t with
  | none => s
  | some x => match s.arr? x.arr with
    | none => s.endTask t
    | some r =>
      let (st, s) := (s.cancelTask t).beyondHit x.arr x.stripe (cellMask r x.stripe er) x.kind.cause
      let s := match x.kind.frame with
        | some n => if (s.frame? n).any (fun f => f.state != Fs.parked) then s.parkFrame n st false else s
        | none => s
      match x.kind.isWalk with
      | some n => if st = St.lostData then s.walkFinish x.arr n else s
      | none => s

/-! ### Beginning of a stripe's work -/

/-- A destage whose stripe has been claimed (R76): PARKED at once where it cannot go on, else fill reads or the write. -/
def State.destageBegin (s : State) (t n : Nat) (x : Task) (r : ArrayRec) : State :=
  if r.state ≠ 1 then (s.endTask t).parkFrame n St.arrayOffline false
  else if x.prev = Sst.lost then (s.endTask t).parkFrame n St.lostData false
  else
    (s.updFrame n fun f => { f with resync := x.prev == Sst.resyncDue }).setPhase t .read

/-- The frame of a RESYNC_DUE stripe enters READY in class 0, and its destage performs the resync (R263); a PARKED one comes
back as R79 gives. -/
def State.resyncReady (s : State) (n : Nat) : State := match s.frame? n with
  | none => s
  | some f =>
    if f.state = Fs.parked then s
    else if f.state = Fs.clean then (s.setFrame n { f with state := Fs.filling }).toReady n 0
    else s.toReady n 0

/-- A repair takes every entry of the queue for its stripe: the blocks they name are bad, and their cells erased (R260). -/
def State.takeRep (s : State) (x : Task) (r : ArrayRec) (es : List RepEnt) : State :=
  let all := (es ++ s.md.repq.filter fun e => e.arr == x.arr && e.stripe == x.stripe).filter fun e =>
    e.map != 0 && (!bit r.failed e.pos || s.posTarget x.arr e.pos)
  let bad := all.flatMap fun e => (maskBits r.b e.map).map (64 * r.posCell x.stripe e.pos + ·)
  State.setTask { s with md.repq := s.md.repq.filter fun e => !(e.arr == x.arr && e.stripe == x.stripe) }
    { x with bad := bad.eraseDups, erased := (x.erased ++ all.map fun e => r.posCell x.stripe e.pos).eraseDups }

/-- A walk's stripe has been claimed (Table 11-2). -/
def State.walkBegin (s : State) (t : Nat) (x : Task) (r : ArrayRec) : State :=
  if x.prev = Sst.unwritten ∨ x.prev = Sst.lost then s.menderEnd t
  else if x.prev = Sst.resyncDue then
    match s.frameOf x.arr x.stripe with
    | some (n, _) =>
      let s : State := { s.unclaim t with st.claimQ := s.st.claimQ ++ [⟨x.arr, x.stripe, t⟩] }
      (s.setPhase t .claim).resyncReady n
    | none => s.setPhase t .read
  else
    let s := if x.prev = Sst.degraded then s.takeRep x r [] else s
    (s.setSstState x.arr x.stripe Sst.rebuilding).setPhase t .read

/-- The requester a task is to the State Cache: each walk has a stream of its own (R91). -/
def Task.req (x : Task) : Nat := match x.kind with
  | .walk _ => x.arr
  | .destage _ => Req.larder
  | .hostRecon _ _ => Req.reads
  | _ => Req.mender

/-- A task begins on the state it finds, its stripe claimed (R44). -/
def State.taskBegin (s : State) (t : Nat) : State := match s.task? t with
  | none => s
  | some x => match s.arr? x.arr with
    | none => match x.kind.frame with
      | some n => (s.endTask t).dropFrame n
      | none => s.endTask t
    | some r =>
      let x := { x with prev := s.sstState x.arr x.stripe, erased := s.erasedCells x.arr r x.stripe }
      let s := (s.setTask x).sstLook x.req x.arr x.stripe
      match x.kind with
      | .destage n => s.destageBegin t n x r
      | .walk _ => s.walkBegin t x r
      | .repair pos map =>
        if x.prev = Sst.consistent ∨ x.prev = Sst.degraded then
          ((s.takeRep x r [⟨x.arr, x.stripe, pos, map⟩]).setSstState x.arr x.stripe Sst.rebuilding).setPhase t .read
        else s.endTask t
      | .scrub =>
        if x.prev = Sst.consistent ∨ x.prev = Sst.degraded then
          (s.setSstState x.arr x.stripe Sst.rebuilding).setPhase t .read
        else s.endTask t
      | .resync => if x.prev = Sst.resyncDue then s.setPhase t .read else s.endTask t
      | _ => s.setPhase t (.step 1)

/-- Must a task leave a stripe that no task holds to others? A HAMPERED stripe passes to destage only, and to a deletion once the
restore has done with it; a stripe left OPEN by a write cut short passes to its destage (R43, R44). -/
def State.claimShut (s : State) (x : Task) : Bool :=
  let st := s.sstState x.arr x.stripe
  (st == Sst.hampered && (x.kind.mender || (!(x.kind.frame).isSome && s.rsHolds x.arr x.stripe))) ||
  (st == Sst.open_ && x.kind.mender)

/-- A task claims its stripe, or waits in line. -/
def State.taskClaim (s : State) (t : Nat) : State := match s.task? t with
  | none => s
  | some x =>
    if (s.holder x.arr x.stripe).isNone ∧ s.claimShut x = true then
      { s.setPhase t .claim with st.claimQ := s.st.claimQ ++ [⟨x.arr, x.stripe, t⟩] }
    else
      let (ok, s) := s.claim x.arr x.stripe t
      if ok then s.taskBegin t else s.setPhase t .claim

/-! ### Opening a whole-stripe write (Table 05-3) -/

/-- Ask for the OPEN entry under the next GEN. -/
def State.openAsk (s : State) (t : Nat) : State := match s.task? t with
  | none => s
  | some x => match s.arr? x.arr with
    | none => s.endTask t
    | some r =>
      let (gen, s) := s.genNext x.arr x.stripe
      let fr := (x.kind.frame).getD 0xFFFFF
      let s := match x.kind.frame with
        | some n => s.updFrame n fun f => { f with state := Fs.destaging, gen := gen }
        | none => s
      (s.setTask { x with phase := .ledgerOpen, gen := gen, outst := 0 }).lgAsk
        { unit := x.kind.lgUnit, kind := Lk.open_, arr := x.arr, stripe := x.stripe, gen := gen
          mask := toMask (s.writeSet x.arr r), frame := fr, dump := [], cont := .task t, counted := false }

/-- The copy block of an array that holds a slot is to be written now; a task that has not begun yet serves the new waiter
too. -/
def State.copyAsk (s : State) (a k : Nat) : State :=
  if s.md.tasks.any fun t => t.arr == a && t.kind == .copyBlk k && t.phase == .step 0 then s
  else (s.addTask (.copyBlk k) a 0 0 0 (.step 0)).2

/-- The OPEN entry of a task is in the Keep ring: the stripe is OPEN, and both member copies follow (R99). -/
def State.openGranted (s : State) (t seq : Nat) : State := match s.task? t with
  | none => s
  | some x => match s.arr? x.arr with
    | none => s.endTask t
    | some r =>
      let s := if s.sstState x.arr x.stripe = Sst.unwritten ∧ !s.ld.firsts.contains (x.arr, x.stripe) then
          { s with ld.firsts := s.ld.firsts ++ [(x.arr, x.stripe)] }
        else s
      let s := s.setSstState x.arr x.stripe Sst.open_
      let k := seq % 16384 / 128
      let s := s.setTask { x with phase := .copyOpen, left := [k], opened := true }
      if r.copies.isEmpty then s.setPhase t .encode else s.copyAsk x.arr k

/-- Both copies hold the OPEN: parities are computed, or a mirror's copies written. The phase goes to encode with nothing
outstanding, and the next settling takes it from there. -/
def State.copyDone (s : State) (a k : Nat) : State :=
  { s with md.tasks := s.md.tasks.map fun x =>
      if x.arr == a && x.phase == .copyOpen && x.left == [k] then { x with phase := .encode } else x }

/-- Start the chunk writes of a whole stripe. -/
def State.writeStripe (s : State) (t : Nat) (x : Task) (r : ArrayRec) : State :=
  (s.setPhase t .write).taskCells t r x.gen (((s.writeSet x.arr r).map fun p => (r.posCell x.stripe p, List.range r.b)))

/-- ENCODE of a destage: parity slots out, data slots in, chunks without a slot named in ZERO (R78). -/
def State.destageEncode (s : State) (t n : Nat) (r : ArrayRec) (second : Bool) : State := match s.frame? n with
  | none => s.endTask t
  | some f =>
    let src : NMap LLoc := f.cur.map fun e => (e.1, LLoc.addr e.2.addr)
    let zmask := toMask ((List.range r.dw).filter fun i => (mapGet? f.cur i).isNone)
    let dst : NMap LLoc := f.par.map fun e => (r.dw + e.1, LLoc.addr e.2)
    (s.setPhase t .recon).taskLoom t 2 Op.encode r.dw r.k 0 zmask 0 r.b true second src dst

/-- ENCODE of a resync, from the task's buffers (queue 3, R264). -/
def State.resyncEncode (s : State) (t : Nat) (r : ArrayRec) (second : Bool) : State :=
  (s.setPhase t .recon).taskLoom t 3 Op.encode r.dw r.k 0 0 0 r.b true second
    (bufLocs t 0 (List.range r.dw)) (bufLocs t 0 ((List.range r.k).map (r.dw + ·)))

/-- Ask for the CLOSE entry, unless what failed puts the stripe beyond redundancy. -/
def State.closeAsk (s : State) (t : Nat) (x : Task) (r : ArrayRec) : State :=
  let live := x.fails.filter fun p => !bit r.failed p || s.posTarget x.arr p
  let er := (s.failedCells x.arr r x.stripe ++ x.fails.map (r.posCell x.stripe)).eraseDups
  if beyond r Sst.consistent er then s.taskBeyond t er
  else (s.setPhase t .ledgerClose).lgAsk
    { unit := x.kind.lgUnit, kind := Lk.close, arr := x.arr, stripe := x.stripe, gen := x.gen, mask := toMask live
      frame := (x.kind.frame).getD 0xFFFFF, dump := [], cont := .task t, counted := false }

/-! ### Step 7 of a destage (R77, R80, R162, R167) -/

/-- DIRTY and HELD blocks of a slot become CLEAN. -/
def Slot.clean (x : Slot) : Slot := { x with blks := x.blks.map fun b => if b == Bk.dirty || b == Bk.held then Bk.clean else b }

/-- Write-through commands whose frame's CLOSE is in the Keep: those whose last wait it was complete. -/
def State.wtClosed (s : State) (a stripe : Nat) : State :=
  let low := (a, 2 * stripe)
  let next := fun (c : Cmd) => { c with
    waits := (c.waits.filter (· != low)).map fun w => if w == (a, 2 * stripe + 1) then low else w }
  let s : State := { s with cmds := s.cmds.map next }
  (s.cmds.filter fun c => isPf0 c.f && c.ph == .waiting && c.wt && c.waits.isEmpty).foldl (fun s c =>
    match c.log with
    | some op => s.appendEnd c op
    | none =>
      if Ent.opc c.ent = 0x10 then s
      else s.finish (Rank.larder (Ent.tgt c.ent)) { c with cflags := c.cflags ||| Cf.writeThrough }) s

/-- Current slots after a state update (R80): each successor slot takes the place of its current slot. A LOG frame has no fill reads
(R120), so it keeps the blocks of a slot so replaced; one that held an earlier lap keeps nothing of it (log entry 73). -/
def State.slotsNext (s : State) (f : Frame) : NMap Slot × State :=
  let cur := f.cur.map fun e => (e.1, e.2.clean)
  if f.lap then (f.succ, s)
  else if f.stream.isSome then s.slotsOver f cur
  else (f.succ.foldl (fun m e => mapSet m e.1 e.2) cur, s)

/-- The frame after its state update: CLEAN, or FILLING again, from where the triggers of Table 04-4 may take it at once. -/
def State.destageDone (s : State) (n : Nat) : State := match s.frame? n with
  | none => s
  | some f =>
    let (cur, s) := s.slotsNext f
    let f' := { f with state := if f.succ.isEmpty then Fs.clean else Fs.filling, cur := cur
                       succ := [], par := [], wt := f.wtNext, wtNext := false, img := none, first := false, resync := false
                       lap := false, ageAt := if f.succ.isEmpty then f.ageAt else f.succAt }
    let s := s.setFrame n f'
    let s := if f'.state = Fs.clean then s
      else if f'.wt ∨ (s.wbOn = false ∧ f'.hasDirty = true) then s.toReady n 0
      else match s.arr? f.arr with
        | some r => if f'.full r then s.toReady n 1 else s
        | none => s
    let s := match f.img with
      | some k => s.hmDone k
      | none => s
    (s.wtClosed f.arr f.stripe).wtCheck.tlOver.pressure

/-- The CLOSE entry of a task is in the Keep ring: the state update (Table 05-3 step 6), and what follows. -/
def State.closeGranted (s : State) (t mask : Nat) : State := match s.task? t with
  | none => s
  | some x => match s.arr? x.arr with
    | none => s.endTask t
    | some r =>
      let s := { s with ld.firsts := s.ld.firsts.erase (x.arr, x.stripe) }
      let s := s.setSstGen x.arr x.stripe (if mask = 0 then Sst.consistent else Sst.degraded) (x.gen % 2 ^ 24)
      let s := (maskBits r.w mask).foldl (fun s p => s.repAdd x.arr x.stripe p (2 ^ r.b - 1)) s
      match x.kind with
      | .destage n =>
        let s := match s.volOf x.arr x.stripe with
          | some (_, v) => if v.cls = 1 then s.setSstBit x.arr x.stripe 30 true else s
          | none => s
        let s := match s.frame? n with
          | some f => if f.resync then s.bump Reg.MD_RESYNCS else s
          | none => s
        (s.endTask t).destageDone n
      | .resync => (s.bump Reg.MD_RESYNCS).endTask t
      | .walk _ => (s.bump Reg.MD_RESYNCS).menderEnd t
      | _ => s.endTask t

/-! ### Filling a frame (R78, R83) -/

/-- Data slots a destage still needs for chunks that are filled. The first one found missing is allocated. -/
def State.fillSlots (s : State) (n : Nat) (r : ArrayRec) (zf : Bool) : Nat → Bool × State
  | 0 => (true, s)
  | fuel + 1 => match s.frame? n with
    | none => (true, s)
    | some f => match (if zf then none else (List.range r.dw).find? fun i => (mapGet? f.cur i).isNone) with
      | none => (true, s)
      | some i => match s.getSlot r with
        | (some a, s) => State.fillSlots (s.updFrame n fun f => { f with cur := mapSet f.cur i (Slot.new r a) }) n r zf fuel
        | (none, s) => (false, s)

/-- Parity slots a destage still needs. -/
def State.parSlots (s : State) (n : Nat) (r : ArrayRec) : Nat → Bool × State
  | 0 => (true, s)
  | fuel + 1 => match s.frame? n with
    | none => (true, s)
    | some f => match (if r.mirror then none else (List.range r.k).find? fun j => (mapGet? f.par j).isNone) with
      | none => (true, s)
      | some j => match s.getSlot r with
        | (some a, s) => State.parSlots (s.updFrame n fun f => { f with par := mapSet f.par j a }) n r fuel
        | (none, s) => (false, s)

/-- Put the filled blocks of a chunk into its slot as CLEAN. -/
def State.fillChunk (s : State) (n : Nat) (r : ArrayRec) (x : Task) (zf : Bool) (lim i : Nat) : State := match s.frame? n with
  | none => s
  | some f => match mapGet? f.cur i with
    | none => s
    | some z =>
      let l := f.invalid r i
      let data := fun o => if zf then [] else if r.mirror then (match x.copyOf r i o with
          | some c => x.buf c o
          | none => []) else x.buf i o
      let s := l.foldl (fun s o => s.memPut (z.addr + 4096 * o) (bytesAt (data o) 0 4096)) s
      let s := if zf then s else s.bumpN Reg.LD_FILL_BLOCKS (f.missing r lim i).length
      s.updFrame n fun f => { f with cur := mapSet f.cur i (l.foldl (fun z o => z.set o Bk.clean) z) }

/-- Every data block of a frame is valid: it is DESTAGING, and the write opens once it has its parity slots. -/
def State.destageOpen (s : State) (t n : Nat) (r : ArrayRec) : State :=
  match (s.updFrame n fun f => { f with state := Fs.destaging }).parSlots n r (r.k + 1) with
  | (true, s) => s.openAsk t
  | (false, s) => (s.setPhase t .waitSlot).slotJoin t 0

/-- All fill reads are in: the frame is filled, and bytes beyond a log stripe's records turn to zeros; or it waits for slots. -/
def State.destageFill (s : State) (t n : Nat) (x : Task) (r : ArrayRec) : State := match s.frame? n with
  | none => s.endTask t
  | some f =>
    let zf := f.zeroFill x.prev
    let lim := s.logLimit f r
    match s.fillSlots n r zf (r.dw + 1) with
    | (false, s) => (s.setPhase t .waitSlot).slotJoin t 0
    | (true, s) =>
      let s := (List.range r.dw).foldl (fun s i => s.fillChunk n r x zf lim i) s
      let s := match s.frame? n with
        | some f => s.logZero f r lim
        | none => s
      s.destageOpen t n r

/-! ### Rebuilding, repairing, scrubbing -/

/-- Cells and blocks a walk, repair or scrub rewrites: target chunks whole, bad blocks of working positions. -/
def State.rewrites (s : State) (x : Task) (r : ArrayRec) : List (Nat × List Nat) :=
  let tg := if (x.kind.isWalk).isSome then
      (List.range r.w).filter fun c => s.posTarget x.arr (r.cellPos x.stripe c) && bit r.failed (r.cellPos x.stripe c)
    else []
  let bad := (List.range r.w).filterMap fun c =>
    let l := (List.range r.b).filter fun o => x.bad.contains (64 * c + o)
    let p := r.cellPos x.stripe c
    if l.isEmpty ∨ tg.contains c ∨ (bit r.failed p ∧ s.posTarget x.arr p = false) then none else some (c, l)
  tg.map (fun c => (c, List.range r.b)) ++ bad

/-- Positions of cells. -/
def cellPoss (r : ArrayRec) (stripe : Nat) (l : List (Nat × List Nat)) : List Nat := l.map fun e => r.cellPos stripe e.1

/-- Everything needed is at hand: write it, under the stripe's GEN (R95). -/
def State.rebuildWrite (s : State) (t : Nat) (x : Task) (r : ArrayRec) : State :=
  (s.setPhase t .write).taskCells t r (s.genNow x.arr x.stripe) (s.rewrites x r)

/-- Reads of a walk or repair are complete: solve, or write. -/
def State.rebuildSolve (s : State) (t : Nat) (x : Task) (r : ArrayRec) : State :=
  if r.mirror ∨ (s.rewrites x r).isEmpty then s.rebuildWrite t x r
  else s.taskRecon t 3 0 r.b false

/-- A chunk write of a rebuild, repair or scrub has ended badly: a target's is tried once more, which marks its position a second
time, and a third mark fails the target (Table 11-9). -/
def State.rebuildFails (s : State) (t : Nat) (x : Task) (r : ArrayRec) : Bool × State :=
  let tg := x.fails.eraseDups.filter fun p => s.posTarget x.arr p && bit r.failed p
  let again := tg.filter fun p => x.fails.count p = 1
  let lost := tg.filter fun p => decide (x.fails.count p ≥ 3)
  let s := lost.foldl (fun s p => s.targetFail x.arr p) s
  if again.isEmpty then (false, s)
  else (true, (s.updTask t fun x => { x with fails := x.fails ++ again }).taskCells t r (s.genNow x.arr x.stripe)
    ((s.rewrites x r).filter fun e => again.contains (r.cellPos x.stripe e.1)))

/-- A walk or repair leaves its stripe. -/
def State.rebuildEnd (s : State) (t : Nat) (x : Task) (r : ArrayRec) : State :=
  let rw := s.rewrites x r
  let bad := x.fails.any fun p => !bit r.failed p
  let tgt := (rw.filter fun e => bit r.failed (r.cellPos x.stripe e.1)).length
  let fixed := sumN ((rw.filter fun e => !bit r.failed (r.cellPos x.stripe e.1)).map fun e => e.2.length)
  let rep := decide (fixed > 0) || (x.kind.isWalk).isNone || x.prev == Sst.degraded
  let s := (s.bumpN Reg.MD_RB_CHUNKS tgt).bumpN Reg.MD_REPAIRS (if bad then 0 else fixed)
  let s := if bad then s.setSstState x.arr x.stripe Sst.degraded
    else
      let s := s.setSstState x.arr x.stripe Sst.consistent
      if rep then s.setSstBit x.arr x.stripe 29 true else s
  s.menderEnd t

/-- A RESYNC entry for a stripe: it is set RESYNC_DUE once the entry is in the Keep (Table 05-2, R261, R412). -/
def State.askResync (s : State) (unit a stripe : Nat) : State :=
  if s.lg.reqs.any fun r => r.arr == a && r.stripe == stripe && r.kind == Lk.resync then s
  else s.lgAsk { unit := unit, kind := Lk.resync, arr := a, stripe := stripe, gen := s.genNow a stripe, mask := 0
                 frame := 0xFFFFF, dump := [], cont := .resync, counted := false }

/-- A task orders the resync of the stripe it holds: a RESYNC entry carrying the stripe's GEN as the table holds it. -/
def State.taskResync (s : State) (t : Nat) (x : Task) : State :=
  (s.setPhase t .ledgerOpen).lgAsk
    { unit := x.kind.lgUnit, kind := Lk.resync, arr := x.arr, stripe := x.stripe, gen := s.genNow x.arr x.stripe, mask := 0
      frame := 0xFFFFF, dump := [], cont := .task t, counted := false }

/-- The RESYNC entry of a task is in the Keep: the stripe is RESYNC_DUE (Table 05-2, R261, Table 03-8). A frame goes back to
READY in class 0, or parks under a Loom FAULT; a resync is tried again after 1 s; a scrub is over. -/
def State.resyncGranted (s : State) (t : Nat) : State := match s.task? t with
  | none => s
  | some x =>
    let s := s.setSstState x.arr x.stripe Sst.resyncDue
    match x.kind with
    | .destage n =>
      let s := s.endTask t
      if s.loomFault then s.parkFrame n St.internal true
      else s.frameAgain n true
    | .resync | .walk _ => s.menderRetry t
    | _ => s.endTask t

/-- A scrub or repair ends on its stripe with a resync ordered. -/
def State.scrubResync (s : State) (t : Nat) (x : Task) : State :=
  let s := if x.kind = .scrub then (s.setSstBit x.arr x.stripe 28 false).bump Reg.MD_SC_STRIPES else s
  s.taskResync t x

/-- A visit is over: SCRUB_DUE clears, and REPAIRED when the stripe was found clean. A repair ends its work, or leaves the stripe
as it was (R262). -/
def State.scrubEnd (s : State) (t : Nat) (x : Task) (r : ArrayRec) (clean : Bool) : State :=
  if x.kind ≠ .scrub then
    (if clean then s.rebuildEnd t x r else (s.setSstState x.arr x.stripe x.prev).menderEnd t)
  else
  let s := if s.sstState x.arr x.stripe = Sst.rebuilding ∧ x.confirm then s.setSstState x.arr x.stripe x.prev else s
  let s := s.setSstBit x.arr x.stripe 28 false
  let s := if clean then s.setSstBit x.arr x.stripe 29 false else s
  (s.bump Reg.MD_SC_STRIPES).endTask t

/-- A finding without a claim is confirmed under one (R261): the task begins again. -/
def State.scrubConfirm (s : State) (t : Nat) (x : Task) : State :=
  (s.setTask { x with confirm := true, bufs := [], erased := [], bad := [], outst := 0, second := false }).taskClaim t

/-- Submit CHECK, LOCATE or MIRROR_CMP over a scrub's buffers; a mirror compares chunk by chunk, the next one in `left`. -/
def State.scrubJob (s : State) (t : Nat) (x : Task) (r : ArrayRec) (op : Nat) (second : Bool) : State :=
  let s := s.updTask t fun x => { x with phase := (if op = Op.locate then .locate else .check), outst := 0, second := second }
  if r.mirror then
    let i := x.left.headD 0
    s.taskLoom t 3 Op.mirrorCmp r.n 0 0 0 0 r.b false second
      ((List.range r.n).map fun c => (c, LLoc.buf t (i * r.n + c) 0)) []
  else s.taskLoom t 3 op r.dw r.k 0 0 0 r.b false second (bufLocs t 0 (List.range r.w)) []

/-- All reads of a visit are in. Erasures are repaired once confirmed; otherwise the code is checked where every chunk is at
hand. -/
def State.scrubRead (s : State) (t : Nat) (x : Task) (r : ArrayRec) : State :=
  let failed := s.failedCells x.arr r x.stripe
  if !x.bad.isEmpty ∨ x.prev = Sst.degraded then
    if x.confirm then s.rebuildSolve t x r else s.scrubConfirm t x
  else if !r.mirror ∧ !failed.isEmpty then s.scrubEnd t x r true
  else
    let left := if r.mirror then (List.range r.dw).filter fun i => (List.range r.n).all fun c => x.has (i * r.n + c) 0
      else [0]
    if left.isEmpty then s.scrubEnd t x r true
    else (s.updTask t fun x => { x with left := left }).scrubJob t { x with left := left } r Op.check false

/-- Repair the blocks of a cell that LOCATE or MIRROR_CMP named (Table 11-8). -/
def State.scrubRepair (s : State) (t : Nat) (x : Task) (r : ArrayRec) (cell blockBad : Nat) : State :=
  let x := { x with bad := (maskBits r.b blockBad).map (64 * cell + ·), erased := (cell :: x.erased).eraseDups }
  (s.setTask x).rebuildSolve t x r

/-- A LOCATE of a confirmed mismatch has ended (Table 11-8, R262). -/
def State.scrubLocated (s : State) (t : Nat) (x : Task) (r : ArrayRec) (res : LRes) : State :=
  if res.status ≠ Ls.located then (if res.status = Ls.unlocatable then s.bump Reg.MD_SC_UNLOC else s).scrubResync t x
  else
    let cell := res.located % 32
    let s := s.bump Reg.MD_SC_LOCATED
    if r.k ≥ 3 then s.scrubRepair t x r cell res.blockBad
    else match x.loc1 with
      | none => (s.setTask { x with loc1 := some cell, bufs := [], outst := 0, phase := .read })
      | some c =>
        if c ≠ cell then s.scrubResync t x
        else
          let s := (s.bump Reg.MD_K2_UNCONF).noteD Rank.mender 0x08 Sev.warning x.arr (x.stripe % 2 ^ 24) cell
          if s.flag Reg.MD_CFG 2 then s.scrubEnd t x r false else s.scrubRepair t x r cell res.blockBad

/-- A CHECK or MIRROR_CMP has ended. -/
def State.scrubChecked (s : State) (t : Nat) (x : Task) (r : ArrayRec) (res : LRes) : State :=
  if res.status = Ls.ok then
    let left := x.left.drop 1
    if r.mirror ∧ !left.isEmpty then
      (s.updTask t fun x => { x with left := left }).scrubJob t { x with left := left } r Op.check false
    else s.scrubEnd t x r true
  else if !x.confirm then s.scrubConfirm t x
  else if r.mirror then
    if res.status = Ls.located then
      (s.bump Reg.MD_SC_LOCATED).scrubRepair t x r (x.left.headD 0 * r.n + res.located % 32) res.blockBad
    else ((if res.status = Ls.unlocatable then s.bump Reg.MD_SC_UNLOC else s)).scrubResync t x
  else if r.k = 1 then s.scrubResync t x
  else s.scrubJob t x r Op.locate false

/-! ### One step of a stripe task with nothing outstanding -/

def State.stripeReads (s : State) (t : Nat) (x : Task) (r : ArrayRec) : State := match s.plan x r with
  | none => if x.kind = .scrub ∧ x.confirm = false then s.scrubConfirm t x else s.taskBeyond t x.erased
  | some [] => match x.kind with
    | .destage n => match s.frame? n with
      | none => s.endTask t
      | some f =>
        let l := f.needSolve r (s.logLimit f r) x
        if r.mirror ∨ f.zeroFill x.prev ∨ l.isEmpty then s.destageFill t n x r
        else s.taskRecon t 2 (spanOf l).1 (spanOf l).2 false
    | .scrub => s.scrubRead t x r
    | .repair _ 0 => if x.bad.isEmpty ∧ r.meta_ = 0 then (s.setTask { x with confirm := true }).scrubRead t { x with
          confirm := true, prev := Sst.consistent } r
        else s.rebuildSolve t x r
    | .resync => s.openAsk t
    | .walk _ => if x.prev = Sst.resyncDue then s.openAsk t else s.rebuildSolve t x r
    | _ => s.rebuildSolve t x r
  | some l => l.foldl (fun s e => s.taskRead t r x.stripe e.1 e.2) s

/-- Is a task writing a whole stripe under an OPEN? -/
def Task.whole (x : Task) : Bool := x.kind == .resync || (x.kind.frame).isSome || x.prev == Sst.resyncDue

def State.stripeGo (s : State) (t : Nat) : State := match s.task? t with
  | none => s
  | some x => match s.arr? x.arr with
    | none => s.endTask t
    | some r => match x.phase with
      | .step _ => match x.kind with
        | .scrub => (s.setTask { x with prev := s.sstState x.arr x.stripe, erased := s.failedCells x.arr r x.stripe }).setPhase t
            .read
        | _ => s.taskClaim t
      | .read => s.stripeReads t x r
      | .encode =>
        if r.mirror then s.writeStripe t x r
        else match x.kind with
          | .destage n => s.destageEncode t n r false
          | _ => s.resyncEncode t r false
      | .write =>
        if x.whole then
          (s.setPhase t .flush).taskFlush t r ((s.writeSet x.arr r).filter fun p => !x.fails.contains p)
        else
          let (more, s) := s.rebuildFails t x r
          if more then s
          else (s.setPhase t .flush).taskFlush t r ((cellPoss r x.stripe (s.rewrites x r)).filter fun p =>
            !bit r.failed p && !x.fails.contains p)
      | .flush => if x.whole then s.closeAsk t x r
        else if x.kind = .scrub then s.rebuildEnd t x r |>.setSstBit x.arr x.stripe 28 false |>.bump Reg.MD_SC_STRIPES
        else s.rebuildEnd t x r
      | _ => s

/-! ### Loom results of stripe tasks -/

/-- The outcome of Table 03-8 for a task whose job ended with DATAPATH for good. -/
def State.taskDatapath (s : State) (t : Nat) (x : Task) (op : Nat) : State := match x.kind with
  | .hostRecon h _ => (s.endTask t).failCmd h St.internal
  | .stream _ => s.setPhase t (.step 9)
  | .destage n =>
    if op = Op.encode then s.taskResync t x
    else
      let s := s.endTask t
      if s.loomFault then s.parkFrame n St.internal true
      else s.frameAgain n false
  | .scrub => (s.menderRetry t)
  | .resync | .walk _ => if op = Op.encode then s.taskResync t x else s.menderRetry t
  | _ => s.menderRetry t

/-- A job of a task is submitted again with the same operands (R412). -/
def State.taskAgain (s : State) (t : Nat) (j : LJob) : State :=
  (s.updTask t fun x => { x with second := true }).loomSubmit { j with second := true, parked := false }

/-- A Loom job of a stripe task has ended, in a context. -/
def State.stripeLoom (s : State) (t ctx : Nat) (j : LJob) (res : LRes) : State := match s.task? t with
  | none => s
  | some x => match s.arr? x.arr with
    | none => s.endTask t
    | some r =>
      if res.status = Ls.datapath then
        if s.loomFault ∨ j.second then s.taskDatapath t x j.op else s.taskAgain t j
      else if res.status = Ls.sourceEcc then
        if j.op = Op.recon then
          (s.setTask { x with phase := .read, erased := (res.srcBad :: x.erased).eraseDups })
        else s.taskDatapath t x j.op
      else if j.op = Op.encode then s.writeStripe t x r
      else if j.op = Op.recon then
        match x.kind with
        | .hostRecon h k => (s.endTask t).deliver h k (x.buf (x.left.headD 0) x.off) (Rank.loom ctx)
        | .destage n => s.destageFill t n x r
        | .stream _ => s.setTask { x with phase := .read, erased := x.erased.erase (x.left.headD 0) }
        | _ => s.rebuildWrite t x r
      else if j.op = Op.locate then s.scrubLocated t x r res
      else s.scrubChecked t x r res

/-! ### Rows -/

/-- The frame a destage takes next: lowest class, then order of entry. -/
def State.nextDestage (s : State) : Option (Nat × Frame) :=
  minBy (fun (e : Nat × Frame) => e.2.cls * 2 ^ 64 + e.2.order) (s.ld.frames.filter fun e => e.2.state == Fs.ready)

def State.destageMax (s : State) : Nat := clampN 1 128 (s.fld Reg.LD_DCTL 7 0)

/-- A destage begins or waits for its claim. -/
def State.destageGo (s : State) (n : Nat) (f : Frame) : State :=
  let s := s.bump (if f.cls = 1 then Reg.LD_DST_FULL else if f.cls = 2 then Reg.LD_DST_PARTIAL else Reg.LD_DST_WT)
  let full := match s.arr? f.arr with
    | some r => f.full r
    | none => false
  let s := s.updFrame n fun f => { f with state := if full then Fs.destaging else Fs.fillread }
  (s.addTask (.destage n) f.arr f.stripe 0 (match s.arr? f.arr with
    | some r => r.b
    | none => 0) (.step 0)).2

/-- Mender work that waits on an array, by rank: 0 resync, 1 repair, 2 walk (R264). -/
def State.resyncWaits (s : State) (a : Nat) : List LgLive :=
  s.lg.live.filter fun e => e.kind == Lk.resync && e.arr == a && s.sstState a e.stripe == Sst.resyncDue &&
    !s.md.tasks.any fun t => t.arr == a && t.stripe == e.stripe && t.kind == .resync

def State.repairWaits (s : State) (a : Nat) : Bool := s.md.repq.any fun e => e.arr == a

def State.walkPaused (s : State) (a : Nat) : Bool := s.flag Reg.MD_CTRL a

/-- May the Mender begin work on an array? Not in STARTUP, not from PFD on, not while it is not ONLINE. -/
def State.menderOk (s : State) (a : Nat) : Bool :=
  s.mode != 0 && !s.pfd && (match s.arr? a with
    | some r => r.state == 1
    | none => false)

/-- Cap of a port in bytes per 10 ms window for an array (R251). -/
def State.rateCap (s : State) (a : Nat) : Nat :=
  let pct := clampN 1 100 (if bit s.md.idleCap a then s.fld Reg.MD_CFG 22 16 else s.fld Reg.MD_CFG 14 8)
  max 1 (s.fld Reg.MD_MBW 15 0) * 1000000 / 100 * pct / 100

/-- Move to the present 10 ms window; bytes beyond the windows' caps carry over. -/
def State.rateRoll (s : State) (a : Nat) : State :=
  let n := (s.now - s.md.rateAt) / 10000
  if n = 0 then s
  else { s with md.rateAt := s.md.rateAt + 10000 * n
                md.rate := (s.md.rate.map fun e => (e.1, e.2 - n * s.rateCap a)).filter fun e => e.2 != 0 }

/-- May a stripe of an array be worked on within the cap? A port that has moved nothing in the window takes one in any
case. -/
def State.rateOk (s : State) (a : Nat) (r : ArrayRec) : Bool :=
  (List.range r.w).all fun p =>
    let used := mapGetD s.md.rate (r.port p) 0
    used == 0 || decide (used + 4096 * r.b ≤ s.rateCap a)

def State.walkMayIssue (s : State) (a : Nat) (r : ArrayRec) : Bool :=
  let w := s.walk a
  s.menderOk a && w.active && !w.stuck && !s.walkPaused a && (s.resyncWaits a).isEmpty && !s.repairWaits a &&
  !s.md.tasks.any (fun t => t.arr == a && match t.kind with
    | .target _ => true
    | _ => false) &&
  decide ((s.md.tasks.filter fun t => t.arr == a && (t.kind.isWalk).isSome).length < clampN 1 32 (s.fld Reg.MD_DEPTH 5 0)) &&
  (s.targets a).any (fun p => match mapGet? s.md.pos (32 * a + p) with
    | some x => decide (w.issued < x.join + r.count)
    | none => false) && s.rateOk a r

def State.walkGo (s : State) (a : Nat) : State := match s.arr? a with
  | none => s
  | some r =>
    let s := s.rateRoll a
    if !s.walkMayIssue a r then s
    else
      let w := s.walk a
      ((s.setWalk a { w with issued := w.issued + 1 }).addTask (.walk w.issued) a (w.issued % r.count) 0 r.b (.step 0)).2

/-- The first repair of the queue that may begin. -/
def State.repairGo (s : State) : State := match s.md.repq.find? fun e => s.menderOk e.arr && (s.resyncWaits e.arr).isEmpty with
  | none => s
  | some e => match s.arr? e.arr with
    | none => s
    | some r =>
      let s := s.rateRoll e.arr
      if !s.rateOk e.arr r then s
      else (State.addTask { s with md.repq := s.md.repq.erase e } (.repair e.pos e.map) e.arr e.stripe 0 r.b (.step 0)).2

/-- Is the frame of a stripe on its way through its destage already, or PARKED? -/
def State.frameGoes (s : State) (a stripe : Nat) : Bool := match s.frameOf a stripe with
  | some (_, f) => f.busy || f.state == Fs.parked || (f.state == Fs.ready && f.cls == 0)
  | none => false

/-- The lowest live RESYNC entry whose stripe is still RESYNC_DUE and not in hand (R263). -/
def State.resyncNext (s : State) : Option LgLive :=
  minBy (fun (e : LgLive) => e.seq) (s.lg.live.filter fun e =>
    s.menderOk e.arr && (s.resyncWaits e.arr).contains e && !s.frameGoes e.arr e.stripe)

def State.resyncGo (s : State) : State := match s.resyncNext with
  | none => s
  | some e => match s.arr? e.arr with
    | none => s
    | some r => match s.frameOf e.arr e.stripe with
      | some (n, _) => s.resyncReady n
      | none => (s.addTask .resync e.arr e.stripe 0 r.b (.step 0)).2

/-- Set SCRUB_DUE on every written stripe of an array (R261). -/
def State.scrubMark (s : State) (a count : Nat) : State := (List.range count).foldl (fun s n =>
  if s.sstState a n = Sst.unwritten then s else s.setSstBit a n 28 true) s

def State.scrubWord (s : State) (a next passes : Nat) : State :=
  s.keepWord (ckBase a + 8) (next % 2 ^ 24 + passes % 2 ^ 32 * 2 ^ 24)

def State.scrubPasses (s : State) (a : Nat) : Nat := bits (s.keepNat (ckBase a + 8) 8) 55 24

def State.scrubOf (s : State) (a : Nat) : Scrub := mapGetD s.md.scrubs a {}
def State.setScrub (s : State) (a : Nat) (x : Scrub) : State := { s with md.scrubs := mapSet s.md.scrubs a x }

/-- Interval between visits in µs. -/
def State.scrubUs (s : State) (r : ArrayRec) : Nat := clampN 1 365 (s.fld Reg.MD_SCRUB 8 0) * 86400000000 / max 1 r.count

/-- May the scrub of an array go on (R261, R264)? -/
def State.scrubMay (s : State) (a : Nat) : Bool :=
  s.menderOk a && s.flag Reg.MD_CFG 0 && !(s.walk a).active && !s.flag Reg.MD_CTRL (4 + a) && (s.resyncWaits a).isEmpty &&
  !s.repairWaits a

/-- A pass begins: every written stripe is due. -/
def State.scrubStart (s : State) (a : Nat) (r : ArrayRec) : State :=
  (s.scrubMark a r.count).setScrub a { s.scrubOf a with running := true, visitAt := s.now, ckAt := s.now }

/-- A pass ends and is counted. -/
def State.scrubDone (s : State) (a : Nat) : State :=
  ((s.scrubWord a 0 (s.scrubPasses a + 1)).setScrub a { s.scrubOf a with running := false, next := 0, ckCount := 0 }).note
    Rank.mender 0x07 Sev.info a

/-- The pass moves on by one stripe. -/
def State.scrubNext (s : State) (a : Nat) : State :=
  s.setScrub a { s.scrubOf a with next := (s.scrubOf a).next + 1, visitAt := s.now, ckCount := (s.scrubOf a).ckCount + 1 }

/-- The visit of one stripe (R261): its first read needs no claim. A DEGRADED stripe is given to repair (R259). -/
def State.scrubAt (s : State) (a : Nat) (r : ArrayRec) (n : Nat) : State :=
  let st := s.sstState a n
  if bit (s.sst a n) 28 = false then s
  else if st = Sst.degraded then (s.repAdd a n 0 0).setSstBit a n 28 false
  else if st = Sst.consistent ∨ st = Sst.open_ ∨ st = Sst.rebuilding then (s.addTask .scrub a n 0 r.b (.step 0)).2
  else s.setSstBit a n 28 false

/-- One visit, or the start or end of a pass. -/
def State.scrubGo (s : State) (a : Nat) : State := match s.arr? a with
  | none => s
  | some r =>
    let s := s.rateRoll a
    if s.scrubMay a = false then s
    else if (s.scrubOf a).running = false then s.scrubStart a r
    else if !s.due (s.scrubOf a).visitAt (s.scrubUs r) ∨ !s.rateOk a r then s
    else if (s.scrubOf a).next ≥ r.count then s.scrubDone a
    else (s.scrubNext a).scrubAt a r (s.scrubOf a).next

/-- The first waiter that may takes a stripe nothing holds (R44). -/
def State.claimNext (s : State) (a stripe : Nat) : State :=
  if (s.holder a stripe).isSome then s
  else
    let may := fun (h : Hold) => h.arr == a && h.stripe == stripe && (match s.task? h.owner with
      | some x => !s.claimShut x
      | none => true)
    match s.st.claimQ.find? may with
    | none => s
    | some h =>
      let s := { s with st.claimQ := s.st.claimQ.erase h }
      match s.task? h.owner with
      | none => s
      | some x => if x.phase = .claim then
          State.taskBegin { s with st.holds := s.st.holds ++ [h] } x.id
        else s

end Sys2Proof.Machine
end

