-- ==== Sys2Proof/Machine/Areas.lean ====
section
/-! DEFINITION. Regions of members outside the data area (Table 02-3): state-area pages (R46), Ledger copies (R102, R103),
labels (R34), rebuild targets before and after the walk (Tables 11-3, 11-4), checkpoints (R252); creating and deleting
arrays, volumes and streams (R49 to R51, Table 02-11); loading a table and replay (R104 to R107); import (R108). -/

namespace Sys2Proof.Machine

/-! ### Ends of background admin commands -/

/-- A background admin command ends with a status and RES0 (R345). -/
def State.adminEnd (s : State) (h st res0 : Nat) : State :=
  let s := { s with st.long := s.st.long.filter fun e => e.1 != h }
  match s.cmd? h with
  | some c => s.finish Rank.reeve { c with status := st, res0 := if st = 0 then res0 else 0, res1 := 0, cflags := 0 }
  | none => s

/-! ### State-area pages (R46) -/

/-- Positions that hold state-area pages. -/
def ArrayRec.pagePos (r : ArrayRec) : List Nat := if r.mirror then List.range r.w else List.range (r.k + 1)

/-- Pages of an array. -/
def ArrayRec.pages (r : ArrayRec) : Nat := ceilDiv r.count 1024

/-- A page as it stands. -/
def State.pageBytes (s : State) (r : ArrayRec) (p : Nat) : List Byte :=
  (List.range (min 1024 (r.count - 1024 * p))).flatMap fun i => toLe 4 (s.scNat (sstAddr (r.base + 1024 * p + i)) 4)

/-- Write a page to the positions given. -/
def State.pageWrite (s : State) (t a : Nat) (r : ArrayRec) (p : Nat) (ps : List Nat) : State :=
  let d := bytesAt (s.pageBytes r p) 0 4096
  ps.foldl (fun s q => s.taskWrite t (r.port q) (16384 + p) q .write [d] [sideTag r.meta_ p s.lgHead (0xFE04 + a) d]) s

/-- A page is on its way to its positions. -/
def State.pageWriting (s : State) (arr page : Nat) : Bool :=
  s.md.tasks.any fun t => t.arr == arr && t.kind == .statePage page

/-- The page of an array is no longer marked changed. -/
def State.pageClean (s : State) (arr page : Nat) : State :=
  { s with st.pages := mapErase s.st.pages (65536 * arr + page) }

/-- Write a page as it stands to every position that takes it; at0 is when its change was noted. -/
def State.pageGo (s : State) (arr page at0 : Nat) (r : ArrayRec) : State :=
  let (t, s) := s.addTask (.statePage page) arr 0 0 0 .write
  let s := s.updTask t fun x => { x with gen := s.lgHead, since := at0 }
  let s := (List.range 64).foldl (fun s i => s.scTouch Req.pages (sstAddr (r.base + 1024 * page) + 64 * i)) (s.pageClean arr page)
  s.pageWrite t arr r page (r.pagePos.filter (s.posWritable arr r))

/-- A state-area page is due: 1 s after its change, or forced by the ring (R101). None is written from PFD on. -/
def execStatePageTimer (arr page : Nat) (s : State) : Out :=
  .next <| match mapGet? s.st.pages (65536 * arr + page), s.arr? arr with
    | some at0, some r =>
      if s.pfd ∨ !(s.due at0 1000000 || s.lgForced arr page) ∨ s.pageWriting arr page then s
      else s.pageGo arr page at0 r
    | _, _ => s

/-- Once the live entries reach the ring's high water mark, the pages of the oldest are written at once (R101). -/
def State.lgForce (s : State) : State :=
  if s.pfd then s
  else (s.st.pages.filter fun e => s.lgForced (e.1 / 65536) (e.1 % 65536)).foldl (fun s e =>
    match s.arr? (e.1 / 65536) with
    | some r => if s.pageWriting (e.1 / 65536) (e.1 % 65536) then s else s.pageGo (e.1 / 65536) (e.1 % 65536) e.2 r
    | none => s) s

/-- The copies of a page are written: entries it covers retire; a page that reached no member is due again. -/
def State.pageEnd (s : State) (t : Nat) (x : Task) (r : ArrayRec) (p : Nat) : State :=
  let ps := r.pagePos.filter (s.posWritable x.arr r)
  let s := s.endTask t
  if ps.all x.fails.contains then
    { s with st.pages := match mapGet? s.st.pages (65536 * x.arr + p) with
        | some _ => s.st.pages
        | none => mapSet s.st.pages (65536 * x.arr + p) s.now }
  else s.lgPaged x.arr p x.gen

/-! ### Ledger copies (R102, R103) -/

/-- Write copy blocks at positions, with FUA. -/
def State.copyWrite (s : State) (t a : Nat) (r : ArrayRec) (ks ps : List Nat) : State :=
  (runs ks).foldl (fun s q =>
    let l := (List.range q.2).map (q.1 + ·)
    let d := l.map fun k => s.copyBlock a k
    let g := l.map fun k => s.copyTag a k r.meta_
    ps.foldl (fun s p => s.taskWrite t (r.port p) (4096 + q.1) p .writeFua d g) s) s

/-- Start restoring a missing copy, A first, where a position qualifies. -/
def State.copyFill (s : State) (a : Nat) (target : Option Nat) : State := match s.arr? a with
  | none => s
  | some r =>
    if (mapGet? s.lg.moving a).isSome ∨ (s.copyChoice a r target).isNone then s
    else if r.copyA.isNone then s.copyMove a false target
    else if r.copyB.isNone then s.copyMove a true target
    else s

/-- A write of a copy block failed at a position: it is excluded, and the copy moves. -/
def State.copyFailed (s : State) (a p : Nat) : State := match s.arr? a with
  | none => s
  | some r =>
    let s := { s with lg.excl := mapUpd s.lg.excl a 0 (· ||| 1 <<< p) }.bump Reg.LG_CPY_ERR
    if r.copyA = some p then s.copyMove a false none
    else if r.copyB = some p then s.copyMove a true none else s

def execCopyBlockTimer (arr blk : Nat) (s : State) : Out :=
  .next <| match mapGet? s.lg.copies (1024 * arr + blk) with
    | some at0 => if s.pfd ∨ !s.due at0 s.copyUs then s else s.copyAsk arr blk
    | none => s

/-- A copy block task with nothing outstanding: it begins, or its writes have ended. -/
def State.copyGo (s : State) (t k : Nat) (x : Task) (r : ArrayRec) : State :=
  if x.phase = .step 0 then
    let s := { s.setPhase t .write with lg.copies := mapErase s.lg.copies (1024 * x.arr + k) }
    let waiting := (s.md.tasks.filter fun y => y.arr == x.arr && y.phase == .copyOpen && y.left == [k]).map (·.id)
    (s.updTask t fun y => { y with left := waiting }).copyWrite t x.arr r [k] (r.copies.filter fun p => !bit r.failed p)
  else
    let s := (s.endTask t)
    let s := x.fails.foldl (fun s p => s.copyFailed x.arr p) s
    if (mapGet? s.lg.moving x.arr).isSome then s
    else { s with md.tasks := s.md.tasks.map fun y =>
        if x.left.contains y.id && y.phase == .copyOpen then { y with phase := .encode } else y }

/-- Blocks of the ring whose slots took entries after a SEQ. -/
def blksSince (a b : Nat) : List Nat := ((List.range (min 16384 (b - a))).map fun i => (a + 1 + i) % 16384 / 128).eraseDups

/-- A copy move with nothing outstanding (R103 steps 2 to 5). -/
def State.moveGo (s : State) (t : Nat) (x : Task) (r : ArrayRec) : State := match mapGet? s.lg.moving x.arr with
  | none => s.endTask t
  | some (p, isB) =>
    if x.phase = .step 0 then
      (s.setTask { x with phase := .write, gen := s.lgHead, outst := 0 }).copyWrite t x.arr r (List.range 128) [p]
    else if !x.fails.isEmpty then
      let s := { s.endTask t with lg.moving := mapErase s.lg.moving x.arr }
      let s := { s with lg.excl := mapUpd s.lg.excl x.arr 0 (· ||| 1 <<< p) }.bump Reg.LG_CPY_ERR
      let s := s.copyMove x.arr isB none
      if (mapGet? s.lg.moving x.arr).isSome then s else s.copyFree x.arr
    else
      let l := blksSince x.gen s.lgHead
      if !l.isEmpty then
        (s.setTask { x with gen := s.lgHead, outst := 0 }).copyWrite t x.arr r l [p]
      else
        let r' := if isB then { r with copyB := some p } else { r with copyA := some p }
        let s := (s.endTask t).setArr x.arr { r' with moves := min 0xFFFF (r.moves + 1) }
        ({ s with lg.moving := mapErase s.lg.moving x.arr }.copyFree x.arr).copyFill x.arr none

/-! ### Labels (R34, R37) -/

/-- Raise LABEL_GEN of a position, in the Keep. -/
def State.labelRaise (s : State) (a p : Nat) : State := s.updArr a fun r =>
  { r with labelGen := r.labelGen.set p (r.labelGen.getD p 0 + 1) }

/-- Write label A (LBA 0) or B (LBA 8) of a position; each write raises LABEL_GEN (R34, log entry 128). -/
def State.labelWrite (s : State) (t a p lba : Nat) (zf : Bool) : State :=
  let s := s.labelRaise a p
  match s.arr? a with
  | none => s
  | some r =>
    let g := r.labelGen.getD p 0
    let d := bytesAt (labelBytes a p g r zf) 0 4096
    s.taskWrite t (r.port p) lba p .write [d] [sideTag r.meta_ lba g 0xFE00 d]

/-- Positions with a member that takes writes. -/
def State.presentPos (s : State) (r : ArrayRec) : List Nat := (List.range r.w).filter fun p =>
  (s.port (r.port p)).state == Ps.ready && !(s.port (r.port p)).failed

/-! ### Rebuild targets (Tables 11-3 and 11-4) -/

/-- A target's regions before the data area. -/
def State.targetGo (s : State) (t p : Nat) (x : Task) (r : ArrayRec) : State :=
  if !x.fails.isEmpty then s.targetFail x.arr p
  else match x.phase with
    | .step 0 => (s.setPhase t (.step 1)).labelWrite t x.arr p 0 false
    | .step 1 => (s.setPhase t (.step 2)).labelWrite t x.arr p 8 false
    | .step 2 =>
      let l := if r.pagePos.contains p then List.range r.pages else []
      (s.setTask { x with phase := .step 3, left := l })
    | .step 3 => match x.left with
      | [] =>
        let s := if r.copies.length < 2 ∧ !r.copies.contains p then s.copyFill x.arr (some p) else s
        if (mapGet? s.lg.moving x.arr).isSome then s.setPhase t .copyOpen else s.setPhase t (.step 4)
      | q :: l => (s.setTask { x with left := l, outst := 0 }).pageWrite t x.arr r q [p]
    | .step 4 => (s.setPhase t (.step 5)).taskFlush t r [p]
    | _ => s.endTask t

/-- A position's completion. -/
def State.targetEndGo (s : State) (t p : Nat) (x : Task) (r : ArrayRec) : State :=
  if !x.fails.isEmpty then s.targetFail x.arr p
  else if x.phase = .step 0 then (s.setPhase t (.step 1)).taskFlush t r [p]
  else
    let a := x.arr
    let s := s.endTask t
    let s := s.updArr a fun r => { r with failed := r.failed &&& (0xFFFFFFFF ^^^ 1 <<< p) }
    let s := { s with lg.excl := mapUpd s.lg.excl a 0 (· &&& (0xFFFFFFFF ^^^ 1 <<< p)) }
    let s := s.putPos a p none
    let s := if (s.targets a).isEmpty then
        let w := s.walk a
        (s.putWalk a w.walked false).setWalk a { w with active := false }
      else s
    (s.note Rank.mender 0x04 Sev.notice a).tlUpdate

/-! ### Checkpoints (R252) -/

/-- The WALK word is written once every target has been flushed. -/
def State.checkpointGo (s : State) (t : Nat) (x : Task) (r : ArrayRec) : State :=
  if x.phase = .step 0 then
    let w := s.walk x.arr
    (s.setTask { x with phase := .step 1, gen := w.walked, outst := 0 }).taskFlush t r (s.targets x.arr)
  else
    let s := s.endTask t
    let s := x.fails.foldl (fun s p => s.targetFail x.arr p) s
    let w := s.walk x.arr
    if !x.fails.isEmpty ∨ s.pfd ∨ !w.active then s
    else (s.putWalk x.arr x.gen true).setWalk x.arr { w with ckAt := s.now, ckWalked := x.gen }

def execRebuildCheckpoint (arr : Nat) (s : State) : Out :=
  .next <|
    let w := s.walk arr
    if s.pfd ∨ !w.active ∨ w.walked ≤ w.ckWalked ∨ s.md.tasks.any (fun t => t.arr == arr && t.kind == .checkpoint) then s
    else if w.walked ≥ w.ckWalked + 4096 ∨ s.due w.ckAt 1000000 then (s.addTask .checkpoint arr 0 0 0 (.step 0)).2
    else s

def execScrubCheckpoint (arr : Nat) (s : State) : Out :=
  .next <|
    let x := s.scrubOf arr
    if s.pfd ∨ !x.running ∨ x.ckCount = 0 then s
    else if x.ckCount ≥ 65536 ∨ s.due x.ckAt 60000000 then
      (s.scrubWord arr x.next (s.scrubPasses arr)).setScrub arr { x with ckAt := s.now, ckCount := 0 }
    else s

/-! ### Creating and deleting arrays (R49, R51) -/

/-- The record and everything tied to an array are removed; its ports become unassigned. Its live Ledger entries leave the live list
(DESIGN CHOICE, log entry 144: no page of it can retire them any more). -/
def State.arrayRemove (s : State) (a : Nat) : State :=
  let s := (s.md.tasks.filter fun t => t.arr == a && !(match t.kind with
    | .delete _ => true
    | _ => false)).foldl (fun s t => s.endTask t.id) s
  let ports := match s.arr? a with
    | some r => (List.range r.w).map r.port
    | none => []
  let s := s.keepRec (Reg.ST_ACFG a) fun s => { s with st.arrays := mapErase s.st.arrays a }
  let s := (ports.foldl State.portFree s).sbSync
  let s := (List.range 32).foldl (fun s p => if s.posTarget a p then s.putPos a p none else s) s
  let s := if (s.walkIssued a).isSome then s.putWalk a 0 false else s
  ({ s with st.pages := s.st.pages.filter fun e => e.1 / 65536 != a
            st.holds := s.st.holds.filter fun e => e.arr != a
            st.claimQ := s.st.claimQ.filter fun e => e.arr != a
            md.walks := mapErase s.md.walks a
            md.scrubs := mapErase s.md.scrubs a
            md.repq := s.md.repq.filter fun e => e.arr != a
            ld.frames := s.ld.frames.filter fun e => e.2.arr != a
            lg.copies := s.lg.copies.filter fun e => e.1 / 1024 != a
            lg.moving := mapErase s.lg.moving a
            lg.torn := s.lg.torn.filter fun e => e.1 != a
            lg.excl := mapErase s.lg.excl a
            lg.live := s.lg.live.filter fun e => e.arr != a || decide (e.kind ≥ 5)
            lg.replayed := s.lg.replayed &&& (15 ^^^ 1 <<< a) }).tlUpdate

/-- Deletion of an array: both labels of every member with zero signature bytes, then the record. -/
def State.deleteGo (s : State) (t h : Nat) (x : Task) (r : ArrayRec) : State := match x.phase with
  | .step 0 => (s.presentPos r).foldl (fun s p => s.labelWrite t x.arr p 0 true) (s.setPhase t (.step 1))
  | .step 1 => (s.presentPos r).foldl (fun s p => s.labelWrite t x.arr p 8 true) (s.setPhase t (.step 2))
  | _ =>
    let s := (s.arrayRemove x.arr).endTask t
    match s.cmd? h with
    | some c => s.adminEnd h c.status 0
    | none => s

/-- Begin the deletion of an array for a command that ends with a status. -/
def State.deleteStart (s : State) (a h st : Nat) : State :=
  let s := s.updArr a fun r => { r with state := 3 }
  let s := (s.md.tasks.filter fun t => t.arr == a).foldl (fun s t => s.cancelTask t.id) s
  ((s.updCmd h fun c => { c with status := st }).addTask (.delete h) a 0 0 0 (.step 0)).2

/-- Creation steps 3 to 5 of Table 02-11; a failed write or an absent member removes the array. -/
def State.createGo (s : State) (t h : Nat) (x : Task) (r : ArrayRec) : State :=
  let all := List.range r.w
  if all.any (fun p => (s.port (r.port p)).state = Ps.absent) then (s.endTask t).deleteStart x.arr h St.memberAbsent
  else if !x.fails.isEmpty then (s.endTask t).deleteStart x.arr h St.memberUnsuitable
  else match x.phase with
    | .step 0 => r.pagePos.foldl (fun s p =>
        s.taskCmd t (mcmd (r.port p) .writeZeroes 16384 16384 (.write t p))) (s.setPhase t (.step 1))
    | .step 1 => all.foldl (fun s p => s.labelWrite t x.arr p 0 false) (s.setPhase t (.step 2))
    | .step 2 => all.foldl (fun s p => s.labelWrite t x.arr p 8 false) (s.setPhase t (.step 3))
    | .step 3 => (s.setPhase t (.step 4)).taskFlush t r all
    | _ =>
      let s := (s.endTask t).setArr x.arr { r with state := 1 }
      ({ s with lg.replayed := s.lg.replayed ||| 1 <<< x.arr }.tlUpdate).adminEnd h St.success x.arr

/-! ### Deleting volumes and streams (R50, R122) -/

/-- Extent of a volume or of a stream (numbered from 256) in array stripes. -/
def State.extentOf (s : State) (v : Nat) : Option (Nat × Nat × Nat) :=
  if v < 256 then (s.vol? v).map fun x => (x.arr, x.base, x.count)
  else match s.stream? (v - 256) with
    | none => none
    | some x => (s.vol? x.vol).map fun y => (y.arr, y.base + x.base, x.count)

/-- Return free stripes of an extent to UNWRITTEN, until one is held by a task or by a restore (R44); the number left comes with it. -/
def State.unwriteRun (s : State) (a : Nat) : Nat → Nat → Nat × State
  | _, 0 => (0, s)
  | st, n + 1 =>
    if (s.holder a st).isSome ∨ s.rsHolds a st = true then (n + 1, s)
    else
      let s := if s.sstState a st = Sst.unwritten then s else s.sstUnwrite a st false
      s.unwriteRun a (st + 1) n

/-- Deletion of a volume or stream extent: slots discarded, each stripe UNWRITTEN once nothing holds it, the member ranges
deallocated, the record removed. -/
def State.volDeleteGo (s : State) (t h v : Nat) (x : Task) : State := match s.extentOf v, s.arr? x.arr with
  | some (a, base, count), some r => match x.phase with
    | .step 0 =>
      let s := s.framesGo fun f => f.arr == a && decide (base ≤ f.stripe) && decide (f.stripe < base + count)
      let (left, s) := s.unwriteRun a x.stripe (base + count - x.stripe)
      if left = 0 then
        let s := s.setPhase t (.step 2)
        let lba := r.lba base 0
        (s.presentPos r).foldl (fun s p => s.taskCmd t (mcmd (r.port p) .dealloc lba (count * r.b) (.write t p))) s
      else
        let st := base + count - left
        (s.setTask { x with stripe := st, outst := 0 }).taskClaim t
    | .step 1 => (s.unclaim t).setPhase t (.step 0)
    | _ =>
      let s := s.endTask t
      let s := if v < 256 then
          s.keepRec ((Reg.ST_VCFG + v)) fun s => { s with
            st.vols := mapErase s.st.vols v, sv.ready := s.sv.ready.filter (· != v)
            sv.streams := s.sv.streams.filter fun e => e.2.vol != v }
        else s.keepRec (Reg.SV_LCFG + (v - 256)) fun s => { s with sv.streams := mapErase s.sv.streams (v - 256) }
      s.adminEnd h St.success 0
  | _, _ => (s.endTask t).adminEnd h St.success 0

/-- Commands in flight that name a volume or a stream of it. -/
def State.volBusy (s : State) (v : Nat) : Bool := s.cmds.any fun c => isPf0 c.f && c.running && s.cmdVol c == some v

/-- The deletion of a volume has its task. -/
def State.volTasks (s : State) (vol : Nat) : Bool := s.md.tasks.any fun t => match t.kind with
  | .volDelete _ w => w == vol
  | _ => false

/-- Handle of the VOLUME_DELETE of a volume; 0 for none. -/
def State.volDelH (s : State) (vol : Nat) : Nat :=
  match s.st.long.find? (fun e => e.2 == 0x84 && (match s.cmd? e.1 with
    | some c => Ent.tgt c.ent == vol
    | none => false)) with
  | some e => e.1
  | none => 0

/-- Frames of a deleted volume go. -/
def State.volFramesGo (s : State) (vol : Nat) : State := s.framesGo fun f => f.vol == vol

/-- The deletion of a volume proceeds once no command to it is in flight (R50). -/
def execVolumeDeleteProceed (vol : Nat) (s : State) : Out :=
  .next <| match s.vol? vol with
    | none => s
    | some v =>
      if v.deleting = false ∨ s.volBusy vol ∨ s.volTasks vol then s
      else ((s.volFramesGo vol).addTask (.volDelete (s.volDelH vol) vol) v.arr v.base 0 0 (.step 0)).2

/-! ### Replay (R104, R105, Table 05-4) -/

/-- Valid entries of the Keep ring. -/
def State.ringEntries (s : State) : List LgEnt := (List.range 16384).filterMap fun i =>
  if s.lgOk i then some (lgDecode (s.lgRaw i)) else none

/-- Entries sorted by SEQ, one for each. -/
def lgSort (l : List LgEnt) : List LgEnt := (l.foldl (fun (m : NMap LgEnt) e => mapSet m e.seq e) []).map (·.2)

/-- Slots of the ring that are corrupt (R107). -/
def State.ringCorrupt (s : State) (head : Nat) : Bool := (List.range 16384).any fun i =>
  let back := (head + 16384 - i) % 16384
  decide (back < head) && i != (head + 1) % 16384 && !s.lgOk i

/-- Comparison of GEN_LO values: 0 equal, 1 newer, 2 older. -/
def genCmp (ge gt : Nat) : Nat :=
  let d := (ge % 2 ^ 24 + 2 ^ 24 - gt % 2 ^ 24) % 2 ^ 24
  if d = 0 then 0 else if d < 2 ^ 23 then 1 else 2

/-- Outcome of the latest entry of a stripe; none keeps the found state. -/
def replayOutcome (e : LgEnt) (newer : Bool) (found : Nat) : Option Nat :=
  let settle := fun target from_ => if newer then some target else if found = from_ then some target else none
  if e.kind = Lk.open_ ∨ e.kind = Lk.resync then some Sst.resyncDue
  else if e.kind = Lk.lost then some Sst.lost
  else if e.frame = 0xFFFFE then settle Sst.unwritten Sst.lost
  else if e.mask = 0 then settle Sst.consistent Sst.open_
  else settle Sst.degraded Sst.open_

/-- Is an entry of a stripe's list followed by a CLOSE there? -/
def lgClosed (l : List (LgEnt × Bool)) (e : LgEnt) : Bool := l.any fun c => c.1.kind == Lk.close && decide (c.1.seq > e.seq)

/-- Entries of a stripe that are live after its replay (R100): those newer than the table, and those no CLOSE follows. Where the
latest is a CLOSE that the table already shows, a page written after it has retired them all (log entry 56). -/
def replayLive (l : List (LgEnt × Bool)) (latest : LgEnt) (kept : Bool) : List LgEnt :=
  if kept && latest.kind == Lk.close then [] else (l.filter fun e => e.2 || !lgClosed l e.1).map (·.1)

/-- List replayed entries of an array as live. -/
def State.lgRelist (s : State) (a : Nat) (l : List LgEnt) : State :=
  { s with lg.live := s.lg.live ++ l.map fun e => ⟨e.seq, e.kind, a, e.stripe, e.gen, e.frame, false⟩ }

/-- Count a state that replay sets. -/
def State.replayCount (s : State) (st : Nat) : State :=
  if st = Sst.resyncDue then s.bump Reg.LG_RP_RESYNC
  else if st = Sst.degraded then s.bump Reg.LG_RP_DEGRADED
  else if st = Sst.lost then s.bump Reg.LG_RP_LOST
  else if st = Sst.consistent then s.bump Reg.LG_RP_CLEAN else s

/-- Apply the outcome of a stripe's entries, those that are not ignored in increasing SEQ, each with whether it is newer than the
table (Table 05-4); the last one decides. -/
def State.replayStripe (s : State) (a : Nat) (l : List (LgEnt × Bool)) : State := match l.getLast? with
  | none => s
  | some (e, newer) =>
    let found := s.sstState a e.stripe
    if found = Sst.hampered then
      let s := s.lgRelist a ((l.filter fun x => !lgClosed l x.1 && x.1.kind != Lk.close).map (·.1))
      if newer then s.setSstGen a e.stripe Sst.hampered (e.gen % 2 ^ 24) else s
    else match replayOutcome e newer found with
      | none => s.lgRelist a (replayLive l e true)
      | some st =>
        let s := s.setSstGen a e.stripe st (e.gen % 2 ^ 24)
        let s := if st = Sst.unwritten then s.sstUnwrite a e.stripe true else s
        let s := if found = Sst.unwritten ∧ st = Sst.resyncDue then { s with ld.firsts := (a, e.stripe) :: s.ld.firsts } else s
        (s.lgRelist a (replayLive l e (found == st && !newer))).replayCount st

/-- Stripes still OPEN once their entries have been replayed, and stripes REBUILDING with no entry that counts (R105 overrides). -/
def State.replayRest (s : State) (a : Nat) (r : ArrayRec) (named : Nat → Bool) : State := (List.range r.count).foldl (fun s st =>
  let x := s.sstState a st
  if x = Sst.open_ then
    let g := (s.sstGen a st + 1) % 2 ^ 24
    (State.setSstGen { s with lg.torn := (a, st, g) :: s.lg.torn } a st Sst.resyncDue g).bump Reg.LG_RP_RESYNC
  else if x = Sst.rebuilding ∧ named st = false then
    if r.failed ≠ 0 then (s.setSstState a st Sst.consistent).bump Reg.LG_RP_CLEAN
    else (s.setSstState a st Sst.degraded).bump Reg.LG_RP_DEGRADED
  else s) s

/-- The entries of each stripe that are not ignored (R105), in increasing SEQ. -/
def State.replayMap (s : State) (a : Nat) (l : List LgEnt) : NMap (List (LgEnt × Bool)) :=
  l.foldl (fun m e =>
    let c := genCmp (e.gen % 2 ^ 24) (s.sstGen a e.stripe)
    if c = 2 then m else mapUpd m e.stripe [] (· ++ [(e, c == 1)])) []

/-- The counters of the last replay or import start again. -/
def State.rpClear (s : State) : State :=
  [Reg.LG_RP_READ, Reg.LG_RP_RESYNC, Reg.LG_RP_DEGRADED, Reg.LG_RP_LOST, Reg.LG_RP_CLEAN].foldl (fun s k => s.setReg k 0) s

/-- Replay a window of entries on an array's table, raise its epoch, and order a RESYNC entry for every stripe the replay set
RESYNC_DUE. -/
def State.replay (s : State) (a : Nat) (win : List LgEnt) (up : Nat) : State := match s.arr? a with
  | none => s
  | some r =>
    let mine := win.filter fun e => decide (e.kind ≤ 4) && decide (e.stripe < r.count)
    let s := s.bumpN Reg.LG_RP_READ mine.length
    let s := mine.foldl (fun s e => s.sstLook Req.replay a e.stripe) s
    let was := (List.range r.count).filter fun st => s.sstState a st == Sst.resyncDue
    let m := s.replayMap a mine
    let s := m.foldl (fun s e => s.replayStripe a e.2) s
    let s := s.replayRest a r fun st => (mapGet? m st).isSome
    let top := maxN (mine.map fun e => e.gen / 2 ^ 24) + up
    let s := s.updArr a fun r => { r with epoch := max r.epoch top % 2 ^ 24 }
    let due := (List.range r.count).filter fun st => s.sstState a st == Sst.resyncDue &&
      (!was.contains st || (mapGet? m st).isSome)
    due.foldl (fun s st => s.lgAsk { unit := 3, kind := Lk.resync, arr := a, stripe := st, gen := s.genNow a st, mask := 0
                                     frame := 0xFFFFF, dump := [], cont := .replay, counted := false }) s

/-! ### Loading a table (R46) and merging copies (R107) -/

/-- Blocks read by a region task: the block at 64 × position, its tag at 64 × position + 1. Copy blocks go above them, at
2,048 + 128 × position + block. -/
def areaKey (p lba : Nat) : Nat := if 4096 ≤ lba ∧ lba < 4224 then 4096 + 128 * p + (lba - 4096) else 64 * p + 2 * (lba % 32)

/-- A region read of a task has arrived. -/
def State.areaRead (s : State) (t p lba n : Nat) (ok : Bool) (pay : MPayload) : State :=
  if !ok then s
  else
    let put := fun (m : NMap (List Byte)) (i : Nat) => match payBlk pay i with
      | some b =>
        let k := areaKey p (lba + i)
        let m := mapSet m k (bytesAt b.data 0 4096)
        if 4096 ≤ lba ∧ lba < 4224 then m else mapSet m (k + 1) b.tag
      | none => m
    s.updTask t fun x => { x with bufs := (List.range n).foldl put x.bufs }

/-- Entries of the copies a task has read. -/
def Task.copyEntries (x : Task) (old : Nat) : List LgEnt := (x.bufs.filter fun e => decide (e.1 ≥ 4096)).flatMap fun e =>
  let k := e.1 % 128
  (List.range 128).filterMap fun i =>
    let b := bytesAt e.2 (32 * i) 32
    if lgValid b (128 * k + i) && (lgDecode b).arr == old && decide ((lgDecode b).kind ≤ 4) then some (lgDecode b) else none

/-- The copies of a page that arrived, best first by Table 02-12's SEQ, or by majority without tags (R46). -/
def Task.pageBest (x : Task) (r : ArrayRec) (p lba : Nat) (a : Nat) : Option (List Byte) :=
  let got := r.pagePos.filterMap fun q => (mapGet? x.bufs (areaKey q lba)).map fun b => (b, mapGetD x.bufs (areaKey q lba + 1) [])
  if r.meta_ = 0 then
    match got.find? fun g => decide (2 * (got.filter fun h => h.1 == g.1).length > got.length) with
    | some g => some g.1
    | none => (got.head?).map (·.1)
  else
    let seq := fun (g : List Byte × List Byte) => if r.meta_ = 2 then leAt g.2 8 6 else leAt g.2 4 4
    let ok := got.filter fun g => leAt g.2 0 4 == crc32c g.1 &&
      (r.meta_ != 2 || (leAt g.2 4 4 == p && leAt g.2 14 2 == 0xFE04 + a))
    (ok.foldl (fun (m : Option (List Byte × List Byte)) g => match m with
      | none => some g
      | some h => if seq g > seq h then some g else some h) none).map (·.1)

/-- Put a loaded page into the table. A page no copy gives leaves its entries as they are. -/
def State.pageLoad (s : State) (r : ArrayRec) (p : Nat) (b : List Byte) : State :=
  let n := 4 * min 1024 (r.count - 1024 * p)
  s.memPut (sstAddr (r.base + 1024 * p)) (bytesAt b 0 n)

/-- Read a block of a region from positions. -/
def State.areaAsk (s : State) (t : Nat) (r : ArrayRec) (ps : List Nat) (lba n : Nat) : State :=
  ps.foldl (fun s p => s.taskCmd t (mcmd (r.port p) .read lba n (.read t p lba))) s

/-- Loading a table at STARTUP. Both copies of the array are read whole, which shows the newest block of each; their entries are merged
where the Keep ring is corrupt or behind (R107), and forgotten else. -/
def State.loadGo (s : State) (t h : Nat) (x : Task) (r : ArrayRec) : State :=
  let a := x.arr
  let ps := s.presentPos r
  match x.phase with
  | .step 0 => (s.setPhase t (.step 1)).areaAsk t r (ps.filter r.copies.contains) 4096 128
  | .step 1 =>
    let hi := maxN ((x.copyEntries a).map (·.seq))
    if h = 0 ∧ (hi > s.lgHead ∨ s.ringCorrupt s.lgHead) then
      ((s.setFlag Reg.LG_STATUS 4 true).note Rank.ledger (Config.eventValue 4) Sev.fault a).setPhase t (.step 2)
    else s.setTask { x with phase := .step 2, outst := 0, bufs := [] }
  | .step 2 => s.setTask { x with phase := .step 3, left := List.range r.pages, stripe := 0, outst := 0 }
  | .step 3 => match x.left with
    | [] => s.setPhase t (.step 4)
    | p :: _ => (s.setPhase t (.step 5)).areaAsk t r (ps.filter r.pagePos.contains) (16384 + p) 1
  | .step 5 => match x.left with
    | [] => s.setPhase t (.step 4)
    | p :: l =>
      let s := match x.pageBest r p (16384 + p) a with
        | some b => s.pageLoad r p b
        | none => s
      s.setTask { x with phase := .step 3, left := l, outst := 0, bufs := x.bufs.filter fun e => decide (e.1 ≥ 4096) }
  | _ => s

/-! ### Import (R108) -/

/-- Ports an import reads: READY members in no array and no spare. -/
def State.freePorts (s : State) : List Nat :=
  (List.range 32).filter fun p => s.portExists p && (s.port p).state == Ps.ready && !s.assigned p

/-- Label of a port as the task holds it: of the two copies that check, the one with the higher LABEL_GEN (R34); none where that one
is of a removed array. -/
def Task.label (x : Task) (p : Nat) : Option (List Byte) :=
  let l := [mapGet? x.bufs (areaKey p 0), mapGet? x.bufs (areaKey p 8)].filterMap fun b => match b with
    | some b => if labelOk (bytesAt b 0 64) then some (bytesAt b 0 64) else none
    | none => none
  (match l with
  | [] => none
  | [b] => some b
  | b :: c :: _ => some (if leAt c 40 8 > leAt b 40 8 then c else b)).filter labelSigned

/-- The array record a label describes, on the ports whose labels carry its identifier. -/
def recOfLabel (b : List Byte) (ports : List (Nat × Nat × Nat)) (mask : Nat) : ArrayRec :=
  let kind := leAt b 26 1
  let dw := leAt b 27 1
  let k := leAt b 28 1
  let w := if kind ≠ 0 then dw * (k + 1) else dw + k
  let at_ := fun p => ports.find? fun e => e.2.1 == p
  { kind := kind, dw := dw, k := k, chunk := leAt b 29 1, meta_ := leAt b 30 1, state := 0, base := 0, count := leAt b 32 4
    epoch := 0, failed := mask
    pos := (List.range w).map fun p => match at_ p with
      | some e => e.1
      | none => 31
    h := leAt b 36 4, ident := bytesAt b 8 16, created := leAt b 48 6
    labelGen := (List.range w).map fun p => match at_ p with
      | some e => e.2.2
      | none => 0
    copyA := none, copyB := none, moves := 0, nguid := List.replicate w [] }

/-- End an import with a refusal; nothing has changed. -/
def State.importRefuse (s : State) (t h st : Nat) : State :=
  ((s.endTask t).setFlag Reg.LG_STATUS 5 false).adminEnd h st 0

/-- Labels of the free ports are in: choose the members and the geometry, and read the copy region of every member; or refuse. Of two
members whose labels claim one position, the one on the lower port is taken (DESIGN CHOICE, log entry 144). -/
def State.importPlan (s : State) (t h : Nat) (x : Task) : State :=
  let aid := match s.cmd? h with
    | some c => bytesAt (Ent.p3 c.ent) 0 16
    | none => []
  let ms := s.freePorts.filterMap fun p => match x.label p with
    | some b => if bytesAt b 8 16 = aid then some (p, b) else none
    | none => none
  match ms.foldl (fun (m : Option (Nat × List Byte)) e => match m with
      | none => some e
      | some f => if leAt e.2 40 8 > leAt f.2 40 8 then some e else some f) none with
  | none => s.importRefuse t h St.invalidField
  | some (_, g) =>
    let kind := leAt g 26 1
    let w := if kind ≠ 0 then leAt g 27 1 * (leAt g 28 1 + 1) else leAt g 27 1 + leAt g 28 1
    let ports := (List.range w).filterMap fun p => (ms.find? fun e => leAt e.2 25 1 == p).map fun e => (e.1, p, leAt e.2 40 8)
    let miss := (List.range w).filter fun p => !ports.any fun e => e.2.1 == p
    let r := recOfLabel g ports (toMask miss)
    if beyond r Sst.consistent miss then s.importRefuse t h St.arrayIncomplete
    else match firstFit s.entryRanges r.count sstEntries with
      | none => s.importRefuse t h St.noSpace
      | some base =>
        let old := leAt g 24 1
        match (if (s.arr? old).isNone ∧ old < 4 then some old else (List.range 4).find? fun a => (s.arr? a).isNone) with
        | none => s.importRefuse t h St.limit
        | some a =>
          let r := { r with base := base, nguid := r.pos.map fun p => (s.port p).nguid }
          let s := s.setArr a r
          let s := s.memPut (sstAddr base) (zeros (4 * r.count))
          let s := s.setTask { x with arr := a, phase := .step 2, prev := old, outst := 0, bufs := [] }
          ms.foldl (fun s e => s.taskCmd t (mcmd e.1 .read 4096 128 (.read t e.1 4096))) s

/-- An import's steps: labels of every free port, copies, table, replay, labels rewritten, copies, ONLINE. -/
def State.importGo (s : State) (t h : Nat) (x : Task) : State := match x.phase with
  | .step 0 => s.freePorts.foldl (fun s p =>
      (s.taskCmd t (mcmd p .read 0 1 (.read t p 0))).taskCmd t (mcmd p .read 8 1 (.read t p 8))) (s.setPhase t (.step 1))
  | .step 1 => s.importPlan t h x
  | .step n => match s.arr? x.arr with
    | none => s.importRefuse t h St.arrayIncomplete
    | some r =>
      let ps := (s.presentPos r).filter fun p => !bit r.failed p
      if n = 2 then s.setTask { x with phase := .step 3, left := List.range r.pages, outst := 0 }
      else if n = 3 then match x.left with
        | [] => s.setPhase t (.step 5)
        | p :: _ => (s.setPhase t (.step 4)).areaAsk t r (ps.filter r.pagePos.contains) (16384 + p) 1
      else if n = 4 then match x.left with
        | [] => s.setPhase t (.step 5)
        | p :: l =>
          let s := match x.pageBest r p (16384 + p) x.prev with
            | some b => s.pageLoad r p b
            | none => s
          s.setTask { x with phase := .step 3, left := l, outst := 0, bufs := x.bufs.filter fun e => decide (e.1 ≥ 4096) }
      else if n = 5 then
        let es := lgSort (x.copyEntries x.prev)
        let hi := maxN (es.map (·.seq))
        let win := es.filter fun e => decide (e.seq + 16384 > hi)
        let s := (s.rpClear.replay x.arr win 1).setReg64 Reg.LG_HEAD_LO (max s.lgHead hi)
        let s := { s with st.pages := (List.range r.pages).foldl (fun m p => mapSet m (65536 * x.arr + p) s.now) s.st.pages }
        ps.foldl (fun s p => s.labelWrite t x.arr p 0 false) (s.setPhase t (.step 6))
      else if n = 6 then ps.foldl (fun s p => s.labelWrite t x.arr p 8 false) (s.setPhase t (.step 7))
      else if n = 7 then
        let s := (s.setPhase t .copyOpen).copyFill x.arr none
        if (mapGet? s.lg.moving x.arr).isSome then s else s.setPhase t (.step 9)
      else if n = 9 ∧ (mapGet? s.lg.moving x.arr).isSome then s.setPhase t .copyOpen
      else
        let s := (s.endTask t).setArr x.arr { r with state := 1 }
        let s := { s with lg.replayed := s.lg.replayed ||| 1 <<< x.arr }.setFlag Reg.LG_STATUS 5 false
        let s := ((List.range r.w).filter fun p => bit r.failed p).foldl (fun s p => s.chooseTarget x.arr p) s
        s.tlUpdate.adminEnd h St.success x.arr
  | _ => s

end Sys2Proof.Machine
end

