-- ==== Sys2Proof/Machine/Millwheel.lean ====
section
/-! DEFINITION. The Millwheel (chapter 09): observer, flux and torque estimates, switching table, states, chopper, short,
protection, speed command and commissioning. Real.lean holds the functions its formulas use; log entry 148 lists its choices. -/

namespace Sys2Proof.Machine

namespace Ms
def off : Nat := 0
def align : Nat := 1
def ramp : Nat := 2
def catch_ : Nat := 3
def run : Nat := 4
def hold : Nat := 5
def generate : Nat := 6
def brake : Nat := 7
def short : Nat := 8
def fault : Nat := 9
end Ms

/-! ### Settings and estimates -/

/-- A KEEP setting as it is in force: one written outside OFF waits for the next control period, or for the next entry into OFF. -/
def State.mwSet (s : State) (k : Nat) : Nat := match s.mw.old.find? fun e => e.1 == k with
  | some e => e.2
  | none => s.reg k
def State.mwFld (s : State) (k hi lo : Nat) : Nat := bits (s.mwSet k) hi lo

/-- A write to a KEEP setting of the MW page outside OFF: the value in force is kept. -/
def State.mwStage (s : State) (k : Nat) : State :=
  if k / 4096 = 0x10 ∧ s.mwState ≠ 0 ∧ (s.mw.old.find? fun e => e.1 == k).isNone then
    { s with mw.old := (k, s.reg k) :: s.mw.old }
  else s

/-- Written settings take effect at a control period, all but POLES, FB, ENC_Z, RES_EXC and SRC. -/
def State.mwSettle (s : State) : State :=
  { s with mw.old := (s.mw.old.filter fun e => e.1 == Reg.MW_CFG).map fun e =>
    (e.1, setBits e.2 21 16 (s.fld Reg.MW_CFG 21 16)) }

def State.mwPoles (s : State) : Nat := max 1 (s.mwFld Reg.MW_CFG 3 0)
def State.mwFb (s : State) : Nat := s.mwFld Reg.MW_CFG 5 4
def State.mwEncZ (s : State) : Bool := s.mwFld Reg.MW_CFG 6 6 != 0
def State.mwSrc (s : State) : Nat := s.mwFld Reg.MW_CFG 11 10
def State.mwOffsetOk (s : State) : Bool := s.mwFld Reg.MW_OFFSET 16 16 != 0
/-- The angle comes from the flux estimate: no sensor is selected, or its feedback was lost (R177, R197). -/
def State.sensorless (s : State) : Bool := s.mwFb == 0 || s.flag Reg.MW_STATUS 10
/-- Frequency of the resolver excitation at MW_EXC_P/N, in Hz; 0 without a resolver (R175). -/
def State.mwExcHz (s : State) : Nat := if s.mwFb = 2 then 5000 * 2 ^ s.mwFld Reg.MW_CFG 9 8 else 0
def State.mwPeriod (s : State) : Nat := clampN 10 50 (s.mwFld Reg.MW_CFG 21 16)

/-- Code of the 12-bit converter for a pin voltage in microvolts: 1.2 V full scale (R175). -/
def adc12 (uv : Nat) : Nat := min 4095 (uv * 4096 / 1200000)

/-- HUB and its thresholds in V (Table 09-9). -/
def State.hubV (s : State) : Rat := (s.fld Reg.MW_HUB 15 0 : Nat) / 100
def State.hubReg (s : State) : Rat := (s.mwFld Reg.MW_HUB_A 9 0 : Nat) / 10
def State.hubHi (s : State) : Rat := (s.mwFld Reg.MW_HUB_A 25 16 : Nat) / 10
def State.hubOv (s : State) : Rat := (s.mwFld Reg.MW_HUB_B 9 0 : Nat) / 10
def State.hubSc (s : State) : Rat := (s.mwFld Reg.MW_HUB_B 25 16 : Nat) / 10
def State.hubAbs (s : State) : Rat := (s.mwFld Reg.MW_HUB_C 9 0 : Nat) / 10
def State.chopHys (s : State) : Rat := (max 1 (s.mwFld Reg.MW_HUB_C 15 12) : Nat) / 10
def State.ovUs (s : State) : Nat := clampN 5 100 (s.mwFld Reg.MW_HUB_C 23 16)

/-- ψ_m in Wb (R179) and J in kg m² (R180); 0 when unknown. -/
def State.psiM (s : State) : Rat :=
  ((if s.flag Reg.MW_C_STATUS 0 then s.reg Reg.MW_C_PSI else s.mwFld Reg.MW_PSI 15 0 : Nat) : Rat) / 1000000
def State.mwJ (s : State) : Rat :=
  ((if s.flag Reg.MW_C_STATUS 0 then s.reg Reg.MW_C_J else s.reg Reg.TL_DECL_J : Nat) : Rat) / 10000000
def State.noModel (s : State) : Bool := s.psiM == 0 && s.mwJ == 0

/-- Value of an IEEE 754 single that is zero or normal. -/
def f32Val (v : Nat) : Rat :=
  let e := bits v 30 23
  let m : Rat := (bits v 22 0 + 2 ^ 23 : Nat) / (2 ^ 23 : Nat)
  let x := if e = 0 then 0 else if e ≥ 127 then m * (2 ^ (e - 127) : Nat) else m / (2 ^ (127 - e) : Nat)
  if bit v 31 then -x else x

/-- c0, c1, c2 of the commissioning record; 0 before one exists. -/
def State.mwLoss (s : State) (i : Nat) : Rat :=
  if s.flag Reg.MW_C_STATUS 0 then f32Val (s.reg (Reg.MW_C_LOSS0 + 4 * i)) else 0

/-- Mechanical speed in rad/s and in rpm. -/
def State.mwW (s : State) : Rat := s.mw.om / s.mwPoles
def rpmOf (w : Rat) : Rat := w * 30 / Config.piQ
def radOf (rpm : Rat) : Rat := rpm * Config.piQ / 30
def State.mwRpm (s : State) : Rat := rpmOf s.mwW
def absQ (q : Rat) : Rat := if q < 0 then -q else q
def signQ (q : Rat) : Rat := if q < 0 then -1 else if q > 0 then 1 else 0
def clampQ (lo hi q : Rat) : Rat := max lo (min hi q)

def State.tlimMot (s : State) : Rat := (max 1 (s.mwFld Reg.MW_TLIM_MOT 31 0) : Nat) / 1000000
def State.tlimGen (s : State) : Rat := (max 1 (s.mwFld Reg.MW_TLIM_GEN 31 0) : Nat) / 1000000
def State.rpmMax (s : State) : Nat := s.mwFld Reg.MW_RPM_MAX 16 0
def State.rpmAlign (s : State) : Nat := s.mwFld Reg.MW_RPM_ALIGN 16 0
def State.rpmCatch (s : State) : Nat := s.mwFld Reg.MW_RPM_CATCH 16 0

/-- Back-EMF line peak, V: √3 ψ_m |ω_e|. -/
def State.bemf (s : State) : Rat := sqrtQ 3 * s.psiM * absQ s.mw.om

/-- A supply failure is in force (R189). -/
def State.supplyFail (s : State) : Bool := s.pfd && s.hm.supAt.isSome

/-! ### States, gates, chopper -/

/-- Gates of a vector (Table 09-3): UH UL VH VL WH WL in bits 0 to 5. -/
def vecLegs (v : Nat) : List Nat := [[0, 0, 0], [1, 0, 0], [1, 1, 0], [0, 1, 0], [0, 1, 1], [0, 0, 1], [1, 0, 1], [1, 1, 1]].getD v []
def vecGates (v : Nat) : Nat := match vecLegs v with
  | [u, w, x] => (if u = 1 then 1 else 2) + (if w = 1 then 4 else 8) + (if x = 1 then 16 else 32)
  | _ => 0

/-- The zero vector that needs the fewer leg changes from a vector, V0 on equal counts (R182). -/
def zeroVec (prev : Nat) : Nat :=
  let n := (vecLegs prev).foldl (· + ·) 0
  if 2 * n > 3 then 7 else 0

def State.mwSt (s : State) (f : Mw → Mw) : State := { s with mw := f s.mw }
/-- Drive a vector, or turn every gate off; every gate is low while CHIP reset is asserted (R175). -/
def State.setGates (s : State) (v : Option Nat) : State := s.mwSt fun m => match v with
  | some v => { m with vec := v, gates := if s.pw.held then 0 else vecGates v }
  | none => { m with gates := 0 }

/-- Enter a state of Table 09-5. -/
def State.mwGo (s : State) (st : Nat) : State :=
  let s := s.setFld Reg.MW_STATUS 3 0 st
  let s := s.mwSt fun m => { m with at_ := s.now, lowAt := none, nearAt := none, waitAt := none, brake := false, per := 0 }
  if st = Ms.off then ((s.mwSt fun m => { m with old := [] }).setGates none).setFlag Reg.MW_STATUS 10 false
  else if st = Ms.fault ∨ st = Ms.catch_ then s.setGates none
  else if st = Ms.short then s.setGates (some 0)
  else s

/-- The Tally recomputes at once when the state of the Millwheel has changed (R133). -/
def State.mwTell (u s : State) : State := if u.mwState = s.mwState then u else u.tlUpdate

/-- End a commissioning with a result; the command it serves completes (R201, R202, R345). -/
def State.commEnd (s : State) (res : Nat) : State := match s.mw.comm with
  | none => s
  | some c =>
    let s := (s.setFlag Reg.MW_STATUS 12 false).mwSt fun m => { m with comm := none }
    let s := if res = 1 then s else s.kwStore (Config.settingsPage Reg.MW_C_STATUS) Reg.MW_C_STATUS
      (setBits (s.reg Reg.MW_C_STATUS) 7 4 res)
    match s.cmd? c.cmd with
    | some x => State.finish { s with st.long := s.st.long.filter fun e => e.1 != c.cmd } Rank.reeve
        { x with status := if res = 2 then St.aborted else St.success, res0 := res, res1 := 0, cflags := 0 }
    | none => s

/-- FAULT with a cause (R195, R197); a commissioning is aborted. -/
def State.mwFaultGo (s : State) (cause : Nat) : State :=
  let s := (((s.commEnd 2).mwGo Ms.fault).setFlag Reg.MW_STATUS 4 true).setFld Reg.MW_STATUS 19 16 cause
  let s := if cause = 1 then s.note Rank.millwheel (Config.eventValue 8) Sev.critical 0 else s
  s.tlUpdate

/-- SHORT is entered and counted (R194). -/
def State.shortGo (s : State) : State :=
  (((s.mwGo Ms.short).mwSt fun m => { m with emfAt := none }).bump Reg.MW_SHORTS).tlUpdate

/-- The self-test of the chopper at HUB of 20 V or more (R192); its outcome comes from the feedback pin. A failure sets
CHOP_FAULT, which keeps MW_BRK low. -/
def State.chopTest (s : State) (fb : Bool) : Bool × State :=
  if s.hubV < 20 then (true, s)
  else if fb then (true, s) else (false, (s.setFlag Reg.MW_STATUS 5 true).mwSt fun m => { m with brk := false })

/-! ### Speed command (R199, R200) -/

/-- Wheel energy the Tally derives from E_req, in J (R140). -/
def State.wheelEnergy (s : State) : Rat :=
  let e : Rat := (s.tl.ereq : Nat) / 1000
  match s.wheelModel with
  | none => e
  | some (j, eta, share, _) =>
    let d := share * eta
    (if d = 0 then e else e / d) + (j : Rat) / 10000000 * omegaSq s.wheelMin / 2

/-- Valid curve points: energy in J and speed in rpm, up to the first that does not rise. -/
def State.mwCurve (s : State) : List (Nat × Nat) :=
  let pts := (List.range 16).map fun n => (s.mwFld (Reg.MW_CURVE n) 15 0, 2 * s.mwFld (Reg.MW_CURVE n) 31 16)
  let take := pts.foldl (fun (p : List (Nat × Nat) × Bool) x =>
    if p.2 then p
    else match p.1.getLast? with
      | none => if x.1 = 0 then (p.1, true) else ([x], false)
      | some l => if x.1 ≤ l.1 then (p.1, true) else (p.1 ++ [x], false)) ([], false)
  take.1

/-- Linear interpolation over rising points, held at the ends. -/
def interp : List (Rat × Rat) → Rat → Rat
  | [], _ => 0
  | [p], _ => p.2
  | p :: q :: t, x =>
    if x ≤ p.1 then p.2
    else if x < q.1 then p.2 + (q.2 - p.2) * (x - p.1) / (q.1 - p.1)
    else interp (q :: t) x

/-- ω_1 and ω_2 of commissioning, in rpm (R201). -/
def State.commLo (s : State) : Rat := (s.rpmMax * s.mwFld Reg.MW_COMM 14 8 : Nat) / 100
def State.commHi (s : State) : Rat := (s.rpmMax * s.mwFld Reg.MW_COMM 22 16 : Nat) / 100

/-- ω* in rpm, limited (R199); that of the step while commissioning runs (R201). -/
def State.mwTarget (s : State) : Rat :=
  let src := s.mwSrc
  let raw : Rat := match s.mw.comm with
    | some c => if c.step ≤ 2 then s.commLo else s.commHi
    | none =>
    if src = 0 then
      let c := s.mwCurve
      if c.isEmpty then (if s.mwJ = 0 then 0 else rpmOf (sqrtQ (2 * s.wheelEnergy / s.mwJ)))
      else interp (c.map fun p => ((p.1 : Rat), (p.2 : Rat))) s.wheelEnergy
    else if src = 1 then
      interp [((s.mwFld Reg.MW_SPDIN_LO 15 0 : Nat), (2 * s.mwFld Reg.MW_SPDIN_LO 31 16 : Nat)),
        ((s.mwFld Reg.MW_SPDIN_HI 15 0 : Nat), (2 * s.mwFld Reg.MW_SPDIN_HI 31 16 : Nat))] (s.mw.spdV : Nat)
    else (s.fld Reg.MW_SPD_CMD 16 0 : Nat)
  min raw (min (s.rpmMax : Rat) (240000 / s.mwPoles))

/-- The source's request to run or coast. -/
def State.mwAsk (s : State) : State :=
  let src := s.mwSrc
  let ask :=
    if src = 0 then
      if s.tl.ereq ≥ 1000 * s.mwFld Reg.MW_ONOFF 15 0 then true
      else if s.tl.ereq < 1000 * s.mwFld Reg.MW_ONOFF 31 16 then false else s.mw.ask
    else if src = 1 then
      if s.mw.spdV > s.mwFld Reg.MW_SPDIN_OFF 15 0 + s.mwFld Reg.MW_SPDIN_OFF 31 16 then true
      else if s.mw.spdV < s.mwFld Reg.MW_SPDIN_OFF 15 0 then false else s.mw.ask
    else s.fld Reg.MW_SPD_CMD 16 0 != 0
  s.mwSt fun m => { m with ask := ask }

/-! ### Starting and stopping (R186, R188, R189, R192) -/

/-- The conditions of a start command but the self-test. -/
def State.mwMayStart (s : State) : Bool :=
  s.flag Reg.MW_CTRL 0 && !s.flag Reg.MW_CTRL 1 && s.mw.ask && !s.supplyFail && !s.flag Reg.MW_STATUS 5 &&
  !s.noModel && !s.flag Reg.MW_STATUS 13

/-- Bandwidth of the speed loop, rad/s (R183). -/
def State.speedBw (s : State) : Rat := 2 * Config.piQ * (max 1 (s.mwFld Reg.MW_SPDPI 15 0) : Nat) / 100

/-- Preset on entry to RUN or BRAKE with a known angle (R188): ψ̂ is ψ_m at θ̂, and the speed integrator stands where the
measured speed asks for no torque, so that T_ref starts at 0 (DESIGN CHOICE, log entry 148). -/
def State.mwPreset (s : State) : State := s.mwSt fun m =>
  { m with psiA := s.psiM * cosTurn m.th, psiB := s.psiM * sinTurn m.th, tref := 0
           spdI := -(2 * s.speedBw * (radOf s.mwTarget - s.mwW)) }

/-- A start command leaves OFF. -/
def State.mwStart (s : State) : State :=
  if s.flag Reg.MW_STATUS 8 then
    if s.mwRpm < -(s.rpmAlign : Rat) then (s.mwGo Ms.brake).mwPreset
    else (s.mwGo Ms.run).mwPreset
  else s.mwGo Ms.catch_

def execMwStartCommand (brkFb : Bool) (s : State) : Out :=
  .next <|
    let s := (s.setFlag Reg.MW_STATUS 14 s.noModel).mwAsk
    if s.mwState ≠ Ms.off ∨ !s.mwMayStart ∨ s.flag Reg.MW_STATUS 12 then s
    else match s.chopTest brkFb with
      | (false, s) => s
      | (true, s) => s.mwStart.mwTell s

/-- A stop command (R186, Table 09-5): STOP brakes a wheel in RUN or HOLD; coasting or EN = 0 turns it off. A commissioning
step is aborted. -/
def State.mwStop (s : State) : State :=
  let s := s.commEnd 2
  let st := s.mwState
  if st = Ms.catch_ ∨ st = Ms.align ∨ st = Ms.ramp then s.mwGo Ms.off
  else if st = Ms.run ∨ st = Ms.hold then
    if s.flag Reg.MW_CTRL 1 ∧ s.flag Reg.MW_CTRL 0 then s.mwGo Ms.brake else s.mwGo Ms.off
  else s

/-- Does a stop command stand? The speed source does not command a commissioning. -/
def State.mwStopping (s : State) : Bool :=
  s.flag Reg.MW_CTRL 1 || !s.flag Reg.MW_CTRL 0 || (!s.mw.ask && s.mw.comm.isNone)

def execMwStopCommand (s : State) : Out :=
  .next <|
    let s := s.mwAsk
    if s.mwStopping ∧ s.supplyFail = false then s.mwStop.mwTell s else s

/-- Service resumes: GENERATE passes to RUN, the speed integrator starting from the present T_ref (R190). -/
def State.mwResume (s : State) : State :=
  if s.mwState = Ms.generate ∧ s.mw.comm.isNone then
    (s.mwGo Ms.run).mwSt fun m => { m with spdI := if s.mwJ = 0 then 0 else m.tref / s.mwJ }
  else s

def State.mwClear (s : State) (brkFb : Bool) : State :=
  let s := match s.chopTest brkFb with
    | (true, s) => s.setFlag Reg.MW_STATUS 5 false
    | (false, s) => s
  if s.mwState = Ms.fault ∧ s.hubV < s.hubHi then
    ((s.mwGo Ms.off).setFlag Reg.MW_STATUS 4 false).setFld Reg.MW_STATUS 19 16 0
  else s

def execMwClear (brkFb : Bool) (s : State) : Out := .next ((s.mwClear brkFb).mwTell s)

/-! ### The control period (R178 to R185) -/

/-- A turn fraction brought into [0, 1). -/
def wrapTurn (q : Rat) : Rat := q - q.floor
/-- A turn difference brought into [−1/2, 1/2). -/
def wrapDiff (q : Rat) : Rat := wrapTurn (q + 1 / 2) - 1 / 2

/-- The observer's update (R178) and its lock conditions: |e| below 0.2 rad, and ω̂ less than 10 % from its value when the lock
conditions were first met. -/
def State.observe (s : State) (thM : Rat) : State :=
  let ts : Rat := (s.mwPeriod : Nat) / 1000000
  let m := s.mw
  let e := wrapDiff (thM - m.th) * 2 * Config.piQ
  let p0 := 2 * Config.piQ * (clampN 10 2000 (s.mwFld Reg.MW_EST 31 16) : Nat)
  let th := wrapTurn (m.th + ts * (m.om + 3 * p0 * e) / (2 * Config.piQ))
  let om := m.om + ts * (m.al + 3 * p0 * p0 * e)
  let al := m.al + ts * (p0 * p0 * p0 * e)
  let ok := decide (absQ e < 1 / 5) && (m.okAt.isNone || decide (absQ (om - m.okOm) < absQ m.okOm / 10))
  s.mwSt fun m => { m with
    th := th, om := om, al := al
    okAt := if ok then some (m.okAt.getD s.now) else none
    okOm := if ok ∧ m.okAt.isSome then m.okOm else om }

/-- v[k] in αβ, V (R179), from pin microvolts through the converter. -/
def State.mwVolts (s : State) (ph : Option (Nat × Nat × Nat)) : Rat × Rat := match ph with
  | none => (0, 0)
  | some (u, v, w) =>
    let k := fun (x : Nat) => (adc12 x * 12 * s.mwFld Reg.MW_VDIV 15 0 : Nat) / (4096000 : Rat)
    let frac := s.mw.act / (1000 * (s.mwPeriod : Nat))
    (frac * (2 * k u - k v - k w) / 3, frac * (k v - k w) / sqrtQ 3)

/-- The flux update (R179). -/
def State.fluxStep (s : State) (ph : Option (Nat × Nat × Nat)) : State :=
  let ts : Rat := (s.mwPeriod : Nat) / 1000000
  let wc : Rat := (clampN 1 1000 (s.mwFld Reg.MW_EST 15 0) : Nat)
  let (va, vb) := s.mwVolts ph
  let m := s.mw
  let mag := sqrtQ (m.psiA * m.psiA + m.psiB * m.psiB)
  let (ua, ub) := if s.sensorless then
      (if mag = 0 then (0, 0) else (m.psiA / mag, m.psiB / mag))
    else (cosTurn m.th, sinTurn m.th)
  s.mwSt fun m => { m with
    psiA := m.psiA + ts * va + ts * wc * (s.psiM * ua - m.psiA)
    psiB := m.psiB + ts * vb + ts * wc * (s.psiM * ub - m.psiB) }

def State.psiMag (s : State) : Rat := sqrtQ (s.mw.psiA * s.mw.psiA + s.mw.psiB * s.mw.psiB)

/-- Sector of ψ̂, 1 to 6, by exact comparison of its components: b² against 3a² (R182). -/
def sectorOf (a b : Rat) : Nat :=
  if 3 * b * b < a * a then (if a > 0 then 1 else 4)
  else if a = 0 ∧ b = 0 then 1
  else if b > 0 then (if a > 0 then 2 else 3) else (if a < 0 then 5 else 6)

/-- T̂ (R180). -/
def State.torqueEst (s : State) : Rat :=
  let w := s.mwW
  let a := absQ w
  s.mwJ * (s.mw.al / s.mwPoles) + s.mwJ * (s.mwLoss 0 + s.mwLoss 1 * a + s.mwLoss 2 * a * a) * signQ w

/-- Regenerative limit under bus watching (R183). -/
def State.regenLim (s : State) : Rat := s.tlimGen * clampQ 0 1 ((s.hubHi - 1 - s.hubV) / 3)

/-- Motoring torque limit: MW_TLIM_MOT, MW_PLIM ÷ |ω|, and the acceleration of commissioning (R183, R201). -/
def State.motLim (s : State) : Rat :=
  let w := s.mwW
  let t := if w = 0 then s.tlimMot else min s.tlimMot ((max 1 (s.mwFld Reg.MW_PLIM 15 0) : Nat) / absQ w)
  if s.mw.comm.isSome ∧ s.mwJ ≠ 0 then min t (s.mwJ * (max 1 (s.mwFld Reg.MW_COMM_ACC 15 0) : Nat)) else t

/-- T_ref where the spec gives none: free within the torque limits (the open loop of RAMP, and commissioning before J is known). -/
def State.trefFree (s : State) : State :=
  let (x, s) := s.freeBelow (2 ^ 32)
  s.mwSt fun m => { m with tref := clampQ (-s.tlimGen) s.motLim (signExt 32 x / 1000000) }

/-- T_ref of the state, with its integrator (R183). -/
def State.torqueRef (s : State) : State :=
  let ts : Rat := (s.mwPeriod : Nat) / 1000000
  let w := s.mwW
  let st := s.mwState
  if s.flag Reg.MW_STATUS 6 then s.mwSt fun m => { m with tref := 0 }
  else if st = Ms.ramp then s.trefFree
  else if st = Ms.run ∨ st = Ms.hold then
    if s.mw.comm.isSome ∧ s.mwJ = 0 then s.trefFree
    else
      let bw := s.speedBw
      let err := radOf s.mwTarget - w
      let int := s.mw.spdI + ts * bw * bw * err
      let raw := s.mwJ * (2 * bw * err + int)
      let t := if raw * signQ w ≥ 0 then clampQ (-s.motLim) s.motLim raw else clampQ (-s.regenLim) s.regenLim raw
      s.mwSt fun m => { m with tref := t, spdI := int }
  else if st = Ms.generate then match s.mw.comm with
    | some c =>
      s.mwSt fun m => { m with tref := if w = 0 then 0 else -(signQ w) * min s.tlimGen ((c.pBase : Nat) / 2000 / absQ w) }
    | none =>
      let e := s.hubReg - s.hubV
      let int := s.mw.hubI + 1000 * ts * (s.mwFld Reg.MW_HUBPI 31 16 : Nat) * e
      let p := max 0 ((s.mwFld Reg.MW_HUBPI 15 0 : Nat) * e + int)
      let t := if w = 0 then 0 else -(signQ w) * min s.tlimGen (p / absQ w)
      s.mwSt fun m => { m with tref := t, hubI := int }
  else if st = Ms.brake then
    s.mwSt fun m => { m with tref := -(signQ w) * min s.tlimGen s.regenLim }
  else s.mwSt fun m => { m with tref := 0 }

/-- Hysteresis comparators (R181). -/
def State.compare (s : State) : State :=
  let fb := (max 1 (s.mwFld Reg.MW_BANDS 7 0) : Nat) * s.psiM / 1000
  let tb := (max 1 (s.mwFld Reg.MW_BANDS 15 8) : Nat) * s.tlimMot / 1000
  let ep := s.psiM - s.psiMag
  let et := s.mw.tref - s.mw.that
  let f : Int := if ep ≥ fb then 1 else if ep ≤ -fb then -1 else s.mw.fluxOut
  let t : Int := if et ≥ tb then 1 else if et ≤ -tb then -1
    else if s.mw.torqOut = 1 ∧ et ≤ 0 then 0 else if s.mw.torqOut = -1 ∧ et ≥ 0 then 0 else s.mw.torqOut
  s.mwSt fun m => { m with fluxOut := f, torqOut := t }

/-- The switching table (Table 09-4). -/
def switchVec (flux torq : Int) (sector prev : Nat) : Nat :=
  let k := sector - 1
  if torq = 0 then zeroVec prev
  else if flux ≥ 0 ∧ torq > 0 then (k + 1) % 6 + 1
  else if flux ≥ 0 then (k + 5) % 6 + 1
  else if torq > 0 then (k + 2) % 6 + 1
  else (k + 4) % 6 + 1

/-- The vector and active time of the period (R182, R184), with the quiet-window adjustment. -/
def State.choose (s : State) : State :=
  let v := switchVec s.mw.fluxOut s.mw.torqOut (sectorOf s.mw.psiA s.mw.psiB) s.mw.vec
  let tb := (max 1 (s.mwFld Reg.MW_BANDS 15 8) : Nat) * s.tlimMot / 1000
  let tsN : Rat := 1000 * (s.mwPeriod : Nat)
  let d := if s.mw.torqOut = 0 then 0 else min 1 (absQ (s.mw.tref - s.mw.that) / (2 * tb)) * tsN
  let (act, debt) :=
    if d ≤ 0 then (0, s.mw.debt)
    else if d ≤ s.mw.debt then (0, s.mw.debt - d)
    else
      let d := d - s.mw.debt
      if d < 700 then (700, 700 - d) else if d > tsN - 100 then (tsN, 0) else (d, 0)
  let v := if act = 0 then zeroVec s.mw.vec else v
  (s.setGates (some v)).mwSt fun m => { m with act := act, debt := debt }

/-- Open-loop rotation of RAMP: the angle of uniform acceleration to the hand-over speed over RAMP_MS. -/
def State.rampStep (s : State) : State :=
  let rt : Nat := 1000 * clampN 50 10000 (s.mwFld Reg.MW_START 31 16)
  let t : Rat := (min rt (s.now - s.mw.at_) : Nat)
  let f : Rat := (s.mwFld Reg.MW_RPM_HANDOVER 16 0 : Nat) * (s.mwPoles : Nat) / 60
  let turn := wrapTurn (f * t * t / (2 * rt) / 1000000)
  let sec := (turn * 6).floor.toNat % 6
  (s.setGates (some (sec % 6 + 1))).mwSt fun m => { m with
    ramp := turn, act := 1000 * (s.mwPeriod : Nat) }

/-- Registers that show the estimates. -/
def State.mwShow (s : State) : State :=
  let m := s.mw
  let s := s.setReg Reg.MW_SPEED (intBits 32 s.mwRpm.floor)
  let s := s.setReg Reg.MW_TORQUE (intBits 32 (m.that * 1000000).floor)
  let s := s.setReg Reg.MW_ANGLE (floorQ (m.th * 65536) % 65536)
  let s := s.setReg Reg.MW_PSI_EST (min 0xFFFF (floorQ (s.psiMag * 1000000)))
  let s := s.setReg Reg.MW_BEMF (min 0xFFFF (floorQ (s.bemf * 100)))
  let s := s.setReg Reg.MW_TARGET (floorQ s.mwTarget)
  s.setFlag Reg.MW_STATUS 9 (decide (m.om < 0))

/-- ANGLE_KNOWN (Table 09-2). -/
def State.angleKnown (s : State) : Bool :=
  let valid := s.mwOffsetOk
  if s.sensorless then s.flag Reg.MW_STATUS 7
  else if s.mwFb = 1 then s.mw.aligned || (valid && s.mwEncZ && s.mw.idxSeen)
  else valid

/-- Locked rotor, or a ramp that failed to lock (R196); a commissioning ends NO_LOCK in the ramp, else ABORTED. -/
def State.lockHit (s : State) : State :=
  let s := s.commEnd (if s.mwState = Ms.ramp then 5 else 2)
  let n := s.fld Reg.MW_STATUS 22 20
  let s := (s.mwGo Ms.off).bump Reg.MW_LOCKS
  if n ≥ s.mwFld Reg.MW_LOCK 26 24 then s.mwFaultGo 2
  else ((s.setFlag Reg.MW_STATUS 13 true).setFld Reg.MW_STATUS 22 20 (n + 1)).mwSt fun m => { m with retryAt := s.now }

/-- Lost feedback (R178, R197): sensorless operation goes on while its observer is locked. -/
def State.fbLost (s : State) : State :=
  if s.mwFb = 0 ∨ s.mwState = Ms.fault then s
  else if s.flag Reg.MW_STATUS 7 then s.setFlag Reg.MW_STATUS 10 true
  else s.mwFaultGo 4

/-- Speed beyond its limits: 1.10 × MW_RPM_MAX, 120,000 rpm, or 4 kHz electrical (R197). -/
def State.overspeed (s : State) : Bool :=
  let a := absQ s.mwRpm
  decide (a > (s.rpmMax : Nat) * 11 / 10) || decide (a > 120000) || decide (absQ s.mw.om > 8000 * Config.piQ)

/-- A CATCH period: how long the wheel has been slow enough for ALIGN, or between the two thresholds. -/
def State.catchWatch (s : State) : State :=
  let a := absQ s.mwRpm
  let lo := decide (a < (s.rpmAlign : Nat))
  let mid := !lo && decide (a < (s.rpmCatch : Nat))
  s.mwSt fun m => { m with
    lowAt := if lo then some (m.lowAt.getD s.now) else none
    waitAt := if mid then some (m.waitAt.getD s.now) else none
    brake := m.brake && mid }

/-- Transitions a period decides (Table 09-5, R197). In CATCH a wheel found backward is braked through BRAKE (R188). -/
def State.mwNext (s : State) : State :=
  let st := s.mwState
  let rpm := s.mwRpm
  let a := absQ rpm
  let mx : Rat := (s.rpmMax : Nat)
  if st ≠ Ms.fault ∧ s.overspeed then s.mwFaultGo 5
  else if st = Ms.catch_ then
    if s.flag Reg.MW_STATUS 8 ∧ rpm ≤ -(s.rpmCatch : Rat) then (s.mwGo Ms.brake).mwPreset
    else if s.flag Reg.MW_STATUS 8 ∧ (s.sensorless = false ∨ rpm ≥ (s.rpmCatch : Nat)) then
      ((s.mwGo Ms.run).mwPreset).bump Reg.MW_CATCHES
    else s.catchWatch
  else if st = Ms.run ∨ st = Ms.hold then
    if a > mx * 21 / 20 then (s.mwGo Ms.brake).mwPreset
    else if s.mwStopping then s.mwStop
    else
      let tg := s.mwTarget
      let band := tg * (max 1 (s.mwFld Reg.MW_BANDS 23 16) : Nat) / 1000
      let old : Rat := (s.fld Reg.MW_TARGET 16 0 : Nat)
      if st = Ms.hold ∧ (absQ (rpm - tg) > 2 * band ∨ absQ (tg - old) > band) then s.mwGo Ms.run
      else s.mwSt fun m => { m with nearAt := if absQ (rpm - tg) ≤ band then some (m.nearAt.getD s.now) else none }
  else if st = Ms.generate ∧ s.mw.comm.isNone then
    if s.supplyFail = false then s.mwResume
    else if a < (s.mwFld Reg.MW_RPM_GENSTOP 16 0 : Nat) then s.mwGo Ms.off else s
  else if st = Ms.brake then
    if s.flag Reg.MW_CTRL 1 ∨ (rpm < 0 ∧ s.sensorless) then (if a < (s.rpmAlign : Nat) then s.mwGo Ms.off else s)
    else if rpm ≥ 0 ∧ rpm ≤ mx then (s.mwGo Ms.run).mwPreset else s
  else s

/-- A period's transition, told to the Tally. -/
def State.mwMove (s : State) : State := s.mwNext.mwTell s

/-- A control period ends: its trip marks are cleared, periods with a DC trip in a row are counted (R185, R197), and written
settings take effect. -/
def State.mwTurn (s : State) : State :=
  let dc := if s.mw.tripDc then s.mw.dcRun + 1 else 0
  s.mwSettle.mwSt fun x => { x with dcRun := dc, tripPh := false, tripDc := false }

/-- Eight periods with a DC trip in a row are a bridge fault (R197). -/
def State.dcCheck (s : State) : State := if s.mw.dcRun ≥ 8 ∧ s.mwState ≠ Ms.fault then s.mwFaultGo 3 else s

/-- Position of the encoder's levels in the cycle of four that a forward turn runs through: A leads B (log entry 148). -/
def abPos (v : Nat) : Nat := [0, 1, 3, 2].getD (v % 4) 0

/-- ×4 decoding of a list of levels (R175): the count, the last level, and whether a transition was illegal. -/
def abCount : Option Nat → Int → List Nat → Int × Option Nat × Bool
  | p, c, [] => (c, p, false)
  | none, c, x :: t => abCount (some x) c t
  | some p, c, x :: t =>
    let d := (abPos x + 4 - abPos p) % 4
    let r := abCount (some x) (if d = 1 then c + 1 else if d = 3 then c - 1 else c) t
    if d = 2 then (r.1, r.2.1, true) else r

/-- The encoder's edges are counted; an illegal transition is lost feedback (R178). -/
def State.encSense (s : State) (ab : List Nat) : State :=
  let (c, l, bad) := abCount s.mw.ab s.mw.cnt ab
  let s := s.mwSt fun m => { m with cnt := c, ab := l }
  if bad ∧ s.mwFb = 1 then s.fbLost else s

/-- What the period's sample brings: encoder, resolver and speed input (R177, R199). -/
def State.mwSense (s : State) (m : MwSample) : State :=
  let s := (s.encSense m.ab).mwSt fun x =>
    { x with res := m.res.toNat, spdV := m.spdIn.getD x.spdV, spdAt := if m.spdIn.isSome then s.now else x.spdAt }
  if m.spdIn.isSome then s.setFlag Reg.MW_STATUS 11 false else s

/-- Electrical angle of the encoder's count: count × p ÷ (4 × LINES) turns from its reference (Table 09-2). -/
def State.encAngle (s : State) : Rat :=
  (s.mw.cnt * (s.mwPoles : Nat) : Int) / ((4 * clampN 1 8192 (s.mwFld Reg.MW_ENC 13 0) : Nat) : Rat) + (s.mw.ref : Nat) / 65536

/-- The measured electrical angle θ_m in turns (Table 09-2). -/
def State.mwAngle (s : State) : Rat :=
  if s.sensorless then wrapTurn (angleTurn s.mw.psiA s.mw.psiB)
  else if s.mwFb = 1 then wrapTurn s.encAngle
  else wrapTurn ((s.mw.res * s.mwPoles + s.mwFld Reg.MW_OFFSET 15 0 : Nat) / 65536)

/-- The flux, angle, speed and torque estimates of a period and the flags they set (R178 to R180). -/
def State.mwEstimate (s : State) (ph : Option (Nat × Nat × Nat)) : State :=
  let s := (s.fluxStep ph).observe s.mwAngle
  let s := s.mwSt fun x => { x with that := s.torqueEst }
  let s := if s.mw.okAt.isNone then s.setFlag Reg.MW_STATUS 7 false else s
  s.setFlag Reg.MW_STATUS 8 s.angleKnown

/-- Gates off with no active time; the terminals of a turning wheel still count in full in CATCH (Table 09-5, log entry 148). -/
def State.idleDrive (s : State) (full : Bool) : State :=
  (s.setGates none).mwSt fun x => { x with act := if full then 1000 * (s.mwPeriod : Nat) else 0 }

/-- A vector held for the whole period. -/
def State.holdDrive (s : State) (v : Nat) : State :=
  (s.setGates (some v)).mwSt fun x => { x with act := if v = 0 ∨ v = 7 then 0 else 1000 * (s.mwPeriod : Nat) }

/-- No change of the flux sector while |T_ref| exceeds 10 % of MW_TLIM_MOT in RAMP, RUN, HOLD or BRAKE: since when (R196). -/
def State.loaded (s : State) : Bool :=
  let st := s.mwState
  (st == Ms.ramp || st == Ms.run || st == Ms.hold || st == Ms.brake) && decide (absQ s.mw.tref > s.tlimMot / 10)
def State.secWatch (s : State) : State :=
  let sec := sectorOf s.mw.psiA s.mw.psiB
  s.mwSt fun m => { m with sec := sec, secAt := if s.loaded ∧ sec = m.sec then m.secAt else s.now }

/-- The bridge in the state the wheel is in (R181 to R184, Table 09-5). The comparators act in every period. -/
def State.mwDrive (s : State) : State :=
  let s := s.compare.secWatch
  let st := s.mwState
  if st = Ms.run ∨ st = Ms.hold ∨ st = Ms.generate ∨ st = Ms.brake then s.choose
  else if st = Ms.ramp then s.rampStep
  else if st = Ms.catch_ then
    let s := s.mwSt fun x => { x with per := x.per + 1 }
    if s.mw.brake ∧ s.mw.per % 4 = 0 then s.holdDrive 0 else s.idleDrive true
  else if st = Ms.short then s.holdDrive 0
  else if st = Ms.align then
    s.holdDrive (if s.due s.mw.at_ (500 * clampN 20 2000 (s.mwFld Reg.MW_START 15 0)) then 1 else 2)
  else s.idleDrive false

/-- A new control period starts at once (R189, R193): T_ref, comparators and vector, on the estimates as they are. -/
def State.mwNow (s : State) : State := s.mwTurn.dcCheck.torqueRef.mwDrive

/-- One control period. -/
def State.mwPeriodStep (s : State) (m : MwSample) : State :=
  let s := (((s.mwTurn.mwSense m).mwAsk.setFlag Reg.MW_STATUS 14 s.noModel).mwEstimate m.phase).dcCheck
  s.mwMove.torqueRef.mwDrive.mwShow

def execMwControlPeriod (m : MwSample) (s : State) : Out := .next (s.mwPeriodStep m)

/-- A supply failure ends the control period at once; RUN, HOLD and BRAKE generate, CATCH, ALIGN and RAMP turn off (R189). A
commissioning is aborted first (R198). -/
def State.mwSupplyFail (s : State) : State :=
  let s := s.commEnd 2
  let st := s.mwState
  (if st = Ms.run ∨ st = Ms.hold ∨ st = Ms.brake then
    (s.mwGo Ms.generate).mwSt fun m => { m with hubI := 0 }
  else if st = Ms.catch_ ∨ st = Ms.align ∨ st = Ms.ramp then s.mwGo Ms.off else s).mwNow

/-- Threshold code of a peak comparator (R175, R185): MW_ITRIP.DC, or PH, or ALIGN and SHORT in their states; 0 acts as 1. -/
def State.tripCode (s : State) (dc : Bool) : Nat :=
  let st := s.mwState
  max 1 (if dc then s.mwFld Reg.MW_ITRIP 15 8
    else if st = Ms.align ∨ st = Ms.ramp then s.mwFld Reg.MW_ITRIP 23 16
    else if st = Ms.short then s.mwFld Reg.MW_ITRIP 31 24
    else s.mwFld Reg.MW_ITRIP 7 0)

/-- Does a pin voltage reach its comparator's threshold of code × 1.2 V ÷ 256? -/
def State.trips (s : State) (p : PeakPin) : Bool := decide (256 * p.uv ≥ 1200000 * s.tripCode p.dc)

/-- A comparator trip (R185): gates off for the rest of the period; in SHORT a phase trip moves to V7, unless a DC trip has turned
the bridge off. The periods with a trip are counted. -/
def State.peakTrip (s : State) (dc : Bool) : State :=
  let s := if dc then (if s.mw.tripDc then s else s.bump Reg.MW_TRIP_DC)
    else (if s.mw.tripPh then s else s.bump Reg.MW_TRIP_PH)
  let s := s.mwSt fun m => if dc then { m with tripDc := true } else { m with tripPh := true }
  if s.mwState = Ms.short ∧ s.mw.tripDc = false then s.setGates (some 7) else s.setGates none

def execPeakTrip (p : PeakPin) (s : State) : Out := .next (if s.trips p then s.peakTrip p.dc else s)

/-! ### HUB (R176, R192 to R195) -/

/-- MW_BRK after a HUB value (R192): low while CHOP_FAULT is set, else with hysteresis. -/
def State.brkNext (s : State) : Bool :=
  let v := s.hubV
  if s.flag Reg.MW_STATUS 5 ∨ s.pw.held then false
  else if v > s.hubHi then true else if v < s.hubHi - s.chopHys then false else s.mw.brk

/-- Is SHORT entered (R194)? -/
def State.shortDue (s : State) : Bool :=
  s.mwState != Ms.short && s.mwState != Ms.fault &&
  ((s.flag Reg.MW_STATUS 6 && decide (s.hubV ≥ s.hubSc)) || (s.flag Reg.MW_STATUS 5 && decide (s.bemf > s.hubV)))

/-- HUB at HUB_ABS is a fault from any state, once (R195). -/
def State.hubLimit (s : State) : State :=
  if s.hubV ≥ s.hubAbs ∧ (s.mwState ≠ Ms.fault ∨ s.fld Reg.MW_STATUS 19 16 ≠ 1) then s.mwFaultGo 1 else s

/-- ZERO_T ends with HUB below HUB_REG (R193), and SHORT is entered where it is due (R194). -/
def State.hubShort (s : State) : State :=
  let s := if s.hubV < s.hubReg then s.setFlag Reg.MW_STATUS 6 false else s
  if s.shortDue then s.shortGo else s

/-- The chopper and the timers a HUB value starts (R192 to R194). -/
def State.hubChop (s : State) (fb : Bool) : State :=
  let v := s.hubV
  let brk := s.brkNext
  let us := s.mw.chopUs + b2n (brk && fb)
  let s := if us ≥ 1000 then s.bump Reg.MW_CHOP_MS else s
  s.mwSt fun m => { m with
    brk := brk, chopUs := us % 1000
    ovAt := if v > s.hubOv ∧ brk ∧ fb = false then some (m.ovAt.getD s.now) else none
    emfAt := if s.bemf < 9 / 10 * v then some (m.emfAt.getD s.now) else none }

/-- Act on a HUB value in the order of Table 09-11: absolute limit, SHORT, then the chopper. -/
def State.hubAct (s : State) (fb : Bool) : State := s.hubLimit.hubShort.hubChop fb

/-- HUB in 10 mV from a pin voltage in microvolts, through the converter and the divider. -/
def State.hubRead (s : State) (pinUv : Nat) : Nat := min 0xFFFF (adc12 pinUv * 12 * s.mwFld Reg.MW_VDIV 31 16 / 40960)

def execHubSample (pinUv : Nat) (brkFb : Bool) (s : State) : Out :=
  .next ((s.setReg Reg.MW_HUB (s.hubRead pinUv)).hubAct brkFb)

/-- The chopper is faulty: CHOP_FAULT, MW_BRK low, ZERO_T, and a new control period (R193). -/
def State.chopFaultGo (s : State) : State :=
  (((s.setFlag Reg.MW_STATUS 5 true).setFlag Reg.MW_STATUS 6 true).mwSt fun m => { m with brk := false, ovAt := none }).mwNow

/-- The chopper is found faulty (R193). -/
def execChopOvFilterExpiry (brkFb : Bool) (s : State) : Out :=
  .next <| match s.mw.ovAt with
    | some t =>
      if s.due t s.ovUs ∧ s.mw.brk ∧ brkFb = false then s.chopFaultGo.note Rank.millwheel (Config.eventValue 9) Sev.fault 0 else s
    | none => s

/-- SHORT is left with HUB below HUB_REG and the back-EMF below 0.9 × HUB for 1 ms (R194). -/
def execShortExitTimer (s : State) : Out :=
  .next <| match s.mw.emfAt with
    | some t =>
      if s.mwState = Ms.short ∧ s.hubV < s.hubReg ∧ s.due t 1000 then
        (s.mwGo (if s.supplyFail then Ms.generate else Ms.off)).mwTell s
      else s
    | none => s

/-! ### Timers of the states -/

/-- The rotor is aligned: the encoder counts from electrical angle 0, and a first resolver alignment stores its offset (R187). -/
def State.alignEnd (s : State) : State :=
  let s := s.mwSt fun m => { m with aligned := true, cnt := 0, ref := 0 }
  if s.mwFb = 2 ∧ s.mwOffsetOk = false then
    s.kwStore (Config.settingsPage Reg.MW_OFFSET) Reg.MW_OFFSET ((65536 - s.mw.res * s.mwPoles % 65536) % 65536 + 65536)
  else s

/-- ALIGN ends (R187, Table 09-5): RAMP in sensorless mode and in commissioning (R201), else RUN. -/
def execAlignTimer (s : State) : Out :=
  .next <|
    if s.mwState = Ms.align ∧ s.due s.mw.at_ (1000 * clampN 20 2000 (s.mwFld Reg.MW_START 15 0)) then
      let u := s.alignEnd
      (if s.mwFb = 0 ∨ s.mw.comm.isSome then u.mwGo Ms.ramp
        else ((u.setFlag Reg.MW_STATUS 8 true).mwGo Ms.run).mwPreset).mwTell s
    else s

/-- RAMP ends: RUN when locked, a coast in commissioning, or a locked-rotor retry (R186, R196, R201). -/
def execRampTimeout (s : State) : Out :=
  .next <|
    let rt := 1000 * clampN 50 10000 (s.mwFld Reg.MW_START 31 16)
    if s.mwState = Ms.ramp then
      if s.flag Reg.MW_STATUS 7 ∧ s.due s.mw.at_ rt then
        (if s.mw.comm.isSome then s.mwGo Ms.off else (s.mwGo Ms.run).mwPreset).mwTell s
      else if s.due s.mw.at_ (rt + 100000) then s.lockHit.mwTell s else s
    else s

/-- CATCH has seen the wheel at rest for OBS_MS: ALIGN, a start from rest. -/
def execCatchObsTimer (s : State) : Out :=
  .next <| match s.mw.lowAt with
    | some t =>
      if s.mwState = Ms.catch_ ∧ s.due t (1000 * s.mwFld Reg.MW_CATCH 7 0) then
        (((s.mwGo Ms.align).setGates (some 2)).bump Reg.MW_STARTS).mwTell s
      else s
    | none => s

/-- The observer's lock conditions have held for LOCK_MS (R178). -/
def execLockConfirm (s : State) : Out :=
  .next <| match s.mw.okAt with
    | some t =>
      if s.due t (1000 * max 1 (s.mwFld Reg.MW_CATCH 15 8)) then
        let s := s.setFlag Reg.MW_STATUS 7 true
        let s := s.setFlag Reg.MW_STATUS 8 s.angleKnown
        if s.mwState = Ms.catch_ then s.mwMove else s
      else s
    | none => s

def execCatchBrakeWait (s : State) : Out :=
  .next <|
    let w := s.mwFld Reg.MW_CATCH 23 16
    match s.mw.waitAt with
    | some t => if s.mwState = Ms.catch_ ∧ w ≠ 0 ∧ s.due t (1000000 * w) then s.mwSt fun m => { m with brake := true } else s
    | none => s

def execHoldEntryTimer (s : State) : Out :=
  .next <| match s.mw.nearAt with
    | some t => if s.mwState = Ms.run ∧ s.due t 100000 then (s.mwGo Ms.hold).mwTell s else s
    | none => s

def execLockedRotor (s : State) : Out :=
  .next <|
    if s.loaded ∧ s.due s.mw.secAt (1000 * clampN 20 5000 (s.mwFld Reg.MW_LOCK 15 0)) then s.lockHit.mwTell s else s

/-- The start after a retry delay; the answer of MW_BRK_FB to its self-test is not an operand, and free (R192). -/
def State.retryStart (s : State) : State :=
  let (x, v) := s.freeBelow 2
  match v.chopTest (x == 1) with
  | (false, v) => v
  | (true, v) => v.mwStart.mwTell s

def execLockRetryExpiry (s : State) : Out :=
  .next <|
    if s.flag Reg.MW_STATUS 13 ∧ s.due s.mw.retryAt (1000000 * max 1 (s.mwFld Reg.MW_LOCK 23 16)) then
      let s := s.setFlag Reg.MW_STATUS 13 false
      if s.mwState = Ms.off ∧ s.mwMayStart then s.retryStart else s
    else s

def execRetryCountReset (s : State) : Out :=
  .next <| if s.mwState = Ms.hold ∧ s.due s.mw.at_ 60000000 then s.setFld Reg.MW_STATUS 22 20 0 else s

/-- The count restarts at an index: the first after the first alignment gives MW_OFFSET, and a valid offset is the angle the
count starts from (R177, R187). -/
def State.indexGo (s : State) : State :=
  let s := if s.mw.aligned ∧ s.mwOffsetOk = false then
      s.kwStore (Config.settingsPage Reg.MW_OFFSET) Reg.MW_OFFSET (floorQ (wrapTurn s.encAngle * 65536) % 65536 + 65536) else s
  let s := s.mwSt fun m => { m with idxSeen := true }
  if s.mwOffsetOk then s.mwSt fun m => { m with cnt := 0, ref := s.mwFld Reg.MW_OFFSET 15 0 } else s

/-- An encoder index, after the edges since the last period. -/
def execEncoderIndex (ab : List Nat) (s : State) : Out :=
  .next <|
    if s.mwFb ≠ 1 ∨ s.mwEncZ = false then s
    else
      let s := (s.encSense ab).indexGo
      let s := s.setFlag Reg.MW_STATUS 8 s.angleKnown
      if s.mwState = Ms.catch_ then s.mwMove else s

/-- Feedback is lost: a resolver's amplitude is low, or an encoder's transition illegal (R178, R197). -/
def execFeedbackLost (s : State) : Out := .next s.fbLost

def execSpdInTimeout (s : State) : Out :=
  .next <|
    let md := s.mwFld Reg.MW_SPDIN 1 0
    if s.mwSrc = 1 ∧ (md = 1 ∨ md = 2) ∧ s.due s.mw.spdAt 100000 then s.setFlag Reg.MW_STATUS 11 true else s

/-! ### Commissioning (R201, R202) -/

/-- May commissioning start (R201)? Not in FAULT either, which only CLEAR leaves (Table 09-5). -/
def State.commOk (s : State) : Bool :=
  s.mode != 0 && !s.pfd && !s.flag Reg.MW_STATUS 5 && !s.flag Reg.MW_STATUS 12 && s.mwState != Ms.fault

/-- Start commissioning for a command, or 0. -/
def State.commStart (s : State) (h : Nat) : State :=
  let s := (s.setFlag Reg.MW_STATUS 12 true).mwSt fun m => { m with comm := some { cmd := h } }
  s.mwGo Ms.align

def State.mwCommGo (s : State) : State :=
  if s.commOk then (s.commStart 0).mwTell s else s

def execMwComm (s : State) : Out := .next s.mwCommGo

def State.mwAbort (s : State) : State :=
  if s.mw.comm.isSome then ((s.commEnd 2).mwGo Ms.off).mwTell s else s

def execMwAbort (s : State) : Out := .next s.mwAbort

/-- Integral of a_c(ω) · ω over a run: c0 ∫ω + c1 ∫ω² + c2 ∫ω³. -/
def MwComm.loss (c : MwComm) (w : Nat × Nat × Nat) : Rat := c.c0 * (w.1 : Nat) + c.c1 * (w.2.1 : Nat) + c.c2 * (w.2.2 : Nat)

/-- p_base over a number of microseconds, J. -/
def MwComm.base (c : MwComm) (us : Nat) : Rat := (c.pBase * us : Nat) / 1000000000

/-- J in 10^-7 kg·m² and η_w in 0.1 %, of what the runs measured (R201); none where a formula's term is not positive. -/
def State.commModel (s : State) (c : MwComm) : Option (Rat × Rat) :=
  let eIn : Rat := (clampN 50 100 (s.mwFld Reg.MW_COMM 6 0) : Nat) / 100
  let w1 := radOf s.commLo
  let w2 := radOf s.commHi
  let k := (w2 * w2 - w1 * w1) / 2
  let km := k + c.loss c.wMot
  let kg := k - c.loss c.wGen
  let em := (c.eMot : Nat) / 1000 - c.base c.usMot
  let eg := c.base c.usGen - (c.eGen : Nat) / 1000
  if km ≤ 0 ∨ kg ≤ 0 ∨ em ≤ 0 ∨ eg ≤ 0 then none
  else some (eIn * sqrtQ (em * eg / (km * kg)) * 10000000, sqrtQ (eg * km / (em * kg)) * 1000)

/-- The record is written within its limits, VALID last (R202). -/
def State.commRecord (s : State) (c : MwComm) : State := match s.commModel c with
  | none => s.commEnd 3
  | some (j, eta) =>
    if eta < 500 ∨ eta > 990 ∨ j < 10 ∨ j > 10000000 ∨ c.psi < 100 ∨ c.psi > 65535 then s.commEnd 3
    else
      let put := fun (s : State) (k v : Nat) => s.kwStore 0xD1 k v
      let s := put (put (put s Reg.MW_C_J (floorQ j)) Reg.MW_C_ETA (floorQ eta)) Reg.MW_C_PSI c.psi
      let s := put (put (put s Reg.MW_C_LOSS0 (Config.f32Bits c.c0).toNat) Reg.MW_C_LOSS1 (Config.f32Bits c.c1).toNat)
        Reg.MW_C_LOSS2 (Config.f32Bits c.c2).toNat
      ((put s Reg.MW_C_STATUS (1 + 7 * 2 + 1 * 16)).tlUpdate).commEnd 1

/-- Did a step end as it should? The hold of p_base must keep within 3 % of its mean (R201). -/
def commGood (m : CommMeas) (step : Nat) : Bool :=
  m.ok && (step != 2 || (decide (100 * m.powerHi ≤ 103 * m.power) && decide (100 * m.powerLo ≥ 97 * m.power)))

/-- What a step adds to the measurements. -/
def MwComm.take (c : MwComm) (m : CommMeas) : MwComm :=
  if c.step = 1 then
    { c with psi := if m.omegaE = 0 then 0 else floorQ ((m.bemf : Nat) / sqrtQ 3 * 1000 / (m.omegaE : Nat)) }
  else if c.step = 2 then { c with pBase := m.power }
  else if c.step = 3 then { c with eMot := m.energy, usMot := m.us, wMot := (m.w1, m.w2, m.w3) }
  else if c.step = 4 then { c with c0 := m.c0, c1 := m.c1, c2 := m.c2 }
  else if c.step = 6 then { c with eGen := m.energy, usGen := m.us, wGen := (m.w1, m.w2, m.w3) }
  else c

/-- The drive in a step: RUN to its speed, a coast with gates off in step 4, GENERATE in step 6. -/
def State.commDrive (s : State) (step : Nat) : State :=
  if step = 4 then s.mwGo Ms.off else if step = 6 then s.mwGo Ms.generate else (s.mwGo Ms.run).mwPreset

/-- A step of R201 ends. Steps: 1 align, ramp and coast; 2 hold at ω_1; 3 run_mot; 4 coast; 5 hold at ω_2; 6 run_gen. -/
def execCommissionStepDone (m : CommMeas) (s : State) : Out :=
  .next <| match s.mw.comm with
    | none => s
    | some c =>
      if commGood m c.step = false then
        ((s.commEnd (if c.step = 1 then 5 else if c.step = 2 ∨ c.step = 5 then 4 else 3)).mwGo Ms.off).mwTell s
      else
        let w := s.kwStore (Config.settingsPage Reg.MW_C_STATUS) Reg.MW_C_STATUS
          (setBits (s.reg Reg.MW_C_STATUS) 3 1 (c.step + 1))
        let u := if c.step ≥ 6 then (w.commRecord (c.take m)).mwGo Ms.off
          else (w.mwSt fun x => { x with comm := some { c.take m with step := c.step + 1 } }).commDrive (c.step + 1)
        u.mwTell s

end Sys2Proof.Machine
end

