-- ==== Sys2Proof/Machine/Gauge.lean ====
section
/-! DEFINITION. The Gauge (chapter 10): presence, charge counting, end of charge and discharge, the estimates, learning, the
records in the Keep, and PACK_EN. Charge in C, current in A, voltage in V; quotients by zero are free values. -/

namespace Sys2Proof.Machine

/-! ### Showing values in registers -/

/-- Show a quantity in a register field of w bits; one outside the format shows a free value (log entry 2). -/
def State.showInt (s : State) (k w : Nat) (signed : Bool) (v : Int) : State :=
  let lo : Int := if signed then -(2 ^ (w - 1) : Nat) else 0
  let hi : Int := if signed then (2 ^ (w - 1) : Nat) else (2 ^ w : Nat)
  if lo ≤ v ∧ v < hi then s.setFld k (w - 1) 0 (intBits w v)
  else
    let (x, s) := s.freeBelow (2 ^ w)
    s.setFld k (w - 1) 0 x

/-- A quotient; by zero it is a free value of the dividend. -/
def divQ (a b : Rat) : Rat := if b = 0 then Config.divByZero a else a / b

/-! ### The pack's description (R204 to R206) -/

def State.gaOn (s : State) : Bool := s.flag Reg.GA_CTRL 0
def State.gaPresent (s : State) : Bool := s.flag Reg.GA_STATUS 0
def State.gaId (s : State) : Nat := s.fld Reg.GA_STATUS 18 16
def State.gaFam (s : State) : Nat := s.fld (Reg.GA_ID s.gaId) 1 0
def State.gaCells (s : State) : Nat := s.fld (Reg.GA_ID s.gaId) 7 2

/-- Nominal voltages of Table 10-1 in mV. -/
def idNominal : List Nat := [109, 216, 384, 600, 825, 989, 1091, 1148]

/-- Code of a GA_ID reading in µV: within 15 mV of its nominal voltage (R204). -/
def idCode (uv : Nat) : Option Nat := (List.range 8).find? fun n =>
  let v := 1000 * idNominal.getD n 0
  decide (v ≤ uv + 15000) && decide (uv ≤ v + 15000)

/-- EOD and EOC per cell in mV of a family (Table 10-2). -/
def famEod (fam : Nat) : Nat := [0, 2800, 3200, 1200].getD fam 0
def famEoc (fam : Nat) : Nat := [0, 3550, 4100, 2500].getD fam 0

/-- EOD and EOC per cell in mV: GA_VLIM where non-zero, else Table 10-2. -/
def State.cellEod (s : State) : Nat := if s.fld Reg.GA_VLIM 11 0 ≠ 0 then s.fld Reg.GA_VLIM 11 0 else famEod s.gaFam
def State.cellEoc (s : State) : Nat := if s.fld Reg.GA_VLIM 27 16 ≠ 0 then s.fld Reg.GA_VLIM 27 16 else famEoc s.gaFam

/-- Is a code's register without a pack (R205)? -/
def State.gaUnassigned (s : State) (code : Nat) : Bool :=
  let f := s.fld (Reg.GA_ID code) 1 0
  let c := s.fld (Reg.GA_ID code) 7 2
  !((f == 1 && decide (13 ≤ c) && decide (c ≤ 16)) || (f == 2 && decide (11 ≤ c) && decide (c ≤ 13)) ||
    (f == 3 && decide (1 ≤ c) && decide (c ≤ 24) &&
      decide (c * (if s.fld Reg.GA_VLIM 27 16 ≠ 0 then s.fld Reg.GA_VLIM 27 16 else 2500) ≤ 60000)))

/-- Does a threshold exist: GA_VLIM gives it, or the family (R206)? -/
def State.hasEod (s : State) : Bool := s.fld Reg.GA_VLIM 11 0 != 0 || s.gaFam != 0
def State.hasEoc (s : State) : Bool := s.fld Reg.GA_VLIM 27 16 != 0 || s.gaFam != 0

def State.vEod (s : State) : Rat := (s.gaCells * s.cellEod : Nat) / 1000
def State.vEoc (s : State) : Rat := (s.gaCells * s.cellEoc : Nat) / 1000

/-- Discharge window in °C (R206). -/
def State.gaWindow (s : State) : Int × Int :=
  if s.flag Reg.GA_TLIM 16 then (signExt 8 (s.fld Reg.GA_TLIM 7 0), signExt 8 (s.fld Reg.GA_TLIM 15 8))
  else if s.gaFam = 3 then (-40, 65) else (-20, 60)

def State.gaTempOut (s : State) : Bool :=
  let w := s.gaWindow
  decide (s.ga.temp < (w.1 : Rat)) || decide (s.ga.temp > (w.2 : Rat))

/-- Rated capacity in mC or mF, rated resistance in µΩ. -/
def State.gaRated (s : State) : Nat :=
  s.fld (Reg.GA_ID s.gaId) 23 8 * (if s.gaFam = 3 then 100 else 36000)
def State.gaRatedR (s : State) : Nat := 1000 * s.fld (Reg.GA_ID s.gaId) 31 24

/-- C_L in C or F, and R_int in Ω. -/
def State.gaCl (s : State) : Rat := (s.reg Reg.GA_CAP : Nat) / 1000
def State.gaR (s : State) : Rat := (s.reg Reg.GA_RINT : Nat) / 1000000

/-- Q_full (R220). -/
def State.gaFull (s : State) : Rat := if s.gaFam = 3 then s.gaCl * (s.vEoc - s.vEod) else s.gaCl

def State.gaSt (s : State) (f : Ga → Ga) : State := { s with ga := f s.ga }

/-! ### Learned records (R234 to R238) -/

def gaRec (b : Nat) : Nat := 0xD3000 + 64 * b

/-- SEQ of a record, 0 when it is not valid for the present pack. -/
def State.gaRecSeq (s : State) (b : Nat) : Nat :=
  let r := s.keepN (gaRec b) 64
  if leAt r 0 8 ≠ 0 ∧ s.keepBad (gaRec b) 64 = false ∧ leAt r 60 4 = crc32c (bytesAt r 0 60) ∧ leAt r 16 1 = s.gaId ∧ leAt r 17 1 = s.gaFam then leAt r 0 8
  else 0

/-- Start values of R238. -/
def State.gaFresh (s : State) : State :=
  (((s.setReg Reg.GA_CAP (8 * s.gaRated / 10)).setReg Reg.GA_RINT s.gaRatedR).setFlag Reg.GA_STATUS 7 true).gaSt
    fun g => { g with learns := 0, learnT := 0, rintW := s.gaRatedR }

/-- Take the valid record with the higher SEQ, or the start values. -/
def State.gaLoad (s : State) : State :=
  let a := s.gaRecSeq 0
  let b := s.gaRecSeq 1
  if a = 0 ∧ b = 0 then s.gaFresh.setReg64 Reg.GA_REC_SEQ_LO 0
  else
    let r := s.keepN (gaRec (if b > a then 1 else 0)) 64
    ((((s.setReg Reg.GA_CAP (leAt r 8 4)).setReg Reg.GA_RINT (leAt r 12 4)).setReg64 Reg.GA_REC_SEQ_LO (leAt r 0 8))).gaSt
      fun g => { g with rintW := leAt r 12 4, learns := leAt r 20 4, learnT := leAt r 24 8 }

/-- Write the values in force over the record that is invalid or has the lower SEQ (R235). -/
def State.gaWriteBack (s : State) : State :=
  let a := s.gaRecSeq 0
  let b := s.gaRecSeq 1
  let seq := max a b + 1
  let body := toLe 8 seq ++ toLe 4 (s.reg Reg.GA_CAP) ++ toLe 4 (s.reg Reg.GA_RINT) ++ toLe 1 s.gaId ++ toLe 1 s.gaFam ++
    zeros 2 ++ toLe 4 s.ga.learns ++ toLe 8 s.ga.learnT ++ zeros 28
  let s := s.keepPut (gaRec (if a ≤ b then 0 else 1)) (body ++ toLe 4 (crc32c body))
  ((((s.setReg64 Reg.GA_REC_SEQ_LO seq).setFlag Reg.GA_STATUS 12 false).bump Reg.GA_WRITEBACKS)).gaSt
    fun g => { g with rintW := s.reg Reg.GA_RINT, wbAt := s.now }

/-- May a write-back start (R236)? HUB is in 10 mV, GA_WB_MIN in 0.1 V. -/
def State.gaMayWrite (s : State) : Bool := !s.pfd && decide (s.fld Reg.MW_HUB 15 0 ≥ 10 * s.fld Reg.GA_WB_MIN 9 0)

/-- Step 6: a write-back that is due or pending starts if it may. -/
def State.gaStep6 (s : State) : State :=
  if s.flag Reg.GA_STATUS 12 ∧ s.gaMayWrite then s.gaWriteBack else s

def State.gaForget (s : State) : State :=
  if s.gaPresent then (s.gaFresh.setFlag Reg.GA_STATUS 12 true).gaStep6 else s

def execGaForget (s : State) : Out := .next s.gaForget

/-! ### PACK_EN (R240, R241) -/

def State.packOff (s : State) : State := s.gaSt fun g => { g with packEn := false }

/-- Step 2 of a supply failure. -/
def State.packOn (s : State) : State :=
  if s.gaPresent ∧ s.flag Reg.GA_STATUS 11 = false ∧ s.flag Reg.GA_STATUS 10 = false then s.gaSt fun g => { g with packEn := true }
  else s

/-! ### Presence (R207 to R210) -/

/-- What a removal leaves (R209). -/
def State.gaGone (s : State) : State :=
  let s := (((s.setFld Reg.GA_STATUS 20 16 0).setFld Reg.GA_STATUS 9 8 0).setFlag Reg.GA_STATUS 7 true).setFld Reg.GA_STATUS 1 0 0
  (((s.setReg Reg.GA_EPACK 0).packOff).bump Reg.GA_REMOVALS).gaSt
    fun g => { g with anchor := 0, anchorQ := 0, span := false, noId := 0, seenAt := none }

/-- A removal is reported. -/
def State.gaRemove (s : State) : State :=
  (s.gaGone.note Rank.gauge (Config.eventValue 10) Sev.notice 0).tlUpdate

/-- GA_NTC has left its limits: a present pack is removed, and steadiness begins anew (R207, R208). -/
def execPackRemoval (s : State) : Out :=
  .next <| if s.gaPresent then (s.gaSt fun g => { g with steady := none }).gaRemove else s.gaSt fun g => { g with steady := none }

/-- Pack temperature in °C from GA_NTC in µV (R203, R210). -/
def ntcTemp (uv : Nat) : Rat :=
  let r := 10000 * divQ (uv : Rat) (1200000 - uv)
  divQ 1 (1 / (29815 / 100 : Rat) + divQ (lnQ (r / 10000)) 3435) - 27315 / 100

/-- The steady code a poll leaves: GA_NTC from 0.02 V to 1.18 V, and the code of before or a new one from now (R208). -/
def State.gaSteady (s : State) (idUv ntcUv : Nat) : Option (Nat × Nat) := match idCode idUv with
  | none => none
  | some c =>
    if ntcUv < 20000 ∨ ntcUv > 1180000 then none
    else match s.ga.steady with
      | some (d, t) => if d = c then some (d, t) else some (c, s.now)
      | none => some (c, s.now)

def execGaugeSlowPoll (idUv ntcUv : Nat) (s : State) : Out :=
  .next <| if !s.gaOn then s
    else
      let t := ntcTemp ntcUv
      let s := s.gaSt fun g => { g with steady := s.gaSteady idUv ntcUv }
      let s := (s.gaSt fun g => { g with temp := t }).showInt Reg.GA_TEMP 16 true (10 * t).floor
      let s := s.setFlag Reg.GA_STATUS 10 s.gaTempOut
      if !s.gaPresent then s
      else if idCode idUv = some s.gaId then s.gaSt fun g => { g with noId := 0 }
      else if s.ga.noId ≥ 1 then s.gaRemove
      else s.gaSt fun g => { g with noId := g.noId + 1 }

/-- What an insertion sets before the Tally hears of it (R208). -/
def State.gaPlaced (s : State) (code : Nat) : State :=
  let unk := s.gaUnassigned code
  let fam := s.fld (Reg.GA_ID code) 1 0
  let s := ((((s.setFld Reg.GA_STATUS 18 16 code).setFld Reg.GA_STATUS 20 19 fam).setFlag Reg.GA_STATUS 9 unk).setFlag
    Reg.GA_STATUS 11 false).setFlag Reg.GA_STATUS 0 true
  let s := s.gaSt fun g => { g with seenAt := some s.now, noId := 0, overN := 0, span := false }
  (s.setFlag Reg.GA_STATUS 10 s.gaTempOut).gaLoad.bump Reg.GA_INSERTS

/-- Have GA_NTC and the code been steady for 500 ms (R208)? -/
def State.gaReady (s : State) (code : Nat) : Bool := match s.ga.steady with
  | some (c, t) => c == code && s.due t 500000
  | none => false

def execPackInsertion (code : Nat) (s : State) : Out :=
  .next <| if s.gaPresent ∨ !s.gaOn ∨ code ≥ 8 ∨ !s.gaReady code then s else (s.gaPlaced code).tlUpdate

/-- The record of a pack that a CHIP reset finds fitted is taken (R238), by its code before the reset. -/
def State.gaReload (s : State) (code : Nat) : State :=
  ((s.setFld Reg.GA_STATUS 18 16 code).gaLoad).setFld Reg.GA_STATUS 18 16 0

/-! ### The estimates (R221 to R226) -/

/-- V_oc (R217). -/
def State.gaVoc (s : State) : Rat := s.ga.v - s.ga.i * s.gaR

/-- Q_v (R221). -/
def State.gaQv (s : State) : Rat :=
  if s.gaFam = 3 then s.gaCl * (s.gaVoc - s.vEod)
  else divQ (s.gaFull * (s.gaVoc - s.vEod)) (s.vEoc - s.vEod)

/-- Q_use (R222). -/
def State.gaUse (s : State) : Rat := clampQ 0 s.gaFull (min s.ga.q s.gaQv)

/-- E_pack in J (R223), 0 or more. -/
def State.gaEnergy (s : State) : Rat :=
  let eta : Rat := (clampN 50 100 (s.fld Reg.GA_DUMP 6 0) : Nat) / 100
  let dump : Rat := (s.fld Reg.GA_DUMP 31 16 : Nat) / 10
  let u := s.gaUse
  let e := if s.gaFam = 3 then
      let v := s.vEod + divQ u s.gaCl
      eta * (s.gaCl / 2 * (v * v - s.vEod * s.vEod) - dump * s.gaR * u)
    else eta * u * (s.vEod + divQ u s.gaFull * (s.vEoc - s.vEod) / 2 - dump * s.gaR)
  max 0 e

/-- VALID (R224). -/
def State.gaValid (s : State) : Bool :=
  s.gaPresent && !s.flag Reg.GA_STATUS 9 && !s.flag Reg.GA_STATUS 11 && !s.flag Reg.GA_STATUS 10 && s.ga.seenAt.isNone

/-- DISAGREE (R226): the count says empty and the voltage does not. -/
def State.gaDis (s : State) : Bool :=
  s.gaPresent && s.hasEod && decide (s.ga.q ≤ 0) && decide (s.gaVoc > s.vEod) && s.ga.seenAt.isNone

/-- Step 5: DISAGREE, the estimates and GA_EPACK as the registers show them. -/
def State.gaShow (s : State) : State :=
  let s := if s.gaDis ∧ s.flag Reg.GA_STATUS 6 = false then
      (((s.setFlag Reg.GA_STATUS 6 true).setFlag Reg.GA_STATUS 7 true).bump Reg.GA_DISAGREES).note Rank.gauge
        (Config.eventValue 11) Sev.warning 0
    else s
  let s := s.showInt Reg.GA_COUNT 32 true (1000 * s.ga.q).floor
  let s := s.showInt Reg.GA_QV 32 true (1000 * s.gaQv).floor
  let s := s.showInt Reg.GA_VOC 16 false (100 * s.gaVoc).floor
  let s := s.setFlag Reg.GA_STATUS 1 s.gaValid
  if s.gaValid then s.showInt Reg.GA_EPACK 32 false (1000 * s.gaEnergy).floor else s.setReg Reg.GA_EPACK 0

/-- GA_IDn or GA_VLIM was written: a present pack's code is assigned or not by them (R205), and credit follows at once. -/
def State.gaRecode (s : State) : State :=
  if !s.gaPresent then s
  else
    let s := (s.setFlag Reg.GA_STATUS 9 (s.gaUnassigned s.gaId)).setFld Reg.GA_STATUS 20 19 s.gaFam
    let s := s.setFlag Reg.GA_STATUS 1 s.gaValid
    (if s.gaValid then s else s.setReg Reg.GA_EPACK 0).tlUpdate

/-- Step 5; the Tally follows a change of VALID. -/
def State.gaStep5 (s : State) : State :=
  if s.flag Reg.GA_STATUS 1 = s.gaShow.flag Reg.GA_STATUS 1 then s.gaShow else s.gaShow.tlUpdate

def execGaugeSettled (s : State) : Out :=
  .next <| match s.ga.seenAt with
    | some t => if s.gaPresent ∧ s.due t 1000000 then
        (s.gaSt fun g => { g with seenAt := none, q := s.gaQv, span := false }).gaStep5
      else s
    | none => s

/-! ### Learning (R229 to R233) -/

/-- Learn the capacity from a measured full charge in C. -/
def State.gaLearn (s : State) (q : Rat) : State :=
  let meas : Rat := 1000 * (if s.gaFam = 3 then divQ q (s.vEoc - s.vEod) else q)
  let cur : Rat := (s.reg Reg.GA_CAP : Nat)
  let v := if meas < cur ∨ s.flag Reg.GA_STATUS 7 then meas else min meas (105 * cur / 100)
  let rated : Rat := (s.gaRated : Nat)
  let v := clampQ (3 * rated / 10) (11 * rated / 10) v
  ((((s.setReg Reg.GA_CAP v.floor.toNat).setFlag Reg.GA_STATUS 13 (decide (2 * v < rated))).setFlag Reg.GA_STATUS 7 false).bump
    Reg.GA_LEARNS).setFlag Reg.GA_STATUS 12 true |>.gaSt fun g => { g with learns := sat32 (g.learns + 1), learnT := s.time }

/-- Step 3: EOD and EOC (R218, R219), of a pack whose thresholds exist. The full charge a valid span measured comes with it. -/
def State.gaStep3 (s : State) : Option Rat × State :=
  let g := s.ga
  let full := s.gaFull
  if !s.gaPresent then (none, s)
  else if s.hasEod ∧ g.i ≤ 0 ∧ g.v ≤ s.vEod + g.i * s.gaR then
    let m := if g.span && g.anchor == 2 then some (full - g.q) else none
    let s := (((s.setFlag Reg.GA_STATUS 4 true).setFlag Reg.GA_STATUS 5 false).setFlag Reg.GA_STATUS 8 true).setFlag
      Reg.GA_STATUS 6 false
    (m, (s.gaSt fun g => { g with anchor := 1, anchorQ := g.q, q := 0, span := true }).packOff)
  else if s.hasEoc ∧ g.i ≥ 0 ∧ g.v ≥ s.vEoc + g.i * s.gaR then
    let m := if g.span && g.anchor == 1 then some g.q else none
    let s := (((s.setFlag Reg.GA_STATUS 5 true).setFlag Reg.GA_STATUS 4 false).setFlag Reg.GA_STATUS 8 true).setFlag
      Reg.GA_STATUS 6 false
    (m, s.gaSt fun g => { g with anchor := 2, anchorQ := g.q, q := full, span := true })
  else (none, s)

/-- R_int from a step of the current (R232). -/
def State.gaRint (s : State) (oldI oldV : Rat) : State :=
  let di := s.ga.i - oldI
  if !s.gaPresent ∨ absQ di < (max 1 (s.fld Reg.GA_RSTEP 15 0) : Nat) / 1000 then s
  else
    let meas := 1000000 * ((s.ga.v - oldV) / di)
    let rated : Rat := (s.gaRatedR : Nat)
    if meas < rated / 4 ∨ meas > 4 * rated then s
    else
      let r : Rat := (s.reg Reg.GA_RINT : Nat)
      s.setReg Reg.GA_RINT (r + (meas - r) / 16).floor.toNat

/-- Is a write-back due for R_int: more than 5 % from the value last written, 10 minutes after the last write (R237)? -/
def State.gaRintDue (s : State) : Bool :=
  let w : Rat := (s.ga.rintW : Nat)
  s.gaPresent && decide (absQ ((s.reg Reg.GA_RINT : Nat) - w) > w / 20) &&
    (s.ga.wbAt == 0 || s.due s.ga.wbAt 600000000)

/-- Step 4: capacity, and R_int from a step of the current (R229 to R232, R237). -/
def State.gaStep4 (s : State) (m : Option Rat) (oldI oldV : Rat) : State :=
  let s := match m with
    | some q => s.gaLearn q
    | none => s
  let s := s.gaRint oldI oldV
  if s.gaRintDue then s.setFlag Reg.GA_STATUS 12 true else s

/-! ### The sample (R211 to R219, R242 to R244) -/

/-- Code of the 16-bit shunt converter, ±100 mV full scale, for a voltage in 100 nV (R211), and whether it lies beyond it. -/
def shuntCode (v : Int) : Int := max (-32768) (min 32767 ((v * 32768).fdiv 1000000))
def shuntOver (v : Int) : Bool := decide (v < -1000000) || decide (v > 1000000)

/-- Current of a sample in A (R212). -/
def State.gaCurrent (s : State) (vshunt : Int) : Rat :=
  let ppm : Rat := (max (-100000) (min 100000 (signExt 32 (s.reg Reg.GA_GAIN))) : Int)
  let i := (100000 * shuntCode vshunt : Int) / (32768 * (max 1 (s.fld Reg.GA_SHUNT 23 0)) : Nat) * (1 + ppm / 1000000)
  if absQ i < (s.fld Reg.GA_DEADBAND 15 0 : Nat) / 1000 then 0 else i

/-- Step 2: sense fault (R214). It stays set until the next insertion or CHIP reset. -/
def State.gaStep2 (s : State) : State :=
  let bad := s.flag Reg.GA_STATUS 11 || decide (s.ga.overN ≥ 10) || (s.gaPresent && (decide (s.ga.v > 62) || decide (s.ga.v < s.vEod / 2)))
  if bad then (s.setFlag Reg.GA_STATUS 11 true).gaSt fun g => { g with span := false } else s

/-- The mean current of the last second. -/
def State.gaMean (s : State) : State :=
  if s.ga.n ≥ 1000 then (s.showInt Reg.GA_CURRENT 32 true s.ga.sum.floor).gaSt fun g => { g with n := 0, sum := 0 } else s

/-- Energy delivered from PFD to seal (R242), in J. -/
def State.gaDump (s : State) : State :=
  if s.pfd ∧ s.flag Reg.HM_STATUS 3 = false then
    let s := s.gaSt fun g => { g with edump := g.edump - g.v * g.i / 1000 }
    s.showInt Reg.GA_EDUMP 32 false (1000 * s.ga.edump).floor
  else s

/-- Step 1 of a sample: current, pack voltage and the count. -/
def State.gaTake (s : State) (m : GaSample) : State :=
  let i := if s.ga.zero then s.ga.i else s.gaCurrent m.vshunt
  let v : Rat := (m.vpackPin * s.fld Reg.GA_VDIV 15 0 : Nat) / 100000000
  let s := s.gaSt fun g => { g with i := i, v := v, q := g.q + i / 1000, n := g.n + 1, sum := g.sum + i, zero := false
                                    overN := if shuntOver m.vshunt then g.overN + 1 else 0 }
  let s := if i > 0 then { s with tl.learnAt := s.now } else s
  let s := ((s.setFlag Reg.GA_STATUS 2 (decide (i > 0))).setFlag Reg.GA_STATUS 3 (decide (i < 0))).gaMean
  s.showInt Reg.GA_VPACK 16 false (100 * v).floor

/-- Steps 3 to 6, from the current and the voltage of the sample before. -/
def State.gaRun (s : State) (oldI oldV : Rat) : State :=
  (((s.gaStep3.2.gaStep4 s.gaStep3.1 oldI oldV).gaStep5).gaDump).gaStep6

def execGaugeSample (m : GaSample) (s : State) : Out :=
  .next <| if s.gaOn then ((s.gaTake m).gaStep2).gaRun s.ga.i s.ga.v else s

def execGaugeOffsetZero (s : State) : Out := .next <| if s.gaOn then s.gaSt fun g => { g with zero := true } else s

/-- GA_CTRL.EN written 0. -/
def State.gaDisable (s : State) : State :=
  (((s.setFld Reg.GA_STATUS 1 0 0).setReg Reg.GA_EPACK 0).gaSt fun g => { g with steady := none }).tlUpdate

end Sys2Proof.Machine
end

