-- ==== Sys2Proof/Machine/Hamper.lean ====
section
/-! DEFINITION. The Hamper's dump (R152 to R163, R413, Tables 08-1 to 08-6 and 08-10): the snapshot, the image and its layout,
writing and sealing it, and the Tally's dump record (R144). Restoring is in Restore.lean. -/

namespace Sys2Proof.Machine

/-! ### Layout (R156, R158) -/

/-- Member index of data chunk u, and of the XOR chunk of frame t, for M members. -/
def hmIdx (m u : Nat) : Nat := (m - u / (m - 1) % m + u % (m - 1)) % m
def hmXorIdx (m t : Nat) : Nat := m - 1 - t % m

/-- Data chunks of dump frame t in a stream of n chunks. -/
def hmChunks (m n t : Nat) : List Nat := ((List.range (m - 1)).map (t * (m - 1) + ·)).filter fun u => decide (u < n)

/-- Tag of a block of the image: its number is B, or 2^31 + 64 t + block in an XOR chunk. -/
def hmTag (metaCode num id : Nat) (d : List Byte) : List Byte := sideTag metaCode num (id % 2 ^ 48) 0xFE20 d

/-- First LBA of a port's hamper region, L − H. -/
def State.hmBase (s : State) (p : Nat) : Nat := (s.port p).lbas - s.hamperLbas p

/-- ASCII "LEBHAMPR" and "LEBHTRLR". -/
def hmSig : List Byte := [0x4C, 0x45, 0x42, 0x48, 0x41, 0x4D, 0x50, 0x52]
def hmTrlSig : List Byte := [0x4C, 0x45, 0x42, 0x48, 0x54, 0x52, 0x4C, 0x52]

/-! ### The snapshot (R152, R154, R159, R160) -/

/-- Insert into a list sorted by a key. -/
def insertBy {α : Type} (key : α → Nat) (x : α) : List α → List α
  | [] => [x]
  | y :: t => if key x < key y then x :: y :: t else y :: insertBy key x t

def sortBy {α : Type} (key : α → Nat) (l : List α) : List α := l.foldl (fun acc x => insertBy key x acc) []

/-- Order of a frame in the image: BOOT by priority and volume, LOG, then BLOCK, each by volume, then stripe (R159). -/
def State.dumpKey (s : State) (f : Frame) : Nat :=
  let c := match s.vol? f.vol with
    | some v => if v.cls = 2 then 2 ^ 8 * v.prio else if v.cls = 1 then 2 ^ 40 else 2 ^ 41
    | none => 2 ^ 41
  (c + f.vol) * 2 ^ 24 + f.stripe

/-- A stripe that has had no CLOSE since it last became UNWRITTEN (Table 08-3). -/
def State.firstWrite (s : State) (f : Frame) : Bool :=
  s.sstState f.arr f.stripe == Sst.unwritten || f.first || s.ld.firsts.contains (f.arr, f.stripe)

/-- The dumped slots of a frame with their blocks. -/
def State.dumpSlots (s : State) (f : Frame) : List (DumpSlot × List (List Byte)) :=
  let one := fun (succ : Bool) (e : Nat × Slot) =>
    let l := (List.range e.2.blks.length).filter fun o => e.2.blk o == Bk.dirty
    (({ arr := f.arr, stripe := f.stripe, succ := succ, first := s.firstWrite f, chunk := e.1, vol := f.vol
        gen := s.genNow f.arr f.stripe, frame := 0, map := toMask l, blk := 0 } : DumpSlot),
      l.map fun o => s.memN (e.2.addr + 4096 * o) 4096)
  (f.cur.map (one false) ++ f.succ.map (one true)).filter fun e => !e.2.isEmpty

/-- Chunks of metadata A for n descriptors and p pages. -/
def metaChunks (n p : Nat) : Nat := ceilDiv (ceilDiv (32 * n) 4096 + ceilDiv (8 * (p + 1)) 4096 + 16) 64

/-- Chunks of the whole stream for n descriptors, p pages and b blocks. -/
def streamChunks (n p b : Nat) : Nat := 2 + 2 * metaChunks n p + ceilDiv p 64 + ceilDiv b 64

/-- The frame records that fit a number of chunks, in order, up to the first that does not (R160). -/
def takeFit (lim p : Nat) : Nat → Nat → List (List (DumpSlot × List (List Byte))) → List (List (DumpSlot × List (List Byte)))
  | _, _, [] => []
  | n, b, f :: t =>
    let n' := n + f.length
    let b' := b + sumN (f.map fun e => e.2.length)
    if streamChunks n' p b' ≤ lim then f :: takeFit lim p n' b' t else []

/-- Give slots their frame record and first block. -/
def placeSlots : Nat → Nat → List (List (DumpSlot × List (List Byte))) → List DumpSlot
  | _, _, [] => []
  | f, b, l :: t =>
    let r := l.foldl (fun (p : List DumpSlot × Nat) e => (p.1 ++ [{ e.1 with frame := f, blk := p.2 }], p.2 + e.2.length)) ([], b)
    r.1 ++ placeSlots (f + 1) r.2 t

/-- A slot descriptor (Table 08-3). -/
def descBytes (d : DumpSlot) : List Byte :=
  let b := toLe 4 (d.stripe % 2 ^ 24 + d.arr % 4 * 2 ^ 24 + b2n d.succ * 2 ^ 26 + b2n d.first * 2 ^ 27) ++ toLe 1 d.chunk ++
    toLe 1 (popCount 64 d.map) ++ toLe 2 d.vol ++ toLe 6 d.gen ++ toLe 2 d.frame ++ toLe 8 d.map ++ toLe 4 d.blk
  b ++ toLe 4 (crc32c b)

/-- A stream table entry (Table 08-10). -/
def streamEntry (n : Nat) (x : Stream) : List Byte :=
  if x.state = 1 ∨ x.state = 2 then
    let b := toLe 2 n ++ toLe 1 x.state ++ [0] ++ toLe 4 (x.cur % 2 ^ 24) ++ toLe 8 x.next ++ toLe 8 x.vis ++ toLe 8 x.oldest ++
      toLe 8 x.trim ++ toLe 8 x.lastTime ++ toLe 4 (x.at_ x.cur).used ++ zeros 8
    b ++ toLe 4 (crc32c b)
  else zeros 64

/-- Pad bytes to whole blocks. -/
def padBlk (b : List Byte) : List Byte := bytesAt b 0 (4096 * ceilDiv b.length 4096)

/-- Cut bytes into blocks. -/
def toBlocks (b : List Byte) : List (List Byte) := (List.range (ceilDiv b.length 4096)).map fun i => bytesAt b (4096 * i) 4096

/-- Pad a list of blocks to whole chunks; empty blocks stand for zeros. -/
def padChunk (l : List (List Byte)) : List (List Byte) := l ++ List.replicate (64 * ceilDiv l.length 64 - l.length) []

/-- Pages that differ from their state-area copy: changed ones, and those being written (R154). -/
def State.dirtyPages (s : State) : List (Nat × Nat) :=
  let a := s.st.pages.map fun e => (e.1 / 65536, e.1 % 65536)
  let b := s.md.tasks.filterMap fun t => match t.kind with
    | .statePage p => some (t.arr, p)
    | _ => none
  (a ++ b).eraseDups.filter fun e => (s.arr? e.1).isSome

/-- Metadata A as blocks. -/
def State.metaA (s : State) (slots : List DumpSlot) (pages : List (Nat × Nat)) : List (List Byte) :=
  let list := pages.flatMap (fun e => toLe 8 (e.1 + e.2 * 4 + 2 ^ 63)) ++ zeros 8
  let tab := (List.range 1024).flatMap fun n => match s.stream? n with
    | some x => streamEntry n x
    | none => zeros 64
  padChunk (toBlocks (padBlk (slots.flatMap descBytes) ++ padBlk list ++ tab))

/-- Header block (Table 08-4) of an image. -/
def State.hmHeader (s : State) (d : Dump) : List Byte :=
  let ids := (List.range 4).flatMap fun a => match s.arr? a with
    | some r => bytesAt r.ident 0 16
    | none => zeros 16
  let b := hmSig ++ toLe 8 d.id ++ toLe 8 d.pfdTime ++ toLe 4 (toMask d.ports) ++ toLe 1 d.ports.length ++
    toLe 3 d.slots.length ++ d.regions.flatMap (toLe 4) ++ ids ++ toLe 8 d.dirty
  let p := (List.range 32).flatMap fun p => toLe 8 (if d.ports.contains p then s.hmBase p else 0)
  b ++ toLe 4 (crc32c b) ++ p ++ toLe 4 (crc32c p)

/-- Chunks of the stream, the trailer's included. -/
def Dump.chunks (d : Dump) : Nat := d.regions.getD 4 0 + 1
def Dump.m (d : Dump) : Nat := d.ports.length
def Dump.rows (d : Dump) : Nat := ceilDiv d.chunks (d.m - 1)

/-- The trailer chunk. -/
def Dump.trailer (d : Dump) : List (List Byte) :=
  let a := d.stream.drop 64 |>.take (64 * (d.regions.getD 1 0 - 1))
  let crcA := crc32c (a.flatMap fun b => bytesAt b 0 4096)
  let map := (List.range 8192).map fun i => BitVec.ofNat 8 (sumN ((List.range 8).map fun j =>
    if d.noxor.contains (8 * i + j) then 2 ^ j else 0))
  let b := hmTrlSig ++ toLe 8 d.id ++ toLe 8 d.rows ++ toLe 4 d.frames ++ zeros 4 ++ toLe 4 crcA ++ zeros 80 ++
    toLe 4 (crc32c map) ++ zeros 4
  [b ++ toLe 4 (crc32c b), map.take 4096, map.drop 4096] ++ List.replicate 61 []

/-- Take the snapshot: the whole image but IMAGE_ID and the trailer. -/
def State.dumpTake (s : State) : Dump :=
  let ports := s.healthyList
  let fr := sortBy (fun (e : Nat × Frame) => s.dumpKey e.2) (s.ld.frames.filter fun e => e.2.hasDirty)
  let all := fr.map fun e => s.dumpSlots e.2
  let pages := s.dirtyPages
  let m := ports.length
  let kept := if m < 2 then [] else takeFit (s.hMin / 64 * (m - 1)) pages.length 0 0 all
  let nblk := fun (l : List (List (DumpSlot × List (List Byte)))) => sumN (l.flatMap fun f => f.map fun e => e.2.length)
  let n := sumN (kept.map List.length)
  let ma := metaChunks n pages.length
  let d0 := 1 + ma + ceilDiv pages.length 64
  let b0 := d0 + ceilDiv (nblk kept) 64
  let slots := placeSlots 0 (64 * d0) kept
  let meta_ := s.metaA slots pages
  let pg := pages.map fun e => match s.arr? e.1 with
    | some r => bytesAt (s.pageBytes r e.2) 0 4096
    | none => []
  { ports := ports, id := 0, pfdTime := s.hm.pfdTime, dirty := s.ldDirty, skipped := nblk all - nblk kept
    frames := kept.length, slots := slots
    stream := padChunk [[]] ++ meta_ ++ padChunk pg ++ padChunk (kept.flatMap fun f => f.flatMap (·.2)) ++ meta_
    regions := [1, 1 + ma, d0, b0, b0 + ma], xors := [], noxor := [], step := 0, outst := 0, flushed := [], t0 := 0, t1 := 0 }

/-! ### Writing (R156, R158, R161) -/

def State.setDump (s : State) (d : Dump) : State := { s with hm.dump := some d }

/-- Issue a member command of the dump if its port takes it; a port that does not leaves an erasure (R282). -/
def State.dumpCmd (s : State) (c : MCmd) : State :=
  if (s.port c.port).failed ∨ (s.port c.port).state ≠ Ps.ready then s
  else match s.hm.dump with
    | some d => (s.setDump { d with outst := d.outst + 1 }).mpIssue c
    | none => s

/-- Write a chunk of 64 blocks in row t on member index i; the numbers of its blocks start at num. -/
def State.dumpChunk (s : State) (d : Dump) (op : MOp) (i t num : Nat) (bs : List (List Byte)) : State :=
  let p := d.ports.getD i 0
  let data := (List.range 64).map fun b => bytesAt (bs.getD b []) 0 4096
  let tags := (List.range 64).map fun b => hmTag (s.port p).meta_ (num + b) d.id (data.getD b [])
  s.dumpCmd { mcmd p op (s.hmBase p + 64 * t) 64 (.dump p) with data := data, tags := tags }

/-- Write a data chunk; the trailer's with FUA set (R270). -/
def State.dumpData (s : State) (d : Dump) (u : Nat) : State :=
  s.dumpChunk d (if u + 1 = d.chunks then .writeFua else .write) (hmIdx d.m u) (u / (d.m - 1)) (64 * u) ((d.stream.drop (64 * u)).take 64)

/-- Submit the XOR job of a dump frame (queue 0, LEN = 64). -/
def State.dumpXor (s : State) (d : Dump) (t : Nat) (second : Bool) : State :=
  let us := hmChunks d.m d.chunks t
  let (h, s) := s.newH
  s.loomSubmit { id := h, q := 0, op := Op.xor, d := us.length, k := 0, erase := 0, zero := 0, len := 64, crcOut := false
                 tag := 0, src := (List.range us.length).map fun i => (i, LLoc.dump (us.getD i 0)), dst := [(0, LLoc.dumpXor t)]
                 result := 0, crcList := 0, client := .dump t, second := second, bad := false, at_ := 0, parked := false }

/-- Steps 1 and 2 of Table 08-5: DUMP_OPEN is in the ring; the directory is written, then STATE = DUMPING. -/
def State.dumpOpened (s : State) (seq : Nat) : State := match s.hm.dump with
  | none => s
  | some d =>
    let d := { d with id := seq }
    let w := toLe 8 d.id ++ toLe 8 d.pfdTime ++ toLe 8 d.dirty ++ toLe 4 (toMask d.ports) ++ toLe 1 d.m ++
      toLe 3 (s.fld Reg.HM_STATUS 7 6) ++ zeros 8 ++ d.regions.flatMap (toLe 4) ++ zeros 12
    let s := s.keepPut (hmDir + 8) w
    let nguid := (List.range 32).flatMap fun p => if d.ports.contains p then bytesAt (s.port p).nguid 0 16 else zeros 16
    let base := (List.range 32).flatMap fun p => toLe 8 (if d.ports.contains p then s.hmBase p else 0)
    let s : State := { (s.keepPut (hmDir + 0x80) (nguid ++ base)).dirPut Ds.dumping with hm.made := true }
    if d.m < 2 then State.setFlag { s with hm.dump := none } Reg.HM_STATUS 3 true
    else
      let d := { d with stream := d.stream.set 0 (s.hmHeader d), step := 1, t0 := s.now }
      let s := s.setDump { d with outst := d.rows - 1 }
      let s := (List.range (d.chunks - 1)).foldl (fun s u => s.dumpData d u) s
      (List.range (d.rows - 1)).foldl (fun s t => s.dumpXor d t false) s

/-- The record of R144 at the seal. -/
def State.dumpRecord (s : State) (d : Dump) : DumpRec :=
  let bytes := d.dirty - 4096 * d.skipped
  let e := s.eNeed bytes
  let k : Rat := (s.useK : Nat) / 1024
  let acted := s.reg Reg.MW_CHOP_MS * 1000 + s.mw.chopUs != s.hm.chop0 || s.reg Reg.MW_SHORTS != s.hm.shorts0
  { rpm0 := s.hm.rpm0, rpm1 := s.mwSpeed, hub0 := s.hm.hub0, hub1 := s.fld Reg.MW_HUB 15 0, pack := s.reg Reg.GA_EDUMP
    bytes := bytes, tData := d.t1 - d.t0, tSeal := s.now - s.hm.pfdAt, m := d.m, pred := sat32 (floorQ e)
    need1 := divQ e k
    usable := !s.hm.vinBack && !acted && decide (bytes ≥ 268435456) && s.hm.rpmOk && s.flag Reg.MW_STATUS 7 }

/-- DUMP_SEAL is in the ring: STATE = SEALED, then PWR_SAFE, then the record of the dump. -/
def State.dumpSealed (s : State) : State := match s.hm.dump with
  | none => s
  | some d =>
    let s := s.dirPut Ds.sealed
    let s := (s.setFld Reg.HM_STATUS 2 0 4).setFlag Reg.HM_STATUS 3 true
    let r := s.dumpRecord d
    let s := { s with hm.dump := none }
    if s.kp.inhibit then s.bump Reg.KP_INHIBIT else State.addWear { s with tl.dumpRec := some r } 0xD0 1

/-- Steps 6 and 7: ROWS, FRAMES, SKIPPED, the seal time and the CRC, then DUMP_SEAL is asked for. -/
def State.dumpSeal (s : State) (d : Dump) : State :=
  let s := s.keepWord (hmDir + 0x28) (d.rows + d.frames * 2 ^ 32)
  let s := s.keepWord (hmDir + 0x40) (d.regions.getD 4 0 + d.skipped * 2 ^ 32)
  let s := s.keepWord (hmDir + 0x48) s.time
  let s := s.keepWord (hmDir + 0x50) (crc32c (s.keepN (hmDir + 8) 0x48))
  s.lgAsk { unit := 2, kind := Lk.dumpSeal, arr := 0, stripe := 0, gen := d.rows, mask := toMask d.flushed, frame := 0xFFFFF
            dump := toLe 6 d.rows ++ zeros 2 ++ toLe 4 (toMask d.flushed) ++ toLe 4 0xFFFFF, cont := .dumpSeal, counted := false }

/-- The dump's next step once nothing of the present one is outstanding (R161). -/
def State.dumpGo (s : State) : State := match s.hm.dump with
  | none => s
  | some d =>
    if d.outst ≠ 0 then s
    else
      let last := d.rows - 1
      if d.step = 1 then
        let d := { d with step := 2, t1 := s.now, outst := 1, stream := d.stream ++ d.trailer }
        (s.setDump d).dumpXor d last false
      else if d.step = 2 then
        let d := { d with step := 3, stream := d.stream.take (64 * (d.chunks - 1)) ++ d.trailer }
        (s.setDump d).dumpData d (d.chunks - 1)
      else if d.step = 3 then
        let d := { d with step := 4 }
        let s := s.setDump d
        if d.noxor.contains last then s
        else s.dumpChunk d .write (hmXorIdx d.m last) last (2 ^ 31 + 64 * last) (mapGetD d.xors last [])
      else if d.step = 4 then
        let s := (s.setDump { d with step := 5 }).setFld Reg.HM_STATUS 2 0 3
        (d.ports.filter fun p => (s.port p).vwc).foldl (fun s p => s.dumpCmd (mcmd p .flush 0 0 (.dump p))) s
      else if d.step = 5 then
        let novwc := d.ports.filter fun p => !(s.port p).vwc && !(s.port p).failed
        let d := { d with step := 6, flushed := d.flushed ++ novwc }
        (s.setDump d).dumpSeal d
      else s

/-- A member command of the dump has ended. -/
def State.dumpEnd (s : State) (c : MCmd) (p : Nat) (ok : Bool) : State := match s.hm.dump with
  | none => s
  | some d => s.setDump { d with outst := d.outst - 1
                                 flushed := if ok && c.op == .flush then d.flushed ++ [p] else d.flushed }

/-- An XOR job of the dump has ended (R156, R412). -/
def State.dumpXorEnd (s : State) (j : LJob) (t status : Nat) : State := match s.hm.dump with
  | none => s
  | some d =>
    if status = Ls.datapath ∧ !j.second ∧ !s.loomFault then s.dumpXor d t true
    else
      let d := { d with outst := d.outst - 1, noxor := if status = Ls.ok then d.noxor else d.noxor ++ [t] }
      let s := s.setDump d
      if status = Ls.ok ∧ d.step = 1 then
        let s := s.dumpChunk d .write (hmXorIdx d.m t) t (2 ^ 31 + 64 * t) (mapGetD d.xors t [])
        match s.hm.dump with
        | some d => s.setDump { d with xors := mapErase d.xors t }
        | none => s
      else s

/-- Does this PFD make an image (R155)? -/
def State.makesImage (s : State) : Bool := s.mode != 0 && !s.hm.importing

/-- Step 5 of Table 08-1: block moves stop, and an image is begun by asking for DUMP_OPEN. -/
def State.dumpSnap (s : State) : State :=
  let s := { s with hm.snapped := true, ld.movesStopped := true }
  if !s.makesImage then s
  else
    let d := s.dumpTake
    let s := ((s.setDump d).setFld Reg.HM_STATUS 2 0 2).setFlag Reg.HM_STATUS 4 (decide (d.skipped > 0))
    let mask := toMask d.ports
    s.lgAsk { unit := 2, kind := Lk.dumpOpen, arr := 0, stripe := 0, gen := d.dirty / 4096, mask := mask, frame := 0xFFFFF
              dump := toLe 6 (d.dirty / 4096) ++ zeros 2 ++ toLe 4 mask ++ toLe 4 0xFFFFF, cont := .dumpOpen, counted := false }

/-- After a PFD that makes no image, PWR_SAFE rises once every destage that was open has closed (R155, R171). -/
def State.noImageSafe (s : State) : State :=
  if s.pfd ∧ s.hm.stopped ∧ s.hm.snapped ∧ !s.makesImage ∧ s.flag Reg.HM_STATUS 3 = false ∧
      !(s.md.tasks.any fun t => (t.kind.frame).isSome) then
    s.setFlag Reg.HM_STATUS 3 true
  else s

end Sys2Proof.Machine
end

