-- ==== Sys2Proof/Machine/Restore.lean ====
section
/-! DEFINITION. Restoring an image (R165 to R173, Table 08-8): reading dump frames with their repairs (R170), header, trailer and
metadata, laying state pages over the table, HAMPERED stripes, frames taken back into the Larder, and image import. -/

namespace Sys2Proof.Machine

def State.setRs (s : State) (r : Restore) : State := { s with hm.restore := some r }
def State.updRs (s : State) (f : Restore → Restore) : State := match s.hm.restore with
  | some r => s.setRs (f r)
  | none => s

def Restore.m (r : Restore) : Nat := r.ports.length
def Restore.chunks (r : Restore) : Nat := r.regions.getD 4 0 + 1
def Restore.has (r : Restore) (u : Nat) : Bool := (mapGet? r.blks (64 * u)).isSome
def Restore.blk (r : Restore) (u b : Nat) : List Byte := mapGetD r.blks (64 * u + b) []
def Restore.chunk (r : Restore) (u : Nat) : List (List Byte) := (List.range 64).map (r.blk u)
def Restore.frameOf (r : Restore) (u : Nat) : Nat := u / (r.m - 1)
def Restore.put (r : Restore) (u : Nat) (bs : List (List Byte)) : Restore :=
  { r with blks := ((List.range 64).zip bs).foldl (fun m e => mapSet m (64 * u + e.1) e.2) r.blks }

/-! ### Giving an image up (R167, R172) -/

/-- The image is not restored: RETIRED, with a CRITICAL event of the bytes lost. -/
def State.rsGiveUp (s : State) (amount : Nat) : State :=
  (s.rsRetire.bump Reg.HM_UNUSABLE).noteD Rank.hamper (Config.eventValue 5) Sev.critical 0 0 amount

/-! ### Reading dump frames (R170) -/

/-- Is a chunk of the frame being read on a member without tags? -/
def State.tagless (s : State) (r : Restore) (i : Nat) : Bool :=
  let p := r.ports.getD i 0
  !r.gone.contains p && (s.port p).meta_ == 0

/-- Ask for a chunk on member index i in row t, named u; a missing member's chunk has failed. -/
def State.rsAsk (s : State) (u i t : Nat) : State := match s.hm.restore with
  | none => s
  | some r =>
    let p := r.ports.getD i 0
    if r.gone.contains p ∨ (s.port p).failed ∨ (s.port p).state ≠ Ps.ready then s.setRs { r with bad := r.bad ++ [u] }
    else (s.setRs { r with outst := r.outst + 1 }).mpIssue
      (mcmd p .read (mapGetD r.base p 0 + 64 * t) 64 (.restore u))

/-- Begin the next dump frame wanted. -/
def State.rsFrame (s : State) (r : Restore) (t : Nat) : State :=
  if r.got.contains t then s.setRs { r with want := r.want.drop 1 }
  else
    let s := s.setRs { r with want := r.want.drop 1, cur := some t, xorPh := false, bad := [], xor := [] }
    (hmChunks r.m r.chunks t).foldl (fun s u => s.rsAsk u (hmIdx r.m u) t) s

/-- Does a header or trailer block check and carry an IMAGE_ID? -/
def hmBlockOk (sig b : List Byte) (id : Nat) : Bool :=
  bytesAt b 0 8 == sig && leAt b 124 4 == crc32c (bytesAt b 0 124) && leAt b 8 8 == id

def hmHeaderOk (b : List Byte) (id : Nat) : Bool := hmBlockOk hmSig b id && leAt b 384 4 == crc32c (bytesAt b 128 256)

/-- The trailer chunk checks; its NOXOR bitmap. -/
def Restore.trailerOk (r : Restore) : Bool :=
  let u := r.regions.getD 4 0
  let b := r.blk u 0
  r.has u && hmBlockOk hmTrlSig b r.id && leAt b 116 4 == crc32c (bytesAt (r.blk u 1) 0 4096 ++ bytesAt (r.blk u 2) 0 4096)

def Restore.noxorMap (r : Restore) : List Nat :=
  let u := r.regions.getD 4 0
  let m := bytesAt (r.blk u 1) 0 4096 ++ bytesAt (r.blk u 2) 0 4096
  (List.range r.rows).filter fun t => bit (leAt m (t / 8) 1) (t % 8)

/-- The NOXOR bitmap counts as soon as a trailer that checks has been read. -/
def Restore.know (r : Restore) : Restore :=
  if r.step < 2 ∨ r.step = 12 then if r.trailerOk then { r with noxor := r.noxorMap } else r else r

/-- The data chunks of a frame are in: its XOR chunk is read where one failed, where tags are missing, or for an import. -/
def State.rsXor (s : State) (r : Restore) (t : Nat) : State :=
  let r := r.know
  let us := hmChunks r.m r.chunks t
  let bare := us.any (fun u => s.tagless r (hmIdx r.m u)) || s.tagless r (hmXorIdx r.m t)
  let s := s.setRs { r with xorPh := true }
  if r.noxor.contains t then s.setRs { r with xorPh := true, bad := r.bad ++ [2 ^ 32 + t] }
  else if !r.bad.isEmpty ∨ bare ∨ r.cmd ≠ 0 then s.rsAsk (2 ^ 32 + t) (hmXorIdx r.m t) t
  else s

/-- Every chunk of a frame that could be read is in: rebuild, verify, or give chunks up. -/
def State.rsResolve (s : State) (r : Restore) (t : Nat) : State :=
  let us := hmChunks r.m r.chunks t
  let bad := us.filter r.bad.contains
  let xorOk := !r.xor.isEmpty
  let others := fun (u : Nat) => (List.range 64).map fun b =>
    xorAll (r.xor.getD b [] :: (us.filter (· != u)).map fun v => r.blk v b)
  let r := { r with cur := none, got := t :: r.got }
  match bad with
  | [] =>
    let same := (List.range 64).all fun b => bytesAt (xorAll (us.map fun u => r.blk u b)) 0 4096 == bytesAt (r.xor.getD b []) 0 4096
    if !xorOk ∨ same then s.setRs r
    else
      let bare := us.filter fun u => s.tagless r (hmIdx r.m u)
      let n := bare.length + b2n (s.tagless r (hmXorIdx r.m t))
      if n = 1 then match bare with
        | u :: _ => (s.setRs (r.put u (others u))).bump Reg.HM_REPAIRED
        | [] => (s.setRs r).bump Reg.HM_REPAIRED
      else s.setRs { r with lostCh := us ++ r.lostCh }
  | u :: t' =>
    if t'.isEmpty ∧ xorOk then (s.setRs (r.put u (others u))).bump Reg.HM_REPAIRED
    else s.setRs { r with lostCh := bad ++ r.lostCh }

/-- A read of the restore has ended (R158, R170): every block must pass its tag check. -/
def State.rsEnd (s : State) (c : MCmd) (u : Nat) (ok : Bool) (pay : MPayload) : State := match s.hm.restore with
  | none => s
  | some r =>
    let r := { r with outst := r.outst - 1 }
    if u ≥ 2 ^ 33 then match (if ok then payBlk pay 0 else none) with
      | some b => s.setRs { r with blks := mapSet r.blks u (bytesAt b.data 0 4096) }
      | none => s.setRs r
    else
      let num := if u ≥ 2 ^ 32 then 2 ^ 31 + 64 * (u - 2 ^ 32) else 64 * u
      let code := (s.port c.port).meta_
      let good := fun (i : Nat) => match payBlk pay i with
        | none => false
        | some b => code == 0 ||
          bytesAt b.tag 0 (8 * code) == hmTag code (num + i) r.id (bytesAt b.data 0 4096)
      if ok ∧ (List.range 64).all good then
        let bs := (List.range 64).map fun i => match payBlk pay i with
          | some b => bytesAt b.data 0 4096
          | none => []
        s.setRs (if u ≥ 2 ^ 32 then { r with xor := bs } else r.put u bs)
      else s.setRs { r with bad := r.bad ++ [u] }

/-- Array numbers by the header's array identifiers (R173); 99 names none. -/
def State.hmMap (s : State) (h : List Byte) : List Nat := ((List.range 4).map fun i => bytesAt h (52 + 16 * i) 16).map fun x =>
  match s.st.arrays.find? fun e => bytesAt e.2.ident 0 16 == x && x != zeros 16 with
  | some e => e.1
  | none => 99

/-! ### Header, trailer and metadata (Tables 08-3, 08-4) -/

/-- Frames of chunks from a to b. -/
def Restore.framesOf (r : Restore) (a b : Nat) : List Nat := ((List.range (b - a)).map fun i => r.frameOf (a + i)).eraseDups

/-- Adopt the NOXOR bitmap: a frame read with an XOR chunk that was never written is read again. -/
def Restore.adopt (r : Restore) : Restore :=
  let nx := r.noxorMap
  let again := fun (u : Nat) => nx.contains (r.frameOf u) && decide (u ≠ r.regions.getD 4 0)
  { r with noxor := nx, got := r.got.filter fun t => !nx.contains t, lostCh := r.lostCh.filter fun u => !again u
           blks := r.blks.filter fun e => !again (e.1 / 64) }

/-- Descriptors of metadata A in an image, as the header counts them. -/
def Restore.ndesc (r : Restore) : Nat := leAt (r.blk 0 0) 29 3

/-- Descriptor k of the metadata copy whose first chunk is a. -/
def Restore.desc (r : Restore) (a k : Nat) : Option (List Byte) :=
  let u := a + 32 * k / 262144
  let b := bytesAt (r.blk u (32 * k % 262144 / 4096)) (32 * k % 4096) 32
  if r.has u && !r.lostCh.contains u && leAt b 28 4 == crc32c (bytesAt b 0 28) then some b else none

def Restore.aChunks (r : Restore) : Nat := r.regions.getD 1 0 - r.regions.getD 0 0

/-- Is metadata B needed? -/
def Restore.needB (r : Restore) : Bool :=
  (List.range r.aChunks).any (fun i => r.lostCh.contains (r.regions.getD 0 0 + i)) ||
  (List.range r.ndesc).any fun k => (r.desc (r.regions.getD 0 0) k).isNone

/-- Block i of the metadata, from A, or from B where A's chunk is lost. -/
def Restore.metaBlk (r : Restore) (i : Nat) : List Byte :=
  let a := r.regions.getD 0 0 + i / 64
  let b := r.regions.getD 3 0 + i / 64
  bytesAt (if r.has a && !r.lostCh.contains a then r.blk a (i % 64)
    else if r.has b && !r.lostCh.contains b then r.blk b (i % 64) else []) 0 4096

/-- Decode a descriptor. -/
def decodeDesc (amap : List Nat) (b : List Byte) : DumpSlot :=
  let w := leAt b 0 4
  { arr := amap.getD (bits w 25 24) 99, stripe := w % 2 ^ 24, succ := bit w 26, first := bit w 27, chunk := leAt b 4 1
    vol := leAt b 6 2, gen := leAt b 8 6, frame := leAt b 14 2, map := leAt b 16 8, blk := leAt b 24 4 }

/-- Words of the page list from block i on, until a zero word; n bounds the words. -/
def Restore.pageWords (r : Restore) (i : Nat) : Nat → List Nat
  | 0 => []
  | n + 1 =>
    let k := 64 * r.aChunks * 512 - (n + 1)
    let w := leAt (r.metaBlk (i + k / 512)) (8 * (k % 512)) 8
    if w = 0 then [] else w :: r.pageWords i n

/-- Frame records lost with descriptors that are readable in neither copy (R170). -/
def lostRange (ds : List (Option DumpSlot)) (frames : Nat) : List Nat :=
  ((List.range ds.length).flatMap fun k => match ds.getD k none with
    | some _ => []
    | none =>
      let lo := match (ds.take k).reverse.findSome? id with
        | some d => d.frame
        | none => 0
      let hi := match (ds.drop k).findSome? id with
        | some d => d.frame
        | none => frames - 1
      (List.range (hi + 1 - lo)).map (lo + ·)).eraseDups

/-- Blocks of descriptors that neither copy gives: those of the image's n blocks that the readable ones do not name. -/
def lostBlocks (ds : List (Option DumpSlot)) (n : Nat) : Nat :=
  if ds.all Option.isSome then 0 else n - sumN ((ds.filterMap id).map fun d => popCount 64 d.map)

/-- Blocks an image holds: the DIRTY blocks its header counts, less those SKIPPED. -/
def Restore.held (r : Restore) (skip : Nat) : Nat :=
  min (leAt (r.blk 0 0) 116 8 / 4096 - skip) (64 * (r.regions.getD 3 0 - r.regions.getD 2 0))

/-- Read the metadata: slots, lost records, pages and stream table; note whether B served. -/
def State.rsMeta (s : State) (r : Restore) : State :=
  let a := r.regions.getD 0 0
  let b := r.regions.getD 3 0
  let ds := (List.range r.ndesc).map fun k => match r.desc a k with
    | some x => some (decodeDesc r.amap x)
    | none => (r.desc b k).map (decodeDesc r.amap)
  let usedB := (List.range r.aChunks).any (fun i => r.lostCh.contains (a + i) && !r.lostCh.contains (b + i)) ||
    (List.range r.ndesc).any fun k => (r.desc a k).isNone && (r.desc b k).isSome
  let i := ceilDiv (32 * r.ndesc) 4096
  let pw := r.pageWords i (64 * r.aChunks * 512)
  let j := i + ceilDiv (8 * (pw.length + 1)) 4096
  let entry := fun (n : Nat) => bytesAt (r.metaBlk (j + n / 64)) (64 * (n % 64)) 64
  let tab := (List.range 1024).filterMap fun n =>
    let e := entry n
    if leAt e 60 4 = crc32c (bytesAt e 0 60) ∧ leAt e 0 2 = n ∧ leAt e 2 1 ≠ 0 then some (n, e) else none
  let s := s.setFlag Reg.HM_STATUS 5 usedB
  let s := if r.cmd = 0 then { s with sv.tab := tab } else s
  let s := if r.cmd = 0 ∧ s.dirState = Ds.sealed then s.dirPut Ds.restoring else s
  let skip := if r.cmd = 0 then s.keepNat (hmDir + 0x44) 4 else 0
  let n := if (lostRange ds r.frames).all s.isDone then 0 else lostBlocks ds (r.held skip)
  let s := s.bumpN Reg.HM_LOST_BLOCKS n
  let s := if skip ≠ 0 then s.noteD Rank.hamper (Config.eventValue 6) Sev.critical 0 0 (4096 * skip) else s
  s.setRs { r with
    slots := ds.filterMap id, lostRecs := lostRange ds r.frames, lost := n
    pages := pw.map fun w => (r.amap.getD (w % 4) 99, bits w 33 2)
    want := if pw.isEmpty then [] else r.framesOf (r.regions.getD 1 0) (r.regions.getD 1 0 + ceilDiv pw.length 64), step := 4 }

/-! ### Pages, HAMPERED stripes and frames (Table 08-8 steps 4 to 8) -/

/-- Lay the dumped state pages of an array over its table; a page that was lost leaves it as it stands. -/
def State.rsPages (s : State) (a : Nat) : State := match s.hm.restore, s.arr? a with
  | some r, some x =>
    ((List.range r.pages.length).zip r.pages).foldl (fun s e =>
      let u := r.regions.getD 1 0 + e.1 / 64
      if e.2.1 = a ∧ e.2.2 < x.pages ∧ r.has u ∧ !r.lostCh.contains u then
        let s := s.pageLoad x e.2.2 (r.blk u (e.1 % 64))
        { s with st.pages := mapSet s.st.pages (65536 * a + e.2.2) s.now }
      else s) s
  | _, _ => s

/-- First descriptor of a frame record. -/
def Restore.rec? (r : Restore) (f : Nat) : Option DumpSlot := r.slots.find? fun d => d.frame == f

/-- Is a frame record discarded: its volume is DELETING or gone? -/
def State.rsGone (s : State) (d : DumpSlot) : Bool := match s.vol? d.vol, s.arr? d.arr with
  | some v, some r => v.deleting || v.arr != d.arr || decide (d.stripe ≥ r.count)
  | _, _ => true

/-- Set DONE bits of discarded records, and mark the stripes of the others HAMPERED. -/
def State.rsMark (s : State) (a : Nat) : State := match s.hm.restore with
  | none => s
  | some r => (List.range r.frames).foldl (fun s f => match r.rec? f with
      | none => s
      | some d =>
        if d.arr ≠ a ∨ s.isDone f ∨ s.rsGone d then s else s.setSstState a d.stripe Sst.hampered) s

def State.rsDiscard (s : State) : State := match s.hm.restore with
  | none => s
  | some r => (List.range r.frames).foldl (fun s f => match r.rec? f with
      | none => s
      | some d => if !s.isDone f ∧ s.rsGone d then s.hmDone f else s) s

/-- Chunks of the stream that hold the dumped blocks of a slot, one for each block. -/
def DumpSlot.chunks (d : DumpSlot) : List Nat := (List.range (popCount 64 d.map)).map fun i => (d.blk + i) / 64

/-- A frame record is lost (R170): the blocks lost count, its stripe turns LOST, and its DONE bit is
set. -/
def State.rsLose (s : State) (r : Restore) (f : Nat) : State :=
  let ds := r.slots.filter fun d => d.frame == f
  let us := ds.flatMap DumpSlot.chunks
  let n := (if r.lostRecs.contains f then us else us.filter r.lostCh.contains).length
  let s := (s.setRs { r with next := f + 1, step := 6, lost := r.lost + n }).bumpN Reg.HM_LOST_BLOCKS n
  let s := match ds with
    | d :: _ => if (s.arr? d.arr).isSome then s.goLost d.arr d.stripe 0 else s
    | [] => s
  s.hmDone f

/-- Put the blocks of a slot into the data slot of its chunk as HELD (R168). -/
def State.rsSlot (s : State) (r : Restore) (n : Nat) (x : ArrayRec) (d : DumpSlot) : Bool × State :=
  let go := fun (s : State) (z : Slot) =>
    let os := maskBits x.b d.map
    let s := ((List.range os.length).zip os).foldl (fun s e =>
      let b := d.blk + e.1
      s.memPut (z.addr + 4096 * e.2) (bytesAt (r.blk (b / 64) (b % 64)) 0 4096)) s
    (true, s.updFrame n fun f => { f with cur := mapSet f.cur d.chunk (os.foldl (fun z o => z.set o Bk.held) z) })
  match s.frame? n with
  | none => (false, s)
  | some f => match mapGet? f.cur d.chunk with
    | some z => go s z
    | none => match s.getSlot x with
      | (some a, s) => go s (Slot.new x a)
      | (none, s) => (false, s)

/-- Load a frame record into the Larder and queue it for destage in class 0; false when room is lacking. -/
def State.rsLoad (s : State) (r : Restore) (f : Nat) : Bool × State :=
  let ds := (r.slots.filter fun d => d.frame == f)
  match ds with
  | [] => (true, s)
  | d :: _ => match s.arr? d.arr with
    | none => (true, s)
    | some x =>
      let s := match s.frameOf d.arr d.stripe with
        | some (n, g) => if g.state = Fs.clean then s.dropFrame n else s
        | none => s
      if (s.frameOf d.arr d.stripe).isSome then (false, s)
      else match s.newFrame d.arr d.stripe d.vol with
        | (none, s) => (false, s)
        | (some n, s) =>
          let (ok, s) := (ds.filter (fun e => !e.succ) ++ ds.filter (fun e => e.succ)).foldl (fun (p : Bool × State) e =>
            if p.1 then p.2.rsSlot r n x e else p) (true, s)
          if !ok then (false, s.dropFrame n)
          else
            let s := s.updFrame n fun g => { g with img := some f, first := ds.any (·.first) }
            (true, s.toReady n 0)

/-- All frame records have been taken: a FAULT event tells the blocks lost, and the image retires once all are done. -/
def State.rsFinish (s : State) (r : Restore) : State :=
  let s := if r.lost = 0 ∧ r.lostRecs.isEmpty then s else s.noteD Rank.hamper (Config.eventValue 7) Sev.fault 0 0 r.lost
  let s := s.setRs { r with step := 8 }
  let done := ((List.range r.frames).filter s.isDone).length
  let s := s.setReg Reg.HM_PROGRESS done
  if done ≥ r.frames then s.rsRetire else s

/-- Take the next frame record, or finish (steps 6 and 7). None is taken while PFD is declared (R171). -/
def State.rsTake (s : State) (r : Restore) : State :=
  if s.pfd then s
  else if r.next ≥ r.frames then s.rsFinish r
  else if s.isDone r.next then s.setRs { r with next := r.next + 1 }
  else if (r.rec? r.next).any s.rsGone then State.hmDone (s.setRs { r with next := r.next + 1 }) r.next
  else if r.lostRecs.contains r.next ∨ (r.rec? r.next).isNone then s.rsLose r r.next
  else
    let us := (r.slots.filter fun d => d.frame == r.next).flatMap DumpSlot.chunks
    s.setRs { r with step := 7, want := (us.map r.frameOf).eraseDups }

/-- The data of a frame record is in. -/
def State.rsData (s : State) (r : Restore) : State :=
  let us := (r.slots.filter fun d => d.frame == r.next).flatMap DumpSlot.chunks
  if (r.rec? r.next).any s.rsGone then s.setRs { r with step := 6 }
  else if us.any r.lostCh.contains then s.rsLose r r.next
  else match s.rsLoad r r.next with
    | (true, s) => s.updRs fun r => { r with next := r.next + 1, step := 6 }
    | (false, s) => s

/-! ### Image import (R173) -/

/-- Ask every READY member for the first block of its hamper region. -/
def State.rsScan (s : State) : State :=
  let ps := (List.range 32).filter fun p => s.portExists p && (s.port p).state == Ps.ready && !(s.port p).failed
  ps.foldl (fun s p => (s.updRs fun r => { r with outst := r.outst + 1 }).mpIssue
    (mcmd p .read (s.hmBase p) 1 (.restore (2 ^ 33 + p)))) s

/-- End an import that finds no acceptable image. -/
def State.rsRefuse (s : State) (r : Restore) : State :=
  State.adminEnd { s with hm.restore := none } r.cmd St.imageInvalid 0

/-- Begin the image the headers show: that with the highest IMAGE_ID. -/
def State.rsChoose (s : State) (r : Restore) : State :=
  let hs := (r.blks.filter fun e => decide (e.1 ≥ 2 ^ 33)).map (·.2) |>.filter fun b => hmHeaderOk b (leAt b 8 8)
  match hs.foldl (fun (m : Option (List Byte)) b => match m with
      | none => some b
      | some c => if leAt b 8 8 > leAt c 8 8 then some b else some c) none with
  | none => s.rsRefuse r
  | some b =>
    let ports := maskBits 32 (leAt b 24 4)
    let regions := (List.range 5).map fun i => leAt b (32 + 4 * i) 4
    let rows := ceilDiv (regions.getD 4 0 + 1) (ports.length - 1)
    if ports.length < 2 then s.rsRefuse r
    else s.setRs { r with
      id := leAt b 8 8, ports := ports, regions := regions, rows := rows, amap := s.hmMap b, blks := [], step := 12
      gone := ports.filter fun p => (s.port p).failed || (s.port p).state != Ps.ready
      base := ports.foldl (fun m p => mapSet m p (leAt b (128 + 8 * p) 8)) [], want := [rows - 1] }

/-- The whole image has been read: accept it or not, once no PFD is declared (R13). -/
def State.rsAccept (s : State) (r : Restore) : State :=
  let u := r.regions.getD 4 0
  let a := (List.range (64 * r.aChunks)).flatMap fun i => bytesAt (r.blk (r.regions.getD 0 0 + i / 64) (i % 64)) 0 4096
  if s.pfd then s
  else if !r.lostCh.isEmpty ∨ !hmHeaderOk (r.blk 0 0) r.id ∨ leAt (r.blk u 0) 32 4 ≠ crc32c a then s.rsRefuse r
  else
    let s := (s.setRs { r with step := 14, frames := leAt (r.blk u 0) 24 4 })
    let s := State.setFld { s with hm.importing := true } Reg.TL_STATUS 1 0 Gate.cold
    let s := s.tlUpdate
    (s.framesIn fun f => (f.state == Fs.filling || f.state == Fs.ready) && f.hasDirty).foldl (fun s n => s.toReady n 0) s

/-- Is every DIRTY block destaged and every stripe free? -/
def State.rsCalm (s : State) : Bool :=
  !(s.ld.frames.any fun e => e.2.hasDirty && e.2.state != Fs.parked) && !(s.md.tasks.any fun t => t.kind.stripeTask)

/-- The directory of an accepted image, STATE = RESTORING last; the command completes. -/
def State.rsDirectory (s : State) (r : Restore) : State :=
  let h := r.blk 0 0
  let s := s.clearDone
  let w := toLe 8 r.id ++ bytesAt h 16 8 ++ bytesAt h 116 8 ++ bytesAt h 24 4 ++ bytesAt h 28 1 ++ zeros 3 ++ toLe 4 r.rows ++
    toLe 4 r.frames ++ bytesAt h 32 20 ++ zeros 12
  let s := s.keepPut (hmDir + 8) w
  let s := s.keepWord (hmDir + 0x50) (crc32c (s.keepN (hmDir + 8) 0x48))
  let nguid := (List.range 32).flatMap fun p => if r.ports.contains p then bytesAt (s.port p).nguid 0 16 else zeros 16
  let base := (List.range 32).flatMap fun p => toLe 8 (mapGetD r.base p 0)
  let s := (s.keepPut (hmDir + 0x80) (nguid ++ base)).dirPut Ds.restoring
  let s := (s.setRs { r with step := 2 }).setFld Reg.HM_STATUS 2 0 5
  s.adminEnd r.cmd St.success (r.id % 2 ^ 48)

/-! ### Steps -/

/-- Table 08-8 from step 1 at STARTUP, as the directory's STATE gives (R167, R172). -/
def State.rsBegin (s : State) : State :=
  let st := s.dirState
  if st = Ds.dumping then s.rsGiveUp (s.keepNat (hmDir + 0x18) 8)
  else if st ≠ Ds.sealed ∧ st ≠ Ds.restoring then s
  else if s.keepNat (hmDir + 0x50) 4 ≠ crc32c (s.keepN (hmDir + 8) 0x48) ∨ s.keepBad (hmDir + 8) 0x50 then s.rsGiveUp (2 ^ 64 - 1)
  else
    let ports := maskBits 32 (s.keepNat (hmDir + 0x20) 4)
    let frames := s.keepNat (hmDir + 0x2C) 4
    let s := s.setRs {
      id := s.dirId, ports := ports, frames := frames, rows := s.keepNat (hmDir + 0x28) 4
      regions := (List.range 5).map fun i => s.keepNat (hmDir + 0x30 + 4 * i) 4
      base := ports.foldl (fun m p => mapSet m p (s.keepNat (hmDir + 0x280 + 8 * p) 8)) []
      gone := ports.filter fun p => (s.port p).failed || (s.port p).state != Ps.ready ||
        bytesAt (s.port p).nguid 0 16 != s.keepN (hmDir + 0x80 + 16 * p) 16 }
    let s := (s.setFld Reg.HM_STATUS 2 0 5).setFlag Reg.HM_STATUS 5 false
    s.setReg Reg.HM_PROGRESS ((List.range frames).filter s.isDone).length

/-- The restore's next step once no read is outstanding. -/
def State.rsGo (s : State) : State := match s.hm.restore with
  | none => s
  | some r =>
    if r.outst ≠ 0 then s
    else match r.cur with
      | some t => if r.xorPh then s.rsResolve r t else s.rsXor r t
      | none => match r.want with
        | t :: _ => s.rsFrame r t
        | [] =>
          if r.step = 0 then s.setRs { r with step := 1, want := [r.rows - 1, 0] }
          else if r.step = 1 then
            if r.has 0 ∧ !r.lostCh.contains 0 ∧ hmHeaderOk (r.blk 0 0) r.id ∧ r.trailerOk then
              let r := r.adopt
              s.setRs { r with step := 2, amap := s.hmMap (r.blk 0 0), want := 0 :: r.framesOf (r.regions.getD 0 0) (r.regions.getD 1 0) }
            else s.rsGiveUp (s.keepNat (hmDir + 0x18) 8)
          else if r.step = 2 then
            if r.needB then s.setRs { r with step := 3, want := r.framesOf (r.regions.getD 3 0) (r.regions.getD 4 0) }
            else s.rsMeta r
          else if r.step = 3 then s.rsMeta r
          else if r.step = 4 then s.setRs { r with step := 5 }
          else if r.step = 5 ∧ r.cmd ≠ 0 then
            let s := (List.range 4).foldl (fun s a => if r.amap.contains a then s.rsPages a else s) s
            let s := (List.range 4).foldl (fun s a => if r.amap.contains a then s.rsMark a else s) s.rsDiscard
            let es := lgSort s.ringEntries
            let s := (List.range 4).foldl (fun s a => if r.amap.contains a then s.replay a (es.filter fun e => e.arr == a) 0 else s) s
            s.updRs fun r => { r with step := 6 }
          else if r.step = 6 then s.rsTake r
          else if r.step = 7 then s.rsData r
          else if r.step = 10 then (s.setRs { r with step := 11 }).rsScan
          else if r.step = 11 then s.rsChoose r
          else if r.step = 12 then
            if r.trailerOk then
              let r := r.adopt
              s.setRs { r with step := 13, want := List.range r.rows }
            else s.rsRefuse r
          else if r.step = 13 then s.rsAccept r
          else if r.step = 14 then if s.rsCalm then s.rsDirectory r else s
          else s

/-- Begin an image import for an admin command (R173). -/
def State.rsImport (s : State) (h : Nat) : State :=
  s.setRs { id := 0, ports := [], base := [], frames := 0, rows := 0, regions := [0, 0, 0, 0, 0], step := 10, cmd := h }

/-! ### Resuming service (R165) -/

/-- Service resumes after a power failure. -/
def State.serviceResume (s : State) : State :=
  let s := if s.hm.made then
      (s.dirEnd Ds.superseded).bump Reg.HM_SUPERSEDED
    else s
  let s := (s.setFlag Reg.SS_STATUS 0 false).setFld Reg.TL_STATUS 1 0 Gate.cold
  let s := s.setReg Reg.HM_STATUS (s.fld Reg.HM_STATUS 7 4 * 16 + (if s.hm.restore.isSome then 5 else 0))
  let s := s.vcoreGo s.svcCode
  let s := { s with
    hm.supAt := none, hm.vinAt := none, hm.vcore := false, hm.stopped := false, hm.snapped := false, hm.vinBack := false, hm.made := false
    hm.dump := none, ld.movesStopped := false, ld.destageStopped := false, tl.learnAt := s.now }
  ((List.range 32).foldl State.mpPump s).packOff.mwResume.loomUnpark.tlRefuseAll.tlUpdate

end Sys2Proof.Machine
end

