-- ==== Sys2Proof/Machine/Startup.lean ====
section
/-! DEFINITION. From POR to SERVICE (R387, Table 17-8): loading tables, replay and the restore behind them (R104, R107), dump
correction (R144), streams rebuilt (R124), BOOT volumes READY (R125), and the end of STARTUP (R254, R386). -/

namespace Sys2Proof.Machine

/-! ### Rebuilding a stream (R124) -/

/-- Walk the records of a stripe up to the first that does not check or has TYPE 0. -/
def logWalk (bs : List Byte) : Nat → Nat → LogStripe → LogStripe
  | 0, _, h => h
  | n + 1, off, h =>
    let len := leAt bs (off + 16) 4
    let ty := leAt bs (off + 22) 1
    let sz := recSize len
    if off + 32 > bs.length ∨ ty = 0 ∨ off + sz > bs.length ∨
        leAt bs (off + 28) 4 ≠ crc32c (bytesAt bs off 28 ++ bytesAt bs (off + 32) len) then h
    else
      let seq := leAt bs off 8
      let t := leAt bs (off + 8) 8
      let h' : LogStripe := if ty = 2 then h
        else { h with first := if h.last = 0 then seq else h.first, last := seq
                      firstT := if h.last = 0 then t else h.firstT, lastT := t }
      logWalk bs n (off + sz) { h' with records := h.records + 1, used := off + sz - 64 }

/-- The restored image's entry of a stream. -/
def State.streamTab (s : State) (n : Nat) : Option (List Byte) := mapGet? s.sv.tab n

/-- Begin the rebuild of one stream with the header of its first stripe. -/
def State.streamBegin (s : State) (n : Nat) (x : Stream) : State := match s.streamStripe x 0 with
  | none => s
  | some (a, r, st) =>
    let s := s.setStream n { x with idx := [], done := [], refused := [], holes := [] }
    let (t, s) := s.addTask (.stream n) a st 0 1 (.step 0)
    s.updTask t fun y => { y with left := [0], erased := s.failedCells a r st, prev := s.sstState a st }

/-- Move a rebuild to a stripe and block. -/
def State.streamTo (s : State) (x : Task) (r : ArrayRec) (st k : Nat) (walk : Bool) (keep : NMap (List Byte)) : State :=
  s.setTask { x with stripe := st, off := k % r.b, left := [k / r.b], erased := s.failedCells x.arr r st, bad := [], outst := 0
                     prev := s.sstState x.arr st, bufs := keep, confirm := walk, phase := .step 0, second := false }

/-- Put the blocks of the current stripe that hold records into its frame as CLEAN, where the frame does not have them. -/
def State.streamFrame (s : State) (n : Nat) (x : Task) (r : ArrayRec) (v used : Nat) : Bool × State :=
  let s := if (s.frameOf x.arr x.stripe).isSome then s else (s.newFrame x.arr x.stripe v).2
  match s.frameOf x.arr x.stripe with
  | none => (false, s)
  | some (f, fr) =>
    let s := if fr.hasDirty ∨ fr.busy ∨ fr.state ≠ Fs.filling then s else s.updFrame f fun y => { y with state := Fs.clean }
    let s := s.updFrame f fun y => { y with stream := some n }
    (spanBlks 0 (64 + used)).foldl (fun (p : Bool × State) k =>
      let i := k / r.b
      let o := k % r.b
      let put := fun (s : State) (z : Slot) =>
        (s.memPut (z.addr + 4096 * o) (bytesAt (mapGetD x.bufs (2 ^ 20 + k) []) 0 4096)).updFrame f fun y =>
          { y with cur := mapSet y.cur i (z.set o Bk.clean) }
      match p, p.2.frame? f with
      | (true, s), some y => match mapGet? y.cur i with
        | some z => if z.blk o = 0 then (true, put s z) else (true, s)
        | none => match s.getSlot r with
          | (some a, s) => (true, put s (Slot.new r a))
          | (none, s) => (false, s)
      | _, _ => p) (true, s)

/-- The frame of a stripe takes part in a destage. -/
def State.busyAt (s : State) (a stripe : Nat) : Bool := match s.frameOf a stripe with
  | some (_, f) => f.busy
  | none => false

/-- Records beyond the last valid one are discarded: their bytes in the current frame turn to zeros. -/
def State.streamCut (s : State) (x : Task) (r : ArrayRec) (used : Nat) : State := match s.frameOf x.arr x.stripe with
  | some (_, f) => s.logZero f r (64 + used)
  | none => s

/-- The current stripe has been read: NEXT, VISIBLE, the last TIME and the current frame follow, once no destage holds the frame.
Where the stripe holds no valid record, the previous TIME is the highest LAST_TIME of the other headers and of the restored table's
entry (log entry 75). -/
def State.streamFinish (s : State) (t n : Nat) (x : Task) (r : ArrayRec) (y : Stream) : State :=
  let bs := (List.range r.sb).flatMap fun k => bytesAt (mapGetD x.bufs (2 ^ 20 + k) []) 0 4096
  let h := logWalk bs (bs.length / 32) 64 {}
  let busy := s.busyAt x.arr x.stripe
  let (ok, s) := if h.records = 0 ∨ busy then (true, s) else s.streamFrame n x r y.vol h.used
  if busy then (s.setPhase t .waitSlot).stopJoin t 0 x.arr x.stripe
  else if !ok then (s.setPhase t .waitSlot).slotJoin t 0
  else
    let s := s.streamCut x r h.used
    let others := (mapErase y.idx y.cur).map (·.2)
    let last := if h.last ≠ 0 then h.last else maxN (others.map (·.last))
    let lt := if h.last ≠ 0 then h.lastT else maxN (others.map (·.lastT))
    let tabT := match s.streamTab n with
      | some e => leAt e 40 8
      | none => 0
    (s.endTask t).setStream n { y with next := last + 1, vis := last, lastTime := max lt tabT, holdAt := s.now
                                       idx := if h.records = 0 then mapErase y.idx y.cur else mapSet y.idx y.cur h }

/-- Headers are in: the current stripe is the one the restored table names, or that with the highest FIRST_SEQ. -/
def State.streamCur (s : State) (t n : Nat) (x : Task) (r : ArrayRec) (y : Stream) : State :=
  let best := (y.idx.foldl (fun (m : Option (Nat × LogStripe)) e => match m with
    | none => some e
    | some f => if e.2.first > f.2.first then some e else some f) none).map (·.1)
  match (match s.streamTab n with
    | some e => some (leAt e 4 3 % max 1 y.count)
    | none => best) with
  | none => (s.endTask t).setStream n { y with next := 1, vis := 0, cur := 0, lastTime := 0, holdAt := s.now }
  | some e => match s.streamStripe y e with
    | none => s.endTask t
    | some (_, _, st) => (s.setStream n { y with cur := e }).streamTo x r st 0 true []

/-- A block of the rebuild has arrived. -/
def State.streamGot (s : State) (t n : Nat) (x : Task) (r : ArrayRec) (y : Stream) (k : Nat) (d : List Byte) : State :=
  if x.confirm then
    let keep := mapSet (x.bufs.filter fun e => decide (e.1 ≥ 2 ^ 20)) (2 ^ 20 + k) d
    if k + 1 < r.sb then s.streamTo x r x.stripe (k + 1) true keep
    else s.streamFinish t n { x with bufs := keep } r y
  else match s.streamStripe y 0 with
    | none => s.endTask t
    | some (_, _, st0) =>
      let e := x.stripe - st0
      let h := bytesAt d 0 64
      let y' := if logHeaderOk h n then { y with idx := mapSet y.idx e (logHeader h) } else y
      if e + 1 < y.count then (s.setStream n y').streamTo x r (x.stripe + 1) 0 false []
      else (s.setStream n y').streamCur t n x r y'

/-- The block wanted, where it is at hand: in the Larder, known as zeros, or read; a block nothing can give reads as zeros. -/
def State.streamAt (s : State) (x : Task) (r : ArrayRec) : Option (List Byte) × State :=
  let i := x.left.headD 0
  if x.phase = .step 9 then (some [], s)
  else match s.lookBlk ⟨x.arr, r, x.stripe, i, x.off⟩ with
    | (.data d, s) => (some d, s)
    | (.lost, s) => (some [], s)
    | (.hampered, s) => (some [], s)
    | (.member, s) =>
      if r.mirror then ((x.copyOf r i x.off).map fun c => x.buf c x.off, s)
      else (if x.has i x.off && !x.erased.contains i then some (x.buf i x.off) else none, s)

def State.streamPlan (s : State) (x : Task) (r : ArrayRec) : Plan :=
  let i := x.left.headD 0
  if r.mirror then s.mirrorPlan x r [(i, [x.off])]
  else if !x.erased.contains i then some [(i, [x.off])]
  else if x.prev = Sst.resyncDue then none
  else reconPlan x r [x.off]

/-- A rebuild takes its next step. -/
def State.streamGo (s : State) (t n : Nat) : State := match s.task? t with
  | none => s
  | some x => match s.stream? n, s.arr? x.arr with
    | some y, some r =>
      let k := x.left.headD 0 * r.b + x.off
      match s.streamAt x r with
      | (some d, s) => s.streamGot t n x r y k d
      | (none, s) => match s.streamPlan x r with
        | none => (s.beyondHit x.arr x.stripe (cellMask r x.stripe x.erased) 6).2.streamGot t n x r y k []
        | some [] => s.taskRecon t 1 x.off 1 false
        | some l => l.foldl (fun s e => s.taskRead t r x.stripe e.1 e.2) (s.setTask { x with phase := .read })
    | _, _ => s.endTask t

/-! ### Dump correction (R144) -/

/-- E_meas of a dump in mJ. -/
def State.dumpMeas (s : State) (d : DumpRec) : Rat :=
  let w := match s.wheelModel with
    | some (j, eta, _, _) => eta * (j : Rat) / 10000000 * (omegaSq d.rpm0 - omegaSq d.rpm1) / 2 * 1000
    | none => 0
  let c : Rat := (s.fld Reg.TL_BULK 15 0 : Nat)
  w + (d.pack : Rat) + c * ((d.hub0 : Rat) * d.hub0 - (d.hub1 : Rat) * d.hub1) / 2000000

/-- Store what TL_LD shows, and the corrections a usable dump gives. -/
def State.dumpCorrect (s : State) : State := match s.tl.dumpRec with
  | none => s
  | some d =>
    let e := s.dumpMeas d
    let k := clampQ (8 / 10) 4 (divQ e d.need1)
    let vals := [d.pred, sat32 (floorQ e), d.bytes / 1048576, d.tSeal / 1000, if d.usable then floorQ (1024 * k) else 0]
    let s := (List.range 5).foldl (fun s i =>
      s.kwStore (Config.settingsPage (Reg.TL_LD_PRED + 4 * i)) (Reg.TL_LD_PRED + 4 * i) (vals.getD i 0)) s
    let s := { s with tl.dumpRec := none }
    if d.usable then
      let s := if k > 5 / 4 then s.note Rank.tally 0x06 Sev.fault 0 else s
      ((s.lrnPut 4 (floorQ (1024 * k))).lrnPut 3 (floorQ (divQ d.bytes (d.tData * (d.m - 1))))).lrnPut 2 (d.tSeal - d.tData)
    else s

/-! ### Ports (R387) -/

def State.usedPorts (s : State) : List Nat := (List.range 32).filter fun p => s.assigned p

/-! ### Tables and replay (R104, R107) -/

/-- Arrays whose tables are loaded and replayed: ONLINE and OFFLINE ones. -/
def State.liveArrays (s : State) : List Nat := (s.st.arrays.filter fun e => e.2.state == 1 || e.2.state == 2).map (·.1)

/-- The entries of the image that awaits its restore are live (R163). -/
def State.imageLive (s : State) (es : List LgEnt) : State :=
  if s.dirState = Ds.sealed ∨ s.dirState = Ds.restoring then
    let last := minBy (fun (e : LgEnt) => e.seq) (es.filter fun e => e.kind == Lk.dumpSeal && decide (e.seq > s.dirId))
    let l := (es.filter fun e => e.kind == Lk.dumpOpen && e.seq == s.dirId) ++ last.toList
    { s with lg.live := s.lg.live ++ l.map fun e => ⟨e.seq, e.kind, 0, 0, e.gen, e.frame, false⟩ }
  else s

/-- Step 9 begins: the ring's head, torn writes, the restore, and one load per array. -/
def State.bootLoad (s : State) : State :=
  let es := s.ringEntries
  let head := maxN (es.map (·.seq))
  let s := s.setReg64 Reg.LG_HEAD_LO head
  let s := if s.lgOk ((head + 1) % 16384) = false ∧ (s.lgRaw ((head + 1) % 16384)).any (· != 0) then s.bump Reg.LG_TORN else s
  let s := ((s.st.arrays.filter fun e => e.2.state == 0).map (·.1)).foldl (fun s a => s.deleteStart a 0 0) s
  let s := ((s.st.arrays.filter fun e => e.2.state == 3).map (·.1)).foldl (fun s a =>
    if s.md.tasks.any fun t => t.arr == a then s else (s.addTask (.delete 0) a 0 0 0 (.step 0)).2) s
  let s := s.liveArrays.foldl (fun s a => (s.addTask (.load 0) a 0 0 0 (.step 0)).2) (s.imageLive es).rsBegin
  { s with pw.step := 9 }

/-- Every table has been loaded and the image's metadata is at hand. -/
def State.loadsDone (s : State) : Bool :=
  s.md.tasks.all (fun t => t.kind != .load 0 || (t.phase == .step 4 && t.outst == 0)) &&
  (match s.hm.restore with
    | none => true
    | some r => r.step == 5 && r.outst == 0 && r.want.isEmpty && r.cur.isNone)

/-- Entries the replay of an array sees: the window of the Keep ring, with the copies merged where R107 asks for it. -/
def State.replayWindow (s : State) (a : Nat) : List LgEnt :=
  let head := s.lgHead
  let es := s.ringEntries.filter fun e => e.arr == a && decide (e.seq + 16384 > head)
  let cs := match s.md.tasks.find? fun t => t.kind == .load 0 && t.arr == a with
    | some x => x.copyEntries a
    | none => []
  let merged := cs.filter fun c => decide (c.seq > head) ||
    (decide (c.seq + 16384 > head) && !s.lgOk (c.seq % 16384))
  lgSort (merged ++ es)

/-- Restored pages, HAMPERED stripes and replay of every array, which has finished once its RESYNC entries are written (R104); the
restore goes on to its frames. The next SEQ follows the highest one of the Keep ring and the merged copies (log entry 144). -/
def State.bootReplay (s : State) : State :=
  let as := s.liveArrays
  let wins := as.map fun a => (a, s.replayWindow a)
  let s := as.foldl (fun s a => s.rsPages a) s
  let s := as.foldl (fun s a => s.rsMark a) s.rsDiscard
  let top := maxN (wins.flatMap fun w => w.2.map (·.seq))
  let s := wins.foldl (fun s w => s.replay w.1 w.2 0) (s.rpClear.setReg64 Reg.LG_HEAD_LO (max s.lgHead top))
  let s := (s.md.tasks.filter fun t => t.kind == .load 0).foldl (fun s t => s.endTask t.id) s
  let s := { s with lg.replaying := toMask as, pw.step := 10 }
  s.updRs fun r => if r.cmd = 0 then { r with step := 6 } else r

/-! ### Streams and BOOT volumes -/

/-- ACTIVE and HOLDING streams are rebuilt; DELETING ones resume their deletion. -/
def State.bootStreams (s : State) : State :=
  let s := s.sv.streams.foldl (fun s e =>
    if e.2.state = 3 then match s.extentOf (256 + e.1) with
      | some (a, base, _) => (s.addTask (.volDelete 0 (256 + e.1)) a base 0 0 (.step 0)).2
      | none => s
    else s.streamBegin e.1 e.2) s
  { s with pw.step := 20, sv.recovering := true }

def Task.ofStream (x : Task) : Bool := match x.kind with
  | .stream _ => true
  | _ => false

/-- A BOOT volume's array has replayed and every HAMPERED stripe of it lies in the Larder. -/
def State.bootOk (s : State) (v : Vol) : Bool :=
  s.lg.replayed.testBit v.arr &&
  (List.range v.count).all fun i => s.sstState v.arr (v.base + i) != Sst.hampered || (s.frameOf v.arr (v.base + i)).isSome

def State.bootVols (s : State) : List (Nat × Vol) := s.st.vols.filter fun e => e.2.cls == 2 && !e.2.deleting

/-- BOOT volumes become READY (R125); the moment the last one does is SV_BOOT_T, measured once. -/
def State.bootCheck (s : State) : State :=
  if s.mode ≠ 0 ∨ (s.pw.step ≠ 10 ∧ s.pw.step ≠ 20) then s
  else
    let l := s.sv.ready ++ ((s.bootVols.filter fun e => !s.sv.ready.contains e.1 && s.bootOk e.2).map (·.1))
    let s := { s with sv.ready := l }
    if s.sv.bootT.isSome ∨ !(s.bootVols.all fun e => l.contains e.1) then s
    else
      let d := s.now - s.sv.startAt
      State.alHist { s with sv.bootT := some d } 7 (if d < 1000 then 0 else Nat.log2 (d / 1000))

/-- Do the streams' rebuilds still run? -/
def State.streamsRun (s : State) : Bool := s.md.tasks.any Task.ofStream

/-! ### End of STARTUP -/

/-- Targets that joined no earlier than stripe n of the walk get the regions before the data area written (Table 11-3). -/
def State.walkRegions (s : State) (a n : Nat) : State :=
  (s.targets a).foldl (fun s p => match mapGet? s.md.pos (32 * a + p) with
    | none => s
    | some x =>
      if n ≤ x.join ∧ !(s.md.tasks.any fun t => t.arr == a && (t.kind == .target p || t.kind == .targetEnd p)) then
        (s.addTask (.target p) a 0 0 0 (.step 0)).2
      else s) s

/-- A walk interrupted resumes from its checkpoint on an ONLINE array (R254); a target that is absent has failed. -/
def State.walkResume (s : State) (a : Nat) : State := match s.arr? a with
  | none => s
  | some r =>
    if r.state ≠ 1 then s
    else
    let w := s.keepNat (ckBase a) 8
    let n := w % 2 ^ 40
    let s := if bit w 63 then s.setWalk a { issued := n, walked := n, ckWalked := n, ckAt := s.now, active := true } else s
    let s := ((s.targets a).filter fun p => (s.port (r.port p)).state != Ps.ready).foldl (fun s p => s.targetFail a p) s
    if (s.walk a).active then (s.walkRegions a n).walkComplete a else s

/-- A scrub interrupted goes on from its word. -/
def State.scrubResume (s : State) (a : Nat) : State :=
  let n := s.keepNat (ckBase a + 8) 8 % 2 ^ 24
  if n = 0 ∨ (s.arr? a).any (fun r => r.state != 1) then s else s.setScrub a { running := true, next := n, ckAt := s.now, visitAt := s.now }

/-- Mode a strap value selects (Table 17-9): 1 SERVICE, 2 RECOVERY, 3 TEST. -/
def strapMode (v : Nat) : Nat := if v = 0 then 1 else if v = 2 then 3 else 2

/-- STARTUP ends: the strap mode is entered, copy moves cut short start again, and walks resume. -/
def State.bootEnd (s : State) : State :=
  let s := (s.setFld Reg.RV_MODE 1 0 (strapMode s.pw.strap)).setReg Reg.RV_ST_TIME (sat32 (s.now - s.sv.startAt))
  let s := { s with pw.step := 11, sv.recovering := false, sv.tab := [] }
  let s := s.liveArrays.foldl (fun s a => ((s.copyFill a none).walkResume a).scrubResume a) s
  let s := (if s.mode = 1 then s.offlineAll else s).tlUpdate
  if s.flag Reg.TL_STATUS 6 then s.note Rank.tally 0x07 Sev.info 0 else s

/-- What the first two steps of Table 17-8 load: the Boot ROM firmware (R346), the Loom's table (R66), the Almanac and wear scans
(R357, R367) and the Keep's status. -/
def State.bootScan (s : State) : State :=
  let s := (s.setReg Reg.RV_FW Config.bootVersion.toNat).setReg Reg.LM_COEF_CRC (crc32c coefTable)
  let s := ((s.setFlag Reg.KP_STATUS 0 (!s.kp.inhibit)).setFlag Reg.KP_STATUS 3 s.keyIsSet).wearScan
  s.alScan.scInvalidate

/-- A port the member step waits for no longer. -/
def State.portSettled (s : State) (p : Nat) : Bool :=
  let q := s.port p
  q.state == Ps.ready || q.state == Ps.rejected || q.failed

/-- Step 3: RST_DONE rises, and the time to the last BOOT volume counts from here. -/
def State.bootRun (s : State) (t : Nat) : State := { s with pw.step := 3, pw.rstDone := true, sv.startAt := t }

/-- Step 4: the DRAM is trained, and configuration requests are answered. -/
def State.bootTrain (s : State) : State := { s.setFlag Reg.DC_STATUS 3 false with
  pw.step := 4, pw.trainAt := s.now, pw.trainTj := signExt 16 (s.reg Reg.SS_TJ), hp.cfgReady := true }

/-- The next step of Table 17-8, once what it waits for has come. -/
def State.bootStep (s : State) : State :=
  if s.mode ≠ 0 ∨ s.pw.held then s
  else if s.pw.step = 1 then { s.bootScan with pw.step := 2 }
  else if s.pw.step = 2 then
    (s.alOpenEpoch.dumpCorrect.bootRun s.now).tlUpdate
  else if s.pw.step = 3 then s.bootTrain
  else if s.pw.step = 4 then if s.usedPorts.all s.portSettled then s.bootLoad else s
  else if s.pw.step = 9 then if s.loadsDone then s.bootReplay else s
  else if s.pw.step = 10 then if s.hm.restore.isNone ∧ s.lg.replaying = 0 then s.bootStreams else s
  else if s.pw.step = 20 then
    let s := if s.streamsRun then s else { s with sv.recovering := false }
    if s.streamsRun ∨ s.sv.bootT.isNone then s else s.bootEnd
  else s

end Sys2Proof.Machine
end

