-- ==== Sys2Proof/Machine/PortInit.lean ====
section
/-! DEFINITION. How a member port comes to READY or is REJECTED (R271 to R273, R285, Tables 12-4 and 12-5), what a new member is
used for (R248, R51), link loss, removal, and queue recreation (R279, R281, R282, R285). -/

namespace Sys2Proof.Machine

/-! ### Events of ports -/

/-- A notice and event of a port. -/
def State.portNote (s : State) (p n sev : Nat) : State := s.note (Rank.quad p) (Config.eventValue n) sev p

/-- Drop the initialisation commands of a port. -/
def State.initDrop (s : State) (p : Nat) : State :=
  let no := fun (c : MCmd) => !(c.port == p && c.client == .init)
  { s with mp.cmds := s.mp.cmds.filter no, mp.wait := s.mp.wait.filter no, mp.ends := s.mp.ends.filter fun e => no e.1 }

/-- A port is REJECTED with a REASON and its commands end (R271). -/
def State.portBarred (s : State) (p reason : Nat) : State :=
  ((s.initDrop p).updPort p fun q => { q with state := Ps.rejected, reason := reason }).mpEndAll p

/-- A port is REJECTED with a REASON; an assigned member fails (R271). -/
def State.portReject (s : State) (p reason : Nat) : State :=
  ((s.portBarred p reason).failMember p (if reason = 6 then 1 else 5)).sbSync

/-! ### The use of a member (R248, R51) -/

/-- Label of a port from the blocks read: of the copies that check, the one with the higher LABEL_GEN (R34). -/
def Port.label (q : Port) : Option (List Byte) :=
  match [mapGet? q.lab 0, mapGet? q.lab 8].filterMap fun b => match b with
    | some x => if labelOk (bytesAt x 0 64) then some (bytesAt x 0 64) else none
    | none => none with
  | [] => none
  | [b] => some b
  | b :: c :: _ => some (if leAt c 40 8 > leAt b 40 8 then c else b)

/-- Do a member's labels leave it free for an array: no copy checks, zero signature bytes, or this array's identifier? -/
def Port.labelFree (q : Port) (r : ArrayRec) : Bool := match q.label with
  | none => true
  | some b => bytesAt b 0 8 == zeros 8 || (labelSigned b && bytesAt b 8 16 == bytesAt r.ident 0 16)

/-- Failed position with no target that a port belongs to. -/
def State.emptyPos (s : State) (port : Nat) : Option (Nat × Nat × ArrayRec) := match s.portPos port with
  | none => none
  | some (a, p) => match s.arr? a with
    | none => none
    | some r => if bit r.failed p && !s.posTarget a p then some (a, p, r) else none

/-- May the member in a port be taken as the target of its own position (R27, R33, R248)? -/
def State.inPlaceOk (s : State) (port : Nat) (r : ArrayRec) : Bool :=
  let q := s.port port
  q.state == Ps.ready && q.meta_ == r.meta_ && decide (q.lbas ≥ r.needLbas) && q.labelFree r

/-- The labels of a new member are in: it is taken in place, or reported when it names an array that is not held. -/
def State.labelsIn (s : State) (port : Nat) : State := match s.emptyPos port with
  | some (a, p, r) =>
    if s.flag Reg.MD_CFG 1 && s.inPlaceOk port r && !s.pfd then s.takeTarget a p port true else s
  | none => match (s.port port).label with
    | some b =>
      if labelSigned b && !(s.st.arrays.any fun e => bytesAt e.2.ident 0 16 == bytesAt b 8 16) then
        s.portNote port 15 (Config.eventSev 15)
      else s
    | none => s

/-- A port is READY: held and waiting commands go out; a new member's labels are read. -/
def State.portReady (s : State) (p : Nat) (vwc : Bool) : State :=
  let back := (s.port p).fromRetrain
  let i := (s.port p).idn
  let code := match i with
    | some x => x.metaBytes / 8
    | none => 0
  let id := match i with
    | some x => bytesAt x.nguid 0 16
    | none => []
  let s := s.updPort p fun q => { q with
    state := Ps.ready, reason := 0, vwc := vwc, meta_ := code, ident := true, nguid := id, smartAt := s.now
    lbas := match i with
      | some x => x.lbas
      | none => 0
    fromRetrain := false, lab := if back then q.lab else [] }
  let s := if back then s.bump (Reg.MP_P_RETRAINS p) else s.portNote p 12 (Config.eventSev 12)
  let other := match s.portPos p with
    | some (a, q) => match s.arr? a with
      | some r => (!bit r.failed q || s.posTarget a q) && (r.nguid.getD q [] != id || r.meta_ != code)
      | none => false
    | none => false
  let s := (if other then s.failMember p 5 else s).tlUpdate
  let fresh := (s.emptyPos p).isSome || !s.assigned p
  let s := if fresh ∧ (!back ∨ (s.port p).lab.length < 2) then
      (s.mpIssue (mcmd p .read 0 1 .init)).mpIssue (mcmd p .read 8 1 .init)
    else s
  (s.mpPump p).sbSync

/-! ### Initialisation (Table 12-4 step 4) -/

/-- REASON of the first check of R271 that a member fails; 0 for none. -/
def identReason (x : MemberIdent) : Nat :=
  if x.lba4k = false ∨ !(x.metaBytes == 0 || x.metaBytes == 8 || x.metaBytes == 16) then 2
  else if x.protInfo then 3
  else if (bytesAt x.nguid 0 16).all (· == 0) then 4
  else if x.mqes + 1 < 16 then 5
  else 0

def State.initCmd (s : State) (p : Nat) (op : MOp) (n : Nat) : State := s.mpIssue (mcmd p op n 0 .init)

/-- Queue pair n of a port is to be created, or every pair is there. -/
def State.initQueue (s : State) (p n : Nat) : State :=
  if n < (s.port p).ioq then s.initCmd p .createQueue (n + 1)
  else
    let cache := match (s.port p).idn with
      | some x => x.vwc
      | none => false
    s.portReady p (cache && (s.port p).vwc)

/-- An initialisation command has ended (R271 to R273). A failed label read leaves its label unread. -/
def State.initEnd (s : State) (c : MCmd) (ok : Bool) (pay : MPayload) : State :=
  let p := c.port
  let q := s.port p
  match c.op with
  | .read =>
    let b := match (if ok then payBlk pay 0 else none) with
      | some b => bytesAt b.data 0 4096
      | none => zeros 4096 |>.set 0 1
    let s := s.updPort p fun q => { q with lab := mapSet q.lab c.lba b }
    if (s.port p).lab.length = 2 ∧ (s.port p).state = Ps.ready then s.labelsIn p else s
  | .vwcOff => (s.updPort p fun q => { q with vwc := !ok }).initQueue p 0
  | op =>
    if q.state ≠ Ps.init then s
    else if !ok then s.portReject p 1
    else match op, pay with
      | .identCtrl, _ => s.initCmd p .identNs 0
      | .identNs, .ident x =>
        let r := identReason x
        if r ≠ 0 then s.portReject p r
        else (s.updPort p fun q => { q with idn := some x, depth := min 256 (x.mqes + 1), vwc := x.vwc }).initCmd p .setQueues
          (ioqWanted s)
      | .setQueues, .granted k =>
        if k = 0 then s.portReject p 5
        else
          let s := s.updPort p fun q => { q with ioq := min (ioqWanted s) k, rr := 0 }
          if s.flag Reg.MP_CFG 4 ∧ (s.port p).vwc then s.initCmd p .vwcOff 0 else s.initQueue p 0
      | .createQueue, _ => s.initQueue p c.lba
      | _, _ => s.portReject p 1

/-- A SMART log has been read (R284). -/
def State.smartEnd (s : State) (p : Nat) (ok : Bool) (pay : MPayload) : State := match (if ok then pay else MPayload.none) with
  | .smart v =>
    let w := decide (v ≠ 0)
    let was := (s.port p).warn
    let s := s.updPort p fun q => { q with warn := w }
    if w && !was then s.portNote p 14 Sev.warning else s
  | _ => s

/-! ### Queue recreation (R279) -/

/-- Delete a queue pair and create it again: what is outstanding on it ends, and its identifiers are free. -/
def State.queueRenew (s : State) (p qp : Nat) : State :=
  let mine := fun (c : MCmd) => c.port == p && c.qp == qp
  let live := s.mp.cmds.filter fun c => mine c && !c.expired && !c.timedOut
  let s := { s with mp.cmds := s.mp.cmds.filter (fun c => !mine c)
                    mp.ends := s.mp.ends ++ live.map fun c => (c, false, MPayload.none) }
  ((s.mpIssue (mcmd p .deleteQueue qp 0 .none)).mpIssue (mcmd p .createQueue qp 0 .none)).mpPump p

/-- Quarantined identifiers of a pair. -/
def State.quarantined (s : State) (p qp : Nat) : Nat :=
  (s.mp.cmds.filter fun c => c.port == p && c.qp == qp && c.timedOut).length

/-! ### Links and presence (R281, R282, R285) -/

/-- The link of a port goes down. -/
def State.linkDown (s : State) (p : Nat) : State :=
  let q := s.port p
  if q.state = Ps.ready then
    let s := (s.initDrop p).updPort p fun q => { q with state := Ps.retrain, boundAt := s.now }
    if s.pfd then (s.failMember p 1).mpEndAll p else s.mpHold p
  else if q.state = Ps.init then
    (s.initDrop p).updPort p fun q => { q with state := if q.fromRetrain then Ps.retrain else Ps.training }
  else s

/-- Full width of a port's link (Table 12-1). -/
def State.fullLanes (s : State) (p : Nat) : Nat :=
  let w := bits s.mp.widths (2 * (p / 4) + 1) (2 * (p / 4))
  if w = 0 then 4 else if w = 1 then 2 else 1

/-- The link of a port comes up: initialisation begins. -/
def State.linkUp (s : State) (p lanes speed : Nat) : State :=
  let q := s.port p
  if q.state = Ps.training ∨ q.state = Ps.retrain then
    let d := decide (lanes < s.fullLanes p) || decide (speed < 4)
    let s := s.updPort p fun q => { q with
      state := Ps.init, enAt := s.now, rdy := false, fromRetrain := q.state == Ps.retrain, lanes := lanes, speed := speed
      down := d, idn := none }
    if d && !q.down then s.portNote p 13 Sev.warning else s
  else s

/-- An absent port keeps its counts. -/
def State.portGone (s : State) (p : Nat) (q : Port) : State :=
  ((s.initDrop p).mpEndAll p).updPort p fun x => { failed := x.failed && s.assigned p, tmos := q.tmos, werrs := q.werrs, rerrs := q.rerrs }

/-- Presence is lost: the port is ABSENT, and an assigned member that was in service (INIT out of RETRAIN included: Table 11-1
asks only for the loss of presence, log entry 122) has failed with REMOVED. -/
def State.portRemove (s : State) (p : Nat) : State :=
  let q := s.port p
  let s := if q.state = Ps.ready ∨ q.state = Ps.retrain ∨ (q.state = Ps.init ∧ q.fromRetrain = true) then s.failMember p 4 else s
  (s.portGone p q).tlUpdate

/-- One port's presence as a poll sees it. -/
def State.portPresence (s : State) (p : Nat) (seen : Bool) : State :=
  let q := s.port p
  if s.portExists p = false then s
  else if !seen then
    if q.state = Ps.absent then s.setPort p { q with present := false, polls := 0 } else s.portRemove p
  else
    let n := q.polls + 1
    if q.state = Ps.absent ∧ n ≥ 2 then
      s.setPort p { q with present := true, polls := n, state := Ps.powering, since := s.now }
    else s.setPort p { q with present := true, polls := min n 2 }

end Sys2Proof.Machine
end

