-- ==== Sys2Proof/Machine/Reset.lean ====
section
/-! DEFINITION. What the loss of host memory and the resets do: stopping a function (R296), Freeze (R298 to R300), host resets
and FLR (Table 13-6, R301 to R304), POR and CHIP reset (R9, R383, R384, Table 17-7). -/

namespace Sys2Proof.Machine

/-! ### Stopping a function (R296) -/

/-- Does a command still need host memory: a write whose data has not all moved, a read whose data has not all been written, a
Log Read, or a command whose segment list or data has not been read? -/
def Cmd.needsHost (c : Cmd) : Bool :=
  let o := Ent.opc c.ent
  c.ph == .sgl || c.ph == .data ||
  (isPf0 c.f && (((o == 0x01 || o == 0x02) && (!c.todo.isEmpty || c.ph == .ready || c.ph == .credit)) || o == 0x11 ||
    (o == 0x10 && c.log.isNone)))

/-- A command ends without acknowledgement; blocks already moved stay. Its reconstructions end with it. -/
def State.abortCmd (s : State) (c : Cmd) : State :=
  let s := (s.md.tasks.filter fun t => match t.kind with
    | .hostRecon x _ => x == c.h
    | _ => false).foldl (fun s t => s.endTask t.id) s
  (s.giveUp c.h).dropCmd c

/-- One command of a function that stops: a placed Log Append whose payload is still on its way becomes VOID (R117). -/
def State.stopCmd (s : State) (c : Cmd) : State :=
  if c.needsHost = false then s
  else if isPf0 c.f && c.log.isSome && Ent.opc c.ent == 0x10 then s.appendData c.h false
  else s.abortCmd c

/-- R296 for a function, whose rings enter the state given; reads under FLR are marked. -/
def State.hostStop (s : State) (f : Func) (st : Nat) (flr : Bool) : State :=
  let s : State := { s with
    hp.rdq := s.hp.rdq.filter fun r => r.f != f
    hp.reads := s.hp.reads.map fun r => if r.req.f == f then { r with stopped := true, flr := r.flr || flr } else r }
  let s := (s.cmds.filter fun c => c.f == f).foldl State.stopCmd s
  (((s.discardComps fun g _ => g == f).2).haltFunc f st).markIdle

/-! ### Freeze (R298 to R300) -/

/-- DRAINED follows the reads still outstanding. -/
def State.frzDrain (s : State) : State :=
  if s.frozen ∧ s.hp.reads.isEmpty then s.setFlag Reg.HP_FREEZE 4 true else s

/-- A Freeze trigger; the first gives CAUSE, and FUNC for causes 1 to 3. -/
def State.freeze (s : State) (cause : Nat) (f : Func) : State :=
  if s.frozen then s
  else
    let s := (s.hostStop .pf0 4 false).hostStop .pf1 4 false
    let s := (s.setFld Reg.HP_FREEZE 3 0 cause).setFlag Reg.HP_FREEZE 8 (decide (cause ≤ 3) && !isPf0 f)
    (s.setFlag Reg.HP_STATUS 2 true).frzDrain

/-- Every pending vector a function may now send (R295). -/
def State.msixPump (s : State) (f : Func) : State :=
  (List.range (if isPf0 f then 256 else 32)).foldl (fun s v => s.unmaskSend f v) s

/-- One message for each halted completion ring of a function that holds completions written and not signalled (R336). -/
def State.reSignal (s : State) (f : Func) : State :=
  if !s.canIssue f then s
  else (s.rg.cq.filter fun e => keyFunc e.1 == f && (e.2.state == 3 || e.2.state == 4) && decide (e.2.unsig > 0) &&
    s.cqIen f (e.1 % 256)).foldl (fun s e => s.signal f (e.1 % 256)) s

/-- RELEASE: Freeze ends once DRAINED, with the tags quarantined. -/
def State.freezeEnd (s : State) : State :=
  if s.frozen ∧ s.flag Reg.HP_FREEZE 4 then
    let s := State.setReg { s with hp.quar := [] } Reg.HP_FREEZE 0
    let s := s.setFlag Reg.HP_STATUS 2 false
    ((s.msixPump .pf0).msixPump .pf1).reSignal .pf0 |>.reSignal .pf1
  else s

/-! ### Host resets (Table 13-6) -/

/-- Rings, doorbells, inline items and completions of a function go; commands that run on lose their completions. -/
def State.ringsReset (s : State) (f : Func) : State :=
  let s := (s.discardComps fun g _ => g == f).2
  { s with
    rg.sq := s.rg.sq.filter fun e => keyFunc e.1 != f
    rg.cq := s.rg.cq.map fun e => if keyFunc e.1 == f then (e.1, { credits := e.2.credits }) else e
    rg.inl := s.rg.inl.filter fun i => i.f != f
    hp.msix := s.hp.msix.filter fun e => keyFunc e.1 != f
    cmds := s.cmds.map fun c => if c.f == f then { c with quiet := true } else c }

/-- The configuration space of a function at a reset; FLR keeps dwords of the link (log entry 20). -/
def State.cfgReset (s : State) (f : Func) (flr : Bool) : State :=
  let mine := fun (k : Nat) => k / 4096 == b2n (!isPf0 f)
  let kept := fun (k : Nat) => flr && (k % 4096 == 0x68 || k % 4096 == 0x70 || k % 4096 == 0x90 || decide (k % 4096 ≥ 0x100))
  let s := { s with hp.cfg := s.hp.cfg.filter fun e => !mine e.1 || kept e.1 }
  (s.setFlag Reg.HP_STATUS (bmeBit f) false).setFld Reg.HP_STATUS (dstLo f + 1) (dstLo f) 0

/-- Window entries of a function become invalid. -/
def State.winReset (s : State) (f : Func) : State :=
  (List.range 64).foldl (fun s w =>
    if s.flag (Reg.WT_E_CTRL w) 1 == !isPf0 f then s.setFlag (Reg.WT_E_CTRL w) 0 false else s) s

/-- Notices go to ring 0 from severity NOTICE (R349). -/
def State.routeReset (s : State) : State := { s with rg.routeRing := 0, rg.routeSev := Sev.notice }

/-- Tags of reads discarded at once are quarantined until twice their timeout from issue (R301). -/
def State.readsDrop (s : State) : State :=
  { s with hp.quar := s.hp.quar ++ s.hp.reads.map fun r => ⟨r.tag, r.issued + 2 * r.timeout⟩
           hp.reads := [], hp.rdq := [] }

/-- The HOST reset of PERST#, hot reset and link down. -/
def State.hostReset (s : State) : State :=
  let s := (s.hostStop .pf0 0 false).hostStop .pf1 0 false
  let s := ((s.ringsReset .pf0).ringsReset .pf1).readsDrop
  let s := (s.clearRegs false false true true true).setFlag Reg.HP_STATUS 2 false
  let s := ((s.cfgReset .pf0 false).cfgReset .pf1 false).routeReset
  { s with hp.flr0 := none, hp.flr1 := none, hp.subsys := s.reg Reg.HP_SUBSYS, hp.bar2 := s.reg Reg.HP_BAR2CFG
           hp.ltrLast := none, al.rbuf := [] }

/-- The slot's power goes with PF1 in D3hot: PF1 is in D3cold, and what it needs to wake the host is kept (R307, log entry 28). -/
def State.hostGone (s : State) : State :=
  let pm := s.cfgW .pf1 0x44
  let cold := s.hp.d3cold || (s.dstate .pf1 == 3 && bit pm 8)
  let s := s.hostReset
  if cold then State.setCfg { s with hp.d3cold := true } .pf1 0x44 (pm &&& 0x8100) else s

/-- Start of an FLR (R303 step 1): the rings of the function are disabled. -/
def State.flrBegin (s : State) (f : Func) : State :=
  let s := s.hostStop f 0 true
  let s : State := { s with
    rg.sq := s.rg.sq.map fun e => if keyFunc e.1 == f then (e.1, { e.2 with state := 0 }) else e
    rg.cq := s.rg.cq.map fun e => if keyFunc e.1 == f then (e.1, { e.2 with state := 0 }) else e }
  match f with
  | .pf0 => { s with hp.flr0 := some s.now }
  | .pf1 => { s with hp.flr1 := some s.now }

/-- The wait of an FLR is over (R303 steps 3 and 4). -/
def State.flrEnd (s : State) (f : Func) : State :=
  let s := ((s.ringsReset f).cfgReset f true).winReset f
  let s := (s.clearRegs false false false (isPf0 f) (!isPf0 f)).bump Reg.HP_FLR
  let s := if isPf0 f then s else s.routeReset
  match f with
  | .pf0 => { s with hp.flr0 := none }
  | .pf1 => { s with hp.flr1 := none, al.rbuf := [] }

/-! ### POR and CHIP reset (Table 17-7) -/

/-- What a stream keeps in the Keep. -/
def Stream.held (x : Stream) : Stream :=
  { x with next := 1, vis := 0, cur := 0, lastTime := 0, idx := [], done := [], refused := [], holes := [], holdAt := 0 }

/-- Widths of the quads as their settings give them (R268). -/
def State.quadWidths (s : State) : Nat := sumN ((List.range 8).map fun q => s.fld (Reg.MP_QUAD q) 1 0 * 4 ^ q)

/-- Typed state of the CHIP domain returns to its reset values; what the Keep holds stays. -/
def State.chipState (s : State) : State :=
  { s with
    rg := {}, cmds := [], mem := [], lm := {}, lg := {}, ld := {}, sc := {}, mw := {}, ga := {}, al := {}
    kp := { inhibit := s.kp.inhibit, timeOff := s.kp.timeOff, unc := s.kp.unc }
    st := { arrays := s.st.arrays, vols := s.st.vols, spares := s.st.spares }
    mp := { widths := s.quadWidths }
    md := { pos := s.md.pos }
    tl := { dumpRec := s.tl.dumpRec }
    sv := { streams := s.sv.streams.map fun e => (e.1, e.2.held) }
    hm := {}
    hp := { quar := s.hp.quar, subsys := s.hp.subsys, bar2 := s.hp.bar2, d3cold := s.hp.d3cold, wake := s.hp.wake } }

/-- What a POR does beside a CHIP reset, and what a core reset keeps: its count. -/
def State.resetMark (s : State) (por core : Bool) (cores : Nat) : State :=
  if por then { s with now := 0, kp.timeOff := s.reg64 Reg.SS_TSAVE_LO + 60000000, kp.inhibit := false, hp.quar := [] }
  else if core then s.setReg Reg.SS_CORE_RESETS cores else s

/-- The machine is held in reset: what the supply pins and straps show stays. -/
def State.resetHold (s : State) (por : Bool) : State := { s with
  pw := { vin := s.pw.vin, pfLow := s.pw.pfLow, held := true, stateAt := s.now, strap := s.pw.strap, strapPin := s.pw.strapPin
          rstLow := s.pw.rstLow, tap := if por then 2 else s.pw.tap } }

/-- A CHIP reset clears its domains, and a POR with it: RST_DONE falls, and STARTUP begins at release. -/
def State.chipWipe (s : State) (por core : Bool) : State :=
  (((s.hostReset.clearRegs por true true true true).chipState.resetMark por core (s.reg Reg.SS_CORE_RESETS)).setFlag
    Reg.HP_STATUS 1 (s.flag Reg.HP_STATUS 1)).resetHold por

/-- A CHIP reset takes effect. The Gauge takes the record of a pack it has seen fitted (R238). -/
def State.chipReset (s : State) (por core : Bool) : State :=
  if s.gaPresent then (s.chipWipe por core).gaReload s.gaId else s.chipWipe por core

/-- A reset is released: the straps are sampled (R386), the service code is driven (R377), and Table 17-8 begins. -/
def State.release (s : State) : State :=
  let s := State.setFld { s with pw.held := false, pw.core := false, pw.strap := s.pw.strapPin, pw.step := 1, pw.relAt := s.now }
    Reg.RV_MODE 3 2 s.pw.strapPin
  s.vcoreGo s.svcCode

end Sys2Proof.Machine
end

