-- ==== Sys2Proof/Machine/Tasks.lean ====
section
/-! DEFINITION. Settling: ends of member commands reach their clients, tasks with nothing outstanding take their next step, and the
dump, the restore and waiting reads go on, until nothing can move without a further command. Then the rows that give stripes, slots
and Mender work their turn (R44, R75, R83, R249, R259 to R264, R412). -/

namespace Sys2Proof.Machine

/-! ### Ends of member commands -/

/-- Does a task read regions outside the data area? -/
def TKind.region : TKind → Bool
  | .load _ | .import_ _ => true
  | .hostRecon _ _ | .destage _ | .walk _ | .repair _ _ | .scrub | .resync | .copyBlk _ | .copyMove | .statePage _ | .create _
  | .delete _ | .volDelete _ _ | .target _ | .targetEnd _ | .checkpoint | .stream _ => false

/-- One fewer member command of a task is outstanding. -/
def State.taskBack (s : State) (t : Nat) : State := s.updTask t fun x => { x with outst := x.outst - 1 }

/-- A read of a task has ended. -/
def State.taskReadEnd (s : State) (c : MCmd) (t cell o : Nat) (ok : Bool) (pay : MPayload) : State := match s.task? t with
  | none => s
  | some x =>
    if x.kind.region then (s.areaRead t cell c.lba c.n ok pay).taskBack t
    else match s.arr? x.arr with
      | none => s.taskBack t
      | some r => (s.taskBlocks x r cell o c.n ok pay).taskBack t

/-- A write or flush of a task has ended. -/
def State.taskWriteEnd (s : State) (t p : Nat) (ok : Bool) : State :=
  (s.updTask t fun x => { x with fails := if ok then x.fails else x.fails ++ [p] }).taskBack t

/-- A member command has ended: its client acts. -/
def State.endOne (s : State) (e : MCmd × Bool × MPayload) : State :=
  let c := e.1
  match c.client with
  | .host h k => if c.expired then s else s.hostReadEnd c h k e.2.1 e.2.2
  | .read t cell o => s.taskReadEnd c t cell o e.2.1 e.2.2
  | .write t p => s.taskWriteEnd t p e.2.1
  | .dump p => s.dumpEnd c p e.2.1
  | .restore u => s.rsEnd c u e.2.1 e.2.2
  | .init => s.initEnd c e.2.1 e.2.2
  | .smart => s.smartEnd c.port e.2.1 e.2.2
  | .none => s

/-! ### Tasks -/

/-- Can a task take a step now? The Mender stands still from PFD on. -/
def State.runnable (s : State) (x : Task) : Bool :=
  x.outst == 0 && !(s.pfd && x.kind.mender) && (match x.phase with
    | .step n => !(x.kind == .load 0 && n == 4)
    | .read | .encode | .write | .flush => true
    | .claim | .recon | .check | .locate | .ledgerOpen | .copyOpen | .ledgerClose | .waitSlot | .retry => false)

/-- A region task of an array takes its next step. -/
def State.areaGo (s : State) (x : Task) (r : ArrayRec) : State := match x.kind with
  | .copyBlk k => s.copyGo x.id k x r
  | .copyMove => s.moveGo x.id x r
  | .statePage p => s.pageEnd x.id x r p
  | .create h => s.createGo x.id h x r
  | .delete h => s.deleteGo x.id h x r
  | .target p => s.targetGo x.id p x r
  | .targetEnd p => s.targetEndGo x.id p x r
  | .checkpoint => s.checkpointGo x.id x r
  | .load h => s.loadGo x.id h x r
  | .hostRecon _ _ | .destage _ | .walk _ | .repair _ _ | .scrub | .resync | .volDelete _ _ | .stream _ | .import_ _ => s

/-- A task takes its next step. -/
def State.kick (s : State) (x : Task) : State := match x.kind with
  | .hostRecon h k => s.reconGo x.id h k
  | .destage _ | .walk _ | .repair _ _ | .scrub | .resync => s.stripeGo x.id
  | .stream n => s.streamGo x.id n
  | .volDelete h v => s.volDeleteGo x.id h v x
  | .import_ h => s.importGo x.id h x
  | .copyBlk _ | .copyMove | .statePage _ | .create _ | .delete _ | .target _ | .targetEnd _ | .checkpoint | .load _ =>
    match s.arr? x.arr with
    | some r => s.areaGo x r
    | none => s.endTask x.id

/-! ### Reads that wait for a HAMPERED or OPEN stripe (R169, R82) -/

/-- May block k of a waiting read be looked at again? -/
def State.hamperGone (s : State) (c : Cmd) (k : Nat) : Bool := match s.blkPlace c k with
  | some p => (s.sstState p.a p.stripe != Sst.hampered && s.sstState p.a p.stripe != Sst.open_) || s.larderHolds p
  | none => true

/-- The first waiting block that may go on. -/
def State.hamperRead (s : State) : Option (Cmd × Nat) :=
  s.cmds.findSome? fun c => (c.slotWait.find? (s.hamperGone c)).map fun k => (c, k)

/-! ### Waiters (R70, R83, R152) -/

/-- A waiter tries again: a task reads or plans again, a command moves its block. -/
def State.waiterGo (s : State) (h k : Nat) : State := match s.task? h with
  | some x => s.setTask { x with phase := match x.kind with
      | .stream _ => .step 0
      | _ => .read }
  | none => match s.cmd? h with
    | none => s
    | some c => match c.log with
      | some _ => s.appendMove h
      | none => if Ent.opc c.ent = 0x10 then s.append c else s.moveBlk h k

/-- Does what stopped a waiter still hold: the dump, a PARKED frame, an earlier append without a place, a destage of the frame a
stream is rebuilt in? -/
def State.stopHeld (s : State) (e : (Nat × Nat) × Nat × Nat) : Bool := match s.task? e.1.1 with
  | some _ => s.busyAt e.2.1 e.2.2
  | none => s.ld.movesStopped || (match s.cmd? e.1.1 with
    | none => false
    | some c => s.parkedAt e.2.1 e.2.2 || (c.log.isNone && Ent.opc c.ent == 0x10 && s.logQueue (Ent.tgt c.ent) c.h))

/-- The first waiter that nothing stops any longer goes on. -/
def State.stopNext (s : State) : Option State := (s.ld.stopQ.find? fun e => !s.stopHeld e).map fun e =>
  State.waiterGo { s with ld.stopQ := s.ld.stopQ.erase e } e.1.1 e.1.2

/-! ### Settling -/

/-- The next thing that can happen without a further command, if any. -/
def State.settleStep (s : State) : Option State := match s.mp.ends with
  | e :: t => some (State.endOne { s with mp.ends := t } e)
  | [] => match s.md.tasks.find? s.runnable with
    | some x => some (s.kick x)
    | none =>
      let d := s.dumpGo
      if d.hm.dump ≠ s.hm.dump then some d
      else
        let r := s.rsGo
        if r.hm.restore ≠ s.hm.restore then some r
        else match s.hamperRead with
          | some e => some (s.rereadBlk e.1 e.2)
          | none => s.stopNext

def State.settleN : Nat → State → State
  | 0, s => s
  | n + 1, s => match s.settleStep with
    | some t => State.settleN n t
    | none => s

/-- A bound on the steps of one settling; no work of the spec comes near it (log entry 29). -/
def settleFuel : Nat := 1000000

/-- A CHIP reset that waited for the dump takes effect once PWR_SAFE is asserted (R166, R383). -/
def State.rstNow (s : State) : State :=
  if s.hm.rstWait ∧ s.flag Reg.HM_STATUS 3 then
    let s := s.chipReset false false
    if s.pw.rstLow then s else s.release
  else s

/-- WRITE_BACK commands that wait for WT_ACTIVE complete with it (R345). -/
def State.wbDone (s : State) : State :=
  if s.flag Reg.LD_STATUS 0 then
    (s.st.long.filter fun e => e.2 == 0x8D).foldl (fun s e => s.adminEnd e.1 St.success 0) s
  else s

/-- Arrays whose RESYNC entries of R104 step 5 are all in the Keep have replayed. -/
def State.replayCheck (s : State) : State :=
  let done := (List.range 4).filter fun a => s.lg.replaying.testBit a &&
    !(s.lg.reqs.any fun r => r.cont == .replay && r.arr == a)
  if done.isEmpty then s
  else { s with lg.replaying := toMask ((List.range 4).filter fun a => s.lg.replaying.testBit a && !done.contains a)
                lg.replayed := s.lg.replayed ||| toMask done }

def State.settle (s : State) : State :=
  (State.settleN settleFuel s).replayCheck.noImageSafe.bootCheck.wtCheck.wbDone.rstNow

/-! ### Ledger grants (R98, R99, R101) -/

/-- A LOST stripe: its frame parks, and the walks pass it (R256, Table 11-7). -/
def State.lostNow (s : State) (a stripe : Nat) : State :=
  let s := (s.setSstState a stripe Sst.lost).noteD Rank.mender 0x06 Sev.fault a (stripe % 2 ^ 24) 0
  match s.frameOf a stripe with
  | some (n, f) => if f.state = Fs.parked ∨ f.busy then s else s.parkFrame n St.lostData false
  | none => s

/-- A LOST stripe is released (R79): it is UNWRITTEN again with REPAIRED set and LOG clear, and its parked frame goes back to READY. -/
def State.releaseNow (s : State) (a stripe h : Nat) : State :=
  let s := s.sstUnwrite a stripe true
  (s.unpark fun f => f.arr == a && f.stripe == stripe).adminEnd h St.success 0

/-- What the owner of an entry does once it is in the Keep ring. -/
def State.lgCont (s : State) (r : LgReq) (seq : Nat) : State := match r.cont with
  | .task t =>
    if r.kind = Lk.open_ then s.openGranted t seq
    else if r.kind = Lk.close then s.closeGranted t r.mask
    else s.resyncGranted t
  | .lost => s.lostNow r.arr r.stripe
  | .resync => s.setSstState r.arr r.stripe Sst.resyncDue
  | .release h => s.releaseNow r.arr r.stripe h
  | .dumpOpen => s.dumpOpened seq
  | .dumpSeal => s.dumpSealed
  | .replay => s

/-- Grant the request the arbiter picks: its words are in the Keep before its owner goes on and another is granted, so nothing is
granted while Keep writes are inhibited (R98, R353). What the ring's high water mark forces out is written at the grant (R101). -/
def State.lgGrant (s : State) : State := match (if s.kp.inhibit then none else s.lgPick) with
  | none => s
  | some r =>
    let s : State := { s with lg.reqs := s.lg.reqs.erase r, lg.rr := mapSet s.lg.rr (lgRank r.kind) r.unit }
    let (seq, s) := s.lgWrite r
    ((s.lgCont r seq).lgForce).lgCountWaits

/-- A RESYNC entry for a stripe whose State Cache word was lost, unless one is asked for (R92). -/
def State.scResync (s : State) (a stripe : Nat) : State :=
  let g := match s.lg.live.reverse.find? fun e => e.arr == a && e.stripe == stripe && decide (e.kind ≤ 4) with
    | some e => e.gen % 2 ^ 24
    | none => s.sstGen a stripe
  (s.setSstGen a stripe Sst.resyncDue g).askResync 3 a stripe

/-! ### Errors of the State Cache (R92) -/

/-- The table entries, as array and stripe, that a 64-bit word covers. -/
def State.sstCovered (s : State) (addr : Nat) : List (Nat × Nat) := s.st.arrays.flatMap fun (e : Nat × ArrayRec) =>
  ([addr, addr + 4].filter fun b => decide (sstAddr e.2.base ≤ b) && decide (b < sstAddr (e.2.base + e.2.count))).map fun b =>
    (e.1, (b - sstAddr e.2.base) / 4)

/-- A word of the merging buffer that cannot be corrected: its entries are taken from DRAM's copy of the word, RESYNC_DUE with the
GEN_LO of the stripe's latest live entry, and a RESYNC entry and a FAULT event follow (R92). -/
def State.scWordLost (s : State) (addr : Nat) : State :=
  let s : State := { s with sc.buf := s.sc.buf.map fun e => if e.1 == addr / 64 then
      (e.1, e.2.filter fun b => decide (b.1 / 8 ≠ addr % 64 / 8)) else e }
  let s := (s.bump Reg.SC_ECC_UNCORR).note Rank.stateCache (Config.eventValue 21) Sev.fault 0
  (s.sstCovered (addr / 8 * 8)).foldl (fun s e => s.scResync e.1 e.2) s

/-- An error the cache has found. -/
def State.scErr (s : State) : ScErr → State
  | .tagParity line => if (s.scLine line).isNone then s else ((s.scInvLine line).bump Reg.SC_TAG_PAR).scMissed Req.reeve line false
  | .corrected line => if (s.scLine line).isNone then s else s.bump Reg.SC_ECC_CORR
  | .uncorrectable line =>
    if (s.scLine line).isNone then s else ((s.scInvLine line).bump Reg.SC_ECC_UNCORR).scMissed Req.reeve line false
  | .bufferWord addr => if (s.sc.buf.find? fun e => e.1 == addr / 64).isNone then s else s.scWordLost addr

/-- The errors found by then (R92), and the fill. -/
def execScFillReturn (fill : ScFill) (s : State) : Out :=
  .next ((fill.errs.foldl State.scErr s).scFill fill.line).settle

def execLedgerEntryGrant (s : State) : Out := .next s.lgGrant.settle

/-! ### Loom completions (R57, R66, R412) -/

/-- A test job's end shows in LM_TJOB_STAT. -/
def State.testEnd (s : State) (st : Nat) : State :=
  ((s.setFld Reg.LM_TJOB_STAT 15 8 st).setFlag Reg.LM_TJOB_STAT 0 false).setFlag Reg.LM_TJOB_STAT 2 true

/-- The job in a context ends. A parked context ends nothing, nor does a job of queues 1 to 3 while only blocks of queue 0 may
start (R64). -/
def State.loomDone (s : State) (ctx : Nat) (err : Option LoomErr) : State := match mapGet? s.lm.ctx ctx with
  | none => s
  | some j =>
    if j.parked ∨ (s.dumpOnly = true ∧ j.q ≠ 0) then s
    else
      let (r, s) := s.loomEnd ctx j err
      match j.client with
      | .task t => s.stripeLoom t ctx j r
      | .dump fr => s.dumpXorEnd j fr r.status
      | .test => s.testEnd r.status

def execLoomJobComplete (ctx : Nat) (err : Option LoomErr) (s : State) : Out := .next (s.loomDone ctx err).settle

/-! ### Slots and claims (R44, R83) -/

/-- The first waiter for a slot tries again; if it still finds none it stays first, and its wait counts once (R83). -/
def State.slotNext (s : State) : State := match s.ld.slotQ with
  | [] => s
  | (h, k) :: t => State.waiterGo { s with ld.slotQ := t, ld.slotTry := some h } h k

/-- Nothing tries again any more. -/
def State.slotTried (s : State) : State := { s with ld.slotTry := none }

def execSlotWaitResume (s : State) : Out := .next (if s.ld.movesStopped then s else s.slotNext.settle.slotTried)

def execClaimWaitResume (arr stripe : Nat) (s : State) : Out := .next (s.claimNext arr stripe).settle

/-! ### Destage (R75, R76) -/

/-- A destage may start: its array has replayed, step 4 of a power failure has not come, and a place is free. -/
def State.destageNext (s : State) : State :=
  if s.ld.destageStopped ∨ s.destaging ≥ s.destageMax then s
  else match s.nextDestage with
    | none => s
    | some (n, f) => if s.lg.replayed.testBit f.arr then s.destageGo n f else s

def execDestageStart (s : State) : Out := .next s.destageNext.settle

/-! ### Mender rows (R249, R259 to R264) -/

def execWalkIssue (arr : Nat) (s : State) : Out := .next (s.walkGo arr).settle
def execRepairStart (s : State) : Out := .next s.repairGo.settle
def execResyncStart (s : State) : Out := .next s.resyncGo.settle
def execScrubVisit (arr : Nat) (s : State) : Out := .next (s.scrubGo arr).settle

/-- One second after a DATAPATH ending the Mender takes the stripe again (Table 03-8). -/
def State.menderAgain (s : State) (t : Nat) : State := match s.task? t with
  | none => s
  | some x =>
    if x.phase = .retry ∧ s.due x.since 1000000 ∧ s.pfd = false then
      let s := if (x.kind.isWalk).isSome then s.setWalk x.arr { s.walk x.arr with stuck := false } else s
      s.setTask { x with phase := .step 0 }
    else s

def execMenderRetryTimer (task : Nat) (s : State) : Out := .next (s.menderAgain task).settle

/-- No PF0 command names a volume of an array, or a stream on one, and none has for 1 s: the idle cap applies (R251). -/
def execArrayIdleTimer (arr : Nat) (s : State) : Out :=
  .next <| if !(s.cmds.any fun c => isPf0 c.f && s.cmdArr c == some arr) ∧ s.due (mapGetD s.md.arrIdle arr 0) 1000000 then
      { s with md.idleCap := s.md.idleCap ||| 1 <<< arr }
    else s

end Sys2Proof.Machine
end

