-- ==== Sys2Proof/Machine/Power.lean ====
section
/-! DEFINITION. Supplies, clocks, temperature, power states and resets (chapter 17), the speed monitors (R19), and the power-fail
sequence of Table 08-1 with the return of power (R148 to R152, R164 to R166). -/

namespace Sys2Proof.Machine

/-! ### Power-on reset, CHIP reset and core reset (R374, R378, R383, R386) -/

/-- The strap pins stand at a value. -/
def State.strapAt (s : State) (v : BitVec 2) : State := { s with pw.strapPin := v.toNat }

/-- CHIP_RST_N stands low or high. -/
def State.rstAt (s : State) (low : Bool) : State := { s with pw.rstLow := low }

/-- POR takes effect and is released; CHIP_RST_N low keeps the machine in reset. -/
def execPowerOnReset (strap : BitVec 2) (s : State) : Out :=
  .next <|
    let s := (s.strapAt strap).chipReset true false
    if s.pw.rstLow then s else s.release

/-- A rail of Table 17-1 leaves its window: POR is asserted and holds until POWER_ON_RESET. Every rail acts alike. -/
def execRailOutOfWindow (_rail : Rail) (s : State) : Out := .next (s.chipReset true false)

/-- Must a CHIP reset wait for a dump (R166, R383)? A dump that runs already is not disturbed. -/
def State.rstDeferred (s : State) : Bool := s.mode != 0 && (decide (s.ldDirty > 0) || s.hm.dump.isSome)

/-! ### Declaring PFD (R148, R189, R240, R408) -/

/-- The moment of a supply failure. -/
def State.supplyMark (s : State) : State := { s with hm.supAt := some s.now }

/-- A supply failure: the Millwheel generates and PACK_EN goes high (step 2 of Table 08-1), and steps 2 and 3 count from now. In A3
step 2 waits for the wake, and comes with step 3. -/
def State.supplyGo (s : State) : State :=
  if s.hm.supAt.isSome then s
  else (if s.hm.late = 0 then s.supplyMark.mwSupplyFail.packOn else s.supplyMark).tlUpdate

/-- Step 2 of a PFD in A3, and step 3. -/
def State.vcoreStep (s : State) : State :=
  let s := if s.hm.late = 0 then s else s.mwSupplyFail.packOn.tlUpdate
  State.vcoreGo { s with hm.vcore := true } (s.fld Reg.SS_VCORE 3 2)

/-- Writes that ports in RETRAIN hold end as failed from PFD on (R282). -/
def State.heldWritesEnd (s : State) : State :=
  let gone := fun (c : MCmd) => (s.port c.port).state == Ps.retrain && !c.op.isAdmin && c.op != .read
  { s with mp.wait := s.mp.wait.filter (fun c => !gone c)
           mp.ends := s.mp.ends ++ (s.mp.wait.filter gone).map fun c => (c, false, MPayload.none) }

/-- The TAP returns to Test-Logic-Reset out of EXTEST, CLAMP and HIGHZ (R408). -/
def State.tapForce (s : State) : State :=
  if s.pw.tap = 0x00 ∨ s.pw.tap = 0x04 ∨ s.pw.tap = 0x05 then { s with pw.tap := 0x02 } else s

/-- What is remembered of the moment of PFD (R144, R150). -/
def State.pfdMark (s : State) : State :=
  let late := if s.fld Reg.SP_STATUS 1 0 = 3 then 2000 else 0
  { s with hm.pfdAt := s.now, hm.late := late, hm.pfdTime := s.time, hm.supAt := none, hm.vinAt := none, hm.vcore := false
           hm.stopped := false, hm.snapped := false, hm.made := false, hm.vinBack := false
           hm.rpm0 := s.mwSpeed, hm.rpmOk := s.flag Reg.MW_STATUS 7, hm.hub0 := s.fld Reg.MW_HUB 15 0
           hm.chop0 := s.reg Reg.MW_CHOP_MS * 1000 + s.mw.chopUs, hm.shorts0 := s.reg Reg.MW_SHORTS, ga.edump := 0 }

/-- The registers that show a PFD and its cause. -/
def State.pfdFlags (s : State) (cause : Nat) : State :=
  let s := ((s.setFlag Reg.SS_STATUS 0 true).setFld Reg.HM_STATUS 2 0 1).setFld Reg.HM_STATUS 7 6 cause
  let s := ((s.setFlag Reg.HM_STATUS 3 false).setFlag Reg.HM_STATUS 8 false).setReg Reg.GA_EDUMP 0
  (s.bump Reg.SS_PFDS).setFld Reg.TL_STATUS 1 0 Gate.pfd

/-- The open record closes, or device time is saved (R385). -/
def State.pfdSave (s : State) : State := if s.al.isOpen then s.alPfdClose else s.timeSave

/-- What PFD does whatever its cause. -/
def State.pfdEnter (s : State) (cause : Nat) : State :=
  (s.pfdMark.tapForce.pfdFlags cause).tlFreeze.heldWritesEnd.loomPark.pfdSave

/-- PFD with a cause: 1 SNS_VIN, 2 PF_N, 3 CHIP_RST_N. It can be declared from step 3 of Table 17-8 on. -/
def State.pfdDeclare (s : State) (cause : Nat) : State :=
  if s.pfd ∨ s.pw.held ∨ s.pw.step < 3 then s
  else (if cause = 3 then s.pfdEnter cause else (s.pfdEnter cause).supplyGo).tlUpdate

/-- VIN no longer counts as returned: the resumption wait starts again when it returns (R164). -/
def State.vinGone (s : State) : State :=
  ((State.setFlag { s with hm.vinAt := none } Reg.SS_STATUS 1 false)).setFlag Reg.HM_STATUS 8 false

/-- SNS_VIN in mV as last seen. -/
def State.vinSeen (s : State) (mv : Nat) : State := State.setReg { s with pw.vin := mv } Reg.SS_VIN (min mv 0xFFFF)

/-- Declaration threshold in mV. -/
def State.vinTh (s : State) : Nat := 100 * clampN 100 220 (s.fld Reg.SS_PFD 7 0)

/-- The supply has failed: PFD is declared, or a PFD of CHIP_RST_N becomes a supply failure (R148, R166). -/
def State.powerFail (s : State) (cause : Nat) : State :=
  (if s.pfd then s.vinGone.supplyGo else s.vinGone.pfdDeclare cause).settle

def execVinFilterExpiry (mv : Nat) (s : State) : Out :=
  .next <| if mv < s.vinTh then (s.vinSeen mv).powerFail 1 else s

/-- PF_N falls. -/
def State.pfFalls (s : State) : State := { s with pw.pfLow := true }

def execPfNLow (s : State) : Out := .next (s.pfFalls.powerFail 2)

def execChipRstAssert (s : State) : Out :=
  .next <|
    let s := s.rstAt true
    if s.pw.held ∨ s.hm.rstWait then s
    else if s.rstDeferred then (State.pfdDeclare { s with hm.rstWait := true } 3).settle
    else s.chipReset false false

/-- CHIP_RST_N rises: a reset that holds is released unless a core reset still waits for its supplies. -/
def execChipRstRelease (strap : BitVec 2) (s : State) : Out :=
  .next <|
    let s := (s.rstAt false).strapAt strap
    if s.pw.held ∧ s.pw.core = false then s.release else s

def execCoreReset (mv : Nat) (s : State) : Out :=
  .next <| if mv < 520 then
      let s := (s.bump Reg.SS_CORE_RESETS).chipReset false true
      { s with pw.core := true }
    else s

/-- VIN has returned (R149). -/
def State.vinReturned (s : State) : Bool := decide (s.pw.vin ≥ s.vinTh + 1000) && !s.pw.pfLow

def execCoreResetRelease (strap : BitVec 2) (mv : Nat) (s : State) : Out :=
  .next <| if s.pw.held ∧ s.pw.core ∧ mv > 700 ∧ s.vinReturned then
      let s := State.strapAt { s with pw.core := false } strap
      if s.pw.rstLow then s else s.release
    else s

/-! ### Table 08-1 -/

/-- Has a step of the sequence come, d µs after a moment (and later by a wake from A3)? -/
def State.stepDue (s : State) (t d : Nat) : Bool := s.due t (d + s.hm.late)

def execDumpVcoreRequest (s : State) : Out :=
  .next <| match s.hm.supAt with
    | some t =>
      if s.pfd ∧ s.stepDue t 10 ∧ s.hm.vcore = false then
        s.vcoreStep
      else s
    | none => s

/-- A destage whose OPEN has not been granted gives up its claim (Table 08-1 step 4). -/
def State.destageUndo (s : State) (x : Task) : State := match x.kind with
  | .destage n => if x.opened then s else (s.endTask x.id).frameAgain n false
  | _ => s

/-- Step 3 of Table 08-1 is done, or held back while VIN is present (R166): step 4 may follow. -/
def State.step3Past (s : State) : Bool := s.hm.supAt.isNone || s.hm.vcore

def execDestageStop (s : State) : Out :=
  .next <| if s.pfd ∧ s.stepDue s.hm.pfdAt 50 ∧ s.hm.stopped = false ∧ s.step3Past then
      (s.md.tasks.foldl State.destageUndo { s with hm.stopped := true, ld.destageStopped := true }).settle
    else s

def execDumpSnapshot (s : State) : Out :=
  .next <| if s.pfd ∧ s.stepDue s.hm.pfdAt 100 ∧ s.hm.stopped ∧ s.hm.snapped = false then s.dumpSnap.settle else s

/-! ### When power comes back (R149, R164, R165) -/

/-- PF_N is high again, and SNS_VIN is seen. -/
def State.vinUp (s : State) (mv : Nat) : State := State.vinSeen { s with pw.pfLow := false } mv

/-- VIN has returned: during PFD the resumption wait starts, once (R164). -/
def State.vinMark (s : State) : State :=
  if !s.pfd ∨ s.hm.vinAt.isSome then s.setFlag Reg.SS_STATUS 1 true
  else (State.setFlag { s with hm.vinAt := some s.now, hm.vinBack := true } Reg.HM_STATUS 8 true).setFlag Reg.SS_STATUS 1 true

def execVinReturn (mv : Nat) (s : State) : Out :=
  .next <| if mv < s.vinTh + 1000 then s.vinUp mv else (s.vinUp mv).vinMark

def execVinBreak (mv : Nat) (s : State) : Out :=
  .next <| if mv < s.vinTh + 1000 then (s.vinSeen mv).vinGone else s.vinSeen mv

def State.resumeUs (s : State) : Nat := 1000 * clampN 50 10000 (s.fld Reg.HM_RESUME 15 0)

def execResumeWaitExpiry (s : State) : Out :=
  .next <| match s.hm.vinAt with
    | some t =>
      if s.pfd ∧ s.flag Reg.HM_STATUS 3 ∧ s.due t s.resumeUs ∧ s.hm.rstWait = false then s.serviceResume.settle else s
    | none => s

/-! ### Start-up (R387) -/

def execStartupStep (s : State) : Out := .next s.bootStep.settle

/-- Used ports still not READY fail, as absent members or as ones that did not initialise (R387). -/
def execMemberWaitExpiry (s : State) : Out :=
  .next <|
    let wait := 1000 * clampN 1000 60000 (s.fld Reg.RV_STARTUP 15 0)
    if s.mode = 0 ∧ s.pw.step = 4 ∧ s.due s.sv.startAt wait then
      ((s.usedPorts.filter fun p => !s.portSettled p).foldl (fun s p =>
        s.failMember p (if (s.port p).present then 1 else 4)) s).settle
    else s

/-! ### The Droop Guard (R378, Tables 17-3 and 17-12) -/

/-- Code whose thresholds apply: the lower voltage of the old and the new one while the regulator settles. -/
def State.droopCode (s : State) : Nat := max (s.fld Reg.SS_STATUS 10 9) s.pw.oldCode

/-- Thresholds of a code in mV: stage 1 below and released above, stage 2 below and released above; 0 where not applied. -/
def droopTh (code : Nat) : Nat × Nat × Nat × Nat :=
  if code = 0 then (700, 720, 640, 660) else if code = 1 then (650, 670, 590, 610) else if code = 2 then (600, 620, 0, 0)
  else (0, 0, 0, 0)

/-- Is a stage in force at a voltage? It holds until the rail rises above its release level. -/
def stageOn (was : Bool) (mv below rel : Nat) : Bool := decide (mv < below) || (was && decide (mv ≤ rel) && decide (below ≠ 0))

/-- The throttle stage follows VDD_CORE. -/
def State.droopEval (s : State) (mv : Nat) : State :=
  let was := s.fld Reg.SS_STATUS 3 2
  let (b1, r1, b2, r2) := droopTh s.droopCode
  let st := if stageOn (was == 2) mv b2 r2 then 2 else if stageOn (was != 0) mv b1 r1 then 1 else 0
  let s := s.setFld Reg.SS_STATUS 3 2 st
  if was = 0 ∧ st ≠ 0 then s.bump Reg.SS_DROOPS else s

def execDroopStage (mv : Nat) (s : State) : Out := .next ((s.setReg Reg.SS_VDDC (min mv 0xFFFF)).droopEval mv)

def execDumpOnlyEntry (mv : Nat) (s : State) : Out :=
  .next <|
    let was := s.flag Reg.SS_STATUS 4
    let on := stageOn was mv 580 585
    let s := ((s.setReg Reg.SS_VDDC (min mv 0xFFFF)).setFlag Reg.SS_STATUS 4 on).setFlag Reg.LM_STATUS 4 on
    if on && !was then s.bump Reg.SS_DUMPONLY else s

def execVcoreSettleExpiry (s : State) : Out :=
  .next <| if s.due s.pw.codeAt 50 then
      State.droopEval { s with pw.oldCode := s.fld Reg.SS_STATUS 10 9 } (s.reg Reg.SS_VDDC)
    else s

/-! ### Clocks and temperature (R379, R380, R389) -/

/-- A clock lost for the first time since the last CHIP reset: its bit and its event. -/
def State.clkGone (s : State) (b n sev : Nat) : State :=
  if s.flag Reg.SS_STATUS b then s
  else ((s.setFlag Reg.SS_STATUS b true).bump Reg.SS_CLKLOSS).note Rank.supply (Config.eventValue n) sev 0

/-- The link goes down without PERST# (R304). -/
def State.linkGone (s : State) : State :=
  let s := (s.bump Reg.HP_LINKDOWN).hostGone
  ((s.setFlag Reg.HP_STATUS 0 false).setFld Reg.HP_STATUS 7 4 0).setFld Reg.HP_STATUS 10 8 0

/-- A link that is down already, or held by PERST#, goes down no more. -/
def State.hostLinkLost (s : State) : State :=
  if s.flag Reg.HP_STATUS 0 ∧ s.flag Reg.HP_STATUS 1 = false then s.linkGone.settle else s

def execRefclkLoss (clk : RefClk) (s : State) : Out :=
  .next <| match clk with
    | .href => (s.bump Reg.SS_CLKLOSS).hostLinkLost
    | .mref => s.clkGone 6 16 Sev.fault
    | .xtal => s.clkGone 5 17 Sev.critical
    | .aonclk => s.clkGone 7 18 Sev.warning

/-- Tj in 0.1 °C as SS_TJ holds it. -/
def State.tjNow (s : State) : Int := signExt 16 (s.fld Reg.SS_TJ 15 0)

/-- A reading of Tj: THERM_N with its hysteresis, and the event at 150 °C. -/
def State.tjSeen (s : State) (tj : Int) : State :=
  let hot := decide (tj ≥ 1500) && decide (s.tjNow < 1500)
  let lim : Int := (10 * clampN 85 150 (s.fld Reg.SS_THERM 7 0) : Nat)
  let hys : Int := (10 * max 1 (s.fld Reg.SS_THERM 11 8) : Nat)
  let was := s.flag Reg.SS_STATUS 8
  let on := decide (tj ≥ lim) || (was && decide (tj ≥ lim - hys))
  let s := (s.setReg Reg.SS_TJ (intBits 16 tj)).setFlag Reg.SS_STATUS 8 on
  let s := if on && !was then s.note Rank.supply (Config.eventValue 19) Sev.warning 0 else s
  if hot then s.note Rank.supply (Config.eventValue 20) Sev.critical 0 else s

def execThermCrossing (tj : Int) (s : State) : Out := .next (s.tjSeen tj)

/-- Refresh rate of Table 17-11 after a reading: up at each threshold, down 3 °C below it. -/
def refreshRate (cur : Nat) (tj : Int) : Nat :=
  let up := if tj > 1250 then 3 else if tj > 1050 then 2 else if tj > 850 then 1 else 0
  let down := if tj > 1220 then 3 else if tj > 1020 then 2 else if tj > 820 then 1 else 0
  max up (min cur down)

def execRefreshRateStep (tj : Int) (s : State) : Out :=
  .next <|
    let s := s.tjSeen tj
    (s.setFld Reg.DC_STATUS 1 0 (refreshRate (s.fld Reg.DC_STATUS 1 0) tj)).setFlag Reg.DC_STATUS 4 (decide (tj > 1350))

/-- DRAM is trained at the present temperature. -/
def State.trained (s : State) (tj : Int) : State := { s with pw.trainAt := s.now, pw.trainTj := tj }

def execDramRetrain (tj : Int) (s : State) : Out :=
  .next <|
    let s := s.tjSeen tj
    let per := 1000000 * clampN 10 3600 (s.fld Reg.DC_RETRAIN 15 0)
    if s.flag Reg.DC_STATUS 3 ∨ s.flag Reg.DC_STATUS 2 then s
    else if s.due s.pw.trainAt per ∨ (tj - s.pw.trainTj).natAbs ≥ 200 then (s.trained tj).bump Reg.DC_RETRAINS
    else s

def execTimeSaveTimer (s : State) : Out :=
  .next <| if s.pw.held = false ∧ s.due s.pw.savedAt 60000000 then s.timeSave else s

/-! ### Power states (R381, R382) -/

def State.spState (s : State) : Nat := s.fld Reg.SP_STATUS 1 0

/-- Move to a power state; leaving self-refresh trains the DRAM (R389). -/
def State.spGo (s : State) (st : Nat) : State :=
  let cur := s.spState
  if cur = st then s
  else
    let s : State := { s with pw.resUs := mapUpd s.pw.resUs cur 0 (· + (s.now - s.pw.stateAt)), pw.stateAt := s.now }
    let s := (s.setFld Reg.SP_STATUS 1 0 st).setFlag Reg.DC_STATUS 2 (decide (st ≥ 2))
    if cur ≥ 2 ∧ st < 2 then s.trained s.tjNow else s

/-- Work of Table 17-5 outstanding. -/
def State.spBusy (s : State) : Bool :=
  !s.cmds.isEmpty || !s.mp.cmds.isEmpty || !s.mp.wait.isEmpty || !s.lm.waiting.isEmpty || s.lm.queues.any (fun e => !e.2.isEmpty) ||
  !s.lm.ctx.isEmpty || !s.md.tasks.isEmpty || s.hm.restore.isSome || s.hm.dump.isSome || !s.rg.col.isEmpty

/-- The host link is down or in L2 (L2 is entered with the slot's power going, log entry 28). -/
def State.linkOff (s : State) : Bool := !s.flag Reg.HP_STATUS 0

/-- The host link is in L1: both functions lie outside D0 (log entry 30). -/
def State.linkL1 (s : State) : Bool := s.dstate .pf0 != 0 && s.dstate .pf1 != 0

/-- First condition of Table 17-5 that keeps a state away, as BLOCKER codes; 0 where all hold. -/
def State.spBlock (s : State) (st : Nat) : Nat :=
  if s.spBusy then 1
  else if st ≥ 2 ∧ !(s.linkOff || (st == 2 && s.linkL1)) then 2
  else if st = 3 ∧ (s.ldDirty > 0 ∨ s.committed > 0 ∨ !s.lg.live.isEmpty ∨ !s.st.pages.isEmpty) then 3
  else if st = 3 ∧ s.mwState ≠ 0 then 4
  else if st = 3 ∧ s.mode = 0 then 7
  else if st = 3 ∧ s.fld Reg.HM_STATUS 2 0 ≠ 0 then 1
  else 0

/-- Wake times in µs. -/
def wakeUs (st : Nat) : Nat := if st = 1 then 1 else if st = 2 then 30 else 2000

/-- Times of the known events of Table 17-6, as AON counts. -/
def State.knownEvents (s : State) : List Nat :=
  let frames := (s.ld.frames.filter fun e => e.2.state == Fs.filling).flatMap fun e =>
    [e.2.idleAt + s.idleUs e.2, e.2.ageAt + 1000 * clampN 100 60000 (s.fld Reg.LD_AGE 15 0)]
  let copies := s.lg.copies.map fun e => e.2 + s.copyUs
  let arr := s.st.arrays.flatMap fun e =>
    let a := e.1
    let w := s.walk a
    let x := s.scrubOf a
    (if s.menderOk a && w.active && !w.stuck && !s.walkPaused a then
        [if s.walkMayIssue a e.2 then s.now else s.md.rateAt + 10000] ++ (if w.walked > w.ckWalked then [w.ckAt + 1000000] else [])
      else []) ++
    (if s.menderOk a && !(s.resyncWaits a).isEmpty then [s.now] else []) ++
    (if s.menderOk a && s.flag Reg.MD_CFG 0 && x.running && !s.flag Reg.MD_CTRL (4 + a) then
        [x.visitAt + s.scrubUs e.2] ++ (if x.ckCount > 0 then [x.ckAt + 60000000] else [])
      else [])
  let al := if s.al.isOpen then [s.al.cur.ckAt + 600000000, s.al.cur.at_ + 3600000000] else []
  let smart := (s.mp.ports.filter fun e => e.2.state == Ps.ready).map fun e =>
    e.2.smartAt + 1000000 * max 1 (s.fld Reg.MP_CFG 15 8)
  let coal := (s.rg.cq.filter fun e => e.2.state == 1 && decide (e.2.unsig > 0) && s.cqIen (keyFunc e.1) (e.1 % 256)).map fun e =>
    e.2.unsigAt + max 1 (s.fld (Reg.RG_CQ_COAL (isPf0 (keyFunc e.1)) (e.1 % 256)) 23 8)
  frames ++ copies ++ arr ++ al ++ smart ++ coal

/-- t_next in µs, saturating. -/
def State.tNext (s : State) : Nat := match s.knownEvents with
  | [] => 0xFFFFFFFF
  | x :: t => sat32 (t.foldl min x - s.now)

/-- t_host in µs: the host's LTR bound where it has written one, and SP_CFG.HOST_US. -/
def State.tHost (s : State) : Nat :=
  let v := s.cfgW .pf0 0x15C % 65536
  let us := bits v 9 0 * 32 ^ bits v 12 10 / 1000
  let own := max 1 (s.fld Reg.SP_CFG 31 16)
  if v = 0 then own else min us own

/-- Remember since when the conditions of each state have held. -/
def State.spHold (s : State) : State :=
  { s with pw.calm := [1, 2, 3].filterMap fun st =>
      if s.spBlock st = 0 then some (st, mapGetD s.pw.calm st s.now) else none }

/-- The state the rule of R382 picks; 0 for none. -/
def State.spPick (s : State) (budget : Nat) : Nat :=
  let fits := fun st => (match mapGet? s.pw.calm st with
    | some t => s.due t (4 * wakeUs st)
    | none => false) && decide (wakeUs st * max 1 (s.fld Reg.SP_CFG 7 4) ≤ budget)
  (([3, 2, 1].filter fun st => decide (st ≤ s.fld Reg.SP_CFG 1 0)).find? fits).getD 0

/-- BLOCKER: why the state beyond the present one is not entered. -/
def State.spBlocker (s : State) (cur : Nat) : Nat :=
  if cur ≥ 3 then 0
  else if cur + 1 > s.fld Reg.SP_CFG 1 0 then 6
  else if s.spBlock (cur + 1) ≠ 0 then s.spBlock (cur + 1)
  else 5

/-- State the two times allow; 0 for none. -/
def State.spWant (s : State) : Nat := s.spPick (min s.tNext s.tHost)

/-- SP_NEXT_US and SP_HOST_US show the two times. -/
def State.spTimes (s : State) : State := (s.setReg Reg.SP_NEXT_US s.tNext).setReg Reg.SP_HOST_US s.tHost

/-- A deeper state than the present one is entered; with none to enter the block is in A0. -/
def State.spMove (s : State) (p : Nat) : State :=
  if p = 0 then s.spGo 0 else if p > s.spState then s.spGo p else s

def State.spShow (s : State) : State := s.setFld Reg.SP_STATUS 10 8 (s.spBlocker s.spState)

def execSleepEval (s : State) : Out :=
  .next <| if s.pw.held then s else (s.spHold.spTimes.spMove s.spHold.spWant).spShow

/-- Every wake event of R381 acts alike. -/
def execWakeEvent (_src : WakeSrc) (s : State) : Out := .next ((s.bump Reg.SP_WAKES).spGo 0)

/-! ### Speed monitors (R19) -/

/-- Speed index of a monitor. -/
def speedIndex (laps trim : Nat) : Nat := min 1023 (256 * laps / trim)

/-- One monitor's window closes. -/
def State.monClose (s : State) (n si : Nat) : State :=
  let low := min si (s.fld (Reg.LN_MON n) 25 16)
  (s.setFld (Reg.LN_MON n) 9 0 si).setFld (Reg.LN_MON n) 25 16 low

/-- A speed window closes on all monitors (R19). Where several monitors share the lowest index, LN_SPEED.SLOWEST names the one that
`minBy` finds first, the one of the lowest number (DESIGN CHOICE, log entry 146). -/
def execSpeedWindow (laps : List Nat) (s : State) : Out :=
  .next <|
    let si := (List.range 8).map fun n => speedIndex (laps.getD n 0) (Config.lapTrim n)
    let slow := (minBy (fun n => si.getD n 0) (List.range 8)).getD 0
    let s := (List.range 8).foldl (fun s n => s.monClose n (si.getD n 0)) { s with pw.laps := laps }
    let w := s.fld Reg.LN_SPEED 31 16 + 1
    ((s.setFld Reg.LN_SPEED 9 0 (si.getD slow 0)).setFld Reg.LN_SPEED 12 10 slow).setFld Reg.LN_SPEED 31 16 (w % 65536)

def State.lowClr (s : State) (n : Nat) : State :=
  s.setFld (Reg.LN_MON n) 25 16 0x3FF

def execLowClr (n : Nat) (s : State) : Out := .next (s.lowClr n)

end Sys2Proof.Machine
end

