-- ==== Sys2Proof/Machine/HostPort.lean ====
section
/-! DEFINITION. The rows of the host port (chapter 13): resets and the link, FLR, Bus Master Enable, power states of the functions,
configuration requests (Tables 13-1 and 13-2), invalid BAR0 accesses, BAR2 windows, Freeze and LTR. -/

namespace Sys2Proof.Machine

/-! ### PERST#, hot reset and the link (R302, R304, R305) -/

/-- The host link is not up. -/
def State.linkZero (s : State) : State :=
  ((s.setFlag Reg.HP_STATUS 0 false).setFld Reg.HP_STATUS 7 4 0).setFld Reg.HP_STATUS 10 8 0

def execPerstAssert (s : State) : Out := .next ((s.hostGone.linkZero.setFlag Reg.HP_STATUS 1 true).settle)
def execPerstRelease (s : State) : Out := .next (s.setFlag Reg.HP_STATUS 1 false)
def execHotReset (s : State) : Out := .next s.hostReset.settle

def execHostLinkDown (s : State) : Out := .next s.hostLinkLost

/-- The link has trained: WAKE_N is released (R307). -/
def execHostLinkUp (width speed : Nat) (s : State) : Out :=
  .next <| if s.flag Reg.HP_STATUS 1 then s
    else
      let s : State := { s with hp.wake := false, hp.d3cold := false }
      ((s.setFlag Reg.HP_STATUS 0 true).setFld Reg.HP_STATUS 7 4 width).setFld Reg.HP_STATUS 10 8 speed

/-! ### FLR (R303) -/

/-- AON count at which the FLR of a function began. -/
def State.flrAt (s : State) (f : Func) : Option Nat := match f with
  | .pf0 => s.hp.flr0
  | .pf1 => s.hp.flr1

def execFlr (f : Func) (s : State) : Out := .next <| if s.inFlr f then s else (s.flrBegin f).settle

def execFlrWaitDone (f : Func) (s : State) : Out :=
  .next <| match s.flrAt f with
    | some t => if s.hp.reads.all (fun r => r.req.f != f) ∨ s.due t 10000 then (s.flrEnd f).settle else s
    | none => s

/-! ### Bus Master Enable (R296, R297, R336) -/

def State.bmeDrop (s : State) (f : Func) : State :=
  if s.bme f then (s.setFlag Reg.HP_STATUS (bmeBit f) false).hostStop f 3 false else s

/-- Setting the bit again restarts no ring; held messages of halted rings are sent. -/
def State.bmeRaise (s : State) (f : Func) : State :=
  if s.bme f then s else ((s.setFlag Reg.HP_STATUS (bmeBit f) true).msixPump f).reSignal f

def execBmeClear (f : Func) (s : State) : Out := .next (s.bmeDrop f).settle
def execBmeSet (f : Func) (s : State) : Out := .next (s.bmeRaise f)

/-! ### Power states of the functions (R306, R307) -/

def State.toD3 (s : State) (f : Func) : State :=
  if s.dstate f = 3 then s
  else ((if s.bme f then s.hostStop f 3 false else s).setFld Reg.HP_STATUS (dstLo f + 1) (dstLo f) 3)

def State.toD0 (s : State) (f : Func) : State := s.setFld Reg.HP_STATUS (dstLo f + 1) (dstLo f) 0

def execD3hotEntry (f : Func) (s : State) : Out := .next (s.toD3 f).settle
def execD0Return (f : Func) (s : State) : Out := .next (s.toD0 f)

/-! ### Configuration space (R286, R287, R305). Bit positions follow the PCI Express standard (log entry 20) -/

/-- Size exponent of BAR2 as applied at the last HOST reset; 0 where it is not implemented. -/
def State.bar2Exp (s : State) (f : Func) : Nat :=
  let n := if isPf0 f then bits s.hp.bar2 5 0 else bits s.hp.bar2 13 8
  if 24 ≤ n ∧ n ≤ 32 then n else 0

/-- What a read of BAR n's dwords gives: the written address bits above its size, with its type bits. -/
def barDw (size kind w : Nat) : Nat := (w % 2 ^ 32) / 2 ^ size * 2 ^ size + kind

/-- Bits of a dword the tables give: their mask and their value. -/
def State.cfgKnown (s : State) (f : Func) (off : Nat) : Nat × Nat :=
  let w := s.cfgW f off
  let p0 := isPf0 f
  let ext := fun (id ver next : Nat) => (0xFFF0FFFF + ver / 16 * 0xF0000, id + ver % 16 * 65536 + next * 2 ^ 20)
  match off with
  | 0x00 => (0xFFFFFFFF, (if p0 then 0x9032 else 0x9033) * 65536 + 0x1F9B)
  | 0x04 => (0x00100004, 0x00100000 + 4 * b2n (s.bme f))
  | 0x08 => (0xFFFFFFFF, if p0 then 0x010400B1 else 0x088000B1)
  | 0x0C => (0x00FF0000, 0x00800000)
  | 0x10 => (0xFFFFFFFF, barDw (if p0 then 20 else 18) 0x4 w)
  | 0x14 => (0xFFFFFFFF, w)
  | 0x18 => (0xFFFFFFFF, if s.bar2Exp f = 0 then 0 else barDw (s.bar2Exp f) 0xC w)
  | 0x1C => (0xFFFFFFFF, if s.bar2Exp f = 0 then 0 else w)
  | 0x20 => (0xFFFFFFFF, 0)
  | 0x24 => (0xFFFFFFFF, 0)
  | 0x2C => (0xFFFFFFFF, s.hp.subsys)
  | 0x30 => (0xFFFFFFFF, 0)
  | 0x34 => (0xFF, 0x40)
  | 0x3C => (0xFF00, 0)
  | 0x40 => (0xFFC7FFFF, 0x01 + 0x50 * 256 + 3 * 65536 + (if p0 then 0 else 0xC0000000))
  | 0x44 => (0x810B, s.dstate f + 8 + (if p0 then 0 else w / 256 % 2 * 256 + w / 32768 % 2 * 32768))
  | 0x50 => (0xC7FFFFFF, 0x11 + 0x60 * 256 + (if p0 then 255 else 31) * 65536 + w / 2 ^ 30 % 4 * 2 ^ 30)
  | 0x54 => (0xFFFFFFFF, if p0 then 0x20000 else 0x5000)
  | 0x58 => (0xFFFFFFFF, if p0 then 0x21000 else 0x5800)
  | 0x60 => (0x00FFFFFF, 0x10 + 2 * 65536)
  | 0x64 => (0x10000027, 0x10000022)
  | 0x68 => (0x00008000, 0)
  | 0x6C => (0x0003BFFF, 5 + 8 * 16 + 2 * 1024 + 4 * 32768)
  | 0x84 => (0x0003081F, 0xF + b2n p0 * 0x800 + 0x30000)
  | 0x88 => (0x0000140F, w % 16 + w / 1024 % 2 * 1024 + w / 4096 % 2 * 4096)
  | 0x100 => ext 0x0001 18 0x148
  | 0x148 => (0xFFF0FFFF, 0x0003 + (if p0 then 0x158 else 0) * 2 ^ 20)
  | 0x14C => (0xFFFFFFFF, Config.serial.toNat % 2 ^ 32)
  | 0x150 => (0xFFFFFFFF, Config.serial.toNat / 2 ^ 32)
  | 0x158 => if p0 then (0xFFF0FFFF, 0x0018 + 0x160 * 2 ^ 20) else (0, 0)
  | 0x15C => if p0 then (0xFFFFFFFF, w) else (0, 0)
  | 0x160 => if p0 then (0xFFF0FFFF, 0x001E + 0x170 * 2 ^ 20) else (0, 0)
  | 0x164 => if p0 then (0x0000FF0F, 0x280F) else (0, 0)
  | 0x170 => if p0 then (0xFFF0FFFF, 0x0019 + 0x190 * 2 ^ 20) else (0, 0)
  | 0x190 => if p0 then (0xFFF0FFFF, 0x0025 + 0x1A0 * 2 ^ 20) else (0, 0)
  | 0x194 => if p0 then (0x1, 0x1) else (0, 0)
  | 0x1A0 => if p0 then (0xFFF0FFFF, 0x0026 + 0x1D0 * 2 ^ 20) else (0, 0)
  | 0x1D0 => if p0 then (0xFFF0FFFF, 0x002A + 0x200 * 2 ^ 20) else (0, 0)
  | 0x200 => if p0 then (0xFFF0FFFF, 0x0027) else (0, 0)
  | _ => (0, 0)

/-- A configuration read: bits the tables give, and free ones elsewhere (log entry 10). -/
def State.cfgRead (s : State) (f : Func) (off : Nat) : State :=
  let (m, v) := s.cfgKnown f off
  let x := (Config.configRead s.free (b2n (!isPf0 f)) off).toNat
  State.put { s with free := s.free + 1 } [.cfgReply f off (BitVec.ofNat 32 ((v &&& m) + (x &&& (0xFFFFFFFF - m))))]

/-- A write of PMCSR: the power state, PME_En, and PME_Status cleared by writing 1 (PF1). -/
def State.pmWrite (s : State) (f : Func) (v : Nat) : State :=
  let old := s.cfgW f 0x44
  let st := bit old 15 && !bit v 15
  let s := if isPf0 f then s else s.setCfg f 0x44 (b2n (bit v 8) * 256 + b2n st * 32768)
  let s : State := if isPf0 f = false ∧ bit v 15 then { s with hp.wake := false } else s
  if v % 4 = 3 then s.toD3 f else if v % 4 = 0 then s.toD0 f else s

/-- A configuration write, and what it brings about. -/
def State.cfgWrite (s : State) (f : Func) (off v : Nat) : State :=
  if off = 0x04 then
    let s := s.setCfg f off v
    if bit v 2 then s.bmeRaise f else s.bmeDrop f
  else if off = 0x44 then s.pmWrite f v
  else if off = 0x50 then (s.setCfg f off v).msixPump f
  else if off = 0x88 then (s.setCfg f off v).pumpReads
  else if off = 0x68 then
    let s := s.setCfg f off (v &&& 0xFFFF7FFF)
    if bit v 15 ∧ s.inFlr f = false then s.flrBegin f else s
  else s.setCfg f off v

def execConfigRequest (f : Func) (off : Nat) (wr : Option W32) (s : State) : Out :=
  .next <| if s.hp.cfgReady = false ∨ s.flag Reg.HP_STATUS 1 ∨ s.inFlr f then s.put [.cfgRetry f]
    else match wr with
      | none => s.cfgRead f (off / 4 * 4)
      | some v => (s.cfgWrite f (off / 4 * 4) v.toNat).settle

/-! ### Invalid BAR0 accesses (R289, R290) -/

/-- Does an access to BAR0 break R289, or write the Keep view? -/
def bar0Invalid (f : Func) (off len : Nat) (wr : Bool) : Bool :=
  let inl := (isPf0 f && decide (0x80000 ≤ off) && decide (off < 0x84000)) ||
    (!isPf0 f && decide (0x4400 ≤ off) && decide (off < 0x4500))
  let view := !isPf0 f && wr && decide (0x20000 ≤ off)
  let ok := (len == 4 || len == 8) && off % len == 0
  let push := inl && wr && (len == 4 || len == 8 || len == 16 || len == 32 || len == 64) && off % len == 0
  view || !(ok || push)

/-- Bytes all set. -/
def ones (n : Nat) : List Byte := List.replicate n 0xFF

def execBar0InvalidAccess (f : Func) (off len : Nat) (wr : Bool) (s : State) : Out :=
  .next <| if bar0Invalid f off len wr = false then s
    else if s.pf0Dropped f then (if wr then s.bump Reg.HP_DROP_FRZ else s.put [.barReply f 0 (ones len)])
    else
      let s := s.bump Reg.HP_BADACC
      if wr then s else s.put [.barReply f 0 (zeros len)]

/-! ### Windows (R291, R292) -/

def Win.size (s : State) (w : Nat) : Nat := 2 ^ clampN 12 32 (s.fld (Reg.WT_E_CTRL w) 21 16)
/-- Window start: bits below SIZE are taken as 0. -/
def Win.base (s : State) (w : Nat) : Nat := s.fld (Reg.WT_E_BASE w) 31 12 * 4096 / Win.size s w * Win.size s w
def Win.tgt (s : State) (w : Nat) : Nat :=
  s.fld (Reg.WT_E_TGT_LO w) 31 12 * 4096 + s.fld (Reg.WT_E_TGT_HI w) 15 0 * 2 ^ 32

/-- The entry that serves an offset of a function's BAR2. -/
def State.winFind (s : State) (f : Func) (x : Nat) : Option Nat := (List.range 64).find? fun w =>
  s.flag (Reg.WT_E_CTRL w) 0 && (s.flag (Reg.WT_E_CTRL w) 1 == !isPf0 f) && decide (Win.base s w ≤ x) &&
    decide (x < Win.base s w + Win.size s w)

/-- Where an internal address lies (Table 01-11): 1 DRAM, 2 SRAM, 3 the Keep, 0 nowhere a window reaches. -/
def winArea (a n : Nat) : Nat :=
  if a + n ≤ 0x400000000 then 1
  else if 0x10000000000 ≤ a ∧ a + n ≤ 0x10002800000 then 2
  else if 0x20000000000 ≤ a ∧ a + n ≤ 0x20000100000 then 3
  else 0

/-- Bytes of the Keep as a view shows them: the settings region is the part's own (log entry 9), the keys read as zeros. -/
def State.keepView (s : State) (off n : Nat) : List Byte := (List.range n).map fun i =>
  let a := off + i
  if 0xDC000 ≤ a ∧ a < 0xDD000 then 0
  else if a < 0xF800 then Config.settingsView s.free a
  else memRead s.keep a

/-- Bytes an internal address holds. -/
def State.internal (s : State) (a n : Nat) : List Byte :=
  if winArea a n = 3 then s.keepView (a - 0x20000000000) n else s.memN a n

/-- One part of an access through entry w: refused, denied, poisoned or served. -/
def State.winPart (s : State) (f : Func) (w : Option Nat) (x n : Nat) (wr : Option (List Byte)) (ecc : Bool) : State :=
  let no := fun (s : State) (k : Nat) => if wr.isSome then s.bump k else (s.bump k).put [.barReply f 1 []]
  match w with
  | none => no s Reg.WT_MISS
  | some w =>
    let a := Win.tgt s w + (x - Win.base s w)
    match wr with
    | none =>
      if s.flag (Reg.WT_E_CTRL w) 2 = false then no s Reg.WT_MISS
      else if winArea a n = 0 then no s Reg.WT_DENY
      else if ecc ∧ winArea a n = 1 then ((s.bump Reg.WT_ECC).bump Reg.DC_ECC_UNCORR).put [.barReply f 2 []]
      else
        let t := if winArea a n = 3 then { s with free := s.free + 1 } else s
        t.put [.barReply f 0 (s.internal a n)]
    | some d =>
      if !(s.mode == 3 && s.flag (Reg.WT_E_CTRL w) 3) then s.bump Reg.WT_MISS
      else if winArea a n = 0 ∨ winArea a n = 3 then s.bump Reg.WT_DENY
      else s.memPut a (d.take n)

/-- An access is split where it crosses the end of its window. -/
def State.winRun (s : State) (f : Func) (x n : Nat) (wr : Option (List Byte)) (ecc : Bool) : Nat → State
  | 0 => s
  | fuel + 1 =>
    if n = 0 then s
    else
      let w := s.winFind f x
      let k := match w with
        | some i => min n (Win.base s i + Win.size s i - x)
        | none => n
      (s.winPart f w x k wr ecc).winRun f (x + k) (n - k) (wr.map (·.drop k)) ecc fuel

def execBar2Access (f : Func) (off len : Nat) (wr : Option (List Byte)) (ecc : Bool) (s : State) : Out :=
  .next <| if s.pf0Dropped f then (if wr.isSome then s.bump Reg.HP_DROP_FRZ else s.put [.barReply f 0 (ones len)])
    else s.winRun f off (match wr with
      | some d => d.length
      | none => len) wr ecc 64

/-! ### Freeze (R298, R300) -/

def execHpDatapathError (s : State) : Out := .next (s.freeze 4 .pf0).settle
def execFreezeForce (s : State) : Out := .next (s.freeze 5 .pf0).settle
def execFreezeRelease (s : State) : Out := .next s.freezeEnd

/-! ### LTR (R308) -/

/-- Send an LTR message if the value is another than the last, the mechanism is enabled, and PF0 may. -/
def State.ltrSend (s : State) (us : Nat) : State :=
  if bit (s.cfgW .pf0 0x88) 10 ∧ s.flag Reg.HP_STATUS 0 ∧ s.dstate .pf0 = 0 ∧ s.hp.ltrLast ≠ some us then
    State.put { s with hp.ltrLast := some us } [.ltr us]
  else s

/-- PF0 has a command outstanding. -/
def State.ltrActive (s : State) : State := State.ltrSend { s with hp.ltrIdle := none } (s.fld Reg.HP_LTR 9 0)

def execLtrIdleTimer (s : State) : Out :=
  .next <| match s.hp.ltrIdle with
    | some t => if s.due t 1000 ∧ !(s.cmds.any fun c => isPf0 c.f) then s.ltrSend (s.fld Reg.HP_LTR 25 16) else s
    | none => s

end Sys2Proof.Machine
end

