-- ==== Sys2Proof/Machine/Checks.lean ====
section
/-! DEFINITION. The checks before a command executes (R337, R338, R341 to R344, R348): which data a command moves, its fields,
and the conditions of Tables 15-7 and 15-8 from INVALID_OPCODE to ARRAY_OFFLINE in table order. -/

namespace Sys2Proof.Machine

/-- The first condition that holds gives the status; success if none does. -/
def firstSt : List (Bool × Nat) → Nat
  | [] => St.success
  | (b, st) :: t => if b then st else firstSt t

/-- Opcodes a function accepts (Tables 15-4 and 15-6). -/
def opcOk (f : Func) (o : Nat) : Bool := match f with
  | .pf0 => [0x01, 0x02, 0x03, 0x04, 0x05, 0x10, 0x11, 0x12, 0x18, 0x19].contains o
  | .pf1 => decide (0x81 ≤ o) && decide (o ≤ 0x97)

/-- Transfer length of a command; none where it moves no data. -/
def xferLen (f : Func) (e : List Byte) : Option Nat :=
  let o := Ent.opc e
  match f with
  | .pf0 =>
    if o = 0x01 ∨ o = 0x02 then some (4096 * Ent.p1 e)
    else if o = 0x10 then some (Ent.p1 e)
    else if o = 0x11 then some (Ent.p2 e)
    else if o = 0x18 ∨ o = 0x19 then some 64 else none
  | .pf1 =>
    if o = 0x81 ∨ o = 0x94 ∨ o = 0x96 then some 32
    else if o = 0x92 then some (Ent.p1 e)
    else if o = 0x95 then some 64 else none

/-- Admin commands whose data comes from the host. -/
def adminTakesData (o : Nat) : Bool := o == 0x81 || o == 0x92 || o == 0x95 || o == 0x96

/-- Buffer fields of the entry, before a segment list is read. -/
def bufFields (f : Func) (e : List Byte) : Bool := match xferLen f e with
  | none => true
  | some _ =>
    if Ent.sgl e then decide (1 ≤ Ent.nseg e) && decide (Ent.nseg e ≤ 256) && Ent.dptr e % 16 == 0
    else Ent.nseg e == 0 && Ent.dptr e % 4 == 0

/-- The buffer of a command totals its transfer length. -/
def Cmd.bufOk (c : Cmd) : Bool := match xferLen c.f c.ent with
  | none => true
  | some n => segsLen c.segs == n

/-- P0, P1, P2 and P3 that an opcode does not use are zero. -/
def zeroFields (e : List Byte) (p0 p1 p2 p3 : Bool) : Bool :=
  (p0 || Ent.p0 e == 0) && (p1 || Ent.p1 e == 0) && (p2 || Ent.p2 e == 0) && (p3 || leNat (Ent.p3 e) == 0)

/-- Ranges of the fields of PF0 commands (Table 15-4). -/
def State.pf0Fields (s : State) (e : List Byte) : Bool :=
  let o := Ent.opc e
  let t := Ent.tgt e
  if o = 0x01 ∨ o = 0x02 then
    decide (t < 256) && decide (1 ≤ Ent.p1 e) && decide (Ent.p1 e ≤ 1024) && zeroFields e true true false false
  else if o = 0x03 ∨ o = 0x05 then
    decide (t < 256) && decide (1 ≤ Ent.p1 e) && decide (Ent.p1 e ≤ 65536) && zeroFields e true true false false
  else if o = 0x04 ∨ o = 0x18 then decide (t < 256) && zeroFields e false false false false
  else if o = 0x10 then
    let m := match s.stream? t with
      | some x => x.recMax
      | none => 1048544
    decide (t < 1024) && decide (1 ≤ Ent.p1 e) && decide (Ent.p1 e ≤ m) && zeroFields e false true true false
  else if o = 0x11 then
    decide (t < 1024) && decide (1 ≤ Ent.p1 e) && decide (Ent.p1 e ≤ 65535) && Ent.p2 e % 32 == 0 && decide (32 ≤ Ent.p2 e) &&
      zeroFields e true true true false
  else if o = 0x12 then decide (t < 1024) && zeroFields e true false false false
  else decide (t < 1024) && zeroFields e false false false false

/-! ### Geometry asked for by ARRAY_CREATE (Table 02-1) -/

/-- The record fields P1 [15:0] codes, as ST_ACFGa. -/
def cfgOf (v : Nat) : ArrayRec :=
  { kind := bits v 2 1, dw := bits v 7 3, k := bits v 10 8, chunk := bits v 13 11, meta_ := bits v 15 14, state := 0, base := 0
    count := 0, epoch := 0, failed := 0, pos := [], h := 0, ident := [], created := 0, labelGen := [], copyA := some 0
    copyB := some 1, moves := 0, nguid := [] }

/-- Geometry limits of Table 02-1, and the metadata sizes R27 admits for them. -/
def geomOk (r : ArrayRec) : Bool :=
  decide (r.chunk ≤ 4) && decide (r.meta_ ≤ 2) && decide (r.w ≤ 32) && decide (r.w ≥ 1) &&
  (if r.kind = 0 then decide (2 ≤ r.dw) && decide (r.dw ≤ 28) && decide (1 ≤ r.k) && decide (r.k ≤ 4)
   else decide (r.kind ≤ 2) && decide (1 ≤ r.dw) && r.k == r.kind)

/-- Members without metadata need K of 2 or more, or MIRROR3 (R27). -/
def metaFits (r : ArrayRec) : Bool := r.meta_ != 0 || (r.kind == 0 && decide (r.k ≥ 2)) || r.kind == 2

/-! ### Admin commands (Tables 15-6 and 15-8) -/

/-- Data of an admin command that has arrived. -/
def Cmd.adminData (c : Cmd) : List Byte := c.blockData 0
def Cmd.gotLen (c : Cmd) : Nat := sumN (c.recv.map fun p => p.data.length)

/-- Has all the data an admin command takes arrived? -/
def Cmd.dataIn (c : Cmd) : Bool := !adminTakesData (Ent.opc c.ent) || decide (c.gotLen ≥ segsLen c.segs)

/-- Ports a position map names: the first W bytes. -/
def mapPorts (r : ArrayRec) (d : List Byte) : List Nat := (List.range r.w).map fun p => leAt d p 1

/-- A position map: ports 0 to 31 within W, and 0xFF beyond. -/
def mapOk (r : ArrayRec) (d : List Byte) : Bool :=
  (mapPorts r d).all (fun p => decide (p < 32)) &&
  (List.range 32).all fun p => decide (p < r.w) || leAt d p 1 == 0xFF

/-- STREAM_CREATE: the conditions of R110 with INVALID_FIELD. -/
def State.streamFields (s : State) (e : List Byte) : Bool := match s.vol? (Ent.tgt e) with
  | none => false
  | some v => match s.arr? v.arr with
    | none => false
    | some r =>
      let n := Ent.p1 e
      let idle := leAt (Ent.p3 e) 0 2
      v.cls == 1 && !v.deleting && decide (4 ≤ n) && decide (Ent.p0 e + n ≤ v.count) && decide (1 ≤ Ent.p2 e) &&
      decide (Ent.p2 e ≤ 1048544) && decide (Ent.p2 e + 96 ≤ 4096 * r.sb) && decide (1 ≤ idle) && decide (idle ≤ 10000)

/-- The fields of admin commands lie in their ranges, with the conditions of Table 15-8 marked INVALID_FIELD. Data that has
not arrived is not judged. -/
def State.pf1Fields (s : State) (c : Cmd) : Bool :=
  let e := c.ent
  let o := Ent.opc e
  let t := Ent.tgt e
  let d := c.adminData
  if o = 0x81 then
    let r := cfgOf (Ent.p1 e)
    (decide (t < 4) || t == 0xFFFF) && Ent.p1 e % 2 == 0 && decide (Ent.p1 e < 65536) && decide (Ent.p0 e ≤ sstEntries) &&
    zeroFields e true true false false && geomOk r && (!c.dataIn || mapOk r d)
  else if o = 0x82 then decide (t < 4) && (s.arr? t).isSome && zeroFields e false false false false
  else if o = 0x83 then
    decide (t < 4) && (s.arr? t).isSome && Ent.p1 e % 4 != 3 && Ent.p1 e &&& 0x70003 == Ent.p1 e && decide (1 ≤ Ent.p0 e) &&
    decide (Ent.p0 e < 2 ^ 25) && decide (Ent.p2 e < 65536) && zeroFields e true true true false
  else if o = 0x84 then decide (t < 256) && zeroFields e false false false false
  else if o = 0x85 then
    decide (t < 256) && Ent.p1 e &&& 0x70003 == Ent.p1 e && decide (Ent.p2 e < 65536) && zeroFields e false true true false
  else if o = 0x86 then decide (t < 4) && Ent.p1 e &&& 0xF3F == Ent.p1 e && zeroFields e false true false false
  else if o = 0x87 then
    decide (t < 256) && decide (Ent.p0 e < 2 ^ 24) && decide (Ent.p1 e < 2 ^ 25) && decide (leAt (Ent.p3 e) 2 1 ≤ 1) &&
    leAt (Ent.p3 e) 3 1 == 0 && leAt (Ent.p3 e) 8 20 == 0 && s.streamFields e
  else if o = 0x88 then decide (t < 1024) && zeroFields e false false false false
  else if o = 0x89 then
    t == 0 && decide (Ent.p1 e < 32) && zeroFields e false true false false && s.assigned (Ent.p1 e)
  else if o = 0x8A then
    decide (t < 4) && decide (Ent.p1 e < 32) && zeroFields e false true false false &&
    (match s.arr? t with
      | some r => decide (Ent.p1 e < r.w) && bit r.failed (Ent.p1 e) && !s.posTarget t (Ent.p1 e)
      | none => false)
  else if o = 0x8B then
    decide (t < 4) && decide (Ent.p0 e < 2 ^ 24) && zeroFields e true false false false &&
    (match s.arr? t with
      | some r => decide (Ent.p0 e < r.count) && s.sstState t (Ent.p0 e) == Sst.lost
      | none => false)
  else if o = 0x8C then t == 0 && decide (Ent.p1 e ≤ 2) && zeroFields e false true false false
  else if o = 0x8D then t == 0 && decide (Ent.p1 e ≤ 1) && zeroFields e false true false false
  else if o = 0x8E then t == 0 && zeroFields e true false false false
  else if o = 0x90 then t == 0 && leAt (Ent.p3 e) 16 12 == 0 && zeroFields e false false false true
  else if o = 0x92 then
    t == 0 && Ent.p1 e % 4096 == 0 && decide (Ent.p0 e + Ent.p1 e ≤ 1048576) && zeroFields e true true false false
  else if o = 0x93 then t == 0 && zeroFields e false true false false
  else if o = 0x95 then t == 0 && zeroFields e false false false false && (!c.dataIn || authFieldsOk d)
  else if o = 0x96 then t == 0 && zeroFields e false false false false && (!c.dataIn || leNat (bytesAt d 0 32) != 0)
  else if o = 0x97 then
    t == 0 && Ent.p1 e &&& 0x73 == Ent.p1 e && decide (bits (Ent.p1 e) 6 4 ≤ 5) && zeroFields e false true false false
  else t == 0 && zeroFields e false false false false

/-- Long commands (Table 15-6). -/
def longOp (e : List Byte) : Bool :=
  let o := Ent.opc e
  [0x82, 0x84, 0x88, 0x8F, 0x90, 0x91].contains o || (o == 0x8D && Ent.p1 e == 0)

/-- Admin commands accepted in STARTUP (Table 15-6). -/
def startupOp (o : Nat) : Bool := o == 0x8E || o == 0x92 || o == 0x94 || o == 0x97

/-- The array a command names is in a state. -/
def State.arrIn (s : State) (a st : Nat) : Bool := match s.arr? a with
  | some r => r.state == st
  | none => false

/-- Conditions of Table 15-7 for an admin command, in table order. -/
def State.pf1Check (s : State) (c : Cmd) : Nat :=
  let e := c.ent
  let o := Ent.opc e
  let t := Ent.tgt e
  let gone := match s.vol? t with
    | some v => v.deleting
    | none => true
  firstSt [
    (!opcOk .pf1 o, St.invalidOpcode),
    (Ent.flags e / 2 != 0 || Ent.tail e != 0 || !bufFields .pf1 e || !c.bufOk || !s.pf1Fields c, St.invalidField),
    (s.mode == 0 && !startupOp o, St.notReady),
    (o == 0x8C && Ent.p1 e == 2 && s.fld Reg.RV_MODE 3 2 != 2, St.modeRefused),
    ((o == 0x90 || o == 0x91) && s.mode != 2, St.modeRefused),
    (longOp e && s.st.long.any (fun l => l.2 == o), St.busy),
    (o == 0x83 && (s.arrIn t 0 || s.arrIn t 3), St.busy),
    (o == 0x8F && !s.commOk, St.busy),
    (o == 0x93 && s.pfd, St.busy),
    ((o == 0x84 || o == 0x85) && gone, St.invalidVolume),
    (o == 0x88 && (match s.stream? t with
      | some x => x.state == 3
      | none => true), St.invalidStream),
    (o == 0x83 && Ent.p1 e % 4 == 2 && (match s.arr? t with
      | some r => r.kind != 2
      | none => false), St.classMismatch),
    (o == 0x83 && s.arrIn t 2, St.arrayOffline)]

/-! ### Data commands -/

/-- Does a volume's class accept an opcode (Table 06-1)? -/
def classOk (cls o : Nat) : Bool :=
  if o = 0x01 ∨ o = 0x02 ∨ o = 0x03 ∨ o = 0x05 then cls != 1
  else if o = 0x10 ∨ o = 0x11 ∨ o = 0x12 then cls == 1 else true

/-- Opcodes that name a stream. -/
def streamOp (o : Nat) : Bool := o == 0x10 || o == 0x11 || o == 0x12 || o == 0x19

/-- Conditions of Table 15-7 for a data command, in table order. -/
def State.pf0Check (s : State) (c : Cmd) : Nat :=
  let e := c.ent
  let o := Ent.opc e
  let t := Ent.tgt e
  let v := match s.cmdVol c with
    | some n => s.vol? n
    | none => none
  let arr := match v with
    | some x => s.arr? x.arr
    | none => none
  firstSt [
    (!opcOk .pf0 o, St.invalidOpcode),
    (Ent.flags e / 2 != 0 || Ent.tail e != 0 || !bufFields .pf0 e || !c.bufOk || !s.pf0Fields e, St.invalidField),
    (s.mode == 0 && !(o == 0x01 && s.sv.ready.contains t), St.notReady),
    (!streamOp o && (match v with
      | some x => x.deleting
      | none => true), St.invalidVolume),
    (streamOp o && (match s.stream? t with
      | some x => x.state == 3
      | none => true), St.invalidStream),
    ((match v with
      | some x => !classOk x.cls o
      | none => false), St.classMismatch),
    ((o == 0x01 || o == 0x02 || o == 0x03 || o == 0x05) && (match v, arr with
      | some x, some r => decide (Ent.p0 e + Ent.p1 e > x.count * r.sb)
      | _, _ => true), St.lbaRange),
    ((match arr with
      | some r => r.state == 2
      | none => false), St.arrayOffline)]

/-- The status a command ends with before it executes; success where it may execute. -/
def State.check (s : State) (c : Cmd) : Nat := match c.f with
  | .pf0 => s.pf0Check c
  | .pf1 => s.pf1Check c

end Sys2Proof.Machine
end

