-- ==== Sys2Proof/Machine/Fetch.lean ====
section
/-! DEFINITION. Taking entries from submission rings (R317, R319, R321, R327) and the ends of device-originated reads: data used,
failures, timeouts, late completions and quarantine (R298, R301). -/

namespace Sys2Proof.Machine

/-! ### Preparing a taken command (R338) -/

/-- Read the data an admin command takes into block 0 of the command. -/
def State.adminRead (s : State) (c : Cmd) : State :=
  (c.segs.foldl (fun (p : State × Nat) e => (p.1.tryRead ⟨c.f, e.1, e.2, .part c.h 0 p.2 e.2⟩, p.2 + e.2))
    (s.setCmd { c with ph := .data, recv := [] }, 0)).1

/-- A command has its segment list: an admin command that passes its checks reads its data; any other is ready. -/
def State.prepare (s : State) (c : Cmd) : State :=
  let c := { c with ph := .ready }
  if !isPf0 c.f && !c.dataIn && s.check c == St.success then s.adminRead c else s.setCmd c

/-- A taken entry becomes a command. An opcode that is not accepted ends it at once; a segment list is read first. -/
def State.accept (s : State) (c : Cmd) : State :=
  let e := c.ent
  let s : State := { s with cmds := s.cmds ++ [c] }
  if !opcOk c.f (Ent.opc e) then s.finishSt Rank.ringEngine c St.invalidOpcode
  else match xferLen c.f e with
    | none => s.prepare c
    | some n =>
      if !bufFields c.f e then s.setCmd { c with ph := .ready }
      else if Ent.sgl e then
        (s.setCmd { c with ph := .sgl }).tryRead ⟨c.f, Ent.dptr e, 16 * Ent.nseg e, .sgl c.h⟩
      else s.prepare { c with segs := if n = 0 then [] else [(Ent.dptr e, n)] }

/-- Work of PF0 is outstanding: its array's idle time and the host's idle time end (R251, R308). -/
def State.workBegins (s : State) (c : Cmd) : State :=
  if !isPf0 c.f then s
  else match s.cmdArr c with
    | some a => { s with hp.ltrIdle := none, md.idleCap := setBits s.md.idleCap a a 0 }
    | none => { s with hp.ltrIdle := none }

/-- The entry at the head of a ring is taken: the head moves, its OWN byte is cleared (R317), its credit goes with it. -/
def State.takeEntry (s : State) (f : Func) (q : Nat) (ent : List Byte) (bad : Bool) : State :=
  let r := s.sq f q
  let n := s.sqN f q
  let cq := s.sqCq f q
  let s := s.advanceHead f q 1
  let s := if ownMode n then s.hostWrite f (s.sqBase f q + 64 * posIdx r.head + 0x3F) [0] else s
  let s := (s.updCq f cq fun x => { x with credits := x.credits + 1 }).markPool
  let (h, s) := s.newH
  let c : Cmd := { h := h, f := f, sq := q, cq := cq, pos := r.head, prio := s.sqPrio f q, ent := bytesAt ent 0 64
                   ph := .ready, since := s.now }
  let s := s.workBegins c
  if bad then State.finishSt { s.bump (Reg.RG_BADOWN (isPf0 f)) with cmds := s.cmds ++ [c] } Rank.ringEngine c St.invalidEntry
  else s.accept c

/-- Take the entries of a batch in order. One that reads OWN = 0 in ownership mode is left for a second read (R317). -/
def State.takeBatch (s : State) (f : Func) (q : Nat) : List (List Byte) → State
  | [] => s
  | e :: t =>
    if (s.sq f q).state ≠ 1 then s
    else if ownMode (s.sqN f q) && !Ent.own e then s.updSq f q fun r => { r with ownAt := some s.now }
    else (s.takeEntry f q e false).takeBatch f q t

/-! ### Granting a ring (R319) -/

/-- Collector credits a grant to a ring may take. -/
def State.creditRoom (s : State) (f : Func) (q : Nat) : Nat :=
  let c := s.sqCq f q
  let own := s.creditMax f c - s.cqCredits f c
  if isPf0 f then min own (208 - s.poolUsed) else own

/-- The Reeve is about to restart; admin commands wait in their rings (R346). -/
def State.restartDue (s : State) : Bool :=
  s.cmds.any fun c => !isPf0 c.f && Ent.opc c.ent == 0x93 && c.ph == .waiting

/-- A ring the Ring Engine may grant now. -/
def State.grantable (s : State) (f : Func) (q : Nat) : Bool :=
  let r := s.sq f q
  r.state == 1 && decide (s.sqOcc f q > 0) && s.canIssue f && r.ownAt.isNone && decide (s.creditRoom f q > 0) &&
  !(s.liveReads.any fun x => x.f == f && x.purp.ring == some q) && (isPf0 f || !s.restartDue)

/-- Rings of a class that may be granted, in order. -/
def State.grantables (s : State) (cls : Nat) : List Nat :=
  (s.rg.sq.map (·.1)).filter fun k => s.sqPrio (keyFunc k) (k % 256) == cls && s.grantable (keyFunc k) (k % 256)

/-- Next ring of a class in round-robin order. -/
def State.rrPick (s : State) (cls : Nat) : Option Nat :=
  let l := s.grantables cls
  match l.find? fun k => decide (k > mapGetD s.rg.rr cls 511) with
  | some k => some k
  | none => l.head?

/-- Grants a round gives class 1, 2 or 3; 0 acts as 1. -/
def State.weight (s : State) (cls : Nat) : Nat := max 1 (s.fld (Reg.RG_WEIGHT true) (8 * cls - 1) (8 * cls - 8))

/-- Grants left in the round for a class. -/
def State.roundLeft (s : State) (cls : Nat) : Nat := s.rg.round.getD (cls - 1) 0

/-- The ring to grant: class 0 first, then classes with grants left in the round, then a new round. -/
def State.grantPick (s : State) : Option (Nat × Nat × State) := match s.rrPick 0 with
  | some k => some (0, k, s)
  | none =>
    let go := fun (s : State) => [1, 2, 3].findSome? fun c =>
      if s.roundLeft c = 0 then none
      else (s.rrPick c).map fun k => (c, k, ({ s with rg.round := s.rg.round.set (c - 1) (s.roundLeft c - 1) } : State))
    match go s with
    | some x => some x
    | none => go { s with rg.round := [s.weight 1, s.weight 2, s.weight 3] }

/-- Does a Basket item lie at a position its ring has not passed? -/
def State.inlLive (s : State) (i : InlItem) : Bool :=
  let r := s.sq i.f i.q
  let n := s.sqN i.f i.q
  decide (posDiff n r.head i.pos < posDiff n r.head r.tail)

/-- Items of the front window whose position has been passed are discarded and counted (R327). -/
def State.inlSweep (s : State) : State :=
  let w := s.rg.inl.take 16
  let gone := w.filter fun i => !s.inlLive i
  State.bumpN { s with rg.inl := w.filter s.inlLive ++ s.rg.inl.drop 16 } Reg.BK_INL_SUPERSEDED gone.length

/-- Up to n items of the front window for the next positions of a ring, in ring order. -/
def inlRun (w : List InlItem) (f : Func) (q size : Nat) : Nat → Nat → List InlItem
  | 0, _ => []
  | n + 1, pos => match w.find? fun i => i.f == f && i.q == q && i.pos == pos with
    | some i => i :: inlRun w f q size n (posAdd size pos 1)
    | none => []

/-- Serve one grant: from the Inline Basket where it holds the next entries, or in one read that stays inside the ring. -/
def State.grantRing (s : State) (f : Func) (q : Nat) : State :=
  let r := s.sq f q
  let n := s.sqN f q
  let room := min 8 (s.creditRoom f q)
  let l := inlRun (s.rg.inl.take 16) f q n (min room (s.sqOcc f q)) r.head
  if l.isEmpty then
    let k := min room (min (s.sqOcc f q) (n - posIdx r.head))
    (s.tryRead ⟨f, s.sqBase f q + 64 * posIdx r.head, 64 * k, .fetch q r.head k⟩).markPool
  else State.takeBatch { s with rg.inl := s.rg.inl.filter fun i => !l.contains i } f q (l.map (·.data))

def State.fetchNext (s : State) : State :=
  let s := s.inlSweep
  match s.grantPick with
  | none => s
  | some (c, k, s) =>
    let f := keyFunc k
    let s : State := { s with rg.rr := mapSet s.rg.rr c k }
    (if isPf0 f then s.ltrActive else s).grantRing f (k % 256)

def execRingFetch (s : State) : Out := .next s.fetchNext.settle

/-- An entry that read OWN = 0 is read once more after 1 µs, once a credit is there (R317). -/
def execOwnRereadTimeout (f : Func) (q : Nat) (s : State) : Out :=
  let r := s.sq f q
  .next <| match r.ownAt with
    | none => s
    | some t =>
      if r.state = 1 ∧ s.due t 1 ∧ s.creditRoom f q > 0 ∧ s.canIssue f ∧
          !(s.liveReads.any fun x => x.f == f && x.purp.ring == some q) then
        (s.tryRead ⟨f, s.sqBase f q + 64 * posIdx r.head, 64, .reread q r.head⟩).markPool
      else s

/-! ### What a read brings -/

/-- A part of a command's data has arrived; a whole block moves, a whole payload or admin block is used. -/
def State.partIn (s : State) (h blk off len : Nat) (d : List Byte) : State := match s.cmd? h with
  | none => s
  | some c =>
    let c := { c with recv := c.recv ++ [⟨blk, off, bytesAt d 0 len⟩] }
    let s := s.setCmd c
    let got := sumN ((c.recv.filter fun p => p.blk == blk).map fun p => p.data.length)
    if !isPf0 c.f then (if c.ph = .data ∧ c.dataIn then s.setCmd { c with ph := .ready } else s)
    else match c.log with
      | some op => if c.ph = .data ∧ got ≥ op.len then s.appendData h true else s
      | none => if c.ph = .moving ∧ c.todo.contains blk ∧ got ≥ 4096 then s.moveBlk h blk else s

/-- Data of a device-originated read that is used. -/
def State.readData (s : State) (r : RdReq) (d : List Byte) : State := match r.purp with
  | .fetch q pos n =>
    if (s.sq r.f q).head = pos then s.takeBatch r.f q ((List.range n).map fun i => bytesAt d (64 * i) 64) else s
  | .reread q pos =>
    let x := s.sq r.f q
    if x.state = 1 ∧ x.head = pos then
      (s.updSq r.f q fun y => { y with ownAt := none }).takeEntry r.f q d (!Ent.own d)
    else s
  | .cqLine c pos => s.cqLineRead r.f c pos d
  | .sgl h => match s.cmd? h with
    | some c => s.prepare { c with segs := if segsOk d (Ent.nseg c.ent) then parseSegs d (Ent.nseg c.ent) else [] }
    | none => s
  | .part h blk off len => s.partIn h blk off len d
  | .gone => s

/-- A read failed and no Freeze follows: its command ends with DATA_TRANSFER_ERROR, an append becomes VOID (R117), and a ring
whose fetch failed halts (R319). -/
def State.readGone (s : State) (r : RdReq) : State := match r.purp with
  | .fetch q _ _ => (if (s.sq r.f q).state = 1 then s.haltErr r.f q 3 else s).markPool.markIdle
  | .reread q _ => (if (s.sq r.f q).state = 1 then s.haltErr r.f q 3 else s).markPool.markIdle
  | .cqLine _ _ => s
  | .sgl h => match s.cmd? h with
    | some c => s.finishSt Rank.ringEngine c St.dataTransferError
    | none => s
  | .part h blk _ _ => match s.cmd? h with
    | none => s
    | some c =>
      if !isPf0 c.f then s.finishSt Rank.reeve c St.dataTransferError
      else match c.log with
        | some _ => if c.ph = .data then s.appendData h false else s
        | none =>
          if c.ph = .moving ∧ c.todo.contains blk then
            (s.setCmd { c with todo := c.todo.erase blk, recv := c.recv.filter (fun p => p.blk != blk)
                               status := St.dataTransferError }).writeEnd h
          else s
  | .gone => s

/-- A read failed: Freeze where its trigger is enabled and the function is not under FLR or reset by it (R298). -/
def State.readFailed (s : State) (r : HostRead) (cause : Nat) : State :=
  if s.flag Reg.HP_FRZ_CFG (cause - 1) ∧ r.flr = false then s.freeze cause r.req.f
  else if r.stopped then s else s.readGone r.req

/-- Forget a read in flight. -/
def State.readDone (s : State) (r : HostRead) : State :=
  State.frzDrain { s with hp.reads := s.hp.reads.filter fun x => x.tag != r.tag }

/-- A completion arrives for tag t (R298, R301). -/
def State.hostCompletion (s : State) (t : Nat) (st : RdStatus) (d : List Byte) : State :=
  match s.hp.reads.find? fun r => r.tag == t with
  | none => if s.hp.quar.any fun q => q.tag == t then s.bump Reg.HP_LATE else s
  | some r =>
    if r.stopped then
      let s := s.bump Reg.HP_LATE
      if r.flr ∧ s.inFlr r.req.f = false then s else (s.readDone r).pumpReads
    else
      let s := s.readDone r
      let s := match st with
        | .ok => s.readData r.req d
        | .ur | .ca => (s.bump Reg.HP_URCA).readFailed r 2
        | .poison => (s.bump Reg.HP_POISON).readFailed r 3
      s.markPool.pumpReads

def execHostReadCompletion (tag : Nat) (st : RdStatus) (data : List Byte) (s : State) : Out :=
  .next (s.hostCompletion tag st data).settle

/-- A read times out: counted, its tag quarantined until twice the timeout from its issue, its command failed (R301). -/
def State.hostTimeout (s : State) (t : Nat) : State := match s.hp.reads.find? fun r => r.tag == t with
  | none => s
  | some r =>
    if s.due r.issued r.timeout then
      let s := (s.bump Reg.HP_CTO).readDone r
      let s : State := { s with hp.quar := s.hp.quar ++ [⟨t, r.issued + 2 * r.timeout⟩] }
      (s.readFailed r 1).markPool
    else s

def execHostReadTimeout (tag : Nat) (s : State) : Out := .next (s.hostTimeout tag).settle

/-- A quarantined tag is free for reuse. -/
def execTagQuarantineExpiry (tag : Nat) (s : State) : Out :=
  .next <| if s.hp.quar.any fun q => q.tag == tag && decide (s.now ≥ q.freeAt) then
      State.pumpReads { s with hp.quar := s.hp.quar.filter fun q => q.tag != tag }
    else s

end Sys2Proof.Machine
end

