-- ==== Sys2Proof/Machine/Commands.lean ====
section
/-! DEFINITION. The data commands of PF0 (R341, R342, Tables 06-1, 15-4 and 15-5): each row executes the taken command its
handle names, once the checks of Table 15-7 have passed. -/

namespace Sys2Proof.Machine

/-! ### Register images the status blocks carry -/

/-- ST_ACFGa. -/
def arrCfg (r : ArrayRec) : Nat :=
  1 + r.kind % 4 * 2 + r.dw % 32 * 8 + r.k % 8 * 256 + r.chunk % 8 * 2048 + r.meta_ % 4 * 16384 + r.state % 4 * 65536 +
  r.w % 64 * 2 ^ 24

/-- ST_VCFG. -/
def volCfg (v : Vol) : Nat := 1 + v.cls % 4 * 2 + v.arr % 4 * 8 + 32 * b2n v.deleting

/-- SV_LCFG. -/
def streamCfg (x : Stream) : Nat := x.state % 4 + x.policy % 2 * 4 + x.vol % 256 * 256 + x.idleMs % 65536 * 65536

/-- VOLUME_STATUS block (R342). -/
def State.volStatus (s : State) (n : Nat) : List Byte := match s.vol? n with
  | none => zeros 64
  | some v =>
    let (cfg, sb) := match s.arr? v.arr with
      | some r => (arrCfg r, r.sb)
      | none => (0, 0)
    bytesAt (toLe 4 (volCfg v) ++ toLe 4 cfg ++ toLe 4 v.count ++ toLe 8 (v.count * sb) ++ toLe 2 v.deadline ++
      toLe 1 v.prio ++ toLe 1 (b2n (s.sv.ready.contains n))) 0 64

/-- STREAM_STATUS block (R342). -/
def State.streamStatus (s : State) (n : Nat) : List Byte := match s.stream? n with
  | none => zeros 64
  | some x =>
    bytesAt (toLe 4 (streamCfg x) ++ zeros 4 ++ toLe 8 x.next ++ toLe 8 x.vis ++ toLe 8 x.oldest ++ toLe 8 x.trim ++
      toLe 4 x.cur ++ toLe 4 x.count ++ toLe 4 x.recMax) 0 64

/-! ### Running a data command -/

/-- Execute the data command a handle names, if it is ready and carries the opcode: a check that fails ends it. -/
def State.pf0Run (s : State) (h o : Nat) (act : State → Cmd → State) : State := match s.cmd? h with
  | none => s
  | some c =>
    if isPf0 c.f && c.ph == .ready && Ent.opc c.ent == o then
      let st := s.check c
      if st = St.success then act s c
      else (if st = St.classMismatch then s.bump Reg.SV_CLASS_REJ else s).finishSt (Rank.larder (Ent.tgt c.ent)) c st
    else s

/-- Does a block command touch a stripe in LOST (R342)? -/
def State.touchesLost (s : State) (c : Cmd) : Bool := (List.range (Ent.p1 c.ent)).any fun k => match s.cmdPlace c k with
  | some p => s.sstState p.a p.stripe == Sst.lost
  | none => false

/-- A write of any kind: refused over a LOST stripe, else admitted (R73, R342). -/
def State.writeRun (s : State) (c : Cmd) : State :=
  if s.touchesLost c then s.finishSt (Rank.larder (Ent.tgt c.ent)) c St.lostData
  else s.writeAdmit { c with todo := List.range (Ent.p1 c.ent) }

def execRead (h : Nat) (s : State) : Out := .next (s.pf0Run h 0x01 State.readGo).settle
def execWrite (h : Nat) (s : State) : Out := .next (s.pf0Run h 0x02 State.writeRun).settle
def execWriteZeroes (h : Nat) (s : State) : Out := .next (s.pf0Run h 0x03 State.writeRun).settle

/-- A FLUSH completes at once: what has completed is durable (Table 06-1). -/
def execFlush (h : Nat) (s : State) : Out :=
  .next (s.pf0Run h 0x04 fun s c => s.finish (Rank.larder (Ent.tgt c.ent)) c).settle

def execDeallocate (h : Nat) (s : State) : Out := .next (s.pf0Run h 0x05 State.writeRun).settle

/-- Appends to a stream from one ring take SEQ in the order of that ring (R115): an earlier one comes first. -/
def State.appendTurn (s : State) (c : Cmd) : Bool :=
  !(s.cmds.any fun d => decide (d.h < c.h) && d.f == c.f && d.sq == c.sq && Ent.opc d.ent == 0x10 &&
    Ent.tgt d.ent == Ent.tgt c.ent && (d.ph == .sgl || d.ph == .ready))

def execLogAppend (h : Nat) (s : State) : Out :=
  .next <| match s.cmd? h with
    | some c => if s.appendTurn c then (s.pf0Run h 0x10 State.append).settle else s
    | none => s

def execLogRead (h : Nat) (s : State) : Out := .next (s.pf0Run h 0x11 State.logReadGo).settle

/-- Trim point of a stream; 0 for none. -/
def State.trimOf (s : State) (n : Nat) : Nat := match s.stream? n with
  | some x => x.trim
  | none => 0

/-- LOG_TRIM: the trim point in force comes back. -/
def State.trimRun (s : State) (c : Cmd) : State :=
  let n := Ent.tgt c.ent
  let s := s.trim n (Ent.p0 c.ent)
  s.finish Rank.packer { c with res0 := s.trimOf n }

def execLogTrim (h : Nat) (s : State) : Out := .next (s.pf0Run h 0x12 State.trimRun).settle

/-- A status block goes to the host buffer. -/
def State.statusRun (s : State) (c : Cmd) (b : List Byte) : State :=
  (s.hostWriteSegs c.f c.segs 0 b).finish Rank.stateCache c

def execVolumeStatus (h : Nat) (s : State) : Out :=
  .next (s.pf0Run h 0x18 fun s c => s.statusRun c (s.volStatus (Ent.tgt c.ent))).settle

def execStreamStatus (h : Nat) (s : State) : Out :=
  .next (s.pf0Run h 0x19 fun s c => s.statusRun c (s.streamStatus (Ent.tgt c.ent))).settle

end Sys2Proof.Machine
end

