-- ==== Sys2Proof/Machine/Admin.lean ====
section
/-! DEFINITION. The admin commands of PF1 (R343 to R346, Tables 15-6 and 15-8), which the Reeve executes one at a time in the
order fetched; long ones finish in the background. -/

namespace Sys2Proof.Machine

/-- The Reeve's turn has come to a command: no earlier admin command is in hand but long ones. -/
def State.adminTurn (s : State) (c : Cmd) : Bool :=
  !(s.cmds.any fun d => !isPf0 d.f && decide (d.h < c.h) && !(s.st.long.any fun l => l.1 == d.h))

/-- Execute the admin command a handle names, if it is ready, carries the opcode and has its turn: a check that fails ends
it; data it takes that has not been read is read first. -/
def State.adminRun (s : State) (h o : Nat) (act : State → Cmd → State) : State := match s.cmd? h with
  | none => s
  | some c =>
    if !isPf0 c.f && c.ph == .ready && Ent.opc c.ent == o && s.adminTurn c then
      let st := s.check c
      if st ≠ St.success then s.adminEnd h st 0
      else if c.dataIn then act s c else s.adminRead c
    else s

/-- A command goes on in the background. -/
def State.goLong (s : State) (c : Cmd) : State :=
  State.setCmd { s with st.long := s.st.long ++ [(c.h, Ent.opc c.ent)] } { c with ph := .moving }

/-! ### Arrays (R48, R49, R51) -/

def State.portAbsent (s : State) (p : Nat) : Bool := (s.port p).state == Ps.absent || !(s.port p).ident

/-- The member breaks R27 or may take no commands. -/
def State.portUnfit (s : State) (p meta_ : Nat) : Bool :=
  (s.port p).state == Ps.rejected || (s.port p).state == Ps.disabled || (s.port p).meta_ != meta_

/-- Stripes the smallest member of a map leaves room for (R33). -/
def State.stripeRoom (s : State) (r : ArrayRec) (ports : List Nat) : Nat := match ports.map fun p => (s.port p).lbas with
  | [] => 0
  | x :: t => (t.foldl min x - 32768 - r.h) / r.b

/-- Largest free range of entries. -/
def State.entryRoom (s : State) : Nat := freeRun s.entryRanges sstEntries

/-- Every entry of an array is UNWRITTEN with GEN_LO 0 (Table 02-11 step 2). -/
def State.clearEntries (s : State) (a count : Nat) : State := (List.range count).foldl (fun s st =>
  if s.sst a st = 0 then s else s.setSst a st 0) s

/-- Record the array, clear its entries, and begin creation steps 3 to 5. -/
def State.createStart (s : State) (c : Cmd) (a base n : Nat) (r : ArrayRec) (ports : List Nat) : State :=
  let r := { r with base := base, count := n, pos := ports, ident := bytesAt (Config.freeBytes s.free 16) 0 16
                    created := s.time % 2 ^ 48, labelGen := List.replicate r.w 0, nguid := ports.map fun p => (s.port p).nguid }
  let s := State.setArr { s with free := s.free + 1 } a r
  let s := (s.clearEntries a n).setCmd { c with ph := .moving }
  (s.addTask (.create c.h) a 0 0 0 (.step 0)).2

def State.arrayCreate (s : State) (c : Cmd) : State :=
  let e := c.ent
  let r := { cfgOf (Ent.p1 e) with h := s.fld Reg.ST_LAYOUT 4 0 * 262144 }
  let ports := mapPorts r c.adminData
  let ask := Ent.p0 e
  let room := min s.entryRoom (s.stripeRoom r ports)
  let n := if ask = 0 then room else ask
  let st := firstSt [
    (decide (s.st.arrays.length ≥ 4), St.limit),
    (ports.any s.portAbsent, St.memberAbsent),
    (ports.any (fun p => s.assigned p || s.portUnfit p r.meta_) || ports.eraseDups.length != ports.length || !metaFits r ||
      decide (s.stripeRoom r ports < max 1 ask), St.memberUnsuitable),
    (n == 0 || (firstFit s.entryRanges n sstEntries).isNone, St.noSpace),
    (Ent.tgt e != 0xFFFF && (s.arr? (Ent.tgt e)).isSome, St.inUse)]
  if st ≠ St.success then s.adminEnd c.h st 0
  else
    let a := if Ent.tgt e = 0xFFFF then ((List.range 4).find? fun a => (s.arr? a).isNone).getD 0 else Ent.tgt e
    s.createStart c a ((firstFit s.entryRanges n sstEntries).getD 0) n r ports

def execArrayCreate (h : Nat) (s : State) : Out := .next (s.adminRun h 0x81 State.arrayCreate).settle

def State.arrayDelete (s : State) (c : Cmd) : State :=
  let a := Ent.tgt c.ent
  if s.st.vols.any fun e => e.2.arr == a then s.adminEnd c.h St.inUse 0
  else if s.arrIn a 3 then s.adminEnd c.h St.busy 0
  else (s.goLong c).deleteStart a c.h St.success

def execArrayDelete (h : Nat) (s : State) : Out := .next (s.adminRun h 0x82 State.arrayDelete).settle

/-! ### Volumes (R50) -/

/-- Store a volume record. -/
def State.setVol (s : State) (n : Nat) (v : Vol) : State :=
  s.keepRec (Reg.ST_VCFG + n) fun s => { s with st.vols := mapSet s.st.vols n v }

/-- Stripe runs the volumes of an array take. -/
def State.volRuns (s : State) (a : Nat) : List (Nat × Nat) :=
  (s.st.vols.filter fun e => e.2.arr == a).map fun e => (e.2.base, e.2.count)

def State.volumeCreate (s : State) (c : Cmd) : State :=
  let e := c.ent
  let a := Ent.tgt e
  let n := Ent.p0 e
  match (List.range 256).find? fun v => (s.vol? v).isNone with
  | none => s.adminEnd c.h St.limit 0
  | some v => match firstFit (s.volRuns a) n (match s.arr? a with
      | some r => r.count
      | none => 0) with
    | none => s.adminEnd c.h St.noSpace 0
    | some base =>
      let cls := Ent.p1 e % 4
      let s := s.setVol v { cls := cls, arr := a, base := base, count := n, deleting := false, prio := bits (Ent.p1 e) 18 16
                            deadline := Ent.p2 e }
      let s := if cls = 2 ∧ s.lg.replayed.testBit a then { s with sv.ready := s.sv.ready ++ [v] } else s
      s.adminEnd c.h St.success v

def execVolumeCreate (h : Nat) (s : State) : Out := .next (s.adminRun h 0x83 State.volumeCreate).settle

/-- DELETING is in the Keep, for the streams of a LOG volume too; the rest follows once no command to it is in flight. -/
def State.volumeDelete (s : State) (c : Cmd) : State :=
  let n := Ent.tgt c.ent
  match s.vol? n with
  | none => s.adminEnd c.h St.invalidVolume 0
  | some v =>
    let s := (s.goLong c).setVol n { v with deleting := true }
    (s.sv.streams.filter fun e => e.2.vol == n).foldl (fun s e =>
      s.keepRec (Reg.SV_LCFG + e.1) fun s => s.updStream e.1 fun x => { x with state := 3 }) s

def execVolumeDelete (h : Nat) (s : State) : Out := .next (s.adminRun h 0x84 State.volumeDelete).settle

def State.volumeSet (s : State) (c : Cmd) : State :=
  let n := Ent.tgt c.ent
  let p := Ent.p1 c.ent
  match s.vol? n with
  | none => s.adminEnd c.h St.invalidVolume 0
  | some v => (s.setVol n { v with deadline := if bit p 0 then Ent.p2 c.ent else v.deadline
                                   prio := if bit p 1 then bits p 18 16 else v.prio }).adminEnd c.h St.success 0

def execVolumeSet (h : Nat) (s : State) : Out := .next (s.adminRun h 0x85 State.volumeSet).settle

/-! ### Spares, streams and members -/

/-- The member of a port is too small or of another format for an array a spare is to serve (R27, R33). -/
def State.spareUnfit (s : State) (p arrays : Nat) : Bool := s.st.arrays.any fun e =>
  bit arrays e.1 && (s.portUnfit p e.2.meta_ || decide ((s.port p).lbas < e.2.needLbas))

/-- Failed positions without a target look again once a spare is there that fits (R247). -/
def State.orphansTake (s : State) : State := s.st.arrays.foldl (fun s e =>
  (s.orphans e.1).foldl (fun s p => match s.arr? e.1 with
    | some r => if s.st.spares.any fun x => s.spareFits e.1 r x.2 then s.chooseTarget e.1 p else s
    | none => s) s) s

def State.spareSet (s : State) (c : Cmd) : State :=
  let k := Ent.tgt c.ent
  let v := Ent.p1 c.ent
  let p := bits v 5 1
  if !bit v 0 then
    ((s.keepRec (Reg.ST_SPARE k) fun s => { s with st.spares := mapErase s.st.spares k }).sbSync.tlUpdate).adminEnd c.h
      St.success 0
  else
    let st := firstSt [
      ((s.port p).state == Ps.absent, St.memberAbsent),
      ((s.portPos p).isSome || s.st.spares.any (fun e => e.1 != k && e.2.port == p) || (s.port p).state == Ps.rejected ||
        s.spareUnfit p (bits v 11 8), St.memberUnsuitable)]
    if st ≠ St.success then s.adminEnd c.h st 0
    else
      let s := s.keepRec (Reg.ST_SPARE k) fun s => { s with st.spares := mapSet s.st.spares k ⟨p, bits v 11 8⟩ }
      (s.orphansTake.sbSync.tlUpdate).adminEnd c.h St.success 0

def execSpareSet (h : Nat) (s : State) : Out := .next (s.adminRun h 0x86 State.spareSet).settle

/-- Does an extent overlap one of another stream on the volume? -/
def State.extentTaken (s : State) (v base n : Nat) : Bool := s.sv.streams.any fun e =>
  e.2.vol == v && decide (e.2.base < base + n) && decide (base < e.2.base + e.2.count)

def State.streamCreate (s : State) (c : Cmd) : State :=
  let e := c.ent
  let p := Ent.p3 e
  match (List.range 1024).find? fun n => (s.stream? n).isNone with
  | none => s.adminEnd c.h St.limit 0
  | some n =>
    if s.extentTaken (Ent.tgt e) (Ent.p0 e) (Ent.p1 e) then s.adminEnd c.h St.inUse 0
    else
      let x : Stream := { state := 1, policy := leAt p 2 1 % 2, vol := Ent.tgt e, idleMs := leAt p 0 2, base := Ent.p0 e
                          count := Ent.p1 e, recMax := Ent.p2 e, retain := leAt p 4 4, trim := 0, next := 1, vis := 0
                          cur := 0, lastTime := 0, idx := [], done := [], refused := [], holes := [], holdAt := 0 }
      (s.keepRec (Reg.SV_LCFG + n) fun s => s.setStream n x).adminEnd c.h St.success n

def execStreamCreate (h : Nat) (s : State) : Out := .next (s.adminRun h 0x87 State.streamCreate).settle

/-- DELETING: commands naming the stream end with INVALID_STREAM, then its extent is cleared (Table 06-2). -/
def State.streamDelete (s : State) (c : Cmd) : State :=
  let n := Ent.tgt c.ent
  match s.extentOf (256 + n) with
  | none => s.adminEnd c.h St.invalidStream 0
  | some (a, base, _) =>
    let s := (s.goLong c).keepRec (Reg.SV_LCFG + n) fun s => s.updStream n fun x => { x with state := 3 }
    let s := (s.cmds.filter fun d => isPf0 d.f && streamOp (Ent.opc d.ent) && Ent.tgt d.ent == n &&
      (d.running || d.rd.isSome)).foldl (fun s d => s.failCmd d.h St.invalidStream) s
    (s.addTask (.volDelete c.h (256 + n)) a base 0 0 (.step 0)).2

def execStreamDelete (h : Nat) (s : State) : Out := .next (s.adminRun h 0x88 State.streamDelete).settle

/-- Cause ADMIN of Table 11-1. -/
def execMemberFail (h : Nat) (s : State) : Out :=
  .next (s.adminRun h 0x89 fun s c => (s.failMember (Ent.p1 c.ent) 8).adminEnd c.h St.success 0).settle

def State.inPlace (s : State) (c : Cmd) : State :=
  let a := Ent.tgt c.ent
  let p := Ent.p1 c.ent
  match s.arr? a with
  | none => s.adminEnd c.h St.invalidField 0
  | some r =>
    let port := r.port p
    if (s.port port).state = Ps.absent then s.adminEnd c.h St.memberAbsent 0
    else if s.inPlaceOk port r = false then s.adminEnd c.h St.memberUnsuitable 0
    else (s.takeTarget a p port true).adminEnd c.h St.success 0

def execRebuildInPlace (h : Nat) (s : State) : Out := .next (s.adminRun h 0x8A State.inPlace).settle

/-- A release writes a CLOSE with FRAME 0xF_FFFE before the stripe leaves LOST (Table 05-2). -/
def State.stripeRelease (s : State) (c : Cmd) : State :=
  let a := Ent.tgt c.ent
  let st := Ent.p0 c.ent
  (s.setCmd { c with ph := .moving }).lgAsk {
    unit := 1, kind := Lk.close, arr := a, stripe := st, gen := s.genNow a st, mask := 0, frame := 0xFFFFE, dump := []
    cont := .release c.h, counted := false }

def execStripeRelease (h : Nat) (s : State) : Out := .next (s.adminRun h 0x8B State.stripeRelease).settle

/-! ### Mode, write-back, time, notices (R345, R349) -/

/-- An OFFLINE array returns to ONLINE: walks and scrubs resume, PARKED frames re-enter READY (R257). -/
def State.backOnline (s : State) (a : Nat) : State := match s.arr? a with
  | none => s
  | some r =>
    if r.state ≠ 2 then s
    else (((s.setArr a { r with state := 1 }).walkResume a).scrubResume a).unpark fun f => f.arr == a

def State.setMode (s : State) (m : Nat) : State :=
  if s.mode = m then s
  else
    let s := s.setFld Reg.RV_MODE 1 0 m
    if m = 2 then (List.range 4).foldl State.backOnline s else if m = 1 then s.offlineAll else s

def execSetMode (h : Nat) (s : State) : Out :=
  .next (s.adminRun h 0x8C fun s c => (s.setMode (Ent.p1 c.ent + 1)).adminEnd c.h St.success 0).settle

/-- WB set: completes at once. WB clear: completes once WT_ACTIVE is set. -/
def State.writeBack (s : State) (c : Cmd) : State :=
  if Ent.p1 c.ent = 1 then s.wbSet.adminEnd c.h St.success 0
  else
    let s := s.goLong c
    if s.wbOn then s.wbClear else s

def execWriteBack (h : Nat) (s : State) : Out := .next (s.adminRun h 0x8D State.writeBack).settle

/-- The offset between the AON count and device time is stored in the Keep (R345). -/
def State.timeSet (s : State) (t : Nat) : State :=
  (s.keepRec (Reg.SS_TSAVE_LO + 8) fun s => { s with kp.timeOff := (t + 2 ^ 64 - s.now % 2 ^ 64) % 2 ^ 64 }).setFlag
    Reg.SS_STATUS 11 false

def execTimeSet (h : Nat) (s : State) : Out :=
  .next (s.adminRun h 0x8E fun s c => (s.timeSet (Ent.p0 c.ent)).adminEnd c.h St.success s.time).settle

def execCommission (h : Nat) (s : State) : Out :=
  .next (s.adminRun h 0x8F fun s c => ((s.goLong c).commStart c.h).mwTell s).settle

def execNoticeRoute (h : Nat) (s : State) : Out :=
  .next (s.adminRun h 0x97 fun s c => State.adminEnd
    { s with rg.routeRing := Ent.p1 c.ent % 4, rg.routeSev := bits (Ent.p1 c.ent) 6 4 } c.h St.success 0).settle

/-! ### Imports (R108, R173) -/

def State.arrayImport (s : State) (c : Cmd) : State :=
  if s.st.arrays.length ≥ 4 then s.adminEnd c.h St.limit 0
  else (((s.goLong c).setFlag Reg.LG_STATUS 5 true).addTask (.import_ c.h) 0 0 0 0 (.step 0)).2

def execArrayImport (h : Nat) (s : State) : Out := .next (s.adminRun h 0x90 State.arrayImport).settle

/-- An import waits for nothing; while a restore still runs, R173 is not met. -/
def State.imageImport (s : State) (c : Cmd) : State :=
  if s.hm.restore.isSome then s.adminEnd c.h St.imageInvalid 0 else (s.goLong c).rsImport c.h

def execImageImport (h : Nat) (s : State) : Out := .next (s.adminRun h 0x91 State.imageImport).settle

/-! ### Firmware (R346) -/

/-- The staging area in SRAM. -/
def fwArea : Nat := 0x1000002000000

def execFwDownload (h : Nat) (s : State) : Out :=
  .next (s.adminRun h 0x92 fun s c => (s.memPut (fwArea + Ent.p0 c.ent) c.adminData).adminEnd c.h St.success 0).settle

/-- The image of a length checks: the command waits for the restart. -/
def State.fwActivate (s : State) (c : Cmd) : State :=
  let n := Ent.p1 c.ent
  if 1 ≤ n ∧ n ≤ 1048576 ∧ Config.fwVerify (s.memN fwArea n) then s.setCmd { c with ph := .waiting, since := s.now }
  else s.adminEnd c.h St.imageInvalid 0

def execFwActivate (h : Nat) (s : State) : Out := .next (s.adminRun h 0x93 State.fwActivate).settle

/-- The Reeve restarts on the activated image, which deposits the completion of FW_ACTIVATE. -/
def State.fwGo (s : State) : State := match s.cmds.find? fun c => !isPf0 c.f && Ent.opc c.ent == 0x93 && c.ph == .waiting with
  | none => s
  | some c =>
    let v := (Config.fwVersion (s.memN fwArea (Ent.p1 c.ent))).toNat
    ((s.setReg Reg.RV_FW v).setFlag Reg.RV_FW_SRC 0 true).adminEnd c.h St.success v

def execFwRestart (s : State) : Out := .next s.fwGo.settle

/-! ### Authorisation (R359, R360, R371) -/

def State.getNonce (s : State) (c : Cmd) : State :=
  let (v, s) := s.newNonce
  (s.hostWriteSegs c.f c.segs 0 v).adminEnd c.h St.success 0

def execGetNonce (h : Nat) (s : State) : Out := .next (s.adminRun h 0x94 State.getNonce).settle

/-- The nonce is spent; the clear runs if the HMAC verified. -/
def State.almanacClear (s : State) (c : Cmd) : State :=
  let b := c.adminData
  let ok := s.authOk b
  let s : State := { s with kp.nonce := none }
  if ok then (s.alClear (leAt b 0 2) (leAt b 2 2)).adminEnd c.h St.success 0 else s.adminEnd c.h St.authFailed 0

def execAlmanacClear (h : Nat) (s : State) : Out := .next (s.adminRun h 0x95 State.almanacClear).settle

def State.keySet (s : State) (c : Cmd) : State :=
  if s.keyIsSet then s.adminEnd c.h St.inUse 0 else (s.keyWrite c.adminData).adminEnd c.h St.success 0

def execKeySet (h : Nat) (s : State) : Out := .next (s.adminRun h 0x96 State.keySet).settle

end Sys2Proof.Machine
end

