-- ==== Sys2Proof/Machine/Views.lean ====
section
/-! DEFINITION. What a read of a register shows (R5, R6, R390 to R392): the registers whose value follows from other state,
the Description ROM (R310), and the 64-bit pairs. -/

namespace Sys2Proof.Machine

/-! ### Registers that show other state, by page -/

/-- The register set, doorbell or slot of a ring at a key: function, completion ring or not, number, offset in the set;
offset 0x40 stands for its doorbell. -/
def ringAt (k : Nat) : Option (Func × Bool × Nat × Nat) :=
  if 0x110000 ≤ k ∧ k < 0x114000 then some (.pf0, false, (k - 0x110000) / 64, k % 64)
  else if 0x114000 ≤ k ∧ k < 0x118000 then some (.pf0, true, (k - 0x114000) / 64, k % 64)
  else if 0x4000 ≤ k ∧ k < 0x4100 then some (.pf1, false, (k - 0x4000) / 64, k % 64)
  else if 0x4100 ≤ k ∧ k < 0x4200 then some (.pf1, true, (k - 0x4100) / 64, k % 64)
  else if k % 8 ≠ 0 then none
  else if 0x140000 ≤ k ∧ k < 0x140800 then some (.pf0, false, (k - 0x140000) / 8, 0x40)
  else if 0x140800 ≤ k ∧ k < 0x141000 then some (.pf0, true, (k - 0x140800) / 8, 0x40)
  else if 0x4200 ≤ k ∧ k < 0x4220 then some (.pf1, false, (k - 0x4200) / 8, 0x40)
  else if 0x4240 ≤ k ∧ k < 0x4260 then some (.pf1, true, (k - 0x4240) / 8, 0x40)
  else none

/-- Submission ring registers that show the ring's state. -/
def State.sqView (s : State) (f : Func) (q o : Nat) : Option Nat :=
  let r := s.sq f q
  if o = 0x18 then some (r.state + 16 * r.err)
  else if o = 0x1C then some r.head
  else if o = 0x20 then some r.pub
  else if o = 0x24 then some (r.count % 2 ^ 32)
  else if o = 0x40 then some r.tail
  else none

/-- Completion ring registers that show the ring's state. -/
def State.cqView (s : State) (f : Func) (c o : Nat) : Option Nat :=
  let r := s.cq f c
  if o = 0x18 then some (r.state + 8 * b2n r.stalled + 256 * s.cqCredits f c + 65536 * r.hold.length)
  else if o = 0x1C then some r.head
  else if o = 0x20 then some r.tail
  else if o = 0x24 then some (r.count % 2 ^ 32)
  else if o = 0x28 then some (sat32 r.stalls)
  else if o = 0x40 then some r.head
  else none

/-- ST page: free entries, arrays, spares and the selected volume. ST_EDATA is read through the State Cache. -/
def State.stView (s : State) (k : Nat) : Option Nat :=
  if k = Reg.ST_FREE then some (sstEntries - sumN (s.entryRanges.map (·.2)))
  else if k = Reg.ST_FREE_RUN then some (freeRun s.entryRanges sstEntries)
  else if k = Reg.ST_EDATA then
    let a := s.fld Reg.ST_EIDX 25 24
    let n := s.fld Reg.ST_EIDX 23 0
    some (match s.arr? a with
      | some r => if n < r.count then s.sst a n else 0xFFFFFFFF
      | none => 0xFFFFFFFF)
  else if 0x8100 ≤ k ∧ k < 0x8200 then
    let a := (k - 0x8100) / 64
    let o := (k - 0x8100) % 64
    let count := fun (r : ArrayRec) st => ((List.range r.count).filter fun n => s.sstState a n == st).length
    some (match s.arr? a with
      | none => 0
      | some r =>
        if o = 0x00 then arrCfg r else if o = 0x04 then r.base else if o = 0x08 then r.count
        else if o = 0x0C then r.epoch % 2 ^ 24 else if o = 0x10 then r.failed
        else if o = 0x14 then count r Sst.lost else if o = 0x18 then count r Sst.resyncDue
        else if 0x20 ≤ o then
          sumN ((List.range 4).map fun i =>
            let p := o - 0x20 + i
            if p < r.w then (r.port p % 32 + 128) * 256 ^ i else 0)
        else 0)
  else if 0x8200 ≤ k ∧ k < 0x8210 then
    some (match mapGet? s.st.spares ((k - 0x8200) / 4) with
      | some x => 1 + 2 * (x.port % 32) + 256 * (x.arrays % 16)
      | none => 0)
  else if k = Reg.ST_VCFG ∨ k = Reg.ST_VBASE ∨ k = Reg.ST_VCOUNT then
    some (match s.vol? (s.fld Reg.ST_VSEL 7 0) with
      | some v => if k = Reg.ST_VCFG then volCfg v else if k = Reg.ST_VBASE then v.base else v.count
      | none => 0)
  else none

/-- LM page. -/
def State.lmView (s : State) (k : Nat) : Option Nat :=
  let ql := fun q => (s.loomQ q).length
  if k = Reg.LM_STATUS then
    some (b2n (s.lm.waiting.isEmpty && (List.range 4).all (fun q => ql q == 0) && s.lm.ctx.isEmpty) +
      2 * b2n (s.flag Reg.LM_CTRL 0 && s.lm.ctx.isEmpty) + 4 * b2n (s.flag k 2) +
      8 * b2n (s.lm.ctx.any fun e => e.2.parked) + 16 * b2n (s.flag k 4) + 256 * s.lm.ctx.length)
  else if 0x9010 ≤ k ∧ k < 0x9020 then some (setBits (s.reg k) 5 0 (ql ((k - 0x9010) / 4)))
  else if k = Reg.LM_CTRL then some (if s.testMode then s.reg k else 0)
  else none

/-- LD page. -/
def State.ldView (s : State) (k : Nat) : Option Nat :=
  let parked := (s.ld.frames.filter fun e => e.2.state == Fs.parked).length
  if k = Reg.LD_STATUS then
    some (setBits (setBits (s.reg k) 2 2 (b2n (parked != 0))) 3 3 (b2n !s.ld.slotQ.isEmpty))
  else if k = Reg.LD_DIRTY_LO then some (s.ldDirty % 2 ^ 32)
  else if k = Reg.LD_DIRTY_HI then some (s.ldDirty / 2 ^ 32)
  else if k = Reg.LD_HELD_LO then some (s.ldHeld % 2 ^ 32)
  else if k = Reg.LD_HELD_HI then some (s.ldHeld / 2 ^ 32)
  else if k = Reg.LD_FREE then some ((slotArea - sumN (s.slotRanges.map (·.2))) / 16384)
  else if k = Reg.LD_DESC_FREE then some (262144 - s.slotRanges.length)
  else if k = Reg.LD_FRAMES then some s.ld.frames.length
  else if k = Reg.LD_PARKED then some parked
  else if k = Reg.SC_STATUS then some (setBits (setBits (s.reg k) 13 8 s.sc.buf.length) 21 16 s.sc.miss.length)
  else none

/-- LG page. -/
def State.lgView (s : State) (k : Nat) : Option Nat :=
  let isLoad := fun (t : Task) => match t.kind with
    | .load _ => true
    | _ => false
  if k = Reg.LG_STATUS then
    some (b2n (s.md.tasks.any isLoad || s.lg.replaying != 0) + 2 * b2n (s.lg.reqs.any s.lgRingBlocked) + 4 * b2n (!s.lg.moving.isEmpty) +
      8 * b2n (s.st.arrays.any fun e => e.2.copies.length == 1) + s.reg k / 16 % 4 * 16)
  else if k = Reg.LG_TAIL_LO then some (s.lgTail % 2 ^ 32)
  else if k = Reg.LG_TAIL_HI then some (s.lgTail / 2 ^ 32 % 2 ^ 32)
  else if k = Reg.LG_LIVE then some (s.lgCount + 65536 * s.lgOpen.length)
  else if 0xA040 ≤ k ∧ k < 0xA050 then
    let one := fun (c : Option Nat) => match c with
      | some p => p % 32 + 128
      | none => 0
    some (match s.arr? ((k - 0xA040) / 4) with
      | some r => one r.copyA + 256 * one r.copyB + 65536 * r.moves
      | none => 0)
  else none

/-- Stream registers of SV at an offset from SV_LCFG. -/
def streamView (x : Stream) (o : Nat) : Nat :=
  let lo := fun v => v % 2 ^ 32
  let hi := fun v => v / 2 ^ 32 % 2 ^ 32
  match o / 4 with
  | 0 => streamCfg x
  | 1 => x.base
  | 2 => x.count
  | 3 => x.recMax
  | 4 => x.retain
  | 5 => lo x.next
  | 6 => hi x.next
  | 7 => lo x.vis
  | 8 => hi x.vis
  | 9 => lo x.oldest
  | 10 => hi x.oldest
  | 11 => lo x.trim
  | 12 => hi x.trim
  | _ => x.cur

/-- SV page. -/
def State.svView (s : State) (k : Nat) : Option Nat :=
  if k = Reg.SV_STATUS then some (b2n s.sv.bootT.isSome + 2 * b2n s.sv.recovering)
  else if k = Reg.SV_BOOT then some ((s.st.vols.filter fun e => e.2.cls == 2).length + 65536 * s.sv.ready.length)
  else if k = Reg.SV_BOOT_T then some (sat32 (s.sv.bootT.getD 0xFFFFFFFF))
  else if 0x4810 ≤ k ∧ k < 0x4830 then
    let n := (k - 0x4810) / 4
    some (toMask ((s.sv.ready.filter fun v => v / 32 == n).map (· % 32)))
  else if k = Reg.SV_VBOOT then
    some (match s.vol? (s.fld Reg.SV_VSEL 7 0) with
      | some v => if v.cls = 2 then v.prio % 8 else 0
      | none => 0)
  else if Reg.SV_LCFG ≤ k ∧ k ≤ Reg.SV_LCUR then
    some (match s.stream? (s.fld Reg.SV_LSEL 9 0) with
      | some x => streamView x (k - Reg.SV_LCFG)
      | none => 0)
  else none

/-- TL page. -/
def State.tlView (s : State) (k : Nat) : Option Nat :=
  if k = Reg.TL_STATUS then some (setBits (s.reg k) 9 9 (b2n !s.tl.waitQ.isEmpty))
  else if k = Reg.TL_COMMIT_LO then some (s.committed % 2 ^ 32)
  else if k = Reg.TL_COMMIT_HI then some (s.committed / 2 ^ 32)
  else if k = Reg.TL_USE_EBYTE then some s.useE
  else if k = Reg.TL_USE_PBASE then some s.useP
  else if k = Reg.TL_USE_TFIX then some s.useT
  else if k = Reg.TL_USE_BDUMP then some s.bDump
  else if k = Reg.TL_USE_CORR then some s.useK
  else if k = Reg.TL_USE_MH then some s.mh
  else none

/-- HM page: the directory (Table 08-6). -/
def State.hmView (s : State) (k : Nat) : Option Nat :=
  if k = Reg.HM_DIR then some s.dirState
  else if k = Reg.HM_IMAGE_LO then some (s.dirId % 2 ^ 32)
  else if k = Reg.HM_IMAGE_HI then some (s.dirId / 2 ^ 32)
  else if k = Reg.HM_DIRTY_LO then some (s.keepNat (hmDir + 0x18) 4)
  else if k = Reg.HM_DIRTY_HI then some (s.keepNat (hmDir + 0x1C) 4)
  else if k = Reg.HM_ROWS then some (s.keepNat (hmDir + 0x28) 4)
  else if k = Reg.HM_FRAMES then some (s.keepNat (hmDir + 0x2C) 4)
  else if k = Reg.HM_PORTS then some (s.keepNat (hmDir + 0x20) 4)
  else if k = Reg.HM_SEAL_US then some (sat32 (s.keepNat (hmDir + 0x48) 8 - s.keepNat (hmDir + 0x10) 8))
  else if k = Reg.HM_SKIPPED then some (s.keepNat (hmDir + 0x44) 4)
  else none

/-- The stripes a walk has still to finish. -/
def State.walkLeft (s : State) (a : Nat) (r : ArrayRec) : Nat :=
  maxN ((s.targets a).map fun p => match mapGet? s.md.pos (32 * a + p) with
    | some x => x.join + r.count - (s.walk a).walked
    | none => 0)

/-- Registers of an array in the MD page. -/
def State.mdArr (s : State) (a o : Nat) : Nat :=
  let off := s.keepNat (ckBase a + 0x10) 8
  if o = 0x00 then toMask (s.targets a)
  else if o = 0x04 then (match s.arr? a with
    | some r => (s.walk a).issued % r.count
    | none => 0)
  else if o = 0x08 then (match s.arr? a with
    | some r => s.walkLeft a r
    | none => 0)
  else if o = 0x0C then bits (s.keepNat (ckBase a + 8) 8) 23 0
  else if o = 0x10 then s.scrubPasses a
  else off % 2 ^ 27 + off / 2 ^ 63 * 2 ^ 31

/-- MD page. -/
def State.mdView (s : State) (k : Nat) : Option Nat :=
  if k = Reg.MD_STATUS then
    let m := fun (p : Nat → Bool) => toMask ((List.range 4).filter p)
    some (m (fun a => (s.walk a).active) + 16 * m (fun a => (s.scrubOf a).running) +
      256 * m (fun a => !(s.resyncWaits a).isEmpty || s.md.tasks.any fun t => t.arr == a && t.kind == .resync) +
      4096 * b2n ((List.range 4).any fun a => !(s.orphans a).isEmpty) + 8192 * b2n (decide (s.md.repq.length ≥ 256)))
  else if 0xC100 ≤ k ∧ k < 0xC200 then some (s.mdArr ((k - 0xC100) / 64) ((k - 0xC100) % 64))
  else none

/-- MP_Pn_STATE. -/
def Port.word (q : Port) : Nat :=
  q.state % 8 + 8 * b2n q.vwc + 16 * b2n q.warn + 32 * b2n q.down + q.meta_ % 4 * 64 + q.ioq % 16 * 256 +
  q.depth % 512 * 4096 + q.lanes % 8 * 2 ^ 21 + q.speed % 8 * 2 ^ 24 + q.reason % 8 * 2 ^ 27

/-- Ports of a property. -/
def State.portMask (s : State) (p : Port → Bool) : Nat := toMask ((List.range 32).filter fun n => p (s.port n))

/-- MP page. -/
def State.mpView (s : State) (k : Nat) : Option Nat :=
  if k = Reg.MP_READY then some (s.portMask fun q => q.state == Ps.ready)
  else if k = Reg.MP_PRESENT then some (s.portMask (·.present))
  else if k = Reg.MP_QSTAT then some s.mp.widths
  else if k = Reg.MP_VDL then
    some (match s.vol? (s.fld Reg.MP_VDL_SEL 7 0) with
      | some v => v.deadline
      | none => 50)
  else if 0xB400 ≤ k ∧ k < 0xB800 then
    let p := (k - 0xB400) / 32
    let io := s.mp.cmds.filter fun c => c.port == p && c.qp != 0
    if k % 32 = 0 then some (s.port p).word
    else if k % 32 = 4 then
      some ((io.filter fun c => !c.timedOut).length +
        65536 * (s.mp.cmds.filter fun c => c.port == p && c.timedOut).length)
    else none
  else none

/-- BK, HP and WT pages; BK_IDATA of an instance whose occupancy nothing states is in `regRead`. -/
def State.bkView (s : State) (k : Nat) : Option Nat :=
  let inl := s.rg.inl.length
  let col := s.rg.col.length
  if k = Reg.BK_INL_STATUS then some (setBits (s.reg k) 8 0 (inl + 256 * b2n (decide (inl ≥ 128))))
  else if k = Reg.BK_COL_STATUS then
    some (col + 512 * b2n (decide (col ≥ 256)) + 1024 * b2n (s.flag k 10) + 4096 * s.poolUsed +
      2 ^ 20 * sumN (s.rg.cq.map fun e => e.2.hold.length))
  else if k = Reg.HP_NP then some (s.hp.reads.length + 65536 * s.hp.quar.length)
  else if k = Reg.WT_STATUS then some ((List.range 64).filter fun w => s.flag (Reg.WT_E_CTRL w) 0).length
  else none

/-- KP, AL, SP and TD pages. -/
def State.kpView (s : State) (k : Nat) : Option Nat :=
  let w := s.wear (s.fld Reg.KP_WSEL 7 0)
  if k = Reg.KP_WEAR_LO then some (w % 2 ^ 32)
  else if k = Reg.KP_WEAR_HI then some (w / 2 ^ 32 % 2 ^ 32)
  else if k = Reg.AL_STATUS then
    some (s.al.cur.slot.getD 0x1FF + 1024 * b2n (s.fld Reg.AL_FOUND 6 0 == 64) + 2048 * s.al.cur.sev)
  else if Reg.SP_RES_A0 ≤ k ∧ k ≤ Reg.SP_RES_A3 then
    let x := (k - Reg.SP_RES_A0) / 4
    some (sat32 ((mapGetD s.pw.resUs x 0 + (if s.spState = x then s.now - s.pw.stateAt else 0)) / 1000))
  else if k = Reg.TD_SCAN_DATA then
    let m := s.fld Reg.TD_SCAN_SEL 2 0
    some (s.pw.laps.getD m 0 % 65536 + Config.lapTrim m % 65536 * 65536)
  else none

/-- What a register shows where it is no plain stored value. PF1 has neither ring classes nor chosen credit limits. -/
def State.view (s : State) (k : Nat) : Option Nat := match ringAt k with
  | some (f, isCq, q, o) =>
    if o = 0x08 ∧ !isPf0 f then some (if isCq then setBits (s.reg k) 31 24 4 else setBits (s.reg k) 9 8 0)
    else if isCq then s.cqView f q o else s.sqView f q o
  | none => match k / 4096 with
    | 0x4 => s.svView k
    | 0x6 | 0x7 => s.ldView k
    | 0x8 => s.stView k
    | 0x9 => s.lmView k
    | 0xA => s.lgView k
    | 0xB => s.mpView k
    | 0xC => s.mdView k
    | 0xD => s.hmView k
    | 0xF => s.tlView k
    | 0x2 | 0x3 | 0x15 => s.bkView k
    | 0xE | 0x13 | 0x14 | 0x16 => s.kpView k
    | _ => none

/-- Value of a register, before any effect of the read; 0 where reserved (R6, R391). -/
def State.regNow (s : State) (k : Nat) : Nat := match regDesc? k with
  | none => 0
  | some _ => (s.view k).getD (s.reg k)

/-! ### Reading (R392) -/

/-- LO halves at fixed places. -/
def loKeys : List Nat :=
  [Reg.LM_INBYTES_LO, Reg.LM_TJOB_LO, Reg.LD_DIRTY_LO, Reg.LD_HELD_LO, Reg.LD_PROBE_BLK_LO, Reg.LD_PROBE_ADDR_LO,
   Reg.LG_HEAD_LO, Reg.LG_TAIL_LO, Reg.SV_LNEXT_LO, Reg.SV_LVIS_LO, Reg.SV_LOLD_LO, Reg.SV_LTRIM_LO, Reg.TL_CEIL_LO,
   Reg.TL_COMMIT_LO, Reg.HM_IMAGE_LO, Reg.HM_DIRTY_LO, Reg.MW_SPDIN_LO, Reg.GA_REC_SEQ_LO, Reg.KP_WEAR_LO,
   Reg.KP_NONCE_CTR_LO, Reg.AL_SEQ_LO, Reg.SS_TSAVE_LO]

/-- Is a register the LO half of a pair? The HI half follows it. -/
def isLo (k : Nat) : Bool := match ringAt k with
  | some (_, isCq, _, o) => o == 0x00 || (!isCq && o == 0x0C)
  | none => loKeys.contains k || (decide (0x3100 ≤ k) && decide (k < 0x3500) && k % 16 == 8)

/-- Stages of a Basket instance (Table 14-4); 0 for none. -/
def basketStages (n : Nat) : Nat :=
  if n = 0 then 128 else if n = 1 then 256 else if n = 2 ∨ n = 4 ∨ n = 5 then 64 else if n = 3 then 128 else if 8 ≤ n ∧ n ≤ 39 then 32 else 0

/-- Rows of the image that dump frames being written lie in. -/
def State.dumpRows (s : State) : Nat := ((s.mp.cmds ++ s.mp.wait).filterMap fun c => match c.client with
  | .dump p => if c.op = .flush then none else some ((c.lba - s.hmBase p) / 64)
  | _ => none).eraseDups.length

/-- Items a producer has for a Basket instance: entries being fetched, frames READY, repair entries, dump frames being written, and
commands that wait at a member port (Table 14-4; DEDUCED, log entry 145). -/
def State.basketItems (s : State) (n : Nat) : Nat :=
  if n = 0 then s.rg.inl.length
  else if n = 1 then s.rg.col.length
  else if n = 2 then s.fetchCredits fun _ _ => true
  else if n = 3 then (s.framesIn fun f => f.state == Fs.ready).length
  else if n = 4 then s.md.repq.length
  else if n = 5 then s.dumpRows
  else (s.mp.wait.filter fun c => c.port + 8 == n).length

/-- Credits a producer holds for an internal instance (R15): items beyond its stages wait at the producer. -/
def State.basketCredits (s : State) (n : Nat) : Nat := basketStages n - s.basketItems n

/-- BK_IDATA of the instance selected: occupancy, stages and the full flag (R326, R329). -/
def State.idata (s : State) : Nat :=
  let n := s.fld Reg.BK_ISEL 5 0
  let st := basketStages n
  let occ := st - s.basketCredits n
  if st = 0 then 0 else occ + 512 * st + 2 ^ 18 * b2n (occ == st)

/-- Value a read gives, with the effects some registers' reads have: LD_PROBE looks up, ST_EDATA goes through the State
Cache; input current, power and energy are measured outside the commands, so each read gives a free value. -/
def State.regEffect (s : State) (k : Nat) : Nat × State :=
  if k = Reg.LD_PROBE then
    let s := s.ldProbe
    (s.regNow k, s)
  else if k = Reg.ST_EDATA then (s.regNow k, s.sstLook Req.reeve (s.fld Reg.ST_EIDX 25 24) (s.fld Reg.ST_EIDX 23 0))
  else if k = Reg.SS_IIN then s.freeBelow (2 ^ 16)
  else if k = Reg.SS_PIN ∨ k = Reg.SS_EIN then s.freeBelow (2 ^ 32)
  else if k = Reg.BK_IDATA then (s.idata, s)
  else (s.regNow k, s)

/-- Read a register: a HI half latched by the read of its LO half shows the latched value once; a read of a LO half latches
its HI half. -/
def State.regRead (s : State) (k : Nat) : W32 × State := match mapGet? s.latch k with
  | some v => (v, { s with latch := mapErase s.latch k })
  | none =>
    let (v, s) := s.regEffect k
    let s := if isLo k then { s with latch := mapSet s.latch (k + 4) (BitVec.ofNat 32 (s.regNow (k + 4))) } else s
    (BitVec.ofNat 32 v, s)

/-! ### The Description ROM (R310, Tables 13-9 and 13-10) -/

/-- A block descriptor: prefix, version, instances, page. -/
def romBlock (b : Nat × Nat × Nat) : List Byte := toLe 1 b.1 ++ toLe 1 b.2.1 ++ [1, 1] ++ toLe 4 b.2.2

/-- The blocks in the order of Table 01-1, as the two letters of the prefix and the page. -/
def romBlocks : List (Nat × Nat × Nat) :=
  [(0x48, 0x50, 0x2000), (0x57, 0x54, 0x3000), (0x52, 0x47, 0x4000), (0x42, 0x4B, 0x15100), (0x53, 0x56, 0x4800),
   (0x4C, 0x44, 0x6000), (0x44, 0x43, 0x6800), (0x53, 0x43, 0x7000), (0x53, 0x54, 0x8000), (0x4C, 0x4D, 0x9000),
   (0x4C, 0x47, 0xA000), (0x4D, 0x50, 0xB000), (0x4D, 0x44, 0xC000), (0x48, 0x4D, 0xD000), (0x4B, 0x50, 0xE000),
   (0x54, 0x4C, 0xF000), (0x4D, 0x57, 0x10000), (0x47, 0x41, 0x11000), (0x53, 0x53, 0x12000), (0x41, 0x4C, 0x13000),
   (0x53, 0x50, 0x14000), (0x52, 0x56, 0x1000), (0x4C, 0x4E, 0x15000), (0x54, 0x44, 0x16000)]

/-- Capability words. -/
def romCaps : List Nat :=
  [4 + 32 * 2 ^ 8 + 4 * 2 ^ 16 + 4 * 2 ^ 24, 256 + 1024 * 2 ^ 16, 0x1000000, 256 + 4 * 2 ^ 16, 16384,
   1024 + 40 * 2 ^ 16, 0x1F + 7 * 2 ^ 5 + 2 ^ 8 + 2 ^ 9, 0]

/-- The ROM's bytes before its CRC that are not zeros at the end. -/
def romBody : List Byte :=
  [0x4C, 0x45, 0x42, 0x45, 0x41, 0x4E, 0x41, 0x00] ++ toLe 2 1 ++ toLe 2 0x9032 ++ [0xB1, 24, 0, 0] ++
  romCaps.flatMap (toLe 4) ++ zeros 16 ++ romBlocks.flatMap romBlock ++ zeros 1792 ++ coefTable

/-- The ROM. -/
def romBytes : List Byte :=
  let b := bytesAt romBody 0 0xFFC
  b ++ toLe 4 (crc32c b)

/-! ### Everything in BAR0 of a function -/

/-- MSI-X vector and dword of a table offset of BAR0. -/
def msixAt (f : Func) (off : Nat) : Option (Nat × Nat) :=
  let base := if isPf0 f then 0x20000 else 0x5000
  let n := if isPf0 f then 256 else 32
  if base ≤ off ∧ off < base + 16 * n then some ((off - base) / 16, (off - base) % 16 / 4) else none

/-- A dword of an MSI-X table entry. -/
def Msix.dword (m : Msix) (i : Nat) : Nat :=
  if i = 0 then m.addr % 2 ^ 32 else if i = 1 then m.addr / 2 ^ 32 else if i = 2 then m.data else b2n m.mask

/-- A dword of the pending bit array; none outside it. -/
def State.pbaAt (s : State) (f : Func) (off : Nat) : Option Nat :=
  let base := if isPf0 f then 0x21000 else 0x5800
  let n := if isPf0 f then 256 else 32
  if base ≤ off ∧ off < base + n / 8 then
    some (toMask ((List.range 32).filter fun i => (s.msixEnt f (8 * (off - base) + i)).pend))
  else none

/-- Read the dword at an offset of BAR0: ROM, MSI-X table and PBA, snapshot buffer, Keep view, registers. -/
def State.barRead (s : State) (f : Func) (off : Nat) : W32 × State :=
  let w := fun (v : Nat) (s : State) => (BitVec.ofNat 32 v, s)
  if off < 0x1000 then w (leAt romBytes off 4) s
  else match msixAt f off with
    | some (v, i) => w ((s.msixEnt f v).dword i) s
    | none => match s.pbaAt f off with
      | some v => w v s
      | none =>
        if isPf0 f then s.regRead (0x100000 + off)
        else if 0x13400 ≤ off ∧ off < 0x13800 then w (leAt s.al.rbuf (off - 0x13400) 4) s
        else if 0x20000 ≤ off then
          w (leNat (s.keepView (s.fld Reg.HP_KVIEW 2 0 * 131072 + (off - 0x20000)) 4)) { s with free := s.free + 1 }
        else s.regRead off

/-- Function and offset of a register key. -/
def keyFn (k : Nat) : Func × Nat := if k ≥ 0x100000 then (.pf0, k - 0x100000) else (.pf1, k)

/-- A read of the LO half of a pair at a register key (PF1 BAR0 offset, or PF0 BAR0 offset plus 0x10_0000). During Freeze a
read of PF0 returns all ones and reaches no register (R299). -/
def execLoLatchRead (off : Nat) (s : State) : Out :=
  .next <| if isLo off = false then s
    else
      let f := (keyFn off).1
      if s.pf0Dropped f then s.put [.barReply f 0 (ones 4)]
      else
        let (v, s) := s.regRead off
        s.put [.barReply f 0 (toLe 4 v.toNat)]

end Sys2Proof.Machine
end

