-- ==== Sys2Proof/Machine/Registers.lean ====
section
/-! DEFINITION. Writes to registers (R5 to R8, R289, R312): fields by their types, the limits the register tables give, KW
fields with their Keep words (R354), the MSI-X table, and the console (R409). Bits that have a row of their own are left to
it. -/

namespace Sys2Proof.Machine

/-! ### Fields by their types -/

/-- A register after a write, one field at a time: RW set, W1C and W1S by the ones written; RO, WO and KW as they were. -/
def RField.apply (v acc : Nat) (x : RField) : Nat := match x.ty with
  | .rw => setBits acc x.hi x.lo (bits v x.hi x.lo)
  | .w1c => setBits acc x.hi x.lo (bits acc x.hi x.lo &&& (bits v x.hi x.lo ^^^ (2 ^ (x.hi + 1 - x.lo) - 1)))
  | .w1s => setBits acc x.hi x.lo (bits acc x.hi x.lo ||| bits v x.hi x.lo)
  | .ro | .wo | .kw => acc

def RegDesc.write (d : RegDesc) (old v : Nat) : Nat := d.fields.foldl (RField.apply v) old

/-- Bits of RW registers that rows of their own write: ring enables, doorbells, LD_CTRL.WB, SC_CTRL.EN, AL_RSEL. -/
def rowBits (k : Nat) : Nat := match ringAt k with
  | some (_, _, _, o) => if o = 0x14 then 1 else if o = 0x40 then 0xFFFFFFFF else 0
  | none => if k = Reg.LD_CTRL ∨ k = Reg.SC_CTRL then 1 else if k = Reg.AL_RSEL then 0xFFFFFFFF else 0

/-- Take the bits of a mask from the old value. -/
def keepBits (m old new : Nat) : Nat := (new &&& (m ^^^ 0xFFFFFFFF)) ||| (old &&& m)

/-- Store a plain write. -/
def State.regStore (s : State) (k v : Nat) : State := match regDesc? k with
  | none => s
  | some d => s.setReg k (keepBits (rowBits k) (s.reg k) (d.write (s.reg k) v))

/-! ### Registers with limits of their own -/

/-- A configuration register or the start position of a ring (R312, R325). -/
def State.ringStore (s : State) (f : Func) (isCq : Bool) (q o k v : Nat) : State :=
  let st := if isCq then (s.cq f q).state else (s.sq f q).state
  if !isCq && o == 0x1C then
    if st = 0 then s.updSq f q fun r => { r with head := v % 2 ^ 17 } else s
  else if o ≤ 0x10 then
    if st ≠ 0 then s.cfgErr f
    else
      let old := s.reg k
      let v := if !isCq && o == 0x0C then v / 8 * 8 else v
      let v := if isPf0 f ∨ o ≠ 0x08 then v
        else if isCq then setBits v 31 24 (bits old 31 24) else setBits v 9 8 (bits old 9 8)
      s.regStore k v
  else s.regStore k v

/-- A write to a register with no row of its own. -/
def State.regWrite (s : State) (k v : Nat) : State := match ringAt k with
  | some (f, isCq, q, o) => s.ringStore f isCq q o k v
  | none =>
    if k = Reg.LM_CTRL then if s.testMode then s.regStore k v else s
    else if k = Reg.SC_LFSR then if s.testMode ∧ bits v 15 0 ≠ 0 then s.regStore k v else s
    else if k = Reg.SC_CTRL then
      s.regStore k (if s.testMode ∨ bit v 1 then v else setBits v 1 1 (bits (s.reg k) 1 1))
    else if 0x3100 ≤ k ∧ k < 0x3500 ∧ k % 16 = 0 then
      if 12 ≤ bits v 21 16 ∧ bits v 21 16 ≤ 32 then s.regStore k v else s
    else if k = Reg.GA_CTRL then
      let t := s.regStore k v
      if s.flag k 0 ∧ t.flag k 0 = false then t.gaDisable else t
    else if k = Reg.TD_CTRL then
      if bit v 0 then s.regStore k v else { s.regStore k v with pw.tap := 2 }
    else if k = Reg.MP_LOCATE then (s.regStore k v).sbSync
    else s.regStore k v

/-- A dword of an MSI-X table entry is written; a pending vector whose mask clears sends its message (R295). -/
def State.msixWrite (s : State) (f : Func) (vec i v : Nat) : State :=
  let m := s.msixEnt f vec
  if i = 0 then s.setMsix f vec { m with addr := m.addr / 2 ^ 32 * 2 ^ 32 + v }
  else if i = 1 then s.setMsix f vec { m with addr := v * 2 ^ 32 + m.addr % 2 ^ 32 }
  else if i = 2 then s.setMsix f vec { m with data := v }
  else (s.setMsix f vec { m with mask := bit v 0 }).unmaskSend f vec

/-- A dword written at an offset of BAR0. -/
def State.barWrite (s : State) (f : Func) (off v : Nat) : State := match msixAt f off with
  | some (vec, i) => s.msixWrite f vec i v
  | none => s.regWrite (if isPf0 f then 0x100000 + off else off) v

/-- A 4- or 8-byte write, the lower dword first; refused accesses are counted (R289, R290, R299). -/
def execRegisterWrite (f : Func) (off len : Nat) (val : W64) (s : State) : Out :=
  .next <| if s.pf0Dropped f then s.bump Reg.HP_DROP_FRZ
    else if bar0Invalid f off len true then s.bump Reg.HP_BADACC
    else
      let s := s.barWrite f off (val.toNat % 2 ^ 32)
      if len = 8 then s.barWrite f (off + 4) (val.toNat / 2 ^ 32) else s

/-! ### KW fields (R7, R8, R354) -/

/-- Does a width leave every assigned port of a quad in place (R268)? -/
def State.quadOk (s : State) (q w : Nat) : Bool := (List.range 4).all fun i =>
  (if w = 0 then i == 0 else if w = 1 then i % 2 == 0 else true) || !s.assigned (4 * q + i)

/-- HUB thresholds in rising order with at least 0.5 V between them (R191). -/
def hubOrder : List Nat → Bool
  | x :: y :: t => decide (x + 5 ≤ y) && hubOrder (y :: t)
  | _ => true

/-- The five thresholds with one of their registers replaced. -/
def State.hubWith (s : State) (k v : Nat) : List Nat :=
  let r := fun x => if x = k then v else s.reg x
  [bits (r Reg.MW_HUB_A) 9 0, bits (r Reg.MW_HUB_A) 25 16, bits (r Reg.MW_HUB_B) 9 0, bits (r Reg.MW_HUB_B) 25 16,
   bits (r Reg.MW_HUB_C) 9 0]

/-- Speeds with one register replaced: ALIGN below CATCH, MAX at least 1,000 rpm. -/
def State.rpmOk (s : State) (k v : Nat) : Bool :=
  let r := fun x => bits (if x = k then v else s.reg x) 16 0
  decide (r Reg.MW_RPM_ALIGN < r Reg.MW_RPM_CATCH) && decide (r Reg.MW_RPM_MAX ≥ 1000)

/-- Do GA_VLIM's fields give EOC above EOD? A zero field stands for the value of Table 10-2 of the present pack's family; with no
pack it stands for none, and the two are not compared (DEDUCED, log entry 62). -/
def vlimOk (fam eod eoc : Nat) : Bool :=
  (fam == 0 && (eod == 0 || eoc == 0)) ||
  decide ((if eoc ≠ 0 then eoc else famEoc fam) > (if eod ≠ 0 then eod else famEod fam))

/-- MW_CFG: values outside a field's table leave the field as it was. -/
def mwCfgFix (old v : Nat) : Nat :=
  let v := if 1 ≤ bits v 3 0 ∧ bits v 3 0 ≤ 8 then v else setBits v 3 0 (bits old 3 0)
  let v := if bits v 5 4 = 3 then setBits v 5 4 (bits old 5 4) else v
  let v := if bits v 9 8 = 3 then setBits v 9 8 (bits old 9 8) else v
  if bits v 11 10 = 3 then setBits v 11 10 (bits old 11 10) else v

/-- The value a KW register takes, or none when the write is ignored. -/
def State.kwFix (s : State) (k old v : Nat) : Option Nat :=
  let only := fun (b : Bool) => if b then some v else none
  if k = Reg.ST_LAYOUT then only (decide (1 ≤ bits v 4 0) && decide (bits v 4 0 ≤ 16))
  else if k = Reg.LD_PRESSURE then only (decide (bits v 14 8 < bits v 6 0) && decide (bits v 6 0 ≤ 100))
  else if k = Reg.MW_CFG then some (mwCfgFix old v)
  else if k = Reg.MW_RPM_CATCH ∨ k = Reg.MW_RPM_ALIGN ∨ k = Reg.MW_RPM_MAX then only (s.rpmOk k v)
  else if k = Reg.MW_ONOFF then only (decide (bits v 31 16 < bits v 15 0))
  else if k = Reg.MW_COMM then only (decide (bits v 22 16 > bits v 14 8 + 20))
  else if k = Reg.MW_HUB_A ∨ k = Reg.MW_HUB_B ∨ k = Reg.MW_HUB_C then only (hubOrder (s.hubWith k v))
  else if k = Reg.GA_VLIM then only (vlimOk (if s.gaPresent then s.gaFam else 0) (bits v 11 0) (bits v 27 16))
  else if 0xB010 ≤ k ∧ k < 0xB030 then only (bits v 1 0 != 3 && s.quadOk ((k - 0xB010) / 4) (bits v 1 0))
  else if k = Reg.SS_VCORE then some (if bits v 3 2 = 0 then setBits v 3 2 (bits old 3 2) else v)
  else some v

/-- What precedes a KW write: the Millwheel keeps a setting in force (chapter 09), and a learning window can start only after a
write that ends LEARN_EN = 0 (R141). -/
def State.kwBefore (s : State) (k : Nat) : State :=
  if k = Reg.TL_CTRL ∧ s.flag k 1 = false then { s with tl.learnAt := s.now } else s.mwStage k

/-- What follows a KW write at once: a TL setting recomputes the ceiling (R133), SS_VCORE.SVC drives its code (R377), and GA_IDn
and GA_VLIM assign a present pack's code or not (R205). -/
def State.kwAfter (s : State) (k : Nat) : State :=
  if k / 4096 = 0xF then s.tlUpdate
  else if k = Reg.SS_VCORE then if s.hm.vcore ∨ s.pw.held then s else s.vcoreGo s.svcCode
  else if k = Reg.GA_VLIM ∨ k = Reg.GA_ID s.gaId then s.gaRecode
  else s

/-- A write to the KW fields of a register of PF1. -/
def State.kwWrite (s : State) (k v : Nat) : State := match regDesc? k with
  | none => s
  | some d =>
    if d.fields.any fun x => x.ty == .kw then
      match s.kwFix k (s.reg k) (d.kwWrite (s.reg k) v) with
      | none => s
      | some w => ((s.kwBefore k).kwStore (Config.settingsPage k) k w).kwAfter k
    else s

/-- The errors that reads of the Keep have met (R351), then the write. -/
def execKwFieldWrite (off : Nat) (val : KwWrite) (s : State) : Out := .next ((val.errs.foldl State.keepErr s).kwWrite off val.val.toNat)

/-! ### The console (R409) -/

/-- What the rows of a ring do at a write. -/
def State.ringRows (s : State) (isCq : Bool) (q o v : Nat) : State :=
  let on := bit v 0
  if o = 0x40 then if isCq then s.headDoorbell .pf1 q (v % 2 ^ 17) else s.tailDoorbell .pf1 q (v % 2 ^ 17)
  else if o ≠ 0x14 then s
  else if isCq then
    if on = s.flag (Reg.RG_CQ_CTRL false q) 0 then s else if on then s.cqEnable .pf1 q else s.cqDisable .pf1 q
  else
    let s := if bit v 1 then s.inlFlush .pf1 q else s
    if on = s.flag (Reg.RG_SQ_CTRL false q) 0 then s else if on then s.sqEnable .pf1 q else s.sqDisable .pf1 q

/-- What the rows of a PF1 register do at a write: the same as the row's own command. -/
def State.rowWrites (s : State) (k v : Nat) (brkFb : Bool) : State := match ringAt k with
  | some (_, isCq, q, o) => s.ringRows isCq q o v
  | none =>
    let go := fun (b : Bool) (f : State → State) (s : State) => if b then f s else s
    if k = Reg.HP_FREEZE then
      go (bit v 6) (fun s => (s.freeze 5 .pf0).settle) (go (bit v 5) State.freezeEnd s)
    else if k = Reg.LM_CTRL then go (bit v 1) State.injectDp s
    else if k = Reg.LM_TJOB_GO then go (bit v 0) State.tjobGo s
    else if k = Reg.LD_CTRL then
      go (bit v 1) State.ldDrain (if bit v 0 then s.wbSet else if s.wbOn then s.wbClear else s)
    else if k = Reg.SC_CTRL then if bit v 0 = s.flag k 0 then s else if bit v 0 then s.scEnable else s.scDisable
    else if k = Reg.TL_RELEARN then go (bit v 0) State.relearn s
    else if k = Reg.MW_CTRL then
      go (bit v 4) State.mwAbort (go (bit v 3) State.mwCommGo (go (bit v 2) (fun s => s.mwClear brkFb) s))
    else if k = Reg.GA_CTRL then go (bit v 1) State.gaForget s
    else if 0x15010 ≤ k ∧ k < 0x15030 then go (bit v 31) (fun s => s.lowClr ((k - 0x15010) / 4)) s
    else if k = Reg.AL_RSEL then s.alSnap (v % 512)
    else if 0x4400 ≤ k ∧ k < 0x4500 then s.inlWrite .pf1 ((k - 0x4400) / 64) (k % 64) (toLe 4 v)
    else s.kwWrite k v

/-- A console write of a dword of PF1 BAR0. -/
def State.conWrite (s : State) (off v : Nat) (brkFb : Bool) : State :=
  if bar0Invalid .pf1 off 4 true then s.bump Reg.HP_BADACC
  else (s.barWrite .pf1 off v).rowWrites off v brkFb

/-- A console read of a dword of PF1 BAR0. -/
def State.conRead (s : State) (off : Nat) : State :=
  if bar0Invalid .pf1 off 4 false then (s.bump Reg.HP_BADACC).put [.console 0]
  else
    let (v, s) := s.barRead .pf1 off
    s.put [.console v]

def execConsoleInput (op : ConsoleOp) (s : State) : Out :=
  .next <| if s.testMode then match op with
      | .read off => s.conRead off
      | .write off v fb => s.conWrite off v.toNat fb
    else s

end Sys2Proof.Machine
end

