-- ==== Sys2Proof/Machine/Measures.lean ====
section
/-! DEFINITION. What is sampled and shown outside the rings: the Almanac's periodic sample (R362), the management health block
(R370) and the TAP (R407). -/

namespace Sys2Proof.Machine

/-! ### The Almanac's sample (R362, Tables 16-9 and 16-10) -/

/-- Bin of a value in steps from a base, limited to 0 to 15. -/
def alBin (v base step : Int) : Nat := min 15 ((v - base) / step).toNat

/-- Histograms 0 to 5. -/
def State.sampleHists (s : State) (m : AlSample) : State :=
  let c := s.ceiling
  let d := s.committed
  let s := s.alHist 0 (s.fld Reg.LN_SPEED 9 0 / 64)
  let s := s.alHist 1 (alBin m.tj (-400) 120)
  let s := s.alHist 2 (c * 16 / 0x300000000)
  let s := s.alHist 3 (if c = 0 then (if d > 0 then 15 else 0) else 16 * d / c)
  let s := s.alHist 4 (s.reg Reg.TL_EAVAIL / 256000)
  s.alHist 5 (alBin m.hub 3000 200)

/-- Extremes the sample feeds; pack temperature while a pack is present. -/
def State.sampleExts (s : State) (m : AlSample) : State :=
  let s := ((s.alMin 0 (s.fld Reg.LN_SPEED 9 0)).alMax 1 m.tj).alMin 2 m.tj
  let s := ((s.alMin 3 m.vddCore).alMax 4 m.vin).alMin 5 m.vin
  let s := ((s.alMax 6 m.hub).alMin 7 m.hub).alMax 8 m.rpm
  let s := ((s.alMin 9 s.ceiling).alMax 10 s.committed).alMax 11 s.ldDirty
  if s.gaPresent then (s.alMax 14 m.packT).alMin 15 m.packT else s

def execAlmanacSample (m : AlSample) (s : State) : Out :=
  .next <|
    let s := (s.tjSeen m.tj).setReg Reg.SS_VDDC (min m.vddCore 0xFFFF)
    let s := s.setReg Reg.SS_VIN (min m.vin 0xFFFF)
    if s.al.isOpen then (s.sampleHists m).sampleExts m else s

/-! ### The health block (R370, Table 16-12) -/

/-- Slot of the newest valid record. -/
def State.alNewestAny (s : State) : Option Nat :=
  ((List.range 256).filter s.alValid).foldl (fun b n => match b with
    | none => some n
    | some m => if s.alSeqOf n > s.alSeqOf m then some n else b) none

/-- Bytes 0x00 to 0x3B. -/
def State.healthBody (s : State) (count : Nat) : List Byte :=
  let st := (List.range 4).map fun a => match s.arr? a with
    | some r => r.state % 4 * 4 ^ a
    | none => 0
  let bad := toMask ((List.range 32).filter fun p => (s.port p).failed && s.assigned p)
  let new := s.alNewestAny
  toLe 2 0x9032 ++ toLe 1 0xB1 ++ toLe 1 s.mode ++ toLe 8 s.time ++ toLe 1 (sumN st) ++
  toLe 1 (toMask ((List.range 4).filter fun a => (s.arr? a).isSome)) ++ toLe 1 s.spState ++ zeros 1 ++
  toLe 4 (s.regNow Reg.MP_READY) ++ toLe 4 bad ++ toLe 2 (s.regNow Reg.TL_STATUS) ++ toLe 2 (s.regNow Reg.MW_STATUS) ++
  toLe 4 (s.ceiling / 1048576) ++ toLe 4 (s.ldDirty / 1048576) ++ toLe 2 (s.regNow Reg.GA_STATUS) ++ toLe 1 s.dirState ++
  toLe 1 s.al.cur.sev ++ toLe 2 (s.reg Reg.SS_TJ) ++ toLe 2 (new.getD 0xFFFF) ++ toLe 4 (s.reg Reg.AL_DROPPED) ++
  toLe 8 (match new with
    | some n => s.alSeqOf n
    | none => 0) ++ toLe 4 count

/-- The block is refreshed as a whole; in A3 it keeps its last refresh. -/
def execMgtHealthRefresh (s : State) : Out :=
  .next <| if s.spState = 3 then s
    else
      let n := (s.al.refreshes + 1) % 2 ^ 32
      let b := s.healthBody n
      { s with al.health := b ++ toLe 4 (crc32c b), al.refreshes := n }

/-! ### The TAP (R407, Table 19-11) -/

/-- The instruction a code selects: EXTEST, CLAMP and HIGHZ need STRAP_MODE 0b10; every other code is BYPASS. -/
def tapCode (strap c : Nat) : Nat :=
  if c = 0x01 ∨ c = 0x02 ∨ c = 0x10 then c
  else if (c = 0x00 ∨ c = 0x04 ∨ c = 0x05) ∧ strap = 2 then c
  else 0x3F

/-- The data register an instruction puts between TDI and TDO, as width and captured value. EXTEST and SAMPLE select the
boundary register, whose cells are not listed. -/
def State.tapData (s : State) (c : Nat) : Option (Nat × Nat) :=
  if c = 0x02 then some (32, regReset Reg.TD_ID)
  else if c = 0x10 then some (128, sumN ((List.range 8).map fun n => s.pw.laps.getD n 0 % 65536 * 65536 ^ n))
  else if c = 0x00 ∨ c = 0x01 then none
  else some (1, 0)

def execTapInstruction (code : BitVec 6) (s : State) : Out :=
  .next <| if s.flag Reg.TD_CTRL 0 = false then s
    else
      let c := tapCode s.pw.strapPin code.toNat
      let s := { s with pw.tap := c }
      match s.tapData c with
      | some (w, v) => s.put [.tap w v]
      | none => s

end Sys2Proof.Machine
end

