-- ==== Sys2Proof/Machine/Ports.lean ====
section
/-! DEFINITION. The rows of the member ports (chapter 12): completions, deadlines and timeouts (R274 to R280), links (R281, R282),
insertion (R271, R285, Table 12-4) and sideband polling (R283, R284). -/

namespace Sys2Proof.Machine

/-! ### Completions (R274, R280) -/

/-- Does a command count toward WRITE_ERRORS? -/
def MOp.stores : MOp → Bool
  | .write | .writeFua | .flush | .writeZeroes => true
  | .read | .dealloc | .identCtrl | .identNs | .setQueues | .createQueue | .deleteQueue | .vwcOff | .smart | .abort => false

/-- The final status of a command counts. -/
def State.mpCount (s : State) (c : MCmd) (ok : Bool) : State :=
  if ok then s
  else if c.op = .read then s.countRerr c.port
  else if c.op.stores then s.countWerr c.port
  else s

/-- One member read in 256 is sampled (R362). -/
def State.mpSample (s : State) (c : MCmd) : State :=
  if c.op ≠ .read then s
  else
    let s := { s with mp.nread := s.mp.nread + 1 }
    if s.mp.nread % 256 ≠ 0 then s
    else
      let d := s.now - c.issued
      (s.alMax 13 d).alHist 8 (if d < 10 then 0 else Nat.log2 (d / 10))

/-- A completion arrives for an outstanding command. -/
def State.mpDone (s : State) (c : MCmd) (ok dnr : Bool) (pay : MPayload) : State :=
  let s := s.mpRemove c
  if c.expired ∨ c.timedOut then (s.bump (Reg.MP_P_LATE c.port)).mpPump c.port
  else if !ok ∧ !dnr ∧ !c.again then (s.mpIssue { c with again := true, issued := 0 }).mpPump c.port
  else (((s.mpSample c).mpCount c ok).mpEnd c ok (if ok then pay else .blocks [])).mpPump c.port

def execMemberCompletion (port qp cid : Nat) (ok dnr : Bool) (pay : MPayload) (s : State) : Out :=
  .next <| match s.mpFind port qp cid with
    | none => s
    | some c => (s.mpDone c ok dnr pay).settle

/-! ### Timeouts (R277 to R279) -/

/-- A command is over its time: it keeps its identifier, and the timeout counts. -/
def State.mpLapse (s : State) (c : MCmd) : State := (s.mpReplace c { c with timedOut := true }).bump (Reg.MP_P_TMO c.port)

/-- A command times out: it ends internally, its identifier is quarantined, and Abort is sent once. -/
def State.mpTimeout (s : State) (c : MCmd) : State :=
  let s := s.mpLapse c
  let s := if c.op = .abort then s else s.mpIssue (mcmd c.port .abort c.cid c.qp .none)
  let s := if c.expired then s else s.mpEnd c false .none
  let s := if c.qp ≠ 0 ∧ 2 * s.quarantined c.port c.qp ≥ s.qpDepth c.port c.qp then s.queueRenew c.port c.qp else s
  s.countTmo c.port

def execMemberCmdTimeout (port qp cid : Nat) (s : State) : Out :=
  .next <| match s.mpFind port qp cid with
    | none => s
    | some c => if c.timedOut ∨ !s.due c.issued (tmoUs s) then s else (s.mpTimeout c).settle

def execMemberLongTimeout (port qp cid : Nat) (s : State) : Out :=
  .next <| match s.mpFind port qp cid with
    | none => s
    | some c => if s.due c.issued 2000000 then (s.failMember port 3).settle else s

/-! ### Links (R281, R282, R285) -/

def execMemberLinkDown (port : Nat) (s : State) : Out := .next ((s.linkDown port).tlUpdate).settle
def execMemberLinkUp (port lanes speed : Nat) (s : State) : Out := .next ((s.linkUp port lanes speed).tlUpdate).settle

def execRetrainTimeout (port : Nat) (s : State) : Out :=
  .next <| if (s.port port).state = Ps.retrain ∧ s.due (s.port port).boundAt (retrainUs s) then (s.portReject port 6).settle else s

def execTrainingTimeout (port : Nat) (s : State) : Out :=
  .next <| if (s.port port).state = Ps.training ∧ s.due (s.port port).boundAt 1000000 then (s.portReject port 6).settle else s

/-- CSTS.RDY has not set within CAP.TO or RDY_S. CAP.TO is the member's, so the row itself says that the wait is over. -/
def execReadyWaitTimeout (port : Nat) (s : State) : Out :=
  .next <| if (s.port port).state = Ps.init ∧ (s.port port).rdy = false then (s.portReject port 1).settle else s

/-- CSTS.RDY has set: Identify begins. -/
def execCstsRdy (port : Nat) (s : State) : Out :=
  .next <| if (s.port port).state = Ps.init ∧ (s.port port).rdy = false then
      ((s.updPort port fun q => { q with rdy := true }).initCmd port .identCtrl 0).settle
    else s

def execPowerWaitExpiry (port : Nat) (s : State) : Out :=
  .next <| if (s.port port).state = Ps.powering ∧ s.due (s.port port).since (pwrUs s) then
      (s.updPort port fun q => { q with state := Ps.training, boundAt := s.now }).sbSync
    else s

/-! ### Sideband polling (R283, R284) -/

/-- A target that does not answer three times running sets SBERR; presence then stands as it was. -/
def State.sbNak (s : State) (bus : Nat) : State :=
  let n := (if bus = 0 then s.mp.nak0 else s.mp.nak1) + 1
  let s := if bus = 0 then { s with mp.nak0 := n } else { s with mp.nak1 := n }
  if n ≥ 3 then s.setFlag Reg.MP_STATUS bus true else s

/-- Presence bits of a bus, in the sense of PRES_LOW. -/
def State.sbSeen (s : State) (bus b : Nat) (v : BitVec 16) : Bool := v.getLsbD b != s.flag (Reg.MP_SB_IN bus) 16

/-- A poll is answered: each port of the bus sees its presence bit. -/
def State.sbPoll (s : State) (bus : Nat) (v : BitVec 16) : State :=
  let s := if bus = 0 then { s with mp.nak0 := 0 } else { s with mp.nak1 := 0 }
  ((List.range 16).foldl (fun s b => s.portPresence (16 * bus + b) (s.sbSeen bus b v)) (s.setFlag Reg.MP_STATUS bus false)).sbSync

/-- Polling begins with step 3 of Table 17-8. -/
def execPresencePoll (bus : Nat) (ack : Bool) (bits : BitVec 16) (s : State) : Out :=
  .next <| if s.pw.held ∨ s.pw.step < 3 then s
    else if !ack then s.sbNak bus
    else (s.sbPoll bus bits).settle

def execSmartPoll (port : Nat) (s : State) : Out :=
  .next <|
    let q := s.port port
    if q.state = Ps.ready ∧ s.due q.smartAt (1000000 * max 1 (s.fld Reg.MP_CFG 15 8)) then
      (s.updPort port fun q => { q with smartAt := s.now }).mpIssue (mcmd port .smart 0 0 .smart)
    else s

end Sys2Proof.Machine
end

