-- ==== Sys2Proof/Machine/Dispatch.lean ====
section
/-! DEFINITION. Which meaning each command has: one arm per constructor. -/

namespace Sys2Proof.Machine

def exec (i : Instr) (s : State) : Host.Outcome State Fault Refusal :=
  match i with
  | .powerOnReset strap => Sys2Proof.Machine.execPowerOnReset strap s
  | .railOutOfWindow rail => Sys2Proof.Machine.execRailOutOfWindow rail s
  | .chipRstAssert => Sys2Proof.Machine.execChipRstAssert s
  | .coreReset mv => Sys2Proof.Machine.execCoreReset mv s
  | .startupStep => Sys2Proof.Machine.execStartupStep s
  | .memberWaitExpiry => Sys2Proof.Machine.execMemberWaitExpiry s
  | .droopStage mv => Sys2Proof.Machine.execDroopStage mv s
  | .dumpOnlyEntry mv => Sys2Proof.Machine.execDumpOnlyEntry mv s
  | .vcoreSettleExpiry => Sys2Proof.Machine.execVcoreSettleExpiry s
  | .refclkLoss clk => Sys2Proof.Machine.execRefclkLoss clk s
  | .thermCrossing tj => Sys2Proof.Machine.execThermCrossing tj s
  | .timeSaveTimer => Sys2Proof.Machine.execTimeSaveTimer s
  | .sleepEval => Sys2Proof.Machine.execSleepEval s
  | .wakeEvent src => Sys2Proof.Machine.execWakeEvent src s
  | .dramRetrain tj => Sys2Proof.Machine.execDramRetrain tj s
  | .speedWindow laps => Sys2Proof.Machine.execSpeedWindow laps s
  | .lowClr n => Sys2Proof.Machine.execLowClr n s
  | .vinFilterExpiry mv => Sys2Proof.Machine.execVinFilterExpiry mv s
  | .pfNLow => Sys2Proof.Machine.execPfNLow s
  | .dumpVcoreRequest => Sys2Proof.Machine.execDumpVcoreRequest s
  | .destageStop => Sys2Proof.Machine.execDestageStop s
  | .dumpSnapshot => Sys2Proof.Machine.execDumpSnapshot s
  | .vinReturn mv => Sys2Proof.Machine.execVinReturn mv s
  | .resumeWaitExpiry => Sys2Proof.Machine.execResumeWaitExpiry s
  | .keepLowVoltage mv => Sys2Proof.Machine.execKeepLowVoltage mv s
  | .perstAssert => Sys2Proof.Machine.execPerstAssert s
  | .perstRelease => Sys2Proof.Machine.execPerstRelease s
  | .hotReset => Sys2Proof.Machine.execHotReset s
  | .hostLinkDown => Sys2Proof.Machine.execHostLinkDown s
  | .flr f => Sys2Proof.Machine.execFlr f s
  | .flrWaitDone f => Sys2Proof.Machine.execFlrWaitDone f s
  | .bmeClear f => Sys2Proof.Machine.execBmeClear f s
  | .bmeSet f => Sys2Proof.Machine.execBmeSet f s
  | .d3hotEntry f => Sys2Proof.Machine.execD3hotEntry f s
  | .d0Return f => Sys2Proof.Machine.execD0Return f s
  | .configRequest f off wr => Sys2Proof.Machine.execConfigRequest f off wr s
  | .bar0InvalidAccess f off len wr => Sys2Proof.Machine.execBar0InvalidAccess f off len wr s
  | .bar2Access f off len wr ecc => Sys2Proof.Machine.execBar2Access f off len wr ecc s
  | .hostReadCompletion tag st data => Sys2Proof.Machine.execHostReadCompletion tag st data s
  | .hostReadTimeout tag => Sys2Proof.Machine.execHostReadTimeout tag s
  | .tagQuarantineExpiry tag => Sys2Proof.Machine.execTagQuarantineExpiry tag s
  | .hpDatapathError => Sys2Proof.Machine.execHpDatapathError s
  | .freezeForce => Sys2Proof.Machine.execFreezeForce s
  | .freezeRelease => Sys2Proof.Machine.execFreezeRelease s
  | .msixUnmask f vec => Sys2Proof.Machine.execMsixUnmask f vec s
  | .ltrIdleTimer => Sys2Proof.Machine.execLtrIdleTimer s
  | .sqTailDoorbell f q val => Sys2Proof.Machine.execSqTailDoorbell f q val s
  | .cqHeadDoorbell f q val => Sys2Proof.Machine.execCqHeadDoorbell f q val s
  | .inlineSlotWrite f q off data => Sys2Proof.Machine.execInlineSlotWrite f q off data s
  | .inlFlush f q => Sys2Proof.Machine.execInlFlush f q s
  | .sqEnable f q => Sys2Proof.Machine.execSqEnable f q s
  | .sqDisable f q => Sys2Proof.Machine.execSqDisable f q s
  | .cqEnable f q => Sys2Proof.Machine.execCqEnable f q s
  | .cqDisable f q => Sys2Proof.Machine.execCqDisable f q s
  | .ringDrainDone f q => Sys2Proof.Machine.execRingDrainDone f q s
  | .ringFetch => Sys2Proof.Machine.execRingFetch s
  | .ownRereadTimeout f q => Sys2Proof.Machine.execOwnRereadTimeout f q s
  | .headReportTimer f q => Sys2Proof.Machine.execHeadReportTimer f q s
  | .collectorDeposit => Sys2Proof.Machine.execCollectorDeposit s
  | .completionDrain => Sys2Proof.Machine.execCompletionDrain s
  | .cqOwnPoll f q => Sys2Proof.Machine.execCqOwnPoll f q s
  | .coalesceTimeout f q => Sys2Proof.Machine.execCoalesceTimeout f q s
  | .inlineStaleTimeout => Sys2Proof.Machine.execInlineStaleTimeout s
  | .collectorPromoteTimeout => Sys2Proof.Machine.execCollectorPromoteTimeout s
  | .stallNoticeTimeout => Sys2Proof.Machine.execStallNoticeTimeout s
  | .noticeDrain => Sys2Proof.Machine.execNoticeDrain s
  | .almanacEventTake => Sys2Proof.Machine.execAlmanacEventTake s
  | .read h => Sys2Proof.Machine.execRead h s
  | .write h => Sys2Proof.Machine.execWrite h s
  | .writeZeroes h => Sys2Proof.Machine.execWriteZeroes h s
  | .flush h => Sys2Proof.Machine.execFlush h s
  | .deallocate h => Sys2Proof.Machine.execDeallocate h s
  | .logAppend h => Sys2Proof.Machine.execLogAppend h s
  | .logRead h => Sys2Proof.Machine.execLogRead h s
  | .logTrim h => Sys2Proof.Machine.execLogTrim h s
  | .volumeStatus h => Sys2Proof.Machine.execVolumeStatus h s
  | .streamStatus h => Sys2Proof.Machine.execStreamStatus h s
  | .holdingRecheck st => Sys2Proof.Machine.execHoldingRecheck st s
  | .arrayCreate h => Sys2Proof.Machine.execArrayCreate h s
  | .arrayDelete h => Sys2Proof.Machine.execArrayDelete h s
  | .volumeCreate h => Sys2Proof.Machine.execVolumeCreate h s
  | .volumeDelete h => Sys2Proof.Machine.execVolumeDelete h s
  | .volumeDeleteProceed vol => Sys2Proof.Machine.execVolumeDeleteProceed vol s
  | .volumeSet h => Sys2Proof.Machine.execVolumeSet h s
  | .spareSet h => Sys2Proof.Machine.execSpareSet h s
  | .streamCreate h => Sys2Proof.Machine.execStreamCreate h s
  | .streamDelete h => Sys2Proof.Machine.execStreamDelete h s
  | .memberFail h => Sys2Proof.Machine.execMemberFail h s
  | .rebuildInPlace h => Sys2Proof.Machine.execRebuildInPlace h s
  | .stripeRelease h => Sys2Proof.Machine.execStripeRelease h s
  | .setMode h => Sys2Proof.Machine.execSetMode h s
  | .writeBack h => Sys2Proof.Machine.execWriteBack h s
  | .timeSet h => Sys2Proof.Machine.execTimeSet h s
  | .commission h => Sys2Proof.Machine.execCommission h s
  | .arrayImport h => Sys2Proof.Machine.execArrayImport h s
  | .imageImport h => Sys2Proof.Machine.execImageImport h s
  | .fwDownload h => Sys2Proof.Machine.execFwDownload h s
  | .fwActivate h => Sys2Proof.Machine.execFwActivate h s
  | .fwRestart => Sys2Proof.Machine.execFwRestart s
  | .getNonce h => Sys2Proof.Machine.execGetNonce h s
  | .almanacClear h => Sys2Proof.Machine.execAlmanacClear h s
  | .keySet h => Sys2Proof.Machine.execKeySet h s
  | .noticeRoute h => Sys2Proof.Machine.execNoticeRoute h s
  | .nonceExpiry => Sys2Proof.Machine.execNonceExpiry s
  | .creditWaitGrant => Sys2Proof.Machine.execCreditWaitGrant s
  | .creditWaitTimeout => Sys2Proof.Machine.execCreditWaitTimeout s
  | .slotWaitResume => Sys2Proof.Machine.execSlotWaitResume s
  | .claimWaitResume arr stripe => Sys2Proof.Machine.execClaimWaitResume arr stripe s
  | .idleTimerExpiry fr => Sys2Proof.Machine.execIdleTimerExpiry fr s
  | .ageLimitExpiry fr => Sys2Proof.Machine.execAgeLimitExpiry fr s
  | .destageStart => Sys2Proof.Machine.execDestageStart s
  | .ldWbClear => Sys2Proof.Machine.execLdWbClear s
  | .ldWbSet => Sys2Proof.Machine.execLdWbSet s
  | .ldDrain => Sys2Proof.Machine.execLdDrain s
  | .ldProbeRead => Sys2Proof.Machine.execLdProbeRead s
  | .ledgerEntryGrant => Sys2Proof.Machine.execLedgerEntryGrant s
  | .statePageTimer arr page => Sys2Proof.Machine.execStatePageTimer arr page s
  | .copyBlockTimer arr blk => Sys2Proof.Machine.execCopyBlockTimer arr blk s
  | .loomJobSubmit q => Sys2Proof.Machine.execLoomJobSubmit q s
  | .loomJobStart => Sys2Proof.Machine.execLoomJobStart s
  | .loomJobComplete ctx err => Sys2Proof.Machine.execLoomJobComplete ctx err s
  | .lmTjobGo => Sys2Proof.Machine.execLmTjobGo s
  | .injectDp => Sys2Proof.Machine.execInjectDp s
  | .scFillReturn fill => Sys2Proof.Machine.execScFillReturn fill s
  | .scBufferWriteback => Sys2Proof.Machine.execScBufferWriteback s
  | .scDisable => Sys2Proof.Machine.execScDisable s
  | .scDrainDone => Sys2Proof.Machine.execScDrainDone s
  | .scEnable => Sys2Proof.Machine.execScEnable s
  | .scInvalidateDone => Sys2Proof.Machine.execScInvalidateDone s
  | .ceilingRecompute => Sys2Proof.Machine.execCeilingRecompute s
  | .learnWindow m => Sys2Proof.Machine.execLearnWindow m s
  | .relearnModel => Sys2Proof.Machine.execRelearnModel s
  | .mwControlPeriod m => Sys2Proof.Machine.execMwControlPeriod m s
  | .hubSample pinUv brkFb => Sys2Proof.Machine.execHubSample pinUv brkFb s
  | .chopOvFilterExpiry brkFb => Sys2Proof.Machine.execChopOvFilterExpiry brkFb s
  | .peakTrip p => Sys2Proof.Machine.execPeakTrip p s
  | .mwStartCommand brkFb => Sys2Proof.Machine.execMwStartCommand brkFb s
  | .mwStopCommand => Sys2Proof.Machine.execMwStopCommand s
  | .mwClear brkFb => Sys2Proof.Machine.execMwClear brkFb s
  | .mwComm => Sys2Proof.Machine.execMwComm s
  | .mwAbort => Sys2Proof.Machine.execMwAbort s
  | .commissionStepDone m => Sys2Proof.Machine.execCommissionStepDone m s
  | .alignTimer => Sys2Proof.Machine.execAlignTimer s
  | .rampTimeout => Sys2Proof.Machine.execRampTimeout s
  | .catchObsTimer => Sys2Proof.Machine.execCatchObsTimer s
  | .lockConfirm => Sys2Proof.Machine.execLockConfirm s
  | .catchBrakeWait => Sys2Proof.Machine.execCatchBrakeWait s
  | .holdEntryTimer => Sys2Proof.Machine.execHoldEntryTimer s
  | .lockedRotor => Sys2Proof.Machine.execLockedRotor s
  | .lockRetryExpiry => Sys2Proof.Machine.execLockRetryExpiry s
  | .retryCountReset => Sys2Proof.Machine.execRetryCountReset s
  | .shortExitTimer => Sys2Proof.Machine.execShortExitTimer s
  | .encoderIndex ab => Sys2Proof.Machine.execEncoderIndex ab s
  | .feedbackLost => Sys2Proof.Machine.execFeedbackLost s
  | .spdInTimeout => Sys2Proof.Machine.execSpdInTimeout s
  | .gaugeSample m => Sys2Proof.Machine.execGaugeSample m s
  | .gaugeOffsetZero => Sys2Proof.Machine.execGaugeOffsetZero s
  | .packRemoval => Sys2Proof.Machine.execPackRemoval s
  | .gaugeSlowPoll idUv ntcUv => Sys2Proof.Machine.execGaugeSlowPoll idUv ntcUv s
  | .packInsertion code => Sys2Proof.Machine.execPackInsertion code s
  | .gaugeSettled => Sys2Proof.Machine.execGaugeSettled s
  | .gaForget => Sys2Proof.Machine.execGaForget s
  | .memberCompletion port qp cid ok dnr pay => Sys2Proof.Machine.execMemberCompletion port qp cid ok dnr pay s
  | .deadlineExpiry port qp cid => Sys2Proof.Machine.execDeadlineExpiry port qp cid s
  | .memberCmdTimeout port qp cid => Sys2Proof.Machine.execMemberCmdTimeout port qp cid s
  | .memberLongTimeout port qp cid => Sys2Proof.Machine.execMemberLongTimeout port qp cid s
  | .memberLinkDown port => Sys2Proof.Machine.execMemberLinkDown port s
  | .memberLinkUp port lanes speed => Sys2Proof.Machine.execMemberLinkUp port lanes speed s
  | .retrainTimeout port => Sys2Proof.Machine.execRetrainTimeout port s
  | .trainingTimeout port => Sys2Proof.Machine.execTrainingTimeout port s
  | .readyWaitTimeout port => Sys2Proof.Machine.execReadyWaitTimeout port s
  | .powerWaitExpiry port => Sys2Proof.Machine.execPowerWaitExpiry port s
  | .presencePoll bus ack bits => Sys2Proof.Machine.execPresencePoll bus ack bits s
  | .smartPoll port => Sys2Proof.Machine.execSmartPoll port s
  | .walkIssue arr => Sys2Proof.Machine.execWalkIssue arr s
  | .rebuildCheckpoint arr => Sys2Proof.Machine.execRebuildCheckpoint arr s
  | .scrubCheckpoint arr => Sys2Proof.Machine.execScrubCheckpoint arr s
  | .scrubVisit arr => Sys2Proof.Machine.execScrubVisit arr s
  | .repairStart => Sys2Proof.Machine.execRepairStart s
  | .resyncStart => Sys2Proof.Machine.execResyncStart s
  | .menderRetryTimer task => Sys2Proof.Machine.execMenderRetryTimer task s
  | .arrayIdleTimer arr => Sys2Proof.Machine.execArrayIdleTimer arr s
  | .kwFieldWrite off val => Sys2Proof.Machine.execKwFieldWrite off val s
  | .epochHourClose => Sys2Proof.Machine.execEpochHourClose s
  | .almanacCheckpoint => Sys2Proof.Machine.execAlmanacCheckpoint s
  | .conditionCloseDelay => Sys2Proof.Machine.execConditionCloseDelay s
  | .repeatFlush => Sys2Proof.Machine.execRepeatFlush s
  | .almanacSnapshot slot => Sys2Proof.Machine.execAlmanacSnapshot slot s
  | .mgtTransaction ptr wr rdLen => Sys2Proof.Machine.execMgtTransaction ptr wr rdLen s
  | .mgtSlotWrite slot => Sys2Proof.Machine.execMgtSlotWrite slot s
  | .mgtHealthRefresh => Sys2Proof.Machine.execMgtHealthRefresh s
  | .tapInstruction code => Sys2Proof.Machine.execTapInstruction code s
  | .consoleInput op => Sys2Proof.Machine.execConsoleInput op s
  | .loLatchRead off => Sys2Proof.Machine.execLoLatchRead off s
  | .registerWrite f off len val => Sys2Proof.Machine.execRegisterWrite f off len val s
  | .chipRstRelease strap => Sys2Proof.Machine.execChipRstRelease strap s
  | .coreResetRelease strap mv => Sys2Proof.Machine.execCoreResetRelease strap mv s
  | .vinBreak mv => Sys2Proof.Machine.execVinBreak mv s
  | .almanacSample m => Sys2Proof.Machine.execAlmanacSample m s
  | .refreshRateStep tj => Sys2Proof.Machine.execRefreshRateStep tj s
  | .hostLinkUp width speed => Sys2Proof.Machine.execHostLinkUp width speed s
  | .cstsRdy port => Sys2Proof.Machine.execCstsRdy port s

end Sys2Proof.Machine
end

