-- ==== Sys2Proof/Safety.lean ====
section
/-! DEFINITION. What counts as a safe run: the invariants the step keeps, in the terms statements use. -/

namespace Sys2Proof.Safety

open Sys2Proof.Machine

/-- Keys of a sparse map rise strictly. -/
def risingFrom {α : Type} : Nat → NMap α → Bool
  | _, [] => true
  | lo, (k, _) :: t => decide (lo ≤ k) && risingFrom (k + 1) t

/-- DRAM, SRAM and the Keep hold their bytes in canonical form. -/
def memCanonical (s : State) : Bool := memWf s.mem && memWf s.keep

/-- The register file holds each register once. -/
def regsCanonical (s : State) : Bool := risingFrom 0 s.regs

/-- The Gauge's state g' differs from g only in what a learned record gives (R238). -/
def recOf (g g' : Ga) : Prop := g' = { g with learns := g'.learns, learnT := g'.learnT, rintW := g'.rintW }

/-- The typed state of the CHIP domain is at its reset values, and STARTUP is the mode (Table 17-7); the Gauge has taken the record
of a pack that was fitted (R238). -/
def chipClear (t : State) : Prop :=
  t.cmds = [] ∧ t.mem = [] ∧ t.rg = {} ∧ t.lm = {} ∧ t.lg = {} ∧ t.ld = {} ∧ t.sc = {} ∧ t.mw = {} ∧ recOf {} t.ga ∧ t.al = {} ∧
  t.hm = {} ∧ t.mp.ports = [] ∧ t.mp.cmds = [] ∧ t.md.tasks = [] ∧ t.hp.reads = [] ∧ t.mode = 0

/-- The HOST domain is at reset: no ring, doorbell item, MSI-X entry or read, and both functions in D0 without Bus Master Enable,
FLR or Freeze (Table 13-6). -/
def hostClear (t : State) : Prop :=
  t.rg.sq = [] ∧ t.rg.inl = [] ∧ t.hp.msix = [] ∧ t.hp.reads = [] ∧ t.hp.rdq = [] ∧ t.rg.routeRing = 0 ∧ t.frozen = false ∧
  ∀ f, t.bme f = false ∧ t.dstate f = 0 ∧ t.inFlr f = false

/-- The handle names a taken data command of PF0 with opcode o whose segment list is at hand. -/
def dataReady (s : State) (h o : Nat) (c : Cmd) : Prop :=
  s.cmd? h = some c ∧ isPf0 c.f = true ∧ c.ph = .ready ∧ Ent.opc c.ent = o

/-- The handle names a taken admin command with opcode o whose turn has come and whose data has been read. -/
def adminReady (s : State) (h o : Nat) (c : Cmd) : Prop :=
  s.cmd? h = some c ∧ c.f = .pf1 ∧ c.ph = .ready ∧ Ent.opc c.ent = o ∧ s.adminTurn c = true

/-- The completion a command ends with (Table 15-2). -/
def compOf (c : Cmd) : Comp :=
  ⟨c.f, c.cq, c.sq, c.pos, c.prio, Ent.cid c.ent, c.status, c.cflags, c.res0 % 2 ^ 48, c.res1 % 2 ^ 40⟩

end Sys2Proof.Safety
end

