-- ==== Sys2Proof/Certificates/Slice0/Obligations.lean ====
section
/-! DEFINITION. The statements for the provers, one definition each, from the rules of the spec. -/

open Sys2Proof Sys2Proof.Machine Sys2Proof.Safety

/-- A step runs the command at the front of the queue (R4). With a command at the front of the queue, step is exec of it on the
state with the queue's rest. On an empty queue the AON count advances by 1 µs, which is the model's choice (log entry 1). -/
def Obligations.StepRuns : Prop :=
  (∀ (c : Instr) (rest : List Instr) (s : State), s.pending = c :: rest → step s = exec c { s with pending := rest }) ∧
  (∀ s : State, s.pending = [] → step s = .next { s with now := s.now + 1 })

/-- The state after reset (R9, R383, R384). State.reset has an empty queue, the CHIP and HOST domains at their reset values,
every register at the value its table gives, and memory and registers in canonical form. Log entry 38 says what of this is the
model's choice. -/
def Obligations.ResetState : Prop :=
  State.reset.pending = [] ∧ chipClear State.reset ∧ hostClear State.reset ∧ State.reset.keep = [] ∧ State.reset.pw.held = false ∧
  State.reset.pw.step = 1 ∧ memCanonical State.reset = true ∧ regsCanonical State.reset = true ∧
  ∀ k, State.reset.reg k = regReset k

/-- Every step keeps memory, the Keep and the register file in canonical form (R9, R14). For every state in canonical form,
whatever command is at the front of the queue, the state after a step is in canonical form. -/
def Obligations.StepInvariant : Prop :=
  ∀ s t : State, memCanonical s = true → regsCanonical s = true → step s = .next t →
    memCanonical t = true ∧ regsCanonical t = true

/-- Every command answers a next state and leaves queue, time and past output alone (R4, R9). Every command answers a next state
in every state. Outside the two rows of a power-on reset it leaves the queue and the AON count as they are (log entry 1), only
adds output, and uses handles up only. -/
def Obligations.CommandFrame : Prop :=
  (∀ (c : Instr) (s : State), ∃ t, exec c s = .next t) ∧
  (∀ (c : Instr) (s t : State), (∀ x, c ≠ .powerOnReset x) → (∀ r, c ≠ .railOutOfWindow r) → exec c s = .next t →
    t.pending = s.pending ∧ t.now = s.now ∧ s.out <+: t.out ∧ s.nextH ≤ t.nextH)

/-- While Keep writes are inhibited no command writes the Keep (R353). With KP inhibited, every command but the two rows of a
power-on reset leaves the Keep as it is and writes inhibited. -/
def Obligations.InhibitedKeep : Prop :=
  ∀ (c : Instr) (s t : State), (∀ x, c ≠ .powerOnReset x) → (∀ r, c ≠ .railOutOfWindow r) → s.kp.inhibit = true →
    exec c s = .next t → t.kp.inhibit = true ∧ t.keep = s.keep

/-- Power-on reset and a rail out of its window (R9, R374, R383, R384, R386). Both clear the CHIP domain and the AON count; a
power-on reset releases and samples the strap unless CHIP_RST_N is low, a rail out of its window holds the chip. -/
def Obligations.PowerOnReset : Prop :=
  (∀ (strap : BitVec 2) (s : State), ∃ t, exec (.powerOnReset strap) s = .next t ∧ chipClear t ∧ t.now = 0 ∧
    t.kp.inhibit = false ∧ t.pw.strapPin = strap.toNat ∧ t.pw.held = s.pw.rstLow ∧ t.pw.rstDone = false ∧
    (s.pw.rstLow = false → t.pw.step = 1 ∧ t.pw.strap = strap.toNat ∧ t.fld Reg.RV_MODE 3 2 = strap.toNat)) ∧
  ∀ (rail : Rail) (s : State), ∃ t, exec (.railOutOfWindow rail) s = .next t ∧ chipClear t ∧ t.now = 0 ∧ t.pw.held = true ∧
    t.pw.rstDone = false

/-- CHIP reset and core reset, and their releases (R378, R383, R384, R386). CHIP_RST_N low clears the CHIP domain unless a dump
defers it; core reset likewise and counts; each release samples the strap and starts start-up. Log entry 33 says what of this is
the model's choice. -/
def Obligations.ChipReset : Prop :=
  (∀ s : State, s.pw.held = false → s.hm.rstWait = false → s.rstDeferred = false →
    ∃ t, exec .chipRstAssert s = .next t ∧ chipClear t ∧ t.pw.held = true ∧ t.pw.rstLow = true ∧ t.pw.rstDone = false ∧
      t.kp.inhibit = s.kp.inhibit) ∧
  (∀ (strap : BitVec 2) (s : State), s.pw.held = true → s.pw.core = false →
    ∃ t, exec (.chipRstRelease strap) s = .next t ∧ t.pw.held = false ∧ t.pw.rstLow = false ∧ t.pw.step = 1 ∧
      t.pw.strap = strap.toNat ∧ t.pw.relAt = s.now ∧ t.mem = s.mem ∧ t.keep = s.keep) ∧
  (∀ (mv : Nat) (s : State), mv < 520 → ∃ t, exec (.coreReset mv) s = .next t ∧ chipClear t ∧ t.pw.held = true ∧
    t.pw.core = true ∧ t.pw.rstDone = false ∧ t.reg Reg.SS_CORE_RESETS = sat32 (s.reg Reg.SS_CORE_RESETS + 1)) ∧
  (∀ (strap : BitVec 2) (mv : Nat) (s : State), s.pw.held = true → s.pw.core = true → 700 < mv → s.vinReturned = true →
    s.pw.rstLow = false → ∃ t, exec (.coreResetRelease strap mv) s = .next t ∧ t.pw.held = false ∧ t.pw.core = false ∧
      t.pw.step = 1 ∧ t.pw.strap = strap.toNat ∧ t.pw.relAt = s.now ∧ t.mem = s.mem ∧ t.keep = s.keep)

/-- The start-up sequence (R387, R246). Each STARTUP_STEP takes the next step of the sequence; the member wait that expires
fails the members that are not there. Log entry 76 says what of this is the model's choice. -/
def Obligations.StartupSteps : Prop :=
  (∀ s : State, s.mode = 0 → s.pw.held = false → s.pw.step = 1 →
    exec .startupStep s = .next (State.settle { s.bootScan with pw.step := 2 })) ∧
  (∀ s : State, s.mode = 0 → s.pw.held = false → s.pw.step = 2 →
    ∃ u : State, exec .startupStep s = .next u.settle ∧ u.pw.step = 3 ∧ u.pw.rstDone = true) ∧
  (∀ s : State, s.mode = 0 → s.pw.held = false → s.pw.step = 3 →
    ∃ u : State, exec .startupStep s = .next u.settle ∧ u.pw.step = 4 ∧ u.hp.cfgReady = true ∧ u.flag Reg.DC_STATUS 3 = false ∧
      u.pw.trainAt = s.now ∧ u.mem = s.mem ∧ u.keep = s.keep ∧ u.cmds = s.cmds) ∧
  (∀ s : State, s.mode = 0 → s.pw.held = false → s.pw.step = 4 → (s.usedPorts.all s.portSettled) = true →
    ∃ u : State, exec .startupStep s = .next u.settle ∧ u.pw.step = 9) ∧
  (∀ s : State, s.mode = 0 → s.pw.step = 4 → s.due s.sv.startAt (1000 * clampN 1000 60000 (s.fld Reg.RV_STARTUP 15 0)) = true →
    exec .memberWaitExpiry s = .next (((s.usedPorts.filter fun p => !s.portSettled p).foldl (fun s p =>
      s.failMember p (if (s.port p).present then 1 else 4)) s).settle))

/-- PFD and the first steps of a power failure (R148, R150, R152). VIN below its threshold or PF_N low declares PFD and marks
its time; the dump voltage, the stop of destage and the snapshot follow at their times, each after the step before it. Log entry
81 says what of this is the model's choice. -/
def Obligations.PowerFailure : Prop :=
  ((∀ (mv : Nat) (s : State), mv < s.vinTh → s.pfd = false → s.pw.held = false → 3 ≤ s.pw.step →
    ∃ u : State, exec (.vinFilterExpiry mv) s = .next u.settle ∧ u.hm.pfdAt = s.now ∧ u.hm.pfdTime = s.time ∧ u.hm.supAt = some s.now ∧
      u.hm.vinAt = none ∧ u.hm.stopped = false ∧ u.hm.snapped = false) ∧
  (∀ s : State, s.pfd = false → s.pw.held = false → 3 ≤ s.pw.step →
    ∃ u : State, exec .pfNLow s = .next u.settle ∧ u.hm.pfdAt = s.now ∧ u.hm.pfdTime = s.time ∧ u.hm.supAt = some s.now ∧
      u.hm.vinAt = none ∧ u.hm.stopped = false ∧ u.hm.snapped = false) ∧
  (∀ (cause : Nat) (s : State), cause < 4 → (s.pfdFlags cause).pfd = true ∧ (s.pfdFlags cause).fld Reg.HM_STATUS 7 6 = cause ∧
    (s.pfdFlags cause).fld Reg.HM_STATUS 2 0 = 1 ∧ (s.pfdFlags cause).flag Reg.HM_STATUS 3 = false ∧
    (s.pfdFlags cause).gate = Gate.pfd ∧ s.pfdFlags cause = { s with regs := (s.pfdFlags cause).regs })) ∧
  ((∀ (s : State) (t : Nat), s.hm.supAt = some t → s.pfd = true → s.stepDue t 10 = true → s.hm.vcore = false →
    ∃ u : State, exec .dumpVcoreRequest s = .next u ∧ u.hm.vcore = true ∧
      (s.hm.late = 0 → u.fld Reg.SS_STATUS 10 9 = s.fld Reg.SS_VCORE 3 2 ∧
        u = { s with hm.vcore := true, regs := u.regs, pw := u.pw })) ∧
  (∀ s : State, s.pfd = true → s.stepDue s.hm.pfdAt 50 = true → s.hm.stopped = false → s.step3Past = true →
    ∃ u : State, u = s.md.tasks.foldl State.destageUndo { s with hm.stopped := true, ld.destageStopped := true } ∧
      exec .destageStop s = .next u.settle ∧ (s.md.tasks = [] → u.hm.stopped = true ∧ u.ld.destageStopped = true)) ∧
  (∀ (s : State) (n : Nat) (x : Task), x.kind = .destage n → s.destageUndo x = if x.opened then s
    else (s.endTask x.id).frameAgain n false) ∧
  (∀ s : State, s.pfd = true → s.stepDue s.hm.pfdAt 100 = true → s.hm.stopped = true → s.hm.snapped = false →
    exec .dumpSnapshot s = .next s.dumpSnap.settle ∧ s.dumpSnap.hm.snapped = true ∧
    (State.makesImage { s with hm.snapped := true, ld.movesStopped := true } = true → s.dumpSnap.hm.dump.isSome = true) ∧
    (State.makesImage { s with hm.snapped := true, ld.movesStopped := true } = false →
      s.dumpSnap = { s with hm.snapped := true, ld.movesStopped := true })))

/-- VIN returns or breaks away, resume, the Droop Guard and VDD_KEEP (R149, R164, R353, R378). VIN's return and its break are
marked, service resumes after the wait, droop stages and dump-only show and count, and a low VDD_KEEP inhibits Keep writes. -/
def Obligations.SupplyReturns : Prop :=
  ((∀ (mv : Nat) (s : State), s.vinTh + 1000 ≤ mv → ∃ u : State, exec (.vinReturn mv) s = .next u ∧ u.pw.vin = mv ∧ u.pw.pfLow = false ∧
    u.flag Reg.SS_STATUS 1 = true ∧ (s.pfd = true → s.hm.vinAt = none → u.hm.vinAt = some s.now ∧ u.flag Reg.HM_STATUS 8 = true) ∧
    u.mem = s.mem ∧ u.keep = s.keep ∧ u.cmds = s.cmds) ∧
  (∀ (mv : Nat) (s : State), mv < s.vinTh + 1000 → ∃ u : State, exec (.vinBreak mv) s = .next u ∧ u.pw.vin = mv ∧
    u.flag Reg.SS_STATUS 1 = false ∧ u.flag Reg.HM_STATUS 8 = false ∧ u.hm.vinAt = none ∧ u.mem = s.mem ∧ u.keep = s.keep ∧
    u.cmds = s.cmds) ∧
  (∀ (s : State) (t : Nat), s.hm.vinAt = some t → s.pfd = true → s.flag Reg.HM_STATUS 3 = true → s.due t s.resumeUs = true →
    s.hm.rstWait = false → exec .resumeWaitExpiry s = .next s.serviceResume.settle)) ∧
  ((∀ (mv : Nat) (s : State), s.droopCode = 0 → s.fld Reg.SS_STATUS 3 2 = 0 → ∃ u : State, exec (.droopStage mv) s = .next u ∧
    u.fld Reg.SS_STATUS 3 2 = (if mv < 640 then 2 else if mv < 700 then 1 else 0) ∧
    u.reg Reg.SS_DROOPS = (if mv < 700 then sat32 (s.reg Reg.SS_DROOPS + 1) else s.reg Reg.SS_DROOPS) ∧
    u = { s with regs := u.regs }) ∧
  (∀ (mv : Nat) (s : State), ∃ u : State, exec (.dumpOnlyEntry mv) s = .next u ∧
    u.flag Reg.SS_STATUS 4 = (decide (mv < 580) || (s.flag Reg.SS_STATUS 4 && decide (mv ≤ 585))) ∧
    u.flag Reg.LM_STATUS 4 = u.flag Reg.SS_STATUS 4 ∧
    u.reg Reg.SS_DUMPONLY = (if mv < 580 ∧ s.flag Reg.SS_STATUS 4 = false then sat32 (s.reg Reg.SS_DUMPONLY + 1)
      else s.reg Reg.SS_DUMPONLY) ∧
    u = { s with regs := u.regs }) ∧
  (∀ s : State, s.due s.pw.codeAt 50 = true → ∃ u : State, exec .vcoreSettleExpiry s = .next u ∧
    u.pw.oldCode = s.fld Reg.SS_STATUS 10 9 ∧ u = { s with regs := u.regs, pw := u.pw }) ∧
  (∀ s : State, s.kp.inhibit = false → ∀ mv, mv < 740 → ∃ u : State, exec (.keepLowVoltage mv) s = .next u ∧ u.kp.inhibit = true ∧
    u.flag Reg.KP_STATUS 0 = false ∧ u.keep = s.keep ∧ u.mem = s.mem ∧ u.cmds = s.cmds))

/-- Clock loss, THERM_N and the power states (R379, R380, R381, R382). A lost clock shows and counts, THERM_N follows the limit
with hysteresis, and the Sleep Planner and wake events move the power state. Log entries 84 and 87 say what of this is the
model's choice. -/
def Obligations.ClocksAndPower : Prop :=
  ((∀ s : State, exec (.refclkLoss .href) s = .next (s.bump Reg.SS_CLKLOSS).hostLinkLost) ∧
  (∀ (s : State) (clk : RefClk) (b : Nat), (clk = .mref ∧ b = 6) ∨ (clk = .xtal ∧ b = 5) ∨ (clk = .aonclk ∧ b = 7) →
    s.flag Reg.SS_STATUS b = false →
    ∃ u : State, exec (.refclkLoss clk) s = .next u ∧ u.flag Reg.SS_STATUS b = true ∧
      u.reg Reg.SS_CLKLOSS = sat32 (s.reg Reg.SS_CLKLOSS + 1) ∧ u.mem = s.mem ∧ u.keep = s.keep ∧ u.cmds = s.cmds ∧ u.hp = s.hp)) ∧
  (∀ (tj : Int) (s : State), -0x8000 ≤ tj → tj < 0x8000 → ∃ u : State, exec (.thermCrossing tj) s = .next u ∧
    u.tjNow = tj ∧ u.mem = s.mem ∧ u.keep = s.keep ∧ u.cmds = s.cmds ∧
    (tj ≥ (10 * clampN 85 150 (s.fld Reg.SS_THERM 7 0) : Nat) → u.flag Reg.SS_STATUS 8 = true) ∧
    (tj < (10 * clampN 85 150 (s.fld Reg.SS_THERM 7 0) : Nat) - (10 * max 1 (s.fld Reg.SS_THERM 11 8) : Nat) →
      u.flag Reg.SS_STATUS 8 = false)) ∧
  ((∀ (w : WakeSrc) (s : State), ∃ u : State, exec (.wakeEvent w) s = .next u ∧ u.spState = 0 ∧
    u.reg Reg.SP_WAKES = sat32 (s.reg Reg.SP_WAKES + 1) ∧ u = { s with regs := u.regs, pw := u.pw }) ∧
  (∀ s : State, s.pw.held = false → ∃ u : State, exec .sleepEval s = .next u ∧
    u.spState = (if s.spHold.spWant = 0 then 0 else max s.spState s.spHold.spWant) ∧
    u.reg Reg.SP_NEXT_US = s.spHold.tNext ∧ u.reg Reg.SP_HOST_US = s.spHold.tHost % 2 ^ 32 ∧ u = { s with regs := u.regs, pw := u.pw }))

/-- DRAM upkeep, saved time and speed monitors (R389, R385, R19). The refresh rate follows Tj, DRAM training and the saved time
run at their times, and the speed windows measure and clear. Log entry 83 says what of this is the model's choice. -/
def Obligations.Upkeep : Prop :=
  ((∀ (tj : Int) (s : State), ∃ u : State, exec (.refreshRateStep tj) s = .next u ∧ u.mem = s.mem ∧ u.keep = s.keep ∧ u.cmds = s.cmds ∧
    u.flag Reg.DC_STATUS 4 = decide (tj > 1350) ∧
    (tj > 1250 → u.fld Reg.DC_STATUS 1 0 = 3) ∧ (tj ≤ 820 → u.fld Reg.DC_STATUS 1 0 = 0)) ∧
  (∀ (tj : Int) (s : State), s.flag Reg.DC_STATUS 2 = false → s.flag Reg.DC_STATUS 3 = false →
    s.due s.pw.trainAt (1000000 * clampN 10 3600 (s.fld Reg.DC_RETRAIN 15 0)) = true ∨ (tj - s.pw.trainTj).natAbs ≥ 200 →
    ∃ u : State, exec (.dramRetrain tj) s = .next u ∧ u.pw.trainAt = s.now ∧ u.pw.trainTj = tj ∧
      u.reg Reg.DC_RETRAINS = sat32 (s.reg Reg.DC_RETRAINS + 1) ∧ u.mem = s.mem ∧ u.keep = s.keep ∧ u.cmds = s.cmds)) ∧
  (∀ s : State, s.pw.held = false → s.due s.pw.savedAt 60000000 = true → s.kp.inhibit = false →
    ∃ u : State, exec .timeSaveTimer s = .next u ∧ u.reg64 Reg.SS_TSAVE_LO = s.time % 2 ^ 64 ∧ u.pw.savedAt = s.now ∧
      u.mem = s.mem ∧ u.cmds = s.cmds) ∧
  ((∀ (laps : List Nat) (s : State), ∃ u : State, exec (.speedWindow laps) s = .next u ∧
    (∀ n, n < 8 → u.fld (Reg.LN_MON n) 9 0 = min 1023 (256 * laps.getD n 0 / Config.lapTrim n) ∧
      u.fld (Reg.LN_MON n) 25 16 = min (s.fld (Reg.LN_MON n) 25 16) (u.fld (Reg.LN_MON n) 9 0) ∧
      u.fld Reg.LN_SPEED 9 0 ≤ u.fld (Reg.LN_MON n) 9 0) ∧
    u.fld Reg.LN_SPEED 31 16 = (s.fld Reg.LN_SPEED 31 16 + 1) % 65536 ∧ u = { s with regs := u.regs, pw := u.pw }) ∧
  (∀ (n : Nat) (s : State), n < 8 → ∃ u : State, exec (.lowClr n) s = .next u ∧ u.fld (Reg.LN_MON n) 25 16 = 0x3FF ∧
    u.fld (Reg.LN_MON n) 9 0 = s.fld (Reg.LN_MON n) 9 0 ∧ u = { s with regs := u.regs }))

/-- Host resets and the host link (R302, R304, R305, R307). PERST#, hot reset and link loss clear the HOST domain; the release
of PERST# and a link that comes up open configuration. Log entry 28 says what of this is the model's choice. -/
def Obligations.HostLink : Prop :=
  ((∀ s : State, ∃ u : State, exec .perstAssert s = .next u.settle ∧ hostClear u ∧ u.flag Reg.HP_STATUS 1 = true ∧
    u.flag Reg.HP_STATUS 0 = false) ∧
  (∀ s : State, ∃ u : State, exec .hotReset s = .next u.settle ∧ hostClear u) ∧
  (∀ s : State, s.flag Reg.HP_STATUS 0 = true → s.flag Reg.HP_STATUS 1 = false →
    ∃ u : State, exec .hostLinkDown s = .next u.settle ∧ hostClear u ∧ u.flag Reg.HP_STATUS 0 = false)) ∧
  ((∀ s : State, ∃ u : State, exec .perstRelease s = .next u ∧ u.flag Reg.HP_STATUS 1 = false ∧ u = { s with regs := u.regs }) ∧
  (∀ (w v : Nat) (s : State), s.flag Reg.HP_STATUS 1 = false → ∃ u : State, exec (.hostLinkUp w v) s = .next u ∧
    u.flag Reg.HP_STATUS 0 = true ∧ u.fld Reg.HP_STATUS 7 4 = w % 16 ∧ u.fld Reg.HP_STATUS 10 8 = v % 8 ∧ u.hp.wake = false ∧
    u = { s with regs := u.regs, hp := u.hp }))

/-- FLR, Bus Master Enable and the D states of a function (R296, R297, R303, R306). FLR stops its function and then resets it;
clearing Bus Master Enable halts the function's rings and setting it starts none; D3hot and D0 show. Log entry 20 says what of
this is the model's choice. -/
def Obligations.FunctionStates : Prop :=
  ((∀ (f : Func) (s : State), s.inFlr f = false → ∃ u : State, exec (.flr f) s = .next u.settle ∧ u.inFlr f = true ∧
    (∀ e ∈ u.rg.sq, keyFunc e.1 = f → e.2.state = 0) ∧ (∀ e ∈ u.rg.cq, keyFunc e.1 = f → e.2.state = 0)) ∧
  (∀ (f : Func) (s : State) (t : Nat), s.flrAt f = some t →
    s.hp.reads.all (fun r => r.req.f != f) = true ∨ s.due t 10000 = true → ∃ u : State, exec (.flrWaitDone f) s = .next u.settle ∧
      u.inFlr f = false ∧ u.bme f = false ∧ u.dstate f = 0 ∧ (∀ e ∈ u.rg.sq, keyFunc e.1 ≠ f) ∧
      (∀ i ∈ u.rg.inl, i.f ≠ f) ∧ (∀ e ∈ u.hp.msix, keyFunc e.1 ≠ f))) ∧
  ((∀ (f : Func) (s : State), s.bme f = true → ∃ u : State, exec (.bmeClear f) s = .next u.settle ∧
    (∀ e ∈ u.rg.sq, keyFunc e.1 = f → e.2.state ≠ 1) ∧ (∀ e ∈ u.rg.cq, keyFunc e.1 = f → e.2.state ≠ 1)) ∧
  (∀ (f : Func) (s : State), s.bme f = false → exec (.bmeSet f) s =
    .next (((s.setFlag Reg.HP_STATUS (bmeBit f) true).msixPump f).reSignal f)) ∧
  (∀ (f : Func) (s : State), s.dstate f ≠ 3 → ∃ u : State, exec (.d3hotEntry f) s = .next u.settle ∧ u.dstate f = 3 ∧
    (s.bme f = true → ∀ e ∈ u.rg.sq, keyFunc e.1 = f → e.2.state ≠ 1)) ∧
  (∀ (f : Func) (s : State), ∃ u : State, exec (.d0Return f) s = .next u ∧ u.dstate f = 0 ∧
    u = { s with regs := u.regs }))

/-- Configuration requests (R286, R287, R305). A request is retried until it may be served; a read gives what the tables fix
(the rest is a free value, log entry 10), a write is kept. Log entries 20 and 88 say what of this is the model's choice. -/
def Obligations.ConfigSpace : Prop :=
  (∀ (f : Func) (off : Nat) (wr : Option W32) (s : State), s.hp.cfgReady = false ∨ s.flag Reg.HP_STATUS 1 = true ∨ s.inFlr f = true →
    exec (.configRequest f off wr) s = .next { s with out := s.out ++ [.cfgRetry f] }) ∧
  (∀ (f : Func) (off : Nat) (s : State), s.hp.cfgReady = true → s.flag Reg.HP_STATUS 1 = false → s.inFlr f = false → off % 4 = 0 →
    ∃ v : W32, exec (.configRequest f off none) s = .next { s with out := s.out ++ [.cfgReply f off v], free := s.free + 1 } ∧
      v.toNat &&& (s.cfgKnown f off).1 = (s.cfgKnown f off).2 &&& (s.cfgKnown f off).1) ∧
  (∀ (f : Func) (off : Nat) (v : W32) (s : State), s.hp.cfgReady = true → s.flag Reg.HP_STATUS 1 = false → s.inFlr f = false →
    off % 4 = 0 → off < 4096 → off ≠ 0x04 → off ≠ 0x44 → off ≠ 0x50 → off ≠ 0x68 → ∃ u : State,
      exec (.configRequest f off (some v)) s = .next u.settle ∧ u.cfgW f off = v.toNat ∧
      u = { s with hp.cfg := u.hp.cfg })

/-- Invalid BAR0 accesses and the windows of BAR2 (R289, R291, R292, R299). An access that breaks the rule is dropped and
counted; a BAR2 access no entry serves is a miss, and one inside a window reads or writes the bytes it translates to. Log
entries 89 and 90 say what of this is the model's choice. -/
def Obligations.BarAccess : Prop :=
  ((∀ (f : Func) (off len : Nat) (wr : Bool) (s : State), bar0Invalid f off len wr = true → s.pf0Dropped f = false →
    ∃ u : State, exec (.bar0InvalidAccess f off len wr) s = .next u ∧ u.reg Reg.HP_BADACC = sat32 (s.reg Reg.HP_BADACC + 1) ∧
      u.out = (if wr then s.out else s.out ++ [.barReply f 0 (zeros len)]) ∧ u = { s with regs := u.regs, out := u.out }) ∧
  (∀ (off len : Nat) (s : State), bar0Invalid .pf0 off len true = true → s.frozen = true →
    ∃ u : State, exec (.bar0InvalidAccess .pf0 off len true) s = .next u ∧
      u.reg Reg.HP_DROP_FRZ = sat32 (s.reg Reg.HP_DROP_FRZ + 1) ∧ u = { s with regs := u.regs })) ∧
  ((∀ (f : Func) (off len : Nat) (ecc : Bool) (s : State), s.pf0Dropped f = false → 0 < len → s.winFind f off = none →
    ∃ u : State, exec (.bar2Access f off len none ecc) s = .next u ∧ u.reg Reg.WT_MISS = sat32 (s.reg Reg.WT_MISS + 1) ∧
      u.out = s.out ++ [.barReply f 1 []] ∧ u = { s with regs := u.regs, out := u.out }) ∧
  (∀ (f : Func) (off len w : Nat) (s : State), s.pf0Dropped f = false → 0 < len → s.winFind f off = some w →
    off + len ≤ Win.base s w + Win.size s w → s.flag (Reg.WT_E_CTRL w) 2 = true →
    winArea (Win.tgt s w + (off - Win.base s w)) len = 1 →
    exec (.bar2Access f off len none false) s =
      .next { s with out := s.out ++ [.barReply f 0 (s.memN (Win.tgt s w + (off - Win.base s w)) len)] }) ∧
  (∀ (f : Func) (off w : Nat) (d : List Byte) (s : State), s.pf0Dropped f = false → 0 < d.length → s.winFind f off = some w →
    off + d.length ≤ Win.base s w + Win.size s w → s.flag (Reg.WT_E_CTRL w) 3 = true → s.mode = 3 →
    winArea (Win.tgt s w + (off - Win.base s w)) d.length = 1 →
    exec (.bar2Access f off d.length (some d) false) s = .next (s.memPut (Win.tgt s w + (off - Win.base s w)) d)))

/-- Freeze and the idle LTR message (R298, R299, R300, R308). A datapath error and the force bit freeze PF0, the release ends
it, and an idle PF0 sends its idle latency once. Log entry 20 says what of this is the model's choice. -/
def Obligations.FreezeAndLtr : Prop :=
  ((∀ s : State, s.frozen = false → ∃ u : State, exec .hpDatapathError s = .next u.settle ∧ u.frozen = true ∧
    u.fld Reg.HP_FREEZE 3 0 = 4) ∧
  (∀ s : State, s.frozen = false → ∃ u : State, exec .freezeForce s = .next u.settle ∧ u.frozen = true ∧
    u.fld Reg.HP_FREEZE 3 0 = 5) ∧
  (∀ s : State, s.frozen = true → s.flag Reg.HP_FREEZE 4 = true → ∃ u : State, exec .freezeRelease s = .next u ∧ u.frozen = false ∧
    u.hp.quar = [] ∧ u.reg Reg.HP_FREEZE = 0) ∧
  (∀ s : State, s.flag Reg.HP_FREEZE 4 = false → exec .freezeRelease s = .next s)) ∧
  (∀ (s : State) (t : Nat), s.hp.ltrIdle = some t → s.due t 1000 = true → s.cmds.any (fun c => isPf0 c.f) = false →
    bit (s.cfgW .pf0 0x88) 10 = true → s.flag Reg.HP_STATUS 0 = true → s.dstate .pf0 = 0 →
    s.hp.ltrLast ≠ some (s.fld Reg.HP_LTR 25 16) → ∃ u : State, exec .ltrIdleTimer s = .next u ∧
      u.out = s.out ++ [.ltr (s.fld Reg.HP_LTR 25 16)] ∧ u.hp.ltrLast = some (s.fld Reg.HP_LTR 25 16) ∧
      u = { s with out := u.out, hp := u.hp })

/-- Doorbells (R313, R314, R315). A legal doorbell moves the tail or the head, an illegal one halts the ring or is dropped and
counted. -/
def Obligations.Doorbells : Prop :=
  (∀ (f : Func) (q : Nat) (v : W32) (s : State), s.pf0Dropped f = false → (s.sq f q).state = 1 →
    posValid (s.sqN f q) (v.toNat % 2 ^ 17) = true →
    posDiff (s.sqN f q) (s.sq f q).tail (v.toNat % 2 ^ 17) ≤ s.sqN f q - s.sqOcc f q →
    exec (.sqTailDoorbell f q v) s = .next (s.setSq f q { s.sq f q with tail := v.toNat % 2 ^ 17 })) ∧
  (∀ (f : Func) (q : Nat) (v : W32) (s : State), s.pf0Dropped f = false → (s.sq f q).state = 1 →
    posValid (s.sqN f q) (v.toNat % 2 ^ 17) = false ∨
      s.sqN f q - s.sqOcc f q < posDiff (s.sqN f q) (s.sq f q).tail (v.toNat % 2 ^ 17) →
    ∃ u : State, exec (.sqTailDoorbell f q v) s = .next u ∧ u.sq f q = { s.sq f q with state := 5, err := 1 } ∧
      u.reg (Reg.RG_BADDB (isPf0 f)) = sat32 (s.reg (Reg.RG_BADDB (isPf0 f)) + 1)) ∧
  (∀ (q : Nat) (v : W32) (s : State), s.frozen = true → exec (.sqTailDoorbell .pf0 q v) s = .next (s.bump Reg.HP_DROP_FRZ) ∧
    exec (.cqHeadDoorbell .pf0 q v) s = .next (s.bump Reg.HP_DROP_FRZ)) ∧
  (∀ (f : Func) (q : Nat) (v : W32) (s : State), s.pf0Dropped f = false → (s.cq f q).state ≠ 0 → (s.cq f q).waitAt = none →
    posValid (s.cqN f q) (v.toNat % 2 ^ 17) = true →
    posDiff (s.cqN f q) (s.cq f q).head (v.toNat % 2 ^ 17) ≤ posDiff (s.cqN f q) (s.cq f q).head (s.cq f q).tail →
    exec (.cqHeadDoorbell f q v) s = .next (s.setCq f q { s.cq f q with head := v.toNat % 2 ^ 17 }))

/-- Inline push slots (R321, R322, R326, R329). Writes gather in a slot, a full slot is pushed, a flush and a stale slot give it
up. -/
def Obligations.InlinePush : Prop :=
  (∀ (f : Func) (q : Nat) (d : List Byte) (s : State), s.pf0Dropped f = false → d.length = 64 → (s.sq f q).state = 1 →
    s.sqInline f q = true → s.sqOcc f q < s.sqN f q → s.rg.inl.length < 128 →
    ∃ u : State, exec (.inlineSlotWrite f q 0 d) s = .next u ∧
      u.rg.inl = s.rg.inl ++ [⟨f, q, (s.sq f q).tail, d, s.now⟩] ∧
      u.sq f q = { s.sq f q with asm := none, tail := posAdd (s.sqN f q) (s.sq f q).tail 1 } ∧
      u = { s with rg.inl := u.rg.inl, rg.sq := u.rg.sq }) ∧
  (∀ (f : Func) (q off : Nat) (d : List Byte) (s : State), s.pf0Dropped f = false → inlineOk off d.length = false →
    exec (.inlineSlotWrite f q off d) s = .next (s.bump Reg.HP_BADACC)) ∧
  (∀ (f : Func) (q : Nat) (s : State), s.pf0Dropped f = false → ∃ u : State, exec (.inlFlush f q) s = .next u ∧
    u.rg.inl = s.rg.inl.filter (fun i => !(i.f == f && i.q == q)) ∧ u.sq f q = { s.sq f q with asm := none } ∧
    u = { s with rg.inl := u.rg.inl, rg.sq := u.rg.sq }) ∧
  (∀ (i : InlItem) (s : State), s.rg.inl.find? (fun i => s.due i.at_ s.inlStaleUs) = some i →
    exec .inlineStaleTimeout s = .next (({ s with rg.inl := s.rg.inl.erase i } : State).bump Reg.BK_INL_STALES))

/-- Enabling, disabling and draining rings (R312, R323, R324). A submission ring that may be enabled runs from its head and a
completion ring from index 0, a disabled ring drains, and the end of the drain shows it DISABLED with no error code. Log entry
31 says what of this is the model's choice. -/
def Obligations.RingStates : Prop :=
  (∀ (f : Func) (q : Nat) (s : State), s.pf0Dropped f = false → (s.sq f q).state = 0 → s.hrAddr f q ≠ 0 →
    (s.cq f (s.sqCq f q)).state = 1 → ∃ u : State, exec (.sqEnable f q) s = .next u ∧
      u.sq f q = { s.sq f q with state := 1, err := 0, tail := (s.sq f q).head, asm := none, headAt := none, ownAt := none } ∧
      u.flag (Reg.RG_SQ_CTRL (isPf0 f) q) 0 = true ∧ u = { s with regs := u.regs, rg.sq := u.rg.sq }) ∧
  (∀ (f : Func) (q : Nat) (s : State), s.pf0Dropped f = false → (s.sq f q).state = 0 →
    s.hrAddr f q = 0 ∨ (s.cq f (s.sqCq f q)).state ≠ 1 →
    exec (.sqEnable f q) s = .next (s.setFlag (Reg.RG_STATUS (isPf0 f)) 0 true)) ∧
  (∀ (f : Func) (q : Nat) (s : State), s.pf0Dropped f = false → (s.sq f q).state ≠ 0 →
    ∃ u : State, exec (.sqDisable f q) s = .next u ∧ u.sq f q = { s.sq f q with state := 2, asm := none } ∧
      u.flag (Reg.RG_SQ_CTRL (isPf0 f) q) 0 = false ∧ u = { s with regs := u.regs, rg.sq := u.rg.sq, hp := u.hp }) ∧
  (∀ (f : Func) (q : Nat) (s : State), (s.sq f q).state = 2 → s.inFlight f q = false →
    ∃ u : State, exec (.ringDrainDone f q) s = .next u ∧ (u.sq f q).state = 0 ∧ (u.sq f q).err = 0 ∧
      (s.canIssue f = true → (u.sq f q).pub = (s.sq f q).head) ∧ u.regs = s.regs ∧ u.mem = s.mem ∧ u.cmds = s.cmds) ∧
  (∀ (f : Func) (q : Nat) (s : State), s.pf0Dropped f = false → (s.cq f q).state = 0 →
    ∃ u : State, exec (.cqEnable f q) s = .next u ∧ u.cq f q = { s.cq f q with
      state := 1, head := 0, tail := 0, unsig := 0, waitAt := none, stalled := false, pollAt := none } ∧
      u.flag (Reg.RG_CQ_CTRL (isPf0 f) q) 0 = true ∧ u = { s with regs := u.regs, rg.cq := u.rg.cq }) ∧
  (∀ (f : Func) (q : Nat) (s : State), s.pf0Dropped f = false → (s.cq f q).state ≠ 0 →
    s.rg.sq.any (fun e => keyFunc e.1 == f && e.2.state != 0 && s.sqCq f (e.1 % 256) == q) = true →
    exec (.cqDisable f q) s = .next (s.setFlag (Reg.RG_STATUS (isPf0 f)) 0 true)) ∧
  (∀ (f : Func) (q : Nat) (s : State), s.pf0Dropped f = false → (s.cq f q).state ≠ 0 →
    s.rg.sq.any (fun e => keyFunc e.1 == f && e.2.state != 0 && s.sqCq f (e.1 % 256) == q) = false →
    ∃ u : State, exec (.cqDisable f q) s = .next u ∧ (u.cq f q).state = 0 ∧ u.flag (Reg.RG_CQ_CTRL (isPf0 f) q) 0 = false ∧
      u.cmds = s.cmds ∧ u.mem = s.mem ∧ u.rg.sq = s.rg.sq)

/-- Head reports, interrupts and the Collector (R295, R320, R327, R331, R332, R333, R334, R335, R349). Reports, MSI-X messages,
deposits, drains and notices take the effect the rules give at their times. Log entries 13 and 17 say what of this is the
model's choice. -/
def Obligations.RingReports : Prop :=
  ((∀ (f : Func) (q t : Nat) (s : State), (s.sq f q).headAt = some t → s.due t 2 = true → s.canIssue f = true →
    ∃ u : State, exec (.headReportTimer f q) s = .next u ∧ u.sq f q = { s.sq f q with pub := (s.sq f q).head, headAt := none } ∧
      u.out = s.out ++ [.memWrite f (s.hrAddr f q) (toLe 8 (s.sq f q).head)] ∧ u = { s with out := u.out, rg.sq := u.rg.sq }) ∧
  (∀ (f : Func) (v : Nat) (s : State), (s.msixEnt f v).pend = true → s.msixEn f = true → s.msixFmask f = false →
    s.canIssue f = true → ∃ u : State, exec (.msixUnmask f v) s = .next u ∧
      u.msixEnt f v = { s.msixEnt f v with mask := false, pend := false } ∧
      u.out = s.out ++ [.msix f v (s.msixEnt f v).addr (s.msixEnt f v).data] ∧ u = { s with out := u.out, hp.msix := u.hp.msix }) ∧
  (∀ (f : Func) (q : Nat) (s : State), (s.cq f q).state = 1 → 0 < (s.cq f q).unsig → s.cqIen f q = true →
    s.due (s.cq f q).unsigAt (max 1 (s.fld (Reg.RG_CQ_COAL (isPf0 f) q) 23 8)) = true →
    exec (.coalesceTimeout f q) s = .next (s.signal f q) ∧ ((s.signal f q).cq f q) = { s.cq f q with unsig := 0 })) ∧
  ((∀ (r : Nat) (d : Deposit) (s : State), (s.sweepOrder.find? fun r => (s.presented r).isSome) = some r → s.presented r = some d →
    ∃ u : State, exec .collectorDeposit s = .next u ∧ u.rg.col = s.rg.col ++ [⟨r, d, s.now, false, !d.isNote, !d.isNote⟩] ∧
      u.rg.sweep = (r + 1) % 32 ∧ u.rg.units = mapUpd s.rg.units r [] (fun l => l.erase d) ∧ u.cmds = s.cmds ∧ u.mem = s.mem) ∧
  (∀ (f : Func) (c : Nat) (s : State), s.drainChoice = some (f, c) → exec .completionDrain s = .next (s.drainRing f c)) ∧
  (∀ s : State, s.rg.col.any (fun i => !i.promoted && s.due i.at_ s.colStaleUs) = true →
    ∃ u : State, exec .collectorPromoteTimeout s = .next u ∧
      u.rg.col = promoteFirst (fun i => !i.promoted && s.due i.at_ s.colStaleUs) s.rg.col ∧
      u.reg Reg.BK_COL_PROMOTED = sat32 (s.reg Reg.BK_COL_PROMOTED + 1) ∧ u = { s with regs := u.regs, rg.col := u.rg.col }) ∧
  (∀ (e : Nat × Cq) (s : State), s.rg.cq.find? s.stallDue = some e → ∃ u : State, exec .stallNoticeTimeout s = .next u ∧
      (u.cq (keyFunc e.1) (e.1 % 256)).stalled = true ∧ u.reg Reg.BK_COL_STALLS = sat32 (s.reg Reg.BK_COL_STALLS + 1) ∧
      u.cmds = s.cmds ∧ u.mem = s.mem) ∧
  (∀ (n : Note) (s : State), s.nextNotice = some n → s.noteRouted n = false → ∃ u : State, exec .noticeDrain s = .next u ∧
    u.rg.notices = s.rg.notices + 1 ∧ u.out = s.out ∧ u = { s with rg.col := u.rg.col, rg.notices := u.rg.notices }) ∧
  (∀ (n : Note) (s : State), s.nextNotice = some n → s.noteRouted n = true → 0 < s.cqRoom .pf1 s.rg.routeRing →
    s.canIssue .pf1 = true → ∃ u : State, exec .noticeDrain s = .next u ∧ u.rg.notices = s.rg.notices + 1 ∧
      (u.cq .pf1 s.rg.routeRing).tail = posAdd (s.cqN .pf1 s.rg.routeRing) (s.cq .pf1 s.rg.routeRing).tail 1 ∧
      (∃ o, u.out = s.out ++ .memWrite .pf1 (s.cqBase .pf1 s.rg.routeRing + 16 * posIdx (s.cq .pf1 s.rg.routeRing).tail)
        (compBytes (noteComp n s.rg.routeRing (s.rg.notices + 1))
          (if ownMode (s.cqN .pf1 s.rg.routeRing) then 1 else 1 - posLap (s.cq .pf1 s.rg.routeRing).tail)) :: o)))

/-- Fetching entries and polling owned completions (R317, R318, R319). A granted ring is served from the Basket or by one read
inside the ring; a full completion ring in ownership mode is polled. Log entry 92 says what of this is the model's choice. -/
def Obligations.RingFetching : Prop :=
  ((∀ (c k : Nat) (s t : State), s.inlSweep.grantPick = some (c, k, t) →
    exec .ringFetch s = .next (if k < 256 then ({ t with rg.rr := mapSet t.rg.rr c k } : State).ltrActive.grantRing .pf0 (k % 256)
      else ({ t with rg.rr := mapSet t.rg.rr c k } : State).grantRing .pf1 (k % 256)).settle) ∧
  (∀ (f : Func) (q t : Nat) (s : State), s.canIssue f = true → s.readTag f = some t →
    inlRun (s.rg.inl.take 16) f q (s.sqN f q) (min (min 8 (s.creditRoom f q)) (s.sqOcc f q)) (s.sq f q).head = [] →
    (s.grantRing f q).out = s.out ++ [.memRead f t (s.sqBase f q + 64 * posIdx (s.sq f q).head)
      (64 * min (min 8 (s.creditRoom f q)) (min (s.sqOcc f q) (s.sqN f q - posIdx (s.sq f q).head)))]) ∧
  (∀ (f : Func) (q t : Nat) (s : State), (s.sq f q).ownAt = some t → (s.sq f q).state = 1 → s.due t 1 = true →
    0 < s.creditRoom f q → s.canIssue f = true → (s.liveReads.any fun x => x.f == f && x.purp.ring == some q) = false →
    exec (.ownRereadTimeout f q) s = .next (s.tryRead
      ⟨f, s.sqBase f q + 64 * posIdx (s.sq f q).head, 64, .reread q (s.sq f q).head⟩).markPool)) ∧
  (∀ (f : Func) (q t : Nat) (s : State), ownMode (s.cqN f q) = true → (s.cq f q).state = 1 → s.cqRoom f q = 0 →
    s.cqWaiting f q = true → s.canIssue f = true → (s.cq f q).pollAt = none → s.readTag f = some t →
    ∃ u : State, exec (.cqOwnPoll f q) s = .next u ∧ (u.cq f q) = { s.cq f q with pollAt := some s.now } ∧
      u.out = s.out ++ [.memRead f t (s.cqBase f q + 16 * (posIdx (s.cq f q).head / 4 * 4)) 64])

/-- The ends of device-originated reads (R298, R301). A completion is taken once, a late or poisoned one counts, a read out of
time is quarantined and its tag comes back. Log entry 37 says what of this is the model's choice. -/
def Obligations.ReadEnds : Prop :=
  (∀ (tag : Nat) (d : List Byte) (r : HostRead) (s : State), s.hp.reads.find? (fun r => r.tag == tag) = some r →
    r.stopped = false → exec (.hostReadCompletion tag .ok d) s =
      .next ((s.readDone r).readData r.req d).markPool.pumpReads.settle) ∧
  (∀ (tag : Nat) (d : List Byte) (r : HostRead) (s : State), s.hp.reads.find? (fun r => r.tag == tag) = some r →
    r.stopped = false → exec (.hostReadCompletion tag .poison d) s =
      .next (((s.readDone r).bump Reg.HP_POISON).readFailed r 3).markPool.pumpReads.settle) ∧
  (∀ (tag : Nat) (st : RdStatus) (d : List Byte) (s : State), s.hp.reads.find? (fun r => r.tag == tag) = none →
    (s.hp.quar.any fun q => q.tag == tag) = true →
    exec (.hostReadCompletion tag st d) s = .next (s.bump Reg.HP_LATE).settle) ∧
  (∀ (cause : Nat) (r : HostRead) (s : State), s.flag Reg.HP_FRZ_CFG (cause - 1) = true → r.flr = false →
    s.readFailed r cause = s.freeze cause r.req.f) ∧
  (∀ (tag : Nat) (r : HostRead) (s : State), s.hp.reads.find? (fun r => r.tag == tag) = some r →
    s.due r.issued r.timeout = true → ∃ u : State, exec (.hostReadTimeout tag) s = .next (u.readFailed r 1).markPool.settle ∧
      (∀ x ∈ u.hp.reads, x.tag ≠ r.tag) ∧ u.hp.quar = s.hp.quar ++ [⟨tag, r.issued + 2 * r.timeout⟩] ∧
      u.reg Reg.HP_CTO = sat32 (s.reg Reg.HP_CTO + 1)) ∧
  (∀ (tag : Nat) (s : State), (s.hp.quar.any fun q => q.tag == tag && decide (s.now ≥ q.freeAt)) = true →
    exec (.tagQuarantineExpiry tag) s =
      .next (State.pumpReads { s with hp.quar := s.hp.quar.filter fun q => q.tag != tag }))

/-- Data commands of PF0 (R341, R342, R81, R109, R118, R122, R123). A command that fails its checks ends with the first failing
status; one that passes has the effect of its opcode. Log entries 58 and 96 say what of this is the model's choice. -/
def Obligations.DataCommands : Prop :=
  (∀ (i : Instr) (h o : Nat) (c : Cmd) (s : State),
    (i, o) ∈ [(Instr.read h, 0x01), (.write h, 0x02), (.writeZeroes h, 0x03), (.flush h, 0x04), (.deallocate h, 0x05),
      (.logRead h, 0x11), (.logTrim h, 0x12), (.volumeStatus h, 0x18), (.streamStatus h, 0x19)] →
    dataReady s h o c → s.check c ≠ St.success →
    exec i s = .next ((if s.check c = St.classMismatch then s.bump Reg.SV_CLASS_REJ else s).finishSt
      (Rank.larder (Ent.tgt c.ent)) c (s.check c)).settle) ∧
  (∀ (h o : Nat) (c : Cmd) (s : State), dataReady s h o c → s.check c = St.success →
    (o = 0x01 → exec (.read h) s = .next (s.readGo c).settle) ∧
    (∀ i, (i, o) ∈ [(Instr.write h, 0x02), (.writeZeroes h, 0x03), (.deallocate h, 0x05)] →
      exec i s = .next (if s.touchesLost c then s.finishSt (Rank.larder (Ent.tgt c.ent)) c St.lostData
        else s.writeAdmit { c with todo := List.range (Ent.p1 c.ent) }).settle) ∧
    (o = 0x04 → exec (.flush h) s = .next (s.finish (Rank.larder (Ent.tgt c.ent)) c).settle) ∧
    (o = 0x10 → s.appendTurn c = true → exec (.logAppend h) s = .next (s.append c).settle) ∧
    (o = 0x11 → exec (.logRead h) s = .next (s.logReadGo c).settle) ∧
    (o = 0x12 → exec (.logTrim h) s = .next ((s.trim (Ent.tgt c.ent) (Ent.p0 c.ent)).finish Rank.packer { c with
      res0 := (s.trim (Ent.tgt c.ent) (Ent.p0 c.ent)).trimOf (Ent.tgt c.ent) }).settle) ∧
    (o = 0x18 → exec (.volumeStatus h) s = .next ((s.hostWriteSegs c.f c.segs 0 (s.volStatus (Ent.tgt c.ent))).finish
      Rank.stateCache c).settle) ∧
    (o = 0x19 → exec (.streamStatus h) s = .next ((s.hostWriteSegs c.f c.segs 0 (s.streamStatus (Ent.tgt c.ent))).finish
      Rank.stateCache c).settle))

/-- A command ends with exactly one completion (R331, R339). Finishing a command deposits one completion behind what its unit
presents, removes the command, and changes no byte of DRAM, Keep, registers or output. Log entry 35 says what of this is the
model's choice. -/
def Obligations.Completion : Prop :=
  ∀ (rank : Nat) (c : Cmd) (s : State), c.quiet = false →
    mapGetD (s.finish rank c).rg.units rank [] = mapGetD s.rg.units rank [] ++ [.comp (compOf c)] ∧
    (∀ r, r ≠ rank → mapGetD (s.finish rank c).rg.units r [] = mapGetD s.rg.units r []) ∧
    (s.finish rank c).cmds = s.cmds.filter (fun d => d.h != c.h) ∧ (s.finish rank c).mem = s.mem ∧
    (s.finish rank c).keep = s.keep ∧ (s.finish rank c).regs = s.regs ∧ (s.finish rank c).out = s.out

/-- A READ the Larder serves (R81, R342). A one-block READ of a held block counts a hit, writes that block's bytes to the host
and ends the command. -/
def Obligations.ReadHit : Prop :=
  ∀ (h a n : Nat) (c : Cmd) (p : Place) (f : Frame) (z : Slot × Bool) (s : State), dataReady s h 0x01 c → c.h = h →
    s.check c = St.success → Ent.p1 c.ent = 1 → c.rd = none → c.segs = [(a, 4096)] → c.quiet = false → s.canIssue c.f = true →
    s.cmdPlace c 0 = some p → s.sstState p.a p.stripe ≠ Sst.lost → s.frameOf p.a p.stripe = some (n, f) →
    f.serve p.i p.o = some z → ∃ u : State, exec (.read h) s = .next u.settle ∧
      u.out = s.out ++ [.memWrite c.f a (bytesAt (s.memN (z.1.addr + 4096 * p.o) 4096) 0 4096)] ∧
      u.reg Reg.LD_HITS = sat32 (s.reg Reg.LD_HITS + 1) ∧ (∀ d ∈ u.cmds, d.h ≠ h) ∧ u.mem = s.mem ∧ u.keep = s.keep

/-- Streams: trim, placing a record, and holding (R111, R115, R116, R122). The trim point moves forward only and not past
VISIBLE; a record that fits takes the next SEQ and a time no earlier than the last; a HOLDING stream looks again every second.
-/
def Obligations.Streams : Prop :=
  (∀ (n seq : Nat) (x : Stream) (s : State), s.stream? n = some x → x.state ≠ 2 → s.kp.inhibit = false →
    ∃ y, (s.trim n seq).stream? n = some y ∧ y = { x with trim := max x.trim (min seq x.vis) } ∧ x.trim ≤ y.trim ∧
      (s.trim n seq).mem = s.mem ∧ (s.trim n seq).cmds = s.cmds) ∧
  (∀ (n len user a st : Nat) (r : ArrayRec) (x : Stream) (s : State), s.stream? n = some x →
    s.streamStripe x x.cur = some (a, r, st) → x.state ≠ 2 → recSize len ≤ x.room r →
    ∃ op y, (s.logPlace n len user).1 = .ok op ∧ (s.logPlace n len user).2 = s.setStream n y ∧ op.seq = x.next ∧
      op.time = max s.time x.lastTime ∧ op.stripe = x.cur ∧ y.next = x.next + 1 ∧ y.lastTime = op.time ∧
      op.off = 64 + (x.at_ x.cur).used ∧ (y.at_ x.cur).used = (x.at_ x.cur).used + recSize len) ∧
  (∀ (n : Nat) (x : Stream) (s : State), s.stream? n = some x → x.state = 2 → s.due x.holdAt 1000000 = true →
    exec (.holdingRecheck n) s = .next (if s.recyclable x x.nextStripe then
      (s.setStream n { x with state := 1 }).recycle n x.nextStripe else s.setStream n { x with holdAt := s.now }))

/-- Admin commands: checks and completion (R343, R344, R348). An admin command that fails a check ends with the first failing
status, one whose data is missing reads it first, and RES0 comes only with SUCCESS. Log entry 99 says what of this is the
model's choice. -/
def Obligations.AdminCommands : Prop :=
  (∀ (h st res0 : Nat) (c : Cmd) (s : State), s.cmd? h = some c → c.h = h → c.quiet = false →
    mapGetD (s.adminEnd h st res0).rg.units Rank.reeve [] = mapGetD s.rg.units Rank.reeve [] ++
      [.comp (compOf { c with status := st, res0 := if st = 0 then res0 else 0, res1 := 0, cflags := 0 })] ∧
    (∀ d ∈ (s.adminEnd h st res0).cmds, d.h ≠ h) ∧ (s.adminEnd h st res0).mem = s.mem ∧
    (s.adminEnd h st res0).keep = s.keep ∧ (s.adminEnd h st res0).regs = s.regs) ∧
  (∀ (i : Instr) (h o : Nat) (c : Cmd) (s : State),
    (i, o) ∈ [(Instr.arrayCreate h, 0x81), (.arrayDelete h, 0x82), (.volumeCreate h, 0x83), (.volumeDelete h, 0x84),
      (.volumeSet h, 0x85), (.spareSet h, 0x86), (.streamCreate h, 0x87), (.streamDelete h, 0x88), (.memberFail h, 0x89),
      (.rebuildInPlace h, 0x8A), (.stripeRelease h, 0x8B), (.setMode h, 0x8C), (.writeBack h, 0x8D), (.timeSet h, 0x8E),
      (.commission h, 0x8F), (.arrayImport h, 0x90), (.imageImport h, 0x91), (.fwDownload h, 0x92), (.fwActivate h, 0x93),
      (.getNonce h, 0x94), (.almanacClear h, 0x95), (.keySet h, 0x96), (.noticeRoute h, 0x97)] →
    adminReady s h o c →
    (s.check c ≠ St.success → exec i s = .next (s.adminEnd h (s.check c) 0).settle) ∧
    (s.check c = St.success → c.dataIn = false → exec i s = .next (s.adminRead c).settle))

/-- Arrays, volumes and spares by command (R48, R49, R50, R51, R97, R108, R173, R245, R248, R344). Each of these commands, once its
checks have passed and nothing refuses it, has the effect its row gives. Log entries 48 and 102 say what of this is the model's
choice. -/
def Obligations.ArrayAdmin : Prop :=
  ∀ (h o : Nat) (c : Cmd) (s : State), adminReady s h o c → s.check c = St.success → c.dataIn = true →
    ((∀ (r : ArrayRec) (ports : List Nat) (n base : Nat), o = 0x81 →
      r = { cfgOf (Ent.p1 c.ent) with h := s.fld Reg.ST_LAYOUT 4 0 * 262144 } → ports = mapPorts r c.adminData →
      n = (if Ent.p0 c.ent = 0 then min s.entryRoom (s.stripeRoom r ports) else Ent.p0 c.ent) → s.st.arrays.length < 4 →
      (∀ p ∈ ports, s.portAbsent p = false ∧ s.assigned p = false ∧ s.portUnfit p r.meta_ = false) →
      ports.eraseDups.length = ports.length → metaFits r = true → max 1 (Ent.p0 c.ent) ≤ s.stripeRoom r ports → 0 < n →
      firstFit s.entryRanges n sstEntries = some base → Ent.tgt c.ent ≠ 0xFFFF → s.arr? (Ent.tgt c.ent) = none →
      s.kp.inhibit = false → ∃ (u : State) (r' : ArrayRec) (t : Task), exec (.arrayCreate h) s = .next u.settle ∧
        u.arr? (Ent.tgt c.ent) = some r' ∧ r'.base = base ∧ r'.count = n ∧ r'.pos = ports ∧ r'.kind = r.kind ∧ r'.dw = r.dw ∧
        r'.k = r.k ∧ r'.created = s.time % 2 ^ 48 ∧ u.md.tasks = s.md.tasks ++ [t] ∧ t.kind = .create h ∧
        t.arr = Ent.tgt c.ent) ∧
    (o = 0x81 → 4 ≤ s.st.arrays.length → exec (.arrayCreate h) s = .next (s.adminEnd h St.limit 0).settle) ∧
    (o = 0x82 → (s.st.vols.any fun e => e.2.arr == Ent.tgt c.ent) = false → s.arrIn (Ent.tgt c.ent) 3 = false →
      ∃ (u : State) (t : Task), exec (.arrayDelete h) s = .next u.settle ∧ u.md.tasks.getLast? = some t ∧ t.kind = .delete h ∧
        t.arr = Ent.tgt c.ent) ∧
    (o = 0x82 → (s.st.vols.any fun e => e.2.arr == Ent.tgt c.ent) = true →
      exec (.arrayDelete h) s = .next (s.adminEnd h St.inUse 0).settle)) ∧
    ((∀ (v base : Nat) (r : ArrayRec), o = 0x83 → (List.range 256).find? (fun v => (s.vol? v).isNone) = some v →
      s.arr? (Ent.tgt c.ent) = some r → firstFit (s.volRuns (Ent.tgt c.ent)) (Ent.p0 c.ent) r.count = some base →
      s.kp.inhibit = false → ∃ u : State, exec (.volumeCreate h) s = .next (u.adminEnd h St.success v).settle ∧
        u.vol? v = some { cls := Ent.p1 c.ent % 4, arr := Ent.tgt c.ent, base := base, count := Ent.p0 c.ent, deleting := false
                          prio := bits (Ent.p1 c.ent) 18 16, deadline := Ent.p2 c.ent } ∧
        ∀ w, w ≠ v → u.vol? w = s.vol? w) ∧
    (∀ v : Vol, o = 0x84 → s.vol? (Ent.tgt c.ent) = some v → s.kp.inhibit = false → ∃ u : State,
      exec (.volumeDelete h) s = .next u.settle ∧ u.vol? (Ent.tgt c.ent) = some { v with deleting := true } ∧
        ∀ w, w ≠ Ent.tgt c.ent → u.vol? w = s.vol? w) ∧
    (∀ v : Vol, o = 0x85 → s.vol? (Ent.tgt c.ent) = some v → s.kp.inhibit = false → ∃ u : State,
      exec (.volumeSet h) s = .next (u.adminEnd h St.success 0).settle ∧ u.vol? (Ent.tgt c.ent) = some { v with
        deadline := if bit (Ent.p1 c.ent) 0 then Ent.p2 c.ent else v.deadline
        prio := if bit (Ent.p1 c.ent) 1 then bits (Ent.p1 c.ent) 18 16 else v.prio } ∧
      ∀ w, w ≠ Ent.tgt c.ent → u.vol? w = s.vol? w)) ∧
    ((o = 0x86 → bit (Ent.p1 c.ent) 0 = false → s.kp.inhibit = false → ∃ u : State,
      exec (.spareSet h) s = .next (u.sbSync.tlUpdate.adminEnd h St.success 0).settle ∧
      u.st.spares = mapErase s.st.spares (Ent.tgt c.ent) ∧ u.st.arrays = s.st.arrays ∧ u.st.vols = s.st.vols) ∧
    (∀ p, o = 0x86 → bit (Ent.p1 c.ent) 0 = true → p = bits (Ent.p1 c.ent) 5 1 → (s.port p).state ≠ Ps.absent →
      (s.port p).state ≠ Ps.rejected → s.portPos p = none →
      (s.st.spares.any fun e => e.1 != Ent.tgt c.ent && e.2.port == p) = false →
      s.spareUnfit p (bits (Ent.p1 c.ent) 11 8) = false → s.kp.inhibit = false → ∃ u : State,
      exec (.spareSet h) s = .next (u.orphansTake.sbSync.tlUpdate.adminEnd h St.success 0).settle ∧
      mapGet? u.st.spares (Ent.tgt c.ent) = some ⟨p, bits (Ent.p1 c.ent) 11 8⟩ ∧ u.st.arrays = s.st.arrays) ∧
    (o = 0x89 → exec (.memberFail h) s = .next ((s.failMember (Ent.p1 c.ent) 8).adminEnd h St.success 0).settle) ∧
    (∀ r : ArrayRec, o = 0x8A → s.arr? (Ent.tgt c.ent) = some r → (s.port (r.port (Ent.p1 c.ent))).state ≠ Ps.absent →
      s.inPlaceOk (r.port (Ent.p1 c.ent)) r = true → exec (.rebuildInPlace h) s =
        .next ((s.takeTarget (Ent.tgt c.ent) (Ent.p1 c.ent) (r.port (Ent.p1 c.ent)) true).adminEnd h St.success 0).settle)) ∧
    ((o = 0x8B → ∃ (u : State) (q : LgReq), exec (.stripeRelease h) s = .next u.settle ∧ q ∈ u.lg.reqs ∧ q.kind = Lk.close ∧
      q.arr = Ent.tgt c.ent ∧ q.stripe = Ent.p0 c.ent ∧ q.mask = 0 ∧ q.frame = 0xFFFFE ∧ q.cont = .release h) ∧
    (o = 0x90 → s.st.arrays.length < 4 → ∃ (u : State) (t : Task), exec (.arrayImport h) s = .next u.settle ∧
      u.flag Reg.LG_STATUS 5 = true ∧ u.md.tasks = s.md.tasks ++ [t] ∧ t.kind = .import_ h) ∧
    (o = 0x91 → s.hm.restore = none → ∃ (u : State) (x : Restore), exec (.imageImport h) s = .next u.settle ∧
      u.hm.restore = some x ∧ x.step = 10 ∧ x.cmd = h ∧ u.mem = s.mem ∧ u.keep = s.keep))

/-- Making and deleting volumes (R50). A volume takes the lowest free number and the first free run; a delete stores DELETING
first and clears the entries once nothing is in flight. Log entry 98 says what of this is the model's choice. -/
def Obligations.Volumes : Prop :=
  (∀ (v base : Nat) (c : Cmd) (r : ArrayRec) (s : State), (List.range 256).find? (fun v => (s.vol? v).isNone) = some v →
    s.arr? (Ent.tgt c.ent) = some r → firstFit (s.volRuns (Ent.tgt c.ent)) (Ent.p0 c.ent) r.count = some base →
    s.kp.inhibit = false → (s.volumeCreate c).vol? v = some { cls := Ent.p1 c.ent % 4, arr := Ent.tgt c.ent, base := base
                                                              count := Ent.p0 c.ent, deleting := false
                                                              prio := bits (Ent.p1 c.ent) 18 16, deadline := Ent.p2 c.ent } ∧
      (∀ w, w ≠ v → (s.volumeCreate c).vol? w = s.vol? w) ∧ (s.volumeCreate c).mem = s.mem) ∧
  ((∀ (c : Cmd) (v : Vol) (s : State), s.vol? (Ent.tgt c.ent) = some v → s.kp.inhibit = false →
    (s.volumeDelete c).vol? (Ent.tgt c.ent) = some { v with deleting := true } ∧
    (∀ w, w ≠ Ent.tgt c.ent → (s.volumeDelete c).vol? w = s.vol? w) ∧ (s.volumeDelete c).mem = s.mem) ∧
  (∀ (n : Nat) (v : Vol) (s : State), s.vol? n = some v → v.deleting = true → s.volBusy n = false → s.volTasks n = false →
    exec (.volumeDeleteProceed n) s =
      .next ((s.volFramesGo n).addTask (.volDelete (s.volDelH n) n) v.arr v.base 0 0 (.step 0)).2) ∧
  (∀ (n : Nonce) (s : State), s.kp.nonce = some n → s.due n.at_ 60000000 = true →
    exec .nonceExpiry s = .next { s with kp.nonce := none }))

/-- Streams, mode, time, routing and firmware by command (R110, R345, R346, R349, R359, R360, R371). Each of these commands,
once its checks have passed, has the effect its row gives; TIME_SET sets device time and SET_MODE the mode. Log entries 97 and
98 say what of this is the model's choice. -/
def Obligations.ServiceAdmin : Prop :=
  (∀ (h o : Nat) (c : Cmd) (s : State), adminReady s h o c → s.check c = St.success → c.dataIn = true →
    (o = 0x87 → exec (.streamCreate h) s = .next (s.streamCreate c).settle) ∧
    (o = 0x88 → exec (.streamDelete h) s = .next (s.streamDelete c).settle) ∧
    (o = 0x8C → exec (.setMode h) s = .next ((s.setMode (Ent.p1 c.ent + 1)).adminEnd c.h St.success 0).settle) ∧
    (o = 0x8D → exec (.writeBack h) s = .next (if Ent.p1 c.ent = 1 then s.wbSet.adminEnd c.h St.success 0
      else if s.wbOn then (s.goLong c).wbClear else s.goLong c).settle) ∧
    (o = 0x8E → exec (.timeSet h) s = .next ((s.timeSet (Ent.p0 c.ent)).adminEnd c.h St.success s.time).settle) ∧
    (o = 0x8F → exec (.commission h) s = .next (((s.goLong c).commStart c.h).mwTell s).settle) ∧
    (o = 0x92 → exec (.fwDownload h) s = .next ((s.memPut (fwArea + Ent.p0 c.ent) c.adminData).adminEnd c.h St.success 0).settle) ∧
    (o = 0x93 → exec (.fwActivate h) s = .next (s.fwActivate c).settle) ∧
    (o = 0x94 → exec (.getNonce h) s = .next ((s.newNonce.2.hostWriteSegs c.f c.segs 0 s.newNonce.1).adminEnd c.h
      St.success 0).settle) ∧
    (o = 0x95 → exec (.almanacClear h) s = .next (s.almanacClear c).settle) ∧
    (o = 0x96 → exec (.keySet h) s = .next (if s.keyIsSet then s.adminEnd c.h St.inUse 0
      else (s.keyWrite c.adminData).adminEnd c.h St.success 0).settle) ∧
    (o = 0x97 → exec (.noticeRoute h) s = .next (State.adminEnd { s with
      rg.routeRing := Ent.p1 c.ent % 4, rg.routeSev := bits (Ent.p1 c.ent) 6 4 } c.h St.success 0).settle)) ∧
  ((∀ (t : Nat) (s : State), t < 2 ^ 64 → s.kp.inhibit = false → (s.timeSet t).time = t ∧
    (s.timeSet t).flag Reg.SS_STATUS 11 = false ∧ (s.timeSet t).mem = s.mem ∧ (s.timeSet t).cmds = s.cmds) ∧
  (∀ (m : Nat) (s : State), m < 4 → m ≠ 1 → m ≠ 2 → (s.setMode m).mode = m ∧ s.setMode m = { s with regs := (s.setMode m).regs }) ∧
  (∀ s : State, s.mode ≠ 2 → s.setMode 2 = (List.range 4).foldl State.backOnline (s.setFld Reg.RV_MODE 1 0 2)) ∧
  (∀ s : State, s.mode ≠ 1 → s.setMode 1 = (s.setFld Reg.RV_MODE 1 0 1).offlineAll) ∧
  (∀ s : State, s.mode = 1 → s.setMode 1 = s))

/-- Firmware activation, nonces and ALMANAC_CLEAR (R346, R358, R359, R360, R371). A checked image waits for the restart that
completes it; a nonce lives until a clear or 60 s, and only a verified clear clears. Log entry 7 says what of this is the
model's choice. -/
def Obligations.FirmwareAndKeys : Prop :=
  ((∀ (c : Cmd) (s : State), Config.fwVerify (s.memN fwArea (Ent.p1 c.ent)) = false →
    s.fwActivate c = s.adminEnd c.h St.imageInvalid 0) ∧
  (∀ (c : Cmd) (s : State), 1 ≤ Ent.p1 c.ent → Ent.p1 c.ent ≤ 1048576 → Config.fwVerify (s.memN fwArea (Ent.p1 c.ent)) = true →
    s.fwActivate c = s.setCmd { c with ph := .waiting, since := s.now }) ∧
  (∀ (c : Cmd) (s : State), s.cmds.find? (fun c => !isPf0 c.f && Ent.opc c.ent == 0x93 && c.ph == .waiting) = some c →
    ∃ u : State, exec .fwRestart s = .next u.settle ∧
      u.reg Reg.RV_FW = (Config.fwVersion (s.memN fwArea (Ent.p1 c.ent))).toNat ∧ u.flag Reg.RV_FW_SRC 0 = true ∧
      u.mem = s.mem ∧ u.keep = s.keep)) ∧
  ((∀ (c : Cmd) (s : State), s.authOk c.adminData = false → s.almanacClear c =
    ({ s with kp.nonce := none } : State).adminEnd c.h St.authFailed 0) ∧
  (∀ (c : Cmd) (s : State), s.authOk c.adminData = true → s.almanacClear c =
    (({ s with kp.nonce := none } : State).alClear (leAt c.adminData 0 2) (leAt c.adminData 2 2)).adminEnd c.h St.success 0))

/-- Credit (R135, R136, R138). A request is granted exactly when the gate is METERED, none waits before it and it fits under the
ceiling, so that none is while the committed count exceeds it; waits end with a grant or in time. Log entry 32 says what of this
is the model's choice. -/
def Obligations.CreditRule : Prop :=
  (∀ (h : Nat) (blks : List Nat) (alone : Bool) (s : State), (s.tlAsk h blks alone).1 = .granted ↔
    s.gate = Gate.metered ∧ s.tl.waitQ = [] ∧ s.committed + 4096 * blks.length ≤ s.ceiling) ∧
  (∀ (h : Nat) (blks : List Nat) (alone : Bool) (s : State), (s.tlAsk h blks alone).1 = .granted →
    (s.tlAsk h blks alone).2 = s.tlReserve h blks ∧ ∀ b ∈ blks, (s.tlReserve h blks).tlHas h b = true) ∧
  (∀ (h : Nat) (blks : List Nat) (alone : Bool) (s : State), s.gate = Gate.cold →
    s.tlAsk h blks alone = (.refused, s.bump Reg.TL_REFUSED_NOW)) ∧
  (∀ (q : TReq) (t : List TReq) (s : State), s.tl.waitQ = q :: t → s.tlFits q.blks.length = true → ∃ u : State,
    exec .creditWaitGrant s = .next (u.tlAnswer q true) ∧ u.reg Reg.TL_WAITED = sat32 (s.reg Reg.TL_WAITED + 1) ∧
      u = { s with tl.waitQ := t, regs := u.regs }) ∧
  (∀ (q : TReq) (s : State), s.gate ≠ Gate.pfd → (s.tl.waitQ.find? fun q => s.due q.since s.tlWaitUs) = some q → ∃ u : State,
    exec .creditWaitTimeout s = .next (u.tlAnswer q false) ∧ u.reg Reg.TL_TIMEOUTS = sat32 (s.reg Reg.TL_TIMEOUTS + 1) ∧
      u = { s with tl.waitQ := s.tl.waitQ.erase q, regs := u.regs }) ∧
  (∀ (q : TReq) (c : Cmd) (s : State), s.cmd? q.h = some c → c.log = none → q.alone = false →
    s.tlAnswer q true = ((s.tlReserve q.h q.blks).updCmd q.h fun c => { c with credited := true }).writeGo q.h ∧
    s.tlAnswer q false = (s.goWt q.h).writeGo q.h)

/-- The ceiling and its model (R133, R134, R141, R142, R145). The ceiling is the smallest of its caps in whole blocks; a
learning window and a relearn change the model's values as the rules give. -/
def Obligations.CeilingRule : Prop :=
  (∀ s : State, s.ceilNow % 4096 = 0 ∧ s.ceilNow ≤ s.ceilCaps ∧ s.ceilNow ≤ 12 * 2 ^ 30 ∧ (s.mh < 2 → s.ceilNow = 0) ∧
    (s.twoSource = true → s.packOk = false → s.ceilNow = 0)) ∧
  (∀ s : State, ∃ u : State, exec .ceilingRecompute s = .next u.pressure.lrnStore ∧
    u = if s.tlRecompute.gate = Gate.cold then s.tlRecompute.tlRefuseAll else s.tlRecompute) ∧
  (∀ s : State, s.gate ≠ Gate.pfd → (s.tlRecompute.gate = Gate.metered ∨ s.tlRecompute.gate = Gate.cold)) ∧
  (∀ (m : LearnSample) (s : State), s.learnOk m = true → s.flag Reg.TL_CTRL 1 = true ∧ s.pfd = false ∧ s.mwState = Ms.hold ∧
    s.due s.tl.learnAt 64000 = true ∧ s.due s.mw.at_ 64000 = true) ∧
  (∀ (m : LearnSample) (s : State), s.learnOk m = false → exec (.learnWindow m) s = .next (s.setFlag Reg.TL_STATUS 8 true)) ∧
  (∀ (m : LearnSample) (s : State), s.learnOk m = true → ∃ u : State,
    exec (.learnWindow m) s = .next u.lrnPublish.tlUpdate.lrnStore ∧ u.tl.used = s.tl.used + 1 ∧
    u.reg Reg.TL_WINDOWS = sat32 (s.reg Reg.TL_WINDOWS + 1) ∧ u.flag Reg.TL_STATUS 8 = false ∧
    u = { s with regs := u.regs, tl := u.tl, free := u.free }) ∧
  (∀ s : State, ∃ u : State, exec .relearnModel s = .next u.tlUpdate ∧ u.tl.lrn = [0, 0, 0, 0, 0] ∧ u.tl.used = 0 ∧
    u.tl.theta = [0, 0, 0] ∧ u.tl.cov = none ∧ (s.kp.inhibit = false → ∀ i, i < 5 → u.reg (lrnReg i) = 0) ∧
    u.mem = s.mem ∧ u.cmds = s.cmds)

/-- Frames, write-back, the probe and waits (R44, R70, R75, R76, R81, R83, R84, R85). Timers make frames READY, a destage takes
the next, LD_CTRL.WB switches write-back, a probe shows a block, and waits for slots and claims end in order. Log entry 47 says
what of this is the model's choice. -/
def Obligations.LarderRows : Prop :=
  ((∀ (n cls : Nat) (f : Frame) (s : State), s.frame? n = some f → f.state = Fs.filling →
    (s.toReady n cls).frame? n = some { f with state := Fs.ready, cls := cls, order := s.ld.nextOrder, faulted := false } ∧
    (s.toReady n cls).mem = s.mem ∧ (s.toReady n cls).regs = s.regs) ∧
  (∀ (n : Nat) (f : Frame) (s : State), s.frame? n = some f → f.state = Fs.filling → s.due f.idleAt (s.idleUs f) = true →
    exec (.idleTimerExpiry n) s = .next (s.toReady n 2)) ∧
  (∀ (n : Nat) (f : Frame) (s : State), s.frame? n = some f → f.state = Fs.filling →
    s.due f.ageAt (1000 * clampN 100 60000 (s.fld Reg.LD_AGE 15 0)) = true → exec (.ageLimitExpiry n) s = .next (s.toReady n 2)) ∧
  (∀ (n : Nat) (f : Frame) (s : State), s.ld.destageStopped = false → s.destaging < s.destageMax →
    s.nextDestage = some (n, f) → s.lg.replayed.testBit f.arr = true → exec .destageStart s = .next (s.destageGo n f).settle) ∧
  (∀ (n : Nat) (f : Frame) (r : ArrayRec) (s : State), s.frame? n = some f → s.arr? f.arr = some r →
    (s.destageGo n f).frame? n = some { f with state := if f.full r then Fs.destaging else Fs.fillread } ∧
    (∃ t, (s.destageGo n f).md.tasks = s.md.tasks ++ [t] ∧ t.kind = .destage n ∧ t.arr = f.arr ∧ t.stripe = f.stripe) ∧
    (s.destageGo n f).mem = s.mem) ∧
  (∀ s : State, exec .ldDrain s =
    .next ((s.framesIn fun f => f.state == Fs.filling).foldl (fun s n => s.toReady n 0) s))) ∧
  ((∀ s v : State, v = ((s.setFlag Reg.LD_CTRL 0 false).setFlag Reg.LD_STATUS 1 true).wbDrop → s.wbOn = true →
    exec .ldWbClear s = .next ((v.framesIn fun f => (f.state == Fs.filling || f.state == Fs.ready) && f.hasDirty).foldl
      (fun s n => s.toReady n 0) v).wtCheck ∧
    (s.cmds = [] → s.tl.waitQ = [] → v = { s with regs := v.regs } ∧ v.flag Reg.LD_CTRL 0 = false ∧ v.flag Reg.LD_STATUS 1 = true)) ∧
  (∀ s : State, s.flag Reg.LD_STATUS 1 = true → (s.ld.frames.any fun e => e.2.hasDirty && e.2.state != Fs.parked) = false →
    s.wtCheck.flag Reg.LD_STATUS 0 = true ∧ s.wtCheck.flag Reg.LD_STATUS 1 = false) ∧
  (∀ s : State, ∃ u : State, exec .ldWbSet s = .next u ∧ u.flag Reg.LD_CTRL 0 = true ∧ u.flag Reg.LD_STATUS 0 = false ∧
    u.flag Reg.LD_STATUS 1 = false ∧ u = { s with regs := u.regs }) ∧
  (∀ (v : Vol) (r : ArrayRec) (x : Slot) (suc : Bool) (n stripe i o : Nat) (f : Frame) (s : State),
    s.vol? (s.fld Reg.LD_PROBE_SEL 7 0) = some v → s.arr? v.arr = some r →
    mapBlock r v (s.reg Reg.LD_PROBE_BLK_LO + s.reg Reg.LD_PROBE_BLK_HI * 2 ^ 32) = (stripe, i, o) → stripe < v.base + v.count →
    s.frameOf v.arr stripe = some (n, f) → f.serve i o = some (x, suc) → x.addr + 4096 * o < 2 ^ 64 →
    ∃ u : State, exec .ldProbeRead s = .next u ∧
      u.reg Reg.LD_PROBE_ADDR_LO + u.reg Reg.LD_PROBE_ADDR_HI * 2 ^ 32 = x.addr + 4096 * o ∧
      u.reg Reg.LD_PROBE = (x.blk o + 4 * f.state + 32 * b2n suc + 64) % 2 ^ 32 ∧ u = { s with regs := u.regs })) ∧
  ((∀ (h k : Nat) (t : List (Nat × Nat)) (x : Task) (s : State), s.ld.movesStopped = false → s.ld.slotQ = (h, k) :: t →
    s.task? h = some x → (∀ n, x.kind ≠ .stream n) →
    exec .slotWaitResume s =
      .next (State.setTask { s with ld.slotQ := t, ld.slotTry := some h } { x with phase := .read }).settle.slotTried) ∧
  (∀ (h k : Nat) (t : List (Nat × Nat)) (c : Cmd) (s : State), s.ld.movesStopped = false → s.ld.slotQ = (h, k) :: t →
    s.task? h = none → s.cmd? h = some c → c.log = none → Ent.opc c.ent ≠ 0x10 →
    exec .slotWaitResume s = .next (State.moveBlk { s with ld.slotQ := t, ld.slotTry := some h } h k).settle.slotTried) ∧
  (∀ (a stripe : Nat) (s : State), exec (.claimWaitResume a stripe) s = .next (s.claimNext a stripe).settle) ∧
  (∀ (a stripe : Nat) (h : Hold) (s : State), s.holder a stripe = some h.owner → s.claimNext a stripe = s) ∧
  (∀ (a stripe : Nat) (h : Hold) (l : List Hold) (x : Task) (s : State), s.holder a stripe = none → s.st.claimQ = h :: l →
    h.arr = a → h.stripe = stripe → s.task? h.owner = some x → s.claimShut x = false → x.phase = .claim →
    s.claimNext a stripe = State.taskBegin { s with st.claimQ := l, st.holds := s.st.holds ++ [h] } x.id))

/-- The Ledger's entries (R46, R98, R101, R102, R353). A granted entry takes the next SEQ and its 32 bytes stand in its slot of the
Keep before its owner goes on; nothing is granted while Keep writes are inhibited; state pages and copies are written at their
times. Log entry 53 says what of this is the model's choice. -/
def Obligations.LedgerEntry : Prop :=
  (∀ (r : LgReq) (s : State), s.lgPick = some r → s.kp.inhibit = false → ∃ u : State,
    u = { s with lg.reqs := s.lg.reqs.erase r, lg.rr := mapSet s.lg.rr (lgRank r.kind) r.unit } ∧
    exec .ledgerEntryGrant s = .next (((u.lgWrite r).2.lgCont r (u.lgWrite r).1).lgForce.lgCountWaits).settle) ∧
  (∀ s : State, s.kp.inhibit = true ∨ s.lgPick = none → exec .ledgerEntryGrant s = .next s.settle) ∧
  (∀ (r : LgReq) (s : State), memWf s.keep = true → s.kp.inhibit = false → s.lgHead + 1 < 2 ^ 64 →
    (s.lgWrite r).1 = s.lgHead + 1 ∧ (s.lgWrite r).2.lgHead = s.lgHead + 1 ∧
    (s.lgWrite r).2.keepN (lgSlot (s.lgHead + 1)) 32 = lgBytes (s.lgHead + 1) r ∧ (s.lgWrite r).2.mem = s.mem ∧
    (s.lgWrite r).2.lg.live = s.lg.live ++ [⟨s.lgHead + 1, r.kind, r.arr, r.stripe, r.gen, r.frame, false⟩]) ∧
  (∀ (a p t : Nat) (r : ArrayRec) (s : State), mapGet? s.st.pages (65536 * a + p) = some t → s.arr? a = some r → s.pfd = false →
    s.due t 1000000 = true ∨ s.lgForced a p = true → s.pageWriting a p = false →
    exec (.statePageTimer a p) s = .next (s.pageGo a p t r)) ∧
  (∀ (a k t : Nat) (s : State), mapGet? s.lg.copies (1024 * a + k) = some t → s.pfd = false → s.due t s.copyUs = true →
    exec (.copyBlockTimer a k) s = .next (s.copyAsk a k))

/-- Jobs of the Loom (R59, R60, R62, R63, R65, R66). A job waits in its queue under its credit, a free context takes it, its end
goes to its client with the status its checks and errors give, and test jobs run in test mode. Log entries 42 and 142 say what of
this is the model's choice. -/
def Obligations.LoomJobs : Prop :=
  ((∀ (q : Nat) (j : LJob) (s : State), (s.lm.waiting.find? fun j => j.q == q) = some j → (s.loomQ q).length < 32 →
    ∃ u : State, exec (.loomJobSubmit q) s = .next u ∧ u.loomQ q = s.loomQ q ++ [{ j with at_ := s.now }] ∧
      u.lm.waiting.length + 1 = s.lm.waiting.length ∧ u.lm.ctx = s.lm.ctx ∧ u = { s with lm := u.lm }) ∧
  (∀ (c : Nat) (j : LJob) (aged : Bool) (s : State), (s.testMode = true → s.flag Reg.LM_CTRL 0 = false) → s.loomFree = some c →
    s.loomPick = some (j, aged) → ∃ u : State, exec .loomJobStart s = .next u ∧
      mapGet? u.lm.ctx c = some (if j.client = .test then s.loomDecode j else j) ∧ u.loomQ j.q = (s.loomQ j.q).drop 1 ∧
      u.lm.waiting = s.lm.waiting ∧ u = { s with lm := u.lm, regs := u.regs } ∧ (aged = false → u.regs = s.regs))) ∧
  ((∀ (ctx : Nat) (err : Option LoomErr) (j : LJob) (s : State), mapGet? s.lm.ctx ctx = some j → j.parked = false →
    s.dumpOnly = false ∨ j.q = 0 → ∃ (r : LRes) (v : State), s.loomEnd ctx j err = (r, v) ∧ mapGet? v.lm.ctx ctx = none ∧
      (j.client = .test → exec (.loomJobComplete ctx err) s = .next (v.testEnd r.status).settle) ∧
      (∀ t, j.client = .task t → exec (.loomJobComplete ctx err) s = .next (v.stripeLoom t ctx j r).settle) ∧
      (∀ f, j.client = .dump f → exec (.loomJobComplete ctx err) s = .next (v.dumpXorEnd j f r.status).settle)) ∧
  (∀ (ctx : Nat) (err : Option LoomErr) (j : LJob) (s : State),
    (s.loomFault = true → (s.loomEnd ctx j err).1 = LRes.of Ls.datapath) ∧
    (s.loomFault = false → j.bad = true → (s.loomEnd ctx j err).1 = LRes.of Ls.badDesc) ∧
    (s.loomFault = false → j.bad = false → j.op = Op.locate → j.k < 2 → (s.loomEnd ctx j err).1 = LRes.of Ls.unsupported) ∧
    (s.loomFault = false → j.bad = false → j.op = Op.recon → j.k < j.ed.length + j.ep.length →
      (s.loomEnd ctx j err).1 = LRes.of Ls.tooMany) ∧
    (∀ x b, s.loomFault = false → j.bad = false → j.op = Op.encode ∨ j.op = Op.check ∨ j.op = Op.xor → s.lm.inject = 0 →
      x ∈ j.inputs → b < j.len → err = some (.ecc x b) → (s.loomEnd ctx j err).1.status = Ls.sourceEcc ∧
      (s.loomEnd ctx j err).1.srcBad = x) ∧
    (s.loomFault = false → j.bad = false → j.op = Op.encode ∨ j.op = Op.xor → s.lm.inject < 2 → err = none →
      (s.loomEnd ctx j err).1.status = Ls.ok ∧ (s.loomEnd ctx j err).1.inBytes = j.inputs.length * j.len * 4096))) ∧
  ((∀ s : State, s.testMode = true → s.flag Reg.LM_TJOB_STAT 0 = false → ∃ (u : State) (j : LJob), exec .lmTjobGo s = .next u ∧
    u.flag Reg.LM_TJOB_STAT 0 = true ∧ u.lm.waiting = s.lm.waiting ++ [j] ∧ j.client = .test ∧
    j.result = s.reg Reg.LM_TJOB_LO / 64 * 64 + s.fld Reg.LM_TJOB_HI 15 0 * 2 ^ 32 ∧
    u = { s with regs := u.regs, lm := u.lm, nextH := u.nextH }) ∧
  (∀ s : State, s.testMode = false ∨ s.flag Reg.LM_TJOB_STAT 0 = true → exec .lmTjobGo s =
    .next (s.setFlag Reg.LM_TJOB_STAT 1 true)) ∧
  (∀ s : State, s.testMode = true → exec .injectDp s = .next { s with lm.inject := min 15 (s.lm.inject + 1) }) ∧
  (∀ s : State, s.testMode = false → exec .injectDp s = .next s))

/-- The State Cache (R87, R88, R89, R92, R93, R94). Fills, write-backs, disabling, draining, enabling and invalidation change the
cache as the rules give. Log entry 40 says what of this is the model's choice. -/
def Obligations.StateCacheRows : Prop :=
  ((∀ (fill : ScFill) (s : State), exec (.scFillReturn fill) s = .next ((fill.errs.foldl State.scErr s).scFill fill.line).settle) ∧
  (∀ (line : Nat) (m : ScMiss) (s : State), (s.sc.miss.find? fun m => m.line == line) = some m → s.sc.rwait = [] →
    (∀ x ∈ (s.scFill line).sc.miss, x.line ≠ line) ∧
    (∃ d l, mapGetD (s.scFill line).sc.sets (scSetOf line) [] = ⟨m.way, line, m.prefetch, d⟩ :: l ∧
      d = (List.range 64).map fun i => (s.scBuf (64 * line + i)).getD (memRead s.mem (64 * line + i))) ∧
    s.scFill line = { s with sc := (s.scFill line).sc }) ∧
  (∀ (line : Nat) (l : ScLine) (s : State), s.scLine line = some l → s.scErr (.corrected line) = s.bump Reg.SC_ECC_CORR) ∧
  (∀ (l : Nat) (d : NMap Byte) (t : List (Nat × NMap Byte)) (s : State), s.sc.buf = (l, d) :: t →
    s.sc.wwait = [] ∨ s.scDraining = true → exec .scBufferWriteback s =
      .next { s with mem := drainLine s.mem l d, sc.buf := t }) ∧
  (∀ (l : Nat) (d : NMap Byte) (t : List (Nat × NMap Byte)) (s : State), s.sc.buf = (l, d) :: t → s.scDraining = false →
    exec .scBufferWriteback s = .next (State.scWritesGo { s with mem := drainLine s.mem l d, sc.buf := t } s.sc.wwait))) ∧
  ((∀ s : State, ∃ u : State, exec .scDisable s = .next u ∧ u.flag Reg.SC_CTRL 0 = false ∧
    (s.flag Reg.SC_STATUS 2 = false → s.scEnabled = true → u.scDraining = true) ∧ u = { s with regs := u.regs }) ∧
  (∀ s : State, s.scDraining = true → s.sc.buf = [] → s.flag Reg.SC_CTRL 0 = false → s.sc.wwait = [] →
    ∃ u : State, exec .scDrainDone s = .next u ∧ u.scEnabled = false ∧ u.scDraining = false ∧
      u = { s with regs := u.regs, sc.rwait := [] }) ∧
  (∀ s : State, s.scDraining = true → s.sc.buf = [] → exec .scDrainDone s = .next s.scDrained) ∧
  (∀ s : State, s.scEnabled = false → s.flag Reg.SC_STATUS 2 = false → s.flag Reg.SC_CTRL 1 = true →
    ∃ u : State, exec .scEnable s = .next u ∧ u.flag Reg.SC_STATUS 2 = true ∧ u.sc.sets = [] ∧ u.sc.invAt = s.now ∧
      u = { s with regs := u.regs, sc := u.sc }) ∧
  (∀ s : State, s.flag Reg.SC_STATUS 2 = true → s.due s.sc.invAt 64 = true → ∃ u : State, exec .scInvalidateDone s = .next u ∧
    u.flag Reg.SC_STATUS 2 = false ∧ u.scEnabled = s.flag Reg.SC_CTRL 0 ∧ u = { s with regs := u.regs }))

/-- States of the Millwheel, start, stop and clear (R175, R186, R188, R192, R195). Entering a state shows it and sets the gates;
start, stop and clear commands lead to the states the table gives. -/
def Obligations.MillwheelStates : Prop :=
  (∀ (st : Nat) (s : State), st < 10 → (s.mwGo st).mwState = st ∧ (s.mwGo st).mw.at_ = s.now ∧
    (st = Ms.off ∨ st = Ms.fault ∨ st = Ms.catch_ → (s.mwGo st).mw.gates = 0) ∧
    (st = Ms.short → (s.mwGo st).mw.gates = if s.pw.held then 0 else vecGates 0) ∧
    s.mwGo st = { s with regs := (s.mwGo st).regs, mw := (s.mwGo st).mw } ∧
    ∀ q, q ≠ Reg.MW_STATUS → (s.mwGo st).reg q = s.reg q) ∧
  ((∀ (fb : Bool) (s v : State), v = (s.setFlag Reg.MW_STATUS 14 s.noModel).mwAsk → v.mwState = Ms.off → v.mwMayStart = true →
    v.flag Reg.MW_STATUS 12 = false → v.hubV < 20 ∨ fb = true → exec (.mwStartCommand fb) s = .next (v.mwStart.mwTell v) ∧
      v.mwStart.mwState = (if v.flag Reg.MW_STATUS 8 = false then Ms.catch_
        else if v.mwRpm < -(v.rpmAlign : Rat) then Ms.brake else Ms.run)) ∧
  (∀ (s v : State), v = s.mwAsk → v.mwStopping = true → v.supplyFail = false → exec .mwStopCommand s = .next (v.mwStop.mwTell v) ∧
    (v.mw.comm = none → v.mwState = Ms.catch_ ∨ v.mwState = Ms.align ∨ v.mwState = Ms.ramp → v.mwStop.mwState = Ms.off) ∧
    (v.mw.comm = none → v.mwState = Ms.run ∨ v.mwState = Ms.hold → v.mwStop.mwState =
      if v.flag Reg.MW_CTRL 1 ∧ v.flag Reg.MW_CTRL 0 then Ms.brake else Ms.off)) ∧
  (∀ (fb : Bool) (s : State), s.mwState = Ms.fault → s.hubV < s.hubHi → fb = true → ∃ u : State, exec (.mwClear fb) s = .next u.tlUpdate ∧
    u.mwState = Ms.off ∧ u.flag Reg.MW_STATUS 4 = false ∧ u.flag Reg.MW_STATUS 5 = false ∧ u.fld Reg.MW_STATUS 19 16 = 0 ∧
    u = { s with regs := u.regs, mw := u.mw }))

/-- Timers from ALIGN to HOLD (R178, R186, R187, R188, R201). Each timer of the states, once due, leads to the state the table
gives. -/
def Obligations.SpinUp : Prop :=
  ((∀ s : State, s.mwState = Ms.align → s.due s.mw.at_ (1000 * clampN 20 2000 (s.mwFld Reg.MW_START 15 0)) = true →
    s.mwFb = 0 ∨ s.mw.comm.isSome = true → exec .alignTimer s = .next (s.alignEnd.mwGo Ms.ramp).tlUpdate) ∧
  (∀ s : State, s.mwState = Ms.align → s.due s.mw.at_ (1000 * clampN 20 2000 (s.mwFld Reg.MW_START 15 0)) = true →
    s.mwFb ≠ 0 → s.mw.comm = none → ∃ u : State, exec .alignTimer s = .next u.mwPreset.tlUpdate ∧ u.mwState = Ms.run ∧
      u.flag Reg.MW_STATUS 8 = true ∧ u.mw.aligned = true ∧ u.mw.cnt = 0 ∧ u.mw.ref = 0) ∧
  (∀ s : State, s.mwFb ≠ 2 ∨ s.mwOffsetOk = true →
    s.alignEnd = s.mwSt fun m => { m with aligned := true, cnt := 0, ref := 0 })) ∧
  ((∀ s : State, s.mwState = Ms.ramp → s.flag Reg.MW_STATUS 7 = true →
    s.due s.mw.at_ (1000 * clampN 50 10000 (s.mwFld Reg.MW_START 31 16)) = true → exec .rampTimeout s =
      .next (if s.mw.comm.isSome then s.mwGo Ms.off else (s.mwGo Ms.run).mwPreset).tlUpdate) ∧
  (∀ s : State, s.mwState = Ms.ramp → s.flag Reg.MW_STATUS 7 = false →
    s.due s.mw.at_ (1000 * clampN 50 10000 (s.mwFld Reg.MW_START 31 16) + 100000) = true →
    exec .rampTimeout s = .next (s.lockHit.mwTell s)) ∧
  (∀ (s : State) (t : Nat), s.mw.lowAt = some t → s.mwState = Ms.catch_ → s.due t (1000 * s.mwFld Reg.MW_CATCH 7 0) = true →
    ∃ u : State, exec .catchObsTimer s = .next u.tlUpdate ∧ u.mwState = Ms.align ∧
      u.reg Reg.MW_STARTS = sat32 (s.reg Reg.MW_STARTS + 1) ∧ u = { s with regs := u.regs, mw := u.mw }) ∧
  (∀ (s : State) (t : Nat), s.mw.okAt = some t → s.due t (1000 * max 1 (s.mwFld Reg.MW_CATCH 15 8)) = true → ∃ u : State,
    exec .lockConfirm s = .next (if s.mwState = Ms.catch_ then u.mwMove else u) ∧ u.flag Reg.MW_STATUS 7 = true ∧
      u.mwState = s.mwState ∧ u = { s with regs := u.regs }) ∧
  (∀ (s : State) (t : Nat), s.mw.waitAt = some t → s.mwState = Ms.catch_ → s.mwFld Reg.MW_CATCH 23 16 ≠ 0 →
    s.due t (1000000 * s.mwFld Reg.MW_CATCH 23 16) = true →
    exec .catchBrakeWait s = .next (s.mwSt fun m => { m with brake := true })) ∧
  (∀ (s : State) (t : Nat), s.mw.nearAt = some t → s.mwState = Ms.run → s.due t 100000 = true →
    exec .holdEntryTimer s = .next (s.mwGo Ms.hold).tlUpdate))

/-- Locked rotor, feedback and the speed input (R175, R177, R187, R192, R196, R197, R199, R200). A locked rotor turns the wheel
OFF and counts its retries; a lost sensor is a fault without a lock; the index restarts the count; the speed input's timeout
shows. -/
def Obligations.RotorGuard : Prop :=
  ((∀ s : State, s.mwState = Ms.ramp ∨ s.mwState = Ms.run ∨ s.mwState = Ms.hold ∨ s.mwState = Ms.brake →
    absQ s.mw.tref > s.tlimMot / 10 → s.due s.mw.secAt (1000 * clampN 20 5000 (s.mwFld Reg.MW_LOCK 15 0)) = true →
    exec .lockedRotor s = .next (s.lockHit.mwTell s)) ∧
  (∀ s : State, s.mw.comm = none → s.fld Reg.MW_STATUS 22 20 < s.fld Reg.MW_LOCK 26 24 → s.lockHit.mwState = Ms.off ∧
    s.lockHit.flag Reg.MW_STATUS 13 = true ∧ s.lockHit.fld Reg.MW_STATUS 22 20 = s.fld Reg.MW_STATUS 22 20 + 1 ∧
    s.lockHit.reg Reg.MW_LOCKS = sat32 (s.reg Reg.MW_LOCKS + 1) ∧ s.lockHit.mw.retryAt = s.now) ∧
  (∀ s : State, s.mw.comm = none → s.fld Reg.MW_LOCK 26 24 ≤ s.fld Reg.MW_STATUS 22 20 →
    s.lockHit = ((s.mwGo Ms.off).bump Reg.MW_LOCKS).mwFaultGo 2) ∧
  (∀ s : State, s.flag Reg.MW_STATUS 13 = true → s.due s.mw.retryAt (1000000 * max 1 (s.mwFld Reg.MW_LOCK 23 16)) = true →
    ∃ u : State, u = s.setFlag Reg.MW_STATUS 13 false ∧ exec .lockRetryExpiry s =
      .next (if s.mwState = Ms.off ∧ u.mwMayStart = true then u.retryStart else u)) ∧
  (∀ s : State, s.mwState = Ms.hold → s.due s.mw.at_ 60000000 = true → exec .retryCountReset s =
    .next (s.setFld Reg.MW_STATUS 22 20 0))) ∧
  ((∀ (ab : List Nat) (s : State), s.mwFb = 1 → s.mwEncZ = true → s.mw.aligned = false → s.mwState ≠ Ms.catch_ →
    (abCount s.mw.ab s.mw.cnt ab).2.2 = false → ∃ u : State, exec (.encoderIndex ab) s = .next u ∧ u.mw.idxSeen = true ∧
      u.mwState = s.mwState ∧ u.mw.cnt = (if s.mwOffsetOk then 0 else (abCount s.mw.ab s.mw.cnt ab).1) ∧
      (s.mwOffsetOk = true → u.mw.ref = s.mwFld Reg.MW_OFFSET 15 0) ∧ u = { s with regs := u.regs, mw := u.mw }) ∧
  (∀ s : State, s.mwFb ≠ 0 → s.mwState ≠ Ms.fault → s.flag Reg.MW_STATUS 7 = true →
    exec .feedbackLost s = .next (s.setFlag Reg.MW_STATUS 10 true)) ∧
  (∀ s : State, s.mwFb ≠ 0 → s.mwState ≠ Ms.fault → s.flag Reg.MW_STATUS 7 = false →
    exec .feedbackLost s = .next (s.mwFaultGo 4)) ∧
  (∀ s : State, s.mwFb = 0 ∨ s.mwState = Ms.fault → exec .feedbackLost s = .next s) ∧
  (∀ s : State, s.mwSrc = 1 → s.mwFld Reg.MW_SPDIN 1 0 = 1 ∨ s.mwFld Reg.MW_SPDIN 1 0 = 2 →
    s.due s.mw.spdAt 100000 = true → exec .spdInTimeout s = .next (s.setFlag Reg.MW_STATUS 11 true)))

/-- HUB, the chopper, SHORT and the comparators (R175, R176, R185, R192, R193, R194, R195). HUB at HUB_ABS is a fault from any
state, the chopper switches with hysteresis, a chopper that does not conduct is faulty, SHORT is entered and left at its limits,
and trips open the gates and count. Log entries 11 and 148 say what of this is the model's choice. -/
def Obligations.HubGuard : Prop :=
  ((∀ (pin : Nat) (fb : Bool) (s v : State), v = s.setReg Reg.MW_HUB (s.hubRead pin) →
    exec (.hubSample pin fb) s = .next (v.hubLimit.hubShort.hubChop fb) ∧
    (v.hubV ≥ v.hubAbs → v.mwState ≠ Ms.fault ∨ v.fld Reg.MW_STATUS 19 16 ≠ 1 → v.hubLimit = v.mwFaultGo 1) ∧
    (v.hubV < v.hubAbs → v.hubLimit = v)) ∧
  (∀ (pin : Nat) (fb : Bool) (s v : State), v = s.setReg Reg.MW_HUB (s.hubRead pin) → v.hubV < v.hubAbs → v.shortDue = false →
    ∃ u : State, exec (.hubSample pin fb) s = .next u ∧ u.mwState = s.mwState ∧
      u.mw.brk = (if v.flag Reg.MW_STATUS 5 ∨ v.pw.held then false else if v.hubV > v.hubHi then true
        else if v.hubV < v.hubHi - v.chopHys then false else v.mw.brk) ∧
      (v.hubV < v.hubReg → u.flag Reg.MW_STATUS 6 = false) ∧ u = { s with regs := u.regs, mw := u.mw }) ∧
  (∀ s : State, s.hubReg ≤ s.hubV → s.shortDue = true → s.hubShort = s.shortGo) ∧
  (∀ s : State, s.shortDue = true ↔ s.mwState ≠ Ms.short ∧ s.mwState ≠ Ms.fault ∧
    (s.flag Reg.MW_STATUS 6 = true ∧ s.hubSc ≤ s.hubV ∨ s.flag Reg.MW_STATUS 5 = true ∧ s.hubV < s.bemf)) ∧
  (∀ (s : State) (t : Nat), s.mw.emfAt = some t → s.mwState = Ms.short → s.hubV < s.hubReg → s.due t 1000 = true →
    exec .shortExitTimer s = .next (s.mwGo (if s.supplyFail then Ms.generate else Ms.off)).tlUpdate)) ∧
  ((∀ (s : State) (t : Nat), s.mw.ovAt = some t → s.due t s.ovUs = true → s.mw.brk = true → ∃ u : State,
    exec (.chopOvFilterExpiry false) s = .next (u.note Rank.millwheel (Config.eventValue 9) Sev.fault 0) ∧
    (s.mw.dcRun < 7 → u.flag Reg.MW_STATUS 5 = true ∧ u.flag Reg.MW_STATUS 6 = true ∧ u.mw.brk = false ∧ u.mw.tref = 0 ∧
      u = { s with regs := u.regs, mw := u.mw })) ∧
  (∀ (p : PeakPin) (s : State), s.trips p = true → p.dc = true → s.mw.tripDc = false → ∃ u : State,
    exec (.peakTrip p) s = .next u ∧ u.mw.tripDc = true ∧ u.mw.gates = 0 ∧
    u.reg Reg.MW_TRIP_DC = sat32 (s.reg Reg.MW_TRIP_DC + 1) ∧ u = { s with regs := u.regs, mw := u.mw }) ∧
  (∀ (p : PeakPin) (s : State), s.trips p = true → p.dc = false → s.mw.tripPh = false → s.mw.tripDc = false → ∃ u : State,
    exec (.peakTrip p) s = .next u ∧ u.mw.tripPh = true ∧
    u.mw.gates = (if s.mwState = Ms.short ∧ s.pw.held = false then vecGates 7 else 0) ∧
    u.reg Reg.MW_TRIP_PH = sat32 (s.reg Reg.MW_TRIP_PH + 1) ∧ u = { s with regs := u.regs, mw := u.mw }) ∧
  (∀ (p : PeakPin) (s : State), 256 * p.uv < 1200000 * s.tripCode p.dc → exec (.peakTrip p) s = .next s))

/-- The control period (R175, R178, R181, R182, R183, R185, R197). Eight periods of DC trips running are a fault; with the wheel
OFF a period changes registers and the wheel's estimates only; an encoder edge counts by its direction; the switching table gives
a zero or an active vector. Log entries 11 and 148 say what of this is the model's choice. -/
def Obligations.ControlPeriod : Prop :=
  (∀ (m : MwSample) (s : State), s.mw.tripDc = true → 7 ≤ s.mw.dcRun → s.mwState ≠ Ms.fault → s.mwFb ≠ 1 → ∃ u : State,
    exec (.mwControlPeriod m) s = .next ((u.mwFaultGo 3).mwMove.torqueRef.mwDrive.mwShow) ∧ u.mwState = s.mwState ∧
    u.mw.dcRun = s.mw.dcRun + 1) ∧
  (∀ (m : MwSample) (s v : State), v = (((s.mwTurn.mwSense m).mwAsk.setFlag Reg.MW_STATUS 14 s.noModel).mwEstimate m.phase) →
    v.overspeed = false → s.mw.tripDc = false → s.mwState = Ms.off → s.mwFb ≠ 1 → ∃ u : State,
    exec (.mwControlPeriod m) s = .next u ∧ u.mwState = Ms.off ∧ u.mw.tripPh = false ∧ u.mw.tripDc = false ∧ u.mw.tref = 0 ∧
      u.mw.gates = 0 ∧ u = { s with regs := u.regs, mw := u.mw }) ∧
  (∀ (p : Nat) (c : Int), p < 4 → abCount (some p) c [p] = (c, some p, false) ∧
    (∀ q, q < 4 → abPos q = (abPos p + 1) % 4 → abCount (some p) c [q] = (c + 1, some q, false) ∧
      abCount (some q) c [p] = (c - 1, some p, false)) ∧
    (∀ q, q < 4 → abPos q = (abPos p + 2) % 4 → (abCount (some p) c [q]).2.2 = true)) ∧
  (∀ (flux torq : Int) (sector prev : Nat), 1 ≤ sector → sector ≤ 6 → prev < 8 →
    (torq = 0 → switchVec flux torq sector prev = 0 ∨ switchVec flux torq sector prev = 7) ∧
    (torq ≠ 0 → 1 ≤ switchVec flux torq sector prev ∧ switchVec flux torq sector prev ≤ 6))

/-- Commissioning (R201, R202). Commissioning starts only where it may, each good step leads to the next with the drive its run
needs, and an abort, a bad step or the last step ends it. Log entry 64 says what of this is the model's choice. -/
def Obligations.Commissioning : Prop :=
  (∀ s : State, s.commOk = true → ∃ u : State, exec .mwComm s = .next (u.mwTell s) ∧ u.mwState = Ms.align ∧ u.flag Reg.MW_STATUS 12 = true ∧
    u.mw.comm = some { cmd := 0 } ∧ u = { s with regs := u.regs, mw := u.mw }) ∧
  (∀ s : State, s.commOk = false → exec .mwComm s = .next s) ∧
  (∀ (c : MwComm) (s : State), s.mw.comm = some c → exec .mwAbort s = .next (((s.commEnd 2).mwGo Ms.off).mwTell s)) ∧
  (∀ (c : MwComm) (s : State), s.mw.comm = some c → s.cmd? c.cmd = none → ∀ r, (s.commEnd r).mw.comm = none ∧
    (s.commEnd r).flag Reg.MW_STATUS 12 = false) ∧
  (∀ (m : CommMeas) (c : MwComm) (s : State), s.mw.comm = some c → commGood m c.step = false → exec (.commissionStepDone m) s =
    .next (((s.commEnd (if c.step = 1 then 5 else if c.step = 2 ∨ c.step = 5 then 4 else 3)).mwGo Ms.off).mwTell s)) ∧
  (∀ (m : CommMeas) (c : MwComm) (s : State), s.mw.comm = some c → commGood m c.step = true → c.step < 6 → ∃ u : State,
    exec (.commissionStepDone m) s = .next (u.mwTell s) ∧ u.mw.comm = some { c.take m with step := c.step + 1 } ∧
      u.mwState = (if c.step = 3 then Ms.off else if c.step = 5 then Ms.generate else Ms.run)) ∧
  (∀ (m : CommMeas) (c : MwComm) (s : State), s.mw.comm = some c → commGood m c.step = true → 6 ≤ c.step → ∃ u : State,
    exec (.commissionStepDone m) s = .next (u.mwTell s) ∧ u.mwState = Ms.off)

/-- Insertion, removal and forgetting of a pack (R205, R207, R208, R209, R210, R225, R238, R239). Insertion of a steady code shows
the pack and starts its first second, removal clears it, two slow polls without its code remove it, and FORGET takes the start
values. Log entry 62 says what of this is the model's choice. -/
def Obligations.PackPresence : Prop :=
  ((∀ (code t : Nat) (s : State), s.gaPresent = false → s.gaOn = true → code < 8 → s.ga.steady = some (code, t) →
    s.due t 500000 = true → ∃ v : State,
    exec (.packInsertion code) s = .next v.tlUpdate ∧ v.gaPresent = true ∧ v.gaId = code ∧ v.ga.seenAt = some s.now ∧
      v.flag Reg.GA_STATUS 11 = false ∧ v.flag Reg.GA_STATUS 9 = s.gaUnassigned code ∧
      v.reg Reg.GA_INSERTS = sat32 (s.reg Reg.GA_INSERTS + 1) ∧ v = { s with regs := v.regs, ga := v.ga }) ∧
  (∀ (code : Nat) (s : State), s.gaReady code = false → exec (.packInsertion code) s = .next s) ∧
  (∀ s : State, s.gaPresent = true → ∃ v : State, exec .packRemoval s =
    .next (v.note Rank.gauge (Config.eventValue 10) Sev.notice 0).tlUpdate ∧ v.gaPresent = false ∧ v.flag Reg.GA_STATUS 1 = false ∧
      v.flag Reg.GA_STATUS 8 = false ∧ v.reg Reg.GA_EPACK = 0 ∧ v.ga.packEn = false ∧ v.ga.anchor = 0 ∧ v.ga.steady = none ∧
      v.reg Reg.GA_REMOVALS = sat32 (s.reg Reg.GA_REMOVALS + 1) ∧ v = { s with regs := v.regs, ga := v.ga })) ∧
  ((∀ (idUv ntcUv : Nat) (s : State), s.gaOn = true → s.gaPresent = true → idCode idUv = some s.gaId → ∃ u : State,
    exec (.gaugeSlowPoll idUv ntcUv) s = .next u ∧ u.gaPresent = true ∧ u.ga.noId = 0 ∧ u.ga.temp = ntcTemp ntcUv ∧
      u.ga.steady = s.gaSteady idUv ntcUv ∧ u = { s with regs := u.regs, ga := u.ga, free := u.free }) ∧
  (∀ (idUv ntcUv : Nat) (s : State), s.gaOn = true → s.gaPresent = true → idCode idUv ≠ some s.gaId → ∃ v : State,
    exec (.gaugeSlowPoll idUv ntcUv) s = .next (if 1 ≤ s.ga.noId then v.gaRemove else v.gaSt fun g => { g with noId := g.noId + 1 }) ∧
      v.gaPresent = true ∧ v.ga.noId = s.ga.noId ∧ v = { s with regs := v.regs, ga := v.ga, free := v.free })) ∧
  ((∀ (t : Nat) (s : State), s.ga.seenAt = some t → s.gaPresent = true → s.due t 1000000 = true → ∃ v : State,
    exec .gaugeSettled s = .next v.gaStep5 ∧ v.ga.q = s.gaQv ∧ v.ga.seenAt = none ∧ v = { s with ga := v.ga }) ∧
  (∀ s : State, s.gaPresent = true → ∃ v : State, exec .gaForget s = .next v.gaStep6 ∧ v.flag Reg.GA_STATUS 12 = true ∧
      v.flag Reg.GA_STATUS 7 = true ∧ v.reg Reg.GA_CAP = 8 * s.gaRated / 10 % 2 ^ 32 ∧ v.reg Reg.GA_RINT = s.gaRatedR % 2 ^ 32 ∧
      v.ga.learns = 0 ∧ v = { s with regs := v.regs, ga := v.ga }) ∧
  (∀ s : State, exec .gaugeOffsetZero s = .next (if s.gaOn then s.gaSt fun g => { g with zero := true } else s)))

/-- One sample of the Gauge (R211, R212, R213, R214, R218, R219, R224, R225, R243). A sample counts its charge, ten readings
beyond full scale are a sense fault, EOD and EOC set the count, and GA_EPACK is 0 while VALID is clear. Log entry 62 says what
of this is the model's choice. -/
def Obligations.GaugeSample : Prop :=
  (∀ (m : GaSample) (s : State), s.gaOn = true →
    exec (.gaugeSample m) s = .next (((s.gaTake m).gaStep2).gaRun s.ga.i s.ga.v)) ∧
  (∀ (m : GaSample) (s : State), s.ga.zero = false → (s.gaTake m).ga.i = s.gaCurrent m.vshunt ∧
    (s.gaTake m).ga.q = s.ga.q + s.gaCurrent m.vshunt / 1000 ∧
    (s.gaTake m).ga.v = (m.vpackPin * s.fld Reg.GA_VDIV 15 0 : Nat) / 100000000 ∧
    (s.gaTake m).ga.overN = (if shuntOver m.vshunt then s.ga.overN + 1 else 0) ∧
    (s.gaTake m).flag Reg.GA_STATUS 2 = decide (s.gaCurrent m.vshunt > 0) ∧
    (s.gaTake m) = { s with
      regs := (s.gaTake m).regs, ga := (s.gaTake m).ga, free := (s.gaTake m).free, tl := (s.gaTake m).tl }) ∧
  (∀ (m : GaSample) (s : State), s.ga.zero = true → (s.gaTake m).ga.i = s.ga.i ∧ (s.gaTake m).ga.zero = false) ∧
  (∀ s : State, 10 ≤ s.ga.overN → s.gaStep2.flag Reg.GA_STATUS 11 = true ∧ s.gaStep2.ga.span = false) ∧
  (∀ s : State, s.gaPresent = true → s.hasEod = true → s.ga.i ≤ 0 → s.ga.v ≤ s.vEod + s.ga.i * s.gaR →
    s.gaStep3.2.ga.q = 0 ∧ s.gaStep3.2.ga.anchor = 1 ∧ s.gaStep3.2.ga.packEn = false ∧ s.gaStep3.2.flag Reg.GA_STATUS 4 = true ∧
    s.gaStep3.2.flag Reg.GA_STATUS 5 = false ∧ s.gaStep3.2.flag Reg.GA_STATUS 8 = true ∧
    s.gaStep3.1 = (if s.ga.span && s.ga.anchor == 2 then some (s.gaFull - s.ga.q) else none) ∧
    s.gaStep3.2 = { s with regs := s.gaStep3.2.regs, ga := s.gaStep3.2.ga }) ∧
  (∀ s : State, s.gaPresent = true → s.hasEoc = true → 0 ≤ s.ga.i → s.vEoc + s.ga.i * s.gaR ≤ s.ga.v →
    s.vEod + s.ga.i * s.gaR < s.ga.v → s.gaStep3.2.ga.q = s.gaFull ∧ s.gaStep3.2.ga.anchor = 2 ∧
    s.gaStep3.2.flag Reg.GA_STATUS 5 = true ∧ s.gaStep3.2.flag Reg.GA_STATUS 4 = false ∧ s.gaStep3.2.flag Reg.GA_STATUS 8 = true ∧
    s.gaStep3.1 = (if s.ga.span && s.ga.anchor == 1 then some s.ga.q else none) ∧
    s.gaStep3.2 = { s with regs := s.gaStep3.2.regs, ga := s.gaStep3.2.ga }) ∧
  (∀ s : State, s.gaValid = false → s.gaShow.flag Reg.GA_STATUS 1 = false ∧ s.gaShow.reg Reg.GA_EPACK = 0)

/-- What a learn of capacity leaves (R231). The learned value lies between 0.3 and 1.1 times the rated value, below 0.5 times
WORN is set, RELEARN is cleared and GA_LEARNS counts. -/
def Obligations.LearnLimits : Prop :=
  ∀ (q : Rat) (s : State), ∃ v : Rat, 3 * (s.gaRated : Rat) / 10 ≤ v ∧ v ≤ 11 * (s.gaRated : Rat) / 10 ∧
    (s.gaLearn q).reg Reg.GA_CAP = v.floor.toNat ∧ (s.gaLearn q).flag Reg.GA_STATUS 13 = decide (v < (s.gaRated : Rat) / 2) ∧
    (s.gaLearn q).flag Reg.GA_STATUS 7 = false ∧ (s.gaLearn q).reg Reg.GA_LEARNS = sat32 (s.reg Reg.GA_LEARNS + 1) ∧
    s.gaLearn q = { s with regs := (s.gaLearn q).regs, ga := (s.gaLearn q).ga }

/-- Member commands: completions, timeouts and failure (R245, R246, R274, R275, R278). A first failure is retried, a final
status ends the command, a timeout ends it internally, and a failed member takes no more. Log entry 79 says what of this is the
model's choice. -/
def Obligations.Members : Prop :=
  ((∀ (port qp cid : Nat) (pay : MPayload) (c : MCmd) (s : State), s.mpFind port qp cid = some c → c.expired = false →
    c.timedOut = false → c.again = false → exec (.memberCompletion port qp cid false false pay) s =
      .next ((State.mpIssue { s with mp.cmds := s.mp.cmds.erase c } { c with again := true, issued := 0 }).mpPump c.port).settle) ∧
  (∀ (port qp cid : Nat) (ok dnr : Bool) (pay : MPayload) (c : MCmd) (s : State), s.mpFind port qp cid = some c →
    c.expired = false → c.timedOut = false → ok = true ∨ dnr = true ∨ c.again = true → ∃ v : State,
    v = ((State.mpSample { s with mp.cmds := s.mp.cmds.erase c } c).mpCount c ok) ∧
    exec (.memberCompletion port qp cid ok dnr pay) s =
      .next (State.mpPump { v with mp.ends := v.mp.ends ++ [(c, ok, if ok then pay else .blocks [])] } c.port).settle) ∧
  (∀ (port qp cid : Nat) (ok dnr : Bool) (pay : MPayload) (s : State), s.mpFind port qp cid = none →
    exec (.memberCompletion port qp cid ok dnr pay) s = .next s)) ∧
  ((∀ (port qp cid : Nat) (c : MCmd) (s : State), s.mpFind port qp cid = some c → c.timedOut = false →
    s.due c.issued (1000 * clampN 100 2000 (s.fld Reg.MP_TIMING 11 0)) = true →
    exec (.memberCmdTimeout port qp cid) s = .next (s.mpTimeout c).settle) ∧
  (∀ (port qp cid : Nat) (c : MCmd) (s : State), s.mpFind port qp cid = some c →
    s.due c.issued (1000 * clampN 100 2000 (s.fld Reg.MP_TIMING 11 0)) = false →
    exec (.memberCmdTimeout port qp cid) s = .next s) ∧
  (∀ (c : MCmd) (s : State), c ∈ s.mp.cmds → { c with timedOut := true } ∈ (s.mpLapse c).mp.cmds ∧
    (s.mpLapse c).mp.cmds.length = s.mp.cmds.length ∧
    (s.mpLapse c).reg (Reg.MP_P_TMO c.port) = sat32 (s.reg (Reg.MP_P_TMO c.port) + 1)) ∧
  (∀ (port qp cid : Nat) (c : MCmd) (s : State), s.mpFind port qp cid = some c → s.due c.issued 2000000 = true →
    exec (.memberLongTimeout port qp cid) s = .next (s.failMember port 3).settle) ∧
  (∀ (port cause : Nat) (s : State), (s.port port).failed = false → s.assigned port = true →
    s.failMember port cause = (s.memberGone port cause).memberOut port cause ∧
    ((s.memberGone port cause).port port).failed = true ∧
    (s.memberGone port cause).reg Reg.MD_MEMBER_FAILS = sat32 (s.reg Reg.MD_MEMBER_FAILS + 1) ∧
    (s.memberGone port cause).reg Reg.MD_LASTFAIL = (port + 256 * cause) % 2 ^ 32 ∧
    (∀ c ∈ (s.memberGone port cause).mp.cmds, c.port ≠ port)) ∧
  (∀ (port cause : Nat) (s : State), (s.port port).failed = true ∨ s.assigned port = false → s.failMember port cause = s) ∧
  (∀ (port qp cid d h k : Nat) (m : MCmd) (c : Cmd) (p : Place) (s : State), s.mpFind port qp cid = some m → m.dl = some d →
    m.client = .host h k → d ≤ s.now → m.expired = false → m.timedOut = false → s.cmd? h = some c → s.blkPlace c k = some p →
    ∃ cell, exec (.deadlineExpiry port qp cid) s = .next (if s.canRecon p cell = true then
      (((s.mpReplace m { m with expired := true }).bump (Reg.MP_P_DLEXP port)).startRecon h k p [cell]) else s)))

/-- A late completion (R280). A completion for a command that has expired or timed out ends nothing, counts in MP_Pn_LATE and
frees the identifier. -/
def Obligations.LateCompletion : Prop :=
  ∀ (port qp cid : Nat) (ok dnr : Bool) (pay : MPayload) (c : MCmd) (s : State), s.mpFind port qp cid = some c →
    c.expired = true ∨ c.timedOut = true → ∃ v : State,
    exec (.memberCompletion port qp cid ok dnr pay) s = .next (v.mpPump c.port).settle ∧ v.mp.cmds = s.mp.cmds.erase c ∧
      v.reg (Reg.MP_P_LATE c.port) = sat32 (s.reg (Reg.MP_P_LATE c.port) + 1) ∧ v.mp.ends = s.mp.ends ∧
      v = { s with regs := v.regs, mp := { s.mp with cmds := s.mp.cmds.erase c } }

/-- Member links, presence, power and SMART (R271, R281, R283, R284, R285). Links, bounds, presence polls and the power wait
move a port through the states of its table. Log entries 78 and 122 say what of this is the model's choice. -/
def Obligations.Ports : Prop :=
  ((∀ (p : Nat) (s : State), (s.port p).state = Ps.ready → s.pfd = false → ∃ v : State,
    exec (.memberLinkDown p) s = .next v.tlUpdate.settle ∧ (v.port p).state = Ps.retrain ∧ (v.port p).boundAt = s.now ∧
      (∀ c ∈ v.mp.cmds, c.port ≠ p) ∧ v = { s with mp := v.mp }) ∧
  (∀ (p lanes speed : Nat) (s : State), (s.port p).state = Ps.training ∨ (s.port p).state = Ps.retrain → ∃ v : State,
    exec (.memberLinkUp p lanes speed) s = .next v.tlUpdate.settle ∧ (v.port p).state = Ps.init ∧ (v.port p).rdy = false ∧
      (v.port p).lanes = lanes ∧ (v.port p).speed = speed ∧
      (v.port p).down = (decide (lanes < s.fullLanes p) || decide (speed < 4)) ∧ v = { s with mp := v.mp, rg := v.rg }) ∧
  (∀ (p : Nat) (s : State), (s.port p).state = Ps.retrain →
    s.due (s.port p).boundAt (1000 * clampN 10 2000 (s.fld Reg.MP_TIMING 27 16)) = true →
    exec (.retrainTimeout p) s = .next (s.portReject p 6).settle) ∧
  (∀ (p : Nat) (s : State), (s.port p).state = Ps.training → s.due (s.port p).boundAt 1000000 = true →
    exec (.trainingTimeout p) s = .next (s.portReject p 6).settle) ∧
  (∀ (p : Nat) (s : State), (s.port p).state = Ps.init → (s.port p).rdy = false →
    exec (.readyWaitTimeout p) s = .next (s.portReject p 1).settle ∧ ∃ v : State,
    exec (.cstsRdy p) s = .next ((v.initCmd p .identCtrl 0).settle) ∧ (v.port p).rdy = true ∧ v = { s with mp := v.mp }) ∧
  (∀ (p r : Nat) (s : State), s.portReject p r = ((s.portBarred p r).failMember p (if r = 6 then 1 else 5)).sbSync ∧
    ((s.portBarred p r).port p).state = Ps.rejected ∧ ((s.portBarred p r).port p).reason = r ∧
    (∀ c ∈ (s.portBarred p r).mp.cmds, c.port ≠ p) ∧ s.portBarred p r = { s with mp := (s.portBarred p r).mp })) ∧
  ((∀ (p : Nat) (s : State), (s.port p).state = Ps.powering →
    s.due (s.port p).since (1000 * clampN 10 5000 (s.fld Reg.MP_HP 15 0)) = true → ∃ v : State,
    exec (.powerWaitExpiry p) s = .next v.sbSync ∧ (v.port p).state = Ps.training ∧ v = { s with mp := v.mp }) ∧
  (∀ (bus : Nat) (bits : BitVec 16) (s : State), s.pw.held = false → 3 ≤ s.pw.step →
    exec (.presencePoll bus true bits) s = .next (s.sbPoll bus bits).settle) ∧
  (∀ (bus : Nat) (bits : BitVec 16) (s : State), s.pw.held = false → 3 ≤ s.pw.step →
    2 ≤ (if bus = 0 then s.mp.nak0 else s.mp.nak1) → bus < 2 → ∃ u : State,
    exec (.presencePoll bus false bits) s = .next u ∧ u.flag Reg.MP_STATUS bus = true ∧ u = { s with regs := u.regs, mp := u.mp }) ∧
  (∀ (p : Nat) (s : State), s.portExists p = true → (s.port p).state = Ps.absent → 1 ≤ (s.port p).polls →
    ((s.portPresence p true).port p).state = Ps.powering ∧ ((s.portPresence p true).port p).present = true ∧
    ((s.portPresence p true).port p).since = s.now ∧ s.portPresence p true = { s with mp := (s.portPresence p true).mp }) ∧
  (∀ (p : Nat) (s : State), s.portExists p = true → (s.port p).state ≠ Ps.absent → s.portPresence p false = s.portRemove p) ∧
  (∀ (p : Nat) (q : Port) (s : State), ((s.portGone p q).port p).state = Ps.absent ∧ ((s.portGone p q).port p).present = false ∧
    (∀ c ∈ (s.portGone p q).mp.cmds, c.port ≠ p) ∧ s.portGone p q = { s with mp := (s.portGone p q).mp }) ∧
  (∀ (p : Nat) (s : State), (s.port p).state = Ps.ready →
    s.due (s.port p).smartAt (1000000 * max 1 (s.fld Reg.MP_CFG 15 8)) = true → ∃ v : State,
    exec (.smartPoll p) s = .next (v.mpIssue (mcmd p .smart 0 0 .smart)) ∧ (v.port p).smartAt = s.now ∧ v = { s with mp := v.mp }))

/-- What the Mender takes up (R249, R259, R260, R263, R264). The walk, a repair and a resync start one task each where their
rank lets them. -/
def Obligations.MenderStarts : Prop :=
  (∀ (a : Nat) (r : ArrayRec) (s v : State), v = s.rateRoll a → s.arr? a = some r → v.walkMayIssue a r = true → ∃ u : State,
    exec (.walkIssue a) s = .next u.settle ∧ (u.walk a).issued = (s.walk a).issued + 1 ∧
      (∃ t, u.md.tasks = s.md.tasks ++ [t] ∧ t.kind = .walk (s.walk a).issued ∧ t.arr = a ∧
        t.stripe = (s.walk a).issued % r.count) ∧ u = { s with md := u.md, nextH := u.nextH }) ∧
  (∀ (a : Nat) (r : ArrayRec) (s : State), s.walkMayIssue a r = true → s.pfd = false ∧ (s.walk a).active = true ∧ s.flag Reg.MD_CTRL a = false ∧
    s.resyncWaits a = [] ∧ s.repairWaits a = false) ∧
  (∀ (e : RepEnt) (r : ArrayRec) (s : State),
    (s.md.repq.find? fun e => s.menderOk e.arr && (s.resyncWaits e.arr).isEmpty) = some e → s.arr? e.arr = some r →
    (s.rateRoll e.arr).rateOk e.arr r = true → ∃ u : State, exec .repairStart s = .next u.settle ∧
      u.md.repq = s.md.repq.erase e ∧ (∃ t, u.md.tasks = s.md.tasks ++ [t] ∧ t.kind = .repair e.pos e.map ∧ t.arr = e.arr ∧
        t.stripe = e.stripe) ∧ u = { s with md := u.md, nextH := u.nextH }) ∧
  (∀ (e : LgLive) (r : ArrayRec) (s : State),
    s.resyncNext = some e →
    s.arr? e.arr = some r → s.frameOf e.arr e.stripe = none → ∃ u : State, exec .resyncStart s = .next u.settle ∧
      (∃ t, u.md.tasks = s.md.tasks ++ [t] ∧ t.kind = .resync ∧ t.arr = e.arr ∧ t.stripe = e.stripe) ∧
      u = { s with md := u.md, nextH := u.nextH }) ∧
  (∀ (e : LgLive) (r : ArrayRec) (n : Nat) (f : Frame) (s : State),
    s.resyncNext = some e →
    s.arr? e.arr = some r → s.frameOf e.arr e.stripe = some (n, f) → exec .resyncStart s = .next (s.resyncReady n).settle) ∧
  (∀ (e : LgLive) (s : State), s.resyncNext = some e → e ∈ s.resyncWaits e.arr ∧ s.frameGoes e.arr e.stripe = false ∧ s.menderOk e.arr = true)

/-- Checkpoints, retries, idle arrays and the scrub (R251, R252, R261, R264, R412). Checkpoints, retries and idle marks happen
at their times; a scrub pass starts, visits stripes in order and ends. Log entry 43 says what of this is the model's choice. -/
def Obligations.MenderTimes : Prop :=
  ((∀ (a : Nat) (s : State), s.pfd = false → (s.walk a).active = true → (s.walk a).ckWalked < (s.walk a).walked →
    (s.md.tasks.any fun t => t.arr == a && t.kind == .checkpoint) = false →
    (s.walk a).ckWalked + 4096 ≤ (s.walk a).walked ∨ s.due (s.walk a).ckAt 1000000 = true → ∃ u : State,
    exec (.rebuildCheckpoint a) s = .next u ∧ (∃ t, u.md.tasks = s.md.tasks ++ [t] ∧ t.kind = .checkpoint ∧ t.arr = a) ∧
      u = { s with md := u.md, nextH := u.nextH }) ∧
  (∀ (a : Nat) (s : State), s.pfd = true ∨ (s.walk a).active = false ∨ (s.walk a).walked ≤ (s.walk a).ckWalked →
    exec (.rebuildCheckpoint a) s = .next s) ∧
  (∀ (a : Nat) (s : State), s.pfd = false → (s.scrubOf a).running = true → 0 < (s.scrubOf a).ckCount →
    65536 ≤ (s.scrubOf a).ckCount ∨ s.due (s.scrubOf a).ckAt 60000000 = true → ∃ u : State,
    exec (.scrubCheckpoint a) s = .next u ∧ (u.scrubOf a).ckCount = 0 ∧ (u.scrubOf a).next = (s.scrubOf a).next ∧
      u.keep = (s.scrubWord a (s.scrubOf a).next (s.scrubPasses a)).keep ∧ u.mem = s.mem) ∧
  (∀ (t : Nat) (x : Task) (s : State), s.task? t = some x → x.phase = .retry → s.due x.since 1000000 = true → s.pfd = false →
    x.kind.isWalk = none → exec (.menderRetryTimer t) s = .next (s.setTask { x with phase := .step 0 }).settle) ∧
  (∀ (a : Nat) (s : State), (s.cmds.any fun c => isPf0 c.f && s.cmdArr c == some a) = false →
    s.due (mapGetD s.md.arrIdle a 0) 1000000 = true → ∃ u : State, exec (.arrayIdleTimer a) s = .next u ∧
      u.md.idleCap.testBit a = true ∧ (∀ b, b ≠ a → u.md.idleCap.testBit b = s.md.idleCap.testBit b) ∧ u = { s with md := u.md })) ∧
  ((∀ (a : Nat) (s : State), s.scrubMay a = true → s.pfd = false ∧ s.flag Reg.MD_CFG 0 = true ∧ (s.walk a).active = false ∧
    s.resyncWaits a = [] ∧ s.repairWaits a = false) ∧
  (∀ (a : Nat) (r : ArrayRec) (s v : State), v = s.rateRoll a → s.arr? a = some r → v.scrubMay a = true →
    (v.scrubOf a).running = false → exec (.scrubVisit a) s = .next (v.scrubStart a r).settle ∧
    ((v.scrubStart a r).scrubOf a).running = true) ∧
  (∀ (a : Nat) (r : ArrayRec) (s v : State), v = s.rateRoll a → s.arr? a = some r → v.scrubMay a = true →
    (v.scrubOf a).running = true → v.due (v.scrubOf a).visitAt (v.scrubUs r) = true → v.rateOk a r = true →
    exec (.scrubVisit a) s = .next (if r.count ≤ (v.scrubOf a).next then v.scrubDone a
      else (v.scrubNext a).scrubAt a r (v.scrubOf a).next).settle ∧ ((v.scrubDone a).scrubOf a).running = false ∧
    ((v.scrubDone a).scrubOf a).next = 0 ∧ ((v.scrubNext a).scrubOf a).next = (v.scrubOf a).next + 1) ∧
  (∀ (a n : Nat) (r : ArrayRec) (s : State), bit (s.sst a n) 28 = true →
    (s.sstState a n = Sst.degraded → s.scrubAt a r n = (s.repAdd a n 0 0).setSstBit a n 28 false) ∧
    (s.sstState a n = Sst.consistent ∨ s.sstState a n = Sst.open_ ∨ s.sstState a n = Sst.rebuilding → (∃ t, (s.scrubAt a r n).md.tasks = s.md.tasks ++ [t] ∧ t.kind = .scrub ∧ t.arr = a ∧
      t.stripe = n) ∧ s.scrubAt a r n = { s with md := (s.scrubAt a r n).md, nextH := (s.scrubAt a r n).nextH })) ∧
  (∀ (a n : Nat) (r : ArrayRec) (s : State), bit (s.sst a n) 28 = false → s.scrubAt a r n = s))

/-- Register fields by their types (R5, R6). A register write leaves RO, WO and KW fields, sets RW fields, and clears the bits
written 1 of W1C fields; a W1S field (the map has none) takes the bits written 1; bits with a row of their own are left to it
(log entry 12). -/
def Obligations.RegisterFields : Prop :=
  (∀ (k v : Nat) (d : RegDesc) (x : RField) (s : State), regDesc? k = some d → x ∈ d.fields →
    (x.ty = .ro ∨ x.ty = .wo ∨ x.ty = .kw → bits (d.write (s.reg k) v) x.hi x.lo = bits (s.reg k) x.hi x.lo) ∧
    (x.ty = .rw → bits (d.write (s.reg k) v) x.hi x.lo = bits v x.hi x.lo) ∧
    (x.ty = .w1c → ∀ i, (bits (d.write (s.reg k) v) x.hi x.lo).testBit i =
      ((bits (s.reg k) x.hi x.lo).testBit i && !(bits v x.hi x.lo).testBit i))) ∧
  (∀ (k v : Nat) (d : RegDesc) (s : State), regDesc? k = some d → rowBits k = 0 → d.write (s.reg k) v < 2 ^ 32 →
    (s.regStore k v).reg k = d.write (s.reg k) v ∧ s.regStore k v = { s with regs := (s.regStore k v).regs } ∧
    ∀ q, q ≠ k → (s.regStore k v).reg q = s.reg q) ∧
  (∀ (v acc : Nat) (x : RField), x.lo ≤ x.hi → x.ty = .w1s →
    bits (x.apply v acc) x.hi x.lo = bits acc x.hi x.lo ||| bits v x.hi x.lo)

/-- Register writes, KW writes and reads of pairs (R5, R289, R299, R354, R392). A BAR0 write is dropped, counted or taken; a KW
write is stored, skipped or inhibited; the read of a LO half keeps HI for the next read. Log entry 105 says what of this is the
model's choice. -/
def Obligations.RegisterAccess : Prop :=
  ((∀ (f : Func) (off len : Nat) (val : W64) (s : State), s.pf0Dropped f = true →
    exec (.registerWrite f off len val) s = .next (s.bump Reg.HP_DROP_FRZ)) ∧
  (∀ (f : Func) (off len : Nat) (val : W64) (s : State), s.pf0Dropped f = false → bar0Invalid f off len true = true →
    exec (.registerWrite f off len val) s = .next (s.bump Reg.HP_BADACC)) ∧
  (∀ (f : Func) (off : Nat) (val : W64) (s : State), s.pf0Dropped f = false → bar0Invalid f off 4 true = false →
    exec (.registerWrite f off 4 val) s = .next (s.barWrite f off (val.toNat % 2 ^ 32))) ∧
  (∀ (f : Func) (off : Nat) (val : W64) (s : State), s.pf0Dropped f = false → bar0Invalid f off 8 true = false →
    exec (.registerWrite f off 8 val) s =
      .next ((s.barWrite f off (val.toNat % 2 ^ 32)).barWrite f (off + 4) (val.toNat / 2 ^ 32))) ∧
  (∀ (off w : Nat) (val : W32) (d : RegDesc) (s : State), regDesc? off = some d → (d.fields.any fun x => x.ty == .kw) = true →
    s.kwFix off (s.reg off) (d.kwWrite (s.reg off) val.toNat) = some w →
    exec (.kwFieldWrite off ⟨val, []⟩) s = .next (((s.kwBefore off).kwStore (Config.settingsPage off) off w).kwAfter off)) ∧
  (∀ (off : Nat) (val : W32) (d : RegDesc) (s : State), regDesc? off = some d → (d.fields.any fun x => x.ty == .kw) = false →
    exec (.kwFieldWrite off ⟨val, []⟩) s = .next s) ∧
  (∀ (off : Nat) (val : W32) (errs : List KeepErr) (s : State),
    exec (.kwFieldWrite off ⟨val, errs⟩) s = exec (.kwFieldWrite off ⟨val, []⟩) (errs.foldl State.keepErr s)) ∧
  (∀ (w : Nat) (s : State), (s.keepErr (.corrected w)).reg Reg.KP_CORR = sat32 (s.reg Reg.KP_CORR + 1) ∧
    (s.keepErr (.uncorrectable w)).reg Reg.KP_UNCORR = sat32 (s.reg Reg.KP_UNCORR + 1) ∧
    w ∈ (s.keepErr (.uncorrectable w)).kp.unc ∧ (s.keepErr (.uncorrectable w)).mem = s.mem) ∧
  (∀ (p : Fin 16) (k v : Nat) (s : State), (s.reg k = v % 2 ^ 32 → s.kwStore p k v = s.bump Reg.KP_SKIPPED) ∧
    (s.reg k ≠ v % 2 ^ 32 → s.kp.inhibit = true → s.kwStore p k v = s.bump Reg.KP_INHIBIT) ∧
    (s.reg k ≠ v % 2 ^ 32 → s.kp.inhibit = false → k ≠ Reg.KP_WARN 0 → k ≠ Reg.KP_STATUS → (s.kwStore p k v).reg k = v % 2 ^ 32 ∧
      (s.kwStore p k v).kp.wear = mapUpd s.kp.wear p 0 (· + 1)))) ∧
  ((∀ (k : Nat) (s : State), isLo k = true → mapGet? s.latch k = none →
    mapGet? (s.regRead k).2.latch (k + 4) = some (BitVec.ofNat 32 ((s.regEffect k).2.regNow (k + 4)))) ∧
  (∀ (k : Nat) (v : W32) (s : State), mapGet? s.latch k = some v → (s.regRead k).1 = v ∧
    mapGet? (s.regRead k).2.latch k = none ∧ (s.regRead k).2 = { s with latch := (s.regRead k).2.latch }) ∧
  (∀ (off : Nat) (s : State), isLo off = true → s.pf0Dropped (keyFn off).1 = false → exec (.loLatchRead off) s =
    .next ((s.regRead off).2.put [.barReply (keyFn off).1 0 (toLe 4 (s.regRead off).1.toNat)])) ∧
  (∀ (off : Nat) (s : State), isLo off = true → s.pf0Dropped (keyFn off).1 = true → exec (.loLatchRead off) s =
    .next (s.put [.barReply (keyFn off).1 0 (ones 4)])))

/-- A KW write of the stored value (R354). Such a write counts in KP_SKIPPED and changes neither the Keep nor the wear counts.
-/
def Obligations.SkippedWrites : Prop :=
  ∀ (off w : Nat) (val : W32) (d : RegDesc) (s : State), regDesc? off = some d → (d.fields.any fun x => x.ty == .kw) = true →
    s.kwFix off (s.reg off) (d.kwWrite (s.reg off) val.toNat) = some w → s.reg off = w % 2 ^ 32 → ∃ v : State,
    exec (.kwFieldWrite off ⟨val, []⟩) s = .next (v.kwAfter off) ∧ v.reg Reg.KP_SKIPPED = sat32 (s.reg Reg.KP_SKIPPED + 1) ∧
      v = { s with regs := v.regs, tl := v.tl, mw := v.mw } ∧ (∀ k, k ≠ Reg.KP_SKIPPED → v.reg k = s.reg k) ∧ (v.kwAfter off).keep = s.keep ∧
      (v.kwAfter off).kp = s.kp

/-- Console, TAP and management port (R369, R370, R407, R409). The console works in test mode, the TAP shifts out the data of
its instruction, and the management port reads, selects slots and refreshes its health page. Log entry 85 says what of this is
the model's choice. -/
def Obligations.Service : Prop :=
  (∀ (op : ConsoleOp) (s : State), s.testMode = false → exec (.consoleInput op) s = .next s) ∧
  (∀ (off : Nat) (s : State), s.testMode = true → bar0Invalid .pf1 off 4 false = false → exec (.consoleInput (.read off)) s =
    .next ((s.barRead .pf1 off).2.put [.console (s.barRead .pf1 off).1])) ∧
  (∀ (off : Nat) (v : W32) (fb : Bool) (s : State), s.testMode = true → bar0Invalid .pf1 off 4 true = false →
    exec (.consoleInput (.write off v fb)) s = .next ((s.barWrite .pf1 off v.toNat).rowWrites off v.toNat fb)) ∧
  (∀ (code : BitVec 6) (s : State), s.flag Reg.TD_CTRL 0 = false → exec (.tapInstruction code) s = .next s) ∧
  (∀ s : State, s.flag Reg.TD_CTRL 0 = true → ∃ u : State, exec (.tapInstruction 0x02) s = .next u ∧ u.pw.tap = 0x02 ∧
    u.out = s.out ++ [.tap 32 (regReset Reg.TD_ID)] ∧ u = { s with out := u.out, pw := u.pw }) ∧
  (∀ (code : BitVec 6) (s : State), s.flag Reg.TD_CTRL 0 = true → code = 0x03 ∨ code = 0x3F → ∃ u : State,
    exec (.tapInstruction code) s = .next u ∧ u.pw.tap = 0x3F ∧ u.out = s.out ++ [.tap 1 0] ∧
    u = { s with out := u.out, pw := u.pw }) ∧
  (∀ (ptr rdLen : Nat) (s : State), s.flag Reg.AL_MGT 7 = true → 0 < rdLen → ∃ u : State,
    exec (.mgtTransaction ptr [] rdLen) s = .next u ∧ u.al.mgtPtr = (ptr % 65536 + rdLen) % 65536 ∧
    u.out = s.out ++ [.mgt ((List.range rdLen).map fun i => s.mgtByte ((ptr % 65536 + i) % 65536))] ∧
    u = { s with out := u.out, al := u.al }) ∧
  (∀ (ptr rdLen : Nat) (wr : List Byte) (s : State), s.flag Reg.AL_MGT 7 = false →
    exec (.mgtTransaction ptr wr rdLen) s = .next s) ∧
  (∀ (slot : Nat) (s : State), s.flag Reg.AL_MGT 7 = true → slot < 0x100 → ∃ u : State, exec (.mgtSlotWrite slot) s = .next u ∧
    u.al.mgtSlot = slot ∧ u.al.mgtBuf = s.alRec slot ∧ u.al.mgtDone = true ∧ u.al.mgtValid = recOk (s.alRec slot) ∧
    u = { s with al := u.al }) ∧
  (∀ s : State, s.spState ≠ 3 → ∃ u : State, exec .mgtHealthRefresh s = .next u ∧
    u.al.refreshes = (s.al.refreshes + 1) % 2 ^ 32 ∧ u.al.health = s.healthBody u.al.refreshes ++
      toLe 4 (crc32c (s.healthBody u.al.refreshes)) ∧ u = { s with al := u.al })

/-- The Almanac (R362, R363, R364, R366, R368). Epochs close and open, checkpoints, repeats and snapshots are taken, samples
show, and events are taken from the Collector. Log entry 14 says what of this is the model's choice. -/
def Obligations.AlmanacRows : Prop :=
  ((∀ s : State, s.al.isOpen = true → s.due s.al.cur.at_ 3600000000 = true → exec .epochHourClose s = .next (s.alClose 1 1)) ∧
  (∀ s : State, s.al.isOpen = true → s.due s.al.cur.ckAt 600000000 = true → exec .almanacCheckpoint s = .next s.alCheckpoint) ∧
  (∀ (t : Nat) (s : State), s.al.cur.condAt = some t → s.al.isOpen = true → t ≤ s.now →
    exec .conditionCloseDelay s = .next (s.alClose 2 3)) ∧
  (∀ (k r : Nat) (s : State), s.al.isOpen = true → ∃ v : State, s.alClose k r = v.alOpenEpoch ∧ v.al.lastClose = some s.now ∧
    ((s.alClose k r).al.isOpen = true) ∧ (s.alClose k r).al.cur.start = v.time ∧ (s.alClose k r).al.cur.slot = none) ∧
  (∀ (n : Nat) (s : State), 0 < s.al.reps → s.due s.al.repAt 1000000 = true → s.al.repSlot = n → s.alValid n = true →
    s.alKindOf n = 2 → s.alOpenOf n = false → ∃ u : State,
    exec .repeatFlush s = .next u ∧ u.al.reps = 0 ∧ u = { (s.alWrite n (putBytes (bytesAt (s.alRec n) 0 0x3F8) 0x1C
      (toLe 4 (sat32 (leAt (s.alRec n) 0x1C 4 + s.al.reps))))) with al := u.al }) ∧
  (∀ (slot : Nat) (s : State), slot < 0x100 → ∃ u : State, exec (.almanacSnapshot slot) s = .next u ∧ u.al.rbuf = s.alRec slot ∧
    u.reg Reg.AL_RSEL = slot ∧ u.flag Reg.AL_RSTAT 0 = true ∧ u.flag Reg.AL_RSTAT 1 = s.alValid slot ∧
    u = { s with regs := u.regs, al := u.al }) ∧
  (∀ (m : AlSample) (s : State), s.al.isOpen = false → ∃ u : State, exec (.almanacSample m) s = .next u ∧
    u.reg Reg.SS_VDDC = min m.vddCore 0xFFFF ∧ u.reg Reg.SS_VIN = min m.vin 0xFFFF ∧
    u.reg Reg.SS_TJ = intBits 16 m.tj ∧ u.al = s.al ∧ u = { s with regs := u.regs, rg := u.rg }) ∧
  (∀ (m : AlSample) (s : State), s.al.isOpen = true → ∃ v : State, exec (.almanacSample m) s =
    .next ((v.sampleHists m).sampleExts m) ∧ v.reg Reg.SS_VDDC = min m.vddCore 0xFFFF ∧ v = { s with regs := v.regs, rg := v.rg })) ∧
  ((∀ (i : ColItem) (n : Note) (s : State), s.al.isOpen = true → s.rg.col.find? (fun i => i.dep.isNote && !i.taken) = some i →
    i.dep = .note n → exec .almanacEventTake s =
      .next (State.alTake { s with rg.col := execAlmanacEventTake.releaseOne s.rg.col } n)) ∧
  (∀ (n : Note) (s : State), (s.alHist 9 n.sev).alIsRepeat n = true → s.al.reps = 0 ∨ s.alNewest = some s.al.repSlot →
    (s.alTake n).reg Reg.AL_REPEATS = sat32 ((s.alHist 9 n.sev).reg Reg.AL_REPEATS + (1 + n.rep)) ∧
    (s.alTake n).al.reps = (s.alHist 9 n.sev).al.reps + 1 + n.rep))

/-- Where the chunks of a stripe lie (R29, R30). Parity and data chunks of a parity array lie at the rotated positions, and
copies of a mirror's chunks at i × n + c. -/
def Obligations.Placement : Prop :=
  (∀ (r : ArrayRec) (s i j : Nat), r.mirror = false → 0 < r.w →
    ((r.parPos s j : Nat) : Int) = ((r.w : Int) - r.k + j - (s % r.w : Nat)) % r.w ∧
    ((r.dataPos s i 0 : Nat) : Int) = ((r.w : Int) - (s % r.w : Nat) + i) % r.w) ∧
  (∀ (r : ArrayRec) (s i c : Nat), r.mirror = true → r.dataPos s i c = i * r.n + c)

/-- Placement loses nothing (R29, R30, R35). Cells and positions of a stripe are in one-to-one correspondence, and a volume
block's stripe, chunk and block give the block back. -/
def Obligations.PlacementInverse : Prop :=
  (∀ (r : ArrayRec) (s c : Nat), c < r.w → r.cellPos s c < r.w ∧ r.posCell s (r.cellPos s c) = c) ∧
  (∀ (r : ArrayRec) (s p : Nat), p < r.w → r.posCell s p < r.w ∧ r.cellPos s (r.posCell s p) = p) ∧
  (∀ (r : ArrayRec) (v : Vol) (blk : Nat), 0 < r.dw → (mapBlock r v blk).2.1 < r.dw ∧ (mapBlock r v blk).2.2 < r.b ∧
    unmapBlock r v (mapBlock r v blk).1 (mapBlock r v blk).2.1 (mapBlock r v blk).2.2 = blk)
end

