-- ==== Sys2Proof/Laws/Bits.lean ====
section
/-! SUPPORT. Laws of the containers and of bit fields: sparse maps, byte memory in canonical form, bits of registers. -/

namespace Sys2Proof.Machine

/-! ### Sparse maps -/

@[simp] theorem mapGet_mapSet_same {α : Type} (m : NMap α) (k : Nat) (x : α) : mapGet? (mapSet m k x) k = some x := by
  induction m with
  | nil => simp [mapSet, mapGet?]
  | cons e t ih =>
    obtain ⟨a, v⟩ := e
    simp only [mapSet]
    split_ifs with h1 h2
    · simp [mapGet?]
    · simp [mapGet?]
    · rw [mapGet?, if_neg (fun h => h2 h.symm)]
      exact ih

theorem mapGet_mapSet_ne {α : Type} (m : NMap α) (k q : Nat) (x : α) (h : q ≠ k) :
    mapGet? (mapSet m k x) q = mapGet? m q := by
  induction m with
  | nil => simp [mapSet, mapGet?, Ne.symm h]
  | cons e t ih =>
    obtain ⟨a, v⟩ := e
    simp only [mapSet]
    split_ifs with h1 h2
    · rw [mapGet?, if_neg (Ne.symm h)]
    · subst h2
      rw [mapGet?, if_neg (Ne.symm h), mapGet?, if_neg (Ne.symm h)]
    · rw [mapGet?, mapGet?, ih]

@[simp] theorem mapGetD_mapSet_same {α : Type} (m : NMap α) (k : Nat) (x d : α) : mapGetD (mapSet m k x) k d = x := by
  simp [mapGetD]

theorem mapGetD_mapSet_ne {α : Type} (m : NMap α) (k q : Nat) (x d : α) (h : q ≠ k) :
    mapGetD (mapSet m k x) q d = mapGetD m q d := by
  simp [mapGetD, mapGet_mapSet_ne m k q x h]

theorem mapGet_filter {α : Type} (p : Nat → Bool) (m : NMap α) (k : Nat) :
    mapGet? (m.filter fun e => p e.1) k = if p k then mapGet? m k else none := by
  induction m with
  | nil => simp [mapGet?]
  | cons e t ih =>
    obtain ⟨a, v⟩ := e
    rw [List.filter_cons]
    by_cases c : a = k
    · subst c
      split_ifs with h
      · simp [mapGet?]
      · rw [ih, if_neg h]
    · split_ifs with h h2 h3
      · rw [mapGet?, if_neg c, mapGet?, if_neg c, ih, if_pos h2]
      · rw [mapGet?, if_neg c, ih, if_neg h2]
      · rw [mapGet?, if_neg c, ih, if_pos h3]
      · rw [ih, if_neg h3]

/-! ### Byte memory -/

theorem memWfFrom_mono (m : List Host.Cell) (a b : Nat) (h : a ≤ b) (w : memWfFrom b m = true) : memWfFrom a m = true := by
  cases m with
  | nil => rfl
  | cons e t =>
    obtain ⟨k, v⟩ := e
    simp only [memWfFrom, Bool.and_eq_true, decide_eq_true_eq] at *
    exact ⟨⟨by omega, w.1.2⟩, w.2⟩

/-- Below the first key nothing is listed, so 0 is read. -/
theorem memRead_below (m : List Host.Cell) (lo a : Nat) (w : memWfFrom lo m = true) (h : a < lo) : memRead m a = 0 := by
  induction m generalizing lo with
  | nil => rfl
  | cons e t ih =>
    obtain ⟨k, v⟩ := e
    simp only [memWfFrom, Bool.and_eq_true, decide_eq_true_eq] at w
    rw [memRead, if_neg (by omega)]
    exact ih (k + 1) w.2 (by omega)

theorem memWfFrom_memWrite (m : List Host.Cell) (lo a : Nat) (b : Byte) (w : memWfFrom lo m = true) (h : lo ≤ a) :
    memWfFrom lo (memWrite m a b) = true := by
  induction m generalizing lo with
  | nil =>
    simp only [memWrite]
    split_ifs with hb
    · rfl
    · have hb' : (b != 0) = true := by simpa using hb
      simp only [memWfFrom, Bool.and_eq_true, decide_eq_true_eq]
      exact ⟨⟨h, hb'⟩, trivial⟩
  | cons e t ih =>
    obtain ⟨k, v⟩ := e
    simp only [memWfFrom, Bool.and_eq_true, decide_eq_true_eq] at w
    obtain ⟨⟨h1, h2⟩, h3⟩ := w
    simp only [memWrite]
    split_ifs with c1 c2 c3 c4
    · simp only [memWfFrom, Bool.and_eq_true, decide_eq_true_eq]
      exact ⟨⟨h1, h2⟩, h3⟩
    · have hb : (b != 0) = true := by simpa using c2
      have : memWfFrom (k + 1) t = true := h3
      simp only [memWfFrom, Bool.and_eq_true, decide_eq_true_eq]
      exact ⟨⟨h, hb⟩, ⟨by omega, h2⟩, h3⟩
    · exact memWfFrom_mono t lo (k + 1) (by omega) h3
    · have hb : (b != 0) = true := by simpa using c4
      simp only [memWfFrom, Bool.and_eq_true, decide_eq_true_eq]
      exact ⟨⟨h, hb⟩, by rw [c3]; exact h3⟩
    · simp only [memWfFrom, Bool.and_eq_true, decide_eq_true_eq]
      exact ⟨⟨h1, h2⟩, ih (k + 1) h3 (by omega)⟩

/-- A byte write keeps the canonical form. -/
theorem memWf_memWrite (m : List Host.Cell) (a : Nat) (b : Byte) (w : memWf m = true) : memWf (memWrite m a b) = true :=
  memWfFrom_memWrite m 0 a b w (Nat.zero_le a)

/-- A write of bytes keeps the canonical form. -/
theorem memWf_memWriteN (bs : List Byte) (m : List Host.Cell) (a : Nat) (w : memWf m = true) :
    memWf (memWriteN m a bs) = true := by
  induction bs generalizing m a with
  | nil => exact w
  | cons b t ih => exact ih (memWrite m a b) (a + 1) (memWf_memWrite m a b w)

/-- A write leaves every other byte alone. -/
theorem memRead_memWrite_ne (m : List Host.Cell) (a q : Nat) (b : Byte) (h : q ≠ a) :
    memRead (memWrite m a b) q = memRead m q := by
  induction m with
  | nil =>
    simp only [memWrite]
    split_ifs with hb
    · rfl
    · simp [memRead, Ne.symm h]
  | cons e t ih =>
    obtain ⟨k, v⟩ := e
    simp only [memWrite]
    split_ifs with c1 c2 c3 c4
    · rfl
    · rw [memRead, if_neg (Ne.symm h)]
    · rw [memRead, if_neg (by omega)]
    · rw [memRead, if_neg (Ne.symm h), memRead, if_neg (by omega)]
    · rw [memRead, memRead, ih]

theorem memRead_memWrite_from (m : List Host.Cell) (lo a : Nat) (b : Byte) (w : memWfFrom lo m = true) :
    memRead (memWrite m a b) a = b := by
  induction m generalizing lo with
  | nil =>
    simp only [memWrite]
    split_ifs with hb
    · rw [hb]; rfl
    · rw [memRead, if_pos rfl]
  | cons e t ih =>
    obtain ⟨k, v⟩ := e
    simp only [memWfFrom, Bool.and_eq_true, decide_eq_true_eq] at w
    simp only [memWrite]
    split_ifs with c1 c2 c3 c4
    · rw [memRead, if_neg (by omega), c2]
      exact memRead_below t (k + 1) a w.2 (by omega)
    · rw [memRead, if_pos rfl]
    · rw [c4]
      exact memRead_below t (k + 1) a w.2 (by omega)
    · rw [memRead, if_pos rfl]
    · rw [memRead, if_neg (by omega)]
      exact ih (k + 1) w.2

/-- A read after a write of the same byte gives the byte written. -/
theorem memRead_memWrite_same (m : List Host.Cell) (a : Nat) (b : Byte) (w : memWf m = true) :
    memRead (memWrite m a b) a = b := memRead_memWrite_from m 0 a b w

/-- A write of bytes leaves every byte outside them alone. -/
theorem memRead_memWriteN_out (bs : List Byte) (m : List Host.Cell) (a q : Nat) (h : q < a ∨ a + bs.length ≤ q) :
    memRead (memWriteN m a bs) q = memRead m q := by
  induction bs generalizing m a with
  | nil => rfl
  | cons b t ih =>
    simp only [List.length_cons] at h
    rw [memWriteN, ih _ _ (by omega), memRead_memWrite_ne _ _ _ _ (by omega)]

/-- A read after a write of bytes gives them back. -/
theorem memReadN_memWriteN_same (bs : List Byte) (m : List Host.Cell) (a : Nat) (w : memWf m = true) :
    memReadN (memWriteN m a bs) a bs.length = bs := by
  induction bs generalizing m a with
  | nil => rfl
  | cons b t ih =>
    rw [List.length_cons, memReadN, memWriteN, ih _ _ (memWf_memWrite m a b w),
      memRead_memWriteN_out _ _ _ _ (by omega), memRead_memWrite_same m a b w]

/-! ### Bit fields -/

theorem testBit_bits (v hi lo i : Nat) : (bits v hi lo).testBit i = (decide (i < hi + 1 - lo) && v.testBit (lo + i)) := by
  simp [bits, Nat.testBit_mod_two_pow, Nat.testBit_shiftRight]

theorem testBit_setBits (v hi lo x i : Nat) (h : lo ≤ hi) : (setBits v hi lo x).testBit i =
    if i < lo then v.testBit i else if i ≤ hi then x.testBit (i - lo) else v.testBit i := by
  have e : setBits v hi lo x = 2 ^ lo * (2 ^ (hi + 1 - lo) * (v >>> (hi + 1)) + x % 2 ^ (hi + 1 - lo)) + v % 2 ^ lo := by
    unfold setBits
    rw [Nat.shiftLeft_eq, Nat.shiftLeft_eq, Nat.mul_add, ← Nat.mul_assoc, ← Nat.pow_add,
      show lo + (hi + 1 - lo) = hi + 1 by omega, Nat.mul_comm (2 ^ (hi + 1)), Nat.mul_comm (2 ^ lo)]
  rw [e, Nat.testBit_two_pow_mul_add _ (Nat.mod_lt _ (Nat.two_pow_pos lo)), Nat.testBit_mod_two_pow]
  split_ifs with h1 h2
  · simp [h1]
  · rw [Nat.testBit_two_pow_mul_add _ (Nat.mod_lt _ (Nat.two_pow_pos _)), Nat.testBit_mod_two_pow, if_pos (by omega)]
    simp; omega
  · rw [Nat.testBit_two_pow_mul_add _ (Nat.mod_lt _ (Nat.two_pow_pos _)), if_neg (by omega), Nat.testBit_shiftRight]
    congr 1; omega

@[simp] theorem bits_setBits_same (v hi lo x : Nat) (h : lo ≤ hi) : bits (setBits v hi lo x) hi lo = x % 2 ^ (hi + 1 - lo) := by
  apply Nat.eq_of_testBit_eq
  intro i
  rw [testBit_bits, testBit_setBits _ _ _ _ _ h, Nat.testBit_mod_two_pow]
  by_cases c : i < hi + 1 - lo
  · rw [if_neg (by omega), if_pos (by omega), show lo + i - lo = i by omega]
  · simp [c]

/-- Storing a field leaves a field that shares no bit with it alone. -/
theorem bits_setBits_ne (v hi lo x hi' lo' : Nat) (h : lo ≤ hi) (d : hi' < lo ∨ hi < lo') :
    bits (setBits v hi lo x) hi' lo' = bits v hi' lo' := by
  apply Nat.eq_of_testBit_eq
  intro i
  rw [testBit_bits, testBit_bits, testBit_setBits _ _ _ _ _ h]
  by_cases c : i < hi' + 1 - lo'
  · split_ifs <;> first | rfl | omega
  · simp [c]

theorem bits_mod (v hi lo : Nat) (h : hi < 32) : bits (v % 2 ^ 32) hi lo = bits v hi lo := by
  apply Nat.eq_of_testBit_eq
  intro i
  rw [testBit_bits, testBit_bits, Nat.testBit_mod_two_pow]
  by_cases c : i < hi + 1 - lo
  · simp [show lo + i < 32 by omega]
  · simp [c]

theorem bit_eq_bits (v i : Nat) : bit v i = decide (bits v i i = 1) := by
  unfold bit bits
  rw [show i + 1 - i = 1 by omega, Nat.testBit_eq_decide_div_mod_eq, Nat.shiftRight_eq_div_pow, Nat.pow_one]

@[simp] theorem b2n_mod (b : Bool) : b2n b % 2 = b2n b := by cases b <;> rfl
@[simp] theorem b2n_eq_one (b : Bool) : (b2n b = 1) = (b = true) := by cases b <;> simp [b2n]

end Sys2Proof.Machine
end

