-- ==== Sys2Proof/Laws/State.lean ====
section
/-! SUPPORT. What the shared updates of State leave alone, one lemma per field per update, and what registers read after a
store. -/

namespace Sys2Proof.Machine

/-! Storing a register changes regs only. -/
@[simp] theorem State.setReg_pending (s : State) (k v : Nat) : (s.setReg k v).pending = s.pending := rfl
@[simp] theorem State.setReg_now (s : State) (k v : Nat) : (s.setReg k v).now = s.now := rfl
@[simp] theorem State.setReg_free (s : State) (k v : Nat) : (s.setReg k v).free = s.free := rfl
@[simp] theorem State.setReg_nextH (s : State) (k v : Nat) : (s.setReg k v).nextH = s.nextH := rfl
@[simp] theorem State.setReg_out (s : State) (k v : Nat) : (s.setReg k v).out = s.out := rfl
@[simp] theorem State.setReg_latch (s : State) (k v : Nat) : (s.setReg k v).latch = s.latch := rfl
@[simp] theorem State.setReg_mem (s : State) (k v : Nat) : (s.setReg k v).mem = s.mem := rfl
@[simp] theorem State.setReg_keep (s : State) (k v : Nat) : (s.setReg k v).keep = s.keep := rfl
@[simp] theorem State.setReg_hp (s : State) (k v : Nat) : (s.setReg k v).hp = s.hp := rfl
@[simp] theorem State.setReg_rg (s : State) (k v : Nat) : (s.setReg k v).rg = s.rg := rfl
@[simp] theorem State.setReg_cmds (s : State) (k v : Nat) : (s.setReg k v).cmds = s.cmds := rfl
@[simp] theorem State.setReg_kp (s : State) (k v : Nat) : (s.setReg k v).kp = s.kp := rfl
@[simp] theorem State.setReg_al (s : State) (k v : Nat) : (s.setReg k v).al = s.al := rfl
@[simp] theorem State.setReg_st (s : State) (k v : Nat) : (s.setReg k v).st = s.st := rfl
@[simp] theorem State.setReg_mp (s : State) (k v : Nat) : (s.setReg k v).mp = s.mp := rfl
@[simp] theorem State.setReg_lm (s : State) (k v : Nat) : (s.setReg k v).lm = s.lm := rfl
@[simp] theorem State.setReg_lg (s : State) (k v : Nat) : (s.setReg k v).lg = s.lg := rfl
@[simp] theorem State.setReg_ld (s : State) (k v : Nat) : (s.setReg k v).ld = s.ld := rfl
@[simp] theorem State.setReg_sc (s : State) (k v : Nat) : (s.setReg k v).sc = s.sc := rfl
@[simp] theorem State.setReg_md (s : State) (k v : Nat) : (s.setReg k v).md = s.md := rfl
@[simp] theorem State.setReg_tl (s : State) (k v : Nat) : (s.setReg k v).tl = s.tl := rfl
@[simp] theorem State.setReg_sv (s : State) (k v : Nat) : (s.setReg k v).sv = s.sv := rfl
@[simp] theorem State.setReg_hm (s : State) (k v : Nat) : (s.setReg k v).hm = s.hm := rfl
@[simp] theorem State.setReg_mw (s : State) (k v : Nat) : (s.setReg k v).mw = s.mw := rfl
@[simp] theorem State.setReg_ga (s : State) (k v : Nat) : (s.setReg k v).ga = s.ga := rfl
@[simp] theorem State.setReg_pw (s : State) (k v : Nat) : (s.setReg k v).pw = s.pw := rfl

/-! Storing a field changes regs only. -/
@[simp] theorem State.setFld_pending (s : State) (k hi lo v : Nat) : (s.setFld k hi lo v).pending = s.pending := rfl
@[simp] theorem State.setFld_now (s : State) (k hi lo v : Nat) : (s.setFld k hi lo v).now = s.now := rfl
@[simp] theorem State.setFld_free (s : State) (k hi lo v : Nat) : (s.setFld k hi lo v).free = s.free := rfl
@[simp] theorem State.setFld_nextH (s : State) (k hi lo v : Nat) : (s.setFld k hi lo v).nextH = s.nextH := rfl
@[simp] theorem State.setFld_out (s : State) (k hi lo v : Nat) : (s.setFld k hi lo v).out = s.out := rfl
@[simp] theorem State.setFld_latch (s : State) (k hi lo v : Nat) : (s.setFld k hi lo v).latch = s.latch := rfl
@[simp] theorem State.setFld_mem (s : State) (k hi lo v : Nat) : (s.setFld k hi lo v).mem = s.mem := rfl
@[simp] theorem State.setFld_keep (s : State) (k hi lo v : Nat) : (s.setFld k hi lo v).keep = s.keep := rfl
@[simp] theorem State.setFld_hp (s : State) (k hi lo v : Nat) : (s.setFld k hi lo v).hp = s.hp := rfl
@[simp] theorem State.setFld_rg (s : State) (k hi lo v : Nat) : (s.setFld k hi lo v).rg = s.rg := rfl
@[simp] theorem State.setFld_cmds (s : State) (k hi lo v : Nat) : (s.setFld k hi lo v).cmds = s.cmds := rfl
@[simp] theorem State.setFld_kp (s : State) (k hi lo v : Nat) : (s.setFld k hi lo v).kp = s.kp := rfl
@[simp] theorem State.setFld_al (s : State) (k hi lo v : Nat) : (s.setFld k hi lo v).al = s.al := rfl
@[simp] theorem State.setFld_st (s : State) (k hi lo v : Nat) : (s.setFld k hi lo v).st = s.st := rfl
@[simp] theorem State.setFld_mp (s : State) (k hi lo v : Nat) : (s.setFld k hi lo v).mp = s.mp := rfl
@[simp] theorem State.setFld_lm (s : State) (k hi lo v : Nat) : (s.setFld k hi lo v).lm = s.lm := rfl
@[simp] theorem State.setFld_lg (s : State) (k hi lo v : Nat) : (s.setFld k hi lo v).lg = s.lg := rfl
@[simp] theorem State.setFld_ld (s : State) (k hi lo v : Nat) : (s.setFld k hi lo v).ld = s.ld := rfl
@[simp] theorem State.setFld_sc (s : State) (k hi lo v : Nat) : (s.setFld k hi lo v).sc = s.sc := rfl
@[simp] theorem State.setFld_md (s : State) (k hi lo v : Nat) : (s.setFld k hi lo v).md = s.md := rfl
@[simp] theorem State.setFld_tl (s : State) (k hi lo v : Nat) : (s.setFld k hi lo v).tl = s.tl := rfl
@[simp] theorem State.setFld_sv (s : State) (k hi lo v : Nat) : (s.setFld k hi lo v).sv = s.sv := rfl
@[simp] theorem State.setFld_hm (s : State) (k hi lo v : Nat) : (s.setFld k hi lo v).hm = s.hm := rfl
@[simp] theorem State.setFld_mw (s : State) (k hi lo v : Nat) : (s.setFld k hi lo v).mw = s.mw := rfl
@[simp] theorem State.setFld_ga (s : State) (k hi lo v : Nat) : (s.setFld k hi lo v).ga = s.ga := rfl
@[simp] theorem State.setFld_pw (s : State) (k hi lo v : Nat) : (s.setFld k hi lo v).pw = s.pw := rfl

/-! Storing a bit changes regs only. -/
@[simp] theorem State.setFlag_pending (s : State) (k i : Nat) (b : Bool) : (s.setFlag k i b).pending = s.pending := rfl
@[simp] theorem State.setFlag_now (s : State) (k i : Nat) (b : Bool) : (s.setFlag k i b).now = s.now := rfl
@[simp] theorem State.setFlag_free (s : State) (k i : Nat) (b : Bool) : (s.setFlag k i b).free = s.free := rfl
@[simp] theorem State.setFlag_nextH (s : State) (k i : Nat) (b : Bool) : (s.setFlag k i b).nextH = s.nextH := rfl
@[simp] theorem State.setFlag_out (s : State) (k i : Nat) (b : Bool) : (s.setFlag k i b).out = s.out := rfl
@[simp] theorem State.setFlag_latch (s : State) (k i : Nat) (b : Bool) : (s.setFlag k i b).latch = s.latch := rfl
@[simp] theorem State.setFlag_mem (s : State) (k i : Nat) (b : Bool) : (s.setFlag k i b).mem = s.mem := rfl
@[simp] theorem State.setFlag_keep (s : State) (k i : Nat) (b : Bool) : (s.setFlag k i b).keep = s.keep := rfl
@[simp] theorem State.setFlag_hp (s : State) (k i : Nat) (b : Bool) : (s.setFlag k i b).hp = s.hp := rfl
@[simp] theorem State.setFlag_rg (s : State) (k i : Nat) (b : Bool) : (s.setFlag k i b).rg = s.rg := rfl
@[simp] theorem State.setFlag_cmds (s : State) (k i : Nat) (b : Bool) : (s.setFlag k i b).cmds = s.cmds := rfl
@[simp] theorem State.setFlag_kp (s : State) (k i : Nat) (b : Bool) : (s.setFlag k i b).kp = s.kp := rfl
@[simp] theorem State.setFlag_al (s : State) (k i : Nat) (b : Bool) : (s.setFlag k i b).al = s.al := rfl
@[simp] theorem State.setFlag_st (s : State) (k i : Nat) (b : Bool) : (s.setFlag k i b).st = s.st := rfl
@[simp] theorem State.setFlag_mp (s : State) (k i : Nat) (b : Bool) : (s.setFlag k i b).mp = s.mp := rfl
@[simp] theorem State.setFlag_lm (s : State) (k i : Nat) (b : Bool) : (s.setFlag k i b).lm = s.lm := rfl
@[simp] theorem State.setFlag_lg (s : State) (k i : Nat) (b : Bool) : (s.setFlag k i b).lg = s.lg := rfl
@[simp] theorem State.setFlag_ld (s : State) (k i : Nat) (b : Bool) : (s.setFlag k i b).ld = s.ld := rfl
@[simp] theorem State.setFlag_sc (s : State) (k i : Nat) (b : Bool) : (s.setFlag k i b).sc = s.sc := rfl
@[simp] theorem State.setFlag_md (s : State) (k i : Nat) (b : Bool) : (s.setFlag k i b).md = s.md := rfl
@[simp] theorem State.setFlag_tl (s : State) (k i : Nat) (b : Bool) : (s.setFlag k i b).tl = s.tl := rfl
@[simp] theorem State.setFlag_sv (s : State) (k i : Nat) (b : Bool) : (s.setFlag k i b).sv = s.sv := rfl
@[simp] theorem State.setFlag_hm (s : State) (k i : Nat) (b : Bool) : (s.setFlag k i b).hm = s.hm := rfl
@[simp] theorem State.setFlag_mw (s : State) (k i : Nat) (b : Bool) : (s.setFlag k i b).mw = s.mw := rfl
@[simp] theorem State.setFlag_ga (s : State) (k i : Nat) (b : Bool) : (s.setFlag k i b).ga = s.ga := rfl
@[simp] theorem State.setFlag_pw (s : State) (k i : Nat) (b : Bool) : (s.setFlag k i b).pw = s.pw := rfl

/-! Counting changes regs only. -/
@[simp] theorem State.bumpN_pending (s : State) (k n : Nat) : (s.bumpN k n).pending = s.pending := rfl
@[simp] theorem State.bumpN_now (s : State) (k n : Nat) : (s.bumpN k n).now = s.now := rfl
@[simp] theorem State.bumpN_free (s : State) (k n : Nat) : (s.bumpN k n).free = s.free := rfl
@[simp] theorem State.bumpN_nextH (s : State) (k n : Nat) : (s.bumpN k n).nextH = s.nextH := rfl
@[simp] theorem State.bumpN_out (s : State) (k n : Nat) : (s.bumpN k n).out = s.out := rfl
@[simp] theorem State.bumpN_latch (s : State) (k n : Nat) : (s.bumpN k n).latch = s.latch := rfl
@[simp] theorem State.bumpN_mem (s : State) (k n : Nat) : (s.bumpN k n).mem = s.mem := rfl
@[simp] theorem State.bumpN_keep (s : State) (k n : Nat) : (s.bumpN k n).keep = s.keep := rfl
@[simp] theorem State.bumpN_hp (s : State) (k n : Nat) : (s.bumpN k n).hp = s.hp := rfl
@[simp] theorem State.bumpN_rg (s : State) (k n : Nat) : (s.bumpN k n).rg = s.rg := rfl
@[simp] theorem State.bumpN_cmds (s : State) (k n : Nat) : (s.bumpN k n).cmds = s.cmds := rfl
@[simp] theorem State.bumpN_kp (s : State) (k n : Nat) : (s.bumpN k n).kp = s.kp := rfl
@[simp] theorem State.bumpN_al (s : State) (k n : Nat) : (s.bumpN k n).al = s.al := rfl
@[simp] theorem State.bumpN_st (s : State) (k n : Nat) : (s.bumpN k n).st = s.st := rfl
@[simp] theorem State.bumpN_mp (s : State) (k n : Nat) : (s.bumpN k n).mp = s.mp := rfl
@[simp] theorem State.bumpN_lm (s : State) (k n : Nat) : (s.bumpN k n).lm = s.lm := rfl
@[simp] theorem State.bumpN_lg (s : State) (k n : Nat) : (s.bumpN k n).lg = s.lg := rfl
@[simp] theorem State.bumpN_ld (s : State) (k n : Nat) : (s.bumpN k n).ld = s.ld := rfl
@[simp] theorem State.bumpN_sc (s : State) (k n : Nat) : (s.bumpN k n).sc = s.sc := rfl
@[simp] theorem State.bumpN_md (s : State) (k n : Nat) : (s.bumpN k n).md = s.md := rfl
@[simp] theorem State.bumpN_tl (s : State) (k n : Nat) : (s.bumpN k n).tl = s.tl := rfl
@[simp] theorem State.bumpN_sv (s : State) (k n : Nat) : (s.bumpN k n).sv = s.sv := rfl
@[simp] theorem State.bumpN_hm (s : State) (k n : Nat) : (s.bumpN k n).hm = s.hm := rfl
@[simp] theorem State.bumpN_mw (s : State) (k n : Nat) : (s.bumpN k n).mw = s.mw := rfl
@[simp] theorem State.bumpN_ga (s : State) (k n : Nat) : (s.bumpN k n).ga = s.ga := rfl
@[simp] theorem State.bumpN_pw (s : State) (k n : Nat) : (s.bumpN k n).pw = s.pw := rfl

/-! Counting one event changes regs only. -/
@[simp] theorem State.bump_pending (s : State) (k : Nat) : (s.bump k).pending = s.pending := rfl
@[simp] theorem State.bump_now (s : State) (k : Nat) : (s.bump k).now = s.now := rfl
@[simp] theorem State.bump_free (s : State) (k : Nat) : (s.bump k).free = s.free := rfl
@[simp] theorem State.bump_nextH (s : State) (k : Nat) : (s.bump k).nextH = s.nextH := rfl
@[simp] theorem State.bump_out (s : State) (k : Nat) : (s.bump k).out = s.out := rfl
@[simp] theorem State.bump_latch (s : State) (k : Nat) : (s.bump k).latch = s.latch := rfl
@[simp] theorem State.bump_mem (s : State) (k : Nat) : (s.bump k).mem = s.mem := rfl
@[simp] theorem State.bump_keep (s : State) (k : Nat) : (s.bump k).keep = s.keep := rfl
@[simp] theorem State.bump_hp (s : State) (k : Nat) : (s.bump k).hp = s.hp := rfl
@[simp] theorem State.bump_rg (s : State) (k : Nat) : (s.bump k).rg = s.rg := rfl
@[simp] theorem State.bump_cmds (s : State) (k : Nat) : (s.bump k).cmds = s.cmds := rfl
@[simp] theorem State.bump_kp (s : State) (k : Nat) : (s.bump k).kp = s.kp := rfl
@[simp] theorem State.bump_al (s : State) (k : Nat) : (s.bump k).al = s.al := rfl
@[simp] theorem State.bump_st (s : State) (k : Nat) : (s.bump k).st = s.st := rfl
@[simp] theorem State.bump_mp (s : State) (k : Nat) : (s.bump k).mp = s.mp := rfl
@[simp] theorem State.bump_lm (s : State) (k : Nat) : (s.bump k).lm = s.lm := rfl
@[simp] theorem State.bump_lg (s : State) (k : Nat) : (s.bump k).lg = s.lg := rfl
@[simp] theorem State.bump_ld (s : State) (k : Nat) : (s.bump k).ld = s.ld := rfl
@[simp] theorem State.bump_sc (s : State) (k : Nat) : (s.bump k).sc = s.sc := rfl
@[simp] theorem State.bump_md (s : State) (k : Nat) : (s.bump k).md = s.md := rfl
@[simp] theorem State.bump_tl (s : State) (k : Nat) : (s.bump k).tl = s.tl := rfl
@[simp] theorem State.bump_sv (s : State) (k : Nat) : (s.bump k).sv = s.sv := rfl
@[simp] theorem State.bump_hm (s : State) (k : Nat) : (s.bump k).hm = s.hm := rfl
@[simp] theorem State.bump_mw (s : State) (k : Nat) : (s.bump k).mw = s.mw := rfl
@[simp] theorem State.bump_ga (s : State) (k : Nat) : (s.bump k).ga = s.ga := rfl
@[simp] theorem State.bump_pw (s : State) (k : Nat) : (s.bump k).pw = s.pw := rfl

/-! Storing a register pair changes regs only. -/
@[simp] theorem State.setReg64_pending (s : State) (lo v : Nat) : (s.setReg64 lo v).pending = s.pending := rfl
@[simp] theorem State.setReg64_now (s : State) (lo v : Nat) : (s.setReg64 lo v).now = s.now := rfl
@[simp] theorem State.setReg64_free (s : State) (lo v : Nat) : (s.setReg64 lo v).free = s.free := rfl
@[simp] theorem State.setReg64_nextH (s : State) (lo v : Nat) : (s.setReg64 lo v).nextH = s.nextH := rfl
@[simp] theorem State.setReg64_out (s : State) (lo v : Nat) : (s.setReg64 lo v).out = s.out := rfl
@[simp] theorem State.setReg64_latch (s : State) (lo v : Nat) : (s.setReg64 lo v).latch = s.latch := rfl
@[simp] theorem State.setReg64_mem (s : State) (lo v : Nat) : (s.setReg64 lo v).mem = s.mem := rfl
@[simp] theorem State.setReg64_keep (s : State) (lo v : Nat) : (s.setReg64 lo v).keep = s.keep := rfl
@[simp] theorem State.setReg64_hp (s : State) (lo v : Nat) : (s.setReg64 lo v).hp = s.hp := rfl
@[simp] theorem State.setReg64_rg (s : State) (lo v : Nat) : (s.setReg64 lo v).rg = s.rg := rfl
@[simp] theorem State.setReg64_cmds (s : State) (lo v : Nat) : (s.setReg64 lo v).cmds = s.cmds := rfl
@[simp] theorem State.setReg64_kp (s : State) (lo v : Nat) : (s.setReg64 lo v).kp = s.kp := rfl
@[simp] theorem State.setReg64_al (s : State) (lo v : Nat) : (s.setReg64 lo v).al = s.al := rfl
@[simp] theorem State.setReg64_st (s : State) (lo v : Nat) : (s.setReg64 lo v).st = s.st := rfl
@[simp] theorem State.setReg64_mp (s : State) (lo v : Nat) : (s.setReg64 lo v).mp = s.mp := rfl
@[simp] theorem State.setReg64_lm (s : State) (lo v : Nat) : (s.setReg64 lo v).lm = s.lm := rfl
@[simp] theorem State.setReg64_lg (s : State) (lo v : Nat) : (s.setReg64 lo v).lg = s.lg := rfl
@[simp] theorem State.setReg64_ld (s : State) (lo v : Nat) : (s.setReg64 lo v).ld = s.ld := rfl
@[simp] theorem State.setReg64_sc (s : State) (lo v : Nat) : (s.setReg64 lo v).sc = s.sc := rfl
@[simp] theorem State.setReg64_md (s : State) (lo v : Nat) : (s.setReg64 lo v).md = s.md := rfl
@[simp] theorem State.setReg64_tl (s : State) (lo v : Nat) : (s.setReg64 lo v).tl = s.tl := rfl
@[simp] theorem State.setReg64_sv (s : State) (lo v : Nat) : (s.setReg64 lo v).sv = s.sv := rfl
@[simp] theorem State.setReg64_hm (s : State) (lo v : Nat) : (s.setReg64 lo v).hm = s.hm := rfl
@[simp] theorem State.setReg64_mw (s : State) (lo v : Nat) : (s.setReg64 lo v).mw = s.mw := rfl
@[simp] theorem State.setReg64_ga (s : State) (lo v : Nat) : (s.setReg64 lo v).ga = s.ga := rfl
@[simp] theorem State.setReg64_pw (s : State) (lo v : Nat) : (s.setReg64 lo v).pw = s.pw := rfl

/-! An output changes out only. -/
@[simp] theorem State.put_pending (s : State) (o : List HostOut) : (s.put o).pending = s.pending := rfl
@[simp] theorem State.put_now (s : State) (o : List HostOut) : (s.put o).now = s.now := rfl
@[simp] theorem State.put_free (s : State) (o : List HostOut) : (s.put o).free = s.free := rfl
@[simp] theorem State.put_nextH (s : State) (o : List HostOut) : (s.put o).nextH = s.nextH := rfl
@[simp] theorem State.put_regs (s : State) (o : List HostOut) : (s.put o).regs = s.regs := rfl
@[simp] theorem State.put_latch (s : State) (o : List HostOut) : (s.put o).latch = s.latch := rfl
@[simp] theorem State.put_mem (s : State) (o : List HostOut) : (s.put o).mem = s.mem := rfl
@[simp] theorem State.put_keep (s : State) (o : List HostOut) : (s.put o).keep = s.keep := rfl
@[simp] theorem State.put_hp (s : State) (o : List HostOut) : (s.put o).hp = s.hp := rfl
@[simp] theorem State.put_rg (s : State) (o : List HostOut) : (s.put o).rg = s.rg := rfl
@[simp] theorem State.put_cmds (s : State) (o : List HostOut) : (s.put o).cmds = s.cmds := rfl
@[simp] theorem State.put_kp (s : State) (o : List HostOut) : (s.put o).kp = s.kp := rfl
@[simp] theorem State.put_al (s : State) (o : List HostOut) : (s.put o).al = s.al := rfl
@[simp] theorem State.put_st (s : State) (o : List HostOut) : (s.put o).st = s.st := rfl
@[simp] theorem State.put_mp (s : State) (o : List HostOut) : (s.put o).mp = s.mp := rfl
@[simp] theorem State.put_lm (s : State) (o : List HostOut) : (s.put o).lm = s.lm := rfl
@[simp] theorem State.put_lg (s : State) (o : List HostOut) : (s.put o).lg = s.lg := rfl
@[simp] theorem State.put_ld (s : State) (o : List HostOut) : (s.put o).ld = s.ld := rfl
@[simp] theorem State.put_sc (s : State) (o : List HostOut) : (s.put o).sc = s.sc := rfl
@[simp] theorem State.put_md (s : State) (o : List HostOut) : (s.put o).md = s.md := rfl
@[simp] theorem State.put_tl (s : State) (o : List HostOut) : (s.put o).tl = s.tl := rfl
@[simp] theorem State.put_sv (s : State) (o : List HostOut) : (s.put o).sv = s.sv := rfl
@[simp] theorem State.put_hm (s : State) (o : List HostOut) : (s.put o).hm = s.hm := rfl
@[simp] theorem State.put_mw (s : State) (o : List HostOut) : (s.put o).mw = s.mw := rfl
@[simp] theorem State.put_ga (s : State) (o : List HostOut) : (s.put o).ga = s.ga := rfl
@[simp] theorem State.put_pw (s : State) (o : List HostOut) : (s.put o).pw = s.pw := rfl

/-! A write of internal memory changes mem only. -/
@[simp] theorem State.memPut_pending (s : State) (a : Nat) (bs : List Byte) : (s.memPut a bs).pending = s.pending := rfl
@[simp] theorem State.memPut_now (s : State) (a : Nat) (bs : List Byte) : (s.memPut a bs).now = s.now := rfl
@[simp] theorem State.memPut_free (s : State) (a : Nat) (bs : List Byte) : (s.memPut a bs).free = s.free := rfl
@[simp] theorem State.memPut_nextH (s : State) (a : Nat) (bs : List Byte) : (s.memPut a bs).nextH = s.nextH := rfl
@[simp] theorem State.memPut_out (s : State) (a : Nat) (bs : List Byte) : (s.memPut a bs).out = s.out := rfl
@[simp] theorem State.memPut_regs (s : State) (a : Nat) (bs : List Byte) : (s.memPut a bs).regs = s.regs := rfl
@[simp] theorem State.memPut_latch (s : State) (a : Nat) (bs : List Byte) : (s.memPut a bs).latch = s.latch := rfl
@[simp] theorem State.memPut_keep (s : State) (a : Nat) (bs : List Byte) : (s.memPut a bs).keep = s.keep := rfl
@[simp] theorem State.memPut_hp (s : State) (a : Nat) (bs : List Byte) : (s.memPut a bs).hp = s.hp := rfl
@[simp] theorem State.memPut_rg (s : State) (a : Nat) (bs : List Byte) : (s.memPut a bs).rg = s.rg := rfl
@[simp] theorem State.memPut_cmds (s : State) (a : Nat) (bs : List Byte) : (s.memPut a bs).cmds = s.cmds := rfl
@[simp] theorem State.memPut_kp (s : State) (a : Nat) (bs : List Byte) : (s.memPut a bs).kp = s.kp := rfl
@[simp] theorem State.memPut_al (s : State) (a : Nat) (bs : List Byte) : (s.memPut a bs).al = s.al := rfl
@[simp] theorem State.memPut_st (s : State) (a : Nat) (bs : List Byte) : (s.memPut a bs).st = s.st := rfl
@[simp] theorem State.memPut_mp (s : State) (a : Nat) (bs : List Byte) : (s.memPut a bs).mp = s.mp := rfl
@[simp] theorem State.memPut_lm (s : State) (a : Nat) (bs : List Byte) : (s.memPut a bs).lm = s.lm := rfl
@[simp] theorem State.memPut_lg (s : State) (a : Nat) (bs : List Byte) : (s.memPut a bs).lg = s.lg := rfl
@[simp] theorem State.memPut_ld (s : State) (a : Nat) (bs : List Byte) : (s.memPut a bs).ld = s.ld := rfl
@[simp] theorem State.memPut_sc (s : State) (a : Nat) (bs : List Byte) : (s.memPut a bs).sc = s.sc := rfl
@[simp] theorem State.memPut_md (s : State) (a : Nat) (bs : List Byte) : (s.memPut a bs).md = s.md := rfl
@[simp] theorem State.memPut_tl (s : State) (a : Nat) (bs : List Byte) : (s.memPut a bs).tl = s.tl := rfl
@[simp] theorem State.memPut_sv (s : State) (a : Nat) (bs : List Byte) : (s.memPut a bs).sv = s.sv := rfl
@[simp] theorem State.memPut_hm (s : State) (a : Nat) (bs : List Byte) : (s.memPut a bs).hm = s.hm := rfl
@[simp] theorem State.memPut_mw (s : State) (a : Nat) (bs : List Byte) : (s.memPut a bs).mw = s.mw := rfl
@[simp] theorem State.memPut_ga (s : State) (a : Nat) (bs : List Byte) : (s.memPut a bs).ga = s.ga := rfl
@[simp] theorem State.memPut_pw (s : State) (a : Nat) (bs : List Byte) : (s.memPut a bs).pw = s.pw := rfl

/-! Replacing a taken command changes cmds only. -/
@[simp] theorem State.setCmd_pending (s : State) (c : Cmd) : (s.setCmd c).pending = s.pending := rfl
@[simp] theorem State.setCmd_now (s : State) (c : Cmd) : (s.setCmd c).now = s.now := rfl
@[simp] theorem State.setCmd_free (s : State) (c : Cmd) : (s.setCmd c).free = s.free := rfl
@[simp] theorem State.setCmd_nextH (s : State) (c : Cmd) : (s.setCmd c).nextH = s.nextH := rfl
@[simp] theorem State.setCmd_out (s : State) (c : Cmd) : (s.setCmd c).out = s.out := rfl
@[simp] theorem State.setCmd_regs (s : State) (c : Cmd) : (s.setCmd c).regs = s.regs := rfl
@[simp] theorem State.setCmd_latch (s : State) (c : Cmd) : (s.setCmd c).latch = s.latch := rfl
@[simp] theorem State.setCmd_mem (s : State) (c : Cmd) : (s.setCmd c).mem = s.mem := rfl
@[simp] theorem State.setCmd_keep (s : State) (c : Cmd) : (s.setCmd c).keep = s.keep := rfl
@[simp] theorem State.setCmd_hp (s : State) (c : Cmd) : (s.setCmd c).hp = s.hp := rfl
@[simp] theorem State.setCmd_rg (s : State) (c : Cmd) : (s.setCmd c).rg = s.rg := rfl
@[simp] theorem State.setCmd_kp (s : State) (c : Cmd) : (s.setCmd c).kp = s.kp := rfl
@[simp] theorem State.setCmd_al (s : State) (c : Cmd) : (s.setCmd c).al = s.al := rfl
@[simp] theorem State.setCmd_st (s : State) (c : Cmd) : (s.setCmd c).st = s.st := rfl
@[simp] theorem State.setCmd_mp (s : State) (c : Cmd) : (s.setCmd c).mp = s.mp := rfl
@[simp] theorem State.setCmd_lm (s : State) (c : Cmd) : (s.setCmd c).lm = s.lm := rfl
@[simp] theorem State.setCmd_lg (s : State) (c : Cmd) : (s.setCmd c).lg = s.lg := rfl
@[simp] theorem State.setCmd_ld (s : State) (c : Cmd) : (s.setCmd c).ld = s.ld := rfl
@[simp] theorem State.setCmd_sc (s : State) (c : Cmd) : (s.setCmd c).sc = s.sc := rfl
@[simp] theorem State.setCmd_md (s : State) (c : Cmd) : (s.setCmd c).md = s.md := rfl
@[simp] theorem State.setCmd_tl (s : State) (c : Cmd) : (s.setCmd c).tl = s.tl := rfl
@[simp] theorem State.setCmd_sv (s : State) (c : Cmd) : (s.setCmd c).sv = s.sv := rfl
@[simp] theorem State.setCmd_hm (s : State) (c : Cmd) : (s.setCmd c).hm = s.hm := rfl
@[simp] theorem State.setCmd_mw (s : State) (c : Cmd) : (s.setCmd c).mw = s.mw := rfl
@[simp] theorem State.setCmd_ga (s : State) (c : Cmd) : (s.setCmd c).ga = s.ga := rfl
@[simp] theorem State.setCmd_pw (s : State) (c : Cmd) : (s.setCmd c).pw = s.pw := rfl

/-! A deposit changes rg only. -/
@[simp] theorem State.deposit_pending (s : State) (rank : Nat) (d : Deposit) : (s.deposit rank d).pending = s.pending := rfl
@[simp] theorem State.deposit_now (s : State) (rank : Nat) (d : Deposit) : (s.deposit rank d).now = s.now := rfl
@[simp] theorem State.deposit_free (s : State) (rank : Nat) (d : Deposit) : (s.deposit rank d).free = s.free := rfl
@[simp] theorem State.deposit_nextH (s : State) (rank : Nat) (d : Deposit) : (s.deposit rank d).nextH = s.nextH := rfl
@[simp] theorem State.deposit_out (s : State) (rank : Nat) (d : Deposit) : (s.deposit rank d).out = s.out := rfl
@[simp] theorem State.deposit_regs (s : State) (rank : Nat) (d : Deposit) : (s.deposit rank d).regs = s.regs := rfl
@[simp] theorem State.deposit_latch (s : State) (rank : Nat) (d : Deposit) : (s.deposit rank d).latch = s.latch := rfl
@[simp] theorem State.deposit_mem (s : State) (rank : Nat) (d : Deposit) : (s.deposit rank d).mem = s.mem := rfl
@[simp] theorem State.deposit_keep (s : State) (rank : Nat) (d : Deposit) : (s.deposit rank d).keep = s.keep := rfl
@[simp] theorem State.deposit_hp (s : State) (rank : Nat) (d : Deposit) : (s.deposit rank d).hp = s.hp := rfl
@[simp] theorem State.deposit_cmds (s : State) (rank : Nat) (d : Deposit) : (s.deposit rank d).cmds = s.cmds := rfl
@[simp] theorem State.deposit_kp (s : State) (rank : Nat) (d : Deposit) : (s.deposit rank d).kp = s.kp := rfl
@[simp] theorem State.deposit_al (s : State) (rank : Nat) (d : Deposit) : (s.deposit rank d).al = s.al := rfl
@[simp] theorem State.deposit_st (s : State) (rank : Nat) (d : Deposit) : (s.deposit rank d).st = s.st := rfl
@[simp] theorem State.deposit_mp (s : State) (rank : Nat) (d : Deposit) : (s.deposit rank d).mp = s.mp := rfl
@[simp] theorem State.deposit_lm (s : State) (rank : Nat) (d : Deposit) : (s.deposit rank d).lm = s.lm := rfl
@[simp] theorem State.deposit_lg (s : State) (rank : Nat) (d : Deposit) : (s.deposit rank d).lg = s.lg := rfl
@[simp] theorem State.deposit_ld (s : State) (rank : Nat) (d : Deposit) : (s.deposit rank d).ld = s.ld := rfl
@[simp] theorem State.deposit_sc (s : State) (rank : Nat) (d : Deposit) : (s.deposit rank d).sc = s.sc := rfl
@[simp] theorem State.deposit_md (s : State) (rank : Nat) (d : Deposit) : (s.deposit rank d).md = s.md := rfl
@[simp] theorem State.deposit_tl (s : State) (rank : Nat) (d : Deposit) : (s.deposit rank d).tl = s.tl := rfl
@[simp] theorem State.deposit_sv (s : State) (rank : Nat) (d : Deposit) : (s.deposit rank d).sv = s.sv := rfl
@[simp] theorem State.deposit_hm (s : State) (rank : Nat) (d : Deposit) : (s.deposit rank d).hm = s.hm := rfl
@[simp] theorem State.deposit_mw (s : State) (rank : Nat) (d : Deposit) : (s.deposit rank d).mw = s.mw := rfl
@[simp] theorem State.deposit_ga (s : State) (rank : Nat) (d : Deposit) : (s.deposit rank d).ga = s.ga := rfl
@[simp] theorem State.deposit_pw (s : State) (rank : Nat) (d : Deposit) : (s.deposit rank d).pw = s.pw := rfl

/-! A notice with detail changes rg only. -/
@[simp] theorem State.noteD_pending (s : State) (unit value sev arg detail amount : Nat) : (s.noteD unit value sev arg detail amount).pending = s.pending := rfl
@[simp] theorem State.noteD_now (s : State) (unit value sev arg detail amount : Nat) : (s.noteD unit value sev arg detail amount).now = s.now := rfl
@[simp] theorem State.noteD_free (s : State) (unit value sev arg detail amount : Nat) : (s.noteD unit value sev arg detail amount).free = s.free := rfl
@[simp] theorem State.noteD_nextH (s : State) (unit value sev arg detail amount : Nat) : (s.noteD unit value sev arg detail amount).nextH = s.nextH := rfl
@[simp] theorem State.noteD_out (s : State) (unit value sev arg detail amount : Nat) : (s.noteD unit value sev arg detail amount).out = s.out := rfl
@[simp] theorem State.noteD_regs (s : State) (unit value sev arg detail amount : Nat) : (s.noteD unit value sev arg detail amount).regs = s.regs := rfl
@[simp] theorem State.noteD_latch (s : State) (unit value sev arg detail amount : Nat) : (s.noteD unit value sev arg detail amount).latch = s.latch := rfl
@[simp] theorem State.noteD_mem (s : State) (unit value sev arg detail amount : Nat) : (s.noteD unit value sev arg detail amount).mem = s.mem := rfl
@[simp] theorem State.noteD_keep (s : State) (unit value sev arg detail amount : Nat) : (s.noteD unit value sev arg detail amount).keep = s.keep := rfl
@[simp] theorem State.noteD_hp (s : State) (unit value sev arg detail amount : Nat) : (s.noteD unit value sev arg detail amount).hp = s.hp := rfl
@[simp] theorem State.noteD_cmds (s : State) (unit value sev arg detail amount : Nat) : (s.noteD unit value sev arg detail amount).cmds = s.cmds := rfl
@[simp] theorem State.noteD_kp (s : State) (unit value sev arg detail amount : Nat) : (s.noteD unit value sev arg detail amount).kp = s.kp := rfl
@[simp] theorem State.noteD_al (s : State) (unit value sev arg detail amount : Nat) : (s.noteD unit value sev arg detail amount).al = s.al := rfl
@[simp] theorem State.noteD_st (s : State) (unit value sev arg detail amount : Nat) : (s.noteD unit value sev arg detail amount).st = s.st := rfl
@[simp] theorem State.noteD_mp (s : State) (unit value sev arg detail amount : Nat) : (s.noteD unit value sev arg detail amount).mp = s.mp := rfl
@[simp] theorem State.noteD_lm (s : State) (unit value sev arg detail amount : Nat) : (s.noteD unit value sev arg detail amount).lm = s.lm := rfl
@[simp] theorem State.noteD_lg (s : State) (unit value sev arg detail amount : Nat) : (s.noteD unit value sev arg detail amount).lg = s.lg := rfl
@[simp] theorem State.noteD_ld (s : State) (unit value sev arg detail amount : Nat) : (s.noteD unit value sev arg detail amount).ld = s.ld := rfl
@[simp] theorem State.noteD_sc (s : State) (unit value sev arg detail amount : Nat) : (s.noteD unit value sev arg detail amount).sc = s.sc := rfl
@[simp] theorem State.noteD_md (s : State) (unit value sev arg detail amount : Nat) : (s.noteD unit value sev arg detail amount).md = s.md := rfl
@[simp] theorem State.noteD_tl (s : State) (unit value sev arg detail amount : Nat) : (s.noteD unit value sev arg detail amount).tl = s.tl := rfl
@[simp] theorem State.noteD_sv (s : State) (unit value sev arg detail amount : Nat) : (s.noteD unit value sev arg detail amount).sv = s.sv := rfl
@[simp] theorem State.noteD_hm (s : State) (unit value sev arg detail amount : Nat) : (s.noteD unit value sev arg detail amount).hm = s.hm := rfl
@[simp] theorem State.noteD_mw (s : State) (unit value sev arg detail amount : Nat) : (s.noteD unit value sev arg detail amount).mw = s.mw := rfl
@[simp] theorem State.noteD_ga (s : State) (unit value sev arg detail amount : Nat) : (s.noteD unit value sev arg detail amount).ga = s.ga := rfl
@[simp] theorem State.noteD_pw (s : State) (unit value sev arg detail amount : Nat) : (s.noteD unit value sev arg detail amount).pw = s.pw := rfl

/-! A notice changes rg only. -/
@[simp] theorem State.note_pending (s : State) (unit value sev arg : Nat) : (s.note unit value sev arg).pending = s.pending := rfl
@[simp] theorem State.note_now (s : State) (unit value sev arg : Nat) : (s.note unit value sev arg).now = s.now := rfl
@[simp] theorem State.note_free (s : State) (unit value sev arg : Nat) : (s.note unit value sev arg).free = s.free := rfl
@[simp] theorem State.note_nextH (s : State) (unit value sev arg : Nat) : (s.note unit value sev arg).nextH = s.nextH := rfl
@[simp] theorem State.note_out (s : State) (unit value sev arg : Nat) : (s.note unit value sev arg).out = s.out := rfl
@[simp] theorem State.note_regs (s : State) (unit value sev arg : Nat) : (s.note unit value sev arg).regs = s.regs := rfl
@[simp] theorem State.note_latch (s : State) (unit value sev arg : Nat) : (s.note unit value sev arg).latch = s.latch := rfl
@[simp] theorem State.note_mem (s : State) (unit value sev arg : Nat) : (s.note unit value sev arg).mem = s.mem := rfl
@[simp] theorem State.note_keep (s : State) (unit value sev arg : Nat) : (s.note unit value sev arg).keep = s.keep := rfl
@[simp] theorem State.note_hp (s : State) (unit value sev arg : Nat) : (s.note unit value sev arg).hp = s.hp := rfl
@[simp] theorem State.note_cmds (s : State) (unit value sev arg : Nat) : (s.note unit value sev arg).cmds = s.cmds := rfl
@[simp] theorem State.note_kp (s : State) (unit value sev arg : Nat) : (s.note unit value sev arg).kp = s.kp := rfl
@[simp] theorem State.note_al (s : State) (unit value sev arg : Nat) : (s.note unit value sev arg).al = s.al := rfl
@[simp] theorem State.note_st (s : State) (unit value sev arg : Nat) : (s.note unit value sev arg).st = s.st := rfl
@[simp] theorem State.note_mp (s : State) (unit value sev arg : Nat) : (s.note unit value sev arg).mp = s.mp := rfl
@[simp] theorem State.note_lm (s : State) (unit value sev arg : Nat) : (s.note unit value sev arg).lm = s.lm := rfl
@[simp] theorem State.note_lg (s : State) (unit value sev arg : Nat) : (s.note unit value sev arg).lg = s.lg := rfl
@[simp] theorem State.note_ld (s : State) (unit value sev arg : Nat) : (s.note unit value sev arg).ld = s.ld := rfl
@[simp] theorem State.note_sc (s : State) (unit value sev arg : Nat) : (s.note unit value sev arg).sc = s.sc := rfl
@[simp] theorem State.note_md (s : State) (unit value sev arg : Nat) : (s.note unit value sev arg).md = s.md := rfl
@[simp] theorem State.note_tl (s : State) (unit value sev arg : Nat) : (s.note unit value sev arg).tl = s.tl := rfl
@[simp] theorem State.note_sv (s : State) (unit value sev arg : Nat) : (s.note unit value sev arg).sv = s.sv := rfl
@[simp] theorem State.note_hm (s : State) (unit value sev arg : Nat) : (s.note unit value sev arg).hm = s.hm := rfl
@[simp] theorem State.note_mw (s : State) (unit value sev arg : Nat) : (s.note unit value sev arg).mw = s.mw := rfl
@[simp] theorem State.note_ga (s : State) (unit value sev arg : Nat) : (s.note unit value sev arg).ga = s.ga := rfl
@[simp] theorem State.note_pw (s : State) (unit value sev arg : Nat) : (s.note unit value sev arg).pw = s.pw := rfl

/-! Returning registers to reset values changes regs and latch only. -/
@[simp] theorem State.clearRegs_pending (s : State) (por chip host f0 f1 : Bool) : (s.clearRegs por chip host f0 f1).pending = s.pending := rfl
@[simp] theorem State.clearRegs_now (s : State) (por chip host f0 f1 : Bool) : (s.clearRegs por chip host f0 f1).now = s.now := rfl
@[simp] theorem State.clearRegs_free (s : State) (por chip host f0 f1 : Bool) : (s.clearRegs por chip host f0 f1).free = s.free := rfl
@[simp] theorem State.clearRegs_nextH (s : State) (por chip host f0 f1 : Bool) : (s.clearRegs por chip host f0 f1).nextH = s.nextH := rfl
@[simp] theorem State.clearRegs_out (s : State) (por chip host f0 f1 : Bool) : (s.clearRegs por chip host f0 f1).out = s.out := rfl
@[simp] theorem State.clearRegs_mem (s : State) (por chip host f0 f1 : Bool) : (s.clearRegs por chip host f0 f1).mem = s.mem := rfl
@[simp] theorem State.clearRegs_keep (s : State) (por chip host f0 f1 : Bool) : (s.clearRegs por chip host f0 f1).keep = s.keep := rfl
@[simp] theorem State.clearRegs_hp (s : State) (por chip host f0 f1 : Bool) : (s.clearRegs por chip host f0 f1).hp = s.hp := rfl
@[simp] theorem State.clearRegs_rg (s : State) (por chip host f0 f1 : Bool) : (s.clearRegs por chip host f0 f1).rg = s.rg := rfl
@[simp] theorem State.clearRegs_cmds (s : State) (por chip host f0 f1 : Bool) : (s.clearRegs por chip host f0 f1).cmds = s.cmds := rfl
@[simp] theorem State.clearRegs_kp (s : State) (por chip host f0 f1 : Bool) : (s.clearRegs por chip host f0 f1).kp = s.kp := rfl
@[simp] theorem State.clearRegs_al (s : State) (por chip host f0 f1 : Bool) : (s.clearRegs por chip host f0 f1).al = s.al := rfl
@[simp] theorem State.clearRegs_st (s : State) (por chip host f0 f1 : Bool) : (s.clearRegs por chip host f0 f1).st = s.st := rfl
@[simp] theorem State.clearRegs_mp (s : State) (por chip host f0 f1 : Bool) : (s.clearRegs por chip host f0 f1).mp = s.mp := rfl
@[simp] theorem State.clearRegs_lm (s : State) (por chip host f0 f1 : Bool) : (s.clearRegs por chip host f0 f1).lm = s.lm := rfl
@[simp] theorem State.clearRegs_lg (s : State) (por chip host f0 f1 : Bool) : (s.clearRegs por chip host f0 f1).lg = s.lg := rfl
@[simp] theorem State.clearRegs_ld (s : State) (por chip host f0 f1 : Bool) : (s.clearRegs por chip host f0 f1).ld = s.ld := rfl
@[simp] theorem State.clearRegs_sc (s : State) (por chip host f0 f1 : Bool) : (s.clearRegs por chip host f0 f1).sc = s.sc := rfl
@[simp] theorem State.clearRegs_md (s : State) (por chip host f0 f1 : Bool) : (s.clearRegs por chip host f0 f1).md = s.md := rfl
@[simp] theorem State.clearRegs_tl (s : State) (por chip host f0 f1 : Bool) : (s.clearRegs por chip host f0 f1).tl = s.tl := rfl
@[simp] theorem State.clearRegs_sv (s : State) (por chip host f0 f1 : Bool) : (s.clearRegs por chip host f0 f1).sv = s.sv := rfl
@[simp] theorem State.clearRegs_hm (s : State) (por chip host f0 f1 : Bool) : (s.clearRegs por chip host f0 f1).hm = s.hm := rfl
@[simp] theorem State.clearRegs_mw (s : State) (por chip host f0 f1 : Bool) : (s.clearRegs por chip host f0 f1).mw = s.mw := rfl
@[simp] theorem State.clearRegs_ga (s : State) (por chip host f0 f1 : Bool) : (s.clearRegs por chip host f0 f1).ga = s.ga := rfl
@[simp] theorem State.clearRegs_pw (s : State) (por chip host f0 f1 : Bool) : (s.clearRegs por chip host f0 f1).pw = s.pw := rfl

/-! ### What a fold of operations leaves alone -/

theorem foldl_same {α β : Type} {P : State → β} {g : State → α → State} {l : List α} {s : State} {z : β} (w : P s = z)
    (k : ∀ t a, P t = z → P (g t a) = z) : P (l.foldl g s) = z := by
  induction l generalizing s with
  | nil => exact w
  | cons x t ih => exact ih (k s x w)

theorem foldl_sameSnd {α β γ : Type} {P : State → β} {g : γ × State → α → γ × State} {l : List α} {p : γ × State} {z : β}
    (w : P p.2 = z) (k : ∀ q a, P q.2 = z → P (g q a).2 = z) : P (l.foldl g p).2 = z := by
  induction l generalizing p with
  | nil => exact w
  | cons x t ih => exact ih (k p x w)

theorem foldl_sameFst {α β γ : Type} {P : State → β} {g : State × γ → α → State × γ} {l : List α} {p : State × γ} {z : β}
    (w : P p.1 = z) (k : ∀ q a, P q.1 = z → P (g q a).1 = z) : P (l.foldl g p).1 = z := by
  induction l generalizing p with
  | nil => exact w
  | cons x t ih => exact ih (k p x w)

theorem ofSnd_same {α β : Type} {P : State → β} {p : α × State} {a : α} {s : State} {z : β} (e : p = (a, s)) (w : P p.2 = z) :
    P s = z := by rw [e] at w; exact w

theorem ofFst_same {α β : Type} {P : State → β} {p : State × α} {a : α} {s : State} {z : β} (e : p = (s, a)) (w : P p.1 = z) :
    P s = z := by rw [e] at w; exact w

/-! ### Registers -/

@[simp] theorem State.reg_setReg_same (s : State) (k v : Nat) : (s.setReg k v).reg k = v % 2 ^ 32 := by
  simp [State.reg, State.setReg, BitVec.toNat_ofNat]

theorem State.reg_setReg_ne (s : State) (k q v : Nat) (h : q ≠ k) : (s.setReg k v).reg q = s.reg q := by
  simp [State.reg, State.setReg, mapGet_mapSet_ne _ _ _ _ h]

theorem State.reg_setFld_ne (s : State) (k q hi lo v : Nat) (h : q ≠ k) : (s.setFld k hi lo v).reg q = s.reg q :=
  s.reg_setReg_ne k q _ h

theorem State.reg_setFlag_ne (s : State) (k q i : Nat) (b : Bool) (h : q ≠ k) : (s.setFlag k i b).reg q = s.reg q :=
  s.reg_setFld_ne k q i i _ h

theorem State.reg_bump_ne (s : State) (k q : Nat) (h : q ≠ k) : (s.bump k).reg q = s.reg q := s.reg_setReg_ne k q _ h

/-- A counter that saturates holds its value and one, at most 0xFFFF_FFFF. -/
@[simp] theorem State.reg_bump_same (s : State) (k : Nat) : (s.bump k).reg k = sat32 (s.reg k + 1) := by
  rw [State.bump, State.bumpN, State.reg_setReg_same, Nat.mod_eq_of_lt]
  unfold sat32
  omega

/-- A register depends on the register file alone. -/
theorem State.reg_congr {s t : State} (h : t.regs = s.regs) (k : Nat) : t.reg k = s.reg k := by simp [State.reg, h]

/-- A field stored is the field read. -/
theorem State.fld_setFld_same (s : State) (k hi lo v : Nat) (h : lo ≤ hi) (w : hi < 32) :
    (s.setFld k hi lo v).fld k hi lo = v % 2 ^ (hi + 1 - lo) := by
  rw [State.fld, State.setFld, State.reg_setReg_same, bits_mod _ _ _ w, bits_setBits_same _ _ _ _ h]

/-- Storing a field leaves a field that shares no bit with it alone. -/
theorem State.fld_setFld_disj (s : State) (k hi lo v hi' lo' : Nat) (h : lo ≤ hi) (w : hi' < 32) (d : hi' < lo ∨ hi < lo') :
    (s.setFld k hi lo v).fld k hi' lo' = s.fld k hi' lo' := by
  rw [State.fld, State.setFld, State.reg_setReg_same, bits_mod _ _ _ w, bits_setBits_ne _ _ _ _ _ _ h d, State.fld]

theorem State.fld_setFld_ne (s : State) (k q hi lo v hi' lo' : Nat) (h : q ≠ k) :
    (s.setFld k hi lo v).fld q hi' lo' = s.fld q hi' lo' := by
  rw [State.fld, State.reg_setFld_ne _ _ _ _ _ _ h, State.fld]

theorem State.flag_eq_fld (s : State) (k i : Nat) : s.flag k i = decide (s.fld k i i = 1) := bit_eq_bits _ _

/-- A bit stored is the bit read. -/
theorem State.flag_setFlag_same (s : State) (k i : Nat) (b : Bool) (w : i < 32) : (s.setFlag k i b).flag k i = b := by
  rw [State.flag_eq_fld, State.setFlag, State.fld_setFld_same _ _ _ _ _ (Nat.le_refl i) w, show i + 1 - i = 1 by omega]
  simp

theorem State.flag_setFlag_ne (s : State) (k q i j : Nat) (b : Bool) (h : q ≠ k) : (s.setFlag k i b).flag q j = s.flag q j := by
  rw [State.flag, State.reg_setFlag_ne _ _ _ _ _ h, State.flag]

theorem State.flag_setFlag_bit (s : State) (k i j : Nat) (b : Bool) (h : j ≠ i) (w : j < 32) :
    (s.setFlag k i b).flag k j = s.flag k j := by
  rw [State.flag_eq_fld, State.flag_eq_fld, State.setFlag,
    State.fld_setFld_disj _ _ _ _ _ _ _ (Nat.le_refl i) w (by omega)]

theorem State.fld_setFlag_ne (s : State) (k q i hi lo : Nat) (b : Bool) (h : q ≠ k) :
    (s.setFlag k i b).fld q hi lo = s.fld q hi lo := State.fld_setFld_ne _ _ _ _ _ _ _ _ h

theorem State.fld_setFlag_disj (s : State) (k i hi lo : Nat) (b : Bool) (w : hi < 32) (d : hi < i ∨ i < lo) :
    (s.setFlag k i b).fld k hi lo = s.fld k hi lo := State.fld_setFld_disj _ _ _ _ _ _ _ (Nat.le_refl i) w d

theorem State.flag_setFld_ne (s : State) (k q hi lo v j : Nat) (h : q ≠ k) : (s.setFld k hi lo v).flag q j = s.flag q j := by
  rw [State.flag, State.reg_setFld_ne _ _ _ _ _ _ h, State.flag]

theorem State.flag_setFld_disj (s : State) (k hi lo v j : Nat) (h : lo ≤ hi) (w : j < 32) (d : j < lo ∨ hi < j) :
    (s.setFld k hi lo v).flag k j = s.flag k j := by
  rw [State.flag_eq_fld, State.flag_eq_fld, State.fld_setFld_disj _ _ _ _ _ _ _ h w d]

theorem State.fld_setReg_same (s : State) (k v hi lo : Nat) (w : hi < 32) : (s.setReg k v).fld k hi lo = bits v hi lo := by
  rw [State.fld, State.reg_setReg_same, bits_mod _ _ _ w]

theorem State.fld_setReg_ne (s : State) (k q v hi lo : Nat) (h : q ≠ k) : (s.setReg k v).fld q hi lo = s.fld q hi lo := by
  rw [State.fld, State.reg_setReg_ne _ _ _ _ h, State.fld]

theorem State.flag_setReg_ne (s : State) (k q v i : Nat) (h : q ≠ k) : (s.setReg k v).flag q i = s.flag q i := by
  rw [State.flag, State.reg_setReg_ne _ _ _ _ h, State.flag]

theorem State.fld_bump_ne (s : State) (k q hi lo : Nat) (h : q ≠ k) : (s.bump k).fld q hi lo = s.fld q hi lo :=
  s.fld_setReg_ne k q _ hi lo h

theorem State.flag_bump_ne (s : State) (k q i : Nat) (h : q ≠ k) : (s.bump k).flag q i = s.flag q i :=
  s.flag_setReg_ne k q _ i h

@[simp] theorem State.reg_noteD (s : State) (a b c d e f k : Nat) : (s.noteD a b c d e f).reg k = s.reg k := rfl
@[simp] theorem State.fld_noteD (s : State) (a b c d e f k hi lo : Nat) : (s.noteD a b c d e f).fld k hi lo = s.fld k hi lo := rfl
@[simp] theorem State.flag_noteD (s : State) (a b c d e f k i : Nat) : (s.noteD a b c d e f).flag k i = s.flag k i := rfl
@[simp] theorem State.reg_note (s : State) (a b c d k : Nat) : (s.note a b c d).reg k = s.reg k := rfl
@[simp] theorem State.fld_note (s : State) (a b c d k hi lo : Nat) : (s.note a b c d).fld k hi lo = s.fld k hi lo := rfl
@[simp] theorem State.flag_note (s : State) (a b c d k i : Nat) : (s.note a b c d).flag k i = s.flag k i := rfl
@[simp] theorem State.reg_put (s : State) (o : List HostOut) (k : Nat) : (s.put o).reg k = s.reg k := rfl
@[simp] theorem State.reg_memPut (s : State) (a : Nat) (b : List Byte) (k : Nat) : (s.memPut a b).reg k = s.reg k := rfl

/-- A register value fits 32 bits, if its reset value does. -/
theorem State.reg_mod (s : State) (k : Nat) (h : regReset k < 2 ^ 32) : s.reg k % 2 ^ 32 = s.reg k := by
  apply Nat.mod_eq_of_lt
  unfold State.reg
  split
  · exact BitVec.isLt _
  · exact h

/-- A field of n bits lies below 2^n. -/
theorem State.fld_lt (s : State) (k hi lo : Nat) : s.fld k hi lo < 2 ^ (hi + 1 - lo) := Nat.mod_lt _ (Nat.two_pow_pos _)

/-- After a reset of domains a register of a cleared one holds its reset value, every other its value. -/
theorem State.reg_clearRegs (s : State) (a b c d e : Bool) (k : Nat) :
    (s.clearRegs a b c d e).reg k = if domCleared a b c d e k then regReset k else s.reg k := by
  unfold State.reg State.clearRegs
  simp only
  rw [mapGet_filter (fun k => !domCleared a b c d e k)]
  by_cases h : domCleared a b c d e k <;> simp [h]

theorem State.fld_congr {s t : State} (h : t.regs = s.regs) (k hi lo : Nat) : t.fld k hi lo = s.fld k hi lo := by
  simp [State.fld, State.reg_congr h]

theorem State.flag_congr {s t : State} (h : t.regs = s.regs) (k i : Nat) : t.flag k i = s.flag k i := by
  simp [State.flag, State.reg_congr h]

end Sys2Proof.Machine
end

