-- ==== Sys2Proof/Laws/Frames.lean ====
section
/-! SUPPORT. Frames: operations that leave the Hamper, the power state, the Keep or its counters alone. -/

namespace Sys2Proof.Machine

set_option linter.all false
set_option Elab.async false

/-- A part of the state is z in the state t: the walk below carries it through the operations that leave the part alone. -/
def Same {α : Type} (φ : State → α) (z : α) (t : State) : Prop := φ t = z
theorem Same.ite {α : Type} {φ : State → α} {z : α} {a b : State} {c : Prop} [Decidable c] (h : c → Same φ z a) (k : ¬c → Same φ z b) :
    Same φ z (if c then a else b) := by
  split
  · exact h ‹_›
  · exact k ‹_›
theorem Same.ofSnd {α β : Type} {φ : State → β} {z : β} {s : State} {p : α × State} {a : α} (e : p = (a, s)) (h : Same φ z p.2) : Same φ z s := by
  rw [e] at h; exact h
theorem Same.ofFst {α β : Type} {φ : State → β} {z : β} {s : State} {p : State × α} {a : α} (e : p = (s, a)) (h : Same φ z p.1) : Same φ z s := by
  rw [e] at h; exact h
theorem Same.foldl {α β : Type} {φ : State → β} {z : β} {s : State} {g : State → α → State} {l : List α} (h : Same φ z s)
    (k : ∀ t x, Same φ z t → Same φ z (g t x)) : Same φ z (l.foldl g s) := by
  induction l generalizing s with
  | nil => exact h
  | cons x t ih => exact ih (k s x h)
theorem Same.foldlSnd {α β γ : Type} {φ : State → γ} {z : γ} {p : β × State} {g : β × State → α → β × State} {l : List α} (h : Same φ z p.2)
    (k : ∀ p x, Same φ z p.2 → Same φ z (g p x).2) : Same φ z (l.foldl g p).2 := by
  induction l generalizing p with
  | nil => exact h
  | cons x t ih => exact ih (k p x h)
theorem Same.foldlFst {α β γ : Type} {φ : State → γ} {z : γ} {p : State × β} {g : State × β → α → State × β} {l : List α} (h : Same φ z p.1)
    (k : ∀ p x, Same φ z p.1 → Same φ z (g p x).1) : Same φ z (l.foldl g p).1 := by
  induction l generalizing p with
  | nil => exact h
  | cons x t ih => exact ih (k p x h)
theorem Same.upd_hm {σ : Hamper} {s : State} {x_pending : List Instr} {x_now : Nat} {x_free : Nat} {x_nextH : Nat} {x_out : List HostOut} {x_regs : NMap W32} {x_latch : NMap W32} {x_mem : List Host.Cell} {x_keep : List Host.Cell} {x_hp : HostPort} {x_rg : Rings} {x_cmds : List Cmd} {x_kp : KeepSt} {x_al : Almanac} {x_st : Arrays} {x_mp : Members} {x_lm : Loom} {x_lg : Ledger} {x_ld : Larder} {x_sc : StateCache} {x_md : Mender} {x_tl : Tally} {x_sv : Services} {x_mw : Mw} {x_ga : Ga} {x_pw : Power} (h : Same State.hm σ s) :
    Same State.hm σ (State.mk x_pending x_now x_free x_nextH x_out x_regs x_latch x_mem x_keep x_hp x_rg x_cmds x_kp x_al x_st x_mp x_lm x_lg x_ld x_sc x_md x_tl x_sv s.hm x_mw x_ga x_pw) := h
theorem Same.upd_keep {σ : List Host.Cell} {s : State} {x_pending : List Instr} {x_now : Nat} {x_free : Nat} {x_nextH : Nat} {x_out : List HostOut} {x_regs : NMap W32} {x_latch : NMap W32} {x_mem : List Host.Cell} {x_hp : HostPort} {x_rg : Rings} {x_cmds : List Cmd} {x_kp : KeepSt} {x_al : Almanac} {x_st : Arrays} {x_mp : Members} {x_lm : Loom} {x_lg : Ledger} {x_ld : Larder} {x_sc : StateCache} {x_md : Mender} {x_tl : Tally} {x_sv : Services} {x_hm : Hamper} {x_mw : Mw} {x_ga : Ga} {x_pw : Power} (h : Same State.keep σ s) :
    Same State.keep σ (State.mk x_pending x_now x_free x_nextH x_out x_regs x_latch x_mem s.keep x_hp x_rg x_cmds x_kp x_al x_st x_mp x_lm x_lg x_ld x_sc x_md x_tl x_sv x_hm x_mw x_ga x_pw) := h
theorem Same.upd_kp {σ : KeepSt} {s : State} {x_pending : List Instr} {x_now : Nat} {x_free : Nat} {x_nextH : Nat} {x_out : List HostOut} {x_regs : NMap W32} {x_latch : NMap W32} {x_mem : List Host.Cell} {x_keep : List Host.Cell} {x_hp : HostPort} {x_rg : Rings} {x_cmds : List Cmd} {x_al : Almanac} {x_st : Arrays} {x_mp : Members} {x_lm : Loom} {x_lg : Ledger} {x_ld : Larder} {x_sc : StateCache} {x_md : Mender} {x_tl : Tally} {x_sv : Services} {x_hm : Hamper} {x_mw : Mw} {x_ga : Ga} {x_pw : Power} (h : Same State.kp σ s) :
    Same State.kp σ (State.mk x_pending x_now x_free x_nextH x_out x_regs x_latch x_mem x_keep x_hp x_rg x_cmds s.kp x_al x_st x_mp x_lm x_lg x_ld x_sc x_md x_tl x_sv x_hm x_mw x_ga x_pw) := h
theorem Same.upd_pw {σ : Power} {s : State} {x_pending : List Instr} {x_now : Nat} {x_free : Nat} {x_nextH : Nat} {x_out : List HostOut} {x_regs : NMap W32} {x_latch : NMap W32} {x_mem : List Host.Cell} {x_keep : List Host.Cell} {x_hp : HostPort} {x_rg : Rings} {x_cmds : List Cmd} {x_kp : KeepSt} {x_al : Almanac} {x_st : Arrays} {x_mp : Members} {x_lm : Loom} {x_lg : Ledger} {x_ld : Larder} {x_sc : StateCache} {x_md : Mender} {x_tl : Tally} {x_sv : Services} {x_hm : Hamper} {x_mw : Mw} {x_ga : Ga} (h : Same State.pw σ s) :
    Same State.pw σ (State.mk x_pending x_now x_free x_nextH x_out x_regs x_latch x_mem x_keep x_hp x_rg x_cmds x_kp x_al x_st x_mp x_lm x_lg x_ld x_sc x_md x_tl x_sv x_hm x_mw x_ga s.pw) := h

theorem State.setReg_same_hm {σ : Hamper} {s : State} (h : Same State.hm σ s) (k v : Nat) : Same State.hm σ (s.setReg k v) := h

theorem State.setFld_same_hm {σ : Hamper} {s : State} (h : Same State.hm σ s) (k hi lo v : Nat) :
    Same State.hm σ (State.setFld s k hi lo v) := by
  unfold State.setFld
  iterate 40 (try any_goals first
    | with_reducible (first | exact h | assumption | apply State.setReg_same_hm | refine Same.ite (fun _ => ?_) (fun _ => ?_)
                            | refine Same.ofSnd (by assumption) ?_ | refine Same.ofFst (by assumption) ?_)
    | split | dsimp only | with_reducible refine Same.upd_hm ?_)

theorem State.setFlag_same_hm {σ : Hamper} {s : State} (h : Same State.hm σ s) (k i : Nat) (b : Bool) :
    Same State.hm σ (State.setFlag s k i b) := by
  unfold State.setFlag
  iterate 40 (try any_goals first
    | with_reducible (first | exact h | assumption | apply State.setFld_same_hm | refine Same.ite (fun _ => ?_) (fun _ => ?_)
                            | refine Same.ofSnd (by assumption) ?_ | refine Same.ofFst (by assumption) ?_)
    | split | dsimp only | with_reducible refine Same.upd_hm ?_)

theorem State.bumpN_same_hm {σ : Hamper} {s : State} (h : Same State.hm σ s) (k n : Nat) :
    Same State.hm σ (State.bumpN s k n) := by
  unfold State.bumpN
  iterate 40 (try any_goals first
    | with_reducible (first | exact h | assumption | apply State.setReg_same_hm | refine Same.ite (fun _ => ?_) (fun _ => ?_)
                            | refine Same.ofSnd (by assumption) ?_ | refine Same.ofFst (by assumption) ?_)
    | split | dsimp only | with_reducible refine Same.upd_hm ?_)

theorem State.bump_same_hm {σ : Hamper} {s : State} (h : Same State.hm σ s) (k : Nat) :
    Same State.hm σ (State.bump s k) := by
  unfold State.bump
  iterate 40 (try any_goals first
    | with_reducible (first | exact h | assumption | apply State.bumpN_same_hm | refine Same.ite (fun _ => ?_) (fun _ => ?_)
                            | refine Same.ofSnd (by assumption) ?_ | refine Same.ofFst (by assumption) ?_)
    | split | dsimp only | with_reducible refine Same.upd_hm ?_)

theorem State.setReg64_same_hm {σ : Hamper} {s : State} (h : Same State.hm σ s) (lo v : Nat) :
    Same State.hm σ (State.setReg64 s lo v) := by
  unfold State.setReg64
  iterate 40 (try any_goals first
    | with_reducible (first | exact h | assumption | apply State.setReg_same_hm | refine Same.ite (fun _ => ?_) (fun _ => ?_)
                            | refine Same.ofSnd (by assumption) ?_ | refine Same.ofFst (by assumption) ?_)
    | split | dsimp only | with_reducible refine Same.upd_hm ?_)

theorem State.memPut_same_hm {σ : Hamper} {s : State} (h : Same State.hm σ s) (a : Nat) (bs : List Byte) : Same State.hm σ (s.memPut a bs) := h

theorem State.freeBelow_same_hm {σ : Hamper} {s : State} (h : Same State.hm σ s) (n : Nat) :
    Same State.hm σ (State.freeBelow s n).2 := by
  unfold State.freeBelow
  iterate 40 (try any_goals first
    | with_reducible (first | exact h | assumption | refine Same.ite (fun _ => ?_) (fun _ => ?_)
                            | refine Same.ofSnd (by assumption) ?_ | refine Same.ofFst (by assumption) ?_)
    | split | dsimp only | with_reducible refine Same.upd_hm ?_)

theorem State.deposit_same_hm {σ : Hamper} {s : State} (h : Same State.hm σ s) (rank : Nat) (d : Deposit) :
    Same State.hm σ (State.deposit s rank d) := by
  unfold State.deposit
  iterate 40 (try any_goals first
    | with_reducible (first | exact h | assumption | refine Same.ite (fun _ => ?_) (fun _ => ?_)
                            | refine Same.ofSnd (by assumption) ?_ | refine Same.ofFst (by assumption) ?_)
    | split | dsimp only | with_reducible refine Same.upd_hm ?_)

theorem State.noteD_same_hm {σ : Hamper} {s : State} (h : Same State.hm σ s) (unit value sev arg detail amount : Nat) :
    Same State.hm σ (State.noteD s unit value sev arg detail amount) := by
  unfold State.noteD
  iterate 40 (try any_goals first
    | with_reducible (first | exact h | assumption | apply State.deposit_same_hm | apply State.note_same_hm
                            | refine Same.ite (fun _ => ?_) (fun _ => ?_) | refine Same.ofSnd (by assumption) ?_
                            | refine Same.ofFst (by assumption) ?_)
    | split | dsimp only | with_reducible refine Same.upd_hm ?_)

theorem State.note_same_hm {σ : Hamper} {s : State} (h : Same State.hm σ s) (unit value sev arg : Nat) :
    Same State.hm σ (State.note s unit value sev arg) := by
  unfold State.note
  iterate 40 (try any_goals first
    | with_reducible (first | exact h | assumption | apply State.noteD_same_hm | refine Same.ite (fun _ => ?_) (fun _ => ?_)
                            | refine Same.ofSnd (by assumption) ?_ | refine Same.ofFst (by assumption) ?_)
    | split | dsimp only | with_reducible refine Same.upd_hm ?_)

theorem State.addWear_same_hm {σ : Hamper} {s : State} (h : Same State.hm σ s) (page n : Nat) :
    Same State.hm σ (State.addWear s page n) := by
  unfold State.addWear
  iterate 40 (try any_goals first
    | with_reducible (first | exact h | assumption | apply State.note_same_hm | apply State.setFlag_same_hm
                            | refine Same.ite (fun _ => ?_) (fun _ => ?_) | refine Same.ofSnd (by assumption) ?_
                            | refine Same.ofFst (by assumption) ?_)
    | split | dsimp only | with_reducible refine Same.upd_hm ?_)

theorem State.keepWord_same_hm {σ : Hamper} {s : State} (h : Same State.hm σ s) (off v : Nat) :
    Same State.hm σ (s.keepWord off v) := by
  unfold State.keepWord
  split
  · exact State.bump_same_hm h _
  · have k : Same State.hm σ { s with keep := memWriteN s.keep off (toLe 8 v), kp.unc := s.kp.unc.filter (· != off / 8) } := h
    exact State.addWear_same_hm k _ _

theorem State.keepWords_same_hm {σ : Hamper} {s : State} (h : Same State.hm σ s) (off : Nat) (l : List Nat) : Same State.hm σ (s.keepWords off l) := by
  induction l generalizing s off with
  | nil => exact h
  | cons v t ih => exact ih (State.keepWord_same_hm h off v) (off + 8)

theorem State.keepPut_same_hm {σ : Hamper} {s : State} (h : Same State.hm σ s) (off : Nat) (bs : List Byte) :
    Same State.hm σ (State.keepPut s off bs) := by
  unfold State.keepPut
  iterate 40 (try any_goals first
    | with_reducible (first | exact h | assumption | apply State.keepWords_same_hm | refine Same.ite (fun _ => ?_) (fun _ => ?_)
                            | refine Same.ofSnd (by assumption) ?_ | refine Same.ofFst (by assumption) ?_)
    | split | dsimp only | with_reducible refine Same.upd_hm ?_)

theorem State.kwStore_same_hm {σ : Hamper} {s : State} (h : Same State.hm σ s) (page k v : Nat) :
    Same State.hm σ (State.kwStore s page k v) := by
  unfold State.kwStore
  iterate 40 (try any_goals first
    | with_reducible (first | exact h | assumption | apply State.addWear_same_hm | apply State.bump_same_hm | apply State.setReg_same_hm
                            | refine Same.ite (fun _ => ?_) (fun _ => ?_) | refine Same.ofSnd (by assumption) ?_
                            | refine Same.ofFst (by assumption) ?_)
    | split | dsimp only | with_reducible refine Same.upd_hm ?_)

theorem State.tryRead_same_hm {σ : Hamper} {s : State} (h : Same State.hm σ s) (q : RdReq) : Same State.hm σ (s.tryRead q) := by
  unfold State.tryRead
  split
  · exact h
  · split
    · exact Same.upd_hm h
    · exact Same.upd_hm h

theorem State.setCmd_same_hm {σ : Hamper} {s : State} (h : Same State.hm σ s) (c : Cmd) :
    Same State.hm σ (State.setCmd s c) := by
  unfold State.setCmd
  iterate 40 (try any_goals first
    | with_reducible (first | exact h | assumption | refine Same.ite (fun _ => ?_) (fun _ => ?_)
                            | refine Same.ofSnd (by assumption) ?_ | refine Same.ofFst (by assumption) ?_)
    | split | dsimp only | with_reducible refine Same.upd_hm ?_)

theorem State.updCmd_same_hm {σ : Hamper} {s : State} (h : Same State.hm σ s) (h : Nat) (f : Cmd → Cmd) :
    Same State.hm σ (State.updCmd s h f) := by
  unfold State.updCmd
  iterate 40 (try any_goals first
    | with_reducible (first | exact h | assumption | refine Same.ite (fun _ => ?_) (fun _ => ?_)
                            | refine Same.ofSnd (by assumption) ?_ | refine Same.ofFst (by assumption) ?_)
    | split | dsimp only | with_reducible refine Same.upd_hm ?_)

theorem State.arrEnded_same_hm {σ : Hamper} {s : State} (h : Same State.hm σ s) (c : Cmd) :
    Same State.hm σ (State.arrEnded s c) := by
  unfold State.arrEnded
  iterate 40 (try any_goals first
    | with_reducible (first | exact h | assumption | refine Same.ite (fun _ => ?_) (fun _ => ?_)
                            | refine Same.ofSnd (by assumption) ?_ | refine Same.ofFst (by assumption) ?_)
    | split | dsimp only | with_reducible refine Same.upd_hm ?_)

theorem State.dropCmd_same_hm {σ : Hamper} {s : State} (h : Same State.hm σ s) (c : Cmd) :
    Same State.hm σ (State.dropCmd s c) := by
  unfold State.dropCmd
  iterate 40 (try any_goals first
    | with_reducible (first | exact h | assumption | apply State.arrEnded_same_hm | refine Same.ite (fun _ => ?_) (fun _ => ?_)
                            | refine Same.ofSnd (by assumption) ?_ | refine Same.ofFst (by assumption) ?_)
    | split | dsimp only | with_reducible refine Same.upd_hm ?_)

theorem State.markIdle_same_hm {σ : Hamper} {s : State} (h : Same State.hm σ s) :
    Same State.hm σ (State.markIdle s) := by
  unfold State.markIdle
  iterate 40 (try any_goals first
    | with_reducible (first | exact h | assumption | refine Same.ite (fun _ => ?_) (fun _ => ?_)
                            | refine Same.ofSnd (by assumption) ?_ | refine Same.ofFst (by assumption) ?_)
    | split | dsimp only | with_reducible refine Same.upd_hm ?_)

theorem State.finish_same_hm {σ : Hamper} {s : State} (h : Same State.hm σ s) (rank : Nat) (c : Cmd) :
    Same State.hm σ (State.finish s rank c) := by
  unfold State.finish
  iterate 40 (try any_goals first
    | with_reducible (first | exact h | assumption | apply State.arrEnded_same_hm | apply State.deposit_same_hm
                            | apply State.dropCmd_same_hm | apply State.markIdle_same_hm | refine Same.ite (fun _ => ?_) (fun _ => ?_)
                            | refine Same.ofSnd (by assumption) ?_ | refine Same.ofFst (by assumption) ?_)
    | split | dsimp only | with_reducible refine Same.upd_hm ?_)

theorem State.finishSt_same_hm {σ : Hamper} {s : State} (h : Same State.hm σ s) (rank : Nat) (c : Cmd) (status : Nat) :
    Same State.hm σ (State.finishSt s rank c status) := by
  unfold State.finishSt
  iterate 40 (try any_goals first
    | with_reducible (first | exact h | assumption | apply State.finish_same_hm | refine Same.ite (fun _ => ?_) (fun _ => ?_)
                            | refine Same.ofSnd (by assumption) ?_ | refine Same.ofFst (by assumption) ?_)
    | split | dsimp only | with_reducible refine Same.upd_hm ?_)

theorem State.loomPark_same_hm {σ : Hamper} {s : State} (h : Same State.hm σ s) :
    Same State.hm σ (State.loomPark s) := by
  unfold State.loomPark
  iterate 40 (try any_goals first
    | with_reducible (first | exact h | assumption | refine Same.ite (fun _ => ?_) (fun _ => ?_)
                            | refine Same.ofSnd (by assumption) ?_ | refine Same.ofFst (by assumption) ?_)
    | split | dsimp only | with_reducible refine Same.upd_hm ?_)

theorem State.setFrame_same_hm {σ : Hamper} {s : State} (h : Same State.hm σ s) (n : Nat) (f : Frame) :
    Same State.hm σ (State.setFrame s n f) := by
  unfold State.setFrame
  iterate 40 (try any_goals first
    | with_reducible (first | exact h | assumption | refine Same.ite (fun _ => ?_) (fun _ => ?_)
                            | refine Same.ofSnd (by assumption) ?_ | refine Same.ofFst (by assumption) ?_)
    | split | dsimp only | with_reducible refine Same.upd_hm ?_)

theorem State.updFrame_same_hm {σ : Hamper} {s : State} (h : Same State.hm σ s) (n : Nat) (g : Frame → Frame) :
    Same State.hm σ (State.updFrame s n g) := by
  unfold State.updFrame
  iterate 40 (try any_goals first
    | with_reducible (first | exact h | assumption | apply State.setFrame_same_hm | refine Same.ite (fun _ => ?_) (fun _ => ?_)
                            | refine Same.ofSnd (by assumption) ?_ | refine Same.ofFst (by assumption) ?_)
    | split | dsimp only | with_reducible refine Same.upd_hm ?_)

theorem State.dropFrame_same_hm {σ : Hamper} {s : State} (h : Same State.hm σ s) (n : Nat) :
    Same State.hm σ (State.dropFrame s n) := by
  unfold State.dropFrame
  iterate 40 (try any_goals first
    | with_reducible (first | exact h | assumption | refine Same.ite (fun _ => ?_) (fun _ => ?_)
                            | refine Same.ofSnd (by assumption) ?_ | refine Same.ofFst (by assumption) ?_)
    | split | dsimp only | with_reducible refine Same.upd_hm ?_)

theorem State.setStream_same_hm {σ : Hamper} {s : State} (h : Same State.hm σ s) (n : Nat) (x : Stream) :
    Same State.hm σ (State.setStream s n x) := by
  unfold State.setStream
  iterate 40 (try any_goals first
    | with_reducible (first | exact h | assumption | refine Same.ite (fun _ => ?_) (fun _ => ?_)
                            | refine Same.ofSnd (by assumption) ?_ | refine Same.ofFst (by assumption) ?_)
    | split | dsimp only | with_reducible refine Same.upd_hm ?_)

theorem State.updStream_same_hm {σ : Hamper} {s : State} (h : Same State.hm σ s) (n : Nat) (f : Stream → Stream) :
    Same State.hm σ (State.updStream s n f) := by
  unfold State.updStream
  iterate 40 (try any_goals first
    | with_reducible (first | exact h | assumption | apply State.setStream_same_hm | refine Same.ite (fun _ => ?_) (fun _ => ?_)
                            | refine Same.ofSnd (by assumption) ?_ | refine Same.ofFst (by assumption) ?_)
    | split | dsimp only | with_reducible refine Same.upd_hm ?_)

theorem State.evictFrom_same_hm {σ : Hamper} {s : State} (h : Same State.hm σ s) (l : List Nat) : Same State.hm σ (s.evictFrom l).1 := by
  induction l generalizing s with
  | nil => exact h
  | cons n t ih =>
    unfold State.evictFrom
    split
    · exact ih h
    · split
      · exact Same.upd_hm (State.dropFrame_same_hm h n)
      · exact ih (Same.upd_hm (State.updFrame_same_hm h n _) )

theorem State.evict_same_hm {σ : Hamper} {s : State} (h : Same State.hm σ s) :
    Same State.hm σ (State.evict s).1 := by
  unfold State.evict
  iterate 40 (try any_goals first
    | with_reducible (first | exact h | assumption | apply State.evictFrom_same_hm | refine Same.ite (fun _ => ?_) (fun _ => ?_)
                            | refine Same.ofSnd (by assumption) ?_ | refine Same.ofFst (by assumption) ?_)
    | split | dsimp only | with_reducible refine Same.upd_hm ?_)

theorem State.allocSlot_same_hm {σ : Hamper} {s : State} (h : Same State.hm σ s) (n fuel : Nat) : Same State.hm σ (s.allocSlot n fuel).2 := by
  induction fuel generalizing s with
  | zero => exact h
  | succ k ih =>
    unfold State.allocSlot
    dsimp only
    split
    · exact h
    · split
      · exact ih (State.evict_same_hm h)
      · exact State.evict_same_hm h

theorem State.getSlot_same_hm {σ : Hamper} {s : State} (h : Same State.hm σ s) (r : ArrayRec) :
    Same State.hm σ (State.getSlot s r).2 := by
  unfold State.getSlot
  iterate 40 (try any_goals first
    | with_reducible (first | exact h | assumption | apply State.allocSlot_same_hm | refine Same.ite (fun _ => ?_) (fun _ => ?_)
                            | refine Same.ofSnd (by assumption) ?_ | refine Same.ofFst (by assumption) ?_)
    | split | dsimp only | with_reducible refine Same.upd_hm ?_)

theorem State.newFrame_same_hm {σ : Hamper} {s : State} (h : Same State.hm σ s) (a stripe vol : Nat) :
    Same State.hm σ (State.newFrame s a stripe vol).2 := by
  unfold State.newFrame
  iterate 40 (try any_goals first
    | with_reducible (first | exact h | assumption | apply State.setFrame_same_hm | apply State.evict_same_hm
                            | refine Same.ite (fun _ => ?_) (fun _ => ?_) | refine Same.ofSnd (by assumption) ?_
                            | refine Same.ofFst (by assumption) ?_)
    | split | dsimp only | with_reducible refine Same.upd_hm ?_)

theorem State.toReady_same_hm {σ : Hamper} {s : State} (h : Same State.hm σ s) (n cls : Nat) :
    Same State.hm σ (State.toReady s n cls) := by
  unfold State.toReady
  iterate 40 (try any_goals first
    | with_reducible (first | exact h | assumption | apply State.setFrame_same_hm | refine Same.ite (fun _ => ?_) (fun _ => ?_)
                            | refine Same.ofSnd (by assumption) ?_ | refine Same.ofFst (by assumption) ?_)
    | split | dsimp only | with_reducible refine Same.upd_hm ?_)

theorem State.pressTake_same_hm {σ : Hamper} {s : State} (h : Same State.hm σ s) (n : Nat) : Same State.hm σ (s.pressTake n) := by
  induction n generalizing s with
  | zero => exact h
  | succ n ih =>
    unfold State.pressTake
    refine Same.ite (fun _ => h) (fun _ => ?_)
    split
    · exact ih (State.toReady_same_hm h _ _)
    · exact h

theorem State.pressure_same_hm {σ : Hamper} {s : State} (h : Same State.hm σ s) :
    Same State.hm σ (State.pressure s) := by
  unfold State.pressure
  iterate 40 (try any_goals first
    | with_reducible (first | exact h | assumption | apply State.setFlag_same_hm | apply State.pressTake_same_hm
                            | refine Same.ite (fun _ => ?_) (fun _ => ?_) | refine Same.ofSnd (by assumption) ?_
                            | refine Same.ofFst (by assumption) ?_)
    | split | dsimp only | with_reducible refine Same.upd_hm ?_)

theorem State.slotJoin_same_hm {σ : Hamper} {s : State} (h : Same State.hm σ s) (h0 k : Nat) :
    Same State.hm σ (State.slotJoin s h0 k) := by
  unfold State.slotJoin
  iterate 40 (try any_goals first
    | with_reducible (first | exact h | assumption | apply State.bump_same_hm | refine Same.ite (fun _ => ?_) (fun _ => ?_)
                            | refine Same.ofSnd (by assumption) ?_ | refine Same.ofFst (by assumption) ?_)
    | split | dsimp only | with_reducible refine Same.upd_hm ?_)

theorem State.stopJoin_same_hm {σ : Hamper} {s : State} (h : Same State.hm σ s) (h0 k a stripe : Nat) :
    Same State.hm σ (State.stopJoin s h0 k a stripe) := by
  unfold State.stopJoin
  iterate 40 (try any_goals first
    | with_reducible (first | exact h | assumption | refine Same.ite (fun _ => ?_) (fun _ => ?_)
                            | refine Same.ofSnd (by assumption) ?_ | refine Same.ofFst (by assumption) ?_)
    | split | dsimp only | with_reducible refine Same.upd_hm ?_)

theorem State.moveWait_same_hm {σ : Hamper} {s : State} (h : Same State.hm σ s) (h0 k a stripe : Nat) :
    Same State.hm σ (State.moveWait s h0 k a stripe) := by
  unfold State.moveWait
  iterate 40 (try any_goals first
    | with_reducible (first | exact h | assumption | apply State.slotJoin_same_hm | apply State.stopJoin_same_hm
                            | refine Same.ite (fun _ => ?_) (fun _ => ?_) | refine Same.ofSnd (by assumption) ?_
                            | refine Same.ofFst (by assumption) ?_)
    | split | dsimp only | with_reducible refine Same.upd_hm ?_)

theorem State.tlMove_same_hm {σ : Hamper} {s : State} (h : Same State.hm σ s) (i : Nat) :
    Same State.hm σ (State.tlMove s i) := by
  unfold State.tlMove
  iterate 40 (try any_goals first
    | with_reducible (first | exact h | assumption | refine Same.ite (fun _ => ?_) (fun _ => ?_)
                            | refine Same.ofSnd (by assumption) ?_ | refine Same.ofFst (by assumption) ?_)
    | split | dsimp only | with_reducible refine Same.upd_hm ?_)

theorem State.tlOver_same_hm {σ : Hamper} {s : State} (h : Same State.hm σ s) :
    Same State.hm σ (State.tlOver s) := by
  unfold State.tlOver
  iterate 40 (try any_goals first
    | with_reducible (first | exact h | assumption | apply State.bump_same_hm | apply State.noteD_same_hm | apply State.setFlag_same_hm
                            | refine Same.ite (fun _ => ?_) (fun _ => ?_) | refine Same.ofSnd (by assumption) ?_
                            | refine Same.ofFst (by assumption) ?_)
    | split | dsimp only | with_reducible refine Same.upd_hm ?_)

theorem State.tlRelease_same_hm {σ : Hamper} {s : State} (h : Same State.hm σ s) (h0 : Nat) :
    Same State.hm σ (State.tlRelease s h0) := by
  unfold State.tlRelease
  iterate 40 (try any_goals first
    | with_reducible (first | exact h | assumption | apply State.tlOver_same_hm | refine Same.ite (fun _ => ?_) (fun _ => ?_)
                            | refine Same.ofSnd (by assumption) ?_ | refine Same.ofFst (by assumption) ?_)
    | split | dsimp only | with_reducible refine Same.upd_hm ?_)

theorem State.tlReserve_same_hm {σ : Hamper} {s : State} (h : Same State.hm σ s) (h : Nat) (blks : List Nat) :
    Same State.hm σ (State.tlReserve s h blks) := by
  unfold State.tlReserve
  iterate 40 (try any_goals first
    | with_reducible (first | exact h | assumption | apply State.bump_same_hm | refine Same.ite (fun _ => ?_) (fun _ => ?_)
                            | refine Same.ofSnd (by assumption) ?_ | refine Same.ofFst (by assumption) ?_)
    | split | dsimp only | with_reducible refine Same.upd_hm ?_)

theorem State.tlSpend_same_hm {σ : Hamper} {s : State} (h : Same State.hm σ s) (h blk : Nat) :
    Same State.hm σ (State.tlSpend s h blk) := by
  unfold State.tlSpend
  iterate 40 (try any_goals first
    | with_reducible (first | exact h | assumption | refine Same.ite (fun _ => ?_) (fun _ => ?_)
                            | refine Same.ofSnd (by assumption) ?_ | refine Same.ofFst (by assumption) ?_)
    | split | dsimp only | with_reducible refine Same.upd_hm ?_)

theorem State.tlAsk_same_hm {σ : Hamper} {s : State} (h : Same State.hm σ s) (h : Nat) (blks : List Nat) (alone : Bool) :
    Same State.hm σ (State.tlAsk s h blks alone).2 := by
  unfold State.tlAsk
  iterate 40 (try any_goals first
    | with_reducible (first | exact h | assumption | apply State.bump_same_hm | apply State.tlReserve_same_hm
                            | refine Same.ite (fun _ => ?_) (fun _ => ?_) | refine Same.ofSnd (by assumption) ?_
                            | refine Same.ofFst (by assumption) ?_)
    | split | dsimp only | with_reducible refine Same.upd_hm ?_)

theorem State.tlLost_same_hm {σ : Hamper} {s : State} (h : Same State.hm σ s) (wheel pack : Bool) :
    Same State.hm σ (State.tlLost s wheel pack) := by
  unfold State.tlLost
  exact Same.ite (fun _ => State.note_same_hm (Same.ite (fun _ => State.note_same_hm h _ _ _ _) fun _ => h) _ _ _ _)
    (fun _ => Same.ite (fun _ => State.note_same_hm h _ _ _ _) fun _ => h)

theorem State.tlRecompute_same_hm {σ : Hamper} {s : State} (h : Same State.hm σ s) :
    Same State.hm σ (State.tlRecompute s) := by
  unfold State.tlRecompute
  iterate 40 (try any_goals first
    | with_reducible (first | exact h | assumption | apply State.setReg_same_hm | apply State.setFld_same_hm
                            | apply State.setFlag_same_hm | apply State.setReg64_same_hm | apply State.note_same_hm
                            | apply State.tlMove_same_hm | apply State.tlOver_same_hm | apply State.tlLost_same_hm
                            | apply Same.foldl | apply Same.foldlSnd | apply Same.foldlFst
                            | refine Same.ite (fun _ => ?_) (fun _ => ?_) | refine Same.ofSnd (by assumption) ?_
                            | refine Same.ofFst (by assumption) ?_)
    | intro _ _ _ | split | dsimp only | with_reducible refine Same.upd_hm ?_)

theorem State.frameFor_same_hm {σ : Hamper} {s : State} (h : Same State.hm σ s) (a stripe vol : Nat) :
    Same State.hm σ (State.frameFor s a stripe vol).2 := by
  unfold State.frameFor
  iterate 40 (try any_goals first
    | with_reducible (first | exact h | assumption | apply State.newFrame_same_hm | refine Same.ite (fun _ => ?_) (fun _ => ?_)
                            | refine Same.ofSnd (by assumption) ?_ | refine Same.ofFst (by assumption) ?_)
    | split | dsimp only | with_reducible refine Same.upd_hm ?_)

theorem State.slotFor_same_hm {σ : Hamper} {s : State} (h : Same State.hm σ s) (n : Nat) (r : ArrayRec) (i : Nat) :
    Same State.hm σ (State.slotFor s n r i).2 := by
  unfold State.slotFor
  iterate 40 (try any_goals first
    | with_reducible (first | exact h | assumption | apply State.bump_same_hm | apply State.getSlot_same_hm
                            | refine Same.ite (fun _ => ?_) (fun _ => ?_) | refine Same.ofSnd (by assumption) ?_
                            | refine Same.ofFst (by assumption) ?_)
    | split | dsimp only | with_reducible refine Same.upd_hm ?_)

theorem State.putBlock_same_hm {σ : Hamper} {s : State} (h : Same State.hm σ s) (a stripe vol i o st : Nat) (r : ArrayRec) (data : List Byte) :
    Same State.hm σ (State.putBlock s a stripe vol i o st r data).2 := by
  unfold State.putBlock
  iterate 40 (try any_goals first
    | with_reducible (first | exact h | assumption | apply State.memPut_same_hm | apply State.updFrame_same_hm
                            | apply State.dropFrame_same_hm | apply State.newFrame_same_hm | apply State.toReady_same_hm
                            | apply State.frameFor_same_hm | apply State.slotFor_same_hm
                            | refine Same.ite (fun _ => ?_) (fun _ => ?_) | refine Same.ofSnd (by assumption) ?_
                            | refine Same.ofFst (by assumption) ?_)
    | split | dsimp only | with_reducible refine Same.upd_hm ?_)

theorem State.markWt_same_hm {σ : Hamper} {s : State} (h : Same State.hm σ s) (l : List (Nat × Nat)) :
    Same State.hm σ (State.markWt s l) := by
  unfold State.markWt
  iterate 40 (try any_goals first
    | with_reducible (first | exact h | assumption | apply State.toReady_same_hm | apply State.updFrame_same_hm | apply Same.foldl
                            | apply Same.foldlSnd | apply Same.foldlFst | refine Same.ite (fun _ => ?_) (fun _ => ?_)
                            | refine Same.ofSnd (by assumption) ?_ | refine Same.ofFst (by assumption) ?_)
    | intro _ _ _ | split | dsimp only | with_reducible refine Same.upd_hm ?_)

theorem State.goWt_same_hm {σ : Hamper} {s : State} (h : Same State.hm σ s) (h : Nat) :
    Same State.hm σ (State.goWt s h) := by
  unfold State.goWt
  iterate 40 (try any_goals first
    | with_reducible (first | exact h | assumption | apply State.markWt_same_hm | apply State.setCmd_same_hm
                            | refine Same.ite (fun _ => ?_) (fun _ => ?_) | refine Same.ofSnd (by assumption) ?_
                            | refine Same.ofFst (by assumption) ?_)
    | split | dsimp only | with_reducible refine Same.upd_hm ?_)

theorem State.refuse_same_hm {σ : Hamper} {s : State} (h : Same State.hm σ s) (h0 : Nat) :
    Same State.hm σ (State.refuse s h0) := by
  unfold State.refuse
  iterate 40 (try any_goals first
    | with_reducible (first | exact h | assumption | apply State.updStream_same_hm | apply State.goWt_same_hm
                            | apply Same.foldl | apply Same.foldlSnd | apply Same.foldlFst
                            | refine Same.ite (fun _ => ?_) (fun _ => ?_) | refine Same.ofSnd (by assumption) ?_
                            | refine Same.ofFst (by assumption) ?_)
    | intro _ _ _ | split | dsimp only | with_reducible refine Same.upd_hm ?_)

theorem State.noteFrame_same_hm {σ : Hamper} {s : State} (h : Same State.hm σ s) (h n : Nat) :
    Same State.hm σ (State.noteFrame s h n) := by
  unfold State.noteFrame
  iterate 40 (try any_goals first
    | with_reducible (first | exact h | assumption | apply State.markWt_same_hm | apply State.setCmd_same_hm
                            | refine Same.ite (fun _ => ?_) (fun _ => ?_) | refine Same.ofSnd (by assumption) ?_
                            | refine Same.ofFst (by assumption) ?_)
    | split | dsimp only | with_reducible refine Same.upd_hm ?_)

theorem State.blockState_same_hm {σ : Hamper} {s : State} (h : Same State.hm σ s) (h0 k old : Nat) :
    Same State.hm σ (State.blockState s h0 k old).2 := by
  unfold State.blockState
  iterate 40 (try any_goals first
    | with_reducible (first | exact h | assumption | apply State.tlAsk_same_hm | apply State.refuse_same_hm
                            | refine Same.ite (fun _ => ?_) (fun _ => ?_) | refine Same.ofSnd (by assumption) ?_
                            | refine Same.ofFst (by assumption) ?_)
    | split | dsimp only | with_reducible refine Same.upd_hm ?_)

theorem State.moveAt_same_hm {σ : Hamper} {s : State} (h : Same State.hm σ s) (h0 k v : Nat) (p : Place) (data : List Byte) :
    Same State.hm σ (State.moveAt s h0 k v p data).2 := by
  unfold State.moveAt
  iterate 40 (try any_goals first
    | with_reducible (first | exact h | assumption | apply State.pressure_same_hm | apply State.tlSpend_same_hm
                            | apply State.putBlock_same_hm | apply State.noteFrame_same_hm | apply State.blockState_same_hm
                            | refine Same.ite (fun _ => ?_) (fun _ => ?_) | refine Same.ofSnd (by assumption) ?_
                            | refine Same.ofFst (by assumption) ?_)
    | split | dsimp only | with_reducible refine Same.upd_hm ?_)

theorem State.writeEnd_same_hm {σ : Hamper} {s : State} (h : Same State.hm σ s) (h : Nat) :
    Same State.hm σ (State.writeEnd s h) := by
  unfold State.writeEnd
  iterate 40 (try any_goals first
    | with_reducible (first | exact h | assumption | apply State.finish_same_hm | apply State.finishSt_same_hm
                            | apply State.setCmd_same_hm | apply State.tlRelease_same_hm | refine Same.ite (fun _ => ?_) (fun _ => ?_)
                            | refine Same.ofSnd (by assumption) ?_ | refine Same.ofFst (by assumption) ?_)
    | split | dsimp only | with_reducible refine Same.upd_hm ?_)

theorem State.moveBlk_same_hm {σ : Hamper} {s : State} (h : Same State.hm σ s) (h0 k : Nat) :
    Same State.hm σ (State.moveBlk s h0 k) := by
  unfold State.moveBlk
  iterate 40 (try any_goals first
    | with_reducible (first | exact h | assumption | apply State.updCmd_same_hm | apply State.moveWait_same_hm
                            | apply State.moveAt_same_hm | apply State.writeEnd_same_hm
                            | refine Same.ite (fun _ => ?_) (fun _ => ?_) | refine Same.ofSnd (by assumption) ?_
                            | refine Same.ofFst (by assumption) ?_)
    | split | dsimp only | with_reducible refine Same.upd_hm ?_)

theorem State.appendEnd_same_hm {σ : Hamper} {s : State} (h : Same State.hm σ s) (c : Cmd) (op : LogOp) :
    Same State.hm σ (State.appendEnd s c op) := by
  unfold State.appendEnd
  iterate 40 (try any_goals first
    | with_reducible (first | exact h | assumption | apply State.bump_same_hm | apply State.finish_same_hm
                            | apply State.updStream_same_hm | refine Same.ite (fun _ => ?_) (fun _ => ?_)
                            | refine Same.ofSnd (by assumption) ?_ | refine Same.ofFst (by assumption) ?_)
    | split | dsimp only | with_reducible refine Same.upd_hm ?_)

theorem State.appendMoved_same_hm {σ : Hamper} {s : State} (h : Same State.hm σ s) (h0 : Nat) :
    Same State.hm σ (State.appendMoved s h0) := by
  unfold State.appendMoved
  iterate 40 (try any_goals first
    | with_reducible (first | exact h | assumption | apply State.setCmd_same_hm | apply State.finishSt_same_hm
                            | apply State.updStream_same_hm | apply State.tlRelease_same_hm | apply State.appendEnd_same_hm
                            | refine Same.ite (fun _ => ?_) (fun _ => ?_) | refine Same.ofSnd (by assumption) ?_
                            | refine Same.ofFst (by assumption) ?_)
    | split | dsimp only | with_reducible refine Same.upd_hm ?_)

theorem State.appendBlk_same_hm {σ : Hamper} {s : State} (h : Same State.hm σ s) (h0 : Nat) (op : LogOp) (payload : List Byte) (k : Nat) :
    Same State.hm σ (State.appendBlk s h0 op payload k) := by
  unfold State.appendBlk
  iterate 40 (try any_goals first
    | with_reducible (first | exact h | assumption | apply State.updCmd_same_hm | apply State.updFrame_same_hm
                            | apply State.moveWait_same_hm | apply State.moveAt_same_hm
                            | refine Same.ite (fun _ => ?_) (fun _ => ?_) | refine Same.ofSnd (by assumption) ?_
                            | refine Same.ofFst (by assumption) ?_)
    | split | dsimp only | with_reducible refine Same.upd_hm ?_)

theorem State.appendMove_same_hm {σ : Hamper} {s : State} (h : Same State.hm σ s) (h0 : Nat) :
    Same State.hm σ (State.appendMove s h0) := by
  unfold State.appendMove
  iterate 40 (try any_goals first
    | with_reducible (first | exact h | assumption | apply State.appendMoved_same_hm | apply State.appendBlk_same_hm
                            | apply Same.foldl | apply Same.foldlSnd | apply Same.foldlFst
                            | refine Same.ite (fun _ => ?_) (fun _ => ?_) | refine Same.ofSnd (by assumption) ?_
                            | refine Same.ofFst (by assumption) ?_)
    | intro _ _ _ | split | dsimp only | with_reducible refine Same.upd_hm ?_)

theorem State.appendSettled_same_hm {σ : Hamper} {s : State} (h : Same State.hm σ s) (h0 : Nat) :
    Same State.hm σ (State.appendSettled s h0) := by
  unfold State.appendSettled
  iterate 40 (try any_goals first
    | with_reducible (first | exact h | assumption | apply State.updCmd_same_hm | apply State.appendMove_same_hm
                            | refine Same.ite (fun _ => ?_) (fun _ => ?_) | refine Same.ofSnd (by assumption) ?_
                            | refine Same.ofFst (by assumption) ?_)
    | split | dsimp only | with_reducible refine Same.upd_hm ?_)

theorem State.appendCredit_same_hm {σ : Hamper} {s : State} (h : Same State.hm σ s) (h0 : Nat) (ok : Bool) :
    Same State.hm σ (State.appendCredit s h0 ok) := by
  unfold State.appendCredit
  iterate 40 (try any_goals first
    | with_reducible (first | exact h | assumption | apply State.refuse_same_hm | apply State.appendSettled_same_hm
                            | refine Same.ite (fun _ => ?_) (fun _ => ?_) | refine Same.ofSnd (by assumption) ?_
                            | refine Same.ofFst (by assumption) ?_)
    | split | dsimp only | with_reducible refine Same.upd_hm ?_)

theorem State.writeGo_same_hm {σ : Hamper} {s : State} (h : Same State.hm σ s) (h : Nat) :
    Same State.hm σ (State.writeGo s h) := by
  unfold State.writeGo
  iterate 40 (try any_goals first
    | with_reducible (first | exact h | assumption | apply State.moveBlk_same_hm | apply State.setCmd_same_hm
                            | apply State.tryRead_same_hm | apply State.writeEnd_same_hm | apply Same.foldl | apply Same.foldlSnd
                            | apply Same.foldlFst | refine Same.ite (fun _ => ?_) (fun _ => ?_) | refine Same.ofSnd (by assumption) ?_
                            | refine Same.ofFst (by assumption) ?_)
    | intro _ _ _ | split | dsimp only | with_reducible refine Same.upd_hm ?_)

theorem State.tlAnswer_same_hm {σ : Hamper} {s : State} (h : Same State.hm σ s) (q : TReq) (ok : Bool) :
    Same State.hm σ (State.tlAnswer s q ok) := by
  unfold State.tlAnswer
  iterate 40 (try any_goals first
    | with_reducible (first | exact h | assumption | apply State.updCmd_same_hm | apply State.tlRelease_same_hm
                            | apply State.tlReserve_same_hm | apply State.goWt_same_hm | apply State.refuse_same_hm
                            | apply State.moveBlk_same_hm | apply State.appendMove_same_hm | apply State.appendCredit_same_hm
                            | apply State.writeGo_same_hm | apply Same.foldl | apply Same.foldlSnd | apply Same.foldlFst
                            | refine Same.ite (fun _ => ?_) (fun _ => ?_) | refine Same.ofSnd (by assumption) ?_
                            | refine Same.ofFst (by assumption) ?_)
    | intro _ _ _ | split | dsimp only | with_reducible refine Same.upd_hm ?_)

theorem State.tlRefuseAll_same_hm {σ : Hamper} {s : State} (h : Same State.hm σ s) :
    Same State.hm σ (State.tlRefuseAll s) := by
  unfold State.tlRefuseAll
  iterate 40 (try any_goals first
    | with_reducible (first | exact h | assumption | apply State.bump_same_hm | apply State.tlAnswer_same_hm | apply Same.foldl
                            | apply Same.foldlSnd | apply Same.foldlFst | refine Same.ite (fun _ => ?_) (fun _ => ?_)
                            | refine Same.ofSnd (by assumption) ?_ | refine Same.ofFst (by assumption) ?_)
    | intro _ _ _ | split | dsimp only | with_reducible refine Same.upd_hm ?_)

theorem State.tlUpdate_same_hm {σ : Hamper} {s : State} (h : Same State.hm σ s) :
    Same State.hm σ (State.tlUpdate s) := by
  unfold State.tlUpdate
  iterate 40 (try any_goals first
    | with_reducible (first | exact h | assumption | apply State.pressure_same_hm | apply State.tlRecompute_same_hm
                            | apply State.tlRefuseAll_same_hm | refine Same.ite (fun _ => ?_) (fun _ => ?_)
                            | refine Same.ofSnd (by assumption) ?_ | refine Same.ofFst (by assumption) ?_)
    | split | dsimp only | with_reducible refine Same.upd_hm ?_)

theorem State.tlFreeze_same_hm {σ : Hamper} {s : State} (h : Same State.hm σ s) :
    Same State.hm σ (State.tlFreeze s) := by
  unfold State.tlFreeze
  iterate 40 (try any_goals first
    | with_reducible (first | exact h | assumption | refine Same.ite (fun _ => ?_) (fun _ => ?_)
                            | refine Same.ofSnd (by assumption) ?_ | refine Same.ofFst (by assumption) ?_)
    | split | dsimp only | with_reducible refine Same.upd_hm ?_)

theorem State.mwSettle_same_hm {σ : Hamper} {s : State} (h : Same State.hm σ s) :
    Same State.hm σ (State.mwSettle s) := by
  unfold State.mwSettle
  iterate 40 (try any_goals first
    | with_reducible (first | exact h | assumption | refine Same.ite (fun _ => ?_) (fun _ => ?_)
                            | refine Same.ofSnd (by assumption) ?_ | refine Same.ofFst (by assumption) ?_)
    | split | dsimp only | with_reducible refine Same.upd_hm ?_)

theorem State.mwSt_same_hm {σ : Hamper} {s : State} (h : Same State.hm σ s) (f : Mw → Mw) :
    Same State.hm σ (State.mwSt s f) := by
  unfold State.mwSt
  iterate 40 (try any_goals first
    | with_reducible (first | exact h | assumption | refine Same.ite (fun _ => ?_) (fun _ => ?_)
                            | refine Same.ofSnd (by assumption) ?_ | refine Same.ofFst (by assumption) ?_)
    | split | dsimp only | with_reducible refine Same.upd_hm ?_)

theorem State.setGates_same_hm {σ : Hamper} {s : State} (h : Same State.hm σ s) (v : Option Nat) :
    Same State.hm σ (State.setGates s v) := by
  unfold State.setGates
  iterate 40 (try any_goals first
    | with_reducible (first | exact h | assumption | apply State.mwSt_same_hm | refine Same.ite (fun _ => ?_) (fun _ => ?_)
                            | refine Same.ofSnd (by assumption) ?_ | refine Same.ofFst (by assumption) ?_)
    | split | dsimp only | with_reducible refine Same.upd_hm ?_)

theorem State.mwGo_same_hm {σ : Hamper} {s : State} (h : Same State.hm σ s) (st : Nat) :
    Same State.hm σ (State.mwGo s st) := by
  unfold State.mwGo
  iterate 40 (try any_goals first
    | with_reducible (first | exact h | assumption | apply State.setFld_same_hm | apply State.setFlag_same_hm
                            | apply State.mwSt_same_hm | apply State.setGates_same_hm
                            | refine Same.ite (fun _ => ?_) (fun _ => ?_) | refine Same.ofSnd (by assumption) ?_
                            | refine Same.ofFst (by assumption) ?_)
    | split | dsimp only | with_reducible refine Same.upd_hm ?_)

theorem State.commEnd_same_hm {σ : Hamper} {s : State} (h : Same State.hm σ s) (res : Nat) :
    Same State.hm σ (State.commEnd s res) := by
  unfold State.commEnd
  iterate 40 (try any_goals first
    | with_reducible (first | exact h | assumption | apply State.finish_same_hm | apply State.kwStore_same_hm | apply State.mwSt_same_hm
                            | apply State.setFlag_same_hm | refine Same.ite (fun _ => ?_) (fun _ => ?_)
                            | refine Same.ofSnd (by assumption) ?_ | refine Same.ofFst (by assumption) ?_)
    | split | dsimp only | with_reducible refine Same.upd_hm ?_)

theorem State.mwFaultGo_same_hm {σ : Hamper} {s : State} (h : Same State.hm σ s) (cause : Nat) :
    Same State.hm σ (State.mwFaultGo s cause) := by
  unfold State.mwFaultGo
  iterate 40 (try any_goals first
    | with_reducible (first | exact h | assumption | apply State.setFld_same_hm | apply State.setFlag_same_hm
                            | apply State.note_same_hm | apply State.tlUpdate_same_hm | apply State.mwGo_same_hm
                            | apply State.commEnd_same_hm | refine Same.ite (fun _ => ?_) (fun _ => ?_)
                            | refine Same.ofSnd (by assumption) ?_ | refine Same.ofFst (by assumption) ?_)
    | split | dsimp only | with_reducible refine Same.upd_hm ?_)

theorem State.trefFree_same_hm {σ : Hamper} {s : State} (h : Same State.hm σ s) :
    Same State.hm σ (State.trefFree s) := by
  unfold State.trefFree
  iterate 40 (try any_goals first
    | with_reducible (first | exact h | assumption | apply State.freeBelow_same_hm | apply State.mwSt_same_hm
                            | refine Same.ite (fun _ => ?_) (fun _ => ?_) | refine Same.ofSnd (by assumption) ?_
                            | refine Same.ofFst (by assumption) ?_)
    | split | dsimp only | with_reducible refine Same.upd_hm ?_)

theorem State.torqueRef_same_hm {σ : Hamper} {s : State} (h : Same State.hm σ s) :
    Same State.hm σ (State.torqueRef s) := by
  unfold State.torqueRef
  iterate 40 (try any_goals first
    | with_reducible (first | exact h | assumption | apply State.mwSt_same_hm | apply State.trefFree_same_hm
                            | refine Same.ite (fun _ => ?_) (fun _ => ?_) | refine Same.ofSnd (by assumption) ?_
                            | refine Same.ofFst (by assumption) ?_)
    | split | dsimp only | with_reducible refine Same.upd_hm ?_)

theorem State.compare_same_hm {σ : Hamper} {s : State} (h : Same State.hm σ s) :
    Same State.hm σ (State.compare s) := by
  unfold State.compare
  iterate 40 (try any_goals first
    | with_reducible (first | exact h | assumption | apply State.mwSt_same_hm | refine Same.ite (fun _ => ?_) (fun _ => ?_)
                            | refine Same.ofSnd (by assumption) ?_ | refine Same.ofFst (by assumption) ?_)
    | split | dsimp only | with_reducible refine Same.upd_hm ?_)

theorem State.choose_same_hm {σ : Hamper} {s : State} (h : Same State.hm σ s) :
    Same State.hm σ (State.choose s) := by
  unfold State.choose
  iterate 40 (try any_goals first
    | with_reducible (first | exact h | assumption | apply State.mwSt_same_hm | apply State.setGates_same_hm
                            | refine Same.ite (fun _ => ?_) (fun _ => ?_) | refine Same.ofSnd (by assumption) ?_
                            | refine Same.ofFst (by assumption) ?_)
    | split | dsimp only | with_reducible refine Same.upd_hm ?_)

theorem State.rampStep_same_hm {σ : Hamper} {s : State} (h : Same State.hm σ s) :
    Same State.hm σ (State.rampStep s) := by
  unfold State.rampStep
  iterate 40 (try any_goals first
    | with_reducible (first | exact h | assumption | apply State.mwSt_same_hm | apply State.setGates_same_hm
                            | refine Same.ite (fun _ => ?_) (fun _ => ?_) | refine Same.ofSnd (by assumption) ?_
                            | refine Same.ofFst (by assumption) ?_)
    | split | dsimp only | with_reducible refine Same.upd_hm ?_)

theorem State.mwTurn_same_hm {σ : Hamper} {s : State} (h : Same State.hm σ s) :
    Same State.hm σ (State.mwTurn s) := by
  unfold State.mwTurn
  iterate 40 (try any_goals first
    | with_reducible (first | exact h | assumption | apply State.mwSettle_same_hm | apply State.mwSt_same_hm
                            | refine Same.ite (fun _ => ?_) (fun _ => ?_) | refine Same.ofSnd (by assumption) ?_
                            | refine Same.ofFst (by assumption) ?_)
    | split | dsimp only | with_reducible refine Same.upd_hm ?_)

theorem State.dcCheck_same_hm {σ : Hamper} {s : State} (h : Same State.hm σ s) :
    Same State.hm σ (State.dcCheck s) := by
  unfold State.dcCheck
  iterate 40 (try any_goals first
    | with_reducible (first | exact h | assumption | apply State.mwFaultGo_same_hm
                            | refine Same.ite (fun _ => ?_) (fun _ => ?_) | refine Same.ofSnd (by assumption) ?_
                            | refine Same.ofFst (by assumption) ?_)
    | split | dsimp only | with_reducible refine Same.upd_hm ?_)

theorem State.idleDrive_same_hm {σ : Hamper} {s : State} (h : Same State.hm σ s) (full : Bool) :
    Same State.hm σ (State.idleDrive s full) := by
  unfold State.idleDrive
  iterate 40 (try any_goals first
    | with_reducible (first | exact h | assumption | apply State.mwSt_same_hm | apply State.setGates_same_hm
                            | refine Same.ite (fun _ => ?_) (fun _ => ?_) | refine Same.ofSnd (by assumption) ?_
                            | refine Same.ofFst (by assumption) ?_)
    | split | dsimp only | with_reducible refine Same.upd_hm ?_)

theorem State.holdDrive_same_hm {σ : Hamper} {s : State} (h : Same State.hm σ s) (v : Nat) :
    Same State.hm σ (State.holdDrive s v) := by
  unfold State.holdDrive
  iterate 40 (try any_goals first
    | with_reducible (first | exact h | assumption | apply State.mwSt_same_hm | apply State.setGates_same_hm
                            | refine Same.ite (fun _ => ?_) (fun _ => ?_) | refine Same.ofSnd (by assumption) ?_
                            | refine Same.ofFst (by assumption) ?_)
    | split | dsimp only | with_reducible refine Same.upd_hm ?_)

theorem State.secWatch_same_hm {σ : Hamper} {s : State} (h : Same State.hm σ s) :
    Same State.hm σ (State.secWatch s) := by
  unfold State.secWatch
  iterate 40 (try any_goals first
    | with_reducible (first | exact h | assumption | apply State.mwSt_same_hm | refine Same.ite (fun _ => ?_) (fun _ => ?_)
                            | refine Same.ofSnd (by assumption) ?_ | refine Same.ofFst (by assumption) ?_)
    | split | dsimp only | with_reducible refine Same.upd_hm ?_)

theorem State.mwDrive_same_hm {σ : Hamper} {s : State} (h : Same State.hm σ s) :
    Same State.hm σ (State.mwDrive s) := by
  unfold State.mwDrive
  iterate 40 (try any_goals first
    | with_reducible (first | exact h | assumption | apply State.mwSt_same_hm | apply State.compare_same_hm
                            | apply State.choose_same_hm | apply State.rampStep_same_hm | apply State.idleDrive_same_hm
                            | apply State.holdDrive_same_hm | apply State.secWatch_same_hm
                            | refine Same.ite (fun _ => ?_) (fun _ => ?_) | refine Same.ofSnd (by assumption) ?_
                            | refine Same.ofFst (by assumption) ?_)
    | split | dsimp only | with_reducible refine Same.upd_hm ?_)

theorem State.mwNow_same_hm {σ : Hamper} {s : State} (h : Same State.hm σ s) :
    Same State.hm σ (State.mwNow s) := by
  unfold State.mwNow
  iterate 40 (try any_goals first
    | with_reducible (first | exact h | assumption | apply State.torqueRef_same_hm | apply State.mwTurn_same_hm
                            | apply State.dcCheck_same_hm | apply State.mwDrive_same_hm
                            | refine Same.ite (fun _ => ?_) (fun _ => ?_) | refine Same.ofSnd (by assumption) ?_
                            | refine Same.ofFst (by assumption) ?_)
    | split | dsimp only | with_reducible refine Same.upd_hm ?_)

theorem State.mwSupplyFail_same_hm {σ : Hamper} {s : State} (h : Same State.hm σ s) :
    Same State.hm σ (State.mwSupplyFail s) := by
  unfold State.mwSupplyFail
  iterate 40 (try any_goals first
    | with_reducible (first | exact h | assumption | apply State.mwSt_same_hm | apply State.mwGo_same_hm
                            | apply State.commEnd_same_hm | apply State.mwNow_same_hm
                            | refine Same.ite (fun _ => ?_) (fun _ => ?_) | refine Same.ofSnd (by assumption) ?_
                            | refine Same.ofFst (by assumption) ?_)
    | split | dsimp only | with_reducible refine Same.upd_hm ?_)

theorem State.gaSt_same_hm {σ : Hamper} {s : State} (h : Same State.hm σ s) (f : Ga → Ga) :
    Same State.hm σ (State.gaSt s f) := by
  unfold State.gaSt
  iterate 40 (try any_goals first
    | with_reducible (first | exact h | assumption | refine Same.ite (fun _ => ?_) (fun _ => ?_)
                            | refine Same.ofSnd (by assumption) ?_ | refine Same.ofFst (by assumption) ?_)
    | split | dsimp only | with_reducible refine Same.upd_hm ?_)

theorem State.packOn_same_hm {σ : Hamper} {s : State} (h : Same State.hm σ s) :
    Same State.hm σ (State.packOn s) := by
  unfold State.packOn
  iterate 40 (try any_goals first
    | with_reducible (first | exact h | assumption | apply State.gaSt_same_hm | refine Same.ite (fun _ => ?_) (fun _ => ?_)
                            | refine Same.ofSnd (by assumption) ?_ | refine Same.ofFst (by assumption) ?_)
    | split | dsimp only | with_reducible refine Same.upd_hm ?_)

theorem State.alWrite_same_hm {σ : Hamper} {s : State} (h : Same State.hm σ s) (slot : Nat) (body : List Byte) :
    Same State.hm σ (State.alWrite s slot body) := by
  unfold State.alWrite
  iterate 40 (try any_goals first
    | with_reducible (first | exact h | assumption | apply State.keepPut_same_hm | apply State.keepWord_same_hm
                            | refine Same.ite (fun _ => ?_) (fun _ => ?_) | refine Same.ofSnd (by assumption) ?_
                            | refine Same.ofFst (by assumption) ?_)
    | split | dsimp only | with_reducible refine Same.upd_hm ?_)

theorem State.alFounded_same_hm {σ : Hamper} {s : State} (h : Same State.hm σ s) (slot : Nat) :
    Same State.hm σ (State.alFounded s slot) := by
  unfold State.alFounded
  iterate 40 (try any_goals first
    | with_reducible (first | exact h | assumption | apply State.kwStore_same_hm | refine Same.ite (fun _ => ?_) (fun _ => ?_)
                            | refine Same.ofSnd (by assumption) ?_ | refine Same.ofFst (by assumption) ?_)
    | split | dsimp only | with_reducible refine Same.upd_hm ?_)

theorem State.alTakeSlot_same_hm {σ : Hamper} {s : State} (h : Same State.hm σ s) :
    Same State.hm σ (State.alTakeSlot s) := by
  unfold State.alTakeSlot
  iterate 40 (try any_goals first
    | with_reducible (first | exact h | assumption | apply State.setReg64_same_hm | refine Same.ite (fun _ => ?_) (fun _ => ?_)
                            | refine Same.ofSnd (by assumption) ?_ | refine Same.ofFst (by assumption) ?_)
    | split | dsimp only | with_reducible refine Same.upd_hm ?_)

theorem State.alOpenEpoch_same_hm {σ : Hamper} {s : State} (h : Same State.hm σ s) :
    Same State.hm σ (State.alOpenEpoch s) := by
  unfold State.alOpenEpoch
  iterate 40 (try any_goals first
    | with_reducible (first | exact h | assumption | refine Same.ite (fun _ => ?_) (fun _ => ?_)
                            | refine Same.ofSnd (by assumption) ?_ | refine Same.ofFst (by assumption) ?_)
    | split | dsimp only | with_reducible refine Same.upd_hm ?_)

theorem State.timeSave_same_hm {σ : Hamper} {s : State} (h : Same State.hm σ s) :
    Same State.hm σ (State.timeSave s) := by
  unfold State.timeSave
  iterate 40 (try any_goals first
    | with_reducible (first | exact h | assumption | apply State.addWear_same_hm | apply State.bump_same_hm
                            | apply State.setReg64_same_hm | refine Same.ite (fun _ => ?_) (fun _ => ?_)
                            | refine Same.ofSnd (by assumption) ?_ | refine Same.ofFst (by assumption) ?_)
    | split | dsimp only | with_reducible refine Same.upd_hm ?_)

theorem State.saveWear_same_hm {σ : Hamper} {s : State} (h : Same State.hm σ s) : Same State.hm σ s.saveWear := by
  unfold State.saveWear
  refine Same.ite (fun _ => State.bumpN_same_hm h _ _) (fun _ => ?_)
  dsimp only
  refine State.addWear_same_hm ?_ _ _
  exact h

theorem State.alFlushReps_same_hm {σ : Hamper} {s : State} (h : Same State.hm σ s) :
    Same State.hm σ (State.alFlushReps s) := by
  unfold State.alFlushReps
  iterate 40 (try any_goals first
    | with_reducible (first | exact h | assumption | apply State.alWrite_same_hm | refine Same.ite (fun _ => ?_) (fun _ => ?_)
                            | refine Same.ofSnd (by assumption) ?_ | refine Same.ofFst (by assumption) ?_)
    | split | dsimp only | with_reducible refine Same.upd_hm ?_)

theorem State.alPut_same_hm {σ : Hamper} {s : State} (h : Same State.hm σ s) (kind reason : Nat) :
    Same State.hm σ (State.alPut s kind reason) := by
  unfold State.alPut
  iterate 40 (try any_goals first
    | with_reducible (first | exact h | assumption | apply State.alFounded_same_hm | apply State.alTakeSlot_same_hm
                            | apply State.alWrite_same_hm | apply State.bump_same_hm | apply State.note_same_hm
                            | refine Same.ite (fun _ => ?_) (fun _ => ?_) | refine Same.ofSnd (by assumption) ?_
                            | refine Same.ofFst (by assumption) ?_)
    | split | dsimp only | with_reducible refine Same.upd_hm ?_)

theorem State.alClose_same_hm {σ : Hamper} {s : State} (h : Same State.hm σ s) (kind reason : Nat) :
    Same State.hm σ (State.alClose s kind reason) := by
  unfold State.alClose
  iterate 40 (try any_goals first
    | with_reducible (first | exact h | assumption | apply State.alOpenEpoch_same_hm | apply State.alPut_same_hm
                            | apply State.saveWear_same_hm | apply State.timeSave_same_hm | refine Same.ite (fun _ => ?_) (fun _ => ?_)
                            | refine Same.ofSnd (by assumption) ?_ | refine Same.ofFst (by assumption) ?_)
    | split | dsimp only | with_reducible refine Same.upd_hm ?_)

theorem State.alPfdClose_same_hm {σ : Hamper} {s : State} (h : Same State.hm σ s) :
    Same State.hm σ (State.alPfdClose s) := by
  unfold State.alPfdClose
  iterate 40 (try any_goals first
    | with_reducible (first | exact h | assumption | apply State.alClose_same_hm | apply State.alFlushReps_same_hm
                            | refine Same.ite (fun _ => ?_) (fun _ => ?_) | refine Same.ofSnd (by assumption) ?_
                            | refine Same.ofFst (by assumption) ?_)
    | split | dsimp only | with_reducible refine Same.upd_hm ?_)

theorem State.heldWritesEnd_same_hm {σ : Hamper} {s : State} (h : Same State.hm σ s) :
    Same State.hm σ (State.heldWritesEnd s) := by
  unfold State.heldWritesEnd
  iterate 40 (try any_goals first
    | with_reducible (first | exact h | assumption | refine Same.ite (fun _ => ?_) (fun _ => ?_)
                            | refine Same.ofSnd (by assumption) ?_ | refine Same.ofFst (by assumption) ?_)
    | split | dsimp only | with_reducible refine Same.upd_hm ?_)

theorem State.tapForce_same_hm {σ : Hamper} {s : State} (h : Same State.hm σ s) :
    Same State.hm σ (State.tapForce s) := by
  unfold State.tapForce
  iterate 40 (try any_goals first
    | with_reducible (first | exact h | assumption | refine Same.ite (fun _ => ?_) (fun _ => ?_)
                            | refine Same.ofSnd (by assumption) ?_ | refine Same.ofFst (by assumption) ?_)
    | split | dsimp only | with_reducible refine Same.upd_hm ?_)

theorem State.pfdFlags_same_hm {σ : Hamper} {s : State} (h : Same State.hm σ s) (cause : Nat) :
    Same State.hm σ (State.pfdFlags s cause) := by
  unfold State.pfdFlags
  iterate 40 (try any_goals first
    | with_reducible (first | exact h | assumption | apply State.bump_same_hm | apply State.setFlag_same_hm | apply State.setFld_same_hm
                            | apply State.setReg_same_hm | refine Same.ite (fun _ => ?_) (fun _ => ?_)
                            | refine Same.ofSnd (by assumption) ?_ | refine Same.ofFst (by assumption) ?_)
    | split | dsimp only | with_reducible refine Same.upd_hm ?_)

theorem State.pfdSave_same_hm {σ : Hamper} {s : State} (h : Same State.hm σ s) :
    Same State.hm σ (State.pfdSave s) := by
  unfold State.pfdSave
  iterate 40 (try any_goals first
    | with_reducible (first | exact h | assumption | apply State.alPfdClose_same_hm | apply State.timeSave_same_hm
                            | refine Same.ite (fun _ => ?_) (fun _ => ?_) | refine Same.ofSnd (by assumption) ?_
                            | refine Same.ofFst (by assumption) ?_)
    | split | dsimp only | with_reducible refine Same.upd_hm ?_)

theorem State.setReg_same_keep {σ : List Host.Cell} {s : State} (h : Same State.keep σ s) (k v : Nat) : Same State.keep σ (s.setReg k v) := h

theorem State.setFld_same_keep {σ : List Host.Cell} {s : State} (h : Same State.keep σ s) (k hi lo v : Nat) :
    Same State.keep σ (State.setFld s k hi lo v) := by
  unfold State.setFld
  iterate 40 (try any_goals first
    | with_reducible (first | exact h | assumption | apply State.setReg_same_keep | refine Same.ite (fun _ => ?_) (fun _ => ?_)
                            | refine Same.ofSnd (by assumption) ?_ | refine Same.ofFst (by assumption) ?_)
    | split | dsimp only | with_reducible refine Same.upd_keep ?_)

theorem State.setFlag_same_keep {σ : List Host.Cell} {s : State} (h : Same State.keep σ s) (k i : Nat) (b : Bool) :
    Same State.keep σ (State.setFlag s k i b) := by
  unfold State.setFlag
  iterate 40 (try any_goals first
    | with_reducible (first | exact h | assumption | apply State.setFld_same_keep | refine Same.ite (fun _ => ?_) (fun _ => ?_)
                            | refine Same.ofSnd (by assumption) ?_ | refine Same.ofFst (by assumption) ?_)
    | split | dsimp only | with_reducible refine Same.upd_keep ?_)

theorem State.bumpN_same_keep {σ : List Host.Cell} {s : State} (h : Same State.keep σ s) (k n : Nat) :
    Same State.keep σ (State.bumpN s k n) := by
  unfold State.bumpN
  iterate 40 (try any_goals first
    | with_reducible (first | exact h | assumption | apply State.setReg_same_keep | refine Same.ite (fun _ => ?_) (fun _ => ?_)
                            | refine Same.ofSnd (by assumption) ?_ | refine Same.ofFst (by assumption) ?_)
    | split | dsimp only | with_reducible refine Same.upd_keep ?_)

theorem State.bump_same_keep {σ : List Host.Cell} {s : State} (h : Same State.keep σ s) (k : Nat) :
    Same State.keep σ (State.bump s k) := by
  unfold State.bump
  iterate 40 (try any_goals first
    | with_reducible (first | exact h | assumption | apply State.bumpN_same_keep | refine Same.ite (fun _ => ?_) (fun _ => ?_)
                            | refine Same.ofSnd (by assumption) ?_ | refine Same.ofFst (by assumption) ?_)
    | split | dsimp only | with_reducible refine Same.upd_keep ?_)

theorem State.setReg64_same_keep {σ : List Host.Cell} {s : State} (h : Same State.keep σ s) (lo v : Nat) :
    Same State.keep σ (State.setReg64 s lo v) := by
  unfold State.setReg64
  iterate 40 (try any_goals first
    | with_reducible (first | exact h | assumption | apply State.setReg_same_keep | refine Same.ite (fun _ => ?_) (fun _ => ?_)
                            | refine Same.ofSnd (by assumption) ?_ | refine Same.ofFst (by assumption) ?_)
    | split | dsimp only | with_reducible refine Same.upd_keep ?_)

theorem State.memPut_same_keep {σ : List Host.Cell} {s : State} (h : Same State.keep σ s) (a : Nat) (bs : List Byte) : Same State.keep σ (s.memPut a bs) := h

theorem State.deposit_same_keep {σ : List Host.Cell} {s : State} (h : Same State.keep σ s) (rank : Nat) (d : Deposit) :
    Same State.keep σ (State.deposit s rank d) := by
  unfold State.deposit
  iterate 40 (try any_goals first
    | with_reducible (first | exact h | assumption | refine Same.ite (fun _ => ?_) (fun _ => ?_)
                            | refine Same.ofSnd (by assumption) ?_ | refine Same.ofFst (by assumption) ?_)
    | split | dsimp only | with_reducible refine Same.upd_keep ?_)

theorem State.noteD_same_keep {σ : List Host.Cell} {s : State} (h : Same State.keep σ s) (unit value sev arg detail amount : Nat) :
    Same State.keep σ (State.noteD s unit value sev arg detail amount) := by
  unfold State.noteD
  iterate 40 (try any_goals first
    | with_reducible (first | exact h | assumption | apply State.deposit_same_keep | apply State.note_same_keep
                            | refine Same.ite (fun _ => ?_) (fun _ => ?_) | refine Same.ofSnd (by assumption) ?_
                            | refine Same.ofFst (by assumption) ?_)
    | split | dsimp only | with_reducible refine Same.upd_keep ?_)

theorem State.note_same_keep {σ : List Host.Cell} {s : State} (h : Same State.keep σ s) (unit value sev arg : Nat) :
    Same State.keep σ (State.note s unit value sev arg) := by
  unfold State.note
  iterate 40 (try any_goals first
    | with_reducible (first | exact h | assumption | apply State.noteD_same_keep | refine Same.ite (fun _ => ?_) (fun _ => ?_)
                            | refine Same.ofSnd (by assumption) ?_ | refine Same.ofFst (by assumption) ?_)
    | split | dsimp only | with_reducible refine Same.upd_keep ?_)

theorem State.vcoreGo_same_keep {σ : List Host.Cell} {s : State} (h : Same State.keep σ s) (code : Nat) :
    Same State.keep σ (State.vcoreGo s code) := by
  unfold State.vcoreGo
  iterate 40 (try any_goals first
    | with_reducible (first | exact h | assumption | apply State.setFld_same_keep | refine Same.ite (fun _ => ?_) (fun _ => ?_)
                            | refine Same.ofSnd (by assumption) ?_ | refine Same.ofFst (by assumption) ?_)
    | split | dsimp only | with_reducible refine Same.upd_keep ?_)

theorem State.tryRead_same_keep {σ : List Host.Cell} {s : State} (h : Same State.keep σ s) (q : RdReq) : Same State.keep σ (s.tryRead q) := by
  unfold State.tryRead
  split
  · exact h
  · split
    · exact Same.upd_keep h
    · exact Same.upd_keep h

theorem State.setCmd_same_keep {σ : List Host.Cell} {s : State} (h : Same State.keep σ s) (c : Cmd) :
    Same State.keep σ (State.setCmd s c) := by
  unfold State.setCmd
  iterate 40 (try any_goals first
    | with_reducible (first | exact h | assumption | refine Same.ite (fun _ => ?_) (fun _ => ?_)
                            | refine Same.ofSnd (by assumption) ?_ | refine Same.ofFst (by assumption) ?_)
    | split | dsimp only | with_reducible refine Same.upd_keep ?_)

theorem State.updCmd_same_keep {σ : List Host.Cell} {s : State} (h : Same State.keep σ s) (h : Nat) (f : Cmd → Cmd) :
    Same State.keep σ (State.updCmd s h f) := by
  unfold State.updCmd
  iterate 40 (try any_goals first
    | with_reducible (first | exact h | assumption | refine Same.ite (fun _ => ?_) (fun _ => ?_)
                            | refine Same.ofSnd (by assumption) ?_ | refine Same.ofFst (by assumption) ?_)
    | split | dsimp only | with_reducible refine Same.upd_keep ?_)

theorem State.arrEnded_same_keep {σ : List Host.Cell} {s : State} (h : Same State.keep σ s) (c : Cmd) :
    Same State.keep σ (State.arrEnded s c) := by
  unfold State.arrEnded
  iterate 40 (try any_goals first
    | with_reducible (first | exact h | assumption | refine Same.ite (fun _ => ?_) (fun _ => ?_)
                            | refine Same.ofSnd (by assumption) ?_ | refine Same.ofFst (by assumption) ?_)
    | split | dsimp only | with_reducible refine Same.upd_keep ?_)

theorem State.dropCmd_same_keep {σ : List Host.Cell} {s : State} (h : Same State.keep σ s) (c : Cmd) :
    Same State.keep σ (State.dropCmd s c) := by
  unfold State.dropCmd
  iterate 40 (try any_goals first
    | with_reducible (first | exact h | assumption | apply State.arrEnded_same_keep | refine Same.ite (fun _ => ?_) (fun _ => ?_)
                            | refine Same.ofSnd (by assumption) ?_ | refine Same.ofFst (by assumption) ?_)
    | split | dsimp only | with_reducible refine Same.upd_keep ?_)

theorem State.markIdle_same_keep {σ : List Host.Cell} {s : State} (h : Same State.keep σ s) :
    Same State.keep σ (State.markIdle s) := by
  unfold State.markIdle
  iterate 40 (try any_goals first
    | with_reducible (first | exact h | assumption | refine Same.ite (fun _ => ?_) (fun _ => ?_)
                            | refine Same.ofSnd (by assumption) ?_ | refine Same.ofFst (by assumption) ?_)
    | split | dsimp only | with_reducible refine Same.upd_keep ?_)

theorem State.finish_same_keep {σ : List Host.Cell} {s : State} (h : Same State.keep σ s) (rank : Nat) (c : Cmd) :
    Same State.keep σ (State.finish s rank c) := by
  unfold State.finish
  iterate 40 (try any_goals first
    | with_reducible (first | exact h | assumption | apply State.arrEnded_same_keep | apply State.deposit_same_keep
                            | apply State.dropCmd_same_keep | apply State.markIdle_same_keep
                            | refine Same.ite (fun _ => ?_) (fun _ => ?_) | refine Same.ofSnd (by assumption) ?_
                            | refine Same.ofFst (by assumption) ?_)
    | split | dsimp only | with_reducible refine Same.upd_keep ?_)

theorem State.finishSt_same_keep {σ : List Host.Cell} {s : State} (h : Same State.keep σ s) (rank : Nat) (c : Cmd) (status : Nat) :
    Same State.keep σ (State.finishSt s rank c status) := by
  unfold State.finishSt
  iterate 40 (try any_goals first
    | with_reducible (first | exact h | assumption | apply State.finish_same_keep | refine Same.ite (fun _ => ?_) (fun _ => ?_)
                            | refine Same.ofSnd (by assumption) ?_ | refine Same.ofFst (by assumption) ?_)
    | split | dsimp only | with_reducible refine Same.upd_keep ?_)

theorem State.setFrame_same_keep {σ : List Host.Cell} {s : State} (h : Same State.keep σ s) (n : Nat) (f : Frame) :
    Same State.keep σ (State.setFrame s n f) := by
  unfold State.setFrame
  iterate 40 (try any_goals first
    | with_reducible (first | exact h | assumption | refine Same.ite (fun _ => ?_) (fun _ => ?_)
                            | refine Same.ofSnd (by assumption) ?_ | refine Same.ofFst (by assumption) ?_)
    | split | dsimp only | with_reducible refine Same.upd_keep ?_)

theorem State.updFrame_same_keep {σ : List Host.Cell} {s : State} (h : Same State.keep σ s) (n : Nat) (g : Frame → Frame) :
    Same State.keep σ (State.updFrame s n g) := by
  unfold State.updFrame
  iterate 40 (try any_goals first
    | with_reducible (first | exact h | assumption | apply State.setFrame_same_keep | refine Same.ite (fun _ => ?_) (fun _ => ?_)
                            | refine Same.ofSnd (by assumption) ?_ | refine Same.ofFst (by assumption) ?_)
    | split | dsimp only | with_reducible refine Same.upd_keep ?_)

theorem State.dropFrame_same_keep {σ : List Host.Cell} {s : State} (h : Same State.keep σ s) (n : Nat) :
    Same State.keep σ (State.dropFrame s n) := by
  unfold State.dropFrame
  iterate 40 (try any_goals first
    | with_reducible (first | exact h | assumption | refine Same.ite (fun _ => ?_) (fun _ => ?_)
                            | refine Same.ofSnd (by assumption) ?_ | refine Same.ofFst (by assumption) ?_)
    | split | dsimp only | with_reducible refine Same.upd_keep ?_)

theorem State.setStream_same_keep {σ : List Host.Cell} {s : State} (h : Same State.keep σ s) (n : Nat) (x : Stream) :
    Same State.keep σ (State.setStream s n x) := by
  unfold State.setStream
  iterate 40 (try any_goals first
    | with_reducible (first | exact h | assumption | refine Same.ite (fun _ => ?_) (fun _ => ?_)
                            | refine Same.ofSnd (by assumption) ?_ | refine Same.ofFst (by assumption) ?_)
    | split | dsimp only | with_reducible refine Same.upd_keep ?_)

theorem State.updStream_same_keep {σ : List Host.Cell} {s : State} (h : Same State.keep σ s) (n : Nat) (f : Stream → Stream) :
    Same State.keep σ (State.updStream s n f) := by
  unfold State.updStream
  iterate 40 (try any_goals first
    | with_reducible (first | exact h | assumption | apply State.setStream_same_keep | refine Same.ite (fun _ => ?_) (fun _ => ?_)
                            | refine Same.ofSnd (by assumption) ?_ | refine Same.ofFst (by assumption) ?_)
    | split | dsimp only | with_reducible refine Same.upd_keep ?_)

theorem State.evictFrom_same_keep {σ : List Host.Cell} {s : State} (h : Same State.keep σ s) (l : List Nat) : Same State.keep σ (s.evictFrom l).1 := by
  induction l generalizing s with
  | nil => exact h
  | cons n t ih =>
    unfold State.evictFrom
    split
    · exact ih h
    · split
      · exact Same.upd_keep (State.dropFrame_same_keep h n)
      · exact ih (Same.upd_keep (State.updFrame_same_keep h n _) )

theorem State.evict_same_keep {σ : List Host.Cell} {s : State} (h : Same State.keep σ s) :
    Same State.keep σ (State.evict s).1 := by
  unfold State.evict
  iterate 40 (try any_goals first
    | with_reducible (first | exact h | assumption | apply State.evictFrom_same_keep | refine Same.ite (fun _ => ?_) (fun _ => ?_)
                            | refine Same.ofSnd (by assumption) ?_ | refine Same.ofFst (by assumption) ?_)
    | split | dsimp only | with_reducible refine Same.upd_keep ?_)

theorem State.allocSlot_same_keep {σ : List Host.Cell} {s : State} (h : Same State.keep σ s) (n fuel : Nat) : Same State.keep σ (s.allocSlot n fuel).2 := by
  induction fuel generalizing s with
  | zero => exact h
  | succ k ih =>
    unfold State.allocSlot
    dsimp only
    split
    · exact h
    · split
      · exact ih (State.evict_same_keep h)
      · exact State.evict_same_keep h

theorem State.getSlot_same_keep {σ : List Host.Cell} {s : State} (h : Same State.keep σ s) (r : ArrayRec) :
    Same State.keep σ (State.getSlot s r).2 := by
  unfold State.getSlot
  iterate 40 (try any_goals first
    | with_reducible (first | exact h | assumption | apply State.allocSlot_same_keep | refine Same.ite (fun _ => ?_) (fun _ => ?_)
                            | refine Same.ofSnd (by assumption) ?_ | refine Same.ofFst (by assumption) ?_)
    | split | dsimp only | with_reducible refine Same.upd_keep ?_)

theorem State.newFrame_same_keep {σ : List Host.Cell} {s : State} (h : Same State.keep σ s) (a stripe vol : Nat) :
    Same State.keep σ (State.newFrame s a stripe vol).2 := by
  unfold State.newFrame
  iterate 40 (try any_goals first
    | with_reducible (first | exact h | assumption | apply State.setFrame_same_keep | apply State.evict_same_keep
                            | refine Same.ite (fun _ => ?_) (fun _ => ?_) | refine Same.ofSnd (by assumption) ?_
                            | refine Same.ofFst (by assumption) ?_)
    | split | dsimp only | with_reducible refine Same.upd_keep ?_)

theorem State.toReady_same_keep {σ : List Host.Cell} {s : State} (h : Same State.keep σ s) (n cls : Nat) :
    Same State.keep σ (State.toReady s n cls) := by
  unfold State.toReady
  iterate 40 (try any_goals first
    | with_reducible (first | exact h | assumption | apply State.setFrame_same_keep | refine Same.ite (fun _ => ?_) (fun _ => ?_)
                            | refine Same.ofSnd (by assumption) ?_ | refine Same.ofFst (by assumption) ?_)
    | split | dsimp only | with_reducible refine Same.upd_keep ?_)

theorem State.pressTake_same_keep {σ : List Host.Cell} {s : State} (h : Same State.keep σ s) (n : Nat) : Same State.keep σ (s.pressTake n) := by
  induction n generalizing s with
  | zero => exact h
  | succ n ih =>
    unfold State.pressTake
    refine Same.ite (fun _ => h) (fun _ => ?_)
    split
    · exact ih (State.toReady_same_keep h _ _)
    · exact h

theorem State.pressure_same_keep {σ : List Host.Cell} {s : State} (h : Same State.keep σ s) :
    Same State.keep σ (State.pressure s) := by
  unfold State.pressure
  iterate 40 (try any_goals first
    | with_reducible (first | exact h | assumption | apply State.setFlag_same_keep | apply State.pressTake_same_keep
                            | refine Same.ite (fun _ => ?_) (fun _ => ?_) | refine Same.ofSnd (by assumption) ?_
                            | refine Same.ofFst (by assumption) ?_)
    | split | dsimp only | with_reducible refine Same.upd_keep ?_)

theorem State.slotJoin_same_keep {σ : List Host.Cell} {s : State} (h : Same State.keep σ s) (h0 k : Nat) :
    Same State.keep σ (State.slotJoin s h0 k) := by
  unfold State.slotJoin
  iterate 40 (try any_goals first
    | with_reducible (first | exact h | assumption | apply State.bump_same_keep | refine Same.ite (fun _ => ?_) (fun _ => ?_)
                            | refine Same.ofSnd (by assumption) ?_ | refine Same.ofFst (by assumption) ?_)
    | split | dsimp only | with_reducible refine Same.upd_keep ?_)

theorem State.stopJoin_same_keep {σ : List Host.Cell} {s : State} (h : Same State.keep σ s) (h0 k a stripe : Nat) :
    Same State.keep σ (State.stopJoin s h0 k a stripe) := by
  unfold State.stopJoin
  iterate 40 (try any_goals first
    | with_reducible (first | exact h | assumption | refine Same.ite (fun _ => ?_) (fun _ => ?_)
                            | refine Same.ofSnd (by assumption) ?_ | refine Same.ofFst (by assumption) ?_)
    | split | dsimp only | with_reducible refine Same.upd_keep ?_)

theorem State.moveWait_same_keep {σ : List Host.Cell} {s : State} (h : Same State.keep σ s) (h0 k a stripe : Nat) :
    Same State.keep σ (State.moveWait s h0 k a stripe) := by
  unfold State.moveWait
  iterate 40 (try any_goals first
    | with_reducible (first | exact h | assumption | apply State.slotJoin_same_keep | apply State.stopJoin_same_keep
                            | refine Same.ite (fun _ => ?_) (fun _ => ?_) | refine Same.ofSnd (by assumption) ?_
                            | refine Same.ofFst (by assumption) ?_)
    | split | dsimp only | with_reducible refine Same.upd_keep ?_)

theorem State.tlMove_same_keep {σ : List Host.Cell} {s : State} (h : Same State.keep σ s) (i : Nat) :
    Same State.keep σ (State.tlMove s i) := by
  unfold State.tlMove
  iterate 40 (try any_goals first
    | with_reducible (first | exact h | assumption | refine Same.ite (fun _ => ?_) (fun _ => ?_)
                            | refine Same.ofSnd (by assumption) ?_ | refine Same.ofFst (by assumption) ?_)
    | split | dsimp only | with_reducible refine Same.upd_keep ?_)

theorem State.tlOver_same_keep {σ : List Host.Cell} {s : State} (h : Same State.keep σ s) :
    Same State.keep σ (State.tlOver s) := by
  unfold State.tlOver
  iterate 40 (try any_goals first
    | with_reducible (first | exact h | assumption | apply State.bump_same_keep | apply State.noteD_same_keep
                            | apply State.setFlag_same_keep | refine Same.ite (fun _ => ?_) (fun _ => ?_)
                            | refine Same.ofSnd (by assumption) ?_ | refine Same.ofFst (by assumption) ?_)
    | split | dsimp only | with_reducible refine Same.upd_keep ?_)

theorem State.tlRelease_same_keep {σ : List Host.Cell} {s : State} (h : Same State.keep σ s) (h0 : Nat) :
    Same State.keep σ (State.tlRelease s h0) := by
  unfold State.tlRelease
  iterate 40 (try any_goals first
    | with_reducible (first | exact h | assumption | apply State.tlOver_same_keep
                            | refine Same.ite (fun _ => ?_) (fun _ => ?_) | refine Same.ofSnd (by assumption) ?_
                            | refine Same.ofFst (by assumption) ?_)
    | split | dsimp only | with_reducible refine Same.upd_keep ?_)

theorem State.tlReserve_same_keep {σ : List Host.Cell} {s : State} (h : Same State.keep σ s) (h : Nat) (blks : List Nat) :
    Same State.keep σ (State.tlReserve s h blks) := by
  unfold State.tlReserve
  iterate 40 (try any_goals first
    | with_reducible (first | exact h | assumption | apply State.bump_same_keep | refine Same.ite (fun _ => ?_) (fun _ => ?_)
                            | refine Same.ofSnd (by assumption) ?_ | refine Same.ofFst (by assumption) ?_)
    | split | dsimp only | with_reducible refine Same.upd_keep ?_)

theorem State.tlSpend_same_keep {σ : List Host.Cell} {s : State} (h : Same State.keep σ s) (h blk : Nat) :
    Same State.keep σ (State.tlSpend s h blk) := by
  unfold State.tlSpend
  iterate 40 (try any_goals first
    | with_reducible (first | exact h | assumption | refine Same.ite (fun _ => ?_) (fun _ => ?_)
                            | refine Same.ofSnd (by assumption) ?_ | refine Same.ofFst (by assumption) ?_)
    | split | dsimp only | with_reducible refine Same.upd_keep ?_)

theorem State.tlAsk_same_keep {σ : List Host.Cell} {s : State} (h : Same State.keep σ s) (h : Nat) (blks : List Nat) (alone : Bool) :
    Same State.keep σ (State.tlAsk s h blks alone).2 := by
  unfold State.tlAsk
  iterate 40 (try any_goals first
    | with_reducible (first | exact h | assumption | apply State.bump_same_keep | apply State.tlReserve_same_keep
                            | refine Same.ite (fun _ => ?_) (fun _ => ?_) | refine Same.ofSnd (by assumption) ?_
                            | refine Same.ofFst (by assumption) ?_)
    | split | dsimp only | with_reducible refine Same.upd_keep ?_)

theorem State.tlLost_same_keep {σ : List Host.Cell} {s : State} (h : Same State.keep σ s) (wheel pack : Bool) :
    Same State.keep σ (State.tlLost s wheel pack) := by
  unfold State.tlLost
  exact Same.ite (fun _ => State.note_same_keep (Same.ite (fun _ => State.note_same_keep h _ _ _ _) fun _ => h) _ _ _ _)
    (fun _ => Same.ite (fun _ => State.note_same_keep h _ _ _ _) fun _ => h)

theorem State.tlRecompute_same_keep {σ : List Host.Cell} {s : State} (h : Same State.keep σ s) :
    Same State.keep σ (State.tlRecompute s) := by
  unfold State.tlRecompute
  iterate 40 (try any_goals first
    | with_reducible (first | exact h | assumption | apply State.setReg_same_keep | apply State.setFld_same_keep
                            | apply State.setFlag_same_keep | apply State.setReg64_same_keep | apply State.note_same_keep
                            | apply State.tlMove_same_keep | apply State.tlOver_same_keep | apply State.tlLost_same_keep
                            | apply Same.foldl | apply Same.foldlSnd | apply Same.foldlFst
                            | refine Same.ite (fun _ => ?_) (fun _ => ?_) | refine Same.ofSnd (by assumption) ?_
                            | refine Same.ofFst (by assumption) ?_)
    | intro _ _ _ | split | dsimp only | with_reducible refine Same.upd_keep ?_)

theorem State.frameFor_same_keep {σ : List Host.Cell} {s : State} (h : Same State.keep σ s) (a stripe vol : Nat) :
    Same State.keep σ (State.frameFor s a stripe vol).2 := by
  unfold State.frameFor
  iterate 40 (try any_goals first
    | with_reducible (first | exact h | assumption | apply State.newFrame_same_keep | refine Same.ite (fun _ => ?_) (fun _ => ?_)
                            | refine Same.ofSnd (by assumption) ?_ | refine Same.ofFst (by assumption) ?_)
    | split | dsimp only | with_reducible refine Same.upd_keep ?_)

theorem State.slotFor_same_keep {σ : List Host.Cell} {s : State} (h : Same State.keep σ s) (n : Nat) (r : ArrayRec) (i : Nat) :
    Same State.keep σ (State.slotFor s n r i).2 := by
  unfold State.slotFor
  iterate 40 (try any_goals first
    | with_reducible (first | exact h | assumption | apply State.bump_same_keep | apply State.getSlot_same_keep
                            | refine Same.ite (fun _ => ?_) (fun _ => ?_) | refine Same.ofSnd (by assumption) ?_
                            | refine Same.ofFst (by assumption) ?_)
    | split | dsimp only | with_reducible refine Same.upd_keep ?_)

theorem State.putBlock_same_keep {σ : List Host.Cell} {s : State} (h : Same State.keep σ s) (a stripe vol i o st : Nat) (r : ArrayRec) (data : List Byte) :
    Same State.keep σ (State.putBlock s a stripe vol i o st r data).2 := by
  unfold State.putBlock
  iterate 40 (try any_goals first
    | with_reducible (first | exact h | assumption | apply State.memPut_same_keep | apply State.updFrame_same_keep
                            | apply State.dropFrame_same_keep | apply State.newFrame_same_keep | apply State.toReady_same_keep
                            | apply State.frameFor_same_keep | apply State.slotFor_same_keep
                            | refine Same.ite (fun _ => ?_) (fun _ => ?_) | refine Same.ofSnd (by assumption) ?_
                            | refine Same.ofFst (by assumption) ?_)
    | split | dsimp only | with_reducible refine Same.upd_keep ?_)

theorem State.markWt_same_keep {σ : List Host.Cell} {s : State} (h : Same State.keep σ s) (l : List (Nat × Nat)) :
    Same State.keep σ (State.markWt s l) := by
  unfold State.markWt
  iterate 40 (try any_goals first
    | with_reducible (first | exact h | assumption | apply State.toReady_same_keep | apply State.updFrame_same_keep | apply Same.foldl
                            | apply Same.foldlSnd | apply Same.foldlFst | refine Same.ite (fun _ => ?_) (fun _ => ?_)
                            | refine Same.ofSnd (by assumption) ?_ | refine Same.ofFst (by assumption) ?_)
    | intro _ _ _ | split | dsimp only | with_reducible refine Same.upd_keep ?_)

theorem State.goWt_same_keep {σ : List Host.Cell} {s : State} (h : Same State.keep σ s) (h : Nat) :
    Same State.keep σ (State.goWt s h) := by
  unfold State.goWt
  iterate 40 (try any_goals first
    | with_reducible (first | exact h | assumption | apply State.markWt_same_keep | apply State.setCmd_same_keep
                            | refine Same.ite (fun _ => ?_) (fun _ => ?_) | refine Same.ofSnd (by assumption) ?_
                            | refine Same.ofFst (by assumption) ?_)
    | split | dsimp only | with_reducible refine Same.upd_keep ?_)

theorem State.refuse_same_keep {σ : List Host.Cell} {s : State} (h : Same State.keep σ s) (h0 : Nat) :
    Same State.keep σ (State.refuse s h0) := by
  unfold State.refuse
  iterate 40 (try any_goals first
    | with_reducible (first | exact h | assumption | apply State.updStream_same_keep | apply State.goWt_same_keep
                            | apply Same.foldl | apply Same.foldlSnd | apply Same.foldlFst
                            | refine Same.ite (fun _ => ?_) (fun _ => ?_) | refine Same.ofSnd (by assumption) ?_
                            | refine Same.ofFst (by assumption) ?_)
    | intro _ _ _ | split | dsimp only | with_reducible refine Same.upd_keep ?_)

theorem State.noteFrame_same_keep {σ : List Host.Cell} {s : State} (h : Same State.keep σ s) (h n : Nat) :
    Same State.keep σ (State.noteFrame s h n) := by
  unfold State.noteFrame
  iterate 40 (try any_goals first
    | with_reducible (first | exact h | assumption | apply State.markWt_same_keep | apply State.setCmd_same_keep
                            | refine Same.ite (fun _ => ?_) (fun _ => ?_) | refine Same.ofSnd (by assumption) ?_
                            | refine Same.ofFst (by assumption) ?_)
    | split | dsimp only | with_reducible refine Same.upd_keep ?_)

theorem State.blockState_same_keep {σ : List Host.Cell} {s : State} (h : Same State.keep σ s) (h0 k old : Nat) :
    Same State.keep σ (State.blockState s h0 k old).2 := by
  unfold State.blockState
  iterate 40 (try any_goals first
    | with_reducible (first | exact h | assumption | apply State.tlAsk_same_keep | apply State.refuse_same_keep
                            | refine Same.ite (fun _ => ?_) (fun _ => ?_) | refine Same.ofSnd (by assumption) ?_
                            | refine Same.ofFst (by assumption) ?_)
    | split | dsimp only | with_reducible refine Same.upd_keep ?_)

theorem State.moveAt_same_keep {σ : List Host.Cell} {s : State} (h : Same State.keep σ s) (h0 k v : Nat) (p : Place) (data : List Byte) :
    Same State.keep σ (State.moveAt s h0 k v p data).2 := by
  unfold State.moveAt
  iterate 40 (try any_goals first
    | with_reducible (first | exact h | assumption | apply State.pressure_same_keep | apply State.tlSpend_same_keep
                            | apply State.putBlock_same_keep | apply State.noteFrame_same_keep
                            | apply State.blockState_same_keep | refine Same.ite (fun _ => ?_) (fun _ => ?_)
                            | refine Same.ofSnd (by assumption) ?_ | refine Same.ofFst (by assumption) ?_)
    | split | dsimp only | with_reducible refine Same.upd_keep ?_)

theorem State.writeEnd_same_keep {σ : List Host.Cell} {s : State} (h : Same State.keep σ s) (h : Nat) :
    Same State.keep σ (State.writeEnd s h) := by
  unfold State.writeEnd
  iterate 40 (try any_goals first
    | with_reducible (first | exact h | assumption | apply State.finish_same_keep | apply State.finishSt_same_keep
                            | apply State.setCmd_same_keep | apply State.tlRelease_same_keep
                            | refine Same.ite (fun _ => ?_) (fun _ => ?_) | refine Same.ofSnd (by assumption) ?_
                            | refine Same.ofFst (by assumption) ?_)
    | split | dsimp only | with_reducible refine Same.upd_keep ?_)

theorem State.moveBlk_same_keep {σ : List Host.Cell} {s : State} (h : Same State.keep σ s) (h0 k : Nat) :
    Same State.keep σ (State.moveBlk s h0 k) := by
  unfold State.moveBlk
  iterate 40 (try any_goals first
    | with_reducible (first | exact h | assumption | apply State.updCmd_same_keep | apply State.moveWait_same_keep
                            | apply State.moveAt_same_keep | apply State.writeEnd_same_keep
                            | refine Same.ite (fun _ => ?_) (fun _ => ?_) | refine Same.ofSnd (by assumption) ?_
                            | refine Same.ofFst (by assumption) ?_)
    | split | dsimp only | with_reducible refine Same.upd_keep ?_)

theorem State.appendEnd_same_keep {σ : List Host.Cell} {s : State} (h : Same State.keep σ s) (c : Cmd) (op : LogOp) :
    Same State.keep σ (State.appendEnd s c op) := by
  unfold State.appendEnd
  iterate 40 (try any_goals first
    | with_reducible (first | exact h | assumption | apply State.bump_same_keep | apply State.finish_same_keep
                            | apply State.updStream_same_keep | refine Same.ite (fun _ => ?_) (fun _ => ?_)
                            | refine Same.ofSnd (by assumption) ?_ | refine Same.ofFst (by assumption) ?_)
    | split | dsimp only | with_reducible refine Same.upd_keep ?_)

theorem State.appendMoved_same_keep {σ : List Host.Cell} {s : State} (h : Same State.keep σ s) (h0 : Nat) :
    Same State.keep σ (State.appendMoved s h0) := by
  unfold State.appendMoved
  iterate 40 (try any_goals first
    | with_reducible (first | exact h | assumption | apply State.setCmd_same_keep | apply State.finishSt_same_keep
                            | apply State.updStream_same_keep | apply State.tlRelease_same_keep
                            | apply State.appendEnd_same_keep | refine Same.ite (fun _ => ?_) (fun _ => ?_)
                            | refine Same.ofSnd (by assumption) ?_ | refine Same.ofFst (by assumption) ?_)
    | split | dsimp only | with_reducible refine Same.upd_keep ?_)

theorem State.appendBlk_same_keep {σ : List Host.Cell} {s : State} (h : Same State.keep σ s) (h0 : Nat) (op : LogOp) (payload : List Byte) (k : Nat) :
    Same State.keep σ (State.appendBlk s h0 op payload k) := by
  unfold State.appendBlk
  iterate 40 (try any_goals first
    | with_reducible (first | exact h | assumption | apply State.updCmd_same_keep | apply State.updFrame_same_keep
                            | apply State.moveWait_same_keep | apply State.moveAt_same_keep
                            | refine Same.ite (fun _ => ?_) (fun _ => ?_) | refine Same.ofSnd (by assumption) ?_
                            | refine Same.ofFst (by assumption) ?_)
    | split | dsimp only | with_reducible refine Same.upd_keep ?_)

theorem State.appendMove_same_keep {σ : List Host.Cell} {s : State} (h : Same State.keep σ s) (h0 : Nat) :
    Same State.keep σ (State.appendMove s h0) := by
  unfold State.appendMove
  iterate 40 (try any_goals first
    | with_reducible (first | exact h | assumption | apply State.appendMoved_same_keep | apply State.appendBlk_same_keep
                            | apply Same.foldl | apply Same.foldlSnd | apply Same.foldlFst
                            | refine Same.ite (fun _ => ?_) (fun _ => ?_) | refine Same.ofSnd (by assumption) ?_
                            | refine Same.ofFst (by assumption) ?_)
    | intro _ _ _ | split | dsimp only | with_reducible refine Same.upd_keep ?_)

theorem State.appendSettled_same_keep {σ : List Host.Cell} {s : State} (h : Same State.keep σ s) (h0 : Nat) :
    Same State.keep σ (State.appendSettled s h0) := by
  unfold State.appendSettled
  iterate 40 (try any_goals first
    | with_reducible (first | exact h | assumption | apply State.updCmd_same_keep | apply State.appendMove_same_keep
                            | refine Same.ite (fun _ => ?_) (fun _ => ?_) | refine Same.ofSnd (by assumption) ?_
                            | refine Same.ofFst (by assumption) ?_)
    | split | dsimp only | with_reducible refine Same.upd_keep ?_)

theorem State.appendCredit_same_keep {σ : List Host.Cell} {s : State} (h : Same State.keep σ s) (h0 : Nat) (ok : Bool) :
    Same State.keep σ (State.appendCredit s h0 ok) := by
  unfold State.appendCredit
  iterate 40 (try any_goals first
    | with_reducible (first | exact h | assumption | apply State.refuse_same_keep | apply State.appendSettled_same_keep
                            | refine Same.ite (fun _ => ?_) (fun _ => ?_) | refine Same.ofSnd (by assumption) ?_
                            | refine Same.ofFst (by assumption) ?_)
    | split | dsimp only | with_reducible refine Same.upd_keep ?_)

theorem State.writeGo_same_keep {σ : List Host.Cell} {s : State} (h : Same State.keep σ s) (h : Nat) :
    Same State.keep σ (State.writeGo s h) := by
  unfold State.writeGo
  iterate 40 (try any_goals first
    | with_reducible (first | exact h | assumption | apply State.moveBlk_same_keep | apply State.setCmd_same_keep
                            | apply State.tryRead_same_keep | apply State.writeEnd_same_keep | apply Same.foldl | apply Same.foldlSnd
                            | apply Same.foldlFst | refine Same.ite (fun _ => ?_) (fun _ => ?_) | refine Same.ofSnd (by assumption) ?_
                            | refine Same.ofFst (by assumption) ?_)
    | intro _ _ _ | split | dsimp only | with_reducible refine Same.upd_keep ?_)

theorem State.tlAnswer_same_keep {σ : List Host.Cell} {s : State} (h : Same State.keep σ s) (q : TReq) (ok : Bool) :
    Same State.keep σ (State.tlAnswer s q ok) := by
  unfold State.tlAnswer
  iterate 40 (try any_goals first
    | with_reducible (first | exact h | assumption | apply State.updCmd_same_keep | apply State.tlRelease_same_keep
                            | apply State.tlReserve_same_keep | apply State.goWt_same_keep | apply State.refuse_same_keep
                            | apply State.moveBlk_same_keep | apply State.appendMove_same_keep
                            | apply State.appendCredit_same_keep | apply State.writeGo_same_keep | apply Same.foldl
                            | apply Same.foldlSnd | apply Same.foldlFst | refine Same.ite (fun _ => ?_) (fun _ => ?_)
                            | refine Same.ofSnd (by assumption) ?_ | refine Same.ofFst (by assumption) ?_)
    | intro _ _ _ | split | dsimp only | with_reducible refine Same.upd_keep ?_)

theorem State.tlRefuseAll_same_keep {σ : List Host.Cell} {s : State} (h : Same State.keep σ s) :
    Same State.keep σ (State.tlRefuseAll s) := by
  unfold State.tlRefuseAll
  iterate 40 (try any_goals first
    | with_reducible (first | exact h | assumption | apply State.bump_same_keep | apply State.tlAnswer_same_keep | apply Same.foldl
                            | apply Same.foldlSnd | apply Same.foldlFst | refine Same.ite (fun _ => ?_) (fun _ => ?_)
                            | refine Same.ofSnd (by assumption) ?_ | refine Same.ofFst (by assumption) ?_)
    | intro _ _ _ | split | dsimp only | with_reducible refine Same.upd_keep ?_)

theorem State.tlUpdate_same_keep {σ : List Host.Cell} {s : State} (h : Same State.keep σ s) :
    Same State.keep σ (State.tlUpdate s) := by
  unfold State.tlUpdate
  iterate 40 (try any_goals first
    | with_reducible (first | exact h | assumption | apply State.pressure_same_keep | apply State.tlRecompute_same_keep
                            | apply State.tlRefuseAll_same_keep | refine Same.ite (fun _ => ?_) (fun _ => ?_)
                            | refine Same.ofSnd (by assumption) ?_ | refine Same.ofFst (by assumption) ?_)
    | split | dsimp only | with_reducible refine Same.upd_keep ?_)

theorem State.gaRecode_same_keep {σ : List Host.Cell} {s : State} (h : Same State.keep σ s) :
    Same State.keep σ (State.gaRecode s) := by
  unfold State.gaRecode
  iterate 40 (try any_goals first
    | with_reducible (first | exact h | assumption | apply State.setReg_same_keep | apply State.setFld_same_keep
                            | apply State.setFlag_same_keep | apply State.tlUpdate_same_keep
                            | refine Same.ite (fun _ => ?_) (fun _ => ?_) | refine Same.ofSnd (by assumption) ?_
                            | refine Same.ofFst (by assumption) ?_)
    | split | dsimp only | with_reducible refine Same.upd_keep ?_)

theorem State.kwAfter_same_keep {σ : List Host.Cell} {s : State} (h : Same State.keep σ s) (k : Nat) :
    Same State.keep σ (State.kwAfter s k) := by
  unfold State.kwAfter
  iterate 40 (try any_goals first
    | with_reducible (first | exact h | assumption | apply State.vcoreGo_same_keep | apply State.tlUpdate_same_keep
                            | apply State.gaRecode_same_keep | refine Same.ite (fun _ => ?_) (fun _ => ?_)
                            | refine Same.ofSnd (by assumption) ?_ | refine Same.ofFst (by assumption) ?_)
    | split | dsimp only | with_reducible refine Same.upd_keep ?_)

theorem State.setReg_same_kp {σ : KeepSt} {s : State} (h : Same State.kp σ s) (k v : Nat) : Same State.kp σ (s.setReg k v) := h

theorem State.setFld_same_kp {σ : KeepSt} {s : State} (h : Same State.kp σ s) (k hi lo v : Nat) :
    Same State.kp σ (State.setFld s k hi lo v) := by
  unfold State.setFld
  iterate 40 (try any_goals first
    | with_reducible (first | exact h | assumption | apply State.setReg_same_kp | refine Same.ite (fun _ => ?_) (fun _ => ?_)
                            | refine Same.ofSnd (by assumption) ?_ | refine Same.ofFst (by assumption) ?_)
    | split | dsimp only | with_reducible refine Same.upd_kp ?_)

theorem State.setFlag_same_kp {σ : KeepSt} {s : State} (h : Same State.kp σ s) (k i : Nat) (b : Bool) :
    Same State.kp σ (State.setFlag s k i b) := by
  unfold State.setFlag
  iterate 40 (try any_goals first
    | with_reducible (first | exact h | assumption | apply State.setFld_same_kp | refine Same.ite (fun _ => ?_) (fun _ => ?_)
                            | refine Same.ofSnd (by assumption) ?_ | refine Same.ofFst (by assumption) ?_)
    | split | dsimp only | with_reducible refine Same.upd_kp ?_)

theorem State.bumpN_same_kp {σ : KeepSt} {s : State} (h : Same State.kp σ s) (k n : Nat) :
    Same State.kp σ (State.bumpN s k n) := by
  unfold State.bumpN
  iterate 40 (try any_goals first
    | with_reducible (first | exact h | assumption | apply State.setReg_same_kp | refine Same.ite (fun _ => ?_) (fun _ => ?_)
                            | refine Same.ofSnd (by assumption) ?_ | refine Same.ofFst (by assumption) ?_)
    | split | dsimp only | with_reducible refine Same.upd_kp ?_)

theorem State.bump_same_kp {σ : KeepSt} {s : State} (h : Same State.kp σ s) (k : Nat) :
    Same State.kp σ (State.bump s k) := by
  unfold State.bump
  iterate 40 (try any_goals first
    | with_reducible (first | exact h | assumption | apply State.bumpN_same_kp | refine Same.ite (fun _ => ?_) (fun _ => ?_)
                            | refine Same.ofSnd (by assumption) ?_ | refine Same.ofFst (by assumption) ?_)
    | split | dsimp only | with_reducible refine Same.upd_kp ?_)

theorem State.setReg64_same_kp {σ : KeepSt} {s : State} (h : Same State.kp σ s) (lo v : Nat) :
    Same State.kp σ (State.setReg64 s lo v) := by
  unfold State.setReg64
  iterate 40 (try any_goals first
    | with_reducible (first | exact h | assumption | apply State.setReg_same_kp | refine Same.ite (fun _ => ?_) (fun _ => ?_)
                            | refine Same.ofSnd (by assumption) ?_ | refine Same.ofFst (by assumption) ?_)
    | split | dsimp only | with_reducible refine Same.upd_kp ?_)

theorem State.clearRegs_same_kp {σ : KeepSt} {s : State} (h : Same State.kp σ s) (a b c d e : Bool) : Same State.kp σ (s.clearRegs a b c d e) := h

theorem State.memPut_same_kp {σ : KeepSt} {s : State} (h : Same State.kp σ s) (a : Nat) (bs : List Byte) : Same State.kp σ (s.memPut a bs) := h

theorem State.deposit_same_kp {σ : KeepSt} {s : State} (h : Same State.kp σ s) (rank : Nat) (d : Deposit) :
    Same State.kp σ (State.deposit s rank d) := by
  unfold State.deposit
  iterate 40 (try any_goals first
    | with_reducible (first | exact h | assumption | refine Same.ite (fun _ => ?_) (fun _ => ?_)
                            | refine Same.ofSnd (by assumption) ?_ | refine Same.ofFst (by assumption) ?_)
    | split | dsimp only | with_reducible refine Same.upd_kp ?_)

theorem State.noteD_same_kp {σ : KeepSt} {s : State} (h : Same State.kp σ s) (unit value sev arg detail amount : Nat) :
    Same State.kp σ (State.noteD s unit value sev arg detail amount) := by
  unfold State.noteD
  iterate 40 (try any_goals first
    | with_reducible (first | exact h | assumption | apply State.deposit_same_kp | apply State.note_same_kp
                            | refine Same.ite (fun _ => ?_) (fun _ => ?_) | refine Same.ofSnd (by assumption) ?_
                            | refine Same.ofFst (by assumption) ?_)
    | split | dsimp only | with_reducible refine Same.upd_kp ?_)

theorem State.note_same_kp {σ : KeepSt} {s : State} (h : Same State.kp σ s) (unit value sev arg : Nat) :
    Same State.kp σ (State.note s unit value sev arg) := by
  unfold State.note
  iterate 40 (try any_goals first
    | with_reducible (first | exact h | assumption | apply State.noteD_same_kp | refine Same.ite (fun _ => ?_) (fun _ => ?_)
                            | refine Same.ofSnd (by assumption) ?_ | refine Same.ofFst (by assumption) ?_)
    | split | dsimp only | with_reducible refine Same.upd_kp ?_)

theorem State.vcoreGo_same_kp {σ : KeepSt} {s : State} (h : Same State.kp σ s) (code : Nat) :
    Same State.kp σ (State.vcoreGo s code) := by
  unfold State.vcoreGo
  iterate 40 (try any_goals first
    | with_reducible (first | exact h | assumption | apply State.setFld_same_kp | refine Same.ite (fun _ => ?_) (fun _ => ?_)
                            | refine Same.ofSnd (by assumption) ?_ | refine Same.ofFst (by assumption) ?_)
    | split | dsimp only | with_reducible refine Same.upd_kp ?_)

theorem State.tryRead_same_kp {σ : KeepSt} {s : State} (h : Same State.kp σ s) (q : RdReq) : Same State.kp σ (s.tryRead q) := by
  unfold State.tryRead
  split
  · exact h
  · split
    · exact Same.upd_kp h
    · exact Same.upd_kp h

theorem State.setCmd_same_kp {σ : KeepSt} {s : State} (h : Same State.kp σ s) (c : Cmd) :
    Same State.kp σ (State.setCmd s c) := by
  unfold State.setCmd
  iterate 40 (try any_goals first
    | with_reducible (first | exact h | assumption | refine Same.ite (fun _ => ?_) (fun _ => ?_)
                            | refine Same.ofSnd (by assumption) ?_ | refine Same.ofFst (by assumption) ?_)
    | split | dsimp only | with_reducible refine Same.upd_kp ?_)

theorem State.updCmd_same_kp {σ : KeepSt} {s : State} (h : Same State.kp σ s) (h : Nat) (f : Cmd → Cmd) :
    Same State.kp σ (State.updCmd s h f) := by
  unfold State.updCmd
  iterate 40 (try any_goals first
    | with_reducible (first | exact h | assumption | refine Same.ite (fun _ => ?_) (fun _ => ?_)
                            | refine Same.ofSnd (by assumption) ?_ | refine Same.ofFst (by assumption) ?_)
    | split | dsimp only | with_reducible refine Same.upd_kp ?_)

theorem State.arrEnded_same_kp {σ : KeepSt} {s : State} (h : Same State.kp σ s) (c : Cmd) :
    Same State.kp σ (State.arrEnded s c) := by
  unfold State.arrEnded
  iterate 40 (try any_goals first
    | with_reducible (first | exact h | assumption | refine Same.ite (fun _ => ?_) (fun _ => ?_)
                            | refine Same.ofSnd (by assumption) ?_ | refine Same.ofFst (by assumption) ?_)
    | split | dsimp only | with_reducible refine Same.upd_kp ?_)

theorem State.dropCmd_same_kp {σ : KeepSt} {s : State} (h : Same State.kp σ s) (c : Cmd) :
    Same State.kp σ (State.dropCmd s c) := by
  unfold State.dropCmd
  iterate 40 (try any_goals first
    | with_reducible (first | exact h | assumption | apply State.arrEnded_same_kp | refine Same.ite (fun _ => ?_) (fun _ => ?_)
                            | refine Same.ofSnd (by assumption) ?_ | refine Same.ofFst (by assumption) ?_)
    | split | dsimp only | with_reducible refine Same.upd_kp ?_)

theorem State.markIdle_same_kp {σ : KeepSt} {s : State} (h : Same State.kp σ s) :
    Same State.kp σ (State.markIdle s) := by
  unfold State.markIdle
  iterate 40 (try any_goals first
    | with_reducible (first | exact h | assumption | refine Same.ite (fun _ => ?_) (fun _ => ?_)
                            | refine Same.ofSnd (by assumption) ?_ | refine Same.ofFst (by assumption) ?_)
    | split | dsimp only | with_reducible refine Same.upd_kp ?_)

theorem State.finish_same_kp {σ : KeepSt} {s : State} (h : Same State.kp σ s) (rank : Nat) (c : Cmd) :
    Same State.kp σ (State.finish s rank c) := by
  unfold State.finish
  iterate 40 (try any_goals first
    | with_reducible (first | exact h | assumption | apply State.arrEnded_same_kp | apply State.deposit_same_kp
                            | apply State.dropCmd_same_kp | apply State.markIdle_same_kp | refine Same.ite (fun _ => ?_) (fun _ => ?_)
                            | refine Same.ofSnd (by assumption) ?_ | refine Same.ofFst (by assumption) ?_)
    | split | dsimp only | with_reducible refine Same.upd_kp ?_)

theorem State.finishSt_same_kp {σ : KeepSt} {s : State} (h : Same State.kp σ s) (rank : Nat) (c : Cmd) (status : Nat) :
    Same State.kp σ (State.finishSt s rank c status) := by
  unfold State.finishSt
  iterate 40 (try any_goals first
    | with_reducible (first | exact h | assumption | apply State.finish_same_kp | refine Same.ite (fun _ => ?_) (fun _ => ?_)
                            | refine Same.ofSnd (by assumption) ?_ | refine Same.ofFst (by assumption) ?_)
    | split | dsimp only | with_reducible refine Same.upd_kp ?_)

theorem State.unclaim_same_kp {σ : KeepSt} {s : State} (h : Same State.kp σ s) (owner : Nat) :
    Same State.kp σ (State.unclaim s owner) := by
  unfold State.unclaim
  iterate 40 (try any_goals first
    | with_reducible (first | exact h | assumption | refine Same.ite (fun _ => ?_) (fun _ => ?_)
                            | refine Same.ofSnd (by assumption) ?_ | refine Same.ofFst (by assumption) ?_)
    | split | dsimp only | with_reducible refine Same.upd_kp ?_)

theorem State.loomDrop_same_kp {σ : KeepSt} {s : State} (h : Same State.kp σ s) (p : LJob → Bool) :
    Same State.kp σ (State.loomDrop s p) := by
  unfold State.loomDrop
  iterate 40 (try any_goals first
    | with_reducible (first | exact h | assumption | refine Same.ite (fun _ => ?_) (fun _ => ?_)
                            | refine Same.ofSnd (by assumption) ?_ | refine Same.ofFst (by assumption) ?_)
    | split | dsimp only | with_reducible refine Same.upd_kp ?_)

theorem State.loomCancel_same_kp {σ : KeepSt} {s : State} (h : Same State.kp σ s) (t : Nat) :
    Same State.kp σ (State.loomCancel s t) := by
  unfold State.loomCancel
  iterate 40 (try any_goals first
    | with_reducible (first | exact h | assumption | apply State.setReg_same_kp | refine Same.ite (fun _ => ?_) (fun _ => ?_)
                            | refine Same.ofSnd (by assumption) ?_ | refine Same.ofFst (by assumption) ?_)
    | split | dsimp only | with_reducible refine Same.upd_kp ?_)

theorem State.setFrame_same_kp {σ : KeepSt} {s : State} (h : Same State.kp σ s) (n : Nat) (f : Frame) :
    Same State.kp σ (State.setFrame s n f) := by
  unfold State.setFrame
  iterate 40 (try any_goals first
    | with_reducible (first | exact h | assumption | refine Same.ite (fun _ => ?_) (fun _ => ?_)
                            | refine Same.ofSnd (by assumption) ?_ | refine Same.ofFst (by assumption) ?_)
    | split | dsimp only | with_reducible refine Same.upd_kp ?_)

theorem State.updFrame_same_kp {σ : KeepSt} {s : State} (h : Same State.kp σ s) (n : Nat) (g : Frame → Frame) :
    Same State.kp σ (State.updFrame s n g) := by
  unfold State.updFrame
  iterate 40 (try any_goals first
    | with_reducible (first | exact h | assumption | apply State.setFrame_same_kp | refine Same.ite (fun _ => ?_) (fun _ => ?_)
                            | refine Same.ofSnd (by assumption) ?_ | refine Same.ofFst (by assumption) ?_)
    | split | dsimp only | with_reducible refine Same.upd_kp ?_)

theorem State.dropFrame_same_kp {σ : KeepSt} {s : State} (h : Same State.kp σ s) (n : Nat) :
    Same State.kp σ (State.dropFrame s n) := by
  unfold State.dropFrame
  iterate 40 (try any_goals first
    | with_reducible (first | exact h | assumption | refine Same.ite (fun _ => ?_) (fun _ => ?_)
                            | refine Same.ofSnd (by assumption) ?_ | refine Same.ofFst (by assumption) ?_)
    | split | dsimp only | with_reducible refine Same.upd_kp ?_)

theorem State.setStream_same_kp {σ : KeepSt} {s : State} (h : Same State.kp σ s) (n : Nat) (x : Stream) :
    Same State.kp σ (State.setStream s n x) := by
  unfold State.setStream
  iterate 40 (try any_goals first
    | with_reducible (first | exact h | assumption | refine Same.ite (fun _ => ?_) (fun _ => ?_)
                            | refine Same.ofSnd (by assumption) ?_ | refine Same.ofFst (by assumption) ?_)
    | split | dsimp only | with_reducible refine Same.upd_kp ?_)

theorem State.updStream_same_kp {σ : KeepSt} {s : State} (h : Same State.kp σ s) (n : Nat) (f : Stream → Stream) :
    Same State.kp σ (State.updStream s n f) := by
  unfold State.updStream
  iterate 40 (try any_goals first
    | with_reducible (first | exact h | assumption | apply State.setStream_same_kp | refine Same.ite (fun _ => ?_) (fun _ => ?_)
                            | refine Same.ofSnd (by assumption) ?_ | refine Same.ofFst (by assumption) ?_)
    | split | dsimp only | with_reducible refine Same.upd_kp ?_)

theorem State.evictFrom_same_kp {σ : KeepSt} {s : State} (h : Same State.kp σ s) (l : List Nat) : Same State.kp σ (s.evictFrom l).1 := by
  induction l generalizing s with
  | nil => exact h
  | cons n t ih =>
    unfold State.evictFrom
    split
    · exact ih h
    · split
      · exact Same.upd_kp (State.dropFrame_same_kp h n)
      · exact ih (Same.upd_kp (State.updFrame_same_kp h n _) )

theorem State.evict_same_kp {σ : KeepSt} {s : State} (h : Same State.kp σ s) :
    Same State.kp σ (State.evict s).1 := by
  unfold State.evict
  iterate 40 (try any_goals first
    | with_reducible (first | exact h | assumption | apply State.evictFrom_same_kp | refine Same.ite (fun _ => ?_) (fun _ => ?_)
                            | refine Same.ofSnd (by assumption) ?_ | refine Same.ofFst (by assumption) ?_)
    | split | dsimp only | with_reducible refine Same.upd_kp ?_)

theorem State.allocSlot_same_kp {σ : KeepSt} {s : State} (h : Same State.kp σ s) (n fuel : Nat) : Same State.kp σ (s.allocSlot n fuel).2 := by
  induction fuel generalizing s with
  | zero => exact h
  | succ k ih =>
    unfold State.allocSlot
    dsimp only
    split
    · exact h
    · split
      · exact ih (State.evict_same_kp h)
      · exact State.evict_same_kp h

theorem State.getSlot_same_kp {σ : KeepSt} {s : State} (h : Same State.kp σ s) (r : ArrayRec) :
    Same State.kp σ (State.getSlot s r).2 := by
  unfold State.getSlot
  iterate 40 (try any_goals first
    | with_reducible (first | exact h | assumption | apply State.allocSlot_same_kp | refine Same.ite (fun _ => ?_) (fun _ => ?_)
                            | refine Same.ofSnd (by assumption) ?_ | refine Same.ofFst (by assumption) ?_)
    | split | dsimp only | with_reducible refine Same.upd_kp ?_)

theorem State.newFrame_same_kp {σ : KeepSt} {s : State} (h : Same State.kp σ s) (a stripe vol : Nat) :
    Same State.kp σ (State.newFrame s a stripe vol).2 := by
  unfold State.newFrame
  iterate 40 (try any_goals first
    | with_reducible (first | exact h | assumption | apply State.setFrame_same_kp | apply State.evict_same_kp
                            | refine Same.ite (fun _ => ?_) (fun _ => ?_) | refine Same.ofSnd (by assumption) ?_
                            | refine Same.ofFst (by assumption) ?_)
    | split | dsimp only | with_reducible refine Same.upd_kp ?_)

theorem State.toReady_same_kp {σ : KeepSt} {s : State} (h : Same State.kp σ s) (n cls : Nat) :
    Same State.kp σ (State.toReady s n cls) := by
  unfold State.toReady
  iterate 40 (try any_goals first
    | with_reducible (first | exact h | assumption | apply State.setFrame_same_kp | refine Same.ite (fun _ => ?_) (fun _ => ?_)
                            | refine Same.ofSnd (by assumption) ?_ | refine Same.ofFst (by assumption) ?_)
    | split | dsimp only | with_reducible refine Same.upd_kp ?_)

theorem State.pressTake_same_kp {σ : KeepSt} {s : State} (h : Same State.kp σ s) (n : Nat) : Same State.kp σ (s.pressTake n) := by
  induction n generalizing s with
  | zero => exact h
  | succ n ih =>
    unfold State.pressTake
    refine Same.ite (fun _ => h) (fun _ => ?_)
    split
    · exact ih (State.toReady_same_kp h _ _)
    · exact h

theorem State.pressure_same_kp {σ : KeepSt} {s : State} (h : Same State.kp σ s) :
    Same State.kp σ (State.pressure s) := by
  unfold State.pressure
  iterate 40 (try any_goals first
    | with_reducible (first | exact h | assumption | apply State.setFlag_same_kp | apply State.pressTake_same_kp
                            | refine Same.ite (fun _ => ?_) (fun _ => ?_) | refine Same.ofSnd (by assumption) ?_
                            | refine Same.ofFst (by assumption) ?_)
    | split | dsimp only | with_reducible refine Same.upd_kp ?_)

theorem State.slotJoin_same_kp {σ : KeepSt} {s : State} (h : Same State.kp σ s) (h0 k : Nat) :
    Same State.kp σ (State.slotJoin s h0 k) := by
  unfold State.slotJoin
  iterate 40 (try any_goals first
    | with_reducible (first | exact h | assumption | apply State.bump_same_kp | refine Same.ite (fun _ => ?_) (fun _ => ?_)
                            | refine Same.ofSnd (by assumption) ?_ | refine Same.ofFst (by assumption) ?_)
    | split | dsimp only | with_reducible refine Same.upd_kp ?_)

theorem State.stopJoin_same_kp {σ : KeepSt} {s : State} (h : Same State.kp σ s) (h0 k a stripe : Nat) :
    Same State.kp σ (State.stopJoin s h0 k a stripe) := by
  unfold State.stopJoin
  iterate 40 (try any_goals first
    | with_reducible (first | exact h | assumption | refine Same.ite (fun _ => ?_) (fun _ => ?_)
                            | refine Same.ofSnd (by assumption) ?_ | refine Same.ofFst (by assumption) ?_)
    | split | dsimp only | with_reducible refine Same.upd_kp ?_)

theorem State.moveWait_same_kp {σ : KeepSt} {s : State} (h : Same State.kp σ s) (h0 k a stripe : Nat) :
    Same State.kp σ (State.moveWait s h0 k a stripe) := by
  unfold State.moveWait
  iterate 40 (try any_goals first
    | with_reducible (first | exact h | assumption | apply State.slotJoin_same_kp | apply State.stopJoin_same_kp
                            | refine Same.ite (fun _ => ?_) (fun _ => ?_) | refine Same.ofSnd (by assumption) ?_
                            | refine Same.ofFst (by assumption) ?_)
    | split | dsimp only | with_reducible refine Same.upd_kp ?_)

theorem State.tlMove_same_kp {σ : KeepSt} {s : State} (h : Same State.kp σ s) (i : Nat) :
    Same State.kp σ (State.tlMove s i) := by
  unfold State.tlMove
  iterate 40 (try any_goals first
    | with_reducible (first | exact h | assumption | refine Same.ite (fun _ => ?_) (fun _ => ?_)
                            | refine Same.ofSnd (by assumption) ?_ | refine Same.ofFst (by assumption) ?_)
    | split | dsimp only | with_reducible refine Same.upd_kp ?_)

theorem State.tlOver_same_kp {σ : KeepSt} {s : State} (h : Same State.kp σ s) :
    Same State.kp σ (State.tlOver s) := by
  unfold State.tlOver
  iterate 40 (try any_goals first
    | with_reducible (first | exact h | assumption | apply State.bump_same_kp | apply State.noteD_same_kp | apply State.setFlag_same_kp
                            | refine Same.ite (fun _ => ?_) (fun _ => ?_) | refine Same.ofSnd (by assumption) ?_
                            | refine Same.ofFst (by assumption) ?_)
    | split | dsimp only | with_reducible refine Same.upd_kp ?_)

theorem State.tlRelease_same_kp {σ : KeepSt} {s : State} (h : Same State.kp σ s) (h0 : Nat) :
    Same State.kp σ (State.tlRelease s h0) := by
  unfold State.tlRelease
  iterate 40 (try any_goals first
    | with_reducible (first | exact h | assumption | apply State.tlOver_same_kp | refine Same.ite (fun _ => ?_) (fun _ => ?_)
                            | refine Same.ofSnd (by assumption) ?_ | refine Same.ofFst (by assumption) ?_)
    | split | dsimp only | with_reducible refine Same.upd_kp ?_)

theorem State.tlReserve_same_kp {σ : KeepSt} {s : State} (h : Same State.kp σ s) (h : Nat) (blks : List Nat) :
    Same State.kp σ (State.tlReserve s h blks) := by
  unfold State.tlReserve
  iterate 40 (try any_goals first
    | with_reducible (first | exact h | assumption | apply State.bump_same_kp | refine Same.ite (fun _ => ?_) (fun _ => ?_)
                            | refine Same.ofSnd (by assumption) ?_ | refine Same.ofFst (by assumption) ?_)
    | split | dsimp only | with_reducible refine Same.upd_kp ?_)

theorem State.tlSpend_same_kp {σ : KeepSt} {s : State} (h : Same State.kp σ s) (h blk : Nat) :
    Same State.kp σ (State.tlSpend s h blk) := by
  unfold State.tlSpend
  iterate 40 (try any_goals first
    | with_reducible (first | exact h | assumption | refine Same.ite (fun _ => ?_) (fun _ => ?_)
                            | refine Same.ofSnd (by assumption) ?_ | refine Same.ofFst (by assumption) ?_)
    | split | dsimp only | with_reducible refine Same.upd_kp ?_)

theorem State.tlAsk_same_kp {σ : KeepSt} {s : State} (h : Same State.kp σ s) (h : Nat) (blks : List Nat) (alone : Bool) :
    Same State.kp σ (State.tlAsk s h blks alone).2 := by
  unfold State.tlAsk
  iterate 40 (try any_goals first
    | with_reducible (first | exact h | assumption | apply State.bump_same_kp | apply State.tlReserve_same_kp
                            | refine Same.ite (fun _ => ?_) (fun _ => ?_) | refine Same.ofSnd (by assumption) ?_
                            | refine Same.ofFst (by assumption) ?_)
    | split | dsimp only | with_reducible refine Same.upd_kp ?_)

theorem State.tlLost_same_kp {σ : KeepSt} {s : State} (h : Same State.kp σ s) (wheel pack : Bool) :
    Same State.kp σ (State.tlLost s wheel pack) := by
  unfold State.tlLost
  exact Same.ite (fun _ => State.note_same_kp (Same.ite (fun _ => State.note_same_kp h _ _ _ _) fun _ => h) _ _ _ _)
    (fun _ => Same.ite (fun _ => State.note_same_kp h _ _ _ _) fun _ => h)

theorem State.tlRecompute_same_kp {σ : KeepSt} {s : State} (h : Same State.kp σ s) :
    Same State.kp σ (State.tlRecompute s) := by
  unfold State.tlRecompute
  iterate 40 (try any_goals first
    | with_reducible (first | exact h | assumption | apply State.setReg_same_kp | apply State.setFld_same_kp
                            | apply State.setFlag_same_kp | apply State.setReg64_same_kp | apply State.note_same_kp
                            | apply State.tlMove_same_kp | apply State.tlOver_same_kp | apply State.tlLost_same_kp
                            | apply Same.foldl | apply Same.foldlSnd | apply Same.foldlFst
                            | refine Same.ite (fun _ => ?_) (fun _ => ?_) | refine Same.ofSnd (by assumption) ?_
                            | refine Same.ofFst (by assumption) ?_)
    | intro _ _ _ | split | dsimp only | with_reducible refine Same.upd_kp ?_)

theorem State.markPool_same_kp {σ : KeepSt} {s : State} (h : Same State.kp σ s) :
    Same State.kp σ (State.markPool s) := by
  unfold State.markPool
  iterate 40 (try any_goals first
    | with_reducible (first | exact h | assumption | apply State.setFlag_same_kp | refine Same.ite (fun _ => ?_) (fun _ => ?_)
                            | refine Same.ofSnd (by assumption) ?_ | refine Same.ofFst (by assumption) ?_)
    | split | dsimp only | with_reducible refine Same.upd_kp ?_)

theorem State.haltFunc_same_kp {σ : KeepSt} {s : State} (h : Same State.kp σ s) (f : Func) (st : Nat) :
    Same State.kp σ (State.haltFunc s f st) := by
  unfold State.haltFunc
  iterate 40 (try any_goals first
    | with_reducible (first | exact h | assumption | refine Same.ite (fun _ => ?_) (fun _ => ?_)
                            | refine Same.ofSnd (by assumption) ?_ | refine Same.ofFst (by assumption) ?_)
    | split | dsimp only | with_reducible refine Same.upd_kp ?_)

theorem State.discardComps_same_kp {σ : KeepSt} {s : State} (h : Same State.kp σ s) (p : Func → Nat → Bool) :
    Same State.kp σ (State.discardComps s p).2 := by
  unfold State.discardComps
  iterate 40 (try any_goals first
    | with_reducible (first | exact h | assumption | apply State.markPool_same_kp | apply State.note_same_kp
                            | refine Same.ite (fun _ => ?_) (fun _ => ?_) | refine Same.ofSnd (by assumption) ?_
                            | refine Same.ofFst (by assumption) ?_)
    | split | dsimp only | with_reducible refine Same.upd_kp ?_)

theorem State.frameFor_same_kp {σ : KeepSt} {s : State} (h : Same State.kp σ s) (a stripe vol : Nat) :
    Same State.kp σ (State.frameFor s a stripe vol).2 := by
  unfold State.frameFor
  iterate 40 (try any_goals first
    | with_reducible (first | exact h | assumption | apply State.newFrame_same_kp | refine Same.ite (fun _ => ?_) (fun _ => ?_)
                            | refine Same.ofSnd (by assumption) ?_ | refine Same.ofFst (by assumption) ?_)
    | split | dsimp only | with_reducible refine Same.upd_kp ?_)

theorem State.slotFor_same_kp {σ : KeepSt} {s : State} (h : Same State.kp σ s) (n : Nat) (r : ArrayRec) (i : Nat) :
    Same State.kp σ (State.slotFor s n r i).2 := by
  unfold State.slotFor
  iterate 40 (try any_goals first
    | with_reducible (first | exact h | assumption | apply State.bump_same_kp | apply State.getSlot_same_kp
                            | refine Same.ite (fun _ => ?_) (fun _ => ?_) | refine Same.ofSnd (by assumption) ?_
                            | refine Same.ofFst (by assumption) ?_)
    | split | dsimp only | with_reducible refine Same.upd_kp ?_)

theorem State.putBlock_same_kp {σ : KeepSt} {s : State} (h : Same State.kp σ s) (a stripe vol i o st : Nat) (r : ArrayRec) (data : List Byte) :
    Same State.kp σ (State.putBlock s a stripe vol i o st r data).2 := by
  unfold State.putBlock
  iterate 40 (try any_goals first
    | with_reducible (first | exact h | assumption | apply State.memPut_same_kp | apply State.updFrame_same_kp
                            | apply State.dropFrame_same_kp | apply State.newFrame_same_kp | apply State.toReady_same_kp
                            | apply State.frameFor_same_kp | apply State.slotFor_same_kp
                            | refine Same.ite (fun _ => ?_) (fun _ => ?_) | refine Same.ofSnd (by assumption) ?_
                            | refine Same.ofFst (by assumption) ?_)
    | split | dsimp only | with_reducible refine Same.upd_kp ?_)

theorem State.markWt_same_kp {σ : KeepSt} {s : State} (h : Same State.kp σ s) (l : List (Nat × Nat)) :
    Same State.kp σ (State.markWt s l) := by
  unfold State.markWt
  iterate 40 (try any_goals first
    | with_reducible (first | exact h | assumption | apply State.toReady_same_kp | apply State.updFrame_same_kp | apply Same.foldl
                            | apply Same.foldlSnd | apply Same.foldlFst | refine Same.ite (fun _ => ?_) (fun _ => ?_)
                            | refine Same.ofSnd (by assumption) ?_ | refine Same.ofFst (by assumption) ?_)
    | intro _ _ _ | split | dsimp only | with_reducible refine Same.upd_kp ?_)

theorem State.goWt_same_kp {σ : KeepSt} {s : State} (h : Same State.kp σ s) (h : Nat) :
    Same State.kp σ (State.goWt s h) := by
  unfold State.goWt
  iterate 40 (try any_goals first
    | with_reducible (first | exact h | assumption | apply State.markWt_same_kp | apply State.setCmd_same_kp
                            | refine Same.ite (fun _ => ?_) (fun _ => ?_) | refine Same.ofSnd (by assumption) ?_
                            | refine Same.ofFst (by assumption) ?_)
    | split | dsimp only | with_reducible refine Same.upd_kp ?_)

theorem State.refuse_same_kp {σ : KeepSt} {s : State} (h : Same State.kp σ s) (h0 : Nat) :
    Same State.kp σ (State.refuse s h0) := by
  unfold State.refuse
  iterate 40 (try any_goals first
    | with_reducible (first | exact h | assumption | apply State.updStream_same_kp | apply State.goWt_same_kp
                            | apply Same.foldl | apply Same.foldlSnd | apply Same.foldlFst
                            | refine Same.ite (fun _ => ?_) (fun _ => ?_) | refine Same.ofSnd (by assumption) ?_
                            | refine Same.ofFst (by assumption) ?_)
    | intro _ _ _ | split | dsimp only | with_reducible refine Same.upd_kp ?_)

theorem State.noteFrame_same_kp {σ : KeepSt} {s : State} (h : Same State.kp σ s) (h n : Nat) :
    Same State.kp σ (State.noteFrame s h n) := by
  unfold State.noteFrame
  iterate 40 (try any_goals first
    | with_reducible (first | exact h | assumption | apply State.markWt_same_kp | apply State.setCmd_same_kp
                            | refine Same.ite (fun _ => ?_) (fun _ => ?_) | refine Same.ofSnd (by assumption) ?_
                            | refine Same.ofFst (by assumption) ?_)
    | split | dsimp only | with_reducible refine Same.upd_kp ?_)

theorem State.giveUp_same_kp {σ : KeepSt} {s : State} (h : Same State.kp σ s) (h0 : Nat) :
    Same State.kp σ (State.giveUp s h0) := by
  unfold State.giveUp
  iterate 40 (try any_goals first
    | with_reducible (first | exact h | assumption | apply State.tlRelease_same_kp
                            | refine Same.ite (fun _ => ?_) (fun _ => ?_) | refine Same.ofSnd (by assumption) ?_
                            | refine Same.ofFst (by assumption) ?_)
    | split | dsimp only | with_reducible refine Same.upd_kp ?_)

theorem State.blockState_same_kp {σ : KeepSt} {s : State} (h : Same State.kp σ s) (h0 k old : Nat) :
    Same State.kp σ (State.blockState s h0 k old).2 := by
  unfold State.blockState
  iterate 40 (try any_goals first
    | with_reducible (first | exact h | assumption | apply State.tlAsk_same_kp | apply State.refuse_same_kp
                            | refine Same.ite (fun _ => ?_) (fun _ => ?_) | refine Same.ofSnd (by assumption) ?_
                            | refine Same.ofFst (by assumption) ?_)
    | split | dsimp only | with_reducible refine Same.upd_kp ?_)

theorem State.moveAt_same_kp {σ : KeepSt} {s : State} (h : Same State.kp σ s) (h0 k v : Nat) (p : Place) (data : List Byte) :
    Same State.kp σ (State.moveAt s h0 k v p data).2 := by
  unfold State.moveAt
  iterate 40 (try any_goals first
    | with_reducible (first | exact h | assumption | apply State.pressure_same_kp | apply State.tlSpend_same_kp
                            | apply State.putBlock_same_kp | apply State.noteFrame_same_kp | apply State.blockState_same_kp
                            | refine Same.ite (fun _ => ?_) (fun _ => ?_) | refine Same.ofSnd (by assumption) ?_
                            | refine Same.ofFst (by assumption) ?_)
    | split | dsimp only | with_reducible refine Same.upd_kp ?_)

theorem State.writeEnd_same_kp {σ : KeepSt} {s : State} (h : Same State.kp σ s) (h : Nat) :
    Same State.kp σ (State.writeEnd s h) := by
  unfold State.writeEnd
  iterate 40 (try any_goals first
    | with_reducible (first | exact h | assumption | apply State.finish_same_kp | apply State.finishSt_same_kp
                            | apply State.setCmd_same_kp | apply State.tlRelease_same_kp | refine Same.ite (fun _ => ?_) (fun _ => ?_)
                            | refine Same.ofSnd (by assumption) ?_ | refine Same.ofFst (by assumption) ?_)
    | split | dsimp only | with_reducible refine Same.upd_kp ?_)

theorem State.moveBlk_same_kp {σ : KeepSt} {s : State} (h : Same State.kp σ s) (h0 k : Nat) :
    Same State.kp σ (State.moveBlk s h0 k) := by
  unfold State.moveBlk
  iterate 40 (try any_goals first
    | with_reducible (first | exact h | assumption | apply State.updCmd_same_kp | apply State.moveWait_same_kp
                            | apply State.moveAt_same_kp | apply State.writeEnd_same_kp
                            | refine Same.ite (fun _ => ?_) (fun _ => ?_) | refine Same.ofSnd (by assumption) ?_
                            | refine Same.ofFst (by assumption) ?_)
    | split | dsimp only | with_reducible refine Same.upd_kp ?_)

theorem State.appendEnd_same_kp {σ : KeepSt} {s : State} (h : Same State.kp σ s) (c : Cmd) (op : LogOp) :
    Same State.kp σ (State.appendEnd s c op) := by
  unfold State.appendEnd
  iterate 40 (try any_goals first
    | with_reducible (first | exact h | assumption | apply State.bump_same_kp | apply State.finish_same_kp
                            | apply State.updStream_same_kp | refine Same.ite (fun _ => ?_) (fun _ => ?_)
                            | refine Same.ofSnd (by assumption) ?_ | refine Same.ofFst (by assumption) ?_)
    | split | dsimp only | with_reducible refine Same.upd_kp ?_)

theorem State.appendMoved_same_kp {σ : KeepSt} {s : State} (h : Same State.kp σ s) (h0 : Nat) :
    Same State.kp σ (State.appendMoved s h0) := by
  unfold State.appendMoved
  iterate 40 (try any_goals first
    | with_reducible (first | exact h | assumption | apply State.setCmd_same_kp | apply State.finishSt_same_kp
                            | apply State.updStream_same_kp | apply State.tlRelease_same_kp | apply State.appendEnd_same_kp
                            | refine Same.ite (fun _ => ?_) (fun _ => ?_) | refine Same.ofSnd (by assumption) ?_
                            | refine Same.ofFst (by assumption) ?_)
    | split | dsimp only | with_reducible refine Same.upd_kp ?_)

theorem State.appendBlk_same_kp {σ : KeepSt} {s : State} (h : Same State.kp σ s) (h0 : Nat) (op : LogOp) (payload : List Byte) (k : Nat) :
    Same State.kp σ (State.appendBlk s h0 op payload k) := by
  unfold State.appendBlk
  iterate 40 (try any_goals first
    | with_reducible (first | exact h | assumption | apply State.updCmd_same_kp | apply State.updFrame_same_kp
                            | apply State.moveWait_same_kp | apply State.moveAt_same_kp
                            | refine Same.ite (fun _ => ?_) (fun _ => ?_) | refine Same.ofSnd (by assumption) ?_
                            | refine Same.ofFst (by assumption) ?_)
    | split | dsimp only | with_reducible refine Same.upd_kp ?_)

theorem State.appendMove_same_kp {σ : KeepSt} {s : State} (h : Same State.kp σ s) (h0 : Nat) :
    Same State.kp σ (State.appendMove s h0) := by
  unfold State.appendMove
  iterate 40 (try any_goals first
    | with_reducible (first | exact h | assumption | apply State.appendMoved_same_kp | apply State.appendBlk_same_kp
                            | apply Same.foldl | apply Same.foldlSnd | apply Same.foldlFst
                            | refine Same.ite (fun _ => ?_) (fun _ => ?_) | refine Same.ofSnd (by assumption) ?_
                            | refine Same.ofFst (by assumption) ?_)
    | intro _ _ _ | split | dsimp only | with_reducible refine Same.upd_kp ?_)

theorem State.appendSettled_same_kp {σ : KeepSt} {s : State} (h : Same State.kp σ s) (h0 : Nat) :
    Same State.kp σ (State.appendSettled s h0) := by
  unfold State.appendSettled
  iterate 40 (try any_goals first
    | with_reducible (first | exact h | assumption | apply State.updCmd_same_kp | apply State.appendMove_same_kp
                            | refine Same.ite (fun _ => ?_) (fun _ => ?_) | refine Same.ofSnd (by assumption) ?_
                            | refine Same.ofFst (by assumption) ?_)
    | split | dsimp only | with_reducible refine Same.upd_kp ?_)

theorem State.appendCredit_same_kp {σ : KeepSt} {s : State} (h : Same State.kp σ s) (h0 : Nat) (ok : Bool) :
    Same State.kp σ (State.appendCredit s h0 ok) := by
  unfold State.appendCredit
  iterate 40 (try any_goals first
    | with_reducible (first | exact h | assumption | apply State.refuse_same_kp | apply State.appendSettled_same_kp
                            | refine Same.ite (fun _ => ?_) (fun _ => ?_) | refine Same.ofSnd (by assumption) ?_
                            | refine Same.ofFst (by assumption) ?_)
    | split | dsimp only | with_reducible refine Same.upd_kp ?_)

theorem State.appendData_same_kp {σ : KeepSt} {s : State} (h : Same State.kp σ s) (h : Nat) (ok : Bool) :
    Same State.kp σ (State.appendData s h ok) := by
  unfold State.appendData
  iterate 40 (try any_goals first
    | with_reducible (first | exact h | assumption | apply State.appendMove_same_kp | apply State.setCmd_same_kp
                            | refine Same.ite (fun _ => ?_) (fun _ => ?_) | refine Same.ofSnd (by assumption) ?_
                            | refine Same.ofFst (by assumption) ?_)
    | split | dsimp only | with_reducible refine Same.upd_kp ?_)

theorem State.writeGo_same_kp {σ : KeepSt} {s : State} (h : Same State.kp σ s) (h : Nat) :
    Same State.kp σ (State.writeGo s h) := by
  unfold State.writeGo
  iterate 40 (try any_goals first
    | with_reducible (first | exact h | assumption | apply State.moveBlk_same_kp | apply State.setCmd_same_kp
                            | apply State.tryRead_same_kp | apply State.writeEnd_same_kp | apply Same.foldl | apply Same.foldlSnd
                            | apply Same.foldlFst | refine Same.ite (fun _ => ?_) (fun _ => ?_) | refine Same.ofSnd (by assumption) ?_
                            | refine Same.ofFst (by assumption) ?_)
    | intro _ _ _ | split | dsimp only | with_reducible refine Same.upd_kp ?_)

theorem State.tlAnswer_same_kp {σ : KeepSt} {s : State} (h : Same State.kp σ s) (q : TReq) (ok : Bool) :
    Same State.kp σ (State.tlAnswer s q ok) := by
  unfold State.tlAnswer
  iterate 40 (try any_goals first
    | with_reducible (first | exact h | assumption | apply State.updCmd_same_kp | apply State.tlRelease_same_kp
                            | apply State.tlReserve_same_kp | apply State.goWt_same_kp | apply State.refuse_same_kp
                            | apply State.moveBlk_same_kp | apply State.appendMove_same_kp | apply State.appendCredit_same_kp
                            | apply State.writeGo_same_kp | apply Same.foldl | apply Same.foldlSnd | apply Same.foldlFst
                            | refine Same.ite (fun _ => ?_) (fun _ => ?_) | refine Same.ofSnd (by assumption) ?_
                            | refine Same.ofFst (by assumption) ?_)
    | intro _ _ _ | split | dsimp only | with_reducible refine Same.upd_kp ?_)

theorem State.tlRefuseAll_same_kp {σ : KeepSt} {s : State} (h : Same State.kp σ s) :
    Same State.kp σ (State.tlRefuseAll s) := by
  unfold State.tlRefuseAll
  iterate 40 (try any_goals first
    | with_reducible (first | exact h | assumption | apply State.bump_same_kp | apply State.tlAnswer_same_kp | apply Same.foldl
                            | apply Same.foldlSnd | apply Same.foldlFst | refine Same.ite (fun _ => ?_) (fun _ => ?_)
                            | refine Same.ofSnd (by assumption) ?_ | refine Same.ofFst (by assumption) ?_)
    | intro _ _ _ | split | dsimp only | with_reducible refine Same.upd_kp ?_)

theorem State.tlUpdate_same_kp {σ : KeepSt} {s : State} (h : Same State.kp σ s) :
    Same State.kp σ (State.tlUpdate s) := by
  unfold State.tlUpdate
  iterate 40 (try any_goals first
    | with_reducible (first | exact h | assumption | apply State.pressure_same_kp | apply State.tlRecompute_same_kp
                            | apply State.tlRefuseAll_same_kp | refine Same.ite (fun _ => ?_) (fun _ => ?_)
                            | refine Same.ofSnd (by assumption) ?_ | refine Same.ofFst (by assumption) ?_)
    | split | dsimp only | with_reducible refine Same.upd_kp ?_)

theorem State.endTask_same_kp {σ : KeepSt} {s : State} (h : Same State.kp σ s) (t : Nat) :
    Same State.kp σ (State.endTask s t) := by
  unfold State.endTask
  iterate 40 (try any_goals first
    | with_reducible (first | exact h | assumption | apply State.loomCancel_same_kp | apply State.loomDrop_same_kp
                            | apply State.unclaim_same_kp | refine Same.ite (fun _ => ?_) (fun _ => ?_)
                            | refine Same.ofSnd (by assumption) ?_ | refine Same.ofFst (by assumption) ?_)
    | split | dsimp only | with_reducible refine Same.upd_kp ?_)

theorem State.gaRecode_same_kp {σ : KeepSt} {s : State} (h : Same State.kp σ s) :
    Same State.kp σ (State.gaRecode s) := by
  unfold State.gaRecode
  iterate 40 (try any_goals first
    | with_reducible (first | exact h | assumption | apply State.setReg_same_kp | apply State.setFld_same_kp
                            | apply State.setFlag_same_kp | apply State.tlUpdate_same_kp
                            | refine Same.ite (fun _ => ?_) (fun _ => ?_) | refine Same.ofSnd (by assumption) ?_
                            | refine Same.ofFst (by assumption) ?_)
    | split | dsimp only | with_reducible refine Same.upd_kp ?_)

theorem State.abortCmd_same_kp {σ : KeepSt} {s : State} (h : Same State.kp σ s) (c : Cmd) :
    Same State.kp σ (State.abortCmd s c) := by
  unfold State.abortCmd
  iterate 40 (try any_goals first
    | with_reducible (first | exact h | assumption | apply State.dropCmd_same_kp | apply State.giveUp_same_kp
                            | apply State.endTask_same_kp | apply Same.foldl | apply Same.foldlSnd | apply Same.foldlFst
                            | refine Same.ite (fun _ => ?_) (fun _ => ?_) | refine Same.ofSnd (by assumption) ?_
                            | refine Same.ofFst (by assumption) ?_)
    | intro _ _ _ | split | dsimp only | with_reducible refine Same.upd_kp ?_)

theorem State.stopCmd_same_kp {σ : KeepSt} {s : State} (h : Same State.kp σ s) (c : Cmd) :
    Same State.kp σ (State.stopCmd s c) := by
  unfold State.stopCmd
  iterate 40 (try any_goals first
    | with_reducible (first | exact h | assumption | apply State.abortCmd_same_kp | apply State.appendData_same_kp
                            | refine Same.ite (fun _ => ?_) (fun _ => ?_) | refine Same.ofSnd (by assumption) ?_
                            | refine Same.ofFst (by assumption) ?_)
    | split | dsimp only | with_reducible refine Same.upd_kp ?_)

theorem State.hostStop_same_kp {σ : KeepSt} {s : State} (h : Same State.kp σ s) (f : Func) (st : Nat) (flr : Bool) :
    Same State.kp σ (State.hostStop s f st flr) := by
  unfold State.hostStop
  iterate 40 (try any_goals first
    | with_reducible (first | exact h | assumption | apply State.discardComps_same_kp | apply State.haltFunc_same_kp
                            | apply State.markIdle_same_kp | apply State.stopCmd_same_kp | apply Same.foldl | apply Same.foldlSnd
                            | apply Same.foldlFst | refine Same.ite (fun _ => ?_) (fun _ => ?_) | refine Same.ofSnd (by assumption) ?_
                            | refine Same.ofFst (by assumption) ?_)
    | intro _ _ _ | split | dsimp only | with_reducible refine Same.upd_kp ?_)

theorem State.ringsReset_same_kp {σ : KeepSt} {s : State} (h : Same State.kp σ s) (f : Func) :
    Same State.kp σ (State.ringsReset s f) := by
  unfold State.ringsReset
  iterate 40 (try any_goals first
    | with_reducible (first | exact h | assumption | apply State.discardComps_same_kp | refine Same.ite (fun _ => ?_) (fun _ => ?_)
                            | refine Same.ofSnd (by assumption) ?_ | refine Same.ofFst (by assumption) ?_)
    | split | dsimp only | with_reducible refine Same.upd_kp ?_)

theorem State.cfgReset_same_kp {σ : KeepSt} {s : State} (h : Same State.kp σ s) (f : Func) (flr : Bool) :
    Same State.kp σ (State.cfgReset s f flr) := by
  unfold State.cfgReset
  iterate 40 (try any_goals first
    | with_reducible (first | exact h | assumption | apply State.setFlag_same_kp | apply State.setFld_same_kp
                            | refine Same.ite (fun _ => ?_) (fun _ => ?_) | refine Same.ofSnd (by assumption) ?_
                            | refine Same.ofFst (by assumption) ?_)
    | split | dsimp only | with_reducible refine Same.upd_kp ?_)

theorem State.routeReset_same_kp {σ : KeepSt} {s : State} (h : Same State.kp σ s) :
    Same State.kp σ (State.routeReset s) := by
  unfold State.routeReset
  iterate 40 (try any_goals first
    | with_reducible (first | exact h | assumption | refine Same.ite (fun _ => ?_) (fun _ => ?_)
                            | refine Same.ofSnd (by assumption) ?_ | refine Same.ofFst (by assumption) ?_)
    | split | dsimp only | with_reducible refine Same.upd_kp ?_)

theorem State.readsDrop_same_kp {σ : KeepSt} {s : State} (h : Same State.kp σ s) :
    Same State.kp σ (State.readsDrop s) := by
  unfold State.readsDrop
  iterate 40 (try any_goals first
    | with_reducible (first | exact h | assumption | refine Same.ite (fun _ => ?_) (fun _ => ?_)
                            | refine Same.ofSnd (by assumption) ?_ | refine Same.ofFst (by assumption) ?_)
    | split | dsimp only | with_reducible refine Same.upd_kp ?_)

theorem State.hostReset_same_kp {σ : KeepSt} {s : State} (h : Same State.kp σ s) :
    Same State.kp σ (State.hostReset s) := by
  unfold State.hostReset
  iterate 40 (try any_goals first
    | with_reducible (first | exact h | assumption | apply State.setFlag_same_kp | apply State.clearRegs_same_kp
                            | apply State.hostStop_same_kp | apply State.ringsReset_same_kp | apply State.cfgReset_same_kp
                            | apply State.routeReset_same_kp | apply State.readsDrop_same_kp
                            | refine Same.ite (fun _ => ?_) (fun _ => ?_) | refine Same.ofSnd (by assumption) ?_
                            | refine Same.ofFst (by assumption) ?_)
    | split | dsimp only | with_reducible refine Same.upd_kp ?_)

theorem State.kwAfter_same_kp {σ : KeepSt} {s : State} (h : Same State.kp σ s) (k : Nat) :
    Same State.kp σ (State.kwAfter s k) := by
  unfold State.kwAfter
  iterate 40 (try any_goals first
    | with_reducible (first | exact h | assumption | apply State.vcoreGo_same_kp | apply State.tlUpdate_same_kp
                            | apply State.gaRecode_same_kp | refine Same.ite (fun _ => ?_) (fun _ => ?_)
                            | refine Same.ofSnd (by assumption) ?_ | refine Same.ofFst (by assumption) ?_)
    | split | dsimp only | with_reducible refine Same.upd_kp ?_)

theorem State.setReg_same_pw {σ : Power} {s : State} (h : Same State.pw σ s) (k v : Nat) : Same State.pw σ (s.setReg k v) := h

theorem State.setFld_same_pw {σ : Power} {s : State} (h : Same State.pw σ s) (k hi lo v : Nat) :
    Same State.pw σ (State.setFld s k hi lo v) := by
  unfold State.setFld
  iterate 40 (try any_goals first
    | with_reducible (first | exact h | assumption | apply State.setReg_same_pw | refine Same.ite (fun _ => ?_) (fun _ => ?_)
                            | refine Same.ofSnd (by assumption) ?_ | refine Same.ofFst (by assumption) ?_)
    | split | dsimp only | with_reducible refine Same.upd_pw ?_)

theorem State.setFlag_same_pw {σ : Power} {s : State} (h : Same State.pw σ s) (k i : Nat) (b : Bool) :
    Same State.pw σ (State.setFlag s k i b) := by
  unfold State.setFlag
  iterate 40 (try any_goals first
    | with_reducible (first | exact h | assumption | apply State.setFld_same_pw | refine Same.ite (fun _ => ?_) (fun _ => ?_)
                            | refine Same.ofSnd (by assumption) ?_ | refine Same.ofFst (by assumption) ?_)
    | split | dsimp only | with_reducible refine Same.upd_pw ?_)

theorem State.bumpN_same_pw {σ : Power} {s : State} (h : Same State.pw σ s) (k n : Nat) :
    Same State.pw σ (State.bumpN s k n) := by
  unfold State.bumpN
  iterate 40 (try any_goals first
    | with_reducible (first | exact h | assumption | apply State.setReg_same_pw | refine Same.ite (fun _ => ?_) (fun _ => ?_)
                            | refine Same.ofSnd (by assumption) ?_ | refine Same.ofFst (by assumption) ?_)
    | split | dsimp only | with_reducible refine Same.upd_pw ?_)

theorem State.bump_same_pw {σ : Power} {s : State} (h : Same State.pw σ s) (k : Nat) :
    Same State.pw σ (State.bump s k) := by
  unfold State.bump
  iterate 40 (try any_goals first
    | with_reducible (first | exact h | assumption | apply State.bumpN_same_pw | refine Same.ite (fun _ => ?_) (fun _ => ?_)
                            | refine Same.ofSnd (by assumption) ?_ | refine Same.ofFst (by assumption) ?_)
    | split | dsimp only | with_reducible refine Same.upd_pw ?_)

theorem State.setReg64_same_pw {σ : Power} {s : State} (h : Same State.pw σ s) (lo v : Nat) :
    Same State.pw σ (State.setReg64 s lo v) := by
  unfold State.setReg64
  iterate 40 (try any_goals first
    | with_reducible (first | exact h | assumption | apply State.setReg_same_pw | refine Same.ite (fun _ => ?_) (fun _ => ?_)
                            | refine Same.ofSnd (by assumption) ?_ | refine Same.ofFst (by assumption) ?_)
    | split | dsimp only | with_reducible refine Same.upd_pw ?_)

theorem State.clearRegs_same_pw {σ : Power} {s : State} (h : Same State.pw σ s) (a b c d e : Bool) : Same State.pw σ (s.clearRegs a b c d e) := h

theorem State.memPut_same_pw {σ : Power} {s : State} (h : Same State.pw σ s) (a : Nat) (bs : List Byte) : Same State.pw σ (s.memPut a bs) := h

theorem State.deposit_same_pw {σ : Power} {s : State} (h : Same State.pw σ s) (rank : Nat) (d : Deposit) :
    Same State.pw σ (State.deposit s rank d) := by
  unfold State.deposit
  iterate 40 (try any_goals first
    | with_reducible (first | exact h | assumption | refine Same.ite (fun _ => ?_) (fun _ => ?_)
                            | refine Same.ofSnd (by assumption) ?_ | refine Same.ofFst (by assumption) ?_)
    | split | dsimp only | with_reducible refine Same.upd_pw ?_)

theorem State.noteD_same_pw {σ : Power} {s : State} (h : Same State.pw σ s) (unit value sev arg detail amount : Nat) :
    Same State.pw σ (State.noteD s unit value sev arg detail amount) := by
  unfold State.noteD
  iterate 40 (try any_goals first
    | with_reducible (first | exact h | assumption | apply State.deposit_same_pw | apply State.note_same_pw
                            | refine Same.ite (fun _ => ?_) (fun _ => ?_) | refine Same.ofSnd (by assumption) ?_
                            | refine Same.ofFst (by assumption) ?_)
    | split | dsimp only | with_reducible refine Same.upd_pw ?_)

theorem State.note_same_pw {σ : Power} {s : State} (h : Same State.pw σ s) (unit value sev arg : Nat) :
    Same State.pw σ (State.note s unit value sev arg) := by
  unfold State.note
  iterate 40 (try any_goals first
    | with_reducible (first | exact h | assumption | apply State.noteD_same_pw | refine Same.ite (fun _ => ?_) (fun _ => ?_)
                            | refine Same.ofSnd (by assumption) ?_ | refine Same.ofFst (by assumption) ?_)
    | split | dsimp only | with_reducible refine Same.upd_pw ?_)

theorem State.tryRead_same_pw {σ : Power} {s : State} (h : Same State.pw σ s) (q : RdReq) : Same State.pw σ (s.tryRead q) := by
  unfold State.tryRead
  split
  · exact h
  · split
    · exact Same.upd_pw h
    · exact Same.upd_pw h

theorem State.setCmd_same_pw {σ : Power} {s : State} (h : Same State.pw σ s) (c : Cmd) :
    Same State.pw σ (State.setCmd s c) := by
  unfold State.setCmd
  iterate 40 (try any_goals first
    | with_reducible (first | exact h | assumption | refine Same.ite (fun _ => ?_) (fun _ => ?_)
                            | refine Same.ofSnd (by assumption) ?_ | refine Same.ofFst (by assumption) ?_)
    | split | dsimp only | with_reducible refine Same.upd_pw ?_)

theorem State.updCmd_same_pw {σ : Power} {s : State} (h : Same State.pw σ s) (h : Nat) (f : Cmd → Cmd) :
    Same State.pw σ (State.updCmd s h f) := by
  unfold State.updCmd
  iterate 40 (try any_goals first
    | with_reducible (first | exact h | assumption | refine Same.ite (fun _ => ?_) (fun _ => ?_)
                            | refine Same.ofSnd (by assumption) ?_ | refine Same.ofFst (by assumption) ?_)
    | split | dsimp only | with_reducible refine Same.upd_pw ?_)

theorem State.arrEnded_same_pw {σ : Power} {s : State} (h : Same State.pw σ s) (c : Cmd) :
    Same State.pw σ (State.arrEnded s c) := by
  unfold State.arrEnded
  iterate 40 (try any_goals first
    | with_reducible (first | exact h | assumption | refine Same.ite (fun _ => ?_) (fun _ => ?_)
                            | refine Same.ofSnd (by assumption) ?_ | refine Same.ofFst (by assumption) ?_)
    | split | dsimp only | with_reducible refine Same.upd_pw ?_)

theorem State.dropCmd_same_pw {σ : Power} {s : State} (h : Same State.pw σ s) (c : Cmd) :
    Same State.pw σ (State.dropCmd s c) := by
  unfold State.dropCmd
  iterate 40 (try any_goals first
    | with_reducible (first | exact h | assumption | apply State.arrEnded_same_pw | refine Same.ite (fun _ => ?_) (fun _ => ?_)
                            | refine Same.ofSnd (by assumption) ?_ | refine Same.ofFst (by assumption) ?_)
    | split | dsimp only | with_reducible refine Same.upd_pw ?_)

theorem State.markIdle_same_pw {σ : Power} {s : State} (h : Same State.pw σ s) :
    Same State.pw σ (State.markIdle s) := by
  unfold State.markIdle
  iterate 40 (try any_goals first
    | with_reducible (first | exact h | assumption | refine Same.ite (fun _ => ?_) (fun _ => ?_)
                            | refine Same.ofSnd (by assumption) ?_ | refine Same.ofFst (by assumption) ?_)
    | split | dsimp only | with_reducible refine Same.upd_pw ?_)

theorem State.finish_same_pw {σ : Power} {s : State} (h : Same State.pw σ s) (rank : Nat) (c : Cmd) :
    Same State.pw σ (State.finish s rank c) := by
  unfold State.finish
  iterate 40 (try any_goals first
    | with_reducible (first | exact h | assumption | apply State.arrEnded_same_pw | apply State.deposit_same_pw
                            | apply State.dropCmd_same_pw | apply State.markIdle_same_pw | refine Same.ite (fun _ => ?_) (fun _ => ?_)
                            | refine Same.ofSnd (by assumption) ?_ | refine Same.ofFst (by assumption) ?_)
    | split | dsimp only | with_reducible refine Same.upd_pw ?_)

theorem State.finishSt_same_pw {σ : Power} {s : State} (h : Same State.pw σ s) (rank : Nat) (c : Cmd) (status : Nat) :
    Same State.pw σ (State.finishSt s rank c status) := by
  unfold State.finishSt
  iterate 40 (try any_goals first
    | with_reducible (first | exact h | assumption | apply State.finish_same_pw | refine Same.ite (fun _ => ?_) (fun _ => ?_)
                            | refine Same.ofSnd (by assumption) ?_ | refine Same.ofFst (by assumption) ?_)
    | split | dsimp only | with_reducible refine Same.upd_pw ?_)

theorem State.unclaim_same_pw {σ : Power} {s : State} (h : Same State.pw σ s) (owner : Nat) :
    Same State.pw σ (State.unclaim s owner) := by
  unfold State.unclaim
  iterate 40 (try any_goals first
    | with_reducible (first | exact h | assumption | refine Same.ite (fun _ => ?_) (fun _ => ?_)
                            | refine Same.ofSnd (by assumption) ?_ | refine Same.ofFst (by assumption) ?_)
    | split | dsimp only | with_reducible refine Same.upd_pw ?_)

theorem State.loomDrop_same_pw {σ : Power} {s : State} (h : Same State.pw σ s) (p : LJob → Bool) :
    Same State.pw σ (State.loomDrop s p) := by
  unfold State.loomDrop
  iterate 40 (try any_goals first
    | with_reducible (first | exact h | assumption | refine Same.ite (fun _ => ?_) (fun _ => ?_)
                            | refine Same.ofSnd (by assumption) ?_ | refine Same.ofFst (by assumption) ?_)
    | split | dsimp only | with_reducible refine Same.upd_pw ?_)

theorem State.loomCancel_same_pw {σ : Power} {s : State} (h : Same State.pw σ s) (t : Nat) :
    Same State.pw σ (State.loomCancel s t) := by
  unfold State.loomCancel
  iterate 40 (try any_goals first
    | with_reducible (first | exact h | assumption | apply State.setReg_same_pw | refine Same.ite (fun _ => ?_) (fun _ => ?_)
                            | refine Same.ofSnd (by assumption) ?_ | refine Same.ofFst (by assumption) ?_)
    | split | dsimp only | with_reducible refine Same.upd_pw ?_)

theorem State.setFrame_same_pw {σ : Power} {s : State} (h : Same State.pw σ s) (n : Nat) (f : Frame) :
    Same State.pw σ (State.setFrame s n f) := by
  unfold State.setFrame
  iterate 40 (try any_goals first
    | with_reducible (first | exact h | assumption | refine Same.ite (fun _ => ?_) (fun _ => ?_)
                            | refine Same.ofSnd (by assumption) ?_ | refine Same.ofFst (by assumption) ?_)
    | split | dsimp only | with_reducible refine Same.upd_pw ?_)

theorem State.updFrame_same_pw {σ : Power} {s : State} (h : Same State.pw σ s) (n : Nat) (g : Frame → Frame) :
    Same State.pw σ (State.updFrame s n g) := by
  unfold State.updFrame
  iterate 40 (try any_goals first
    | with_reducible (first | exact h | assumption | apply State.setFrame_same_pw | refine Same.ite (fun _ => ?_) (fun _ => ?_)
                            | refine Same.ofSnd (by assumption) ?_ | refine Same.ofFst (by assumption) ?_)
    | split | dsimp only | with_reducible refine Same.upd_pw ?_)

theorem State.dropFrame_same_pw {σ : Power} {s : State} (h : Same State.pw σ s) (n : Nat) :
    Same State.pw σ (State.dropFrame s n) := by
  unfold State.dropFrame
  iterate 40 (try any_goals first
    | with_reducible (first | exact h | assumption | refine Same.ite (fun _ => ?_) (fun _ => ?_)
                            | refine Same.ofSnd (by assumption) ?_ | refine Same.ofFst (by assumption) ?_)
    | split | dsimp only | with_reducible refine Same.upd_pw ?_)

theorem State.setStream_same_pw {σ : Power} {s : State} (h : Same State.pw σ s) (n : Nat) (x : Stream) :
    Same State.pw σ (State.setStream s n x) := by
  unfold State.setStream
  iterate 40 (try any_goals first
    | with_reducible (first | exact h | assumption | refine Same.ite (fun _ => ?_) (fun _ => ?_)
                            | refine Same.ofSnd (by assumption) ?_ | refine Same.ofFst (by assumption) ?_)
    | split | dsimp only | with_reducible refine Same.upd_pw ?_)

theorem State.updStream_same_pw {σ : Power} {s : State} (h : Same State.pw σ s) (n : Nat) (f : Stream → Stream) :
    Same State.pw σ (State.updStream s n f) := by
  unfold State.updStream
  iterate 40 (try any_goals first
    | with_reducible (first | exact h | assumption | apply State.setStream_same_pw | refine Same.ite (fun _ => ?_) (fun _ => ?_)
                            | refine Same.ofSnd (by assumption) ?_ | refine Same.ofFst (by assumption) ?_)
    | split | dsimp only | with_reducible refine Same.upd_pw ?_)

theorem State.evictFrom_same_pw {σ : Power} {s : State} (h : Same State.pw σ s) (l : List Nat) : Same State.pw σ (s.evictFrom l).1 := by
  induction l generalizing s with
  | nil => exact h
  | cons n t ih =>
    unfold State.evictFrom
    split
    · exact ih h
    · split
      · exact Same.upd_pw (State.dropFrame_same_pw h n)
      · exact ih (Same.upd_pw (State.updFrame_same_pw h n _) )

theorem State.evict_same_pw {σ : Power} {s : State} (h : Same State.pw σ s) :
    Same State.pw σ (State.evict s).1 := by
  unfold State.evict
  iterate 40 (try any_goals first
    | with_reducible (first | exact h | assumption | apply State.evictFrom_same_pw | refine Same.ite (fun _ => ?_) (fun _ => ?_)
                            | refine Same.ofSnd (by assumption) ?_ | refine Same.ofFst (by assumption) ?_)
    | split | dsimp only | with_reducible refine Same.upd_pw ?_)

theorem State.allocSlot_same_pw {σ : Power} {s : State} (h : Same State.pw σ s) (n fuel : Nat) : Same State.pw σ (s.allocSlot n fuel).2 := by
  induction fuel generalizing s with
  | zero => exact h
  | succ k ih =>
    unfold State.allocSlot
    dsimp only
    split
    · exact h
    · split
      · exact ih (State.evict_same_pw h)
      · exact State.evict_same_pw h

theorem State.getSlot_same_pw {σ : Power} {s : State} (h : Same State.pw σ s) (r : ArrayRec) :
    Same State.pw σ (State.getSlot s r).2 := by
  unfold State.getSlot
  iterate 40 (try any_goals first
    | with_reducible (first | exact h | assumption | apply State.allocSlot_same_pw | refine Same.ite (fun _ => ?_) (fun _ => ?_)
                            | refine Same.ofSnd (by assumption) ?_ | refine Same.ofFst (by assumption) ?_)
    | split | dsimp only | with_reducible refine Same.upd_pw ?_)

theorem State.newFrame_same_pw {σ : Power} {s : State} (h : Same State.pw σ s) (a stripe vol : Nat) :
    Same State.pw σ (State.newFrame s a stripe vol).2 := by
  unfold State.newFrame
  iterate 40 (try any_goals first
    | with_reducible (first | exact h | assumption | apply State.setFrame_same_pw | apply State.evict_same_pw
                            | refine Same.ite (fun _ => ?_) (fun _ => ?_) | refine Same.ofSnd (by assumption) ?_
                            | refine Same.ofFst (by assumption) ?_)
    | split | dsimp only | with_reducible refine Same.upd_pw ?_)

theorem State.toReady_same_pw {σ : Power} {s : State} (h : Same State.pw σ s) (n cls : Nat) :
    Same State.pw σ (State.toReady s n cls) := by
  unfold State.toReady
  iterate 40 (try any_goals first
    | with_reducible (first | exact h | assumption | apply State.setFrame_same_pw | refine Same.ite (fun _ => ?_) (fun _ => ?_)
                            | refine Same.ofSnd (by assumption) ?_ | refine Same.ofFst (by assumption) ?_)
    | split | dsimp only | with_reducible refine Same.upd_pw ?_)

theorem State.pressTake_same_pw {σ : Power} {s : State} (h : Same State.pw σ s) (n : Nat) : Same State.pw σ (s.pressTake n) := by
  induction n generalizing s with
  | zero => exact h
  | succ n ih =>
    unfold State.pressTake
    refine Same.ite (fun _ => h) (fun _ => ?_)
    split
    · exact ih (State.toReady_same_pw h _ _)
    · exact h

theorem State.pressure_same_pw {σ : Power} {s : State} (h : Same State.pw σ s) :
    Same State.pw σ (State.pressure s) := by
  unfold State.pressure
  iterate 40 (try any_goals first
    | with_reducible (first | exact h | assumption | apply State.setFlag_same_pw | apply State.pressTake_same_pw
                            | refine Same.ite (fun _ => ?_) (fun _ => ?_) | refine Same.ofSnd (by assumption) ?_
                            | refine Same.ofFst (by assumption) ?_)
    | split | dsimp only | with_reducible refine Same.upd_pw ?_)

theorem State.slotJoin_same_pw {σ : Power} {s : State} (h : Same State.pw σ s) (h0 k : Nat) :
    Same State.pw σ (State.slotJoin s h0 k) := by
  unfold State.slotJoin
  iterate 40 (try any_goals first
    | with_reducible (first | exact h | assumption | apply State.bump_same_pw | refine Same.ite (fun _ => ?_) (fun _ => ?_)
                            | refine Same.ofSnd (by assumption) ?_ | refine Same.ofFst (by assumption) ?_)
    | split | dsimp only | with_reducible refine Same.upd_pw ?_)

theorem State.stopJoin_same_pw {σ : Power} {s : State} (h : Same State.pw σ s) (h0 k a stripe : Nat) :
    Same State.pw σ (State.stopJoin s h0 k a stripe) := by
  unfold State.stopJoin
  iterate 40 (try any_goals first
    | with_reducible (first | exact h | assumption | refine Same.ite (fun _ => ?_) (fun _ => ?_)
                            | refine Same.ofSnd (by assumption) ?_ | refine Same.ofFst (by assumption) ?_)
    | split | dsimp only | with_reducible refine Same.upd_pw ?_)

theorem State.moveWait_same_pw {σ : Power} {s : State} (h : Same State.pw σ s) (h0 k a stripe : Nat) :
    Same State.pw σ (State.moveWait s h0 k a stripe) := by
  unfold State.moveWait
  iterate 40 (try any_goals first
    | with_reducible (first | exact h | assumption | apply State.slotJoin_same_pw | apply State.stopJoin_same_pw
                            | refine Same.ite (fun _ => ?_) (fun _ => ?_) | refine Same.ofSnd (by assumption) ?_
                            | refine Same.ofFst (by assumption) ?_)
    | split | dsimp only | with_reducible refine Same.upd_pw ?_)

theorem State.tlMove_same_pw {σ : Power} {s : State} (h : Same State.pw σ s) (i : Nat) :
    Same State.pw σ (State.tlMove s i) := by
  unfold State.tlMove
  iterate 40 (try any_goals first
    | with_reducible (first | exact h | assumption | refine Same.ite (fun _ => ?_) (fun _ => ?_)
                            | refine Same.ofSnd (by assumption) ?_ | refine Same.ofFst (by assumption) ?_)
    | split | dsimp only | with_reducible refine Same.upd_pw ?_)

theorem State.tlOver_same_pw {σ : Power} {s : State} (h : Same State.pw σ s) :
    Same State.pw σ (State.tlOver s) := by
  unfold State.tlOver
  iterate 40 (try any_goals first
    | with_reducible (first | exact h | assumption | apply State.bump_same_pw | apply State.noteD_same_pw | apply State.setFlag_same_pw
                            | refine Same.ite (fun _ => ?_) (fun _ => ?_) | refine Same.ofSnd (by assumption) ?_
                            | refine Same.ofFst (by assumption) ?_)
    | split | dsimp only | with_reducible refine Same.upd_pw ?_)

theorem State.tlRelease_same_pw {σ : Power} {s : State} (h : Same State.pw σ s) (h0 : Nat) :
    Same State.pw σ (State.tlRelease s h0) := by
  unfold State.tlRelease
  iterate 40 (try any_goals first
    | with_reducible (first | exact h | assumption | apply State.tlOver_same_pw | refine Same.ite (fun _ => ?_) (fun _ => ?_)
                            | refine Same.ofSnd (by assumption) ?_ | refine Same.ofFst (by assumption) ?_)
    | split | dsimp only | with_reducible refine Same.upd_pw ?_)

theorem State.tlReserve_same_pw {σ : Power} {s : State} (h : Same State.pw σ s) (h : Nat) (blks : List Nat) :
    Same State.pw σ (State.tlReserve s h blks) := by
  unfold State.tlReserve
  iterate 40 (try any_goals first
    | with_reducible (first | exact h | assumption | apply State.bump_same_pw | refine Same.ite (fun _ => ?_) (fun _ => ?_)
                            | refine Same.ofSnd (by assumption) ?_ | refine Same.ofFst (by assumption) ?_)
    | split | dsimp only | with_reducible refine Same.upd_pw ?_)

theorem State.tlSpend_same_pw {σ : Power} {s : State} (h : Same State.pw σ s) (h blk : Nat) :
    Same State.pw σ (State.tlSpend s h blk) := by
  unfold State.tlSpend
  iterate 40 (try any_goals first
    | with_reducible (first | exact h | assumption | refine Same.ite (fun _ => ?_) (fun _ => ?_)
                            | refine Same.ofSnd (by assumption) ?_ | refine Same.ofFst (by assumption) ?_)
    | split | dsimp only | with_reducible refine Same.upd_pw ?_)

theorem State.tlAsk_same_pw {σ : Power} {s : State} (h : Same State.pw σ s) (h : Nat) (blks : List Nat) (alone : Bool) :
    Same State.pw σ (State.tlAsk s h blks alone).2 := by
  unfold State.tlAsk
  iterate 40 (try any_goals first
    | with_reducible (first | exact h | assumption | apply State.bump_same_pw | apply State.tlReserve_same_pw
                            | refine Same.ite (fun _ => ?_) (fun _ => ?_) | refine Same.ofSnd (by assumption) ?_
                            | refine Same.ofFst (by assumption) ?_)
    | split | dsimp only | with_reducible refine Same.upd_pw ?_)

theorem State.tlLost_same_pw {σ : Power} {s : State} (h : Same State.pw σ s) (wheel pack : Bool) :
    Same State.pw σ (State.tlLost s wheel pack) := by
  unfold State.tlLost
  exact Same.ite (fun _ => State.note_same_pw (Same.ite (fun _ => State.note_same_pw h _ _ _ _) fun _ => h) _ _ _ _)
    (fun _ => Same.ite (fun _ => State.note_same_pw h _ _ _ _) fun _ => h)

theorem State.tlRecompute_same_pw {σ : Power} {s : State} (h : Same State.pw σ s) :
    Same State.pw σ (State.tlRecompute s) := by
  unfold State.tlRecompute
  iterate 40 (try any_goals first
    | with_reducible (first | exact h | assumption | apply State.setReg_same_pw | apply State.setFld_same_pw
                            | apply State.setFlag_same_pw | apply State.setReg64_same_pw | apply State.note_same_pw
                            | apply State.tlMove_same_pw | apply State.tlOver_same_pw | apply State.tlLost_same_pw
                            | apply Same.foldl | apply Same.foldlSnd | apply Same.foldlFst
                            | refine Same.ite (fun _ => ?_) (fun _ => ?_) | refine Same.ofSnd (by assumption) ?_
                            | refine Same.ofFst (by assumption) ?_)
    | intro _ _ _ | split | dsimp only | with_reducible refine Same.upd_pw ?_)

theorem State.markPool_same_pw {σ : Power} {s : State} (h : Same State.pw σ s) :
    Same State.pw σ (State.markPool s) := by
  unfold State.markPool
  iterate 40 (try any_goals first
    | with_reducible (first | exact h | assumption | apply State.setFlag_same_pw | refine Same.ite (fun _ => ?_) (fun _ => ?_)
                            | refine Same.ofSnd (by assumption) ?_ | refine Same.ofFst (by assumption) ?_)
    | split | dsimp only | with_reducible refine Same.upd_pw ?_)

theorem State.haltFunc_same_pw {σ : Power} {s : State} (h : Same State.pw σ s) (f : Func) (st : Nat) :
    Same State.pw σ (State.haltFunc s f st) := by
  unfold State.haltFunc
  iterate 40 (try any_goals first
    | with_reducible (first | exact h | assumption | refine Same.ite (fun _ => ?_) (fun _ => ?_)
                            | refine Same.ofSnd (by assumption) ?_ | refine Same.ofFst (by assumption) ?_)
    | split | dsimp only | with_reducible refine Same.upd_pw ?_)

theorem State.discardComps_same_pw {σ : Power} {s : State} (h : Same State.pw σ s) (p : Func → Nat → Bool) :
    Same State.pw σ (State.discardComps s p).2 := by
  unfold State.discardComps
  iterate 40 (try any_goals first
    | with_reducible (first | exact h | assumption | apply State.markPool_same_pw | apply State.note_same_pw
                            | refine Same.ite (fun _ => ?_) (fun _ => ?_) | refine Same.ofSnd (by assumption) ?_
                            | refine Same.ofFst (by assumption) ?_)
    | split | dsimp only | with_reducible refine Same.upd_pw ?_)

theorem State.frameFor_same_pw {σ : Power} {s : State} (h : Same State.pw σ s) (a stripe vol : Nat) :
    Same State.pw σ (State.frameFor s a stripe vol).2 := by
  unfold State.frameFor
  iterate 40 (try any_goals first
    | with_reducible (first | exact h | assumption | apply State.newFrame_same_pw | refine Same.ite (fun _ => ?_) (fun _ => ?_)
                            | refine Same.ofSnd (by assumption) ?_ | refine Same.ofFst (by assumption) ?_)
    | split | dsimp only | with_reducible refine Same.upd_pw ?_)

theorem State.slotFor_same_pw {σ : Power} {s : State} (h : Same State.pw σ s) (n : Nat) (r : ArrayRec) (i : Nat) :
    Same State.pw σ (State.slotFor s n r i).2 := by
  unfold State.slotFor
  iterate 40 (try any_goals first
    | with_reducible (first | exact h | assumption | apply State.bump_same_pw | apply State.getSlot_same_pw
                            | refine Same.ite (fun _ => ?_) (fun _ => ?_) | refine Same.ofSnd (by assumption) ?_
                            | refine Same.ofFst (by assumption) ?_)
    | split | dsimp only | with_reducible refine Same.upd_pw ?_)

theorem State.putBlock_same_pw {σ : Power} {s : State} (h : Same State.pw σ s) (a stripe vol i o st : Nat) (r : ArrayRec) (data : List Byte) :
    Same State.pw σ (State.putBlock s a stripe vol i o st r data).2 := by
  unfold State.putBlock
  iterate 40 (try any_goals first
    | with_reducible (first | exact h | assumption | apply State.memPut_same_pw | apply State.updFrame_same_pw
                            | apply State.dropFrame_same_pw | apply State.newFrame_same_pw | apply State.toReady_same_pw
                            | apply State.frameFor_same_pw | apply State.slotFor_same_pw
                            | refine Same.ite (fun _ => ?_) (fun _ => ?_) | refine Same.ofSnd (by assumption) ?_
                            | refine Same.ofFst (by assumption) ?_)
    | split | dsimp only | with_reducible refine Same.upd_pw ?_)

theorem State.markWt_same_pw {σ : Power} {s : State} (h : Same State.pw σ s) (l : List (Nat × Nat)) :
    Same State.pw σ (State.markWt s l) := by
  unfold State.markWt
  iterate 40 (try any_goals first
    | with_reducible (first | exact h | assumption | apply State.toReady_same_pw | apply State.updFrame_same_pw | apply Same.foldl
                            | apply Same.foldlSnd | apply Same.foldlFst | refine Same.ite (fun _ => ?_) (fun _ => ?_)
                            | refine Same.ofSnd (by assumption) ?_ | refine Same.ofFst (by assumption) ?_)
    | intro _ _ _ | split | dsimp only | with_reducible refine Same.upd_pw ?_)

theorem State.goWt_same_pw {σ : Power} {s : State} (h : Same State.pw σ s) (h : Nat) :
    Same State.pw σ (State.goWt s h) := by
  unfold State.goWt
  iterate 40 (try any_goals first
    | with_reducible (first | exact h | assumption | apply State.markWt_same_pw | apply State.setCmd_same_pw
                            | refine Same.ite (fun _ => ?_) (fun _ => ?_) | refine Same.ofSnd (by assumption) ?_
                            | refine Same.ofFst (by assumption) ?_)
    | split | dsimp only | with_reducible refine Same.upd_pw ?_)

theorem State.refuse_same_pw {σ : Power} {s : State} (h : Same State.pw σ s) (h0 : Nat) :
    Same State.pw σ (State.refuse s h0) := by
  unfold State.refuse
  iterate 40 (try any_goals first
    | with_reducible (first | exact h | assumption | apply State.updStream_same_pw | apply State.goWt_same_pw
                            | apply Same.foldl | apply Same.foldlSnd | apply Same.foldlFst
                            | refine Same.ite (fun _ => ?_) (fun _ => ?_) | refine Same.ofSnd (by assumption) ?_
                            | refine Same.ofFst (by assumption) ?_)
    | intro _ _ _ | split | dsimp only | with_reducible refine Same.upd_pw ?_)

theorem State.noteFrame_same_pw {σ : Power} {s : State} (h : Same State.pw σ s) (h n : Nat) :
    Same State.pw σ (State.noteFrame s h n) := by
  unfold State.noteFrame
  iterate 40 (try any_goals first
    | with_reducible (first | exact h | assumption | apply State.markWt_same_pw | apply State.setCmd_same_pw
                            | refine Same.ite (fun _ => ?_) (fun _ => ?_) | refine Same.ofSnd (by assumption) ?_
                            | refine Same.ofFst (by assumption) ?_)
    | split | dsimp only | with_reducible refine Same.upd_pw ?_)

theorem State.giveUp_same_pw {σ : Power} {s : State} (h : Same State.pw σ s) (h0 : Nat) :
    Same State.pw σ (State.giveUp s h0) := by
  unfold State.giveUp
  iterate 40 (try any_goals first
    | with_reducible (first | exact h | assumption | apply State.tlRelease_same_pw
                            | refine Same.ite (fun _ => ?_) (fun _ => ?_) | refine Same.ofSnd (by assumption) ?_
                            | refine Same.ofFst (by assumption) ?_)
    | split | dsimp only | with_reducible refine Same.upd_pw ?_)

theorem State.blockState_same_pw {σ : Power} {s : State} (h : Same State.pw σ s) (h0 k old : Nat) :
    Same State.pw σ (State.blockState s h0 k old).2 := by
  unfold State.blockState
  iterate 40 (try any_goals first
    | with_reducible (first | exact h | assumption | apply State.tlAsk_same_pw | apply State.refuse_same_pw
                            | refine Same.ite (fun _ => ?_) (fun _ => ?_) | refine Same.ofSnd (by assumption) ?_
                            | refine Same.ofFst (by assumption) ?_)
    | split | dsimp only | with_reducible refine Same.upd_pw ?_)

theorem State.moveAt_same_pw {σ : Power} {s : State} (h : Same State.pw σ s) (h0 k v : Nat) (p : Place) (data : List Byte) :
    Same State.pw σ (State.moveAt s h0 k v p data).2 := by
  unfold State.moveAt
  iterate 40 (try any_goals first
    | with_reducible (first | exact h | assumption | apply State.pressure_same_pw | apply State.tlSpend_same_pw
                            | apply State.putBlock_same_pw | apply State.noteFrame_same_pw | apply State.blockState_same_pw
                            | refine Same.ite (fun _ => ?_) (fun _ => ?_) | refine Same.ofSnd (by assumption) ?_
                            | refine Same.ofFst (by assumption) ?_)
    | split | dsimp only | with_reducible refine Same.upd_pw ?_)

theorem State.writeEnd_same_pw {σ : Power} {s : State} (h : Same State.pw σ s) (h : Nat) :
    Same State.pw σ (State.writeEnd s h) := by
  unfold State.writeEnd
  iterate 40 (try any_goals first
    | with_reducible (first | exact h | assumption | apply State.finish_same_pw | apply State.finishSt_same_pw
                            | apply State.setCmd_same_pw | apply State.tlRelease_same_pw | refine Same.ite (fun _ => ?_) (fun _ => ?_)
                            | refine Same.ofSnd (by assumption) ?_ | refine Same.ofFst (by assumption) ?_)
    | split | dsimp only | with_reducible refine Same.upd_pw ?_)

theorem State.moveBlk_same_pw {σ : Power} {s : State} (h : Same State.pw σ s) (h0 k : Nat) :
    Same State.pw σ (State.moveBlk s h0 k) := by
  unfold State.moveBlk
  iterate 40 (try any_goals first
    | with_reducible (first | exact h | assumption | apply State.updCmd_same_pw | apply State.moveWait_same_pw
                            | apply State.moveAt_same_pw | apply State.writeEnd_same_pw
                            | refine Same.ite (fun _ => ?_) (fun _ => ?_) | refine Same.ofSnd (by assumption) ?_
                            | refine Same.ofFst (by assumption) ?_)
    | split | dsimp only | with_reducible refine Same.upd_pw ?_)

theorem State.appendEnd_same_pw {σ : Power} {s : State} (h : Same State.pw σ s) (c : Cmd) (op : LogOp) :
    Same State.pw σ (State.appendEnd s c op) := by
  unfold State.appendEnd
  iterate 40 (try any_goals first
    | with_reducible (first | exact h | assumption | apply State.bump_same_pw | apply State.finish_same_pw
                            | apply State.updStream_same_pw | refine Same.ite (fun _ => ?_) (fun _ => ?_)
                            | refine Same.ofSnd (by assumption) ?_ | refine Same.ofFst (by assumption) ?_)
    | split | dsimp only | with_reducible refine Same.upd_pw ?_)

theorem State.appendMoved_same_pw {σ : Power} {s : State} (h : Same State.pw σ s) (h0 : Nat) :
    Same State.pw σ (State.appendMoved s h0) := by
  unfold State.appendMoved
  iterate 40 (try any_goals first
    | with_reducible (first | exact h | assumption | apply State.setCmd_same_pw | apply State.finishSt_same_pw
                            | apply State.updStream_same_pw | apply State.tlRelease_same_pw | apply State.appendEnd_same_pw
                            | refine Same.ite (fun _ => ?_) (fun _ => ?_) | refine Same.ofSnd (by assumption) ?_
                            | refine Same.ofFst (by assumption) ?_)
    | split | dsimp only | with_reducible refine Same.upd_pw ?_)

theorem State.appendBlk_same_pw {σ : Power} {s : State} (h : Same State.pw σ s) (h0 : Nat) (op : LogOp) (payload : List Byte) (k : Nat) :
    Same State.pw σ (State.appendBlk s h0 op payload k) := by
  unfold State.appendBlk
  iterate 40 (try any_goals first
    | with_reducible (first | exact h | assumption | apply State.updCmd_same_pw | apply State.updFrame_same_pw
                            | apply State.moveWait_same_pw | apply State.moveAt_same_pw
                            | refine Same.ite (fun _ => ?_) (fun _ => ?_) | refine Same.ofSnd (by assumption) ?_
                            | refine Same.ofFst (by assumption) ?_)
    | split | dsimp only | with_reducible refine Same.upd_pw ?_)

theorem State.appendMove_same_pw {σ : Power} {s : State} (h : Same State.pw σ s) (h0 : Nat) :
    Same State.pw σ (State.appendMove s h0) := by
  unfold State.appendMove
  iterate 40 (try any_goals first
    | with_reducible (first | exact h | assumption | apply State.appendMoved_same_pw | apply State.appendBlk_same_pw
                            | apply Same.foldl | apply Same.foldlSnd | apply Same.foldlFst
                            | refine Same.ite (fun _ => ?_) (fun _ => ?_) | refine Same.ofSnd (by assumption) ?_
                            | refine Same.ofFst (by assumption) ?_)
    | intro _ _ _ | split | dsimp only | with_reducible refine Same.upd_pw ?_)

theorem State.appendSettled_same_pw {σ : Power} {s : State} (h : Same State.pw σ s) (h0 : Nat) :
    Same State.pw σ (State.appendSettled s h0) := by
  unfold State.appendSettled
  iterate 40 (try any_goals first
    | with_reducible (first | exact h | assumption | apply State.updCmd_same_pw | apply State.appendMove_same_pw
                            | refine Same.ite (fun _ => ?_) (fun _ => ?_) | refine Same.ofSnd (by assumption) ?_
                            | refine Same.ofFst (by assumption) ?_)
    | split | dsimp only | with_reducible refine Same.upd_pw ?_)

theorem State.appendCredit_same_pw {σ : Power} {s : State} (h : Same State.pw σ s) (h0 : Nat) (ok : Bool) :
    Same State.pw σ (State.appendCredit s h0 ok) := by
  unfold State.appendCredit
  iterate 40 (try any_goals first
    | with_reducible (first | exact h | assumption | apply State.refuse_same_pw | apply State.appendSettled_same_pw
                            | refine Same.ite (fun _ => ?_) (fun _ => ?_) | refine Same.ofSnd (by assumption) ?_
                            | refine Same.ofFst (by assumption) ?_)
    | split | dsimp only | with_reducible refine Same.upd_pw ?_)

theorem State.appendData_same_pw {σ : Power} {s : State} (h : Same State.pw σ s) (h : Nat) (ok : Bool) :
    Same State.pw σ (State.appendData s h ok) := by
  unfold State.appendData
  iterate 40 (try any_goals first
    | with_reducible (first | exact h | assumption | apply State.appendMove_same_pw | apply State.setCmd_same_pw
                            | refine Same.ite (fun _ => ?_) (fun _ => ?_) | refine Same.ofSnd (by assumption) ?_
                            | refine Same.ofFst (by assumption) ?_)
    | split | dsimp only | with_reducible refine Same.upd_pw ?_)

theorem State.writeGo_same_pw {σ : Power} {s : State} (h : Same State.pw σ s) (h : Nat) :
    Same State.pw σ (State.writeGo s h) := by
  unfold State.writeGo
  iterate 40 (try any_goals first
    | with_reducible (first | exact h | assumption | apply State.moveBlk_same_pw | apply State.setCmd_same_pw
                            | apply State.tryRead_same_pw | apply State.writeEnd_same_pw | apply Same.foldl | apply Same.foldlSnd
                            | apply Same.foldlFst | refine Same.ite (fun _ => ?_) (fun _ => ?_) | refine Same.ofSnd (by assumption) ?_
                            | refine Same.ofFst (by assumption) ?_)
    | intro _ _ _ | split | dsimp only | with_reducible refine Same.upd_pw ?_)

theorem State.tlAnswer_same_pw {σ : Power} {s : State} (h : Same State.pw σ s) (q : TReq) (ok : Bool) :
    Same State.pw σ (State.tlAnswer s q ok) := by
  unfold State.tlAnswer
  iterate 40 (try any_goals first
    | with_reducible (first | exact h | assumption | apply State.updCmd_same_pw | apply State.tlRelease_same_pw
                            | apply State.tlReserve_same_pw | apply State.goWt_same_pw | apply State.refuse_same_pw
                            | apply State.moveBlk_same_pw | apply State.appendMove_same_pw | apply State.appendCredit_same_pw
                            | apply State.writeGo_same_pw | apply Same.foldl | apply Same.foldlSnd | apply Same.foldlFst
                            | refine Same.ite (fun _ => ?_) (fun _ => ?_) | refine Same.ofSnd (by assumption) ?_
                            | refine Same.ofFst (by assumption) ?_)
    | intro _ _ _ | split | dsimp only | with_reducible refine Same.upd_pw ?_)

theorem State.tlRefuseAll_same_pw {σ : Power} {s : State} (h : Same State.pw σ s) :
    Same State.pw σ (State.tlRefuseAll s) := by
  unfold State.tlRefuseAll
  iterate 40 (try any_goals first
    | with_reducible (first | exact h | assumption | apply State.bump_same_pw | apply State.tlAnswer_same_pw | apply Same.foldl
                            | apply Same.foldlSnd | apply Same.foldlFst | refine Same.ite (fun _ => ?_) (fun _ => ?_)
                            | refine Same.ofSnd (by assumption) ?_ | refine Same.ofFst (by assumption) ?_)
    | intro _ _ _ | split | dsimp only | with_reducible refine Same.upd_pw ?_)

theorem State.tlUpdate_same_pw {σ : Power} {s : State} (h : Same State.pw σ s) :
    Same State.pw σ (State.tlUpdate s) := by
  unfold State.tlUpdate
  iterate 40 (try any_goals first
    | with_reducible (first | exact h | assumption | apply State.pressure_same_pw | apply State.tlRecompute_same_pw
                            | apply State.tlRefuseAll_same_pw | refine Same.ite (fun _ => ?_) (fun _ => ?_)
                            | refine Same.ofSnd (by assumption) ?_ | refine Same.ofFst (by assumption) ?_)
    | split | dsimp only | with_reducible refine Same.upd_pw ?_)

theorem State.endTask_same_pw {σ : Power} {s : State} (h : Same State.pw σ s) (t : Nat) :
    Same State.pw σ (State.endTask s t) := by
  unfold State.endTask
  iterate 40 (try any_goals first
    | with_reducible (first | exact h | assumption | apply State.loomCancel_same_pw | apply State.loomDrop_same_pw
                            | apply State.unclaim_same_pw | refine Same.ite (fun _ => ?_) (fun _ => ?_)
                            | refine Same.ofSnd (by assumption) ?_ | refine Same.ofFst (by assumption) ?_)
    | split | dsimp only | with_reducible refine Same.upd_pw ?_)

theorem State.abortCmd_same_pw {σ : Power} {s : State} (h : Same State.pw σ s) (c : Cmd) :
    Same State.pw σ (State.abortCmd s c) := by
  unfold State.abortCmd
  iterate 40 (try any_goals first
    | with_reducible (first | exact h | assumption | apply State.dropCmd_same_pw | apply State.giveUp_same_pw
                            | apply State.endTask_same_pw | apply Same.foldl | apply Same.foldlSnd | apply Same.foldlFst
                            | refine Same.ite (fun _ => ?_) (fun _ => ?_) | refine Same.ofSnd (by assumption) ?_
                            | refine Same.ofFst (by assumption) ?_)
    | intro _ _ _ | split | dsimp only | with_reducible refine Same.upd_pw ?_)

theorem State.stopCmd_same_pw {σ : Power} {s : State} (h : Same State.pw σ s) (c : Cmd) :
    Same State.pw σ (State.stopCmd s c) := by
  unfold State.stopCmd
  iterate 40 (try any_goals first
    | with_reducible (first | exact h | assumption | apply State.abortCmd_same_pw | apply State.appendData_same_pw
                            | refine Same.ite (fun _ => ?_) (fun _ => ?_) | refine Same.ofSnd (by assumption) ?_
                            | refine Same.ofFst (by assumption) ?_)
    | split | dsimp only | with_reducible refine Same.upd_pw ?_)

theorem State.hostStop_same_pw {σ : Power} {s : State} (h : Same State.pw σ s) (f : Func) (st : Nat) (flr : Bool) :
    Same State.pw σ (State.hostStop s f st flr) := by
  unfold State.hostStop
  iterate 40 (try any_goals first
    | with_reducible (first | exact h | assumption | apply State.discardComps_same_pw | apply State.haltFunc_same_pw
                            | apply State.markIdle_same_pw | apply State.stopCmd_same_pw | apply Same.foldl | apply Same.foldlSnd
                            | apply Same.foldlFst | refine Same.ite (fun _ => ?_) (fun _ => ?_) | refine Same.ofSnd (by assumption) ?_
                            | refine Same.ofFst (by assumption) ?_)
    | intro _ _ _ | split | dsimp only | with_reducible refine Same.upd_pw ?_)

theorem State.ringsReset_same_pw {σ : Power} {s : State} (h : Same State.pw σ s) (f : Func) :
    Same State.pw σ (State.ringsReset s f) := by
  unfold State.ringsReset
  iterate 40 (try any_goals first
    | with_reducible (first | exact h | assumption | apply State.discardComps_same_pw | refine Same.ite (fun _ => ?_) (fun _ => ?_)
                            | refine Same.ofSnd (by assumption) ?_ | refine Same.ofFst (by assumption) ?_)
    | split | dsimp only | with_reducible refine Same.upd_pw ?_)

theorem State.cfgReset_same_pw {σ : Power} {s : State} (h : Same State.pw σ s) (f : Func) (flr : Bool) :
    Same State.pw σ (State.cfgReset s f flr) := by
  unfold State.cfgReset
  iterate 40 (try any_goals first
    | with_reducible (first | exact h | assumption | apply State.setFlag_same_pw | apply State.setFld_same_pw
                            | refine Same.ite (fun _ => ?_) (fun _ => ?_) | refine Same.ofSnd (by assumption) ?_
                            | refine Same.ofFst (by assumption) ?_)
    | split | dsimp only | with_reducible refine Same.upd_pw ?_)

theorem State.routeReset_same_pw {σ : Power} {s : State} (h : Same State.pw σ s) :
    Same State.pw σ (State.routeReset s) := by
  unfold State.routeReset
  iterate 40 (try any_goals first
    | with_reducible (first | exact h | assumption | refine Same.ite (fun _ => ?_) (fun _ => ?_)
                            | refine Same.ofSnd (by assumption) ?_ | refine Same.ofFst (by assumption) ?_)
    | split | dsimp only | with_reducible refine Same.upd_pw ?_)

theorem State.readsDrop_same_pw {σ : Power} {s : State} (h : Same State.pw σ s) :
    Same State.pw σ (State.readsDrop s) := by
  unfold State.readsDrop
  iterate 40 (try any_goals first
    | with_reducible (first | exact h | assumption | refine Same.ite (fun _ => ?_) (fun _ => ?_)
                            | refine Same.ofSnd (by assumption) ?_ | refine Same.ofFst (by assumption) ?_)
    | split | dsimp only | with_reducible refine Same.upd_pw ?_)

theorem State.hostReset_same_pw {σ : Power} {s : State} (h : Same State.pw σ s) :
    Same State.pw σ (State.hostReset s) := by
  unfold State.hostReset
  iterate 40 (try any_goals first
    | with_reducible (first | exact h | assumption | apply State.setFlag_same_pw | apply State.clearRegs_same_pw
                            | apply State.hostStop_same_pw | apply State.ringsReset_same_pw | apply State.cfgReset_same_pw
                            | apply State.routeReset_same_pw | apply State.readsDrop_same_pw
                            | refine Same.ite (fun _ => ?_) (fun _ => ?_) | refine Same.ofSnd (by assumption) ?_
                            | refine Same.ofFst (by assumption) ?_)
    | split | dsimp only | with_reducible refine Same.upd_pw ?_)

end Sys2Proof.Machine
end

