-- ==== Sys2Proof/Laws/Stays.lean ====
section
/-! SUPPORT. What every operation of the model keeps, said once as a relation between the state before and after: the queue and
the clock are untouched, memory and register file keep their form, outputs are only added, handles and free values are only
used up, and the Keep does not change while writes to it are inhibited. -/

namespace Sys2Proof.Machine

open Sys2Proof.Safety

/-- The state t comes from s by operations of the model. -/
structure Stays (s t : State) : Prop where
  pending : t.pending = s.pending
  now : t.now = s.now
  mem : memWf s.mem = true → memWf t.mem = true
  keep : memWf s.keep = true → memWf t.keep = true
  regs : regsCanonical s = true → regsCanonical t = true
  out : s.out <+: t.out
  nextH : s.nextH ≤ t.nextH
  free : s.free ≤ t.free
  inhibit : s.kp.inhibit = true → t.kp.inhibit = true ∧ t.keep = s.keep

theorem Stays.refl (s : State) : Stays s s :=
  ⟨rfl, rfl, id, id, id, List.prefix_refl _, Nat.le_refl _, Nat.le_refl _, fun h => ⟨h, rfl⟩⟩

theorem Stays.trans {a b c : State} (h : Stays a b) (g : Stays b c) : Stays a c where
  pending := g.pending.trans h.pending
  now := g.now.trans h.now
  mem w := g.mem (h.mem w)
  keep w := g.keep (h.keep w)
  regs w := g.regs (h.regs w)
  out := h.out.trans g.out
  nextH := Nat.le_trans h.nextH g.nextH
  free := Nat.le_trans h.free g.free
  inhibit w := ⟨(g.inhibit (h.inhibit w).1).1, (g.inhibit (h.inhibit w).1).2.trans (h.inhibit w).2⟩

/-- An update of fields that hold no part of the relation, or use it up only. -/
theorem Stays.upd {r s : State} {fr nh : Nat} {o : List HostOut} {lt : NMap W32} {hp : HostPort} {rg : Rings} {cm : List Cmd}
    {kp : KeepSt} {al : Almanac} {st : Arrays} {mp : Members} {lm : Loom} {lg : Ledger} {ld : Larder} {sc : StateCache}
    {md : Mender} {tl : Tally} {sv : Services} {hm : Hamper} {mw : Mw} {ga : Ga} {pw : Power}
    (h : Stays r s)
    (ho : s.out <+: o := by first | exact List.prefix_refl _ | exact List.prefix_append _ _)
    (hn : s.nextH ≤ nh := by first | exact Nat.le_refl _ | exact Nat.le_succ _)
    (hf : s.free ≤ fr := by first | exact Nat.le_refl _ | exact Nat.le_succ _)
    (hi : kp.inhibit = s.kp.inhibit := by rfl) :
    Stays r (State.mk s.pending s.now fr nh o s.regs lt s.mem s.keep hp rg cm kp al st mp lm lg ld sc md tl sv hm mw ga pw) :=
  h.trans ⟨rfl, rfl, id, id, id, ho, hn, hf, fun w => ⟨hi.trans w, rfl⟩⟩

theorem Stays.ite {r a b : State} {c : Prop} [Decidable c] (h : c → Stays r a) (k : ¬c → Stays r b) :
    Stays r (if c then a else b) := by
  split
  · exact h ‹_›
  · exact k ‹_›

theorem Stays.ofSnd {α : Type} {r s : State} {p : α × State} {a : α} (e : p = (a, s)) (h : Stays r p.2) : Stays r s := by
  rw [e] at h; exact h

theorem Stays.ofFst {α : Type} {r s : State} {p : State × α} {a : α} (e : p = (s, a)) (h : Stays r p.1) : Stays r s := by
  rw [e] at h; exact h

theorem Stays.foldl {α : Type} {r s : State} {g : State → α → State} {l : List α} (h : Stays r s)
    (k : ∀ t x, Stays r t → Stays r (g t x)) : Stays r (l.foldl g s) := by
  induction l generalizing s with
  | nil => exact h
  | cons x t ih => exact ih (k s x h)

theorem Stays.foldlSnd {α β : Type} {r : State} {p : β × State} {g : β × State → α → β × State} {l : List α} (h : Stays r p.2)
    (k : ∀ p x, Stays r p.2 → Stays r (g p x).2) : Stays r (l.foldl g p).2 := by
  induction l generalizing p with
  | nil => exact h
  | cons x t ih => exact ih (k p x h)

theorem Stays.foldlFst {α β : Type} {r : State} {p : State × β} {g : State × β → α → State × β} {l : List α} (h : Stays r p.1)
    (k : ∀ p x, Stays r p.1 → Stays r (g p x).1) : Stays r (l.foldl g p).1 := by
  induction l generalizing p with
  | nil => exact h
  | cons x t ih => exact ih (k p x h)

/-! ### The updates that touch the parts of the relation -/

theorem risingFrom_mono {α : Type} (m : NMap α) (a b : Nat) (h : a ≤ b) (w : risingFrom b m = true) : risingFrom a m = true := by
  cases m with
  | nil => rfl
  | cons e t =>
    obtain ⟨k, v⟩ := e
    simp only [risingFrom, Bool.and_eq_true, decide_eq_true_eq] at *
    exact ⟨by omega, w.2⟩

theorem risingFrom_mapSet {α : Type} (m : NMap α) (lo k : Nat) (x : α) (w : risingFrom lo m = true) (h : lo ≤ k) :
    risingFrom lo (mapSet m k x) = true := by
  induction m generalizing lo with
  | nil => simp [mapSet, risingFrom, h]
  | cons e t ih =>
    obtain ⟨a, v⟩ := e
    simp only [risingFrom, Bool.and_eq_true, decide_eq_true_eq] at w
    simp only [mapSet]
    split_ifs with c1 c2
    · simp only [risingFrom, Bool.and_eq_true, decide_eq_true_eq]
      exact ⟨h, by omega, w.2⟩
    · simp only [risingFrom, Bool.and_eq_true, decide_eq_true_eq]
      exact ⟨h, by rw [c2]; exact w.2⟩
    · simp only [risingFrom, Bool.and_eq_true, decide_eq_true_eq]
      exact ⟨w.1, ih (a + 1) w.2 (by omega)⟩

theorem risingFrom_filter {α : Type} (p : Nat × α → Bool) (m : NMap α) (lo : Nat) (w : risingFrom lo m = true) :
    risingFrom lo (m.filter p) = true := by
  induction m generalizing lo with
  | nil => rfl
  | cons e t ih =>
    obtain ⟨a, v⟩ := e
    simp only [risingFrom, Bool.and_eq_true, decide_eq_true_eq] at w
    rw [List.filter_cons]
    split_ifs
    · simp only [risingFrom, Bool.and_eq_true, decide_eq_true_eq]
      exact ⟨w.1, ih (a + 1) w.2⟩
    · exact risingFrom_mono _ lo (a + 1) (by omega) (ih (a + 1) w.2)

theorem State.setReg_stays {r s : State} (h : Stays r s) (k v : Nat) : Stays r (s.setReg k v) :=
  h.trans ⟨rfl, rfl, id, id, fun w => risingFrom_mapSet s.regs 0 k _ w (Nat.zero_le k), List.prefix_refl _, Nat.le_refl _,
    Nat.le_refl _, fun w => ⟨w, rfl⟩⟩

theorem State.clearRegs_stays {r s : State} (h : Stays r s) (por chip host f0 f1 : Bool) :
    Stays r (s.clearRegs por chip host f0 f1) :=
  h.trans ⟨rfl, rfl, id, id, fun w => risingFrom_filter _ s.regs 0 w, List.prefix_refl _, Nat.le_refl _, Nat.le_refl _,
    fun w => ⟨w, rfl⟩⟩

theorem State.memPut_stays {r s : State} (h : Stays r s) (a : Nat) (bs : List Byte) : Stays r (s.memPut a bs) :=
  h.trans ⟨rfl, rfl, fun w => memWf_memWriteN bs s.mem a w, id, id, List.prefix_refl _, Nat.le_refl _, Nat.le_refl _,
    fun w => ⟨w, rfl⟩⟩

end Sys2Proof.Machine
end

