-- ==== Sys2Proof/Laws/StaysA.lean ====
section
/-! SUPPORT. Laws: what the operations of Ops, StateCache, Geometry, Loom, Members, Ledger, Larder, Tally, Rings, Writes keep
(see Stays). -/

namespace Sys2Proof.Machine

set_option linter.all false
set_option Elab.async false

open Sys2Proof.Safety

theorem State.setFld_stays {σ s : State} (h : Stays σ s) (k hi lo v : Nat) :
    Stays σ (State.setFld s k hi lo v) := by
  unfold State.setFld
  iterate 40 (try any_goals first
    | with_reducible (first | exact h | assumption | apply State.setReg_stays | refine Stays.ite (fun _ => ?_) (fun _ => ?_)
                            | refine Stays.ofSnd (by assumption) ?_ | refine Stays.ofFst (by assumption) ?_)
    | split | dsimp only | with_reducible refine Stays.upd ?_)

theorem State.setFlag_stays {σ s : State} (h : Stays σ s) (k i : Nat) (b : Bool) :
    Stays σ (State.setFlag s k i b) := by
  unfold State.setFlag
  iterate 40 (try any_goals first
    | with_reducible (first | exact h | assumption | apply State.setFld_stays | refine Stays.ite (fun _ => ?_) (fun _ => ?_)
                            | refine Stays.ofSnd (by assumption) ?_ | refine Stays.ofFst (by assumption) ?_)
    | split | dsimp only | with_reducible refine Stays.upd ?_)

theorem State.bumpN_stays {σ s : State} (h : Stays σ s) (k n : Nat) :
    Stays σ (State.bumpN s k n) := by
  unfold State.bumpN
  iterate 40 (try any_goals first
    | with_reducible (first | exact h | assumption | apply State.setReg_stays | refine Stays.ite (fun _ => ?_) (fun _ => ?_)
                            | refine Stays.ofSnd (by assumption) ?_ | refine Stays.ofFst (by assumption) ?_)
    | split | dsimp only | with_reducible refine Stays.upd ?_)

theorem State.bump_stays {σ s : State} (h : Stays σ s) (k : Nat) :
    Stays σ (State.bump s k) := by
  unfold State.bump
  iterate 40 (try any_goals first
    | with_reducible (first | exact h | assumption | apply State.bumpN_stays | refine Stays.ite (fun _ => ?_) (fun _ => ?_)
                            | refine Stays.ofSnd (by assumption) ?_ | refine Stays.ofFst (by assumption) ?_)
    | split | dsimp only | with_reducible refine Stays.upd ?_)

theorem State.setReg64_stays {σ s : State} (h : Stays σ s) (lo v : Nat) :
    Stays σ (State.setReg64 s lo v) := by
  unfold State.setReg64
  iterate 40 (try any_goals first
    | with_reducible (first | exact h | assumption | apply State.setReg_stays | refine Stays.ite (fun _ => ?_) (fun _ => ?_)
                            | refine Stays.ofSnd (by assumption) ?_ | refine Stays.ofFst (by assumption) ?_)
    | split | dsimp only | with_reducible refine Stays.upd ?_)

theorem State.freeBelow_stays {σ s : State} (h : Stays σ s) (n : Nat) : Stays σ (s.freeBelow n).2 :=
  Stays.upd h

theorem State.newH_stays {σ s : State} (h : Stays σ s) : Stays σ s.newH.2 :=
  Stays.upd h

theorem State.put_stays {σ s : State} (h : Stays σ s) (o : List HostOut) : Stays σ (s.put o) :=
  Stays.upd h

theorem State.deposit_stays {σ s : State} (h : Stays σ s) (rank : Nat) (d : Deposit) :
    Stays σ (State.deposit s rank d) := by
  unfold State.deposit
  iterate 40 (try any_goals first
    | with_reducible (first | exact h | assumption | refine Stays.ite (fun _ => ?_) (fun _ => ?_)
                            | refine Stays.ofSnd (by assumption) ?_ | refine Stays.ofFst (by assumption) ?_)
    | split | dsimp only | with_reducible refine Stays.upd ?_)

theorem State.noteD_stays {σ s : State} (h : Stays σ s) (unit value sev arg detail amount : Nat) :
    Stays σ (State.noteD s unit value sev arg detail amount) := by
  unfold State.noteD
  iterate 40 (try any_goals first
    | with_reducible (first | exact h | assumption | apply State.deposit_stays | apply State.note_stays
                            | refine Stays.ite (fun _ => ?_) (fun _ => ?_) | refine Stays.ofSnd (by assumption) ?_
                            | refine Stays.ofFst (by assumption) ?_)
    | split | dsimp only | with_reducible refine Stays.upd ?_)

theorem State.note_stays {σ s : State} (h : Stays σ s) (unit value sev arg : Nat) :
    Stays σ (State.note s unit value sev arg) := by
  unfold State.note
  iterate 40 (try any_goals first
    | with_reducible (first | exact h | assumption | apply State.noteD_stays | refine Stays.ite (fun _ => ?_) (fun _ => ?_)
                            | refine Stays.ofSnd (by assumption) ?_ | refine Stays.ofFst (by assumption) ?_)
    | split | dsimp only | with_reducible refine Stays.upd ?_)

theorem State.addWear_stays {σ s : State} (h : Stays σ s) (page n : Nat) :
    Stays σ (State.addWear s page n) := by
  unfold State.addWear
  iterate 40 (try any_goals first
    | with_reducible (first | exact h | assumption | apply State.note_stays | apply State.setFlag_stays
                            | refine Stays.ite (fun _ => ?_) (fun _ => ?_) | refine Stays.ofSnd (by assumption) ?_
                            | refine Stays.ofFst (by assumption) ?_)
    | split | dsimp only | with_reducible refine Stays.upd ?_)

theorem State.keepWord_stays {σ s : State} (h : Stays σ s) (off v : Nat) : Stays σ (s.keepWord off v) := by
  unfold State.keepWord
  split
  · exact State.bump_stays h _
  · rename_i c
    have k : Stays σ { s with keep := memWriteN s.keep off (toLe 8 v), kp.unc := s.kp.unc.filter (· != off / 8) } :=
      h.trans ⟨rfl, rfl, id, fun w => memWf_memWriteN _ _ _ w, id, List.prefix_refl _, Nat.le_refl _, Nat.le_refl _,
        fun w => absurd w c⟩
    exact State.addWear_stays k _ _

theorem State.keepWords_stays {σ s : State} (h : Stays σ s) (off : Nat) (l : List Nat) : Stays σ (s.keepWords off l) := by
  induction l generalizing s off with
  | nil => exact h
  | cons v t ih => exact ih (State.keepWord_stays h off v) (off + 8)

theorem State.keepErr_stays {σ s : State} (h : Stays σ s) (e : KeepErr) : Stays σ (s.keepErr e) := by
  unfold State.keepErr
  split
  · exact State.keepWord_stays (State.bump_stays h _) _ _
  · dsimp only
    refine State.note_stays (State.bump_stays ?_ _) _ _ _ _
    have k := State.freeBelow_stays h (2 ^ 64)
    generalize s.freeBelow (2 ^ 64) = p at *
    refine k.trans ⟨rfl, rfl, id, fun w => ?_, id, List.prefix_refl _, Nat.le_refl _, Nat.le_refl _, fun w => ⟨w, if_pos w⟩⟩
    split
    · exact w
    · exact memWf_memWriteN _ _ _ w
  · split
    · exact State.note_stays (State.setFlag_stays (State.bump_stays (State.setReg_stays h _ _) _) _ _ _) _ _ _ _
    · exact h

theorem State.keepPut_stays {σ s : State} (h : Stays σ s) (off : Nat) (bs : List Byte) :
    Stays σ (State.keepPut s off bs) := by
  unfold State.keepPut
  iterate 40 (try any_goals first
    | with_reducible (first | exact h | assumption | apply State.keepWords_stays | refine Stays.ite (fun _ => ?_) (fun _ => ?_)
                            | refine Stays.ofSnd (by assumption) ?_ | refine Stays.ofFst (by assumption) ?_)
    | split | dsimp only | with_reducible refine Stays.upd ?_)

theorem State.kwStore_stays {σ s : State} (h : Stays σ s) (page k v : Nat) :
    Stays σ (State.kwStore s page k v) := by
  unfold State.kwStore
  iterate 40 (try any_goals first
    | with_reducible (first | exact h | assumption | apply State.addWear_stays | apply State.bump_stays
                            | apply State.setReg_stays | refine Stays.ite (fun _ => ?_) (fun _ => ?_)
                            | refine Stays.ofSnd (by assumption) ?_ | refine Stays.ofFst (by assumption) ?_)
    | split | dsimp only | with_reducible refine Stays.upd ?_)

theorem State.keepRec_stays {σ s : State} (h : Stays σ s) (id : Nat) (f : State → State) (k : ∀ t, Stays σ t → Stays σ (f t)) :
    Stays σ (s.keepRec id f) := by
  unfold State.keepRec
  split
  · exact State.bump_stays h _
  · exact State.addWear_stays (k s h) _ _

theorem State.vcoreGo_stays {σ s : State} (h : Stays σ s) (code : Nat) :
    Stays σ (State.vcoreGo s code) := by
  unfold State.vcoreGo
  iterate 40 (try any_goals first
    | with_reducible (first | exact h | assumption | apply State.setFld_stays | refine Stays.ite (fun _ => ?_) (fun _ => ?_)
                            | refine Stays.ofSnd (by assumption) ?_ | refine Stays.ofFst (by assumption) ?_)
    | split | dsimp only | with_reducible refine Stays.upd ?_)

theorem State.setCfg_stays {σ s : State} (h : Stays σ s) (f : Func) (off v : Nat) :
    Stays σ (State.setCfg s f off v) := by
  unfold State.setCfg
  iterate 40 (try any_goals first
    | with_reducible (first | exact h | assumption | refine Stays.ite (fun _ => ?_) (fun _ => ?_)
                            | refine Stays.ofSnd (by assumption) ?_ | refine Stays.ofFst (by assumption) ?_)
    | split | dsimp only | with_reducible refine Stays.upd ?_)

theorem State.tryRead_stays {σ s : State} (h : Stays σ s) (q : RdReq) : Stays σ (s.tryRead q) := by
  unfold State.tryRead
  split
  · exact h
  · split
    · exact Stays.upd h
    · exact Stays.upd h

theorem State.issue_stays {σ s : State} (h : Stays σ s) (l : List RdReq) :
    Stays σ (State.issue s l) := by
  unfold State.issue
  iterate 40 (try any_goals first
    | with_reducible (first | exact h | assumption | apply State.tryRead_stays | apply Stays.foldl | apply Stays.foldlSnd
                            | apply Stays.foldlFst | refine Stays.ite (fun _ => ?_) (fun _ => ?_)
                            | refine Stays.ofSnd (by assumption) ?_ | refine Stays.ofFst (by assumption) ?_)
    | intro _ _ _ | split | dsimp only | with_reducible refine Stays.upd ?_)

theorem State.pumpReads_stays {σ s : State} (h : Stays σ s) :
    Stays σ (State.pumpReads s) := by
  unfold State.pumpReads
  iterate 40 (try any_goals first
    | with_reducible (first | exact h | assumption | apply State.issue_stays | refine Stays.ite (fun _ => ?_) (fun _ => ?_)
                            | refine Stays.ofSnd (by assumption) ?_ | refine Stays.ofFst (by assumption) ?_)
    | split | dsimp only | with_reducible refine Stays.upd ?_)

theorem State.hostWrite_stays {σ s : State} (h : Stays σ s) (f : Func) (addr : Nat) (d : List Byte) :
    Stays σ (State.hostWrite s f addr d) := by
  unfold State.hostWrite
  iterate 40 (try any_goals first
    | with_reducible (first | exact h | assumption | apply State.put_stays | refine Stays.ite (fun _ => ?_) (fun _ => ?_)
                            | refine Stays.ofSnd (by assumption) ?_ | refine Stays.ofFst (by assumption) ?_)
    | split | dsimp only | with_reducible refine Stays.upd ?_)

theorem State.hostWriteSegs_stays {σ s : State} (h : Stays σ s) (f : Func) (segs : List (Nat × Nat)) (off : Nat) (d : List Byte) :
    Stays σ (State.hostWriteSegs s f segs off d) := by
  unfold State.hostWriteSegs
  iterate 40 (try any_goals first
    | with_reducible (first | exact h | assumption | apply State.hostWrite_stays | apply Stays.foldl | apply Stays.foldlSnd
                            | apply Stays.foldlFst | refine Stays.ite (fun _ => ?_) (fun _ => ?_)
                            | refine Stays.ofSnd (by assumption) ?_ | refine Stays.ofFst (by assumption) ?_)
    | intro _ _ _ | split | dsimp only | with_reducible refine Stays.upd ?_)

theorem State.setCmd_stays {σ s : State} (h : Stays σ s) (c : Cmd) :
    Stays σ (State.setCmd s c) := by
  unfold State.setCmd
  iterate 40 (try any_goals first
    | with_reducible (first | exact h | assumption | refine Stays.ite (fun _ => ?_) (fun _ => ?_)
                            | refine Stays.ofSnd (by assumption) ?_ | refine Stays.ofFst (by assumption) ?_)
    | split | dsimp only | with_reducible refine Stays.upd ?_)

theorem State.updCmd_stays {σ s : State} (h : Stays σ s) (h : Nat) (f : Cmd → Cmd) :
    Stays σ (State.updCmd s h f) := by
  unfold State.updCmd
  iterate 40 (try any_goals first
    | with_reducible (first | exact h | assumption | refine Stays.ite (fun _ => ?_) (fun _ => ?_)
                            | refine Stays.ofSnd (by assumption) ?_ | refine Stays.ofFst (by assumption) ?_)
    | split | dsimp only | with_reducible refine Stays.upd ?_)

theorem State.arrEnded_stays {σ s : State} (h : Stays σ s) (c : Cmd) :
    Stays σ (State.arrEnded s c) := by
  unfold State.arrEnded
  iterate 40 (try any_goals first
    | with_reducible (first | exact h | assumption | refine Stays.ite (fun _ => ?_) (fun _ => ?_)
                            | refine Stays.ofSnd (by assumption) ?_ | refine Stays.ofFst (by assumption) ?_)
    | split | dsimp only | with_reducible refine Stays.upd ?_)

theorem State.dropCmd_stays {σ s : State} (h : Stays σ s) (c : Cmd) :
    Stays σ (State.dropCmd s c) := by
  unfold State.dropCmd
  iterate 40 (try any_goals first
    | with_reducible (first | exact h | assumption | apply State.arrEnded_stays | refine Stays.ite (fun _ => ?_) (fun _ => ?_)
                            | refine Stays.ofSnd (by assumption) ?_ | refine Stays.ofFst (by assumption) ?_)
    | split | dsimp only | with_reducible refine Stays.upd ?_)

theorem State.markIdle_stays {σ s : State} (h : Stays σ s) :
    Stays σ (State.markIdle s) := by
  unfold State.markIdle
  iterate 40 (try any_goals first
    | with_reducible (first | exact h | assumption | refine Stays.ite (fun _ => ?_) (fun _ => ?_)
                            | refine Stays.ofSnd (by assumption) ?_ | refine Stays.ofFst (by assumption) ?_)
    | split | dsimp only | with_reducible refine Stays.upd ?_)

theorem State.finish_stays {σ s : State} (h : Stays σ s) (rank : Nat) (c : Cmd) :
    Stays σ (State.finish s rank c) := by
  unfold State.finish
  iterate 40 (try any_goals first
    | with_reducible (first | exact h | assumption | apply State.arrEnded_stays | apply State.deposit_stays
                            | apply State.dropCmd_stays | apply State.markIdle_stays
                            | refine Stays.ite (fun _ => ?_) (fun _ => ?_) | refine Stays.ofSnd (by assumption) ?_
                            | refine Stays.ofFst (by assumption) ?_)
    | split | dsimp only | with_reducible refine Stays.upd ?_)

theorem State.finishSt_stays {σ s : State} (h : Stays σ s) (rank : Nat) (c : Cmd) (status : Nat) :
    Stays σ (State.finishSt s rank c status) := by
  unfold State.finishSt
  iterate 40 (try any_goals first
    | with_reducible (first | exact h | assumption | apply State.finish_stays | refine Stays.ite (fun _ => ?_) (fun _ => ?_)
                            | refine Stays.ofSnd (by assumption) ?_ | refine Stays.ofFst (by assumption) ?_)
    | split | dsimp only | with_reducible refine Stays.upd ?_)

theorem State.alHist_stays {σ s : State} (h : Stays σ s) (h bin : Nat) :
    Stays σ (State.alHist s h bin) := by
  unfold State.alHist
  iterate 40 (try any_goals first
    | with_reducible (first | exact h | assumption | refine Stays.ite (fun _ => ?_) (fun _ => ?_)
                            | refine Stays.ofSnd (by assumption) ?_ | refine Stays.ofFst (by assumption) ?_)
    | split | dsimp only | with_reducible refine Stays.upd ?_)

theorem State.alMax_stays {σ s : State} (h : Stays σ s) (i : Nat) (v : Int) :
    Stays σ (State.alMax s i v) := by
  unfold State.alMax
  iterate 40 (try any_goals first
    | with_reducible (first | exact h | assumption | refine Stays.ite (fun _ => ?_) (fun _ => ?_)
                            | refine Stays.ofSnd (by assumption) ?_ | refine Stays.ofFst (by assumption) ?_)
    | split | dsimp only | with_reducible refine Stays.upd ?_)

theorem State.alMin_stays {σ s : State} (h : Stays σ s) (i : Nat) (v : Int) :
    Stays σ (State.alMin s i v) := by
  unfold State.alMin
  iterate 40 (try any_goals first
    | with_reducible (first | exact h | assumption | refine Stays.ite (fun _ => ?_) (fun _ => ?_)
                            | refine Stays.ofSnd (by assumption) ?_ | refine Stays.ofFst (by assumption) ?_)
    | split | dsimp only | with_reducible refine Stays.upd ?_)

theorem State.scMissAlloc_stays {σ s : State} (h : Stays σ s) (line : Nat) (pf : Bool) :
    Stays σ (State.scMissAlloc s line pf).2 := by
  unfold State.scMissAlloc
  iterate 40 (try any_goals first
    | with_reducible (first | exact h | assumption | apply State.setFld_stays | refine Stays.ite (fun _ => ?_) (fun _ => ?_)
                            | refine Stays.ofSnd (by assumption) ?_ | refine Stays.ofFst (by assumption) ?_)
    | split | dsimp only | with_reducible refine Stays.upd ?_)

theorem State.scPrefetch_stays {σ s : State} (h : Stays σ s) (line : Nat) (dist : Int) (n k : Nat) :
    Stays σ (s.scPrefetch line dist n k) := by
  induction n generalizing s k with
  | zero => exact h
  | succ n ih =>
    unfold State.scPrefetch
    refine ih ?_ _
    refine Stays.ite (fun _ => ?_) (fun _ => h)
    split
    · rename_i e
      exact State.bump_stays (Stays.ofSnd e (State.scMissAlloc_stays h _ _)) _
    · rename_i e
      exact Stays.ofSnd e (State.scMissAlloc_stays h _ _)

theorem State.scStride_stays {σ s : State} (h : Stays σ s) (req line : Nat) :
    Stays σ (State.scStride s req line) := by
  unfold State.scStride
  iterate 40 (try any_goals first
    | with_reducible (first | exact h | assumption | apply State.scPrefetch_stays | refine Stays.ite (fun _ => ?_) (fun _ => ?_)
                            | refine Stays.ofSnd (by assumption) ?_ | refine Stays.ofFst (by assumption) ?_)
    | split | dsimp only | with_reducible refine Stays.upd ?_)

theorem State.scReadWait_stays {σ s : State} (h : Stays σ s) (req line : Nat) :
    Stays σ (State.scReadWait s req line) := by
  unfold State.scReadWait
  iterate 40 (try any_goals first
    | with_reducible (first | exact h | assumption | refine Stays.ite (fun _ => ?_) (fun _ => ?_)
                            | refine Stays.ofSnd (by assumption) ?_ | refine Stays.ofFst (by assumption) ?_)
    | split | dsimp only | with_reducible refine Stays.upd ?_)

theorem State.scMissed_stays {σ s : State} (h : Stays σ s) (req line : Nat) (again : Bool) :
    Stays σ (State.scMissed s req line again) := by
  unfold State.scMissed
  iterate 40 (try any_goals first
    | with_reducible (first | exact h | assumption | apply State.bump_stays | apply State.scMissAlloc_stays
                            | apply State.scStride_stays | apply State.scReadWait_stays
                            | refine Stays.ite (fun _ => ?_) (fun _ => ?_) | refine Stays.ofSnd (by assumption) ?_
                            | refine Stays.ofFst (by assumption) ?_)
    | split | dsimp only | with_reducible refine Stays.upd ?_)

theorem State.scRead_stays {σ s : State} (h : Stays σ s) (req line : Nat) (again : Bool) :
    Stays σ (State.scRead s req line again) := by
  unfold State.scRead
  iterate 40 (try any_goals first
    | with_reducible (first | exact h | assumption | apply State.bump_stays | apply State.scMissed_stays
                            | refine Stays.ite (fun _ => ?_) (fun _ => ?_) | refine Stays.ofSnd (by assumption) ?_
                            | refine Stays.ofFst (by assumption) ?_)
    | split | dsimp only | with_reducible refine Stays.upd ?_)

theorem State.scTouch_stays {σ s : State} (h : Stays σ s) (req addr : Nat) :
    Stays σ (State.scTouch s req addr) := by
  unfold State.scTouch
  iterate 40 (try any_goals first
    | with_reducible (first | exact h | assumption | apply State.scReadWait_stays | apply State.scRead_stays
                            | refine Stays.ite (fun _ => ?_) (fun _ => ?_) | refine Stays.ofSnd (by assumption) ?_
                            | refine Stays.ofFst (by assumption) ?_)
    | split | dsimp only | with_reducible refine Stays.upd ?_)

theorem State.scReadsAgain_stays {σ s : State} (h : Stays σ s) :
    Stays σ (State.scReadsAgain s) := by
  unfold State.scReadsAgain
  iterate 40 (try any_goals first
    | with_reducible (first | exact h | assumption | apply State.scRead_stays | apply Stays.foldl | apply Stays.foldlSnd
                            | apply Stays.foldlFst | refine Stays.ite (fun _ => ?_) (fun _ => ?_)
                            | refine Stays.ofSnd (by assumption) ?_ | refine Stays.ofFst (by assumption) ?_)
    | intro _ _ _ | split | dsimp only | with_reducible refine Stays.upd ?_)

theorem State.scLinePut_stays {σ s : State} (h : Stays σ s) (a : Nat) (bs : List Byte) :
    Stays σ (State.scLinePut s a bs) := by
  unfold State.scLinePut
  iterate 40 (try any_goals first
    | with_reducible (first | exact h | assumption | refine Stays.ite (fun _ => ?_) (fun _ => ?_)
                            | refine Stays.ofSnd (by assumption) ?_ | refine Stays.ofFst (by assumption) ?_)
    | split | dsimp only | with_reducible refine Stays.upd ?_)

theorem State.scBufPut_stays {σ s : State} (h : Stays σ s) (a : Nat) (bs : List Byte) :
    Stays σ (State.scBufPut s a bs) := by
  unfold State.scBufPut
  iterate 40 (try any_goals first
    | with_reducible (first | exact h | assumption | apply State.scLinePut_stays
                            | refine Stays.ite (fun _ => ?_) (fun _ => ?_) | refine Stays.ofSnd (by assumption) ?_
                            | refine Stays.ofFst (by assumption) ?_)
    | split | dsimp only | with_reducible refine Stays.upd ?_)

theorem State.scWrite_stays {σ s : State} (h : Stays σ s) (a : Nat) (bs : List Byte) :
    Stays σ (State.scWrite s a bs) := by
  unfold State.scWrite
  iterate 40 (try any_goals first
    | with_reducible (first | exact h | assumption | apply State.memPut_stays | apply State.scBufPut_stays
                            | refine Stays.ite (fun _ => ?_) (fun _ => ?_) | refine Stays.ofSnd (by assumption) ?_
                            | refine Stays.ofFst (by assumption) ?_)
    | split | dsimp only | with_reducible refine Stays.upd ?_)

theorem State.scWritesGo_stays {σ s : State} (h : Stays σ s) (l : List (Nat × List Byte)) : Stays σ (s.scWritesGo l) := by
  induction l generalizing s with
  | nil => exact Stays.upd h
  | cons w t ih =>
    unfold State.scWritesGo
    exact Stays.ite (fun _ => ih (State.scBufPut_stays h _ _)) (fun _ => Stays.upd h)

theorem drainLine_wf (l : NMap Byte) (m : List Host.Cell) (line : Nat) (w : memWf m = true) : memWf (drainLine m line l) = true := by
  induction l generalizing m with
  | nil => exact w
  | cons e t ih => exact ih _ (memWf_memWrite _ _ _ w)

theorem State.scDrain1_stays {σ s : State} (h : Stays σ s) : Stays σ s.scDrain1 := by
  unfold State.scDrain1
  split
  · exact h
  · rename_i e t _
    have k : Stays σ { s with mem := drainLine s.mem e.1 e.2, sc.buf := t } :=
      h.trans ⟨rfl, rfl, fun w => drainLine_wf _ _ _ w, id, id, List.prefix_refl _, Nat.le_refl _, Nat.le_refl _,
        fun w => ⟨w, rfl⟩⟩
    exact Stays.ite (fun _ => k) (fun _ => State.scWritesGo_stays k _)

theorem State.scFill_stays {σ s : State} (h : Stays σ s) (line : Nat) :
    Stays σ (State.scFill s line) := by
  unfold State.scFill
  iterate 40 (try any_goals first
    | with_reducible (first | exact h | assumption | apply State.scReadsAgain_stays
                            | refine Stays.ite (fun _ => ?_) (fun _ => ?_) | refine Stays.ofSnd (by assumption) ?_
                            | refine Stays.ofFst (by assumption) ?_)
    | split | dsimp only | with_reducible refine Stays.upd ?_)

theorem State.scInvLine_stays {σ s : State} (h : Stays σ s) (line : Nat) :
    Stays σ (State.scInvLine s line) := by
  unfold State.scInvLine
  iterate 40 (try any_goals first
    | with_reducible (first | exact h | assumption | refine Stays.ite (fun _ => ?_) (fun _ => ?_)
                            | refine Stays.ofSnd (by assumption) ?_ | refine Stays.ofFst (by assumption) ?_)
    | split | dsimp only | with_reducible refine Stays.upd ?_)

theorem State.scDisable_stays {σ s : State} (h : Stays σ s) :
    Stays σ (State.scDisable s) := by
  unfold State.scDisable
  iterate 40 (try any_goals first
    | with_reducible (first | exact h | assumption | apply State.setFlag_stays | refine Stays.ite (fun _ => ?_) (fun _ => ?_)
                            | refine Stays.ofSnd (by assumption) ?_ | refine Stays.ofFst (by assumption) ?_)
    | split | dsimp only | with_reducible refine Stays.upd ?_)

theorem State.scInvalidate_stays {σ s : State} (h : Stays σ s) :
    Stays σ (State.scInvalidate s) := by
  unfold State.scInvalidate
  iterate 40 (try any_goals first
    | with_reducible (first | exact h | assumption | apply State.setFlag_stays | refine Stays.ite (fun _ => ?_) (fun _ => ?_)
                            | refine Stays.ofSnd (by assumption) ?_ | refine Stays.ofFst (by assumption) ?_)
    | split | dsimp only | with_reducible refine Stays.upd ?_)

theorem State.scStart_stays {σ s : State} (h : Stays σ s) :
    Stays σ (State.scStart s) := by
  unfold State.scStart
  iterate 40 (try any_goals first
    | with_reducible (first | exact h | assumption | apply State.setFlag_stays | apply State.note_stays
                            | apply State.scInvalidate_stays | refine Stays.ite (fun _ => ?_) (fun _ => ?_)
                            | refine Stays.ofSnd (by assumption) ?_ | refine Stays.ofFst (by assumption) ?_)
    | split | dsimp only | with_reducible refine Stays.upd ?_)

theorem State.scEnable_stays {σ s : State} (h : Stays σ s) :
    Stays σ (State.scEnable s) := by
  unfold State.scEnable
  iterate 40 (try any_goals first
    | with_reducible (first | exact h | assumption | apply State.setFlag_stays | apply State.scStart_stays
                            | refine Stays.ite (fun _ => ?_) (fun _ => ?_) | refine Stays.ofSnd (by assumption) ?_
                            | refine Stays.ofFst (by assumption) ?_)
    | split | dsimp only | with_reducible refine Stays.upd ?_)

theorem State.scDrained_stays {σ s : State} (h : Stays σ s) :
    Stays σ (State.scDrained s) := by
  unfold State.scDrained
  iterate 40 (try any_goals first
    | with_reducible (first | exact h | assumption | apply State.setFlag_stays | apply State.memPut_stays
                            | apply State.scStart_stays | apply Stays.foldl | apply Stays.foldlSnd | apply Stays.foldlFst
                            | refine Stays.ite (fun _ => ?_) (fun _ => ?_) | refine Stays.ofSnd (by assumption) ?_
                            | refine Stays.ofFst (by assumption) ?_)
    | intro _ _ _ | split | dsimp only | with_reducible refine Stays.upd ?_)

theorem State.setArr_stays {σ s : State} (h : Stays σ s) (a : Nat) (r : ArrayRec) :
    Stays σ (State.setArr s a r) := by
  unfold State.setArr
  iterate 40 (try any_goals first
    | with_reducible (first | exact h | assumption | apply State.keepRec_stays | refine Stays.ite (fun _ => ?_) (fun _ => ?_)
                            | refine Stays.ofSnd (by assumption) ?_ | refine Stays.ofFst (by assumption) ?_)
    | intro _ _ | split | dsimp only | with_reducible refine Stays.upd ?_)

theorem State.updArr_stays {σ s : State} (h : Stays σ s) (a : Nat) (f : ArrayRec → ArrayRec) :
    Stays σ (State.updArr s a f) := by
  unfold State.updArr
  iterate 40 (try any_goals first
    | with_reducible (first | exact h | assumption | apply State.setArr_stays | refine Stays.ite (fun _ => ?_) (fun _ => ?_)
                            | refine Stays.ofSnd (by assumption) ?_ | refine Stays.ofFst (by assumption) ?_)
    | split | dsimp only | with_reducible refine Stays.upd ?_)

theorem State.sstLook_stays {σ s : State} (h : Stays σ s) (req a stripe : Nat) :
    Stays σ (State.sstLook s req a stripe) := by
  unfold State.sstLook
  iterate 40 (try any_goals first
    | with_reducible (first | exact h | assumption | apply State.scTouch_stays | refine Stays.ite (fun _ => ?_) (fun _ => ?_)
                            | refine Stays.ofSnd (by assumption) ?_ | refine Stays.ofFst (by assumption) ?_)
    | split | dsimp only | with_reducible refine Stays.upd ?_)

theorem State.setSst_stays {σ s : State} (h : Stays σ s) (a stripe v : Nat) :
    Stays σ (State.setSst s a stripe v) := by
  unfold State.setSst
  iterate 40 (try any_goals first
    | with_reducible (first | exact h | assumption | apply State.scWrite_stays | refine Stays.ite (fun _ => ?_) (fun _ => ?_)
                            | refine Stays.ofSnd (by assumption) ?_ | refine Stays.ofFst (by assumption) ?_)
    | split | dsimp only | with_reducible refine Stays.upd ?_)

theorem State.setSstState_stays {σ s : State} (h : Stays σ s) (a stripe st : Nat) :
    Stays σ (State.setSstState s a stripe st) := by
  unfold State.setSstState
  iterate 40 (try any_goals first
    | with_reducible (first | exact h | assumption | apply State.setSst_stays | refine Stays.ite (fun _ => ?_) (fun _ => ?_)
                            | refine Stays.ofSnd (by assumption) ?_ | refine Stays.ofFst (by assumption) ?_)
    | split | dsimp only | with_reducible refine Stays.upd ?_)

theorem State.setSstGen_stays {σ s : State} (h : Stays σ s) (a stripe st gen : Nat) :
    Stays σ (State.setSstGen s a stripe st gen) := by
  unfold State.setSstGen
  iterate 40 (try any_goals first
    | with_reducible (first | exact h | assumption | apply State.setSst_stays | refine Stays.ite (fun _ => ?_) (fun _ => ?_)
                            | refine Stays.ofSnd (by assumption) ?_ | refine Stays.ofFst (by assumption) ?_)
    | split | dsimp only | with_reducible refine Stays.upd ?_)

theorem State.setSstBit_stays {σ s : State} (h : Stays σ s) (a stripe i : Nat) (b : Bool) :
    Stays σ (State.setSstBit s a stripe i b) := by
  unfold State.setSstBit
  iterate 40 (try any_goals first
    | with_reducible (first | exact h | assumption | apply State.setSst_stays | refine Stays.ite (fun _ => ?_) (fun _ => ?_)
                            | refine Stays.ofSnd (by assumption) ?_ | refine Stays.ofFst (by assumption) ?_)
    | split | dsimp only | with_reducible refine Stays.upd ?_)

theorem State.sstUnwrite_stays {σ s : State} (h : Stays σ s) (a stripe : Nat) (released : Bool) :
    Stays σ (State.sstUnwrite s a stripe released) := by
  unfold State.sstUnwrite
  iterate 40 (try any_goals first
    | with_reducible (first | exact h | assumption | apply State.setSst_stays | refine Stays.ite (fun _ => ?_) (fun _ => ?_)
                            | refine Stays.ofSnd (by assumption) ?_ | refine Stays.ofFst (by assumption) ?_)
    | split | dsimp only | with_reducible refine Stays.upd ?_)

theorem State.genNext_stays {σ s : State} (h : Stays σ s) (a stripe : Nat) :
    Stays σ (State.genNext s a stripe).2 := by
  unfold State.genNext
  iterate 40 (try any_goals first
    | with_reducible (first | exact h | assumption | apply State.setArr_stays | refine Stays.ite (fun _ => ?_) (fun _ => ?_)
                            | refine Stays.ofSnd (by assumption) ?_ | refine Stays.ofFst (by assumption) ?_)
    | split | dsimp only | with_reducible refine Stays.upd ?_)

theorem State.claim_stays {σ s : State} (h : Stays σ s) (a stripe owner : Nat) :
    Stays σ (State.claim s a stripe owner).2 := by
  unfold State.claim
  iterate 40 (try any_goals first
    | with_reducible (first | exact h | assumption | refine Stays.ite (fun _ => ?_) (fun _ => ?_)
                            | refine Stays.ofSnd (by assumption) ?_ | refine Stays.ofFst (by assumption) ?_)
    | split | dsimp only | with_reducible refine Stays.upd ?_)

theorem State.unclaim_stays {σ s : State} (h : Stays σ s) (owner : Nat) :
    Stays σ (State.unclaim s owner) := by
  unfold State.unclaim
  iterate 40 (try any_goals first
    | with_reducible (first | exact h | assumption | refine Stays.ite (fun _ => ?_) (fun _ => ?_)
                            | refine Stays.ofSnd (by assumption) ?_ | refine Stays.ofFst (by assumption) ?_)
    | split | dsimp only | with_reducible refine Stays.upd ?_)

theorem State.loomOut_stays {σ s : State} (h : Stays σ s) (j : LJob) (x b : Nat) (d : List Byte) :
    Stays σ (State.loomOut s j x b d) := by
  unfold State.loomOut
  iterate 40 (try any_goals first
    | with_reducible (first | exact h | assumption | apply State.dumpXor_stays | apply State.memPut_stays
                            | refine Stays.ite (fun _ => ?_) (fun _ => ?_) | refine Stays.ofSnd (by assumption) ?_
                            | refine Stays.ofFst (by assumption) ?_)
    | split | dsimp only | with_reducible refine Stays.upd ?_)

theorem State.loomWrite_stays {σ s : State} (h : Stays σ s) (j : LJob) (n : Nat) :
    Stays σ (State.loomWrite s j n).2 := by
  unfold State.loomWrite
  iterate 40 (try any_goals first
    | with_reducible (first | exact h | assumption | apply State.loomOut_stays | apply Stays.foldl | apply Stays.foldlSnd
                            | apply Stays.foldlFst | refine Stays.ite (fun _ => ?_) (fun _ => ?_)
                            | refine Stays.ofSnd (by assumption) ?_ | refine Stays.ofFst (by assumption) ?_)
    | intro _ _ _ | split | dsimp only | with_reducible refine Stays.upd ?_)

theorem State.loomRun_stays {σ s : State} (h : Stays σ s) (j : LJob) :
    Stays σ (State.loomRun s j).2 := by
  unfold State.loomRun
  iterate 40 (try any_goals first
    | with_reducible (first | exact h | assumption | apply State.loomWrite_stays
                            | refine Stays.ite (fun _ => ?_) (fun _ => ?_) | refine Stays.ofSnd (by assumption) ?_
                            | refine Stays.ofFst (by assumption) ?_)
    | split | dsimp only | with_reducible refine Stays.upd ?_)

theorem State.loomStop_stays {σ s : State} (h : Stays σ s) (j : LJob) (b : Nat) (st src : Nat) :
    Stays σ (State.loomStop s j b st src).2 := by
  unfold State.loomStop
  iterate 40 (try any_goals first
    | with_reducible (first | exact h | assumption | apply State.loomWrite_stays
                            | refine Stays.ite (fun _ => ?_) (fun _ => ?_) | refine Stays.ofSnd (by assumption) ?_
                            | refine Stays.ofFst (by assumption) ?_)
    | split | dsimp only | with_reducible refine Stays.upd ?_)

theorem State.loomSubmit_stays {σ s : State} (h : Stays σ s) (j : LJob) :
    Stays σ (State.loomSubmit s j) := by
  unfold State.loomSubmit
  iterate 40 (try any_goals first
    | with_reducible (first | exact h | assumption | refine Stays.ite (fun _ => ?_) (fun _ => ?_)
                            | refine Stays.ofSnd (by assumption) ?_ | refine Stays.ofFst (by assumption) ?_)
    | split | dsimp only | with_reducible refine Stays.upd ?_)

theorem State.loomPark_stays {σ s : State} (h : Stays σ s) :
    Stays σ (State.loomPark s) := by
  unfold State.loomPark
  iterate 40 (try any_goals first
    | with_reducible (first | exact h | assumption | refine Stays.ite (fun _ => ?_) (fun _ => ?_)
                            | refine Stays.ofSnd (by assumption) ?_ | refine Stays.ofFst (by assumption) ?_)
    | split | dsimp only | with_reducible refine Stays.upd ?_)

theorem State.loomUnpark_stays {σ s : State} (h : Stays σ s) :
    Stays σ (State.loomUnpark s) := by
  unfold State.loomUnpark
  iterate 40 (try any_goals first
    | with_reducible (first | exact h | assumption | refine Stays.ite (fun _ => ?_) (fun _ => ?_)
                            | refine Stays.ofSnd (by assumption) ?_ | refine Stays.ofFst (by assumption) ?_)
    | split | dsimp only | with_reducible refine Stays.upd ?_)

theorem State.loomDp_stays {σ s : State} (h : Stays σ s) (ctx : Nat) :
    Stays σ (State.loomDp s ctx) := by
  unfold State.loomDp
  iterate 40 (try any_goals first
    | with_reducible (first | exact h | assumption | apply State.note_stays | apply State.setFlag_stays
                            | refine Stays.ite (fun _ => ?_) (fun _ => ?_) | refine Stays.ofSnd (by assumption) ?_
                            | refine Stays.ofFst (by assumption) ?_)
    | split | dsimp only | with_reducible refine Stays.upd ?_)

theorem State.loomRecord_stays {σ s : State} (h : Stays σ s) (j : LJob) (r : LRes) :
    Stays σ (State.loomRecord s j r) := by
  unfold State.loomRecord
  iterate 40 (try any_goals first
    | with_reducible (first | exact h | assumption | apply State.memPut_stays | apply Stays.foldl | apply Stays.foldlSnd
                            | apply Stays.foldlFst | refine Stays.ite (fun _ => ?_) (fun _ => ?_)
                            | refine Stays.ofSnd (by assumption) ?_ | refine Stays.ofFst (by assumption) ?_)
    | intro _ _ _ | split | dsimp only | with_reducible refine Stays.upd ?_)

theorem State.loomExec_stays {σ s : State} (h : Stays σ s) (j : LJob) (err : Option LoomErr) :
    Stays σ (State.loomExec s j err).2 := by
  unfold State.loomExec
  iterate 40 (try any_goals first
    | with_reducible (first | exact h | assumption | apply State.loomRun_stays | apply State.loomStop_stays
                            | refine Stays.ite (fun _ => ?_) (fun _ => ?_) | refine Stays.ofSnd (by assumption) ?_
                            | refine Stays.ofFst (by assumption) ?_)
    | split | dsimp only | with_reducible refine Stays.upd ?_)

theorem State.loomEnd_stays {σ s : State} (h : Stays σ s) (ctx : Nat) (j : LJob) (err : Option LoomErr) :
    Stays σ (State.loomEnd s ctx j err).2 := by
  unfold State.loomEnd
  iterate 40 (try any_goals first
    | with_reducible (first | exact h | assumption | apply State.setReg_stays | apply State.bump_stays
                            | apply State.setReg64_stays | apply State.loomDp_stays | apply State.loomRecord_stays
                            | apply State.loomExec_stays | refine Stays.ite (fun _ => ?_) (fun _ => ?_)
                            | refine Stays.ofSnd (by assumption) ?_ | refine Stays.ofFst (by assumption) ?_)
    | split | dsimp only | with_reducible refine Stays.upd ?_)

theorem State.loomDrop_stays {σ s : State} (h : Stays σ s) (p : LJob → Bool) :
    Stays σ (State.loomDrop s p) := by
  unfold State.loomDrop
  iterate 40 (try any_goals first
    | with_reducible (first | exact h | assumption | refine Stays.ite (fun _ => ?_) (fun _ => ?_)
                            | refine Stays.ofSnd (by assumption) ?_ | refine Stays.ofFst (by assumption) ?_)
    | split | dsimp only | with_reducible refine Stays.upd ?_)

theorem State.loomCancel_stays {σ s : State} (h : Stays σ s) (t : Nat) :
    Stays σ (State.loomCancel s t) := by
  unfold State.loomCancel
  iterate 40 (try any_goals first
    | with_reducible (first | exact h | assumption | apply State.setReg_stays | refine Stays.ite (fun _ => ?_) (fun _ => ?_)
                            | refine Stays.ofSnd (by assumption) ?_ | refine Stays.ofFst (by assumption) ?_)
    | split | dsimp only | with_reducible refine Stays.upd ?_)

theorem State.tjobGo_stays {σ s : State} (h : Stays σ s) :
    Stays σ (State.tjobGo s) := by
  unfold State.tjobGo
  iterate 40 (try any_goals first
    | with_reducible (first | exact h | assumption | apply State.setFlag_stays | apply State.newH_stays
                            | apply State.loomSubmit_stays | refine Stays.ite (fun _ => ?_) (fun _ => ?_)
                            | refine Stays.ofSnd (by assumption) ?_ | refine Stays.ofFst (by assumption) ?_)
    | split | dsimp only | with_reducible refine Stays.upd ?_)

theorem State.injectDp_stays {σ s : State} (h : Stays σ s) :
    Stays σ (State.injectDp s) := by
  unfold State.injectDp
  iterate 40 (try any_goals first
    | with_reducible (first | exact h | assumption | refine Stays.ite (fun _ => ?_) (fun _ => ?_)
                            | refine Stays.ofSnd (by assumption) ?_ | refine Stays.ofFst (by assumption) ?_)
    | split | dsimp only | with_reducible refine Stays.upd ?_)

theorem State.setPort_stays {σ s : State} (h : Stays σ s) (p : Nat) (q : Port) :
    Stays σ (State.setPort s p q) := by
  unfold State.setPort
  iterate 40 (try any_goals first
    | with_reducible (first | exact h | assumption | refine Stays.ite (fun _ => ?_) (fun _ => ?_)
                            | refine Stays.ofSnd (by assumption) ?_ | refine Stays.ofFst (by assumption) ?_)
    | split | dsimp only | with_reducible refine Stays.upd ?_)

theorem State.updPort_stays {σ s : State} (h : Stays σ s) (p : Nat) (f : Port → Port) :
    Stays σ (State.updPort s p f) := by
  unfold State.updPort
  iterate 40 (try any_goals first
    | with_reducible (first | exact h | assumption | apply State.setPort_stays | refine Stays.ite (fun _ => ?_) (fun _ => ?_)
                            | refine Stays.ofSnd (by assumption) ?_ | refine Stays.ofFst (by assumption) ?_)
    | split | dsimp only | with_reducible refine Stays.upd ?_)

theorem State.mpSend_stays {σ s : State} (h : Stays σ s) (c : MCmd) (qp : Nat) :
    Stays σ (State.mpSend s c qp) := by
  unfold State.mpSend
  iterate 40 (try any_goals first
    | with_reducible (first | exact h | assumption | apply State.put_stays | apply State.updPort_stays
                            | refine Stays.ite (fun _ => ?_) (fun _ => ?_) | refine Stays.ofSnd (by assumption) ?_
                            | refine Stays.ofFst (by assumption) ?_)
    | split | dsimp only | with_reducible refine Stays.upd ?_)

theorem State.mpIssue_stays {σ s : State} (h : Stays σ s) (c : MCmd) :
    Stays σ (State.mpIssue s c) := by
  unfold State.mpIssue
  iterate 40 (try any_goals first
    | with_reducible (first | exact h | assumption | apply State.mpSend_stays | refine Stays.ite (fun _ => ?_) (fun _ => ?_)
                            | refine Stays.ofSnd (by assumption) ?_ | refine Stays.ofFst (by assumption) ?_)
    | split | dsimp only | with_reducible refine Stays.upd ?_)

theorem State.mpPumpN_stays {σ s : State} (h : Stays σ s) (port n : Nat) : Stays σ (s.mpPumpN port n) := by
  induction n generalizing s with
  | zero => exact h
  | succ n ih =>
    unfold State.mpPumpN
    split
    · exact h
    · split
      · exact ih (State.mpSend_stays (Stays.upd h) _ _)
      · exact h

theorem State.mpPump_stays {σ s : State} (h : Stays σ s) (port : Nat) :
    Stays σ (State.mpPump s port) := by
  unfold State.mpPump
  iterate 40 (try any_goals first
    | with_reducible (first | exact h | assumption | apply State.mpPumpN_stays | refine Stays.ite (fun _ => ?_) (fun _ => ?_)
                            | refine Stays.ofSnd (by assumption) ?_ | refine Stays.ofFst (by assumption) ?_)
    | split | dsimp only | with_reducible refine Stays.upd ?_)

theorem State.mpRemove_stays {σ s : State} (h : Stays σ s) (c : MCmd) :
    Stays σ (State.mpRemove s c) := by
  unfold State.mpRemove
  iterate 40 (try any_goals first
    | with_reducible (first | exact h | assumption | refine Stays.ite (fun _ => ?_) (fun _ => ?_)
                            | refine Stays.ofSnd (by assumption) ?_ | refine Stays.ofFst (by assumption) ?_)
    | split | dsimp only | with_reducible refine Stays.upd ?_)

theorem State.mpReplace_stays {σ s : State} (h : Stays σ s) (c d : MCmd) :
    Stays σ (State.mpReplace s c d) := by
  unfold State.mpReplace
  iterate 40 (try any_goals first
    | with_reducible (first | exact h | assumption | refine Stays.ite (fun _ => ?_) (fun _ => ?_)
                            | refine Stays.ofSnd (by assumption) ?_ | refine Stays.ofFst (by assumption) ?_)
    | split | dsimp only | with_reducible refine Stays.upd ?_)

theorem State.mpEnd_stays {σ s : State} (h : Stays σ s) (c : MCmd) (ok : Bool) (pay : MPayload) :
    Stays σ (State.mpEnd s c ok pay) := by
  unfold State.mpEnd
  iterate 40 (try any_goals first
    | with_reducible (first | exact h | assumption | refine Stays.ite (fun _ => ?_) (fun _ => ?_)
                            | refine Stays.ofSnd (by assumption) ?_ | refine Stays.ofFst (by assumption) ?_)
    | split | dsimp only | with_reducible refine Stays.upd ?_)

theorem State.mpEndAll_stays {σ s : State} (h : Stays σ s) (port : Nat) :
    Stays σ (State.mpEndAll s port) := by
  unfold State.mpEndAll
  iterate 40 (try any_goals first
    | with_reducible (first | exact h | assumption | refine Stays.ite (fun _ => ?_) (fun _ => ?_)
                            | refine Stays.ofSnd (by assumption) ?_ | refine Stays.ofFst (by assumption) ?_)
    | split | dsimp only | with_reducible refine Stays.upd ?_)

theorem State.mpHold_stays {σ s : State} (h : Stays σ s) (port : Nat) :
    Stays σ (State.mpHold s port) := by
  unfold State.mpHold
  iterate 40 (try any_goals first
    | with_reducible (first | exact h | assumption | refine Stays.ite (fun _ => ?_) (fun _ => ?_)
                            | refine Stays.ofSnd (by assumption) ?_ | refine Stays.ofFst (by assumption) ?_)
    | split | dsimp only | with_reducible refine Stays.upd ?_)

theorem State.sbSend_stays {σ s : State} (h : Stays σ s) (w0 w1 : Nat) :
    Stays σ (State.sbSend s w0 w1) := by
  unfold State.sbSend
  iterate 40 (try any_goals first
    | with_reducible (first | exact h | assumption | apply State.put_stays | refine Stays.ite (fun _ => ?_) (fun _ => ?_)
                            | refine Stays.ofSnd (by assumption) ?_ | refine Stays.ofFst (by assumption) ?_)
    | split | dsimp only | with_reducible refine Stays.upd ?_)

theorem State.sbSync_stays {σ s : State} (h : Stays σ s) :
    Stays σ (State.sbSync s) := by
  unfold State.sbSync
  iterate 40 (try any_goals first
    | with_reducible (first | exact h | assumption | apply State.sbSend_stays | refine Stays.ite (fun _ => ?_) (fun _ => ?_)
                            | refine Stays.ofSnd (by assumption) ?_ | refine Stays.ofFst (by assumption) ?_)
    | split | dsimp only | with_reducible refine Stays.upd ?_)

theorem State.lgCountWaits_stays {σ s : State} (h : Stays σ s) :
    Stays σ (State.lgCountWaits s) := by
  unfold State.lgCountWaits
  iterate 40 (try any_goals first
    | with_reducible (first | exact h | assumption | apply State.bumpN_stays | refine Stays.ite (fun _ => ?_) (fun _ => ?_)
                            | refine Stays.ofSnd (by assumption) ?_ | refine Stays.ofFst (by assumption) ?_)
    | split | dsimp only | with_reducible refine Stays.upd ?_)

theorem State.lgAsk_stays {σ s : State} (h : Stays σ s) (r : LgReq) :
    Stays σ (State.lgAsk s r) := by
  unfold State.lgAsk
  iterate 40 (try any_goals first
    | with_reducible (first | exact h | assumption | apply State.lgCountWaits_stays
                            | refine Stays.ite (fun _ => ?_) (fun _ => ?_) | refine Stays.ofSnd (by assumption) ?_
                            | refine Stays.ofFst (by assumption) ?_)
    | split | dsimp only | with_reducible refine Stays.upd ?_)

theorem State.lgTouch_stays {σ s : State} (h : Stays σ s) (arr seq : Nat) :
    Stays σ (State.lgTouch s arr seq) := by
  unfold State.lgTouch
  iterate 40 (try any_goals first
    | with_reducible (first | exact h | assumption | refine Stays.ite (fun _ => ?_) (fun _ => ?_)
                            | refine Stays.ofSnd (by assumption) ?_ | refine Stays.ofFst (by assumption) ?_)
    | split | dsimp only | with_reducible refine Stays.upd ?_)

theorem State.lgWrite_stays {σ s : State} (h : Stays σ s) (r : LgReq) :
    Stays σ (State.lgWrite s r).2 := by
  unfold State.lgWrite
  iterate 40 (try any_goals first
    | with_reducible (first | exact h | assumption | apply State.keepPut_stays | apply State.lgTouch_stays
                            | apply State.setReg64_stays | refine Stays.ite (fun _ => ?_) (fun _ => ?_)
                            | refine Stays.ofSnd (by assumption) ?_ | refine Stays.ofFst (by assumption) ?_)
    | split | dsimp only | with_reducible refine Stays.upd ?_)

theorem State.lgRetire_stays {σ s : State} (h : Stays σ s) :
    Stays σ (State.lgRetire s) := by
  unfold State.lgRetire
  iterate 40 (try any_goals first
    | with_reducible (first | exact h | assumption | refine Stays.ite (fun _ => ?_) (fun _ => ?_)
                            | refine Stays.ofSnd (by assumption) ?_ | refine Stays.ofFst (by assumption) ?_)
    | split | dsimp only | with_reducible refine Stays.upd ?_)

theorem State.lgPaged_stays {σ s : State} (h : Stays σ s) (arr page head : Nat) :
    Stays σ (State.lgPaged s arr page head) := by
  unfold State.lgPaged
  iterate 40 (try any_goals first
    | with_reducible (first | exact h | assumption | apply State.lgRetire_stays | refine Stays.ite (fun _ => ?_) (fun _ => ?_)
                            | refine Stays.ofSnd (by assumption) ?_ | refine Stays.ofFst (by assumption) ?_)
    | split | dsimp only | with_reducible refine Stays.upd ?_)

theorem State.setFrame_stays {σ s : State} (h : Stays σ s) (n : Nat) (f : Frame) :
    Stays σ (State.setFrame s n f) := by
  unfold State.setFrame
  iterate 40 (try any_goals first
    | with_reducible (first | exact h | assumption | refine Stays.ite (fun _ => ?_) (fun _ => ?_)
                            | refine Stays.ofSnd (by assumption) ?_ | refine Stays.ofFst (by assumption) ?_)
    | split | dsimp only | with_reducible refine Stays.upd ?_)

theorem State.updFrame_stays {σ s : State} (h : Stays σ s) (n : Nat) (g : Frame → Frame) :
    Stays σ (State.updFrame s n g) := by
  unfold State.updFrame
  iterate 40 (try any_goals first
    | with_reducible (first | exact h | assumption | apply State.setFrame_stays | refine Stays.ite (fun _ => ?_) (fun _ => ?_)
                            | refine Stays.ofSnd (by assumption) ?_ | refine Stays.ofFst (by assumption) ?_)
    | split | dsimp only | with_reducible refine Stays.upd ?_)

theorem State.dropFrame_stays {σ s : State} (h : Stays σ s) (n : Nat) :
    Stays σ (State.dropFrame s n) := by
  unfold State.dropFrame
  iterate 40 (try any_goals first
    | with_reducible (first | exact h | assumption | refine Stays.ite (fun _ => ?_) (fun _ => ?_)
                            | refine Stays.ofSnd (by assumption) ?_ | refine Stays.ofFst (by assumption) ?_)
    | split | dsimp only | with_reducible refine Stays.upd ?_)

theorem State.setStream_stays {σ s : State} (h : Stays σ s) (n : Nat) (x : Stream) :
    Stays σ (State.setStream s n x) := by
  unfold State.setStream
  iterate 40 (try any_goals first
    | with_reducible (first | exact h | assumption | refine Stays.ite (fun _ => ?_) (fun _ => ?_)
                            | refine Stays.ofSnd (by assumption) ?_ | refine Stays.ofFst (by assumption) ?_)
    | split | dsimp only | with_reducible refine Stays.upd ?_)

theorem State.updStream_stays {σ s : State} (h : Stays σ s) (n : Nat) (f : Stream → Stream) :
    Stays σ (State.updStream s n f) := by
  unfold State.updStream
  iterate 40 (try any_goals first
    | with_reducible (first | exact h | assumption | apply State.setStream_stays | refine Stays.ite (fun _ => ?_) (fun _ => ?_)
                            | refine Stays.ofSnd (by assumption) ?_ | refine Stays.ofFst (by assumption) ?_)
    | split | dsimp only | with_reducible refine Stays.upd ?_)

theorem State.evictFrom_stays {σ s : State} (h : Stays σ s) (l : List Nat) : Stays σ (s.evictFrom l).1 := by
  induction l generalizing s with
  | nil => exact h
  | cons n t ih =>
    unfold State.evictFrom
    split
    · exact ih h
    · split
      · exact Stays.upd (State.dropFrame_stays h n)
      · exact ih (Stays.upd (State.updFrame_stays h n _) )

theorem State.evict_stays {σ s : State} (h : Stays σ s) :
    Stays σ (State.evict s).1 := by
  unfold State.evict
  iterate 40 (try any_goals first
    | with_reducible (first | exact h | assumption | apply State.evictFrom_stays | refine Stays.ite (fun _ => ?_) (fun _ => ?_)
                            | refine Stays.ofSnd (by assumption) ?_ | refine Stays.ofFst (by assumption) ?_)
    | split | dsimp only | with_reducible refine Stays.upd ?_)

theorem State.allocSlot_stays {σ s : State} (h : Stays σ s) (n fuel : Nat) : Stays σ (s.allocSlot n fuel).2 := by
  induction fuel generalizing s with
  | zero => exact h
  | succ k ih =>
    unfold State.allocSlot
    dsimp only
    split
    · exact h
    · split
      · exact ih (State.evict_stays h)
      · exact State.evict_stays h

theorem State.getSlot_stays {σ s : State} (h : Stays σ s) (r : ArrayRec) :
    Stays σ (State.getSlot s r).2 := by
  unfold State.getSlot
  iterate 40 (try any_goals first
    | with_reducible (first | exact h | assumption | apply State.allocSlot_stays | refine Stays.ite (fun _ => ?_) (fun _ => ?_)
                            | refine Stays.ofSnd (by assumption) ?_ | refine Stays.ofFst (by assumption) ?_)
    | split | dsimp only | with_reducible refine Stays.upd ?_)

theorem State.newFrame_stays {σ s : State} (h : Stays σ s) (a stripe vol : Nat) :
    Stays σ (State.newFrame s a stripe vol).2 := by
  unfold State.newFrame
  iterate 40 (try any_goals first
    | with_reducible (first | exact h | assumption | apply State.setFrame_stays | apply State.evict_stays
                            | refine Stays.ite (fun _ => ?_) (fun _ => ?_) | refine Stays.ofSnd (by assumption) ?_
                            | refine Stays.ofFst (by assumption) ?_)
    | split | dsimp only | with_reducible refine Stays.upd ?_)

theorem State.toReady_stays {σ s : State} (h : Stays σ s) (n cls : Nat) :
    Stays σ (State.toReady s n cls) := by
  unfold State.toReady
  iterate 40 (try any_goals first
    | with_reducible (first | exact h | assumption | apply State.setFrame_stays | refine Stays.ite (fun _ => ?_) (fun _ => ?_)
                            | refine Stays.ofSnd (by assumption) ?_ | refine Stays.ofFst (by assumption) ?_)
    | split | dsimp only | with_reducible refine Stays.upd ?_)

theorem State.wtCheck_stays {σ s : State} (h : Stays σ s) :
    Stays σ (State.wtCheck s) := by
  unfold State.wtCheck
  iterate 40 (try any_goals first
    | with_reducible (first | exact h | assumption | apply State.setFlag_stays | refine Stays.ite (fun _ => ?_) (fun _ => ?_)
                            | refine Stays.ofSnd (by assumption) ?_ | refine Stays.ofFst (by assumption) ?_)
    | split | dsimp only | with_reducible refine Stays.upd ?_)

theorem State.wbSet_stays {σ s : State} (h : Stays σ s) :
    Stays σ (State.wbSet s) := by
  unfold State.wbSet
  iterate 40 (try any_goals first
    | with_reducible (first | exact h | assumption | apply State.setFlag_stays | refine Stays.ite (fun _ => ?_) (fun _ => ?_)
                            | refine Stays.ofSnd (by assumption) ?_ | refine Stays.ofFst (by assumption) ?_)
    | split | dsimp only | with_reducible refine Stays.upd ?_)

theorem State.ldDrain_stays {σ s : State} (h : Stays σ s) :
    Stays σ (State.ldDrain s) := by
  unfold State.ldDrain
  iterate 40 (try any_goals first
    | with_reducible (first | exact h | assumption | apply State.toReady_stays | apply Stays.foldl | apply Stays.foldlSnd
                            | apply Stays.foldlFst | refine Stays.ite (fun _ => ?_) (fun _ => ?_)
                            | refine Stays.ofSnd (by assumption) ?_ | refine Stays.ofFst (by assumption) ?_)
    | intro _ _ _ | split | dsimp only | with_reducible refine Stays.upd ?_)

theorem State.pressTake_stays {σ s : State} (h : Stays σ s) (n : Nat) : Stays σ (s.pressTake n) := by
  induction n generalizing s with
  | zero => exact h
  | succ n ih =>
    unfold State.pressTake
    refine Stays.ite (fun _ => h) (fun _ => ?_)
    split
    · exact ih (State.toReady_stays h _ _)
    · exact h

theorem State.pressure_stays {σ s : State} (h : Stays σ s) :
    Stays σ (State.pressure s) := by
  unfold State.pressure
  iterate 40 (try any_goals first
    | with_reducible (first | exact h | assumption | apply State.setFlag_stays | apply State.pressTake_stays
                            | refine Stays.ite (fun _ => ?_) (fun _ => ?_) | refine Stays.ofSnd (by assumption) ?_
                            | refine Stays.ofFst (by assumption) ?_)
    | split | dsimp only | with_reducible refine Stays.upd ?_)

theorem State.slotJoin_stays {σ s : State} (h : Stays σ s) (h0 k : Nat) :
    Stays σ (State.slotJoin s h0 k) := by
  unfold State.slotJoin
  iterate 40 (try any_goals first
    | with_reducible (first | exact h | assumption | apply State.bump_stays | refine Stays.ite (fun _ => ?_) (fun _ => ?_)
                            | refine Stays.ofSnd (by assumption) ?_ | refine Stays.ofFst (by assumption) ?_)
    | split | dsimp only | with_reducible refine Stays.upd ?_)

theorem State.stopJoin_stays {σ s : State} (h : Stays σ s) (h0 k a stripe : Nat) :
    Stays σ (State.stopJoin s h0 k a stripe) := by
  unfold State.stopJoin
  iterate 40 (try any_goals first
    | with_reducible (first | exact h | assumption | refine Stays.ite (fun _ => ?_) (fun _ => ?_)
                            | refine Stays.ofSnd (by assumption) ?_ | refine Stays.ofFst (by assumption) ?_)
    | split | dsimp only | with_reducible refine Stays.upd ?_)

theorem State.moveWait_stays {σ s : State} (h : Stays σ s) (h0 k a stripe : Nat) :
    Stays σ (State.moveWait s h0 k a stripe) := by
  unfold State.moveWait
  iterate 40 (try any_goals first
    | with_reducible (first | exact h | assumption | apply State.slotJoin_stays | apply State.stopJoin_stays
                            | refine Stays.ite (fun _ => ?_) (fun _ => ?_) | refine Stays.ofSnd (by assumption) ?_
                            | refine Stays.ofFst (by assumption) ?_)
    | split | dsimp only | with_reducible refine Stays.upd ?_)

theorem State.ldProbe_stays {σ s : State} (h : Stays σ s) :
    Stays σ (State.ldProbe s) := by
  unfold State.ldProbe
  iterate 40 (try any_goals first
    | with_reducible (first | exact h | assumption | apply State.setReg_stays | refine Stays.ite (fun _ => ?_) (fun _ => ?_)
                            | refine Stays.ofSnd (by assumption) ?_ | refine Stays.ofFst (by assumption) ?_)
    | split | dsimp only | with_reducible refine Stays.upd ?_)

theorem State.tlMove_stays {σ s : State} (h : Stays σ s) (i : Nat) :
    Stays σ (State.tlMove s i) := by
  unfold State.tlMove
  iterate 40 (try any_goals first
    | with_reducible (first | exact h | assumption | refine Stays.ite (fun _ => ?_) (fun _ => ?_)
                            | refine Stays.ofSnd (by assumption) ?_ | refine Stays.ofFst (by assumption) ?_)
    | split | dsimp only | with_reducible refine Stays.upd ?_)

theorem State.tlOver_stays {σ s : State} (h : Stays σ s) :
    Stays σ (State.tlOver s) := by
  unfold State.tlOver
  iterate 40 (try any_goals first
    | with_reducible (first | exact h | assumption | apply State.bump_stays | apply State.noteD_stays
                            | apply State.setFlag_stays | refine Stays.ite (fun _ => ?_) (fun _ => ?_)
                            | refine Stays.ofSnd (by assumption) ?_ | refine Stays.ofFst (by assumption) ?_)
    | split | dsimp only | with_reducible refine Stays.upd ?_)

theorem State.tlRelease_stays {σ s : State} (h : Stays σ s) (h0 : Nat) :
    Stays σ (State.tlRelease s h0) := by
  unfold State.tlRelease
  iterate 40 (try any_goals first
    | with_reducible (first | exact h | assumption | apply State.tlOver_stays | refine Stays.ite (fun _ => ?_) (fun _ => ?_)
                            | refine Stays.ofSnd (by assumption) ?_ | refine Stays.ofFst (by assumption) ?_)
    | split | dsimp only | with_reducible refine Stays.upd ?_)

theorem State.tlReserve_stays {σ s : State} (h : Stays σ s) (h : Nat) (blks : List Nat) :
    Stays σ (State.tlReserve s h blks) := by
  unfold State.tlReserve
  iterate 40 (try any_goals first
    | with_reducible (first | exact h | assumption | apply State.bump_stays | refine Stays.ite (fun _ => ?_) (fun _ => ?_)
                            | refine Stays.ofSnd (by assumption) ?_ | refine Stays.ofFst (by assumption) ?_)
    | split | dsimp only | with_reducible refine Stays.upd ?_)

theorem State.tlSpend_stays {σ s : State} (h : Stays σ s) (h blk : Nat) :
    Stays σ (State.tlSpend s h blk) := by
  unfold State.tlSpend
  iterate 40 (try any_goals first
    | with_reducible (first | exact h | assumption | refine Stays.ite (fun _ => ?_) (fun _ => ?_)
                            | refine Stays.ofSnd (by assumption) ?_ | refine Stays.ofFst (by assumption) ?_)
    | split | dsimp only | with_reducible refine Stays.upd ?_)

theorem State.tlAsk_stays {σ s : State} (h : Stays σ s) (h : Nat) (blks : List Nat) (alone : Bool) :
    Stays σ (State.tlAsk s h blks alone).2 := by
  unfold State.tlAsk
  iterate 40 (try any_goals first
    | with_reducible (first | exact h | assumption | apply State.bump_stays | apply State.tlReserve_stays
                            | refine Stays.ite (fun _ => ?_) (fun _ => ?_) | refine Stays.ofSnd (by assumption) ?_
                            | refine Stays.ofFst (by assumption) ?_)
    | split | dsimp only | with_reducible refine Stays.upd ?_)

theorem State.tlLost_stays {σ s : State} (h : Stays σ s) (wheel pack : Bool) : Stays σ (State.tlLost s wheel pack) := by
  unfold State.tlLost
  exact Stays.ite (fun _ => State.note_stays (Stays.ite (fun _ => State.note_stays h _ _ _ _) fun _ => h) _ _ _ _)
    (fun _ => Stays.ite (fun _ => State.note_stays h _ _ _ _) fun _ => h)

theorem State.tlRecompute_stays {σ s : State} (h : Stays σ s) :
    Stays σ (State.tlRecompute s) := by
  unfold State.tlRecompute
  iterate 40 (try any_goals first
    | with_reducible (first | exact h | assumption | apply State.setReg_stays | apply State.setFld_stays
                            | apply State.setFlag_stays | apply State.setReg64_stays | apply State.note_stays
                            | apply State.tlMove_stays | apply State.tlOver_stays | apply State.tlLost_stays
                            | apply Stays.foldl | apply Stays.foldlSnd | apply Stays.foldlFst
                            | refine Stays.ite (fun _ => ?_) (fun _ => ?_) | refine Stays.ofSnd (by assumption) ?_
                            | refine Stays.ofFst (by assumption) ?_)
    | intro _ _ _ | split | dsimp only | with_reducible refine Stays.upd ?_)

theorem State.setSq_stays {σ s : State} (h : Stays σ s) (f : Func) (q : Nat) (x : Sq) :
    Stays σ (State.setSq s f q x) := by
  unfold State.setSq
  iterate 40 (try any_goals first
    | with_reducible (first | exact h | assumption | refine Stays.ite (fun _ => ?_) (fun _ => ?_)
                            | refine Stays.ofSnd (by assumption) ?_ | refine Stays.ofFst (by assumption) ?_)
    | split | dsimp only | with_reducible refine Stays.upd ?_)

theorem State.setCq_stays {σ s : State} (h : Stays σ s) (f : Func) (c : Nat) (x : Cq) :
    Stays σ (State.setCq s f c x) := by
  unfold State.setCq
  iterate 40 (try any_goals first
    | with_reducible (first | exact h | assumption | refine Stays.ite (fun _ => ?_) (fun _ => ?_)
                            | refine Stays.ofSnd (by assumption) ?_ | refine Stays.ofFst (by assumption) ?_)
    | split | dsimp only | with_reducible refine Stays.upd ?_)

theorem State.updSq_stays {σ s : State} (h : Stays σ s) (f : Func) (q : Nat) (g : Sq → Sq) :
    Stays σ (State.updSq s f q g) := by
  unfold State.updSq
  iterate 40 (try any_goals first
    | with_reducible (first | exact h | assumption | apply State.setSq_stays | refine Stays.ite (fun _ => ?_) (fun _ => ?_)
                            | refine Stays.ofSnd (by assumption) ?_ | refine Stays.ofFst (by assumption) ?_)
    | split | dsimp only | with_reducible refine Stays.upd ?_)

theorem State.updCq_stays {σ s : State} (h : Stays σ s) (f : Func) (c : Nat) (g : Cq → Cq) :
    Stays σ (State.updCq s f c g) := by
  unfold State.updCq
  iterate 40 (try any_goals first
    | with_reducible (first | exact h | assumption | apply State.setCq_stays | refine Stays.ite (fun _ => ?_) (fun _ => ?_)
                            | refine Stays.ofSnd (by assumption) ?_ | refine Stays.ofFst (by assumption) ?_)
    | split | dsimp only | with_reducible refine Stays.upd ?_)

theorem State.markPool_stays {σ s : State} (h : Stays σ s) :
    Stays σ (State.markPool s) := by
  unfold State.markPool
  iterate 40 (try any_goals first
    | with_reducible (first | exact h | assumption | apply State.setFlag_stays | refine Stays.ite (fun _ => ?_) (fun _ => ?_)
                            | refine Stays.ofSnd (by assumption) ?_ | refine Stays.ofFst (by assumption) ?_)
    | split | dsimp only | with_reducible refine Stays.upd ?_)

theorem State.creditBack_stays {σ s : State} (h : Stays σ s) (f : Func) (c n : Nat) :
    Stays σ (State.creditBack s f c n) := by
  unfold State.creditBack
  iterate 40 (try any_goals first
    | with_reducible (first | exact h | assumption | apply State.markPool_stays | apply State.updCq_stays
                            | refine Stays.ite (fun _ => ?_) (fun _ => ?_) | refine Stays.ofSnd (by assumption) ?_
                            | refine Stays.ofFst (by assumption) ?_)
    | split | dsimp only | with_reducible refine Stays.upd ?_)

theorem State.haltErr_stays {σ s : State} (h : Stays σ s) (f : Func) (q err : Nat) :
    Stays σ (State.haltErr s f q err) := by
  unfold State.haltErr
  iterate 40 (try any_goals first
    | with_reducible (first | exact h | assumption | apply State.note_stays | apply State.updSq_stays
                            | refine Stays.ite (fun _ => ?_) (fun _ => ?_) | refine Stays.ofSnd (by assumption) ?_
                            | refine Stays.ofFst (by assumption) ?_)
    | split | dsimp only | with_reducible refine Stays.upd ?_)

theorem State.haltFunc_stays {σ s : State} (h : Stays σ s) (f : Func) (st : Nat) :
    Stays σ (State.haltFunc s f st) := by
  unfold State.haltFunc
  iterate 40 (try any_goals first
    | with_reducible (first | exact h | assumption | refine Stays.ite (fun _ => ?_) (fun _ => ?_)
                            | refine Stays.ofSnd (by assumption) ?_ | refine Stays.ofFst (by assumption) ?_)
    | split | dsimp only | with_reducible refine Stays.upd ?_)

theorem State.tailDoorbell_stays {σ s : State} (h : Stays σ s) (f : Func) (q v : Nat) :
    Stays σ (State.tailDoorbell s f q v) := by
  unfold State.tailDoorbell
  iterate 40 (try any_goals first
    | with_reducible (first | exact h | assumption | apply State.bump_stays | apply State.haltErr_stays
                            | apply State.setSq_stays | refine Stays.ite (fun _ => ?_) (fun _ => ?_)
                            | refine Stays.ofSnd (by assumption) ?_ | refine Stays.ofFst (by assumption) ?_)
    | split | dsimp only | with_reducible refine Stays.upd ?_)

theorem State.endWait_stays {σ s : State} (h : Stays σ s) (f : Func) (c : Nat) :
    Stays σ (State.endWait s f c) := by
  unfold State.endWait
  iterate 40 (try any_goals first
    | with_reducible (first | exact h | assumption | apply State.alHist_stays | apply State.alMax_stays
                            | apply State.setCq_stays | refine Stays.ite (fun _ => ?_) (fun _ => ?_)
                            | refine Stays.ofSnd (by assumption) ?_ | refine Stays.ofFst (by assumption) ?_)
    | split | dsimp only | with_reducible refine Stays.upd ?_)

theorem State.headDoorbell_stays {σ s : State} (h : Stays σ s) (f : Func) (c v : Nat) :
    Stays σ (State.headDoorbell s f c v) := by
  unfold State.headDoorbell
  iterate 40 (try any_goals first
    | with_reducible (first | exact h | assumption | apply State.bump_stays | apply State.endWait_stays | apply State.note_stays
                            | apply State.setCq_stays | refine Stays.ite (fun _ => ?_) (fun _ => ?_)
                            | refine Stays.ofSnd (by assumption) ?_ | refine Stays.ofFst (by assumption) ?_)
    | split | dsimp only | with_reducible refine Stays.upd ?_)

theorem State.inlineCommit_stays {σ s : State} (h : Stays σ s) (f : Func) (q : Nat) (asm : List (Option Byte)) :
    Stays σ (State.inlineCommit s f q asm) := by
  unfold State.inlineCommit
  iterate 40 (try any_goals first
    | with_reducible (first | exact h | assumption | apply State.bump_stays | apply State.haltErr_stays
                            | apply State.setFlag_stays | apply State.setSq_stays | refine Stays.ite (fun _ => ?_) (fun _ => ?_)
                            | refine Stays.ofSnd (by assumption) ?_ | refine Stays.ofFst (by assumption) ?_)
    | split | dsimp only | with_reducible refine Stays.upd ?_)

theorem State.inlineWrite_stays {σ s : State} (h : Stays σ s) (f : Func) (q off : Nat) (d : List Byte) :
    Stays σ (State.inlineWrite s f q off d) := by
  unfold State.inlineWrite
  iterate 40 (try any_goals first
    | with_reducible (first | exact h | assumption | apply State.bump_stays | apply State.inlineCommit_stays
                            | apply State.setSq_stays | refine Stays.ite (fun _ => ?_) (fun _ => ?_)
                            | refine Stays.ofSnd (by assumption) ?_ | refine Stays.ofFst (by assumption) ?_)
    | split | dsimp only | with_reducible refine Stays.upd ?_)

theorem State.inlWrite_stays {σ s : State} (h : Stays σ s) (f : Func) (q off : Nat) (data : List Byte) :
    Stays σ (State.inlWrite s f q off data) := by
  unfold State.inlWrite
  iterate 40 (try any_goals first
    | with_reducible (first | exact h | assumption | apply State.bump_stays | apply State.inlineWrite_stays
                            | refine Stays.ite (fun _ => ?_) (fun _ => ?_) | refine Stays.ofSnd (by assumption) ?_
                            | refine Stays.ofFst (by assumption) ?_)
    | split | dsimp only | with_reducible refine Stays.upd ?_)

theorem State.inlFlush_stays {σ s : State} (h : Stays σ s) (f : Func) (q : Nat) :
    Stays σ (State.inlFlush s f q) := by
  unfold State.inlFlush
  iterate 40 (try any_goals first
    | with_reducible (first | exact h | assumption | apply State.updSq_stays | refine Stays.ite (fun _ => ?_) (fun _ => ?_)
                            | refine Stays.ofSnd (by assumption) ?_ | refine Stays.ofFst (by assumption) ?_)
    | split | dsimp only | with_reducible refine Stays.upd ?_)

theorem State.reportHead_stays {σ s : State} (h : Stays σ s) (f : Func) (q : Nat) :
    Stays σ (State.reportHead s f q) := by
  unfold State.reportHead
  iterate 40 (try any_goals first
    | with_reducible (first | exact h | assumption | apply State.hostWrite_stays | apply State.setSq_stays
                            | refine Stays.ite (fun _ => ?_) (fun _ => ?_) | refine Stays.ofSnd (by assumption) ?_
                            | refine Stays.ofFst (by assumption) ?_)
    | split | dsimp only | with_reducible refine Stays.upd ?_)

theorem State.advanceHead_stays {σ s : State} (h : Stays σ s) (f : Func) (q n : Nat) :
    Stays σ (State.advanceHead s f q n) := by
  unfold State.advanceHead
  iterate 40 (try any_goals first
    | with_reducible (first | exact h | assumption | apply State.updSq_stays | refine Stays.ite (fun _ => ?_) (fun _ => ?_)
                            | refine Stays.ofSnd (by assumption) ?_ | refine Stays.ofFst (by assumption) ?_)
    | split | dsimp only | with_reducible refine Stays.upd ?_)

theorem State.cfgErr_stays {σ s : State} (h : Stays σ s) (f : Func) :
    Stays σ (State.cfgErr s f) := by
  unfold State.cfgErr
  iterate 40 (try any_goals first
    | with_reducible (first | exact h | assumption | apply State.setFlag_stays | refine Stays.ite (fun _ => ?_) (fun _ => ?_)
                            | refine Stays.ofSnd (by assumption) ?_ | refine Stays.ofFst (by assumption) ?_)
    | split | dsimp only | with_reducible refine Stays.upd ?_)

theorem State.sqEnable_stays {σ s : State} (h : Stays σ s) (f : Func) (q : Nat) :
    Stays σ (State.sqEnable s f q) := by
  unfold State.sqEnable
  iterate 40 (try any_goals first
    | with_reducible (first | exact h | assumption | apply State.bump_stays | apply State.cfgErr_stays
                            | apply State.setFlag_stays | apply State.setSq_stays | refine Stays.ite (fun _ => ?_) (fun _ => ?_)
                            | refine Stays.ofSnd (by assumption) ?_ | refine Stays.ofFst (by assumption) ?_)
    | split | dsimp only | with_reducible refine Stays.upd ?_)

theorem State.fetchGone_stays {σ s : State} (h : Stays σ s) (f : Func) (q : Nat) :
    Stays σ (State.fetchGone s f q) := by
  unfold State.fetchGone
  iterate 40 (try any_goals first
    | with_reducible (first | exact h | assumption | refine Stays.ite (fun _ => ?_) (fun _ => ?_)
                            | refine Stays.ofSnd (by assumption) ?_ | refine Stays.ofFst (by assumption) ?_)
    | split | dsimp only | with_reducible refine Stays.upd ?_)

theorem State.sqDisable_stays {σ s : State} (h : Stays σ s) (f : Func) (q : Nat) :
    Stays σ (State.sqDisable s f q) := by
  unfold State.sqDisable
  iterate 40 (try any_goals first
    | with_reducible (first | exact h | assumption | apply State.bump_stays | apply State.fetchGone_stays
                            | apply State.setFlag_stays | apply State.setSq_stays | refine Stays.ite (fun _ => ?_) (fun _ => ?_)
                            | refine Stays.ofSnd (by assumption) ?_ | refine Stays.ofFst (by assumption) ?_)
    | split | dsimp only | with_reducible refine Stays.upd ?_)

theorem State.cqEnable_stays {σ s : State} (h : Stays σ s) (f : Func) (q : Nat) :
    Stays σ (State.cqEnable s f q) := by
  unfold State.cqEnable
  iterate 40 (try any_goals first
    | with_reducible (first | exact h | assumption | apply State.bump_stays | apply State.setCq_stays
                            | apply State.setFlag_stays | refine Stays.ite (fun _ => ?_) (fun _ => ?_)
                            | refine Stays.ofSnd (by assumption) ?_ | refine Stays.ofFst (by assumption) ?_)
    | split | dsimp only | with_reducible refine Stays.upd ?_)

theorem State.discardComps_stays {σ s : State} (h : Stays σ s) (p : Func → Nat → Bool) :
    Stays σ (State.discardComps s p).2 := by
  unfold State.discardComps
  iterate 40 (try any_goals first
    | with_reducible (first | exact h | assumption | apply State.markPool_stays | apply State.note_stays
                            | refine Stays.ite (fun _ => ?_) (fun _ => ?_) | refine Stays.ofSnd (by assumption) ?_
                            | refine Stays.ofFst (by assumption) ?_)
    | split | dsimp only | with_reducible refine Stays.upd ?_)

theorem State.cqDisable_stays {σ s : State} (h : Stays σ s) (f : Func) (q : Nat) :
    Stays σ (State.cqDisable s f q) := by
  unfold State.cqDisable
  iterate 40 (try any_goals first
    | with_reducible (first | exact h | assumption | apply State.bump_stays | apply State.bumpN_stays | apply State.cfgErr_stays
                            | apply State.discardComps_stays | apply State.setFlag_stays | apply State.updCq_stays
                            | refine Stays.ite (fun _ => ?_) (fun _ => ?_) | refine Stays.ofSnd (by assumption) ?_
                            | refine Stays.ofFst (by assumption) ?_)
    | split | dsimp only | with_reducible refine Stays.upd ?_)

theorem State.setMsix_stays {σ s : State} (h : Stays σ s) (f : Func) (v : Nat) (m : Msix) :
    Stays σ (State.setMsix s f v m) := by
  unfold State.setMsix
  iterate 40 (try any_goals first
    | with_reducible (first | exact h | assumption | refine Stays.ite (fun _ => ?_) (fun _ => ?_)
                            | refine Stays.ofSnd (by assumption) ?_ | refine Stays.ofFst (by assumption) ?_)
    | split | dsimp only | with_reducible refine Stays.upd ?_)

theorem State.sendMsix_stays {σ s : State} (h : Stays σ s) (f : Func) (v : Nat) :
    Stays σ (State.sendMsix s f v) := by
  unfold State.sendMsix
  iterate 40 (try any_goals first
    | with_reducible (first | exact h | assumption | apply State.put_stays | apply State.setMsix_stays
                            | refine Stays.ite (fun _ => ?_) (fun _ => ?_) | refine Stays.ofSnd (by assumption) ?_
                            | refine Stays.ofFst (by assumption) ?_)
    | split | dsimp only | with_reducible refine Stays.upd ?_)

theorem State.signal_stays {σ s : State} (h : Stays σ s) (f : Func) (c : Nat) :
    Stays σ (State.signal s f c) := by
  unfold State.signal
  iterate 40 (try any_goals first
    | with_reducible (first | exact h | assumption | apply State.sendMsix_stays | apply State.updCq_stays
                            | refine Stays.ite (fun _ => ?_) (fun _ => ?_) | refine Stays.ofSnd (by assumption) ?_
                            | refine Stays.ofFst (by assumption) ?_)
    | split | dsimp only | with_reducible refine Stays.upd ?_)

theorem State.unmaskSend_stays {σ s : State} (h : Stays σ s) (f : Func) (v : Nat) :
    Stays σ (State.unmaskSend s f v) := by
  unfold State.unmaskSend
  iterate 40 (try any_goals first
    | with_reducible (first | exact h | assumption | apply State.put_stays | apply State.setMsix_stays
                            | refine Stays.ite (fun _ => ?_) (fun _ => ?_) | refine Stays.ofSnd (by assumption) ?_
                            | refine Stays.ofFst (by assumption) ?_)
    | split | dsimp only | with_reducible refine Stays.upd ?_)

theorem State.writeCq_stays {σ s : State} (h : Stays σ s) (f : Func) (cq : Nat) (c : Comp) :
    Stays σ (State.writeCq s f cq c) := by
  unfold State.writeCq
  iterate 40 (try any_goals first
    | with_reducible (first | exact h | assumption | apply State.hostWrite_stays | apply State.setCq_stays
                            | apply State.signal_stays | refine Stays.ite (fun _ => ?_) (fun _ => ?_)
                            | refine Stays.ofSnd (by assumption) ?_ | refine Stays.ofFst (by assumption) ?_)
    | split | dsimp only | with_reducible refine Stays.upd ?_)

theorem State.writeComp_stays {σ s : State} (h : Stays σ s) (c : Comp) :
    Stays σ (State.writeComp s c) := by
  unfold State.writeComp
  iterate 40 (try any_goals first
    | with_reducible (first | exact h | assumption | apply State.creditBack_stays | apply State.reportHead_stays
                            | apply State.writeCq_stays | refine Stays.ite (fun _ => ?_) (fun _ => ?_)
                            | refine Stays.ofSnd (by assumption) ?_ | refine Stays.ofFst (by assumption) ?_)
    | split | dsimp only | with_reducible refine Stays.upd ?_)

theorem State.pmeSet_stays {σ s : State} (h : Stays σ s) (sev : Nat) :
    Stays σ (State.pmeSet s sev) := by
  unfold State.pmeSet
  iterate 40 (try any_goals first
    | with_reducible (first | exact h | assumption | apply State.bump_stays | apply State.put_stays | apply State.setCfg_stays
                            | refine Stays.ite (fun _ => ?_) (fun _ => ?_) | refine Stays.ofSnd (by assumption) ?_
                            | refine Stays.ofFst (by assumption) ?_)
    | split | dsimp only | with_reducible refine Stays.upd ?_)

theorem State.grantDeposit_stays {σ s : State} (h : Stays σ s) :
    Stays σ (State.grantDeposit s) := by
  unfold State.grantDeposit
  iterate 40 (try any_goals first
    | with_reducible (first | exact h | assumption | apply State.note_stays | apply State.pmeSet_stays
                            | refine Stays.ite (fun _ => ?_) (fun _ => ?_) | refine Stays.ofSnd (by assumption) ?_
                            | refine Stays.ofFst (by assumption) ?_)
    | split | dsimp only | with_reducible refine Stays.upd ?_)

theorem State.drainRing_stays {σ s : State} (h : Stays σ s) (f : Func) (c : Nat) :
    Stays σ (State.drainRing s f c) := by
  unfold State.drainRing
  iterate 40 (try any_goals first
    | with_reducible (first | exact h | assumption | apply State.bumpN_stays | apply State.creditBack_stays
                            | apply State.setCq_stays | apply State.writeComp_stays | apply Stays.foldl | apply Stays.foldlSnd
                            | apply Stays.foldlFst | refine Stays.ite (fun _ => ?_) (fun _ => ?_)
                            | refine Stays.ofSnd (by assumption) ?_ | refine Stays.ofFst (by assumption) ?_)
    | intro _ _ _ | split | dsimp only | with_reducible refine Stays.upd ?_)

theorem State.cqLineRead_stays {σ s : State} (h : Stays σ s) (f : Func) (c pos : Nat) (line : List Byte) :
    Stays σ (State.cqLineRead s f c pos line) := by
  unfold State.cqLineRead
  iterate 40 (try any_goals first
    | with_reducible (first | exact h | assumption | apply State.endWait_stays | apply State.setCq_stays
                            | refine Stays.ite (fun _ => ?_) (fun _ => ?_) | refine Stays.ofSnd (by assumption) ?_
                            | refine Stays.ofFst (by assumption) ?_)
    | split | dsimp only | with_reducible refine Stays.upd ?_)

theorem State.frameFor_stays {σ s : State} (h : Stays σ s) (a stripe vol : Nat) :
    Stays σ (State.frameFor s a stripe vol).2 := by
  unfold State.frameFor
  iterate 40 (try any_goals first
    | with_reducible (first | exact h | assumption | apply State.newFrame_stays | refine Stays.ite (fun _ => ?_) (fun _ => ?_)
                            | refine Stays.ofSnd (by assumption) ?_ | refine Stays.ofFst (by assumption) ?_)
    | split | dsimp only | with_reducible refine Stays.upd ?_)

theorem State.slotFor_stays {σ s : State} (h : Stays σ s) (n : Nat) (r : ArrayRec) (i : Nat) :
    Stays σ (State.slotFor s n r i).2 := by
  unfold State.slotFor
  iterate 40 (try any_goals first
    | with_reducible (first | exact h | assumption | apply State.bump_stays | apply State.getSlot_stays
                            | refine Stays.ite (fun _ => ?_) (fun _ => ?_) | refine Stays.ofSnd (by assumption) ?_
                            | refine Stays.ofFst (by assumption) ?_)
    | split | dsimp only | with_reducible refine Stays.upd ?_)

theorem State.putBlock_stays {σ s : State} (h : Stays σ s) (a stripe vol i o st : Nat) (r : ArrayRec) (data : List Byte) :
    Stays σ (State.putBlock s a stripe vol i o st r data).2 := by
  unfold State.putBlock
  iterate 40 (try any_goals first
    | with_reducible (first | exact h | assumption | apply State.memPut_stays | apply State.updFrame_stays
                            | apply State.dropFrame_stays | apply State.newFrame_stays | apply State.toReady_stays
                            | apply State.frameFor_stays | apply State.slotFor_stays
                            | refine Stays.ite (fun _ => ?_) (fun _ => ?_) | refine Stays.ofSnd (by assumption) ?_
                            | refine Stays.ofFst (by assumption) ?_)
    | split | dsimp only | with_reducible refine Stays.upd ?_)

theorem State.markWt_stays {σ s : State} (h : Stays σ s) (l : List (Nat × Nat)) :
    Stays σ (State.markWt s l) := by
  unfold State.markWt
  iterate 40 (try any_goals first
    | with_reducible (first | exact h | assumption | apply State.toReady_stays | apply State.updFrame_stays | apply Stays.foldl
                            | apply Stays.foldlSnd | apply Stays.foldlFst | refine Stays.ite (fun _ => ?_) (fun _ => ?_)
                            | refine Stays.ofSnd (by assumption) ?_ | refine Stays.ofFst (by assumption) ?_)
    | intro _ _ _ | split | dsimp only | with_reducible refine Stays.upd ?_)

theorem State.goWt_stays {σ s : State} (h : Stays σ s) (h : Nat) :
    Stays σ (State.goWt s h) := by
  unfold State.goWt
  iterate 40 (try any_goals first
    | with_reducible (first | exact h | assumption | apply State.markWt_stays | apply State.setCmd_stays
                            | refine Stays.ite (fun _ => ?_) (fun _ => ?_) | refine Stays.ofSnd (by assumption) ?_
                            | refine Stays.ofFst (by assumption) ?_)
    | split | dsimp only | with_reducible refine Stays.upd ?_)

theorem State.refuse_stays {σ s : State} (h : Stays σ s) (h0 : Nat) :
    Stays σ (State.refuse s h0) := by
  unfold State.refuse
  iterate 40 (try any_goals first
    | with_reducible (first | exact h | assumption | apply State.updStream_stays | apply State.goWt_stays | apply Stays.foldl
                            | apply Stays.foldlSnd | apply Stays.foldlFst | refine Stays.ite (fun _ => ?_) (fun _ => ?_)
                            | refine Stays.ofSnd (by assumption) ?_ | refine Stays.ofFst (by assumption) ?_)
    | intro _ _ _ | split | dsimp only | with_reducible refine Stays.upd ?_)

theorem State.noteFrame_stays {σ s : State} (h : Stays σ s) (h n : Nat) :
    Stays σ (State.noteFrame s h n) := by
  unfold State.noteFrame
  iterate 40 (try any_goals first
    | with_reducible (first | exact h | assumption | apply State.markWt_stays | apply State.setCmd_stays
                            | refine Stays.ite (fun _ => ?_) (fun _ => ?_) | refine Stays.ofSnd (by assumption) ?_
                            | refine Stays.ofFst (by assumption) ?_)
    | split | dsimp only | with_reducible refine Stays.upd ?_)

theorem State.giveUp_stays {σ s : State} (h : Stays σ s) (h0 : Nat) :
    Stays σ (State.giveUp s h0) := by
  unfold State.giveUp
  iterate 40 (try any_goals first
    | with_reducible (first | exact h | assumption | apply State.tlRelease_stays
                            | refine Stays.ite (fun _ => ?_) (fun _ => ?_) | refine Stays.ofSnd (by assumption) ?_
                            | refine Stays.ofFst (by assumption) ?_)
    | split | dsimp only | with_reducible refine Stays.upd ?_)

theorem State.blockState_stays {σ s : State} (h : Stays σ s) (h0 k old : Nat) :
    Stays σ (State.blockState s h0 k old).2 := by
  unfold State.blockState
  iterate 40 (try any_goals first
    | with_reducible (first | exact h | assumption | apply State.tlAsk_stays | apply State.refuse_stays
                            | refine Stays.ite (fun _ => ?_) (fun _ => ?_) | refine Stays.ofSnd (by assumption) ?_
                            | refine Stays.ofFst (by assumption) ?_)
    | split | dsimp only | with_reducible refine Stays.upd ?_)

theorem State.moveAt_stays {σ s : State} (h : Stays σ s) (h0 k v : Nat) (p : Place) (data : List Byte) :
    Stays σ (State.moveAt s h0 k v p data).2 := by
  unfold State.moveAt
  iterate 40 (try any_goals first
    | with_reducible (first | exact h | assumption | apply State.pressure_stays | apply State.tlSpend_stays
                            | apply State.putBlock_stays | apply State.noteFrame_stays | apply State.blockState_stays
                            | refine Stays.ite (fun _ => ?_) (fun _ => ?_) | refine Stays.ofSnd (by assumption) ?_
                            | refine Stays.ofFst (by assumption) ?_)
    | split | dsimp only | with_reducible refine Stays.upd ?_)

theorem State.writeEnd_stays {σ s : State} (h : Stays σ s) (h : Nat) :
    Stays σ (State.writeEnd s h) := by
  unfold State.writeEnd
  iterate 40 (try any_goals first
    | with_reducible (first | exact h | assumption | apply State.finish_stays | apply State.finishSt_stays
                            | apply State.setCmd_stays | apply State.tlRelease_stays
                            | refine Stays.ite (fun _ => ?_) (fun _ => ?_) | refine Stays.ofSnd (by assumption) ?_
                            | refine Stays.ofFst (by assumption) ?_)
    | split | dsimp only | with_reducible refine Stays.upd ?_)

theorem State.moveBlk_stays {σ s : State} (h : Stays σ s) (h0 k : Nat) :
    Stays σ (State.moveBlk s h0 k) := by
  unfold State.moveBlk
  iterate 40 (try any_goals first
    | with_reducible (first | exact h | assumption | apply State.updCmd_stays | apply State.moveWait_stays
                            | apply State.moveAt_stays | apply State.writeEnd_stays
                            | refine Stays.ite (fun _ => ?_) (fun _ => ?_) | refine Stays.ofSnd (by assumption) ?_
                            | refine Stays.ofFst (by assumption) ?_)
    | split | dsimp only | with_reducible refine Stays.upd ?_)

end Sys2Proof.Machine
end

