-- ==== Sys2Proof/Laws/StaysB.lean ====
section
/-! SUPPORT. Laws: what the operations of Logs, Credit, TaskBase, Policy, Reads, Stripes keep (see Stays). -/

namespace Sys2Proof.Machine

set_option linter.all false
set_option Elab.async false

open Sys2Proof.Safety

theorem State.logZero_stays {σ s : State} (h : Stays σ s) (f : Frame) (r : ArrayRec) (lim : Nat) :
    Stays σ (State.logZero s f r lim) := by
  unfold State.logZero
  iterate 40 (try any_goals first
    | with_reducible (first | exact h | assumption | apply State.memPut_stays | apply Stays.foldl | apply Stays.foldlSnd
                            | apply Stays.foldlFst | refine Stays.ite (fun _ => ?_) (fun _ => ?_)
                            | refine Stays.ofSnd (by assumption) ?_ | refine Stays.ofFst (by assumption) ?_)
    | intro _ _ _ | split | dsimp only | with_reducible refine Stays.upd ?_)

theorem State.lapDrop_stays {σ s : State} (h : Stays σ s) (a stripe : Nat) (r : ArrayRec) :
    Stays σ (State.lapDrop s a stripe r) := by
  unfold State.lapDrop
  iterate 40 (try any_goals first
    | with_reducible (first | exact h | assumption | apply State.updFrame_stays | apply State.dropFrame_stays
                            | apply State.logZero_stays | refine Stays.ite (fun _ => ?_) (fun _ => ?_)
                            | refine Stays.ofSnd (by assumption) ?_ | refine Stays.ofFst (by assumption) ?_)
    | split | dsimp only | with_reducible refine Stays.upd ?_)

theorem State.recycle_stays {σ s : State} (h : Stays σ s) (n e : Nat) :
    Stays σ (State.recycle s n e) := by
  unfold State.recycle
  iterate 40 (try any_goals first
    | with_reducible (first | exact h | assumption | apply State.setStream_stays | apply State.lapDrop_stays
                            | refine Stays.ite (fun _ => ?_) (fun _ => ?_) | refine Stays.ofSnd (by assumption) ?_
                            | refine Stays.ofFst (by assumption) ?_)
    | split | dsimp only | with_reducible refine Stays.upd ?_)

theorem State.logPut_stays {σ s : State} (h : Stays σ s) (n : Nat) (x : Stream) (a stripe : Nat) (r : ArrayRec) (k : Nat) (b : List Byte) :
    Stays σ (State.logPut s n x a stripe r k b).2 := by
  unfold State.logPut
  iterate 40 (try any_goals first
    | with_reducible (first | exact h | assumption | apply State.updFrame_stays | apply State.putBlock_stays
                            | refine Stays.ite (fun _ => ?_) (fun _ => ?_) | refine Stays.ofSnd (by assumption) ?_
                            | refine Stays.ofFst (by assumption) ?_)
    | split | dsimp only | with_reducible refine Stays.upd ?_)

theorem State.logPads_stays {σ s : State} (h : Stays σ s) (n : Nat) (x : Stream) (a stripe : Nat) (r : ArrayRec) (off : Nat)
    (pad : List Byte) (l : List Nat) : Stays σ (s.logPads n x a stripe r off pad l).2 := by
  induction l generalizing s with
  | nil => exact h
  | cons k t ih =>
    unfold State.logPads
    split
    · rename_i e
      exact Stays.ofSnd e (State.logPut_stays h _ _ _ _ _ _ _)
    · rename_i e
      exact ih (Stays.ofSnd e (State.logPut_stays h _ _ _ _ _ _ _))

theorem State.logClose_stays {σ s : State} (h : Stays σ s) (n : Nat) :
    Stays σ (State.logClose s n).2 := by
  unfold State.logClose
  iterate 40 (try any_goals first
    | with_reducible (first | exact h | assumption | apply State.setStream_stays | apply State.toReady_stays
                            | apply State.logPut_stays | apply State.logPads_stays
                            | refine Stays.ite (fun _ => ?_) (fun _ => ?_) | refine Stays.ofSnd (by assumption) ?_
                            | refine Stays.ofFst (by assumption) ?_)
    | split | dsimp only | with_reducible refine Stays.upd ?_)

theorem State.logAssign_stays {σ s : State} (h : Stays σ s) (n len user : Nat) :
    Stays σ (State.logAssign s n len user).2 := by
  unfold State.logAssign
  iterate 40 (try any_goals first
    | with_reducible (first | exact h | assumption | apply State.setStream_stays
                            | refine Stays.ite (fun _ => ?_) (fun _ => ?_) | refine Stays.ofSnd (by assumption) ?_
                            | refine Stays.ofFst (by assumption) ?_)
    | split | dsimp only | with_reducible refine Stays.upd ?_)

theorem State.logPlace_stays {σ s : State} (h : Stays σ s) (n len user : Nat) :
    Stays σ (State.logPlace s n len user).2 := by
  unfold State.logPlace
  iterate 40 (try any_goals first
    | with_reducible (first | exact h | assumption | apply State.bump_stays | apply State.note_stays
                            | apply State.updStream_stays | apply State.recycle_stays | apply State.logClose_stays
                            | apply State.logAssign_stays | refine Stays.ite (fun _ => ?_) (fun _ => ?_)
                            | refine Stays.ofSnd (by assumption) ?_ | refine Stays.ofFst (by assumption) ?_)
    | split | dsimp only | with_reducible refine Stays.upd ?_)

theorem State.appendEnd_stays {σ s : State} (h : Stays σ s) (c : Cmd) (op : LogOp) :
    Stays σ (State.appendEnd s c op) := by
  unfold State.appendEnd
  iterate 40 (try any_goals first
    | with_reducible (first | exact h | assumption | apply State.bump_stays | apply State.finish_stays
                            | apply State.updStream_stays | refine Stays.ite (fun _ => ?_) (fun _ => ?_)
                            | refine Stays.ofSnd (by assumption) ?_ | refine Stays.ofFst (by assumption) ?_)
    | split | dsimp only | with_reducible refine Stays.upd ?_)

theorem State.appendMoved_stays {σ s : State} (h : Stays σ s) (h0 : Nat) :
    Stays σ (State.appendMoved s h0) := by
  unfold State.appendMoved
  iterate 40 (try any_goals first
    | with_reducible (first | exact h | assumption | apply State.setCmd_stays | apply State.finishSt_stays
                            | apply State.updStream_stays | apply State.tlRelease_stays | apply State.appendEnd_stays
                            | refine Stays.ite (fun _ => ?_) (fun _ => ?_) | refine Stays.ofSnd (by assumption) ?_
                            | refine Stays.ofFst (by assumption) ?_)
    | split | dsimp only | with_reducible refine Stays.upd ?_)

theorem State.appendBlk_stays {σ s : State} (h : Stays σ s) (h0 : Nat) (op : LogOp) (payload : List Byte) (k : Nat) :
    Stays σ (State.appendBlk s h0 op payload k) := by
  unfold State.appendBlk
  iterate 40 (try any_goals first
    | with_reducible (first | exact h | assumption | apply State.updCmd_stays | apply State.updFrame_stays
                            | apply State.moveWait_stays | apply State.moveAt_stays
                            | refine Stays.ite (fun _ => ?_) (fun _ => ?_) | refine Stays.ofSnd (by assumption) ?_
                            | refine Stays.ofFst (by assumption) ?_)
    | split | dsimp only | with_reducible refine Stays.upd ?_)

theorem State.appendMove_stays {σ s : State} (h : Stays σ s) (h0 : Nat) :
    Stays σ (State.appendMove s h0) := by
  unfold State.appendMove
  iterate 40 (try any_goals first
    | with_reducible (first | exact h | assumption | apply State.appendMoved_stays | apply State.appendBlk_stays
                            | apply Stays.foldl | apply Stays.foldlSnd | apply Stays.foldlFst
                            | refine Stays.ite (fun _ => ?_) (fun _ => ?_) | refine Stays.ofSnd (by assumption) ?_
                            | refine Stays.ofFst (by assumption) ?_)
    | intro _ _ _ | split | dsimp only | with_reducible refine Stays.upd ?_)

theorem State.appendSettled_stays {σ s : State} (h : Stays σ s) (h0 : Nat) :
    Stays σ (State.appendSettled s h0) := by
  unfold State.appendSettled
  iterate 40 (try any_goals first
    | with_reducible (first | exact h | assumption | apply State.updCmd_stays | apply State.appendMove_stays
                            | refine Stays.ite (fun _ => ?_) (fun _ => ?_) | refine Stays.ofSnd (by assumption) ?_
                            | refine Stays.ofFst (by assumption) ?_)
    | split | dsimp only | with_reducible refine Stays.upd ?_)

theorem State.appendCredit_stays {σ s : State} (h : Stays σ s) (h0 : Nat) (ok : Bool) :
    Stays σ (State.appendCredit s h0 ok) := by
  unfold State.appendCredit
  iterate 40 (try any_goals first
    | with_reducible (first | exact h | assumption | apply State.refuse_stays | apply State.appendSettled_stays
                            | refine Stays.ite (fun _ => ?_) (fun _ => ?_) | refine Stays.ofSnd (by assumption) ?_
                            | refine Stays.ofFst (by assumption) ?_)
    | split | dsimp only | with_reducible refine Stays.upd ?_)

theorem State.appendAsk_stays {σ s : State} (h : Stays σ s) (h0 : Nat) (op : LogOp) :
    Stays σ (State.appendAsk s h0 op) := by
  unfold State.appendAsk
  iterate 40 (try any_goals first
    | with_reducible (first | exact h | assumption | apply State.tlAsk_stays | apply State.goWt_stays
                            | apply State.appendSettled_stays | apply State.appendCredit_stays
                            | refine Stays.ite (fun _ => ?_) (fun _ => ?_) | refine Stays.ofSnd (by assumption) ?_
                            | refine Stays.ofFst (by assumption) ?_)
    | split | dsimp only | with_reducible refine Stays.upd ?_)

theorem State.appendGo_stays {σ s : State} (h : Stays σ s) (c : Cmd) (op : LogOp) :
    Stays σ (State.appendGo s c op) := by
  unfold State.appendGo
  iterate 40 (try any_goals first
    | with_reducible (first | exact h | assumption | apply State.appendAsk_stays | apply State.setCmd_stays
                            | apply State.tryRead_stays | apply Stays.foldl | apply Stays.foldlSnd | apply Stays.foldlFst
                            | refine Stays.ite (fun _ => ?_) (fun _ => ?_) | refine Stays.ofSnd (by assumption) ?_
                            | refine Stays.ofFst (by assumption) ?_)
    | intro _ _ _ | split | dsimp only | with_reducible refine Stays.upd ?_)

theorem State.appendHold_stays {σ s : State} (h : Stays σ s) (c : Cmd) (n : Nat) :
    Stays σ (State.appendHold s c n) := by
  unfold State.appendHold
  iterate 40 (try any_goals first
    | with_reducible (first | exact h | assumption | apply State.setCmd_stays | apply State.stopJoin_stays
                            | apply State.moveWait_stays | refine Stays.ite (fun _ => ?_) (fun _ => ?_)
                            | refine Stays.ofSnd (by assumption) ?_ | refine Stays.ofFst (by assumption) ?_)
    | split | dsimp only | with_reducible refine Stays.upd ?_)

theorem State.append_stays {σ s : State} (h : Stays σ s) (c : Cmd) :
    Stays σ (State.append s c) := by
  unfold State.append
  iterate 40 (try any_goals first
    | with_reducible (first | exact h | assumption | apply State.bump_stays | apply State.finishSt_stays
                            | apply State.logPlace_stays | apply State.appendGo_stays | apply State.appendHold_stays
                            | refine Stays.ite (fun _ => ?_) (fun _ => ?_) | refine Stays.ofSnd (by assumption) ?_
                            | refine Stays.ofFst (by assumption) ?_)
    | split | dsimp only | with_reducible refine Stays.upd ?_)

theorem State.appendData_stays {σ s : State} (h : Stays σ s) (h : Nat) (ok : Bool) :
    Stays σ (State.appendData s h ok) := by
  unfold State.appendData
  iterate 40 (try any_goals first
    | with_reducible (first | exact h | assumption | apply State.appendMove_stays | apply State.setCmd_stays
                            | refine Stays.ite (fun _ => ?_) (fun _ => ?_) | refine Stays.ofSnd (by assumption) ?_
                            | refine Stays.ofFst (by assumption) ?_)
    | split | dsimp only | with_reducible refine Stays.upd ?_)

theorem State.holdCheck_stays {σ s : State} (h : Stays σ s) (n : Nat) :
    Stays σ (State.holdCheck s n) := by
  unfold State.holdCheck
  iterate 40 (try any_goals first
    | with_reducible (first | exact h | assumption | apply State.recycle_stays | apply State.updStream_stays
                            | refine Stays.ite (fun _ => ?_) (fun _ => ?_) | refine Stays.ofSnd (by assumption) ?_
                            | refine Stays.ofFst (by assumption) ?_)
    | split | dsimp only | with_reducible refine Stays.upd ?_)

theorem State.trim_stays {σ s : State} (h : Stays σ s) (n seq : Nat) :
    Stays σ (State.trim s n seq) := by
  unfold State.trim
  iterate 40 (try any_goals first
    | with_reducible (first | exact h | assumption | apply State.holdCheck_stays | apply State.keepRec_stays
                            | apply State.updStream_stays | refine Stays.ite (fun _ => ?_) (fun _ => ?_)
                            | refine Stays.ofSnd (by assumption) ?_ | refine Stays.ofFst (by assumption) ?_)
    | intro _ _ | split | dsimp only | with_reducible refine Stays.upd ?_)

theorem State.writeGo_stays {σ s : State} (h : Stays σ s) (h : Nat) :
    Stays σ (State.writeGo s h) := by
  unfold State.writeGo
  iterate 40 (try any_goals first
    | with_reducible (first | exact h | assumption | apply State.moveBlk_stays | apply State.setCmd_stays
                            | apply State.tryRead_stays | apply State.writeEnd_stays | apply Stays.foldl | apply Stays.foldlSnd
                            | apply Stays.foldlFst | refine Stays.ite (fun _ => ?_) (fun _ => ?_)
                            | refine Stays.ofSnd (by assumption) ?_ | refine Stays.ofFst (by assumption) ?_)
    | intro _ _ _ | split | dsimp only | with_reducible refine Stays.upd ?_)

theorem State.writeAdmit_stays {σ s : State} (h : Stays σ s) (c : Cmd) :
    Stays σ (State.writeAdmit s c) := by
  unfold State.writeAdmit
  iterate 40 (try any_goals first
    | with_reducible (first | exact h | assumption | apply State.setCmd_stays | apply State.updCmd_stays
                            | apply State.tlAsk_stays | apply State.goWt_stays | apply State.writeGo_stays
                            | refine Stays.ite (fun _ => ?_) (fun _ => ?_) | refine Stays.ofSnd (by assumption) ?_
                            | refine Stays.ofFst (by assumption) ?_)
    | split | dsimp only | with_reducible refine Stays.upd ?_)

theorem State.tlAnswer_stays {σ s : State} (h : Stays σ s) (q : TReq) (ok : Bool) :
    Stays σ (State.tlAnswer s q ok) := by
  unfold State.tlAnswer
  iterate 40 (try any_goals first
    | with_reducible (first | exact h | assumption | apply State.updCmd_stays | apply State.tlRelease_stays
                            | apply State.tlReserve_stays | apply State.goWt_stays | apply State.refuse_stays
                            | apply State.moveBlk_stays | apply State.appendMove_stays | apply State.appendCredit_stays
                            | apply State.writeGo_stays | apply Stays.foldl | apply Stays.foldlSnd | apply Stays.foldlFst
                            | refine Stays.ite (fun _ => ?_) (fun _ => ?_) | refine Stays.ofSnd (by assumption) ?_
                            | refine Stays.ofFst (by assumption) ?_)
    | intro _ _ _ | split | dsimp only | with_reducible refine Stays.upd ?_)

theorem State.tlRefuseAll_stays {σ s : State} (h : Stays σ s) :
    Stays σ (State.tlRefuseAll s) := by
  unfold State.tlRefuseAll
  iterate 40 (try any_goals first
    | with_reducible (first | exact h | assumption | apply State.bump_stays | apply State.tlAnswer_stays | apply Stays.foldl
                            | apply Stays.foldlSnd | apply Stays.foldlFst | refine Stays.ite (fun _ => ?_) (fun _ => ?_)
                            | refine Stays.ofSnd (by assumption) ?_ | refine Stays.ofFst (by assumption) ?_)
    | intro _ _ _ | split | dsimp only | with_reducible refine Stays.upd ?_)

theorem State.tlUpdate_stays {σ s : State} (h : Stays σ s) :
    Stays σ (State.tlUpdate s) := by
  unfold State.tlUpdate
  iterate 40 (try any_goals first
    | with_reducible (first | exact h | assumption | apply State.pressure_stays | apply State.tlRecompute_stays
                            | apply State.tlRefuseAll_stays | refine Stays.ite (fun _ => ?_) (fun _ => ?_)
                            | refine Stays.ofSnd (by assumption) ?_ | refine Stays.ofFst (by assumption) ?_)
    | split | dsimp only | with_reducible refine Stays.upd ?_)

theorem State.tlLeave_stays {σ s : State} (h : Stays σ s) (q : TReq) :
    Stays σ (State.tlLeave s q) := by
  unfold State.tlLeave
  iterate 40 (try any_goals first
    | with_reducible (first | exact h | assumption | apply State.moveBlk_stays | apply State.appendMove_stays
                            | apply State.appendSettled_stays | apply State.writeGo_stays | apply Stays.foldl
                            | apply Stays.foldlSnd | apply Stays.foldlFst | refine Stays.ite (fun _ => ?_) (fun _ => ?_)
                            | refine Stays.ofSnd (by assumption) ?_ | refine Stays.ofFst (by assumption) ?_)
    | intro _ _ _ | split | dsimp only | with_reducible refine Stays.upd ?_)

theorem State.wbDrop_stays {σ s : State} (h : Stays σ s) :
    Stays σ (State.wbDrop s) := by
  unfold State.wbDrop
  iterate 40 (try any_goals first
    | with_reducible (first | exact h | assumption | apply State.tlRelease_stays | apply State.goWt_stays
                            | apply State.tlLeave_stays | apply Stays.foldl | apply Stays.foldlSnd | apply Stays.foldlFst
                            | refine Stays.ite (fun _ => ?_) (fun _ => ?_) | refine Stays.ofSnd (by assumption) ?_
                            | refine Stays.ofFst (by assumption) ?_)
    | intro _ _ _ | split | dsimp only | with_reducible refine Stays.upd ?_)

theorem State.wbClear_stays {σ s : State} (h : Stays σ s) :
    Stays σ (State.wbClear s) := by
  unfold State.wbClear
  iterate 40 (try any_goals first
    | with_reducible (first | exact h | assumption | apply State.setFlag_stays | apply State.toReady_stays
                            | apply State.wtCheck_stays | apply State.wbDrop_stays | apply Stays.foldl | apply Stays.foldlSnd
                            | apply Stays.foldlFst | refine Stays.ite (fun _ => ?_) (fun _ => ?_)
                            | refine Stays.ofSnd (by assumption) ?_ | refine Stays.ofFst (by assumption) ?_)
    | intro _ _ _ | split | dsimp only | with_reducible refine Stays.upd ?_)

theorem State.tlFreeze_stays {σ s : State} (h : Stays σ s) :
    Stays σ (State.tlFreeze s) := by
  unfold State.tlFreeze
  iterate 40 (try any_goals first
    | with_reducible (first | exact h | assumption | refine Stays.ite (fun _ => ?_) (fun _ => ?_)
                            | refine Stays.ofSnd (by assumption) ?_ | refine Stays.ofFst (by assumption) ?_)
    | split | dsimp only | with_reducible refine Stays.upd ?_)

theorem State.lrnPut_stays {σ s : State} (h : Stays σ s) (i v : Nat) :
    Stays σ (State.lrnPut s i v) := by
  unfold State.lrnPut
  iterate 40 (try any_goals first
    | with_reducible (first | exact h | assumption | apply State.kwStore_stays | refine Stays.ite (fun _ => ?_) (fun _ => ?_)
                            | refine Stays.ofSnd (by assumption) ?_ | refine Stays.ofFst (by assumption) ?_)
    | split | dsimp only | with_reducible refine Stays.upd ?_)

theorem State.lrnStore_stays {σ s : State} (h : Stays σ s) :
    Stays σ (State.lrnStore s) := by
  unfold State.lrnStore
  iterate 40 (try any_goals first
    | with_reducible (first | exact h | assumption | apply State.lrnPut_stays | apply Stays.foldl | apply Stays.foldlSnd
                            | apply Stays.foldlFst | refine Stays.ite (fun _ => ?_) (fun _ => ?_)
                            | refine Stays.ofSnd (by assumption) ?_ | refine Stays.ofFst (by assumption) ?_)
    | intro _ _ _ | split | dsimp only | with_reducible refine Stays.upd ?_)

theorem State.lrnPublish_stays {σ s : State} (h : Stays σ s) :
    Stays σ (State.lrnPublish s) := by
  unfold State.lrnPublish
  iterate 40 (try any_goals first
    | with_reducible (first | exact h | assumption | refine Stays.ite (fun _ => ?_) (fun _ => ?_)
                            | refine Stays.ofSnd (by assumption) ?_ | refine Stays.ofFst (by assumption) ?_)
    | split | dsimp only | with_reducible refine Stays.upd ?_)

theorem State.lrnTake_stays {σ s : State} (h : Stays σ s) (m : LearnSample) :
    Stays σ (State.lrnTake s m) := by
  unfold State.lrnTake
  iterate 40 (try any_goals first
    | with_reducible (first | exact h | assumption | apply State.bump_stays | apply State.setFlag_stays
                            | refine Stays.ite (fun _ => ?_) (fun _ => ?_) | refine Stays.ofSnd (by assumption) ?_
                            | refine Stays.ofFst (by assumption) ?_)
    | split | dsimp only | with_reducible refine Stays.upd ?_)

theorem State.relearn_stays {σ s : State} (h : Stays σ s) :
    Stays σ (State.relearn s) := by
  unfold State.relearn
  iterate 40 (try any_goals first
    | with_reducible (first | exact h | assumption | apply State.tlUpdate_stays | apply State.lrnPut_stays | apply Stays.foldl
                            | apply Stays.foldlSnd | apply Stays.foldlFst | refine Stays.ite (fun _ => ?_) (fun _ => ?_)
                            | refine Stays.ofSnd (by assumption) ?_ | refine Stays.ofFst (by assumption) ?_)
    | intro _ _ _ | split | dsimp only | with_reducible refine Stays.upd ?_)

theorem State.setTask_stays {σ s : State} (h : Stays σ s) (x : Task) :
    Stays σ (State.setTask s x) := by
  unfold State.setTask
  iterate 40 (try any_goals first
    | with_reducible (first | exact h | assumption | refine Stays.ite (fun _ => ?_) (fun _ => ?_)
                            | refine Stays.ofSnd (by assumption) ?_ | refine Stays.ofFst (by assumption) ?_)
    | split | dsimp only | with_reducible refine Stays.upd ?_)

theorem State.updTask_stays {σ s : State} (h : Stays σ s) (t : Nat) (f : Task → Task) :
    Stays σ (State.updTask s t f) := by
  unfold State.updTask
  iterate 40 (try any_goals first
    | with_reducible (first | exact h | assumption | refine Stays.ite (fun _ => ?_) (fun _ => ?_)
                            | refine Stays.ofSnd (by assumption) ?_ | refine Stays.ofFst (by assumption) ?_)
    | split | dsimp only | with_reducible refine Stays.upd ?_)

theorem State.addTask_stays {σ s : State} (h : Stays σ s) (kind : TKind) (arr stripe off len : Nat) (phase : TPhase) :
    Stays σ (State.addTask s kind arr stripe off len phase).2 := by
  unfold State.addTask
  iterate 40 (try any_goals first
    | with_reducible (first | exact h | assumption | apply State.newH_stays | refine Stays.ite (fun _ => ?_) (fun _ => ?_)
                            | refine Stays.ofSnd (by assumption) ?_ | refine Stays.ofFst (by assumption) ?_)
    | split | dsimp only | with_reducible refine Stays.upd ?_)

theorem State.endTask_stays {σ s : State} (h : Stays σ s) (t : Nat) :
    Stays σ (State.endTask s t) := by
  unfold State.endTask
  iterate 40 (try any_goals first
    | with_reducible (first | exact h | assumption | apply State.loomCancel_stays | apply State.loomDrop_stays
                            | apply State.unclaim_stays | refine Stays.ite (fun _ => ?_) (fun _ => ?_)
                            | refine Stays.ofSnd (by assumption) ?_ | refine Stays.ofFst (by assumption) ?_)
    | split | dsimp only | with_reducible refine Stays.upd ?_)

theorem State.rateAdd_stays {σ s : State} (h : Stays σ s) (k : TKind) (port bytes : Nat) :
    Stays σ (State.rateAdd s k port bytes) := by
  unfold State.rateAdd
  iterate 40 (try any_goals first
    | with_reducible (first | exact h | assumption | refine Stays.ite (fun _ => ?_) (fun _ => ?_)
                            | refine Stays.ofSnd (by assumption) ?_ | refine Stays.ofFst (by assumption) ?_)
    | split | dsimp only | with_reducible refine Stays.upd ?_)

theorem State.taskCmd_stays {σ s : State} (h : Stays σ s) (t : Nat) (c : MCmd) :
    Stays σ (State.taskCmd s t c) := by
  unfold State.taskCmd
  iterate 40 (try any_goals first
    | with_reducible (first | exact h | assumption | apply State.mpIssue_stays | apply State.rateAdd_stays
                            | apply State.setTask_stays | refine Stays.ite (fun _ => ?_) (fun _ => ?_)
                            | refine Stays.ofSnd (by assumption) ?_ | refine Stays.ofFst (by assumption) ?_)
    | split | dsimp only | with_reducible refine Stays.upd ?_)

theorem State.taskRead_stays {σ s : State} (h : Stays σ s) (t : Nat) (r : ArrayRec) (stripe cell : Nat) (l : List Nat) :
    Stays σ (State.taskRead s t r stripe cell l) := by
  unfold State.taskRead
  iterate 40 (try any_goals first
    | with_reducible (first | exact h | assumption | apply State.taskCmd_stays | apply Stays.foldl | apply Stays.foldlSnd
                            | apply Stays.foldlFst | refine Stays.ite (fun _ => ?_) (fun _ => ?_)
                            | refine Stays.ofSnd (by assumption) ?_ | refine Stays.ofFst (by assumption) ?_)
    | intro _ _ _ | split | dsimp only | with_reducible refine Stays.upd ?_)

theorem State.taskWrite_stays {σ s : State} (h : Stays σ s) (t port lba p : Nat) (op : MOp) (data tags : List (List Byte)) :
    Stays σ (State.taskWrite s t port lba p op data tags) := by
  unfold State.taskWrite
  iterate 40 (try any_goals first
    | with_reducible (first | exact h | assumption | apply State.taskCmd_stays | refine Stays.ite (fun _ => ?_) (fun _ => ?_)
                            | refine Stays.ofSnd (by assumption) ?_ | refine Stays.ofFst (by assumption) ?_)
    | split | dsimp only | with_reducible refine Stays.upd ?_)

theorem State.taskFlush_stays {σ s : State} (h : Stays σ s) (t : Nat) (r : ArrayRec) (ps : List Nat) :
    Stays σ (State.taskFlush s t r ps) := by
  unfold State.taskFlush
  iterate 40 (try any_goals first
    | with_reducible (first | exact h | assumption | apply State.taskCmd_stays | apply Stays.foldl | apply Stays.foldlSnd
                            | apply Stays.foldlFst | refine Stays.ite (fun _ => ?_) (fun _ => ?_)
                            | refine Stays.ofSnd (by assumption) ?_ | refine Stays.ofFst (by assumption) ?_)
    | intro _ _ _ | split | dsimp only | with_reducible refine Stays.upd ?_)

theorem State.taskCells_stays {σ s : State} (h : Stays σ s) (t : Nat) (r : ArrayRec) (gen : Nat) (cells : List (Nat × List Nat)) :
    Stays σ (State.taskCells s t r gen cells) := by
  unfold State.taskCells
  iterate 40 (try any_goals first
    | with_reducible (first | exact h | assumption | apply State.taskWrite_stays | apply Stays.foldl | apply Stays.foldlSnd
                            | apply Stays.foldlFst | refine Stays.ite (fun _ => ?_) (fun _ => ?_)
                            | refine Stays.ofSnd (by assumption) ?_ | refine Stays.ofFst (by assumption) ?_)
    | intro _ _ _ | split | dsimp only | with_reducible refine Stays.upd ?_)

theorem State.taskLoom_stays {σ s : State} (h : Stays σ s) (t q op d k erase zmask off len : Nat) (crc second : Bool) (src dst : NMap LLoc) :
    Stays σ (State.taskLoom s t q op d k erase zmask off len crc second src dst) := by
  unfold State.taskLoom
  iterate 40 (try any_goals first
    | with_reducible (first | exact h | assumption | apply State.newH_stays | apply State.loomSubmit_stays
                            | refine Stays.ite (fun _ => ?_) (fun _ => ?_) | refine Stays.ofSnd (by assumption) ?_
                            | refine Stays.ofFst (by assumption) ?_)
    | split | dsimp only | with_reducible refine Stays.upd ?_)

theorem State.taskRecon_stays {σ s : State} (h : Stays σ s) (t q off len : Nat) (second : Bool) :
    Stays σ (State.taskRecon s t q off len second) := by
  unfold State.taskRecon
  iterate 40 (try any_goals first
    | with_reducible (first | exact h | assumption | apply State.taskLoom_stays | apply State.updTask_stays
                            | refine Stays.ite (fun _ => ?_) (fun _ => ?_) | refine Stays.ofSnd (by assumption) ?_
                            | refine Stays.ofFst (by assumption) ?_)
    | split | dsimp only | with_reducible refine Stays.upd ?_)

theorem State.dirPut_stays {σ s : State} (h : Stays σ s) (st : Nat) :
    Stays σ (State.dirPut s st) := by
  unfold State.dirPut
  iterate 40 (try any_goals first
    | with_reducible (first | exact h | assumption | apply State.keepWord_stays | refine Stays.ite (fun _ => ?_) (fun _ => ?_)
                            | refine Stays.ofSnd (by assumption) ?_ | refine Stays.ofFst (by assumption) ?_)
    | split | dsimp only | with_reducible refine Stays.upd ?_)

theorem State.clearDone_stays {σ s : State} (h : Stays σ s) :
    Stays σ (State.clearDone s) := by
  unfold State.clearDone
  iterate 40 (try any_goals first
    | with_reducible (first | exact h | assumption | apply State.keepWord_stays | apply Stays.foldl | apply Stays.foldlSnd
                            | apply Stays.foldlFst | refine Stays.ite (fun _ => ?_) (fun _ => ?_)
                            | refine Stays.ofSnd (by assumption) ?_ | refine Stays.ofFst (by assumption) ?_)
    | intro _ _ _ | split | dsimp only | with_reducible refine Stays.upd ?_)

theorem State.retireDump_stays {σ s : State} (h : Stays σ s) :
    Stays σ (State.retireDump s) := by
  unfold State.retireDump
  iterate 40 (try any_goals first
    | with_reducible (first | exact h | assumption | apply State.dumpSeal_stays | refine Stays.ite (fun _ => ?_) (fun _ => ?_)
                            | refine Stays.ofSnd (by assumption) ?_ | refine Stays.ofFst (by assumption) ?_)
    | split | dsimp only | with_reducible refine Stays.upd ?_)

theorem State.dirEnd_stays {σ s : State} (h : Stays σ s) (st : Nat) :
    Stays σ (State.dirEnd s st) := by
  unfold State.dirEnd
  iterate 40 (try any_goals first
    | with_reducible (first | exact h | assumption | apply State.dirPut_stays | apply State.clearDone_stays
                            | apply State.retireDump_stays | refine Stays.ite (fun _ => ?_) (fun _ => ?_)
                            | refine Stays.ofSnd (by assumption) ?_ | refine Stays.ofFst (by assumption) ?_)
    | split | dsimp only | with_reducible refine Stays.upd ?_)

theorem State.rsRetire_stays {σ s : State} (h : Stays σ s) :
    Stays σ (State.rsRetire s) := by
  unfold State.rsRetire
  iterate 40 (try any_goals first
    | with_reducible (first | exact h | assumption | apply State.setFld_stays | apply State.dirEnd_stays
                            | refine Stays.ite (fun _ => ?_) (fun _ => ?_) | refine Stays.ofSnd (by assumption) ?_
                            | refine Stays.ofFst (by assumption) ?_)
    | split | dsimp only | with_reducible refine Stays.upd ?_)

theorem State.hmDone_stays {σ s : State} (h : Stays σ s) (f : Nat) :
    Stays σ (State.hmDone s f) := by
  unfold State.hmDone
  iterate 40 (try any_goals first
    | with_reducible (first | exact h | assumption | apply State.setReg_stays | apply State.keepWord_stays
                            | apply State.rsRetire_stays | refine Stays.ite (fun _ => ?_) (fun _ => ?_)
                            | refine Stays.ofSnd (by assumption) ?_ | refine Stays.ofFst (by assumption) ?_)
    | split | dsimp only | with_reducible refine Stays.upd ?_)

theorem State.framesGo_stays {σ s : State} (h : Stays σ s) (p : Frame → Bool) :
    Stays σ (State.framesGo s p) := by
  unfold State.framesGo
  iterate 40 (try any_goals first
    | with_reducible (first | exact h | assumption | apply State.dropFrame_stays | apply State.hmDone_stays
                            | apply Stays.foldl | apply Stays.foldlSnd | apply Stays.foldlFst
                            | refine Stays.ite (fun _ => ?_) (fun _ => ?_) | refine Stays.ofSnd (by assumption) ?_
                            | refine Stays.ofFst (by assumption) ?_)
    | intro _ _ _ | split | dsimp only | with_reducible refine Stays.upd ?_)

theorem State.failCmd_stays {σ s : State} (h : Stays σ s) (h0 st : Nat) :
    Stays σ (State.failCmd s h0 st) := by
  unfold State.failCmd
  iterate 40 (try any_goals first
    | with_reducible (first | exact h | assumption | apply State.finishSt_stays | apply State.updStream_stays
                            | apply State.giveUp_stays | apply State.endTask_stays | apply Stays.foldl | apply Stays.foldlSnd
                            | apply Stays.foldlFst | refine Stays.ite (fun _ => ?_) (fun _ => ?_)
                            | refine Stays.ofSnd (by assumption) ?_ | refine Stays.ofFst (by assumption) ?_)
    | intro _ _ _ | split | dsimp only | with_reducible refine Stays.upd ?_)

theorem State.parkFrame_stays {σ s : State} (h : Stays σ s) (n st : Nat) (faulted : Bool) :
    Stays σ (State.parkFrame s n st faulted) := by
  unfold State.parkFrame
  iterate 40 (try any_goals first
    | with_reducible (first | exact h | assumption | apply State.setFrame_stays | apply State.tlOver_stays
                            | apply State.hmDone_stays | apply State.failCmd_stays | apply Stays.foldl | apply Stays.foldlSnd
                            | apply Stays.foldlFst | refine Stays.ite (fun _ => ?_) (fun _ => ?_)
                            | refine Stays.ofSnd (by assumption) ?_ | refine Stays.ofFst (by assumption) ?_)
    | intro _ _ _ | split | dsimp only | with_reducible refine Stays.upd ?_)

theorem State.slotOver_stays {σ s : State} (h : Stays σ s) (x y : Slot) :
    Stays σ (State.slotOver s x y).2 := by
  unfold State.slotOver
  iterate 40 (try any_goals first
    | with_reducible (first | exact h | assumption | apply State.memPut_stays | apply Stays.foldl | apply Stays.foldlSnd
                            | apply Stays.foldlFst | refine Stays.ite (fun _ => ?_) (fun _ => ?_)
                            | refine Stays.ofSnd (by assumption) ?_ | refine Stays.ofFst (by assumption) ?_)
    | intro _ _ _ | split | dsimp only | with_reducible refine Stays.upd ?_)

theorem State.slotsOver_stays {σ s : State} (h : Stays σ s) (f : Frame) (cur : NMap Slot) :
    Stays σ (State.slotsOver s f cur).2 := by
  unfold State.slotsOver
  iterate 40 (try any_goals first
    | with_reducible (first | exact h | assumption | apply State.slotOver_stays | apply Stays.foldl | apply Stays.foldlSnd
                            | apply Stays.foldlFst | refine Stays.ite (fun _ => ?_) (fun _ => ?_)
                            | refine Stays.ofSnd (by assumption) ?_ | refine Stays.ofFst (by assumption) ?_)
    | intro _ _ _ | split | dsimp only | with_reducible refine Stays.upd ?_)

theorem State.waitsBack_stays {σ s : State} (h : Stays σ s) (a stripe : Nat) :
    Stays σ (State.waitsBack s a stripe) := by
  unfold State.waitsBack
  iterate 40 (try any_goals first
    | with_reducible (first | exact h | assumption | refine Stays.ite (fun _ => ?_) (fun _ => ?_)
                            | refine Stays.ofSnd (by assumption) ?_ | refine Stays.ofFst (by assumption) ?_)
    | split | dsimp only | with_reducible refine Stays.upd ?_)

theorem State.frameMerge_stays {σ s : State} (h : Stays σ s) (n : Nat) :
    Stays σ (State.frameMerge s n) := by
  unfold State.frameMerge
  iterate 40 (try any_goals first
    | with_reducible (first | exact h | assumption | apply State.setFrame_stays | apply State.logZero_stays
                            | apply State.slotsOver_stays | apply State.waitsBack_stays
                            | refine Stays.ite (fun _ => ?_) (fun _ => ?_) | refine Stays.ofSnd (by assumption) ?_
                            | refine Stays.ofFst (by assumption) ?_)
    | split | dsimp only | with_reducible refine Stays.upd ?_)

theorem State.frameAgain_stays {σ s : State} (h : Stays σ s) (n : Nat) (zero : Bool) :
    Stays σ (State.frameAgain s n zero) := by
  unfold State.frameAgain
  iterate 40 (try any_goals first
    | with_reducible (first | exact h | assumption | apply State.setFrame_stays | apply State.toReady_stays
                            | apply State.frameMerge_stays | refine Stays.ite (fun _ => ?_) (fun _ => ?_)
                            | refine Stays.ofSnd (by assumption) ?_ | refine Stays.ofFst (by assumption) ?_)
    | split | dsimp only | with_reducible refine Stays.upd ?_)

theorem State.unpark_stays {σ s : State} (h : Stays σ s) (p : Frame → Bool) :
    Stays σ (State.unpark s p) := by
  unfold State.unpark
  iterate 40 (try any_goals first
    | with_reducible (first | exact h | assumption | apply State.frameAgain_stays | apply Stays.foldl | apply Stays.foldlSnd
                            | apply Stays.foldlFst | refine Stays.ite (fun _ => ?_) (fun _ => ?_)
                            | refine Stays.ofSnd (by assumption) ?_ | refine Stays.ofFst (by assumption) ?_)
    | intro _ _ _ | split | dsimp only | with_reducible refine Stays.upd ?_)

theorem State.cancelTask_stays {σ s : State} (h : Stays σ s) (t : Nat) :
    Stays σ (State.cancelTask s t) := by
  unfold State.cancelTask
  iterate 40 (try any_goals first
    | with_reducible (first | exact h | assumption | apply State.endTask_stays | apply State.setSstGen_stays
                            | apply State.setSstState_stays | refine Stays.ite (fun _ => ?_) (fun _ => ?_)
                            | refine Stays.ofSnd (by assumption) ?_ | refine Stays.ofFst (by assumption) ?_)
    | split | dsimp only | with_reducible refine Stays.upd ?_)

theorem State.putPos_stays {σ s : State} (h : Stays σ s) (a p : Nat) (w : Option PosWord) :
    Stays σ (State.putPos s a p w) := by
  unfold State.putPos
  iterate 40 (try any_goals first
    | with_reducible (first | exact h | assumption | apply State.inPlace_stays | apply State.keepWord_stays
                            | refine Stays.ite (fun _ => ?_) (fun _ => ?_) | refine Stays.ofSnd (by assumption) ?_
                            | refine Stays.ofFst (by assumption) ?_)
    | split | dsimp only | with_reducible refine Stays.upd ?_)

theorem State.putWalk_stays {σ s : State} (h : Stays σ s) (a walked : Nat) (active : Bool) :
    Stays σ (State.putWalk s a walked active) := by
  unfold State.putWalk
  iterate 40 (try any_goals first
    | with_reducible (first | exact h | assumption | apply State.keepWord_stays | refine Stays.ite (fun _ => ?_) (fun _ => ?_)
                            | refine Stays.ofSnd (by assumption) ?_ | refine Stays.ofFst (by assumption) ?_)
    | split | dsimp only | with_reducible refine Stays.upd ?_)

theorem State.setWalk_stays {σ s : State} (h : Stays σ s) (a : Nat) (w : Walk) :
    Stays σ (State.setWalk s a w) := by
  unfold State.setWalk
  iterate 40 (try any_goals first
    | with_reducible (first | exact h | assumption | refine Stays.ite (fun _ => ?_) (fun _ => ?_)
                            | refine Stays.ofSnd (by assumption) ?_ | refine Stays.ofFst (by assumption) ?_)
    | split | dsimp only | with_reducible refine Stays.upd ?_)

theorem State.goOffline_stays {σ s : State} (h : Stays σ s) (a stripe cause : Nat) :
    Stays σ (State.goOffline s a stripe cause) := by
  unfold State.goOffline
  iterate 40 (try any_goals first
    | with_reducible (first | exact h | assumption | apply State.cancelTask_stays | apply State.failCmd_stays
                            | apply State.keepWord_stays | apply State.noteD_stays | apply State.parkFrame_stays
                            | apply State.setArr_stays | apply State.setWalk_stays | apply Stays.foldl | apply Stays.foldlSnd
                            | apply Stays.foldlFst | refine Stays.ite (fun _ => ?_) (fun _ => ?_)
                            | refine Stays.ofSnd (by assumption) ?_ | refine Stays.ofFst (by assumption) ?_)
    | intro _ _ _ | split | dsimp only | with_reducible refine Stays.upd ?_)

theorem State.goLost_stays {σ s : State} (h : Stays σ s) (a stripe mask : Nat) :
    Stays σ (State.goLost s a stripe mask) := by
  unfold State.goLost
  iterate 40 (try any_goals first
    | with_reducible (first | exact h | assumption | apply State.lgAsk_stays | refine Stays.ite (fun _ => ?_) (fun _ => ?_)
                            | refine Stays.ofSnd (by assumption) ?_ | refine Stays.ofFst (by assumption) ?_)
    | split | dsimp only | with_reducible refine Stays.upd ?_)

theorem State.beyondHit_stays {σ s : State} (h : Stays σ s) (a stripe mask cause : Nat) :
    Stays σ (State.beyondHit s a stripe mask cause).2 := by
  unfold State.beyondHit
  iterate 40 (try any_goals first
    | with_reducible (first | exact h | assumption | apply State.goLost_stays | apply State.goOffline_stays
                            | refine Stays.ite (fun _ => ?_) (fun _ => ?_) | refine Stays.ofSnd (by assumption) ?_
                            | refine Stays.ofFst (by assumption) ?_)
    | split | dsimp only | with_reducible refine Stays.upd ?_)

theorem State.repAdd_stays {σ s : State} (h : Stays σ s) (a stripe pos map : Nat) :
    Stays σ (State.repAdd s a stripe pos map) := by
  unfold State.repAdd
  iterate 40 (try any_goals first
    | with_reducible (first | exact h | assumption | apply State.bump_stays | apply State.setSstState_stays
                            | refine Stays.ite (fun _ => ?_) (fun _ => ?_) | refine Stays.ofSnd (by assumption) ?_
                            | refine Stays.ofFst (by assumption) ?_)
    | split | dsimp only | with_reducible refine Stays.upd ?_)

theorem State.copyMove_stays {σ s : State} (h : Stays σ s) (a : Nat) (isB : Bool) (target : Option Nat) :
    Stays σ (State.copyMove s a isB target) := by
  unfold State.copyMove
  iterate 40 (try any_goals first
    | with_reducible (first | exact h | assumption | apply State.addTask_stays | apply State.bump_stays
                            | apply State.setArr_stays | refine Stays.ite (fun _ => ?_) (fun _ => ?_)
                            | refine Stays.ofSnd (by assumption) ?_ | refine Stays.ofFst (by assumption) ?_)
    | split | dsimp only | with_reducible refine Stays.upd ?_)

theorem State.copyFree_stays {σ s : State} (h : Stays σ s) (a : Nat) :
    Stays σ (State.copyFree s a) := by
  unfold State.copyFree
  iterate 40 (try any_goals first
    | with_reducible (first | exact h | assumption | refine Stays.ite (fun _ => ?_) (fun _ => ?_)
                            | refine Stays.ofSnd (by assumption) ?_ | refine Stays.ofFst (by assumption) ?_)
    | split | dsimp only | with_reducible refine Stays.upd ?_)

theorem State.copiesLeave_stays {σ s : State} (h : Stays σ s) (a p : Nat) :
    Stays σ (State.copiesLeave s a p) := by
  unfold State.copiesLeave
  iterate 40 (try any_goals first
    | with_reducible (first | exact h | assumption | apply State.copyMove_stays | refine Stays.ite (fun _ => ?_) (fun _ => ?_)
                            | refine Stays.ofSnd (by assumption) ?_ | refine Stays.ofFst (by assumption) ?_)
    | split | dsimp only | with_reducible refine Stays.upd ?_)

theorem State.moveLeaves_stays {σ s : State} (h : Stays σ s) (a p : Nat) :
    Stays σ (State.moveLeaves s a p) := by
  unfold State.moveLeaves
  iterate 40 (try any_goals first
    | with_reducible (first | exact h | assumption | apply State.copyMove_stays | apply State.copyFree_stays
                            | refine Stays.ite (fun _ => ?_) (fun _ => ?_) | refine Stays.ofSnd (by assumption) ?_
                            | refine Stays.ofFst (by assumption) ?_)
    | split | dsimp only | with_reducible refine Stays.upd ?_)

theorem State.portFree_stays {σ s : State} (h : Stays σ s) (port : Nat) :
    Stays σ (State.portFree s port) := by
  unfold State.portFree
  iterate 40 (try any_goals first
    | with_reducible (first | exact h | assumption | apply State.updPort_stays
                            | refine Stays.ite (fun _ => ?_) (fun _ => ?_) | refine Stays.ofSnd (by assumption) ?_
                            | refine Stays.ofFst (by assumption) ?_)
    | split | dsimp only | with_reducible refine Stays.upd ?_)

theorem State.takeTarget_stays {σ s : State} (h : Stays σ s) (a p port : Nat) (inPlace : Bool) :
    Stays σ (State.takeTarget s a p port inPlace) := by
  unfold State.takeTarget
  iterate 40 (try any_goals first
    | with_reducible (first | exact h | assumption | apply State.note_stays | apply State.updArr_stays
                            | apply State.updPort_stays | apply State.sbSync_stays | apply State.tlUpdate_stays
                            | apply State.addTask_stays | apply State.putPos_stays | apply State.putWalk_stays
                            | apply State.setWalk_stays | refine Stays.ite (fun _ => ?_) (fun _ => ?_)
                            | refine Stays.ofSnd (by assumption) ?_ | refine Stays.ofFst (by assumption) ?_)
    | split | dsimp only | with_reducible refine Stays.upd ?_)

theorem State.chooseTarget_stays {σ s : State} (h : Stays σ s) (a p : Nat) :
    Stays σ (State.chooseTarget s a p) := by
  unfold State.chooseTarget
  iterate 40 (try any_goals first
    | with_reducible (first | exact h | assumption | apply State.note_stays | apply State.keepRec_stays
                            | apply State.setArr_stays | apply State.portFree_stays | apply State.takeTarget_stays
                            | refine Stays.ite (fun _ => ?_) (fun _ => ?_) | refine Stays.ofSnd (by assumption) ?_
                            | refine Stays.ofFst (by assumption) ?_)
    | intro _ _ | split | dsimp only | with_reducible refine Stays.upd ?_)

theorem State.targetFail_stays {σ s : State} (h : Stays σ s) (a p : Nat) :
    Stays σ (State.targetFail s a p) := by
  unfold State.targetFail
  iterate 40 (try any_goals first
    | with_reducible (first | exact h | assumption | apply State.endTask_stays | apply State.putPos_stays
                            | apply State.copiesLeave_stays | apply State.moveLeaves_stays | apply State.chooseTarget_stays
                            | apply Stays.foldl | apply Stays.foldlSnd | apply Stays.foldlFst
                            | refine Stays.ite (fun _ => ?_) (fun _ => ?_) | refine Stays.ofSnd (by assumption) ?_
                            | refine Stays.ofFst (by assumption) ?_)
    | intro _ _ _ | split | dsimp only | with_reducible refine Stays.upd ?_)

theorem State.offlineAll_stays {σ s : State} (h : Stays σ s)  :
    Stays σ (State.offlineAll s) := by
  unfold State.offlineAll
  iterate 40 (try any_goals first
    | with_reducible (first | exact h | assumption | apply State.goOffline_stays | apply Stays.foldl | apply Stays.foldlSnd | apply Stays.foldlFst
                            | refine Stays.ite (fun _ => ?_) (fun _ => ?_) | refine Stays.ofSnd (by assumption) ?_
                            | refine Stays.ofFst (by assumption) ?_)
    | intro _ _ _ | split | dsimp only | with_reducible refine Stays.upd ?_)

theorem State.posFail_stays {σ s : State} (h : Stays σ s) (a p port cause : Nat) :
    Stays σ (State.posFail s a p port cause) := by
  unfold State.posFail
  iterate 40 (try any_goals first
    | with_reducible (first | exact h | assumption | apply State.noteD_stays | apply State.updArr_stays
                            | apply State.tlUpdate_stays | apply State.goOffline_stays | apply State.copiesLeave_stays
                            | apply State.moveLeaves_stays | apply State.chooseTarget_stays | apply State.targetFail_stays
                            | refine Stays.ite (fun _ => ?_) (fun _ => ?_) | refine Stays.ofSnd (by assumption) ?_
                            | refine Stays.ofFst (by assumption) ?_)
    | split | dsimp only | with_reducible refine Stays.upd ?_)

theorem State.memberGone_stays {σ s : State} (h : Stays σ s) (port cause : Nat) :
    Stays σ (State.memberGone s port cause) := by
  unfold State.memberGone
  iterate 40 (try any_goals first
    | with_reducible (first | exact h | assumption | apply State.bump_stays | apply State.mpEndAll_stays
                            | apply State.sbSync_stays | apply State.setReg_stays | apply State.updPort_stays
                            | refine Stays.ite (fun _ => ?_) (fun _ => ?_) | refine Stays.ofSnd (by assumption) ?_
                            | refine Stays.ofFst (by assumption) ?_)
    | split | dsimp only | with_reducible refine Stays.upd ?_)

theorem State.spareFail_stays {σ s : State} (h : Stays σ s) (port cause : Nat) :
    Stays σ (State.spareFail s port cause) := by
  unfold State.spareFail
  iterate 40 (try any_goals first
    | with_reducible (first | exact h | assumption | apply State.portFree_stays | apply State.keepRec_stays | apply State.noteD_stays
                            | apply State.tlUpdate_stays | refine Stays.ite (fun _ => ?_) (fun _ => ?_)
                            | refine Stays.ofSnd (by assumption) ?_ | refine Stays.ofFst (by assumption) ?_)
    | intro _ _ | split | dsimp only | with_reducible refine Stays.upd ?_)

theorem State.memberOut_stays {σ s : State} (h : Stays σ s) (port cause : Nat) :
    Stays σ (State.memberOut s port cause) := by
  unfold State.memberOut
  iterate 40 (try any_goals first
    | with_reducible (first | exact h | assumption | apply State.sbSync_stays | apply State.posFail_stays | apply State.spareFail_stays
                            | refine Stays.ite (fun _ => ?_) (fun _ => ?_) | refine Stays.ofSnd (by assumption) ?_
                            | refine Stays.ofFst (by assumption) ?_)
    | split | dsimp only | with_reducible refine Stays.upd ?_)

theorem State.failMember_stays {σ s : State} (h : Stays σ s) (port cause : Nat) :
    Stays σ (State.failMember s port cause) := by
  unfold State.failMember
  iterate 40 (try any_goals first
    | with_reducible (first | exact h | assumption | apply State.memberGone_stays | apply State.memberOut_stays
                            | refine Stays.ite (fun _ => ?_) (fun _ => ?_) | refine Stays.ofSnd (by assumption) ?_
                            | refine Stays.ofFst (by assumption) ?_)
    | split | dsimp only | with_reducible refine Stays.upd ?_)

theorem State.countTmo_stays {σ s : State} (h : Stays σ s) (port : Nat) :
    Stays σ (State.countTmo s port) := by
  unfold State.countTmo
  iterate 40 (try any_goals first
    | with_reducible (first | exact h | assumption | apply State.failMember_stays | apply State.updPort_stays
                            | refine Stays.ite (fun _ => ?_) (fun _ => ?_) | refine Stays.ofSnd (by assumption) ?_
                            | refine Stays.ofFst (by assumption) ?_)
    | split | dsimp only | with_reducible refine Stays.upd ?_)

theorem State.countWerr_stays {σ s : State} (h : Stays σ s) (port : Nat) :
    Stays σ (State.countWerr s port) := by
  unfold State.countWerr
  iterate 40 (try any_goals first
    | with_reducible (first | exact h | assumption | apply State.bump_stays | apply State.failMember_stays
                            | apply State.updPort_stays | refine Stays.ite (fun _ => ?_) (fun _ => ?_)
                            | refine Stays.ofSnd (by assumption) ?_ | refine Stays.ofFst (by assumption) ?_)
    | split | dsimp only | with_reducible refine Stays.upd ?_)

theorem State.countRerr_stays {σ s : State} (h : Stays σ s) (port : Nat) :
    Stays σ (State.countRerr s port) := by
  unfold State.countRerr
  iterate 40 (try any_goals first
    | with_reducible (first | exact h | assumption | apply State.bump_stays | apply State.failMember_stays
                            | apply State.updPort_stays | refine Stays.ite (fun _ => ?_) (fun _ => ?_)
                            | refine Stays.ofSnd (by assumption) ?_ | refine Stays.ofFst (by assumption) ?_)
    | split | dsimp only | with_reducible refine Stays.upd ?_)

theorem State.logReadEnd_stays {σ s : State} (h : Stays σ s) (c : Cmd) (rd : LogRd) (next st flags : Nat) :
    Stays σ (State.logReadEnd s c rd next st flags) := by
  unfold State.logReadEnd
  iterate 40 (try any_goals first
    | with_reducible (first | exact h | assumption | apply State.bump_stays | apply State.finish_stays
                            | refine Stays.ite (fun _ => ?_) (fun _ => ?_) | refine Stays.ofSnd (by assumption) ?_
                            | refine Stays.ofFst (by assumption) ?_)
    | split | dsimp only | with_reducible refine Stays.upd ?_)

theorem State.readBlkEnd_stays {σ s : State} (h : Stays σ s) (c : Cmd) (k : Nat) (data : List Byte) (rank : Nat) :
    Stays σ (State.readBlkEnd s c k data rank) := by
  unfold State.readBlkEnd
  iterate 40 (try any_goals first
    | with_reducible (first | exact h | assumption | apply State.hostWriteSegs_stays | apply State.setCmd_stays
                            | apply State.finish_stays | refine Stays.ite (fun _ => ?_) (fun _ => ?_)
                            | refine Stays.ofSnd (by assumption) ?_ | refine Stays.ofFst (by assumption) ?_)
    | split | dsimp only | with_reducible refine Stays.upd ?_)

theorem State.readLost_stays {σ s : State} (h : Stays σ s) (c : Cmd) (k : Nat) :
    Stays σ (State.readLost s c k) := by
  unfold State.readLost
  iterate 40 (try any_goals first
    | with_reducible (first | exact h | assumption | apply State.readBlkEnd_stays
                            | refine Stays.ite (fun _ => ?_) (fun _ => ?_) | refine Stays.ofSnd (by assumption) ?_
                            | refine Stays.ofFst (by assumption) ?_)
    | split | dsimp only | with_reducible refine Stays.upd ?_)

theorem State.startRecon_stays {σ s : State} (h : Stays σ s) (h k : Nat) (p : Place) (er : List Nat) :
    Stays σ (State.startRecon s h k p er) := by
  unfold State.startRecon
  iterate 40 (try any_goals first
    | with_reducible (first | exact h | assumption | apply State.addTask_stays | apply State.updTask_stays
                            | refine Stays.ite (fun _ => ?_) (fun _ => ?_) | refine Stays.ofSnd (by assumption) ?_
                            | refine Stays.ofFst (by assumption) ?_)
    | split | dsimp only | with_reducible refine Stays.upd ?_)

theorem State.readMember_stays {σ s : State} (h : Stays σ s) (c : Cmd) (k : Nat) (p : Place) :
    Stays σ (State.readMember s c k p) := by
  unfold State.readMember
  iterate 40 (try any_goals first
    | with_reducible (first | exact h | assumption | apply State.mpIssue_stays | apply State.startRecon_stays
                            | refine Stays.ite (fun _ => ?_) (fun _ => ?_) | refine Stays.ofSnd (by assumption) ?_
                            | refine Stays.ofFst (by assumption) ?_)
    | split | dsimp only | with_reducible refine Stays.upd ?_)

theorem State.lookBlk_stays {σ s : State} (h : Stays σ s) (p : Place) :
    Stays σ (State.lookBlk s p).2 := by
  unfold State.lookBlk
  iterate 40 (try any_goals first
    | with_reducible (first | exact h | assumption | apply State.sstLook_stays | apply State.updFrame_stays
                            | refine Stays.ite (fun _ => ?_) (fun _ => ?_) | refine Stays.ofSnd (by assumption) ?_
                            | refine Stays.ofFst (by assumption) ?_)
    | split | dsimp only | with_reducible refine Stays.upd ?_)

theorem State.readBlk_stays {σ s : State} (h : Stays σ s) (h0 k : Nat) :
    Stays σ (State.readBlk s h0 k) := by
  unfold State.readBlk
  iterate 40 (try any_goals first
    | with_reducible (first | exact h | assumption | apply State.updCmd_stays | apply State.failCmd_stays
                            | apply State.readBlkEnd_stays | apply State.readLost_stays | apply State.readMember_stays
                            | apply State.lookBlk_stays | refine Stays.ite (fun _ => ?_) (fun _ => ?_)
                            | refine Stays.ofSnd (by assumption) ?_ | refine Stays.ofFst (by assumption) ?_)
    | split | dsimp only | with_reducible refine Stays.upd ?_)

theorem State.readGo_stays {σ s : State} (h : Stays σ s) (c : Cmd) :
    Stays σ (State.readGo s c) := by
  unfold State.readGo
  iterate 40 (try any_goals first
    | with_reducible (first | exact h | assumption | apply State.bump_stays | apply State.readBlk_stays
                            | apply State.setCmd_stays | apply Stays.foldl | apply Stays.foldlSnd | apply Stays.foldlFst
                            | refine Stays.ite (fun _ => ?_) (fun _ => ?_) | refine Stays.ofSnd (by assumption) ?_
                            | refine Stays.ofFst (by assumption) ?_)
    | intro _ _ _ | split | dsimp only | with_reducible refine Stays.upd ?_)

theorem State.logReadBlk_stays {σ s : State} (h : Stays σ s) (h k : Nat) :
    Stays σ (State.logReadBlk s h k) := by
  unfold State.logReadBlk
  iterate 40 (try any_goals first
    | with_reducible (first | exact h | assumption | apply State.lookBlk_stays | apply State.readMember_stays
                            | apply State.setCmd_stays | apply State.updCmd_stays | refine Stays.ite (fun _ => ?_) (fun _ => ?_)
                            | refine Stays.ofSnd (by assumption) ?_ | refine Stays.ofFst (by assumption) ?_)
    | split | dsimp only | with_reducible refine Stays.upd ?_)

theorem State.logReadNext_stays {σ s : State} (h : Stays σ s) (c n : Nat) : Stays σ (s.logReadNext c n) := by
  induction n generalizing s with
  | zero => exact h
  | succ n ih =>
    unfold State.logReadNext
    iterate 12 (try any_goals first
      | intro _ _ _
      | with_reducible exact h
      | with_reducible assumption
      | with_reducible apply State.failCmd_stays
      | with_reducible apply State.logReadEnd_stays
      | with_reducible apply ih
      | with_reducible apply State.setCmd_stays
      | with_reducible apply Stays.foldl
      | with_reducible apply State.logReadBlk_stays
      | split
      | dsimp only)

theorem State.logReadScan_stays {σ s : State} (h : Stays σ s) (h0 : Nat) :
    Stays σ (State.logReadScan s h0) := by
  unfold State.logReadScan
  iterate 40 (try any_goals first
    | with_reducible (first | exact h | assumption | apply State.hostWriteSegs_stays | apply State.setCmd_stays
                            | apply State.failCmd_stays | apply State.logReadEnd_stays
                            | refine Stays.ite (fun _ => ?_) (fun _ => ?_) | refine Stays.ofSnd (by assumption) ?_
                            | refine Stays.ofFst (by assumption) ?_)
    | split | dsimp only | with_reducible refine Stays.upd ?_)

theorem State.logReadRun_stays {σ s : State} (h : Stays σ s) (c n : Nat) : Stays σ (s.logReadRun c n) := by
  induction n generalizing s with
  | zero => exact h
  | succ n ih =>
    unfold State.logReadRun
    have k := State.logReadNext_stays h c (n + 1)
    iterate 8 (try any_goals first
      | with_reducible exact h
      | with_reducible exact k
      | with_reducible apply ih
      | with_reducible apply State.logReadScan_stays
      | split
      | dsimp only)

theorem State.logReadAll_stays {σ s : State} (h : Stays σ s) (h : Nat) :
    Stays σ (State.logReadAll s h) := by
  unfold State.logReadAll
  iterate 40 (try any_goals first
    | with_reducible (first | exact h | assumption | apply State.logReadRun_stays | refine Stays.ite (fun _ => ?_) (fun _ => ?_)
                            | refine Stays.ofSnd (by assumption) ?_ | refine Stays.ofFst (by assumption) ?_)
    | split | dsimp only | with_reducible refine Stays.upd ?_)

theorem State.logReadGo_stays {σ s : State} (h : Stays σ s) (c : Cmd) :
    Stays σ (State.logReadGo s c) := by
  unfold State.logReadGo
  iterate 40 (try any_goals first
    | with_reducible (first | exact h | assumption | apply State.logReadAll_stays | apply State.logReadEnd_stays
                            | apply State.setCmd_stays | refine Stays.ite (fun _ => ?_) (fun _ => ?_)
                            | refine Stays.ofSnd (by assumption) ?_ | refine Stays.ofFst (by assumption) ?_)
    | split | dsimp only | with_reducible refine Stays.upd ?_)

theorem State.deliver_stays {σ s : State} (h : Stays σ s) (h0 k : Nat) (data : List Byte) (rank : Nat) :
    Stays σ (State.deliver s h0 k data rank) := by
  unfold State.deliver
  iterate 40 (try any_goals first
    | with_reducible (first | exact h | assumption | apply State.setCmd_stays | apply State.readBlkEnd_stays
                            | apply State.logReadAll_stays | refine Stays.ite (fun _ => ?_) (fun _ => ?_)
                            | refine Stays.ofSnd (by assumption) ?_ | refine Stays.ofFst (by assumption) ?_)
    | split | dsimp only | with_reducible refine Stays.upd ?_)

theorem State.deliverLost_stays {σ s : State} (h : Stays σ s) (h k : Nat) :
    Stays σ (State.deliverLost s h k) := by
  unfold State.deliverLost
  iterate 40 (try any_goals first
    | with_reducible (first | exact h | assumption | apply State.failCmd_stays | apply State.logReadAll_stays
                            | apply State.readLost_stays | apply State.setCmd_stays
                            | refine Stays.ite (fun _ => ?_) (fun _ => ?_) | refine Stays.ofSnd (by assumption) ?_
                            | refine Stays.ofFst (by assumption) ?_)
    | split | dsimp only | with_reducible refine Stays.upd ?_)

theorem State.blockBad_stays {σ s : State} (h : Stays σ s) (a stripe pos o : Nat) (give : Bool) (e : BlkFault) :
    Stays σ (State.blockBad s a stripe pos o give e) := by
  unfold State.blockBad
  iterate 40 (try any_goals first
    | with_reducible (first | exact h | assumption | apply State.bump_stays | apply State.repAdd_stays
                            | refine Stays.ite (fun _ => ?_) (fun _ => ?_) | refine Stays.ofSnd (by assumption) ?_
                            | refine Stays.ofFst (by assumption) ?_)
    | split | dsimp only | with_reducible refine Stays.upd ?_)

theorem State.rereadBlk_stays {σ s : State} (h : Stays σ s) (c : Cmd) (k : Nat) :
    Stays σ (State.rereadBlk s c k) := by
  unfold State.rereadBlk
  iterate 40 (try any_goals first
    | with_reducible (first | exact h | assumption | apply State.logReadAll_stays | apply State.logReadBlk_stays
                            | apply State.readBlk_stays | apply State.setCmd_stays
                            | refine Stays.ite (fun _ => ?_) (fun _ => ?_) | refine Stays.ofSnd (by assumption) ?_
                            | refine Stays.ofFst (by assumption) ?_)
    | split | dsimp only | with_reducible refine Stays.upd ?_)

theorem State.hostReadEnd_stays {σ s : State} (h : Stays σ s) (m : MCmd) (h0 k : Nat) (ok : Bool) (pay : MPayload) :
    Stays σ (State.hostReadEnd s m h0 k ok pay) := by
  unfold State.hostReadEnd
  iterate 40 (try any_goals first
    | with_reducible (first | exact h | assumption | apply State.failCmd_stays | apply State.startRecon_stays
                            | apply State.deliver_stays | apply State.blockBad_stays | apply State.rereadBlk_stays
                            | refine Stays.ite (fun _ => ?_) (fun _ => ?_) | refine Stays.ofSnd (by assumption) ?_
                            | refine Stays.ofFst (by assumption) ?_)
    | split | dsimp only | with_reducible refine Stays.upd ?_)

theorem State.reconBeyond_stays {σ s : State} (h : Stays σ s) (t : Nat) (x : Task) (r : ArrayRec) (h k : Nat) :
    Stays σ (State.reconBeyond s t x r h k) := by
  unfold State.reconBeyond
  iterate 40 (try any_goals first
    | with_reducible (first | exact h | assumption | apply State.beyondHit_stays | apply State.deliverLost_stays
                            | apply State.endTask_stays | refine Stays.ite (fun _ => ?_) (fun _ => ?_)
                            | refine Stays.ofSnd (by assumption) ?_ | refine Stays.ofFst (by assumption) ?_)
    | split | dsimp only | with_reducible refine Stays.upd ?_)

theorem State.reconGo_stays {σ s : State} (h : Stays σ s) (t h0 k : Nat) :
    Stays σ (State.reconGo s t h0 k) := by
  unfold State.reconGo
  iterate 40 (try any_goals first
    | with_reducible (first | exact h | assumption | apply State.setTask_stays | apply State.endTask_stays
                            | apply State.taskRead_stays | apply State.taskRecon_stays | apply State.deliver_stays
                            | apply State.rereadBlk_stays | apply State.reconBeyond_stays | apply Stays.foldl
                            | apply Stays.foldlSnd | apply Stays.foldlFst | refine Stays.ite (fun _ => ?_) (fun _ => ?_)
                            | refine Stays.ofSnd (by assumption) ?_ | refine Stays.ofFst (by assumption) ?_)
    | intro _ _ _ | split | dsimp only | with_reducible refine Stays.upd ?_)

theorem State.taskBlocks_stays {σ s : State} (h : Stays σ s) (x : Task) (r : ArrayRec) (c o n : Nat) (ok : Bool) (pay : MPayload) :
    Stays σ (State.taskBlocks s x r c o n ok pay) := by
  unfold State.taskBlocks
  iterate 40 (try any_goals first
    | with_reducible (first | exact h | assumption | apply State.blockBad_stays | apply State.updTask_stays
                            | apply Stays.foldl | apply Stays.foldlSnd | apply Stays.foldlFst
                            | refine Stays.ite (fun _ => ?_) (fun _ => ?_) | refine Stays.ofSnd (by assumption) ?_
                            | refine Stays.ofFst (by assumption) ?_)
    | intro _ _ _ | split | dsimp only | with_reducible refine Stays.upd ?_)

theorem State.setPhase_stays {σ s : State} (h : Stays σ s) (t : Nat) (p : TPhase) :
    Stays σ (State.setPhase s t p) := by
  unfold State.setPhase
  iterate 40 (try any_goals first
    | with_reducible (first | exact h | assumption | apply State.updTask_stays | refine Stays.ite (fun _ => ?_) (fun _ => ?_)
                            | refine Stays.ofSnd (by assumption) ?_ | refine Stays.ofFst (by assumption) ?_)
    | split | dsimp only | with_reducible refine Stays.upd ?_)

theorem State.walkComplete_stays {σ s : State} (h : Stays σ s) (a : Nat) :
    Stays σ (State.walkComplete s a) := by
  unfold State.walkComplete
  iterate 40 (try any_goals first
    | with_reducible (first | exact h | assumption | apply State.addTask_stays | apply Stays.foldl | apply Stays.foldlSnd
                            | apply Stays.foldlFst | refine Stays.ite (fun _ => ?_) (fun _ => ?_)
                            | refine Stays.ofSnd (by assumption) ?_ | refine Stays.ofFst (by assumption) ?_)
    | intro _ _ _ | split | dsimp only | with_reducible refine Stays.upd ?_)

theorem State.walkFinish_stays {σ s : State} (h : Stays σ s) (a n : Nat) :
    Stays σ (State.walkFinish s a n) := by
  unfold State.walkFinish
  iterate 40 (try any_goals first
    | with_reducible (first | exact h | assumption | apply State.setWalk_stays | apply State.walkComplete_stays
                            | refine Stays.ite (fun _ => ?_) (fun _ => ?_) | refine Stays.ofSnd (by assumption) ?_
                            | refine Stays.ofFst (by assumption) ?_)
    | split | dsimp only | with_reducible refine Stays.upd ?_)

theorem State.menderEnd_stays {σ s : State} (h : Stays σ s) (t : Nat) :
    Stays σ (State.menderEnd s t) := by
  unfold State.menderEnd
  iterate 40 (try any_goals first
    | with_reducible (first | exact h | assumption | apply State.endTask_stays | apply State.walkFinish_stays
                            | refine Stays.ite (fun _ => ?_) (fun _ => ?_) | refine Stays.ofSnd (by assumption) ?_
                            | refine Stays.ofFst (by assumption) ?_)
    | split | dsimp only | with_reducible refine Stays.upd ?_)

theorem State.menderRetry_stays {σ s : State} (h : Stays σ s) (t : Nat) :
    Stays σ (State.menderRetry s t) := by
  unfold State.menderRetry
  iterate 40 (try any_goals first
    | with_reducible (first | exact h | assumption | apply State.setSstState_stays | apply State.setTask_stays
                            | apply State.setWalk_stays | apply State.unclaim_stays
                            | refine Stays.ite (fun _ => ?_) (fun _ => ?_) | refine Stays.ofSnd (by assumption) ?_
                            | refine Stays.ofFst (by assumption) ?_)
    | split | dsimp only | with_reducible refine Stays.upd ?_)

theorem State.taskBeyond_stays {σ s : State} (h : Stays σ s) (t : Nat) (er : List Nat) :
    Stays σ (State.taskBeyond s t er) := by
  unfold State.taskBeyond
  iterate 40 (try any_goals first
    | with_reducible (first | exact h | assumption | apply State.beyondHit_stays | apply State.cancelTask_stays
                            | apply State.endTask_stays | apply State.parkFrame_stays | apply State.walkFinish_stays
                            | refine Stays.ite (fun _ => ?_) (fun _ => ?_) | refine Stays.ofSnd (by assumption) ?_
                            | refine Stays.ofFst (by assumption) ?_)
    | split | dsimp only | with_reducible refine Stays.upd ?_)

theorem State.destageBegin_stays {σ s : State} (h : Stays σ s) (t n : Nat) (x : Task) (r : ArrayRec) :
    Stays σ (State.destageBegin s t n x r) := by
  unfold State.destageBegin
  iterate 40 (try any_goals first
    | with_reducible (first | exact h | assumption | apply State.updFrame_stays | apply State.endTask_stays
                            | apply State.parkFrame_stays | apply State.setPhase_stays
                            | refine Stays.ite (fun _ => ?_) (fun _ => ?_) | refine Stays.ofSnd (by assumption) ?_
                            | refine Stays.ofFst (by assumption) ?_)
    | split | dsimp only | with_reducible refine Stays.upd ?_)

theorem State.resyncReady_stays {σ s : State} (h : Stays σ s) (n : Nat) :
    Stays σ (State.resyncReady s n) := by
  unfold State.resyncReady
  iterate 40 (try any_goals first
    | with_reducible (first | exact h | assumption | apply State.setFrame_stays | apply State.toReady_stays
                            | refine Stays.ite (fun _ => ?_) (fun _ => ?_) | refine Stays.ofSnd (by assumption) ?_
                            | refine Stays.ofFst (by assumption) ?_)
    | split | dsimp only | with_reducible refine Stays.upd ?_)

theorem State.takeRep_stays {σ s : State} (h : Stays σ s) (x : Task) (r : ArrayRec) (es : List RepEnt) :
    Stays σ (State.takeRep s x r es) := by
  unfold State.takeRep
  iterate 40 (try any_goals first
    | with_reducible (first | exact h | assumption | apply State.setTask_stays
                            | refine Stays.ite (fun _ => ?_) (fun _ => ?_) | refine Stays.ofSnd (by assumption) ?_
                            | refine Stays.ofFst (by assumption) ?_)
    | split | dsimp only | with_reducible refine Stays.upd ?_)

theorem State.walkBegin_stays {σ s : State} (h : Stays σ s) (t : Nat) (x : Task) (r : ArrayRec) :
    Stays σ (State.walkBegin s t x r) := by
  unfold State.walkBegin
  iterate 40 (try any_goals first
    | with_reducible (first | exact h | assumption | apply State.resyncReady_stays | apply State.takeRep_stays | apply State.claim_stays | apply State.menderEnd_stays
                            | apply State.setPhase_stays | apply State.setSstState_stays | apply State.toReady_stays
                            | apply State.unclaim_stays | refine Stays.ite (fun _ => ?_) (fun _ => ?_)
                            | refine Stays.ofSnd (by assumption) ?_ | refine Stays.ofFst (by assumption) ?_)
    | split | dsimp only | with_reducible refine Stays.upd ?_)

theorem State.taskBegin_stays {σ s : State} (h : Stays σ s) (t : Nat) :
    Stays σ (State.taskBegin s t) := by
  unfold State.taskBegin
  iterate 40 (try any_goals first
    | with_reducible (first | exact h | assumption | apply State.sstLook_stays | apply State.setSstState_stays
                            | apply State.dropFrame_stays | apply State.setTask_stays | apply State.endTask_stays
                            | apply State.setPhase_stays | apply State.destageBegin_stays | apply State.takeRep_stays
                            | apply State.walkBegin_stays | refine Stays.ite (fun _ => ?_) (fun _ => ?_)
                            | refine Stays.ofSnd (by assumption) ?_ | refine Stays.ofFst (by assumption) ?_)
    | split | dsimp only | with_reducible refine Stays.upd ?_)

theorem State.taskClaim_stays {σ s : State} (h : Stays σ s) (t : Nat) :
    Stays σ (State.taskClaim s t) := by
  unfold State.taskClaim
  iterate 40 (try any_goals first
    | with_reducible (first | exact h | assumption | apply State.claim_stays | apply State.setPhase_stays
                            | apply State.taskBegin_stays | refine Stays.ite (fun _ => ?_) (fun _ => ?_)
                            | refine Stays.ofSnd (by assumption) ?_ | refine Stays.ofFst (by assumption) ?_)
    | split | dsimp only | with_reducible refine Stays.upd ?_)

theorem State.openAsk_stays {σ s : State} (h : Stays σ s) (t : Nat) :
    Stays σ (State.openAsk s t) := by
  unfold State.openAsk
  iterate 40 (try any_goals first
    | with_reducible (first | exact h | assumption | apply State.endTask_stays | apply State.genNext_stays
                            | apply State.lgAsk_stays | apply State.setTask_stays | apply State.updFrame_stays
                            | refine Stays.ite (fun _ => ?_) (fun _ => ?_) | refine Stays.ofSnd (by assumption) ?_
                            | refine Stays.ofFst (by assumption) ?_)
    | split | dsimp only | with_reducible refine Stays.upd ?_)

theorem State.copyAsk_stays {σ s : State} (h : Stays σ s) (a k : Nat) :
    Stays σ (State.copyAsk s a k) := by
  unfold State.copyAsk
  iterate 40 (try any_goals first
    | with_reducible (first | exact h | assumption | apply State.addTask_stays | refine Stays.ite (fun _ => ?_) (fun _ => ?_)
                            | refine Stays.ofSnd (by assumption) ?_ | refine Stays.ofFst (by assumption) ?_)
    | split | dsimp only | with_reducible refine Stays.upd ?_)

theorem State.openGranted_stays {σ s : State} (h : Stays σ s) (t seq : Nat) :
    Stays σ (State.openGranted s t seq) := by
  unfold State.openGranted
  iterate 40 (try any_goals first
    | with_reducible (first | exact h | assumption | apply State.setSstState_stays | apply State.setTask_stays
                            | apply State.endTask_stays | apply State.setPhase_stays | apply State.copyAsk_stays
                            | refine Stays.ite (fun _ => ?_) (fun _ => ?_) | refine Stays.ofSnd (by assumption) ?_
                            | refine Stays.ofFst (by assumption) ?_)
    | split | dsimp only | with_reducible refine Stays.upd ?_)

theorem State.copyDone_stays {σ s : State} (h : Stays σ s) (a k : Nat) :
    Stays σ (State.copyDone s a k) := by
  unfold State.copyDone
  iterate 40 (try any_goals first
    | with_reducible (first | exact h | assumption | refine Stays.ite (fun _ => ?_) (fun _ => ?_)
                            | refine Stays.ofSnd (by assumption) ?_ | refine Stays.ofFst (by assumption) ?_)
    | split | dsimp only | with_reducible refine Stays.upd ?_)

theorem State.writeStripe_stays {σ s : State} (h : Stays σ s) (t : Nat) (x : Task) (r : ArrayRec) :
    Stays σ (State.writeStripe s t x r) := by
  unfold State.writeStripe
  iterate 40 (try any_goals first
    | with_reducible (first | exact h | assumption | apply State.setPhase_stays | apply State.taskCells_stays
                            | refine Stays.ite (fun _ => ?_) (fun _ => ?_) | refine Stays.ofSnd (by assumption) ?_
                            | refine Stays.ofFst (by assumption) ?_)
    | split | dsimp only | with_reducible refine Stays.upd ?_)

theorem State.destageEncode_stays {σ s : State} (h : Stays σ s) (t n : Nat) (r : ArrayRec) (second : Bool) :
    Stays σ (State.destageEncode s t n r second) := by
  unfold State.destageEncode
  iterate 40 (try any_goals first
    | with_reducible (first | exact h | assumption | apply State.endTask_stays | apply State.setPhase_stays
                            | apply State.taskLoom_stays | refine Stays.ite (fun _ => ?_) (fun _ => ?_)
                            | refine Stays.ofSnd (by assumption) ?_ | refine Stays.ofFst (by assumption) ?_)
    | split | dsimp only | with_reducible refine Stays.upd ?_)

theorem State.resyncEncode_stays {σ s : State} (h : Stays σ s) (t : Nat) (r : ArrayRec) (second : Bool) :
    Stays σ (State.resyncEncode s t r second) := by
  unfold State.resyncEncode
  iterate 40 (try any_goals first
    | with_reducible (first | exact h | assumption | apply State.setPhase_stays | apply State.taskLoom_stays
                            | refine Stays.ite (fun _ => ?_) (fun _ => ?_) | refine Stays.ofSnd (by assumption) ?_
                            | refine Stays.ofFst (by assumption) ?_)
    | split | dsimp only | with_reducible refine Stays.upd ?_)

theorem State.closeAsk_stays {σ s : State} (h : Stays σ s) (t : Nat) (x : Task) (r : ArrayRec) :
    Stays σ (State.closeAsk s t x r) := by
  unfold State.closeAsk
  iterate 40 (try any_goals first
    | with_reducible (first | exact h | assumption | apply State.lgAsk_stays | apply State.setPhase_stays
                            | apply State.taskBeyond_stays | refine Stays.ite (fun _ => ?_) (fun _ => ?_)
                            | refine Stays.ofSnd (by assumption) ?_ | refine Stays.ofFst (by assumption) ?_)
    | split | dsimp only | with_reducible refine Stays.upd ?_)

theorem State.wtClosed_stays {σ s : State} (h : Stays σ s) (a stripe : Nat) :
    Stays σ (State.wtClosed s a stripe) := by
  unfold State.wtClosed
  iterate 40 (try any_goals first
    | with_reducible (first | exact h | assumption | apply State.appendEnd_stays | apply State.finish_stays | apply Stays.foldl
                            | apply Stays.foldlSnd | apply Stays.foldlFst | refine Stays.ite (fun _ => ?_) (fun _ => ?_)
                            | refine Stays.ofSnd (by assumption) ?_ | refine Stays.ofFst (by assumption) ?_)
    | intro _ _ _ | split | dsimp only | with_reducible refine Stays.upd ?_)

theorem State.slotsNext_stays {σ s : State} (h : Stays σ s) (f : Frame) :
    Stays σ (State.slotsNext s f).2 := by
  unfold State.slotsNext
  iterate 40 (try any_goals first
    | with_reducible (first | exact h | assumption | apply State.slotsOver_stays | apply Stays.foldl | apply Stays.foldlSnd
                            | apply Stays.foldlFst | refine Stays.ite (fun _ => ?_) (fun _ => ?_)
                            | refine Stays.ofSnd (by assumption) ?_ | refine Stays.ofFst (by assumption) ?_)
    | intro _ _ _ | split | dsimp only | with_reducible refine Stays.upd ?_)

theorem State.destageDone_stays {σ s : State} (h : Stays σ s) (n : Nat) :
    Stays σ (State.destageDone s n) := by
  unfold State.destageDone
  iterate 40 (try any_goals first
    | with_reducible (first | exact h | assumption | apply State.setFrame_stays | apply State.toReady_stays
                            | apply State.wtCheck_stays | apply State.pressure_stays | apply State.tlOver_stays
                            | apply State.hmDone_stays | apply State.wtClosed_stays | apply State.slotsNext_stays
                            | refine Stays.ite (fun _ => ?_) (fun _ => ?_) | refine Stays.ofSnd (by assumption) ?_
                            | refine Stays.ofFst (by assumption) ?_)
    | split | dsimp only | with_reducible refine Stays.upd ?_)

theorem State.closeGranted_stays {σ s : State} (h : Stays σ s) (t mask : Nat) :
    Stays σ (State.closeGranted s t mask) := by
  unfold State.closeGranted
  iterate 40 (try any_goals first
    | with_reducible (first | exact h | assumption | apply State.bump_stays | apply State.setSstGen_stays
                            | apply State.setSstBit_stays | apply State.endTask_stays | apply State.repAdd_stays
                            | apply State.menderEnd_stays | apply State.destageDone_stays | apply Stays.foldl
                            | apply Stays.foldlSnd | apply Stays.foldlFst | refine Stays.ite (fun _ => ?_) (fun _ => ?_)
                            | refine Stays.ofSnd (by assumption) ?_ | refine Stays.ofFst (by assumption) ?_)
    | intro _ _ _ | split | dsimp only | with_reducible refine Stays.upd ?_)

theorem State.fillSlots_stays {σ s : State} (h : Stays σ s) (n : Nat) (r : ArrayRec) (zf : Bool) (fuel : Nat) :
    Stays σ (s.fillSlots n r zf fuel).2 := by
  induction fuel generalizing s with
  | zero => exact h
  | succ k ih =>
    unfold State.fillSlots
    split
    · exact h
    · split
      · exact h
      · split
        · rename_i e
          exact ih (State.updFrame_stays (Stays.ofSnd e (State.getSlot_stays h r)) _ _)
        · rename_i e
          exact Stays.ofSnd e (State.getSlot_stays h r)

theorem State.parSlots_stays {σ s : State} (h : Stays σ s) (n : Nat) (r : ArrayRec) (fuel : Nat) :
    Stays σ (s.parSlots n r fuel).2 := by
  induction fuel generalizing s with
  | zero => exact h
  | succ k ih =>
    unfold State.parSlots
    split
    · exact h
    · split
      · exact h
      · split
        · rename_i e
          exact ih (State.updFrame_stays (Stays.ofSnd e (State.getSlot_stays h r)) _ _)
        · rename_i e
          exact Stays.ofSnd e (State.getSlot_stays h r)

theorem State.fillChunk_stays {σ s : State} (h : Stays σ s) (n : Nat) (r : ArrayRec) (x : Task) (zf : Bool) (lim i : Nat) :
    Stays σ (State.fillChunk s n r x zf lim i) := by
  unfold State.fillChunk
  iterate 40 (try any_goals first
    | with_reducible (first | exact h | assumption | apply State.bumpN_stays | apply State.memPut_stays
                            | apply State.updFrame_stays | apply Stays.foldl | apply Stays.foldlSnd | apply Stays.foldlFst
                            | refine Stays.ite (fun _ => ?_) (fun _ => ?_) | refine Stays.ofSnd (by assumption) ?_
                            | refine Stays.ofFst (by assumption) ?_)
    | intro _ _ _ | split | dsimp only | with_reducible refine Stays.upd ?_)

theorem State.destageOpen_stays {σ s : State} (h : Stays σ s) (t n : Nat) (r : ArrayRec) :
    Stays σ (State.destageOpen s t n r) := by
  unfold State.destageOpen
  iterate 40 (try any_goals first
    | with_reducible (first | exact h | assumption | apply State.updFrame_stays | apply State.slotJoin_stays
                            | apply State.setPhase_stays | apply State.openAsk_stays | apply State.parSlots_stays
                            | refine Stays.ite (fun _ => ?_) (fun _ => ?_) | refine Stays.ofSnd (by assumption) ?_
                            | refine Stays.ofFst (by assumption) ?_)
    | split | dsimp only | with_reducible refine Stays.upd ?_)

theorem State.destageFill_stays {σ s : State} (h : Stays σ s) (t n : Nat) (x : Task) (r : ArrayRec) :
    Stays σ (State.destageFill s t n x r) := by
  unfold State.destageFill
  iterate 40 (try any_goals first
    | with_reducible (first | exact h | assumption | apply State.slotJoin_stays | apply State.logZero_stays
                            | apply State.endTask_stays | apply State.setPhase_stays | apply State.fillSlots_stays
                            | apply State.fillChunk_stays | apply State.destageOpen_stays | apply Stays.foldl
                            | apply Stays.foldlSnd | apply Stays.foldlFst | refine Stays.ite (fun _ => ?_) (fun _ => ?_)
                            | refine Stays.ofSnd (by assumption) ?_ | refine Stays.ofFst (by assumption) ?_)
    | intro _ _ _ | split | dsimp only | with_reducible refine Stays.upd ?_)

theorem State.rebuildWrite_stays {σ s : State} (h : Stays σ s) (t : Nat) (x : Task) (r : ArrayRec) :
    Stays σ (State.rebuildWrite s t x r) := by
  unfold State.rebuildWrite
  iterate 40 (try any_goals first
    | with_reducible (first | exact h | assumption | apply State.setPhase_stays | apply State.taskCells_stays
                            | refine Stays.ite (fun _ => ?_) (fun _ => ?_) | refine Stays.ofSnd (by assumption) ?_
                            | refine Stays.ofFst (by assumption) ?_)
    | split | dsimp only | with_reducible refine Stays.upd ?_)

theorem State.rebuildSolve_stays {σ s : State} (h : Stays σ s) (t : Nat) (x : Task) (r : ArrayRec) :
    Stays σ (State.rebuildSolve s t x r) := by
  unfold State.rebuildSolve
  iterate 40 (try any_goals first
    | with_reducible (first | exact h | assumption | apply State.rebuildWrite_stays | apply State.taskRecon_stays
                            | refine Stays.ite (fun _ => ?_) (fun _ => ?_) | refine Stays.ofSnd (by assumption) ?_
                            | refine Stays.ofFst (by assumption) ?_)
    | split | dsimp only | with_reducible refine Stays.upd ?_)

theorem State.rebuildFails_stays {σ s : State} (h : Stays σ s) (t : Nat) (x : Task) (r : ArrayRec) :
    Stays σ (State.rebuildFails s t x r).2 := by
  unfold State.rebuildFails
  iterate 40 (try any_goals first
    | with_reducible (first | exact h | assumption | apply State.targetFail_stays | apply State.taskCells_stays
                            | apply State.updTask_stays | apply Stays.foldl | apply Stays.foldlSnd | apply Stays.foldlFst
                            | refine Stays.ite (fun _ => ?_) (fun _ => ?_) | refine Stays.ofSnd (by assumption) ?_
                            | refine Stays.ofFst (by assumption) ?_)
    | intro _ _ _ | split | dsimp only | with_reducible refine Stays.upd ?_)

theorem State.rebuildEnd_stays {σ s : State} (h : Stays σ s) (t : Nat) (x : Task) (r : ArrayRec) :
    Stays σ (State.rebuildEnd s t x r) := by
  unfold State.rebuildEnd
  iterate 40 (try any_goals first
    | with_reducible (first | exact h | assumption | apply State.bumpN_stays | apply State.menderEnd_stays
                            | apply State.setSstBit_stays | apply State.setSstState_stays
                            | refine Stays.ite (fun _ => ?_) (fun _ => ?_) | refine Stays.ofSnd (by assumption) ?_
                            | refine Stays.ofFst (by assumption) ?_)
    | split | dsimp only | with_reducible refine Stays.upd ?_)

theorem State.askResync_stays {σ s : State} (h : Stays σ s) (unit a stripe : Nat) :
    Stays σ (State.askResync s unit a stripe) := by
  unfold State.askResync
  iterate 40 (try any_goals first
    | with_reducible (first | exact h | assumption | apply State.lgAsk_stays | refine Stays.ite (fun _ => ?_) (fun _ => ?_)
                            | refine Stays.ofSnd (by assumption) ?_ | refine Stays.ofFst (by assumption) ?_)
    | split | dsimp only | with_reducible refine Stays.upd ?_)

theorem State.taskResync_stays {σ s : State} (h : Stays σ s) (t : Nat) (x : Task) :
    Stays σ (State.taskResync s t x) := by
  unfold State.taskResync
  iterate 40 (try any_goals first
    | with_reducible (first | exact h | assumption | apply State.lgAsk_stays | apply State.setPhase_stays
                            | refine Stays.ite (fun _ => ?_) (fun _ => ?_) | refine Stays.ofSnd (by assumption) ?_
                            | refine Stays.ofFst (by assumption) ?_)
    | split | dsimp only | with_reducible refine Stays.upd ?_)

theorem State.resyncGranted_stays {σ s : State} (h : Stays σ s) (t : Nat) :
    Stays σ (State.resyncGranted s t) := by
  unfold State.resyncGranted
  iterate 40 (try any_goals first
    | with_reducible (first | exact h | assumption | apply State.setSstState_stays | apply State.endTask_stays
                            | apply State.parkFrame_stays | apply State.frameAgain_stays | apply State.menderRetry_stays
                            | refine Stays.ite (fun _ => ?_) (fun _ => ?_) | refine Stays.ofSnd (by assumption) ?_
                            | refine Stays.ofFst (by assumption) ?_)
    | split | dsimp only | with_reducible refine Stays.upd ?_)

theorem State.scrubResync_stays {σ s : State} (h : Stays σ s) (t : Nat) (x : Task) :
    Stays σ (State.scrubResync s t x) := by
  unfold State.scrubResync
  iterate 40 (try any_goals first
    | with_reducible (first | exact h | assumption | apply State.bump_stays | apply State.setSstBit_stays
                            | apply State.taskResync_stays | refine Stays.ite (fun _ => ?_) (fun _ => ?_)
                            | refine Stays.ofSnd (by assumption) ?_ | refine Stays.ofFst (by assumption) ?_)
    | split | dsimp only | with_reducible refine Stays.upd ?_)

theorem State.scrubEnd_stays {σ s : State} (h : Stays σ s) (t : Nat) (x : Task) (r : ArrayRec) (clean : Bool) :
    Stays σ (State.scrubEnd s t x r clean) := by
  unfold State.scrubEnd
  iterate 40 (try any_goals first
    | with_reducible (first | exact h | assumption | apply State.menderEnd_stays | apply State.setSstState_stays | apply State.bump_stays | apply State.endTask_stays
                            | apply State.rebuildEnd_stays | apply State.setSstBit_stays | apply State.setSstState_stays
                            | refine Stays.ite (fun _ => ?_) (fun _ => ?_) | refine Stays.ofSnd (by assumption) ?_
                            | refine Stays.ofFst (by assumption) ?_)
    | split | dsimp only | with_reducible refine Stays.upd ?_)

theorem State.scrubConfirm_stays {σ s : State} (h : Stays σ s) (t : Nat) (x : Task) :
    Stays σ (State.scrubConfirm s t x) := by
  unfold State.scrubConfirm
  iterate 40 (try any_goals first
    | with_reducible (first | exact h | assumption | apply State.setTask_stays | apply State.taskClaim_stays
                            | refine Stays.ite (fun _ => ?_) (fun _ => ?_) | refine Stays.ofSnd (by assumption) ?_
                            | refine Stays.ofFst (by assumption) ?_)
    | split | dsimp only | with_reducible refine Stays.upd ?_)

theorem State.scrubJob_stays {σ s : State} (h : Stays σ s) (t : Nat) (x : Task) (r : ArrayRec) (op : Nat) (second : Bool) :
    Stays σ (State.scrubJob s t x r op second) := by
  unfold State.scrubJob
  iterate 40 (try any_goals first
    | with_reducible (first | exact h | assumption | apply State.taskLoom_stays | apply State.updTask_stays
                            | refine Stays.ite (fun _ => ?_) (fun _ => ?_) | refine Stays.ofSnd (by assumption) ?_
                            | refine Stays.ofFst (by assumption) ?_)
    | split | dsimp only | with_reducible refine Stays.upd ?_)

theorem State.scrubRead_stays {σ s : State} (h : Stays σ s) (t : Nat) (x : Task) (r : ArrayRec) :
    Stays σ (State.scrubRead s t x r) := by
  unfold State.scrubRead
  iterate 40 (try any_goals first
    | with_reducible (first | exact h | assumption | apply State.rebuildSolve_stays | apply State.scrubConfirm_stays
                            | apply State.scrubEnd_stays | apply State.scrubJob_stays | apply State.updTask_stays
                            | refine Stays.ite (fun _ => ?_) (fun _ => ?_) | refine Stays.ofSnd (by assumption) ?_
                            | refine Stays.ofFst (by assumption) ?_)
    | split | dsimp only | with_reducible refine Stays.upd ?_)

theorem State.scrubRepair_stays {σ s : State} (h : Stays σ s) (t : Nat) (x : Task) (r : ArrayRec) (cell blockBad : Nat) :
    Stays σ (State.scrubRepair s t x r cell blockBad) := by
  unfold State.scrubRepair
  iterate 40 (try any_goals first
    | with_reducible (first | exact h | assumption | apply State.rebuildSolve_stays | apply State.setTask_stays
                            | refine Stays.ite (fun _ => ?_) (fun _ => ?_) | refine Stays.ofSnd (by assumption) ?_
                            | refine Stays.ofFst (by assumption) ?_)
    | split | dsimp only | with_reducible refine Stays.upd ?_)

theorem State.scrubLocated_stays {σ s : State} (h : Stays σ s) (t : Nat) (x : Task) (r : ArrayRec) (res : LRes) :
    Stays σ (State.scrubLocated s t x r res) := by
  unfold State.scrubLocated
  iterate 40 (try any_goals first
    | with_reducible (first | exact h | assumption | apply State.bump_stays | apply State.noteD_stays
                            | apply State.setTask_stays | apply State.blockBad_stays | apply State.scrubResync_stays
                            | apply State.scrubEnd_stays | apply State.scrubRepair_stays
                            | refine Stays.ite (fun _ => ?_) (fun _ => ?_) | refine Stays.ofSnd (by assumption) ?_
                            | refine Stays.ofFst (by assumption) ?_)
    | split | dsimp only | with_reducible refine Stays.upd ?_)

theorem State.scrubChecked_stays {σ s : State} (h : Stays σ s) (t : Nat) (x : Task) (r : ArrayRec) (res : LRes) :
    Stays σ (State.scrubChecked s t x r res) := by
  unfold State.scrubChecked
  iterate 40 (try any_goals first
    | with_reducible (first | exact h | assumption | apply State.bump_stays | apply State.scrubConfirm_stays
                            | apply State.scrubEnd_stays | apply State.scrubJob_stays | apply State.scrubRepair_stays
                            | apply State.scrubResync_stays | apply State.updTask_stays
                            | refine Stays.ite (fun _ => ?_) (fun _ => ?_) | refine Stays.ofSnd (by assumption) ?_
                            | refine Stays.ofFst (by assumption) ?_)
    | split | dsimp only | with_reducible refine Stays.upd ?_)

theorem State.stripeReads_stays {σ s : State} (h : Stays σ s) (t : Nat) (x : Task) (r : ArrayRec) :
    Stays σ (State.stripeReads s t x r) := by
  unfold State.stripeReads
  iterate 40 (try any_goals first
    | with_reducible (first | exact h | assumption | apply State.setTask_stays | apply State.endTask_stays
                            | apply State.taskRead_stays | apply State.taskRecon_stays | apply State.taskBeyond_stays
                            | apply State.openAsk_stays | apply State.destageFill_stays | apply State.rebuildSolve_stays
                            | apply State.scrubConfirm_stays | apply State.scrubRead_stays | apply Stays.foldl
                            | apply Stays.foldlSnd | apply Stays.foldlFst | refine Stays.ite (fun _ => ?_) (fun _ => ?_)
                            | refine Stays.ofSnd (by assumption) ?_ | refine Stays.ofFst (by assumption) ?_)
    | intro _ _ _ | split | dsimp only | with_reducible refine Stays.upd ?_)

theorem State.stripeGo_stays {σ s : State} (h : Stays σ s) (t : Nat) :
    Stays σ (State.stripeGo s t) := by
  unfold State.stripeGo
  iterate 40 (try any_goals first
    | with_reducible (first | exact h | assumption | apply State.bump_stays | apply State.closeAsk_stays
                            | apply State.destageEncode_stays | apply State.endTask_stays | apply State.rebuildEnd_stays
                            | apply State.rebuildFails_stays | apply State.resyncEncode_stays | apply State.setPhase_stays
                            | apply State.setSstBit_stays | apply State.setTask_stays | apply State.stripeReads_stays
                            | apply State.taskClaim_stays | apply State.taskFlush_stays | apply State.writeStripe_stays
                            | refine Stays.ite (fun _ => ?_) (fun _ => ?_) | refine Stays.ofSnd (by assumption) ?_
                            | refine Stays.ofFst (by assumption) ?_)
    | split | dsimp only | with_reducible refine Stays.upd ?_)

theorem State.taskDatapath_stays {σ s : State} (h : Stays σ s) (t : Nat) (x : Task) (op : Nat) :
    Stays σ (State.taskDatapath s t x op) := by
  unfold State.taskDatapath
  iterate 40 (try any_goals first
    | with_reducible (first | exact h | assumption | apply State.endTask_stays | apply State.failCmd_stays
                            | apply State.parkFrame_stays | apply State.frameAgain_stays | apply State.setPhase_stays
                            | apply State.menderRetry_stays | apply State.taskResync_stays
                            | refine Stays.ite (fun _ => ?_) (fun _ => ?_) | refine Stays.ofSnd (by assumption) ?_
                            | refine Stays.ofFst (by assumption) ?_)
    | split | dsimp only | with_reducible refine Stays.upd ?_)

theorem State.taskAgain_stays {σ s : State} (h : Stays σ s) (t : Nat) (j : LJob) :
    Stays σ (State.taskAgain s t j) := by
  unfold State.taskAgain
  iterate 40 (try any_goals first
    | with_reducible (first | exact h | assumption | apply State.loomSubmit_stays | apply State.updTask_stays
                            | refine Stays.ite (fun _ => ?_) (fun _ => ?_) | refine Stays.ofSnd (by assumption) ?_
                            | refine Stays.ofFst (by assumption) ?_)
    | split | dsimp only | with_reducible refine Stays.upd ?_)

theorem State.stripeLoom_stays {σ s : State} (h : Stays σ s) (t ctx : Nat) (j : LJob) (res : LRes) :
    Stays σ (State.stripeLoom s t ctx j res) := by
  unfold State.stripeLoom
  iterate 40 (try any_goals first
    | with_reducible (first | exact h | assumption | apply State.setTask_stays | apply State.endTask_stays
                            | apply State.deliver_stays | apply State.writeStripe_stays | apply State.destageFill_stays
                            | apply State.rebuildWrite_stays | apply State.scrubLocated_stays | apply State.scrubChecked_stays
                            | apply State.taskDatapath_stays | apply State.taskAgain_stays
                            | refine Stays.ite (fun _ => ?_) (fun _ => ?_) | refine Stays.ofSnd (by assumption) ?_
                            | refine Stays.ofFst (by assumption) ?_)
    | split | dsimp only | with_reducible refine Stays.upd ?_)

theorem State.destageGo_stays {σ s : State} (h : Stays σ s) (n : Nat) (f : Frame) :
    Stays σ (State.destageGo s n f) := by
  unfold State.destageGo
  iterate 40 (try any_goals first
    | with_reducible (first | exact h | assumption | apply State.bump_stays | apply State.updFrame_stays
                            | apply State.addTask_stays | refine Stays.ite (fun _ => ?_) (fun _ => ?_)
                            | refine Stays.ofSnd (by assumption) ?_ | refine Stays.ofFst (by assumption) ?_)
    | split | dsimp only | with_reducible refine Stays.upd ?_)

theorem State.rateRoll_stays {σ s : State} (h : Stays σ s) (a : Nat) :
    Stays σ (State.rateRoll s a) := by
  unfold State.rateRoll
  iterate 40 (try any_goals first
    | with_reducible (first | exact h | assumption | refine Stays.ite (fun _ => ?_) (fun _ => ?_)
                            | refine Stays.ofSnd (by assumption) ?_ | refine Stays.ofFst (by assumption) ?_)
    | split | dsimp only | with_reducible refine Stays.upd ?_)

theorem State.walkGo_stays {σ s : State} (h : Stays σ s) (a : Nat) :
    Stays σ (State.walkGo s a) := by
  unfold State.walkGo
  iterate 40 (try any_goals first
    | with_reducible (first | exact h | assumption | apply State.addTask_stays | apply State.rateRoll_stays
                            | apply State.setWalk_stays | refine Stays.ite (fun _ => ?_) (fun _ => ?_)
                            | refine Stays.ofSnd (by assumption) ?_ | refine Stays.ofFst (by assumption) ?_)
    | split | dsimp only | with_reducible refine Stays.upd ?_)

theorem State.repairGo_stays {σ s : State} (h : Stays σ s) :
    Stays σ (State.repairGo s) := by
  unfold State.repairGo
  iterate 40 (try any_goals first
    | with_reducible (first | exact h | assumption | apply State.addTask_stays | apply State.rateRoll_stays
                            | refine Stays.ite (fun _ => ?_) (fun _ => ?_) | refine Stays.ofSnd (by assumption) ?_
                            | refine Stays.ofFst (by assumption) ?_)
    | split | dsimp only | with_reducible refine Stays.upd ?_)

theorem State.resyncGo_stays {σ s : State} (h : Stays σ s) :
    Stays σ (State.resyncGo s) := by
  unfold State.resyncGo
  iterate 40 (try any_goals first
    | with_reducible (first | exact h | assumption | apply State.resyncReady_stays | apply State.addTask_stays | apply State.toReady_stays
                            | refine Stays.ite (fun _ => ?_) (fun _ => ?_) | refine Stays.ofSnd (by assumption) ?_
                            | refine Stays.ofFst (by assumption) ?_)
    | split | dsimp only | with_reducible refine Stays.upd ?_)

theorem State.scrubMark_stays {σ s : State} (h : Stays σ s) (a count : Nat) :
    Stays σ (State.scrubMark s a count) := by
  unfold State.scrubMark
  iterate 40 (try any_goals first
    | with_reducible (first | exact h | assumption | apply State.setSstBit_stays | apply Stays.foldl | apply Stays.foldlSnd
                            | apply Stays.foldlFst | refine Stays.ite (fun _ => ?_) (fun _ => ?_)
                            | refine Stays.ofSnd (by assumption) ?_ | refine Stays.ofFst (by assumption) ?_)
    | intro _ _ _ | split | dsimp only | with_reducible refine Stays.upd ?_)

theorem State.scrubWord_stays {σ s : State} (h : Stays σ s) (a next passes : Nat) :
    Stays σ (State.scrubWord s a next passes) := by
  unfold State.scrubWord
  iterate 40 (try any_goals first
    | with_reducible (first | exact h | assumption | apply State.keepWord_stays | refine Stays.ite (fun _ => ?_) (fun _ => ?_)
                            | refine Stays.ofSnd (by assumption) ?_ | refine Stays.ofFst (by assumption) ?_)
    | split | dsimp only | with_reducible refine Stays.upd ?_)

theorem State.setScrub_stays {σ s : State} (h : Stays σ s) (a : Nat) (x : Scrub) :
    Stays σ (State.setScrub s a x) := by
  unfold State.setScrub
  iterate 40 (try any_goals first
    | with_reducible (first | exact h | assumption | refine Stays.ite (fun _ => ?_) (fun _ => ?_)
                            | refine Stays.ofSnd (by assumption) ?_ | refine Stays.ofFst (by assumption) ?_)
    | split | dsimp only | with_reducible refine Stays.upd ?_)

theorem State.scrubStart_stays {σ s : State} (h : Stays σ s) (a : Nat) (r : ArrayRec) :
    Stays σ (State.scrubStart s a r) := by
  unfold State.scrubStart
  iterate 40 (try any_goals first
    | with_reducible (first | exact h | assumption | apply State.scrubMark_stays | apply State.setScrub_stays
                            | refine Stays.ite (fun _ => ?_) (fun _ => ?_) | refine Stays.ofSnd (by assumption) ?_
                            | refine Stays.ofFst (by assumption) ?_)
    | split | dsimp only | with_reducible refine Stays.upd ?_)

theorem State.scrubDone_stays {σ s : State} (h : Stays σ s) (a : Nat) :
    Stays σ (State.scrubDone s a) := by
  unfold State.scrubDone
  iterate 40 (try any_goals first
    | with_reducible (first | exact h | assumption | apply State.note_stays | apply State.scrubWord_stays
                            | apply State.setScrub_stays | refine Stays.ite (fun _ => ?_) (fun _ => ?_)
                            | refine Stays.ofSnd (by assumption) ?_ | refine Stays.ofFst (by assumption) ?_)
    | split | dsimp only | with_reducible refine Stays.upd ?_)

theorem State.scrubNext_stays {σ s : State} (h : Stays σ s) (a : Nat) :
    Stays σ (State.scrubNext s a) := by
  unfold State.scrubNext
  iterate 40 (try any_goals first
    | with_reducible (first | exact h | assumption | apply State.setScrub_stays | refine Stays.ite (fun _ => ?_) (fun _ => ?_)
                            | refine Stays.ofSnd (by assumption) ?_ | refine Stays.ofFst (by assumption) ?_)
    | split | dsimp only | with_reducible refine Stays.upd ?_)

theorem State.scrubAt_stays {σ s : State} (h : Stays σ s) (a : Nat) (r : ArrayRec) (n : Nat) :
    Stays σ (State.scrubAt s a r n) := by
  unfold State.scrubAt
  iterate 40 (try any_goals first
    | with_reducible (first | exact h | assumption | apply State.addTask_stays | apply State.repAdd_stays
                            | apply State.setSstBit_stays | refine Stays.ite (fun _ => ?_) (fun _ => ?_)
                            | refine Stays.ofSnd (by assumption) ?_ | refine Stays.ofFst (by assumption) ?_)
    | split | dsimp only | with_reducible refine Stays.upd ?_)

theorem State.scrubGo_stays {σ s : State} (h : Stays σ s) (a : Nat) :
    Stays σ (State.scrubGo s a) := by
  unfold State.scrubGo
  iterate 40 (try any_goals first
    | with_reducible (first | exact h | assumption | apply State.rateRoll_stays | apply State.scrubAt_stays
                            | apply State.scrubDone_stays | apply State.scrubNext_stays | apply State.scrubStart_stays
                            | refine Stays.ite (fun _ => ?_) (fun _ => ?_) | refine Stays.ofSnd (by assumption) ?_
                            | refine Stays.ofFst (by assumption) ?_)
    | split | dsimp only | with_reducible refine Stays.upd ?_)

theorem State.claimNext_stays {σ s : State} (h : Stays σ s) (a stripe : Nat) :
    Stays σ (State.claimNext s a stripe) := by
  unfold State.claimNext
  iterate 40 (try any_goals first
    | with_reducible (first | exact h | assumption | apply State.claim_stays | apply State.taskBegin_stays
                            | refine Stays.ite (fun _ => ?_) (fun _ => ?_) | refine Stays.ofSnd (by assumption) ?_
                            | refine Stays.ofFst (by assumption) ?_)
    | split | dsimp only | with_reducible refine Stays.upd ?_)

end Sys2Proof.Machine
end

