-- ==== Sys2Proof/Laws/StaysC.lean ====
section
/-! SUPPORT. Laws: what the operations of Areas, Millwheel, Gauge, Hamper, Restore keep (see Stays). -/

namespace Sys2Proof.Machine

set_option linter.all false
set_option Elab.async false

open Sys2Proof.Safety

theorem State.adminEnd_stays {σ s : State} (h : Stays σ s) (h st res0 : Nat) :
    Stays σ (State.adminEnd s h st res0) := by
  unfold State.adminEnd
  iterate 40 (try any_goals first
    | with_reducible (first | exact h | assumption | apply State.finish_stays | refine Stays.ite (fun _ => ?_) (fun _ => ?_)
                            | refine Stays.ofSnd (by assumption) ?_ | refine Stays.ofFst (by assumption) ?_)
    | split | dsimp only | with_reducible refine Stays.upd ?_)

theorem State.pageWrite_stays {σ s : State} (h : Stays σ s) (t a : Nat) (r : ArrayRec) (p : Nat) (ps : List Nat) :
    Stays σ (State.pageWrite s t a r p ps) := by
  unfold State.pageWrite
  iterate 40 (try any_goals first
    | with_reducible (first | exact h | assumption | apply State.taskWrite_stays | apply Stays.foldl | apply Stays.foldlSnd
                            | apply Stays.foldlFst | refine Stays.ite (fun _ => ?_) (fun _ => ?_)
                            | refine Stays.ofSnd (by assumption) ?_ | refine Stays.ofFst (by assumption) ?_)
    | intro _ _ _ | split | dsimp only | with_reducible refine Stays.upd ?_)

theorem State.pageClean_stays {σ s : State} (h : Stays σ s) (arr page : Nat) :
    Stays σ (State.pageClean s arr page) := by
  unfold State.pageClean
  iterate 40 (try any_goals first
    | with_reducible (first | exact h | assumption | refine Stays.ite (fun _ => ?_) (fun _ => ?_)
                            | refine Stays.ofSnd (by assumption) ?_ | refine Stays.ofFst (by assumption) ?_)
    | split | dsimp only | with_reducible refine Stays.upd ?_)

theorem State.pageGo_stays {σ s : State} (h : Stays σ s) (arr page at0 : Nat) (r : ArrayRec) :
    Stays σ (State.pageGo s arr page at0 r) := by
  unfold State.pageGo
  iterate 40 (try any_goals first
    | with_reducible (first | exact h | assumption | apply State.scTouch_stays | apply State.updTask_stays
                            | apply State.addTask_stays | apply State.pageWrite_stays | apply State.pageClean_stays
                            | apply Stays.foldl | apply Stays.foldlSnd | apply Stays.foldlFst
                            | refine Stays.ite (fun _ => ?_) (fun _ => ?_) | refine Stays.ofSnd (by assumption) ?_
                            | refine Stays.ofFst (by assumption) ?_)
    | intro _ _ _ | split | dsimp only | with_reducible refine Stays.upd ?_)

theorem State.lgForce_stays {σ s : State} (h : Stays σ s) :
    Stays σ (State.lgForce s) := by
  unfold State.lgForce
  iterate 40 (try any_goals first
    | with_reducible (first | exact h | assumption | apply State.pageGo_stays | apply Stays.foldl | apply Stays.foldlSnd
                            | apply Stays.foldlFst | refine Stays.ite (fun _ => ?_) (fun _ => ?_)
                            | refine Stays.ofSnd (by assumption) ?_ | refine Stays.ofFst (by assumption) ?_)
    | intro _ _ _ | split | dsimp only | with_reducible refine Stays.upd ?_)

theorem State.pageEnd_stays {σ s : State} (h : Stays σ s) (t : Nat) (x : Task) (r : ArrayRec) (p : Nat) :
    Stays σ (State.pageEnd s t x r p) := by
  unfold State.pageEnd
  iterate 40 (try any_goals first
    | with_reducible (first | exact h | assumption | apply State.endTask_stays | apply State.lgPaged_stays
                            | refine Stays.ite (fun _ => ?_) (fun _ => ?_) | refine Stays.ofSnd (by assumption) ?_
                            | refine Stays.ofFst (by assumption) ?_)
    | split | dsimp only | with_reducible refine Stays.upd ?_)

theorem State.copyWrite_stays {σ s : State} (h : Stays σ s) (t a : Nat) (r : ArrayRec) (ks ps : List Nat) :
    Stays σ (State.copyWrite s t a r ks ps) := by
  unfold State.copyWrite
  iterate 40 (try any_goals first
    | with_reducible (first | exact h | assumption | apply State.taskWrite_stays | apply Stays.foldl | apply Stays.foldlSnd
                            | apply Stays.foldlFst | refine Stays.ite (fun _ => ?_) (fun _ => ?_)
                            | refine Stays.ofSnd (by assumption) ?_ | refine Stays.ofFst (by assumption) ?_)
    | intro _ _ _ | split | dsimp only | with_reducible refine Stays.upd ?_)

theorem State.copyFill_stays {σ s : State} (h : Stays σ s) (a : Nat) (target : Option Nat) :
    Stays σ (State.copyFill s a target) := by
  unfold State.copyFill
  iterate 40 (try any_goals first
    | with_reducible (first | exact h | assumption | apply State.copyMove_stays | refine Stays.ite (fun _ => ?_) (fun _ => ?_)
                            | refine Stays.ofSnd (by assumption) ?_ | refine Stays.ofFst (by assumption) ?_)
    | split | dsimp only | with_reducible refine Stays.upd ?_)

theorem State.copyFailed_stays {σ s : State} (h : Stays σ s) (a p : Nat) :
    Stays σ (State.copyFailed s a p) := by
  unfold State.copyFailed
  iterate 40 (try any_goals first
    | with_reducible (first | exact h | assumption | apply State.bump_stays | apply State.copyMove_stays
                            | refine Stays.ite (fun _ => ?_) (fun _ => ?_) | refine Stays.ofSnd (by assumption) ?_
                            | refine Stays.ofFst (by assumption) ?_)
    | split | dsimp only | with_reducible refine Stays.upd ?_)

theorem State.copyGo_stays {σ s : State} (h : Stays σ s) (t k : Nat) (x : Task) (r : ArrayRec) :
    Stays σ (State.copyGo s t k x r) := by
  unfold State.copyGo
  iterate 40 (try any_goals first
    | with_reducible (first | exact h | assumption | apply State.copyFailed_stays | apply State.copyWrite_stays
                            | apply State.endTask_stays | apply State.setPhase_stays | apply State.updTask_stays
                            | apply Stays.foldl | apply Stays.foldlSnd | apply Stays.foldlFst
                            | refine Stays.ite (fun _ => ?_) (fun _ => ?_) | refine Stays.ofSnd (by assumption) ?_
                            | refine Stays.ofFst (by assumption) ?_)
    | intro _ _ _ | split | dsimp only | with_reducible refine Stays.upd ?_)

theorem State.moveGo_stays {σ s : State} (h : Stays σ s) (t : Nat) (x : Task) (r : ArrayRec) :
    Stays σ (State.moveGo s t x r) := by
  unfold State.moveGo
  iterate 40 (try any_goals first
    | with_reducible (first | exact h | assumption | apply State.bump_stays | apply State.copyFill_stays
                            | apply State.copyFree_stays | apply State.copyMove_stays | apply State.copyWrite_stays
                            | apply State.endTask_stays | apply State.setArr_stays | apply State.setTask_stays
                            | refine Stays.ite (fun _ => ?_) (fun _ => ?_) | refine Stays.ofSnd (by assumption) ?_
                            | refine Stays.ofFst (by assumption) ?_)
    | split | dsimp only | with_reducible refine Stays.upd ?_)

theorem State.labelRaise_stays {σ s : State} (h : Stays σ s) (a p : Nat) :
    Stays σ (State.labelRaise s a p) := by
  unfold State.labelRaise
  exact State.updArr_stays h _ _

theorem State.labelWrite_stays {σ s : State} (h : Stays σ s) (t a p lba : Nat) (zf : Bool) :
    Stays σ (State.labelWrite s t a p lba zf) := by
  unfold State.labelWrite
  iterate 40 (try any_goals first
    | with_reducible (first | exact h | assumption | apply State.taskWrite_stays | apply State.labelRaise_stays
                            | refine Stays.ite (fun _ => ?_) (fun _ => ?_)
                            | refine Stays.ofSnd (by assumption) ?_ | refine Stays.ofFst (by assumption) ?_)
    | split | dsimp only | with_reducible refine Stays.upd ?_)

theorem State.targetGo_stays {σ s : State} (h : Stays σ s) (t p : Nat) (x : Task) (r : ArrayRec) :
    Stays σ (State.targetGo s t p x r) := by
  unfold State.targetGo
  iterate 40 (try any_goals first
    | with_reducible (first | exact h | assumption | apply State.copyFill_stays | apply State.endTask_stays
                            | apply State.labelWrite_stays | apply State.pageWrite_stays
                            | apply State.setPhase_stays | apply State.setTask_stays | apply State.targetFail_stays
                            | apply State.taskFlush_stays | refine Stays.ite (fun _ => ?_) (fun _ => ?_)
                            | refine Stays.ofSnd (by assumption) ?_ | refine Stays.ofFst (by assumption) ?_)
    | split | dsimp only | with_reducible refine Stays.upd ?_)

theorem State.targetEndGo_stays {σ s : State} (h : Stays σ s) (t p : Nat) (x : Task) (r : ArrayRec) :
    Stays σ (State.targetEndGo s t p x r) := by
  unfold State.targetEndGo
  iterate 40 (try any_goals first
    | with_reducible (first | exact h | assumption | apply State.endTask_stays | apply State.note_stays
                            | apply State.putPos_stays | apply State.putWalk_stays | apply State.setPhase_stays
                            | apply State.setWalk_stays | apply State.targetFail_stays | apply State.taskFlush_stays
                            | apply State.tlUpdate_stays | apply State.updArr_stays
                            | refine Stays.ite (fun _ => ?_) (fun _ => ?_) | refine Stays.ofSnd (by assumption) ?_
                            | refine Stays.ofFst (by assumption) ?_)
    | split | dsimp only | with_reducible refine Stays.upd ?_)

theorem State.checkpointGo_stays {σ s : State} (h : Stays σ s) (t : Nat) (x : Task) (r : ArrayRec) :
    Stays σ (State.checkpointGo s t x r) := by
  unfold State.checkpointGo
  iterate 40 (try any_goals first
    | with_reducible (first | exact h | assumption | apply State.endTask_stays | apply State.putWalk_stays
                            | apply State.setTask_stays | apply State.setWalk_stays | apply State.targetFail_stays
                            | apply State.taskFlush_stays | apply Stays.foldl | apply Stays.foldlSnd | apply Stays.foldlFst
                            | refine Stays.ite (fun _ => ?_) (fun _ => ?_) | refine Stays.ofSnd (by assumption) ?_
                            | refine Stays.ofFst (by assumption) ?_)
    | intro _ _ _ | split | dsimp only | with_reducible refine Stays.upd ?_)

theorem State.arrayRemove_stays {σ s : State} (h : Stays σ s) (a : Nat) :
    Stays σ (State.arrayRemove s a) := by
  unfold State.arrayRemove
  iterate 40 (try any_goals first
    | with_reducible (first | exact h | assumption | apply State.keepRec_stays | apply State.sbSync_stays
                            | apply State.tlUpdate_stays | apply State.endTask_stays | apply State.putPos_stays
                            | apply State.putWalk_stays | apply State.portFree_stays | apply Stays.foldl
                            | apply Stays.foldlSnd | apply Stays.foldlFst | refine Stays.ite (fun _ => ?_) (fun _ => ?_)
                            | refine Stays.ofSnd (by assumption) ?_ | refine Stays.ofFst (by assumption) ?_)
    | intro _ _ _ | intro _ _ | split | dsimp only | with_reducible refine Stays.upd ?_)

theorem State.deleteGo_stays {σ s : State} (h : Stays σ s) (t h : Nat) (x : Task) (r : ArrayRec) :
    Stays σ (State.deleteGo s t h x r) := by
  unfold State.deleteGo
  iterate 40 (try any_goals first
    | with_reducible (first | exact h | assumption | apply State.adminEnd_stays | apply State.arrayRemove_stays
                            | apply State.endTask_stays | apply State.labelWrite_stays
                            | apply State.setPhase_stays | apply Stays.foldl | apply Stays.foldlSnd | apply Stays.foldlFst
                            | refine Stays.ite (fun _ => ?_) (fun _ => ?_) | refine Stays.ofSnd (by assumption) ?_
                            | refine Stays.ofFst (by assumption) ?_)
    | intro _ _ _ | split | dsimp only | with_reducible refine Stays.upd ?_)

theorem State.deleteStart_stays {σ s : State} (h : Stays σ s) (a h st : Nat) :
    Stays σ (State.deleteStart s a h st) := by
  unfold State.deleteStart
  iterate 40 (try any_goals first
    | with_reducible (first | exact h | assumption | apply State.addTask_stays | apply State.cancelTask_stays
                            | apply State.updArr_stays | apply State.updCmd_stays | apply Stays.foldl | apply Stays.foldlSnd
                            | apply Stays.foldlFst | refine Stays.ite (fun _ => ?_) (fun _ => ?_)
                            | refine Stays.ofSnd (by assumption) ?_ | refine Stays.ofFst (by assumption) ?_)
    | intro _ _ _ | split | dsimp only | with_reducible refine Stays.upd ?_)

theorem State.createGo_stays {σ s : State} (h : Stays σ s) (t h : Nat) (x : Task) (r : ArrayRec) :
    Stays σ (State.createGo s t h x r) := by
  unfold State.createGo
  iterate 40 (try any_goals first
    | with_reducible (first | exact h | assumption | apply State.adminEnd_stays | apply State.deleteStart_stays
                            | apply State.endTask_stays | apply State.labelWrite_stays
                            | apply State.setArr_stays | apply State.setPhase_stays | apply State.taskCmd_stays
                            | apply State.taskFlush_stays | apply State.tlUpdate_stays | apply Stays.foldl
                            | apply Stays.foldlSnd | apply Stays.foldlFst | refine Stays.ite (fun _ => ?_) (fun _ => ?_)
                            | refine Stays.ofSnd (by assumption) ?_ | refine Stays.ofFst (by assumption) ?_)
    | intro _ _ _ | split | dsimp only | with_reducible refine Stays.upd ?_)

theorem State.unwriteRun_stays {σ s : State} (h : Stays σ s) (a st n : Nat) : Stays σ (s.unwriteRun a st n).2 := by
  induction n generalizing s st with
  | zero => unfold State.unwriteRun; exact h
  | succ n ih =>
    unfold State.unwriteRun
    split
    · exact h
    · refine ih ?_ _
      split
      · exact h
      · exact State.sstUnwrite_stays h _ _ _

theorem State.volDeleteGo_stays {σ s : State} (h : Stays σ s) (t h0 v : Nat) (x : Task) :
    Stays σ (State.volDeleteGo s t h0 v x) := by
  unfold State.volDeleteGo
  iterate 40 (try any_goals first
    | with_reducible (first | exact h | assumption | apply State.keepRec_stays | apply State.unclaim_stays
                            | apply State.setTask_stays | apply State.endTask_stays | apply State.taskCmd_stays
                            | apply State.framesGo_stays | apply State.setPhase_stays | apply State.taskClaim_stays
                            | apply State.adminEnd_stays | apply State.unwriteRun_stays | apply Stays.foldl
                            | apply Stays.foldlSnd | apply Stays.foldlFst | refine Stays.ite (fun _ => ?_) (fun _ => ?_)
                            | refine Stays.ofSnd (by assumption) ?_ | refine Stays.ofFst (by assumption) ?_)
    | intro _ _ _ | intro _ _ | split | dsimp only | with_reducible refine Stays.upd ?_)

theorem State.volFramesGo_stays {σ s : State} (h : Stays σ s) (vol : Nat) :
    Stays σ (State.volFramesGo s vol) := by
  unfold State.volFramesGo
  iterate 40 (try any_goals first
    | with_reducible (first | exact h | assumption | apply State.framesGo_stays | refine Stays.ite (fun _ => ?_) (fun _ => ?_)
                            | refine Stays.ofSnd (by assumption) ?_ | refine Stays.ofFst (by assumption) ?_)
    | split | dsimp only | with_reducible refine Stays.upd ?_)

theorem State.lgRelist_stays {σ s : State} (h : Stays σ s) (a : Nat) (l : List LgEnt) :
    Stays σ (State.lgRelist s a l) := by
  unfold State.lgRelist
  iterate 40 (try any_goals first
    | with_reducible (first | exact h | assumption | refine Stays.ite (fun _ => ?_) (fun _ => ?_)
                            | refine Stays.ofSnd (by assumption) ?_ | refine Stays.ofFst (by assumption) ?_)
    | split | dsimp only | with_reducible refine Stays.upd ?_)

theorem State.replayCount_stays {σ s : State} (h : Stays σ s) (st : Nat) :
    Stays σ (State.replayCount s st) := by
  unfold State.replayCount
  iterate 40 (try any_goals first
    | with_reducible (first | exact h | assumption | apply State.bump_stays | refine Stays.ite (fun _ => ?_) (fun _ => ?_)
                            | refine Stays.ofSnd (by assumption) ?_ | refine Stays.ofFst (by assumption) ?_)
    | split | dsimp only | with_reducible refine Stays.upd ?_)

theorem State.replayStripe_stays {σ s : State} (h : Stays σ s) (a : Nat) (l : List (LgEnt × Bool)) :
    Stays σ (State.replayStripe s a l) := by
  unfold State.replayStripe
  iterate 40 (try any_goals first
    | with_reducible (first | exact h | assumption | apply State.setSstGen_stays | apply State.sstUnwrite_stays
                            | apply State.lgRelist_stays | apply State.replayCount_stays
                            | refine Stays.ite (fun _ => ?_) (fun _ => ?_) | refine Stays.ofSnd (by assumption) ?_
                            | refine Stays.ofFst (by assumption) ?_)
    | split | dsimp only | with_reducible refine Stays.upd ?_)

theorem State.replayRest_stays {σ s : State} (h : Stays σ s) (a : Nat) (r : ArrayRec) (named : Nat → Bool) :
    Stays σ (State.replayRest s a r named) := by
  unfold State.replayRest
  iterate 40 (try any_goals first
    | with_reducible (first | exact h | assumption | apply State.bump_stays | apply State.setSstState_stays
                            | apply State.setSstGen_stays | apply Stays.foldl | apply Stays.foldlSnd | apply Stays.foldlFst
                            | refine Stays.ite (fun _ => ?_) (fun _ => ?_) | refine Stays.ofSnd (by assumption) ?_
                            | refine Stays.ofFst (by assumption) ?_)
    | intro _ _ _ | split | dsimp only | with_reducible refine Stays.upd ?_)

theorem State.rpClear_stays {σ s : State} (h : Stays σ s) :
    Stays σ (State.rpClear s) := by
  unfold State.rpClear
  iterate 40 (try any_goals first
    | with_reducible (first | exact h | assumption | apply State.setReg_stays | apply Stays.foldl | apply Stays.foldlSnd
                            | apply Stays.foldlFst | refine Stays.ite (fun _ => ?_) (fun _ => ?_)
                            | refine Stays.ofSnd (by assumption) ?_ | refine Stays.ofFst (by assumption) ?_)
    | intro _ _ _ | split | dsimp only | with_reducible refine Stays.upd ?_)

theorem State.replay_stays {σ s : State} (h : Stays σ s) (a : Nat) (win : List LgEnt) (up : Nat) :
    Stays σ (State.replay s a win up) := by
  unfold State.replay
  iterate 40 (try any_goals first
    | with_reducible (first | exact h | assumption | apply State.bumpN_stays | apply State.updArr_stays
                            | apply State.sstLook_stays | apply State.lgAsk_stays | apply State.replayStripe_stays
                            | apply State.replayRest_stays | apply Stays.foldl | apply Stays.foldlSnd | apply Stays.foldlFst
                            | refine Stays.ite (fun _ => ?_) (fun _ => ?_) | refine Stays.ofSnd (by assumption) ?_
                            | refine Stays.ofFst (by assumption) ?_)
    | intro _ _ _ | split | dsimp only | with_reducible refine Stays.upd ?_)

theorem State.areaRead_stays {σ s : State} (h : Stays σ s) (t p lba n : Nat) (ok : Bool) (pay : MPayload) :
    Stays σ (State.areaRead s t p lba n ok pay) := by
  unfold State.areaRead
  iterate 40 (try any_goals first
    | with_reducible (first | exact h | assumption | apply State.put_stays | apply State.updTask_stays | apply Stays.foldl
                            | apply Stays.foldlSnd | apply Stays.foldlFst | refine Stays.ite (fun _ => ?_) (fun _ => ?_)
                            | refine Stays.ofSnd (by assumption) ?_ | refine Stays.ofFst (by assumption) ?_)
    | intro _ _ _ | split | dsimp only | with_reducible refine Stays.upd ?_)

theorem State.pageLoad_stays {σ s : State} (h : Stays σ s) (r : ArrayRec) (p : Nat) (b : List Byte) :
    Stays σ (State.pageLoad s r p b) := by
  unfold State.pageLoad
  iterate 40 (try any_goals first
    | with_reducible (first | exact h | assumption | apply State.memPut_stays | refine Stays.ite (fun _ => ?_) (fun _ => ?_)
                            | refine Stays.ofSnd (by assumption) ?_ | refine Stays.ofFst (by assumption) ?_)
    | split | dsimp only | with_reducible refine Stays.upd ?_)

theorem State.areaAsk_stays {σ s : State} (h : Stays σ s) (t : Nat) (r : ArrayRec) (ps : List Nat) (lba n : Nat) :
    Stays σ (State.areaAsk s t r ps lba n) := by
  unfold State.areaAsk
  iterate 40 (try any_goals first
    | with_reducible (first | exact h | assumption | apply State.taskCmd_stays | apply Stays.foldl | apply Stays.foldlSnd
                            | apply Stays.foldlFst | refine Stays.ite (fun _ => ?_) (fun _ => ?_)
                            | refine Stays.ofSnd (by assumption) ?_ | refine Stays.ofFst (by assumption) ?_)
    | intro _ _ _ | split | dsimp only | with_reducible refine Stays.upd ?_)

theorem State.loadGo_stays {σ s : State} (h : Stays σ s) (t h0 : Nat) (x : Task) (r : ArrayRec) :
    Stays σ (State.loadGo s t h0 x r) := by
  unfold State.loadGo
  iterate 40 (try any_goals first
    | with_reducible (first | exact h | assumption | apply State.setFlag_stays | apply State.note_stays
                            | apply State.setTask_stays | apply State.setPhase_stays | apply State.pageLoad_stays
                            | apply State.areaAsk_stays | refine Stays.ite (fun _ => ?_) (fun _ => ?_)
                            | refine Stays.ofSnd (by assumption) ?_ | refine Stays.ofFst (by assumption) ?_)
    | split | dsimp only | with_reducible refine Stays.upd ?_)

theorem State.importRefuse_stays {σ s : State} (h : Stays σ s) (t h st : Nat) :
    Stays σ (State.importRefuse s t h st) := by
  unfold State.importRefuse
  iterate 40 (try any_goals first
    | with_reducible (first | exact h | assumption | apply State.adminEnd_stays | apply State.endTask_stays
                            | apply State.setFlag_stays | refine Stays.ite (fun _ => ?_) (fun _ => ?_)
                            | refine Stays.ofSnd (by assumption) ?_ | refine Stays.ofFst (by assumption) ?_)
    | split | dsimp only | with_reducible refine Stays.upd ?_)

theorem State.importPlan_stays {σ s : State} (h : Stays σ s) (t h0 : Nat) (x : Task) :
    Stays σ (State.importPlan s t h0 x) := by
  unfold State.importPlan
  iterate 40 (try any_goals first
    | with_reducible (first | exact h | assumption | apply State.memPut_stays | apply State.setArr_stays
                            | apply State.setTask_stays | apply State.taskCmd_stays | apply State.importRefuse_stays
                            | apply Stays.foldl | apply Stays.foldlSnd | apply Stays.foldlFst
                            | refine Stays.ite (fun _ => ?_) (fun _ => ?_) | refine Stays.ofSnd (by assumption) ?_
                            | refine Stays.ofFst (by assumption) ?_)
    | intro _ _ _ | split | dsimp only | with_reducible refine Stays.upd ?_)

theorem State.importGo_stays {σ s : State} (h : Stays σ s) (t h0 : Nat) (x : Task) :
    Stays σ (State.importGo s t h0 x) := by
  unfold State.importGo
  iterate 40 (try any_goals first
    | with_reducible (first | exact h | assumption | apply State.setFlag_stays | apply State.setReg64_stays
                            | apply State.setArr_stays | apply State.tlUpdate_stays | apply State.setTask_stays
                            | apply State.endTask_stays | apply State.taskCmd_stays | apply State.chooseTarget_stays
                            | apply State.setPhase_stays | apply State.adminEnd_stays | apply State.copyFill_stays
                            | apply State.labelWrite_stays | apply State.rpClear_stays | apply State.replay_stays
                            | apply State.pageLoad_stays | apply State.areaAsk_stays | apply State.importRefuse_stays
                            | apply State.importPlan_stays | apply Stays.foldl | apply Stays.foldlSnd | apply Stays.foldlFst
                            | refine Stays.ite (fun _ => ?_) (fun _ => ?_) | refine Stays.ofSnd (by assumption) ?_
                            | refine Stays.ofFst (by assumption) ?_)
    | intro _ _ _ | split | dsimp only | with_reducible refine Stays.upd ?_)

theorem State.mwStage_stays {σ s : State} (h : Stays σ s) (k : Nat) :
    Stays σ (State.mwStage s k) := by
  unfold State.mwStage
  iterate 40 (try any_goals first
    | with_reducible (first | exact h | assumption | refine Stays.ite (fun _ => ?_) (fun _ => ?_)
                            | refine Stays.ofSnd (by assumption) ?_ | refine Stays.ofFst (by assumption) ?_)
    | split | dsimp only | with_reducible refine Stays.upd ?_)

theorem State.mwSettle_stays {σ s : State} (h : Stays σ s) :
    Stays σ (State.mwSettle s) := by
  unfold State.mwSettle
  iterate 40 (try any_goals first
    | with_reducible (first | exact h | assumption | refine Stays.ite (fun _ => ?_) (fun _ => ?_)
                            | refine Stays.ofSnd (by assumption) ?_ | refine Stays.ofFst (by assumption) ?_)
    | split | dsimp only | with_reducible refine Stays.upd ?_)

theorem State.mwSt_stays {σ s : State} (h : Stays σ s) (f : Mw → Mw) :
    Stays σ (State.mwSt s f) := by
  unfold State.mwSt
  iterate 40 (try any_goals first
    | with_reducible (first | exact h | assumption | refine Stays.ite (fun _ => ?_) (fun _ => ?_)
                            | refine Stays.ofSnd (by assumption) ?_ | refine Stays.ofFst (by assumption) ?_)
    | split | dsimp only | with_reducible refine Stays.upd ?_)

theorem State.setGates_stays {σ s : State} (h : Stays σ s) (v : Option Nat) :
    Stays σ (State.setGates s v) := by
  unfold State.setGates
  iterate 40 (try any_goals first
    | with_reducible (first | exact h | assumption | apply State.mwSt_stays | refine Stays.ite (fun _ => ?_) (fun _ => ?_)
                            | refine Stays.ofSnd (by assumption) ?_ | refine Stays.ofFst (by assumption) ?_)
    | split | dsimp only | with_reducible refine Stays.upd ?_)

theorem State.mwGo_stays {σ s : State} (h : Stays σ s) (st : Nat) :
    Stays σ (State.mwGo s st) := by
  unfold State.mwGo
  iterate 40 (try any_goals first
    | with_reducible (first | exact h | assumption | apply State.setFld_stays | apply State.setFlag_stays
                            | apply State.mwSt_stays | apply State.setGates_stays
                            | refine Stays.ite (fun _ => ?_) (fun _ => ?_) | refine Stays.ofSnd (by assumption) ?_
                            | refine Stays.ofFst (by assumption) ?_)
    | split | dsimp only | with_reducible refine Stays.upd ?_)

theorem State.mwTell_stays {σ u : State} (h : Stays σ u) (s : State) : Stays σ (State.mwTell u s) := by
  unfold State.mwTell
  exact Stays.ite (fun _ => h) (fun _ => State.tlUpdate_stays h)

theorem State.commEnd_stays {σ s : State} (h : Stays σ s) (res : Nat) :
    Stays σ (State.commEnd s res) := by
  unfold State.commEnd
  iterate 40 (try any_goals first
    | with_reducible (first | exact h | assumption | apply State.finish_stays | apply State.kwStore_stays
                            | apply State.mwSt_stays | apply State.setFlag_stays | refine Stays.ite (fun _ => ?_) (fun _ => ?_)
                            | refine Stays.ofSnd (by assumption) ?_ | refine Stays.ofFst (by assumption) ?_)
    | split | dsimp only | with_reducible refine Stays.upd ?_)

theorem State.mwFaultGo_stays {σ s : State} (h : Stays σ s) (cause : Nat) :
    Stays σ (State.mwFaultGo s cause) := by
  unfold State.mwFaultGo
  iterate 40 (try any_goals first
    | with_reducible (first | exact h | assumption | apply State.setFld_stays | apply State.setFlag_stays
                            | apply State.note_stays | apply State.tlUpdate_stays | apply State.mwGo_stays
                            | apply State.commEnd_stays | refine Stays.ite (fun _ => ?_) (fun _ => ?_)
                            | refine Stays.ofSnd (by assumption) ?_ | refine Stays.ofFst (by assumption) ?_)
    | split | dsimp only | with_reducible refine Stays.upd ?_)

theorem State.shortGo_stays {σ s : State} (h : Stays σ s) :
    Stays σ (State.shortGo s) := by
  unfold State.shortGo
  iterate 40 (try any_goals first
    | with_reducible (first | exact h | assumption | apply State.bump_stays | apply State.mwGo_stays | apply State.mwSt_stays
                            | apply State.tlUpdate_stays | refine Stays.ite (fun _ => ?_) (fun _ => ?_) | refine Stays.ofSnd (by assumption) ?_
                            | refine Stays.ofFst (by assumption) ?_)
    | split | dsimp only | with_reducible refine Stays.upd ?_)

theorem State.chopTest_stays {σ s : State} (h : Stays σ s) (fb : Bool) :
    Stays σ (State.chopTest s fb).2 := by
  unfold State.chopTest
  iterate 40 (try any_goals first
    | with_reducible (first | exact h | assumption | apply State.setFlag_stays | apply State.mwSt_stays
                            | refine Stays.ite (fun _ => ?_) (fun _ => ?_) | refine Stays.ofSnd (by assumption) ?_
                            | refine Stays.ofFst (by assumption) ?_)
    | split | dsimp only | with_reducible refine Stays.upd ?_)

theorem State.mwAsk_stays {σ s : State} (h : Stays σ s) :
    Stays σ (State.mwAsk s) := by
  unfold State.mwAsk
  iterate 40 (try any_goals first
    | with_reducible (first | exact h | assumption | apply State.mwSt_stays | refine Stays.ite (fun _ => ?_) (fun _ => ?_)
                            | refine Stays.ofSnd (by assumption) ?_ | refine Stays.ofFst (by assumption) ?_)
    | split | dsimp only | with_reducible refine Stays.upd ?_)

theorem State.mwPreset_stays {σ s : State} (h : Stays σ s) :
    Stays σ (State.mwPreset s) := by
  unfold State.mwPreset
  iterate 40 (try any_goals first
    | with_reducible (first | exact h | assumption | apply State.mwSt_stays | refine Stays.ite (fun _ => ?_) (fun _ => ?_)
                            | refine Stays.ofSnd (by assumption) ?_ | refine Stays.ofFst (by assumption) ?_)
    | split | dsimp only | with_reducible refine Stays.upd ?_)

theorem State.mwStart_stays {σ s : State} (h : Stays σ s) :
    Stays σ (State.mwStart s) := by
  unfold State.mwStart
  iterate 40 (try any_goals first
    | with_reducible (first | exact h | assumption | apply State.mwGo_stays | apply State.mwPreset_stays
                            | refine Stays.ite (fun _ => ?_) (fun _ => ?_) | refine Stays.ofSnd (by assumption) ?_
                            | refine Stays.ofFst (by assumption) ?_)
    | split | dsimp only | with_reducible refine Stays.upd ?_)

theorem State.mwStop_stays {σ s : State} (h : Stays σ s) :
    Stays σ (State.mwStop s) := by
  unfold State.mwStop
  iterate 40 (try any_goals first
    | with_reducible (first | exact h | assumption | apply State.mwGo_stays | apply State.commEnd_stays
                            | refine Stays.ite (fun _ => ?_) (fun _ => ?_) | refine Stays.ofSnd (by assumption) ?_
                            | refine Stays.ofFst (by assumption) ?_)
    | split | dsimp only | with_reducible refine Stays.upd ?_)

theorem State.mwResume_stays {σ s : State} (h : Stays σ s) :
    Stays σ (State.mwResume s) := by
  unfold State.mwResume
  iterate 40 (try any_goals first
    | with_reducible (first | exact h | assumption | apply State.mwSt_stays | apply State.mwGo_stays
                            | refine Stays.ite (fun _ => ?_) (fun _ => ?_) | refine Stays.ofSnd (by assumption) ?_
                            | refine Stays.ofFst (by assumption) ?_)
    | split | dsimp only | with_reducible refine Stays.upd ?_)

theorem State.mwClear_stays {σ s : State} (h : Stays σ s) (brkFb : Bool) :
    Stays σ (State.mwClear s brkFb) := by
  unfold State.mwClear
  iterate 40 (try any_goals first
    | with_reducible (first | exact h | assumption | apply State.chopTest_stays | apply State.mwGo_stays
                            | apply State.setFlag_stays | apply State.setFld_stays
                            | refine Stays.ite (fun _ => ?_) (fun _ => ?_) | refine Stays.ofSnd (by assumption) ?_
                            | refine Stays.ofFst (by assumption) ?_)
    | split | dsimp only | with_reducible refine Stays.upd ?_)

theorem State.observe_stays {σ s : State} (h : Stays σ s) (thM : Rat) :
    Stays σ (State.observe s thM) := by
  unfold State.observe
  iterate 40 (try any_goals first
    | with_reducible (first | exact h | assumption | apply State.mwSt_stays | refine Stays.ite (fun _ => ?_) (fun _ => ?_)
                            | refine Stays.ofSnd (by assumption) ?_ | refine Stays.ofFst (by assumption) ?_)
    | split | dsimp only | with_reducible refine Stays.upd ?_)

theorem State.fluxStep_stays {σ s : State} (h : Stays σ s) (ph : Option (Nat × Nat × Nat)) :
    Stays σ (State.fluxStep s ph) := by
  unfold State.fluxStep
  iterate 40 (try any_goals first
    | with_reducible (first | exact h | assumption | apply State.mwSt_stays | refine Stays.ite (fun _ => ?_) (fun _ => ?_)
                            | refine Stays.ofSnd (by assumption) ?_ | refine Stays.ofFst (by assumption) ?_)
    | split | dsimp only | with_reducible refine Stays.upd ?_)

theorem State.trefFree_stays {σ s : State} (h : Stays σ s) :
    Stays σ (State.trefFree s) := by
  unfold State.trefFree
  iterate 40 (try any_goals first
    | with_reducible (first | exact h | assumption | apply State.freeBelow_stays | apply State.mwSt_stays
                            | refine Stays.ite (fun _ => ?_) (fun _ => ?_) | refine Stays.ofSnd (by assumption) ?_
                            | refine Stays.ofFst (by assumption) ?_)
    | split | dsimp only | with_reducible refine Stays.upd ?_)

theorem State.torqueRef_stays {σ s : State} (h : Stays σ s) :
    Stays σ (State.torqueRef s) := by
  unfold State.torqueRef
  iterate 40 (try any_goals first
    | with_reducible (first | exact h | assumption | apply State.mwSt_stays | apply State.trefFree_stays
                            | refine Stays.ite (fun _ => ?_) (fun _ => ?_) | refine Stays.ofSnd (by assumption) ?_
                            | refine Stays.ofFst (by assumption) ?_)
    | split | dsimp only | with_reducible refine Stays.upd ?_)

theorem State.compare_stays {σ s : State} (h : Stays σ s) :
    Stays σ (State.compare s) := by
  unfold State.compare
  iterate 40 (try any_goals first
    | with_reducible (first | exact h | assumption | apply State.mwSt_stays | refine Stays.ite (fun _ => ?_) (fun _ => ?_)
                            | refine Stays.ofSnd (by assumption) ?_ | refine Stays.ofFst (by assumption) ?_)
    | split | dsimp only | with_reducible refine Stays.upd ?_)

theorem State.choose_stays {σ s : State} (h : Stays σ s) :
    Stays σ (State.choose s) := by
  unfold State.choose
  iterate 40 (try any_goals first
    | with_reducible (first | exact h | assumption | apply State.mwSt_stays | apply State.setGates_stays
                            | refine Stays.ite (fun _ => ?_) (fun _ => ?_) | refine Stays.ofSnd (by assumption) ?_
                            | refine Stays.ofFst (by assumption) ?_)
    | split | dsimp only | with_reducible refine Stays.upd ?_)

theorem State.rampStep_stays {σ s : State} (h : Stays σ s) :
    Stays σ (State.rampStep s) := by
  unfold State.rampStep
  iterate 40 (try any_goals first
    | with_reducible (first | exact h | assumption | apply State.mwSt_stays | apply State.setGates_stays
                            | refine Stays.ite (fun _ => ?_) (fun _ => ?_) | refine Stays.ofSnd (by assumption) ?_
                            | refine Stays.ofFst (by assumption) ?_)
    | split | dsimp only | with_reducible refine Stays.upd ?_)

theorem State.mwShow_stays {σ s : State} (h : Stays σ s) :
    Stays σ (State.mwShow s) := by
  unfold State.mwShow
  iterate 40 (try any_goals first
    | with_reducible (first | exact h | assumption | apply State.setFlag_stays | apply State.setReg_stays
                            | refine Stays.ite (fun _ => ?_) (fun _ => ?_) | refine Stays.ofSnd (by assumption) ?_
                            | refine Stays.ofFst (by assumption) ?_)
    | split | dsimp only | with_reducible refine Stays.upd ?_)

theorem State.lockHit_stays {σ s : State} (h : Stays σ s) :
    Stays σ (State.lockHit s) := by
  unfold State.lockHit
  iterate 40 (try any_goals first
    | with_reducible (first | exact h | assumption | apply State.setFld_stays | apply State.setFlag_stays
                            | apply State.bump_stays | apply State.mwSt_stays | apply State.mwGo_stays
                            | apply State.commEnd_stays | apply State.mwFaultGo_stays
                            | refine Stays.ite (fun _ => ?_) (fun _ => ?_) | refine Stays.ofSnd (by assumption) ?_
                            | refine Stays.ofFst (by assumption) ?_)
    | split | dsimp only | with_reducible refine Stays.upd ?_)

theorem State.fbLost_stays {σ s : State} (h : Stays σ s) :
    Stays σ (State.fbLost s) := by
  unfold State.fbLost
  iterate 40 (try any_goals first
    | with_reducible (first | exact h | assumption | apply State.setFlag_stays | apply State.mwFaultGo_stays
                            | refine Stays.ite (fun _ => ?_) (fun _ => ?_) | refine Stays.ofSnd (by assumption) ?_
                            | refine Stays.ofFst (by assumption) ?_)
    | split | dsimp only | with_reducible refine Stays.upd ?_)

theorem State.catchWatch_stays {σ s : State} (h : Stays σ s) :
    Stays σ (State.catchWatch s) := by
  unfold State.catchWatch
  iterate 40 (try any_goals first
    | with_reducible (first | exact h | assumption | apply State.mwSt_stays | refine Stays.ite (fun _ => ?_) (fun _ => ?_)
                            | refine Stays.ofSnd (by assumption) ?_ | refine Stays.ofFst (by assumption) ?_)
    | split | dsimp only | with_reducible refine Stays.upd ?_)

theorem State.mwNext_stays {σ s : State} (h : Stays σ s) :
    Stays σ (State.mwNext s) := by
  unfold State.mwNext
  iterate 40 (try any_goals first
    | with_reducible (first | exact h | assumption | apply State.bump_stays | apply State.mwSt_stays | apply State.mwGo_stays
                            | apply State.mwFaultGo_stays | apply State.mwPreset_stays | apply State.mwStop_stays
                            | apply State.mwResume_stays | apply State.catchWatch_stays
                            | refine Stays.ite (fun _ => ?_) (fun _ => ?_) | refine Stays.ofSnd (by assumption) ?_
                            | refine Stays.ofFst (by assumption) ?_)
    | split | dsimp only | with_reducible refine Stays.upd ?_)

theorem State.mwMove_stays {σ s : State} (h : Stays σ s) : Stays σ (State.mwMove s) :=
  State.mwTell_stays (State.mwNext_stays h) s

theorem State.mwTurn_stays {σ s : State} (h : Stays σ s) :
    Stays σ (State.mwTurn s) := by
  unfold State.mwTurn
  iterate 40 (try any_goals first
    | with_reducible (first | exact h | assumption | apply State.mwSettle_stays | apply State.mwSt_stays
                            | refine Stays.ite (fun _ => ?_) (fun _ => ?_) | refine Stays.ofSnd (by assumption) ?_
                            | refine Stays.ofFst (by assumption) ?_)
    | split | dsimp only | with_reducible refine Stays.upd ?_)

theorem State.dcCheck_stays {σ s : State} (h : Stays σ s) :
    Stays σ (State.dcCheck s) := by
  unfold State.dcCheck
  iterate 40 (try any_goals first
    | with_reducible (first | exact h | assumption | apply State.mwFaultGo_stays
                            | refine Stays.ite (fun _ => ?_) (fun _ => ?_) | refine Stays.ofSnd (by assumption) ?_
                            | refine Stays.ofFst (by assumption) ?_)
    | split | dsimp only | with_reducible refine Stays.upd ?_)

theorem State.encSense_stays {σ s : State} (h : Stays σ s) (ab : List Nat) :
    Stays σ (State.encSense s ab) := by
  unfold State.encSense
  iterate 40 (try any_goals first
    | with_reducible (first | exact h | assumption | apply State.mwSt_stays | apply State.fbLost_stays
                            | refine Stays.ite (fun _ => ?_) (fun _ => ?_) | refine Stays.ofSnd (by assumption) ?_
                            | refine Stays.ofFst (by assumption) ?_)
    | split | dsimp only | with_reducible refine Stays.upd ?_)

theorem State.mwSense_stays {σ s : State} (h : Stays σ s) (m : MwSample) :
    Stays σ (State.mwSense s m) := by
  unfold State.mwSense
  iterate 40 (try any_goals first
    | with_reducible (first | exact h | assumption | apply State.setFlag_stays | apply State.mwSt_stays
                            | apply State.encSense_stays | refine Stays.ite (fun _ => ?_) (fun _ => ?_)
                            | refine Stays.ofSnd (by assumption) ?_ | refine Stays.ofFst (by assumption) ?_)
    | split | dsimp only | with_reducible refine Stays.upd ?_)

theorem State.mwEstimate_stays {σ s : State} (h : Stays σ s) (ph : Option (Nat × Nat × Nat)) :
    Stays σ (State.mwEstimate s ph) := by
  unfold State.mwEstimate
  iterate 40 (try any_goals first
    | with_reducible (first | exact h | assumption | apply State.setFlag_stays | apply State.mwSt_stays
                            | apply State.observe_stays | apply State.fluxStep_stays
                            | refine Stays.ite (fun _ => ?_) (fun _ => ?_) | refine Stays.ofSnd (by assumption) ?_
                            | refine Stays.ofFst (by assumption) ?_)
    | split | dsimp only | with_reducible refine Stays.upd ?_)

theorem State.idleDrive_stays {σ s : State} (h : Stays σ s) (full : Bool) :
    Stays σ (State.idleDrive s full) := by
  unfold State.idleDrive
  iterate 40 (try any_goals first
    | with_reducible (first | exact h | assumption | apply State.mwSt_stays | apply State.setGates_stays
                            | refine Stays.ite (fun _ => ?_) (fun _ => ?_) | refine Stays.ofSnd (by assumption) ?_
                            | refine Stays.ofFst (by assumption) ?_)
    | split | dsimp only | with_reducible refine Stays.upd ?_)

theorem State.holdDrive_stays {σ s : State} (h : Stays σ s) (v : Nat) :
    Stays σ (State.holdDrive s v) := by
  unfold State.holdDrive
  iterate 40 (try any_goals first
    | with_reducible (first | exact h | assumption | apply State.mwSt_stays | apply State.setGates_stays
                            | refine Stays.ite (fun _ => ?_) (fun _ => ?_) | refine Stays.ofSnd (by assumption) ?_
                            | refine Stays.ofFst (by assumption) ?_)
    | split | dsimp only | with_reducible refine Stays.upd ?_)

theorem State.secWatch_stays {σ s : State} (h : Stays σ s) :
    Stays σ (State.secWatch s) := by
  unfold State.secWatch
  iterate 40 (try any_goals first
    | with_reducible (first | exact h | assumption | apply State.mwSt_stays | refine Stays.ite (fun _ => ?_) (fun _ => ?_)
                            | refine Stays.ofSnd (by assumption) ?_ | refine Stays.ofFst (by assumption) ?_)
    | split | dsimp only | with_reducible refine Stays.upd ?_)

theorem State.mwDrive_stays {σ s : State} (h : Stays σ s) :
    Stays σ (State.mwDrive s) := by
  unfold State.mwDrive
  iterate 40 (try any_goals first
    | with_reducible (first | exact h | assumption | apply State.mwSt_stays | apply State.compare_stays
                            | apply State.choose_stays | apply State.rampStep_stays | apply State.idleDrive_stays
                            | apply State.holdDrive_stays | apply State.secWatch_stays
                            | refine Stays.ite (fun _ => ?_) (fun _ => ?_) | refine Stays.ofSnd (by assumption) ?_
                            | refine Stays.ofFst (by assumption) ?_)
    | split | dsimp only | with_reducible refine Stays.upd ?_)

theorem State.mwNow_stays {σ s : State} (h : Stays σ s) :
    Stays σ (State.mwNow s) := by
  unfold State.mwNow
  iterate 40 (try any_goals first
    | with_reducible (first | exact h | assumption | apply State.torqueRef_stays | apply State.mwTurn_stays
                            | apply State.dcCheck_stays | apply State.mwDrive_stays
                            | refine Stays.ite (fun _ => ?_) (fun _ => ?_) | refine Stays.ofSnd (by assumption) ?_
                            | refine Stays.ofFst (by assumption) ?_)
    | split | dsimp only | with_reducible refine Stays.upd ?_)

theorem State.mwPeriodStep_stays {σ s : State} (h : Stays σ s) (m : MwSample) :
    Stays σ (State.mwPeriodStep s m) := by
  unfold State.mwPeriodStep
  iterate 40 (try any_goals first
    | with_reducible (first | exact h | assumption | apply State.setFlag_stays | apply State.mwAsk_stays
                            | apply State.torqueRef_stays | apply State.mwShow_stays | apply State.mwMove_stays
                            | apply State.mwTurn_stays | apply State.dcCheck_stays | apply State.mwSense_stays
                            | apply State.mwEstimate_stays | apply State.mwDrive_stays
                            | refine Stays.ite (fun _ => ?_) (fun _ => ?_) | refine Stays.ofSnd (by assumption) ?_
                            | refine Stays.ofFst (by assumption) ?_)
    | split | dsimp only | with_reducible refine Stays.upd ?_)

theorem State.mwSupplyFail_stays {σ s : State} (h : Stays σ s) :
    Stays σ (State.mwSupplyFail s) := by
  unfold State.mwSupplyFail
  iterate 40 (try any_goals first
    | with_reducible (first | exact h | assumption | apply State.mwSt_stays | apply State.mwGo_stays
                            | apply State.commEnd_stays | apply State.mwNow_stays
                            | refine Stays.ite (fun _ => ?_) (fun _ => ?_) | refine Stays.ofSnd (by assumption) ?_
                            | refine Stays.ofFst (by assumption) ?_)
    | split | dsimp only | with_reducible refine Stays.upd ?_)

theorem State.peakTrip_stays {σ s : State} (h : Stays σ s) (dc : Bool) :
    Stays σ (State.peakTrip s dc) := by
  unfold State.peakTrip
  iterate 40 (try any_goals first
    | with_reducible (first | exact h | assumption | apply State.bump_stays | apply State.mwSt_stays
                            | apply State.setGates_stays | refine Stays.ite (fun _ => ?_) (fun _ => ?_)
                            | refine Stays.ofSnd (by assumption) ?_ | refine Stays.ofFst (by assumption) ?_)
    | split | dsimp only | with_reducible refine Stays.upd ?_)

theorem State.hubLimit_stays {σ s : State} (h : Stays σ s) :
    Stays σ (State.hubLimit s) := by
  unfold State.hubLimit
  iterate 40 (try any_goals first
    | with_reducible (first | exact h | assumption | apply State.mwFaultGo_stays
                            | refine Stays.ite (fun _ => ?_) (fun _ => ?_) | refine Stays.ofSnd (by assumption) ?_
                            | refine Stays.ofFst (by assumption) ?_)
    | split | dsimp only | with_reducible refine Stays.upd ?_)

theorem State.hubShort_stays {σ s : State} (h : Stays σ s) :
    Stays σ (State.hubShort s) := by
  unfold State.hubShort
  iterate 40 (try any_goals first
    | with_reducible (first | exact h | assumption | apply State.setFlag_stays | apply State.shortGo_stays
                            | refine Stays.ite (fun _ => ?_) (fun _ => ?_) | refine Stays.ofSnd (by assumption) ?_
                            | refine Stays.ofFst (by assumption) ?_)
    | split | dsimp only | with_reducible refine Stays.upd ?_)

theorem State.hubChop_stays {σ s : State} (h : Stays σ s) (fb : Bool) :
    Stays σ (State.hubChop s fb) := by
  unfold State.hubChop
  iterate 40 (try any_goals first
    | with_reducible (first | exact h | assumption | apply State.bump_stays | apply State.mwSt_stays
                            | refine Stays.ite (fun _ => ?_) (fun _ => ?_) | refine Stays.ofSnd (by assumption) ?_
                            | refine Stays.ofFst (by assumption) ?_)
    | split | dsimp only | with_reducible refine Stays.upd ?_)

theorem State.hubAct_stays {σ s : State} (h : Stays σ s) (fb : Bool) :
    Stays σ (State.hubAct s fb) := by
  unfold State.hubAct
  iterate 40 (try any_goals first
    | with_reducible (first | exact h | assumption | apply State.hubLimit_stays | apply State.hubShort_stays
                            | apply State.hubChop_stays | refine Stays.ite (fun _ => ?_) (fun _ => ?_)
                            | refine Stays.ofSnd (by assumption) ?_ | refine Stays.ofFst (by assumption) ?_)
    | split | dsimp only | with_reducible refine Stays.upd ?_)

theorem State.chopFaultGo_stays {σ s : State} (h : Stays σ s) :
    Stays σ (State.chopFaultGo s) := by
  unfold State.chopFaultGo
  iterate 40 (try any_goals first
    | with_reducible (first | exact h | assumption | apply State.setFlag_stays | apply State.mwSt_stays
                            | apply State.mwNow_stays | refine Stays.ite (fun _ => ?_) (fun _ => ?_)
                            | refine Stays.ofSnd (by assumption) ?_ | refine Stays.ofFst (by assumption) ?_)
    | split | dsimp only | with_reducible refine Stays.upd ?_)

theorem State.alignEnd_stays {σ s : State} (h : Stays σ s) :
    Stays σ (State.alignEnd s) := by
  unfold State.alignEnd
  iterate 40 (try any_goals first
    | with_reducible (first | exact h | assumption | apply State.kwStore_stays | apply State.mwSt_stays
                            | refine Stays.ite (fun _ => ?_) (fun _ => ?_) | refine Stays.ofSnd (by assumption) ?_
                            | refine Stays.ofFst (by assumption) ?_)
    | split | dsimp only | with_reducible refine Stays.upd ?_)

theorem State.retryStart_stays {σ s : State} (h : Stays σ s) :
    Stays σ (State.retryStart s) := by
  unfold State.retryStart
  iterate 40 (try any_goals first
    | with_reducible (first | exact h | assumption | apply State.freeBelow_stays | apply State.mwTell_stays
                            | apply State.chopTest_stays | apply State.mwStart_stays
                            | refine Stays.ite (fun _ => ?_) (fun _ => ?_) | refine Stays.ofSnd (by assumption) ?_
                            | refine Stays.ofFst (by assumption) ?_)
    | split | dsimp only | with_reducible refine Stays.upd ?_)

theorem State.indexGo_stays {σ s : State} (h : Stays σ s) :
    Stays σ (State.indexGo s) := by
  unfold State.indexGo
  iterate 40 (try any_goals first
    | with_reducible (first | exact h | assumption | apply State.kwStore_stays | apply State.mwSt_stays
                            | refine Stays.ite (fun _ => ?_) (fun _ => ?_) | refine Stays.ofSnd (by assumption) ?_
                            | refine Stays.ofFst (by assumption) ?_)
    | split | dsimp only | with_reducible refine Stays.upd ?_)

theorem State.commStart_stays {σ s : State} (h : Stays σ s) (h : Nat) :
    Stays σ (State.commStart s h) := by
  unfold State.commStart
  iterate 40 (try any_goals first
    | with_reducible (first | exact h | assumption | apply State.mwGo_stays | apply State.mwSt_stays | apply State.setFlag_stays
                            | refine Stays.ite (fun _ => ?_) (fun _ => ?_) | refine Stays.ofSnd (by assumption) ?_
                            | refine Stays.ofFst (by assumption) ?_)
    | split | dsimp only | with_reducible refine Stays.upd ?_)

theorem State.mwCommGo_stays {σ s : State} (h : Stays σ s) :
    Stays σ (State.mwCommGo s) := by
  unfold State.mwCommGo
  iterate 40 (try any_goals first
    | with_reducible (first | exact h | assumption | apply State.mwTell_stays | apply State.commStart_stays | refine Stays.ite (fun _ => ?_) (fun _ => ?_)
                            | refine Stays.ofSnd (by assumption) ?_ | refine Stays.ofFst (by assumption) ?_)
    | split | dsimp only | with_reducible refine Stays.upd ?_)

theorem State.mwAbort_stays {σ s : State} (h : Stays σ s) :
    Stays σ (State.mwAbort s) := by
  unfold State.mwAbort
  iterate 40 (try any_goals first
    | with_reducible (first | exact h | assumption | apply State.mwTell_stays | apply State.commEnd_stays | apply State.mwGo_stays
                            | refine Stays.ite (fun _ => ?_) (fun _ => ?_) | refine Stays.ofSnd (by assumption) ?_
                            | refine Stays.ofFst (by assumption) ?_)
    | split | dsimp only | with_reducible refine Stays.upd ?_)

theorem State.commRecord_stays {σ s : State} (h : Stays σ s) (c : MwComm) :
    Stays σ (State.commRecord s c) := by
  unfold State.commRecord
  iterate 40 (try any_goals first
    | with_reducible (first | exact h | assumption | apply State.put_stays | apply State.kwStore_stays
                            | apply State.tlUpdate_stays | apply State.commEnd_stays
                            | refine Stays.ite (fun _ => ?_) (fun _ => ?_) | refine Stays.ofSnd (by assumption) ?_
                            | refine Stays.ofFst (by assumption) ?_)
    | split | dsimp only | with_reducible refine Stays.upd ?_)

theorem State.commDrive_stays {σ s : State} (h : Stays σ s) (step : Nat) :
    Stays σ (State.commDrive s step) := by
  unfold State.commDrive
  iterate 40 (try any_goals first
    | with_reducible (first | exact h | assumption | apply State.mwGo_stays | apply State.mwPreset_stays
                            | refine Stays.ite (fun _ => ?_) (fun _ => ?_) | refine Stays.ofSnd (by assumption) ?_
                            | refine Stays.ofFst (by assumption) ?_)
    | split | dsimp only | with_reducible refine Stays.upd ?_)

theorem State.showInt_stays {σ s : State} (h : Stays σ s) (k w : Nat) (signed : Bool) (v : Int) :
    Stays σ (State.showInt s k w signed v) := by
  unfold State.showInt
  iterate 40 (try any_goals first
    | with_reducible (first | exact h | assumption | apply State.freeBelow_stays | apply State.setFld_stays
                            | refine Stays.ite (fun _ => ?_) (fun _ => ?_) | refine Stays.ofSnd (by assumption) ?_
                            | refine Stays.ofFst (by assumption) ?_)
    | split | dsimp only | with_reducible refine Stays.upd ?_)

theorem State.gaSt_stays {σ s : State} (h : Stays σ s) (f : Ga → Ga) :
    Stays σ (State.gaSt s f) := by
  unfold State.gaSt
  iterate 40 (try any_goals first
    | with_reducible (first | exact h | assumption | refine Stays.ite (fun _ => ?_) (fun _ => ?_)
                            | refine Stays.ofSnd (by assumption) ?_ | refine Stays.ofFst (by assumption) ?_)
    | split | dsimp only | with_reducible refine Stays.upd ?_)

theorem State.gaFresh_stays {σ s : State} (h : Stays σ s) :
    Stays σ (State.gaFresh s) := by
  unfold State.gaFresh
  iterate 40 (try any_goals first
    | with_reducible (first | exact h | assumption | apply State.gaSt_stays | apply State.setFlag_stays
                            | apply State.setReg_stays | refine Stays.ite (fun _ => ?_) (fun _ => ?_)
                            | refine Stays.ofSnd (by assumption) ?_ | refine Stays.ofFst (by assumption) ?_)
    | split | dsimp only | with_reducible refine Stays.upd ?_)

theorem State.gaLoad_stays {σ s : State} (h : Stays σ s) :
    Stays σ (State.gaLoad s) := by
  unfold State.gaLoad
  iterate 40 (try any_goals first
    | with_reducible (first | exact h | assumption | apply State.gaFresh_stays | apply State.gaSt_stays
                            | apply State.setReg_stays | apply State.setReg64_stays
                            | refine Stays.ite (fun _ => ?_) (fun _ => ?_) | refine Stays.ofSnd (by assumption) ?_
                            | refine Stays.ofFst (by assumption) ?_)
    | split | dsimp only | with_reducible refine Stays.upd ?_)

theorem State.gaWriteBack_stays {σ s : State} (h : Stays σ s) :
    Stays σ (State.gaWriteBack s) := by
  unfold State.gaWriteBack
  iterate 40 (try any_goals first
    | with_reducible (first | exact h | assumption | apply State.bump_stays | apply State.gaSt_stays | apply State.keepPut_stays
                            | apply State.setFlag_stays | apply State.setReg64_stays
                            | refine Stays.ite (fun _ => ?_) (fun _ => ?_) | refine Stays.ofSnd (by assumption) ?_
                            | refine Stays.ofFst (by assumption) ?_)
    | split | dsimp only | with_reducible refine Stays.upd ?_)

theorem State.gaStep6_stays {σ s : State} (h : Stays σ s) :
    Stays σ (State.gaStep6 s) := by
  unfold State.gaStep6
  iterate 40 (try any_goals first
    | with_reducible (first | exact h | assumption | apply State.gaWriteBack_stays
                            | refine Stays.ite (fun _ => ?_) (fun _ => ?_) | refine Stays.ofSnd (by assumption) ?_
                            | refine Stays.ofFst (by assumption) ?_)
    | split | dsimp only | with_reducible refine Stays.upd ?_)

theorem State.gaForget_stays {σ s : State} (h : Stays σ s) :
    Stays σ (State.gaForget s) := by
  unfold State.gaForget
  iterate 40 (try any_goals first
    | with_reducible (first | exact h | assumption | apply State.gaFresh_stays | apply State.gaStep6_stays
                            | apply State.setFlag_stays | refine Stays.ite (fun _ => ?_) (fun _ => ?_)
                            | refine Stays.ofSnd (by assumption) ?_ | refine Stays.ofFst (by assumption) ?_)
    | split | dsimp only | with_reducible refine Stays.upd ?_)

theorem State.packOff_stays {σ s : State} (h : Stays σ s) :
    Stays σ (State.packOff s) := by
  unfold State.packOff
  iterate 40 (try any_goals first
    | with_reducible (first | exact h | assumption | apply State.gaSt_stays | refine Stays.ite (fun _ => ?_) (fun _ => ?_)
                            | refine Stays.ofSnd (by assumption) ?_ | refine Stays.ofFst (by assumption) ?_)
    | split | dsimp only | with_reducible refine Stays.upd ?_)

theorem State.packOn_stays {σ s : State} (h : Stays σ s) :
    Stays σ (State.packOn s) := by
  unfold State.packOn
  iterate 40 (try any_goals first
    | with_reducible (first | exact h | assumption | apply State.gaSt_stays | refine Stays.ite (fun _ => ?_) (fun _ => ?_)
                            | refine Stays.ofSnd (by assumption) ?_ | refine Stays.ofFst (by assumption) ?_)
    | split | dsimp only | with_reducible refine Stays.upd ?_)

theorem State.gaGone_stays {σ s : State} (h : Stays σ s) :
    Stays σ (State.gaGone s) := by
  unfold State.gaGone
  iterate 40 (try any_goals first
    | with_reducible (first | exact h | assumption | apply State.bump_stays | apply State.gaSt_stays | apply State.packOff_stays
                            | apply State.setFlag_stays | apply State.setFld_stays | apply State.setReg_stays
                            | refine Stays.ite (fun _ => ?_) (fun _ => ?_) | refine Stays.ofSnd (by assumption) ?_
                            | refine Stays.ofFst (by assumption) ?_)
    | split | dsimp only | with_reducible refine Stays.upd ?_)

theorem State.gaRemove_stays {σ s : State} (h : Stays σ s) :
    Stays σ (State.gaRemove s) := by
  unfold State.gaRemove
  iterate 40 (try any_goals first
    | with_reducible (first | exact h | assumption | apply State.gaGone_stays | apply State.note_stays
                            | apply State.tlUpdate_stays | refine Stays.ite (fun _ => ?_) (fun _ => ?_)
                            | refine Stays.ofSnd (by assumption) ?_ | refine Stays.ofFst (by assumption) ?_)
    | split | dsimp only | with_reducible refine Stays.upd ?_)

theorem State.gaPlaced_stays {σ s : State} (h : Stays σ s) (code : Nat) :
    Stays σ (State.gaPlaced s code) := by
  unfold State.gaPlaced
  iterate 40 (try any_goals first
    | with_reducible (first | exact h | assumption | apply State.bump_stays | apply State.gaLoad_stays | apply State.gaSt_stays
                            | apply State.setFlag_stays | apply State.setFld_stays
                            | refine Stays.ite (fun _ => ?_) (fun _ => ?_) | refine Stays.ofSnd (by assumption) ?_
                            | refine Stays.ofFst (by assumption) ?_)
    | split | dsimp only | with_reducible refine Stays.upd ?_)

theorem State.gaReload_stays {σ s : State} (h : Stays σ s) (code : Nat) :
    Stays σ (State.gaReload s code) := by
  unfold State.gaReload
  iterate 40 (try any_goals first
    | with_reducible (first | exact h | assumption | apply State.setFld_stays | apply State.gaLoad_stays
                            | refine Stays.ite (fun _ => ?_) (fun _ => ?_) | refine Stays.ofSnd (by assumption) ?_
                            | refine Stays.ofFst (by assumption) ?_)
    | split | dsimp only | with_reducible refine Stays.upd ?_)

theorem State.gaShow_stays {σ s : State} (h : Stays σ s) :
    Stays σ (State.gaShow s) := by
  unfold State.gaShow
  iterate 40 (try any_goals first
    | with_reducible (first | exact h | assumption | apply State.bump_stays | apply State.note_stays | apply State.setFlag_stays
                            | apply State.setReg_stays | apply State.showInt_stays
                            | refine Stays.ite (fun _ => ?_) (fun _ => ?_) | refine Stays.ofSnd (by assumption) ?_
                            | refine Stays.ofFst (by assumption) ?_)
    | split | dsimp only | with_reducible refine Stays.upd ?_)

theorem State.gaRecode_stays {σ s : State} (h : Stays σ s) :
    Stays σ (State.gaRecode s) := by
  unfold State.gaRecode
  iterate 40 (try any_goals first
    | with_reducible (first | exact h | assumption | apply State.setReg_stays | apply State.setFld_stays
                            | apply State.setFlag_stays | apply State.tlUpdate_stays
                            | refine Stays.ite (fun _ => ?_) (fun _ => ?_) | refine Stays.ofSnd (by assumption) ?_
                            | refine Stays.ofFst (by assumption) ?_)
    | split | dsimp only | with_reducible refine Stays.upd ?_)

theorem State.gaStep5_stays {σ s : State} (h : Stays σ s) :
    Stays σ (State.gaStep5 s) := by
  unfold State.gaStep5
  iterate 40 (try any_goals first
    | with_reducible (first | exact h | assumption | apply State.gaShow_stays | apply State.tlUpdate_stays
                            | refine Stays.ite (fun _ => ?_) (fun _ => ?_) | refine Stays.ofSnd (by assumption) ?_
                            | refine Stays.ofFst (by assumption) ?_)
    | split | dsimp only | with_reducible refine Stays.upd ?_)

theorem State.gaLearn_stays {σ s : State} (h : Stays σ s) (q : Rat) :
    Stays σ (State.gaLearn s q) := by
  unfold State.gaLearn
  iterate 40 (try any_goals first
    | with_reducible (first | exact h | assumption | apply State.bump_stays | apply State.gaSt_stays | apply State.setFlag_stays
                            | apply State.setReg_stays | refine Stays.ite (fun _ => ?_) (fun _ => ?_)
                            | refine Stays.ofSnd (by assumption) ?_ | refine Stays.ofFst (by assumption) ?_)
    | split | dsimp only | with_reducible refine Stays.upd ?_)

theorem State.gaStep3_stays {σ s : State} (h : Stays σ s) :
    Stays σ (State.gaStep3 s).2 := by
  unfold State.gaStep3
  iterate 40 (try any_goals first
    | with_reducible (first | exact h | assumption | apply State.setFlag_stays | apply State.gaSt_stays
                            | apply State.packOff_stays | refine Stays.ite (fun _ => ?_) (fun _ => ?_)
                            | refine Stays.ofSnd (by assumption) ?_ | refine Stays.ofFst (by assumption) ?_)
    | split | dsimp only | with_reducible refine Stays.upd ?_)

theorem State.gaRint_stays {σ s : State} (h : Stays σ s) (oldI oldV : Rat) :
    Stays σ (State.gaRint s oldI oldV) := by
  unfold State.gaRint
  iterate 40 (try any_goals first
    | with_reducible (first | exact h | assumption | apply State.setReg_stays | refine Stays.ite (fun _ => ?_) (fun _ => ?_)
                            | refine Stays.ofSnd (by assumption) ?_ | refine Stays.ofFst (by assumption) ?_)
    | split | dsimp only | with_reducible refine Stays.upd ?_)

theorem State.gaStep4_stays {σ s : State} (h : Stays σ s) (m : Option Rat) (oldI oldV : Rat) :
    Stays σ (State.gaStep4 s m oldI oldV) := by
  unfold State.gaStep4
  iterate 40 (try any_goals first
    | with_reducible (first | exact h | assumption | apply State.gaLearn_stays | apply State.gaRint_stays | apply State.setFlag_stays
                            | apply State.setReg_stays | refine Stays.ite (fun _ => ?_) (fun _ => ?_)
                            | refine Stays.ofSnd (by assumption) ?_ | refine Stays.ofFst (by assumption) ?_)
    | split | dsimp only | with_reducible refine Stays.upd ?_)

theorem State.gaStep2_stays {σ s : State} (h : Stays σ s) :
    Stays σ (State.gaStep2 s) := by
  unfold State.gaStep2
  iterate 40 (try any_goals first
    | with_reducible (first | exact h | assumption | apply State.gaSt_stays | apply State.setFlag_stays
                            | refine Stays.ite (fun _ => ?_) (fun _ => ?_) | refine Stays.ofSnd (by assumption) ?_
                            | refine Stays.ofFst (by assumption) ?_)
    | split | dsimp only | with_reducible refine Stays.upd ?_)

theorem State.gaMean_stays {σ s : State} (h : Stays σ s) :
    Stays σ (State.gaMean s) := by
  unfold State.gaMean
  iterate 40 (try any_goals first
    | with_reducible (first | exact h | assumption | apply State.gaSt_stays | apply State.showInt_stays
                            | refine Stays.ite (fun _ => ?_) (fun _ => ?_) | refine Stays.ofSnd (by assumption) ?_
                            | refine Stays.ofFst (by assumption) ?_)
    | split | dsimp only | with_reducible refine Stays.upd ?_)

theorem State.gaDump_stays {σ s : State} (h : Stays σ s) :
    Stays σ (State.gaDump s) := by
  unfold State.gaDump
  iterate 40 (try any_goals first
    | with_reducible (first | exact h | assumption | apply State.gaSt_stays | apply State.showInt_stays
                            | refine Stays.ite (fun _ => ?_) (fun _ => ?_) | refine Stays.ofSnd (by assumption) ?_
                            | refine Stays.ofFst (by assumption) ?_)
    | split | dsimp only | with_reducible refine Stays.upd ?_)

theorem State.gaTake_stays {σ s : State} (h : Stays σ s) (m : GaSample) :
    Stays σ (State.gaTake s m) := by
  unfold State.gaTake
  iterate 40 (try any_goals first
    | with_reducible (first | exact h | assumption | apply State.setFlag_stays | apply State.showInt_stays
                            | apply State.gaSt_stays | apply State.gaMean_stays | refine Stays.ite (fun _ => ?_) (fun _ => ?_)
                            | refine Stays.ofSnd (by assumption) ?_ | refine Stays.ofFst (by assumption) ?_)
    | split | dsimp only | with_reducible refine Stays.upd ?_)

theorem State.gaRun_stays {σ s : State} (h : Stays σ s) (oldI oldV : Rat) :
    Stays σ (State.gaRun s oldI oldV) := by
  unfold State.gaRun
  iterate 40 (try any_goals first
    | with_reducible (first | exact h | assumption | apply State.gaDump_stays | apply State.gaStep3_stays
                            | apply State.gaStep4_stays | apply State.gaStep5_stays | apply State.gaStep6_stays
                            | refine Stays.ite (fun _ => ?_) (fun _ => ?_) | refine Stays.ofSnd (by assumption) ?_
                            | refine Stays.ofFst (by assumption) ?_)
    | split | dsimp only | with_reducible refine Stays.upd ?_)

theorem State.gaDisable_stays {σ s : State} (h : Stays σ s) :
    Stays σ (State.gaDisable s) := by
  unfold State.gaDisable
  iterate 40 (try any_goals first
    | with_reducible (first | exact h | assumption | apply State.setReg_stays | apply State.setFld_stays
                            | apply State.tlUpdate_stays | apply State.gaSt_stays
                            | refine Stays.ite (fun _ => ?_) (fun _ => ?_) | refine Stays.ofSnd (by assumption) ?_
                            | refine Stays.ofFst (by assumption) ?_)
    | split | dsimp only | with_reducible refine Stays.upd ?_)

theorem State.setDump_stays {σ s : State} (h : Stays σ s) (d : Dump) :
    Stays σ (State.setDump s d) := by
  unfold State.setDump
  iterate 40 (try any_goals first
    | with_reducible (first | exact h | assumption | refine Stays.ite (fun _ => ?_) (fun _ => ?_)
                            | refine Stays.ofSnd (by assumption) ?_ | refine Stays.ofFst (by assumption) ?_)
    | split | dsimp only | with_reducible refine Stays.upd ?_)

theorem State.dumpCmd_stays {σ s : State} (h : Stays σ s) (c : MCmd) :
    Stays σ (State.dumpCmd s c) := by
  unfold State.dumpCmd
  iterate 40 (try any_goals first
    | with_reducible (first | exact h | assumption | apply State.mpIssue_stays | apply State.setDump_stays
                            | refine Stays.ite (fun _ => ?_) (fun _ => ?_) | refine Stays.ofSnd (by assumption) ?_
                            | refine Stays.ofFst (by assumption) ?_)
    | split | dsimp only | with_reducible refine Stays.upd ?_)

theorem State.dumpChunk_stays {σ s : State} (h : Stays σ s) (d : Dump) (op : MOp) (i t num : Nat) (bs : List (List Byte)) :
    Stays σ (State.dumpChunk s d op i t num bs) := by
  unfold State.dumpChunk
  iterate 40 (try any_goals first
    | with_reducible (first | exact h | assumption | apply State.dumpCmd_stays | refine Stays.ite (fun _ => ?_) (fun _ => ?_)
                            | refine Stays.ofSnd (by assumption) ?_ | refine Stays.ofFst (by assumption) ?_)
    | split | dsimp only | with_reducible refine Stays.upd ?_)

theorem State.dumpData_stays {σ s : State} (h : Stays σ s) (d : Dump) (u : Nat) :
    Stays σ (State.dumpData s d u) := by
  unfold State.dumpData
  iterate 40 (try any_goals first
    | with_reducible (first | exact h | assumption | apply State.dumpChunk_stays | refine Stays.ite (fun _ => ?_) (fun _ => ?_)
                            | refine Stays.ofSnd (by assumption) ?_ | refine Stays.ofFst (by assumption) ?_)
    | split | dsimp only | with_reducible refine Stays.upd ?_)

theorem State.dumpXor_stays {σ s : State} (h : Stays σ s) (d : Dump) (t : Nat) (second : Bool) :
    Stays σ (State.dumpXor s d t second) := by
  unfold State.dumpXor
  iterate 40 (try any_goals first
    | with_reducible (first | exact h | assumption | apply State.loomSubmit_stays | apply State.newH_stays
                            | refine Stays.ite (fun _ => ?_) (fun _ => ?_) | refine Stays.ofSnd (by assumption) ?_
                            | refine Stays.ofFst (by assumption) ?_)
    | split | dsimp only | with_reducible refine Stays.upd ?_)

theorem State.dumpOpened_stays {σ s : State} (h : Stays σ s) (seq : Nat) :
    Stays σ (State.dumpOpened s seq) := by
  unfold State.dumpOpened
  iterate 40 (try any_goals first
    | with_reducible (first | exact h | assumption | apply State.dirPut_stays | apply State.dumpData_stays
                            | apply State.dumpXor_stays | apply State.keepPut_stays | apply State.setDump_stays
                            | apply State.setFlag_stays | apply Stays.foldl | apply Stays.foldlSnd | apply Stays.foldlFst
                            | refine Stays.ite (fun _ => ?_) (fun _ => ?_) | refine Stays.ofSnd (by assumption) ?_
                            | refine Stays.ofFst (by assumption) ?_)
    | intro _ _ _ | split | dsimp only | with_reducible refine Stays.upd ?_)

theorem State.dumpSealed_stays {σ s : State} (h : Stays σ s) :
    Stays σ (State.dumpSealed s) := by
  unfold State.dumpSealed
  iterate 40 (try any_goals first
    | with_reducible (first | exact h | assumption | apply State.addWear_stays | apply State.bump_stays
                            | apply State.dirPut_stays | apply State.setFlag_stays | apply State.setFld_stays
                            | refine Stays.ite (fun _ => ?_) (fun _ => ?_) | refine Stays.ofSnd (by assumption) ?_
                            | refine Stays.ofFst (by assumption) ?_)
    | split | dsimp only | with_reducible refine Stays.upd ?_)

theorem State.dumpSeal_stays {σ s : State} (h : Stays σ s) (d : Dump) :
    Stays σ (State.dumpSeal s d) := by
  unfold State.dumpSeal
  iterate 40 (try any_goals first
    | with_reducible (first | exact h | assumption | apply State.keepWord_stays | apply State.lgAsk_stays
                            | refine Stays.ite (fun _ => ?_) (fun _ => ?_) | refine Stays.ofSnd (by assumption) ?_
                            | refine Stays.ofFst (by assumption) ?_)
    | split | dsimp only | with_reducible refine Stays.upd ?_)

theorem State.dumpGo_stays {σ s : State} (h : Stays σ s) :
    Stays σ (State.dumpGo s) := by
  unfold State.dumpGo
  iterate 40 (try any_goals first
    | with_reducible (first | exact h | assumption | apply State.dumpChunk_stays | apply State.dumpCmd_stays
                            | apply State.dumpData_stays | apply State.dumpSeal_stays | apply State.dumpXor_stays
                            | apply State.setDump_stays | apply State.setFld_stays | apply Stays.foldl | apply Stays.foldlSnd
                            | apply Stays.foldlFst | refine Stays.ite (fun _ => ?_) (fun _ => ?_)
                            | refine Stays.ofSnd (by assumption) ?_ | refine Stays.ofFst (by assumption) ?_)
    | intro _ _ _ | split | dsimp only | with_reducible refine Stays.upd ?_)

theorem State.dumpEnd_stays {σ s : State} (h : Stays σ s) (c : MCmd) (p : Nat) (ok : Bool) :
    Stays σ (State.dumpEnd s c p ok) := by
  unfold State.dumpEnd
  iterate 40 (try any_goals first
    | with_reducible (first | exact h | assumption | apply State.setDump_stays | refine Stays.ite (fun _ => ?_) (fun _ => ?_)
                            | refine Stays.ofSnd (by assumption) ?_ | refine Stays.ofFst (by assumption) ?_)
    | split | dsimp only | with_reducible refine Stays.upd ?_)

theorem State.dumpXorEnd_stays {σ s : State} (h : Stays σ s) (j : LJob) (t status : Nat) :
    Stays σ (State.dumpXorEnd s j t status) := by
  unfold State.dumpXorEnd
  iterate 40 (try any_goals first
    | with_reducible (first | exact h | assumption | apply State.dumpChunk_stays | apply State.dumpXor_stays
                            | apply State.setDump_stays | refine Stays.ite (fun _ => ?_) (fun _ => ?_)
                            | refine Stays.ofSnd (by assumption) ?_ | refine Stays.ofFst (by assumption) ?_)
    | split | dsimp only | with_reducible refine Stays.upd ?_)

theorem State.dumpSnap_stays {σ s : State} (h : Stays σ s) :
    Stays σ (State.dumpSnap s) := by
  unfold State.dumpSnap
  iterate 40 (try any_goals first
    | with_reducible (first | exact h | assumption | apply State.lgAsk_stays | apply State.setDump_stays
                            | apply State.setFlag_stays | apply State.setFld_stays
                            | refine Stays.ite (fun _ => ?_) (fun _ => ?_) | refine Stays.ofSnd (by assumption) ?_
                            | refine Stays.ofFst (by assumption) ?_)
    | split | dsimp only | with_reducible refine Stays.upd ?_)

theorem State.noImageSafe_stays {σ s : State} (h : Stays σ s) :
    Stays σ (State.noImageSafe s) := by
  unfold State.noImageSafe
  iterate 40 (try any_goals first
    | with_reducible (first | exact h | assumption | apply State.setFlag_stays | refine Stays.ite (fun _ => ?_) (fun _ => ?_)
                            | refine Stays.ofSnd (by assumption) ?_ | refine Stays.ofFst (by assumption) ?_)
    | split | dsimp only | with_reducible refine Stays.upd ?_)

theorem State.setRs_stays {σ s : State} (h : Stays σ s) (r : Restore) :
    Stays σ (State.setRs s r) := by
  unfold State.setRs
  iterate 40 (try any_goals first
    | with_reducible (first | exact h | assumption | refine Stays.ite (fun _ => ?_) (fun _ => ?_)
                            | refine Stays.ofSnd (by assumption) ?_ | refine Stays.ofFst (by assumption) ?_)
    | split | dsimp only | with_reducible refine Stays.upd ?_)

theorem State.updRs_stays {σ s : State} (h : Stays σ s) (f : Restore → Restore) :
    Stays σ (State.updRs s f) := by
  unfold State.updRs
  iterate 40 (try any_goals first
    | with_reducible (first | exact h | assumption | apply State.setRs_stays | refine Stays.ite (fun _ => ?_) (fun _ => ?_)
                            | refine Stays.ofSnd (by assumption) ?_ | refine Stays.ofFst (by assumption) ?_)
    | split | dsimp only | with_reducible refine Stays.upd ?_)

theorem State.rsGiveUp_stays {σ s : State} (h : Stays σ s) (amount : Nat) :
    Stays σ (State.rsGiveUp s amount) := by
  unfold State.rsGiveUp
  iterate 40 (try any_goals first
    | with_reducible (first | exact h | assumption | apply State.bump_stays | apply State.noteD_stays
                            | apply State.rsRetire_stays | refine Stays.ite (fun _ => ?_) (fun _ => ?_)
                            | refine Stays.ofSnd (by assumption) ?_ | refine Stays.ofFst (by assumption) ?_)
    | split | dsimp only | with_reducible refine Stays.upd ?_)

theorem State.rsAsk_stays {σ s : State} (h : Stays σ s) (u i t : Nat) :
    Stays σ (State.rsAsk s u i t) := by
  unfold State.rsAsk
  iterate 40 (try any_goals first
    | with_reducible (first | exact h | assumption | apply State.mpIssue_stays | apply State.setRs_stays
                            | refine Stays.ite (fun _ => ?_) (fun _ => ?_) | refine Stays.ofSnd (by assumption) ?_
                            | refine Stays.ofFst (by assumption) ?_)
    | split | dsimp only | with_reducible refine Stays.upd ?_)

theorem State.rsFrame_stays {σ s : State} (h : Stays σ s) (r : Restore) (t : Nat) :
    Stays σ (State.rsFrame s r t) := by
  unfold State.rsFrame
  iterate 40 (try any_goals first
    | with_reducible (first | exact h | assumption | apply State.rsAsk_stays | apply State.setRs_stays | apply Stays.foldl
                            | apply Stays.foldlSnd | apply Stays.foldlFst | refine Stays.ite (fun _ => ?_) (fun _ => ?_)
                            | refine Stays.ofSnd (by assumption) ?_ | refine Stays.ofFst (by assumption) ?_)
    | intro _ _ _ | split | dsimp only | with_reducible refine Stays.upd ?_)

theorem State.rsXor_stays {σ s : State} (h : Stays σ s) (r : Restore) (t : Nat) :
    Stays σ (State.rsXor s r t) := by
  unfold State.rsXor
  iterate 40 (try any_goals first
    | with_reducible (first | exact h | assumption | apply State.setRs_stays | apply State.rsAsk_stays
                            | refine Stays.ite (fun _ => ?_) (fun _ => ?_) | refine Stays.ofSnd (by assumption) ?_
                            | refine Stays.ofFst (by assumption) ?_)
    | split | dsimp only | with_reducible refine Stays.upd ?_)

theorem State.rsResolve_stays {σ s : State} (h : Stays σ s) (r : Restore) (t : Nat) :
    Stays σ (State.rsResolve s r t) := by
  unfold State.rsResolve
  iterate 40 (try any_goals first
    | with_reducible (first | exact h | assumption | apply State.bump_stays | apply State.put_stays | apply State.setRs_stays
                            | refine Stays.ite (fun _ => ?_) (fun _ => ?_) | refine Stays.ofSnd (by assumption) ?_
                            | refine Stays.ofFst (by assumption) ?_)
    | split | dsimp only | with_reducible refine Stays.upd ?_)

theorem State.rsEnd_stays {σ s : State} (h : Stays σ s) (c : MCmd) (u : Nat) (ok : Bool) (pay : MPayload) :
    Stays σ (State.rsEnd s c u ok pay) := by
  unfold State.rsEnd
  iterate 40 (try any_goals first
    | with_reducible (first | exact h | assumption | apply State.put_stays | apply State.setRs_stays
                            | refine Stays.ite (fun _ => ?_) (fun _ => ?_) | refine Stays.ofSnd (by assumption) ?_
                            | refine Stays.ofFst (by assumption) ?_)
    | split | dsimp only | with_reducible refine Stays.upd ?_)

theorem State.rsMeta_stays {σ s : State} (h : Stays σ s) (r : Restore) :
    Stays σ (State.rsMeta s r) := by
  unfold State.rsMeta
  iterate 40 (try any_goals first
    | with_reducible (first | exact h | assumption | apply State.setFlag_stays | apply State.bumpN_stays
                            | apply State.noteD_stays | apply State.dirPut_stays | apply State.setRs_stays
                            | refine Stays.ite (fun _ => ?_) (fun _ => ?_) | refine Stays.ofSnd (by assumption) ?_
                            | refine Stays.ofFst (by assumption) ?_)
    | split | dsimp only | with_reducible refine Stays.upd ?_)

theorem State.rsPages_stays {σ s : State} (h : Stays σ s) (a : Nat) :
    Stays σ (State.rsPages s a) := by
  unfold State.rsPages
  iterate 40 (try any_goals first
    | with_reducible (first | exact h | assumption | apply State.pageLoad_stays | apply Stays.foldl | apply Stays.foldlSnd
                            | apply Stays.foldlFst | refine Stays.ite (fun _ => ?_) (fun _ => ?_)
                            | refine Stays.ofSnd (by assumption) ?_ | refine Stays.ofFst (by assumption) ?_)
    | intro _ _ _ | split | dsimp only | with_reducible refine Stays.upd ?_)

theorem State.rsMark_stays {σ s : State} (h : Stays σ s) (a : Nat) :
    Stays σ (State.rsMark s a) := by
  unfold State.rsMark
  iterate 40 (try any_goals first
    | with_reducible (first | exact h | assumption | apply State.setSstState_stays | apply Stays.foldl | apply Stays.foldlSnd
                            | apply Stays.foldlFst | refine Stays.ite (fun _ => ?_) (fun _ => ?_)
                            | refine Stays.ofSnd (by assumption) ?_ | refine Stays.ofFst (by assumption) ?_)
    | intro _ _ _ | split | dsimp only | with_reducible refine Stays.upd ?_)

theorem State.rsDiscard_stays {σ s : State} (h : Stays σ s) :
    Stays σ (State.rsDiscard s) := by
  unfold State.rsDiscard
  iterate 40 (try any_goals first
    | with_reducible (first | exact h | assumption | apply State.hmDone_stays | apply Stays.foldl | apply Stays.foldlSnd
                            | apply Stays.foldlFst | refine Stays.ite (fun _ => ?_) (fun _ => ?_)
                            | refine Stays.ofSnd (by assumption) ?_ | refine Stays.ofFst (by assumption) ?_)
    | intro _ _ _ | split | dsimp only | with_reducible refine Stays.upd ?_)

theorem State.rsLose_stays {σ s : State} (h : Stays σ s) (r : Restore) (f : Nat) :
    Stays σ (State.rsLose s r f) := by
  unfold State.rsLose
  iterate 40 (try any_goals first
    | with_reducible (first | exact h | assumption | apply State.bumpN_stays | apply State.hmDone_stays
                            | apply State.goLost_stays | apply State.setRs_stays
                            | refine Stays.ite (fun _ => ?_) (fun _ => ?_) | refine Stays.ofSnd (by assumption) ?_
                            | refine Stays.ofFst (by assumption) ?_)
    | split | dsimp only | with_reducible refine Stays.upd ?_)

theorem State.rsSlot_stays {σ s : State} (h : Stays σ s) (r : Restore) (n : Nat) (x : ArrayRec) (d : DumpSlot) :
    Stays σ (State.rsSlot s r n x d).2 := by
  unfold State.rsSlot
  iterate 40 (try any_goals first
    | with_reducible (first | exact h | assumption | apply State.getSlot_stays | apply State.memPut_stays
                            | apply State.updFrame_stays | apply Stays.foldl | apply Stays.foldlSnd | apply Stays.foldlFst
                            | refine Stays.ite (fun _ => ?_) (fun _ => ?_) | refine Stays.ofSnd (by assumption) ?_
                            | refine Stays.ofFst (by assumption) ?_)
    | intro _ _ _ | split | dsimp only | with_reducible refine Stays.upd ?_)

theorem State.rsLoad_stays {σ s : State} (h : Stays σ s) (r : Restore) (f : Nat) :
    Stays σ (State.rsLoad s r f).2 := by
  unfold State.rsLoad
  iterate 40 (try any_goals first
    | with_reducible (first | exact h | assumption | apply State.dropFrame_stays | apply State.newFrame_stays
                            | apply State.rsSlot_stays | apply State.toReady_stays | apply State.updFrame_stays
                            | apply Stays.foldl | apply Stays.foldlSnd | apply Stays.foldlFst
                            | refine Stays.ite (fun _ => ?_) (fun _ => ?_) | refine Stays.ofSnd (by assumption) ?_
                            | refine Stays.ofFst (by assumption) ?_)
    | intro _ _ _ | split | dsimp only | with_reducible refine Stays.upd ?_)

theorem State.rsFinish_stays {σ s : State} (h : Stays σ s) (r : Restore) :
    Stays σ (State.rsFinish s r) := by
  unfold State.rsFinish
  iterate 40 (try any_goals first
    | with_reducible (first | exact h | assumption | apply State.setReg_stays | apply State.noteD_stays
                            | apply State.rsRetire_stays | apply State.setRs_stays
                            | refine Stays.ite (fun _ => ?_) (fun _ => ?_) | refine Stays.ofSnd (by assumption) ?_
                            | refine Stays.ofFst (by assumption) ?_)
    | split | dsimp only | with_reducible refine Stays.upd ?_)

theorem State.rsTake_stays {σ s : State} (h : Stays σ s) (r : Restore) :
    Stays σ (State.rsTake s r) := by
  unfold State.rsTake
  iterate 40 (try any_goals first
    | with_reducible (first | exact h | assumption | apply State.hmDone_stays | apply State.setRs_stays
                            | apply State.rsLose_stays | apply State.rsFinish_stays
                            | refine Stays.ite (fun _ => ?_) (fun _ => ?_) | refine Stays.ofSnd (by assumption) ?_
                            | refine Stays.ofFst (by assumption) ?_)
    | split | dsimp only | with_reducible refine Stays.upd ?_)

theorem State.rsData_stays {σ s : State} (h : Stays σ s) (r : Restore) :
    Stays σ (State.rsData s r) := by
  unfold State.rsData
  iterate 40 (try any_goals first
    | with_reducible (first | exact h | assumption | apply State.setRs_stays | apply State.updRs_stays
                            | apply State.rsLose_stays | apply State.rsLoad_stays
                            | refine Stays.ite (fun _ => ?_) (fun _ => ?_) | refine Stays.ofSnd (by assumption) ?_
                            | refine Stays.ofFst (by assumption) ?_)
    | split | dsimp only | with_reducible refine Stays.upd ?_)

theorem State.rsScan_stays {σ s : State} (h : Stays σ s) :
    Stays σ (State.rsScan s) := by
  unfold State.rsScan
  iterate 40 (try any_goals first
    | with_reducible (first | exact h | assumption | apply State.mpIssue_stays | apply State.updRs_stays | apply Stays.foldl
                            | apply Stays.foldlSnd | apply Stays.foldlFst | refine Stays.ite (fun _ => ?_) (fun _ => ?_)
                            | refine Stays.ofSnd (by assumption) ?_ | refine Stays.ofFst (by assumption) ?_)
    | intro _ _ _ | split | dsimp only | with_reducible refine Stays.upd ?_)

theorem State.rsRefuse_stays {σ s : State} (h : Stays σ s) (r : Restore) :
    Stays σ (State.rsRefuse s r) := by
  unfold State.rsRefuse
  iterate 40 (try any_goals first
    | with_reducible (first | exact h | assumption | apply State.adminEnd_stays | refine Stays.ite (fun _ => ?_) (fun _ => ?_)
                            | refine Stays.ofSnd (by assumption) ?_ | refine Stays.ofFst (by assumption) ?_)
    | split | dsimp only | with_reducible refine Stays.upd ?_)

theorem State.rsChoose_stays {σ s : State} (h : Stays σ s) (r : Restore) :
    Stays σ (State.rsChoose s r) := by
  unfold State.rsChoose
  iterate 40 (try any_goals first
    | with_reducible (first | exact h | assumption | apply State.setRs_stays | apply State.rsRefuse_stays | apply Stays.foldl
                            | apply Stays.foldlSnd | apply Stays.foldlFst | refine Stays.ite (fun _ => ?_) (fun _ => ?_)
                            | refine Stays.ofSnd (by assumption) ?_ | refine Stays.ofFst (by assumption) ?_)
    | intro _ _ _ | split | dsimp only | with_reducible refine Stays.upd ?_)

theorem State.rsAccept_stays {σ s : State} (h : Stays σ s) (r : Restore) :
    Stays σ (State.rsAccept s r) := by
  unfold State.rsAccept
  iterate 40 (try any_goals first
    | with_reducible (first | exact h | assumption | apply State.setFld_stays | apply State.toReady_stays
                            | apply State.tlUpdate_stays | apply State.setRs_stays | apply State.rsRefuse_stays
                            | apply Stays.foldl | apply Stays.foldlSnd | apply Stays.foldlFst
                            | refine Stays.ite (fun _ => ?_) (fun _ => ?_) | refine Stays.ofSnd (by assumption) ?_
                            | refine Stays.ofFst (by assumption) ?_)
    | intro _ _ _ | split | dsimp only | with_reducible refine Stays.upd ?_)

theorem State.rsDirectory_stays {σ s : State} (h : Stays σ s) (r : Restore) :
    Stays σ (State.rsDirectory s r) := by
  unfold State.rsDirectory
  iterate 40 (try any_goals first
    | with_reducible (first | exact h | assumption | apply State.setFld_stays | apply State.keepWord_stays
                            | apply State.keepPut_stays | apply State.dirPut_stays | apply State.clearDone_stays
                            | apply State.adminEnd_stays | apply State.setRs_stays
                            | refine Stays.ite (fun _ => ?_) (fun _ => ?_) | refine Stays.ofSnd (by assumption) ?_
                            | refine Stays.ofFst (by assumption) ?_)
    | split | dsimp only | with_reducible refine Stays.upd ?_)

theorem State.rsBegin_stays {σ s : State} (h : Stays σ s) :
    Stays σ (State.rsBegin s) := by
  unfold State.rsBegin
  iterate 40 (try any_goals first
    | with_reducible (first | exact h | assumption | apply State.setReg_stays | apply State.setFld_stays
                            | apply State.setFlag_stays | apply State.setRs_stays | apply State.rsGiveUp_stays
                            | apply Stays.foldl | apply Stays.foldlSnd | apply Stays.foldlFst
                            | refine Stays.ite (fun _ => ?_) (fun _ => ?_) | refine Stays.ofSnd (by assumption) ?_
                            | refine Stays.ofFst (by assumption) ?_)
    | intro _ _ _ | split | dsimp only | with_reducible refine Stays.upd ?_)

theorem State.rsGo_stays {σ s : State} (h : Stays σ s) :
    Stays σ (State.rsGo s) := by
  unfold State.rsGo
  iterate 40 (try any_goals first
    | with_reducible (first | exact h | assumption | apply State.replay_stays | apply State.setRs_stays
                            | apply State.updRs_stays | apply State.rsGiveUp_stays | apply State.rsFrame_stays
                            | apply State.rsXor_stays | apply State.rsResolve_stays | apply State.rsMeta_stays
                            | apply State.rsPages_stays | apply State.rsMark_stays | apply State.rsDiscard_stays
                            | apply State.rsTake_stays | apply State.rsData_stays | apply State.rsScan_stays
                            | apply State.rsRefuse_stays | apply State.rsChoose_stays | apply State.rsAccept_stays
                            | apply State.rsDirectory_stays | apply Stays.foldl | apply Stays.foldlSnd | apply Stays.foldlFst
                            | refine Stays.ite (fun _ => ?_) (fun _ => ?_) | refine Stays.ofSnd (by assumption) ?_
                            | refine Stays.ofFst (by assumption) ?_)
    | intro _ _ _ | split | dsimp only | with_reducible refine Stays.upd ?_)

theorem State.rsImport_stays {σ s : State} (h : Stays σ s) (h : Nat) :
    Stays σ (State.rsImport s h) := by
  unfold State.rsImport
  iterate 40 (try any_goals first
    | with_reducible (first | exact h | assumption | apply State.setRs_stays | refine Stays.ite (fun _ => ?_) (fun _ => ?_)
                            | refine Stays.ofSnd (by assumption) ?_ | refine Stays.ofFst (by assumption) ?_)
    | split | dsimp only | with_reducible refine Stays.upd ?_)

theorem State.serviceResume_stays {σ s : State} (h : Stays σ s) :
    Stays σ (State.serviceResume s) := by
  unfold State.serviceResume
  iterate 40 (try any_goals first
    | with_reducible (first | exact h | assumption | apply State.setReg_stays | apply State.setFld_stays
                            | apply State.setFlag_stays | apply State.bump_stays | apply State.vcoreGo_stays
                            | apply State.loomUnpark_stays | apply State.mpPump_stays | apply State.tlRefuseAll_stays
                            | apply State.tlUpdate_stays | apply State.dirEnd_stays | apply State.mwResume_stays
                            | apply State.packOff_stays | apply Stays.foldl | apply Stays.foldlSnd | apply Stays.foldlFst
                            | refine Stays.ite (fun _ => ?_) (fun _ => ?_) | refine Stays.ofSnd (by assumption) ?_
                            | refine Stays.ofFst (by assumption) ?_)
    | intro _ _ _ | split | dsimp only | with_reducible refine Stays.upd ?_)

end Sys2Proof.Machine
end

