-- ==== Sys2Proof/Laws/StaysD.lean ====
section
/-! SUPPORT. Laws: what the operations of Almanac, Startup, PortInit, Reset, Tasks, Power keep (see Stays). -/

namespace Sys2Proof.Machine

set_option linter.all false
set_option Elab.async false

open Sys2Proof.Safety

theorem State.alWrite_stays {σ s : State} (h : Stays σ s) (slot : Nat) (body : List Byte) :
    Stays σ (State.alWrite s slot body) := by
  unfold State.alWrite
  iterate 40 (try any_goals first
    | with_reducible (first | exact h | assumption | apply State.keepPut_stays | apply State.keepWord_stays
                            | refine Stays.ite (fun _ => ?_) (fun _ => ?_) | refine Stays.ofSnd (by assumption) ?_
                            | refine Stays.ofFst (by assumption) ?_)
    | split | dsimp only | with_reducible refine Stays.upd ?_)

theorem State.alFounded_stays {σ s : State} (h : Stays σ s) (slot : Nat) :
    Stays σ (State.alFounded s slot) := by
  unfold State.alFounded
  iterate 40 (try any_goals first
    | with_reducible (first | exact h | assumption | apply State.kwStore_stays | refine Stays.ite (fun _ => ?_) (fun _ => ?_)
                            | refine Stays.ofSnd (by assumption) ?_ | refine Stays.ofFst (by assumption) ?_)
    | split | dsimp only | with_reducible refine Stays.upd ?_)

theorem State.alTakeSlot_stays {σ s : State} (h : Stays σ s) :
    Stays σ (State.alTakeSlot s) := by
  unfold State.alTakeSlot
  iterate 40 (try any_goals first
    | with_reducible (first | exact h | assumption | apply State.setReg64_stays | refine Stays.ite (fun _ => ?_) (fun _ => ?_)
                            | refine Stays.ofSnd (by assumption) ?_ | refine Stays.ofFst (by assumption) ?_)
    | split | dsimp only | with_reducible refine Stays.upd ?_)

theorem State.alOpenEpoch_stays {σ s : State} (h : Stays σ s) :
    Stays σ (State.alOpenEpoch s) := by
  unfold State.alOpenEpoch
  iterate 40 (try any_goals first
    | with_reducible (first | exact h | assumption | refine Stays.ite (fun _ => ?_) (fun _ => ?_)
                            | refine Stays.ofSnd (by assumption) ?_ | refine Stays.ofFst (by assumption) ?_)
    | split | dsimp only | with_reducible refine Stays.upd ?_)

theorem State.timeSave_stays {σ s : State} (h : Stays σ s) :
    Stays σ (State.timeSave s) := by
  unfold State.timeSave
  iterate 40 (try any_goals first
    | with_reducible (first | exact h | assumption | apply State.addWear_stays | apply State.bump_stays
                            | apply State.setReg64_stays | refine Stays.ite (fun _ => ?_) (fun _ => ?_)
                            | refine Stays.ofSnd (by assumption) ?_ | refine Stays.ofFst (by assumption) ?_)
    | split | dsimp only | with_reducible refine Stays.upd ?_)

theorem foldl_memWriteN_wf {α : Type} (a : α → Nat) (b : α → List Byte) (l : List α) (m : List Host.Cell) (w : memWf m = true) :
    memWf (l.foldl (fun m e => memWriteN m (a e) (b e)) m) = true := by
  induction l generalizing m with
  | nil => exact w
  | cons e t ih => exact ih _ (memWf_memWriteN _ _ _ w)

theorem State.saveWear_stays {σ s : State} (h : Stays σ s) : Stays σ s.saveWear := by
  unfold State.saveWear
  split
  · exact State.bumpN_stays h _ _
  · rename_i c
    dsimp only
    refine State.addWear_stays ?_ _ _
    exact h.trans ⟨rfl, rfl, id, fun w => foldl_memWriteN_wf _ _ _ _ w, id, List.prefix_refl _, Nat.le_refl _, Nat.le_refl _,
      fun w => absurd w c⟩

theorem State.alFlushReps_stays {σ s : State} (h : Stays σ s) :
    Stays σ (State.alFlushReps s) := by
  unfold State.alFlushReps
  iterate 40 (try any_goals first
    | with_reducible (first | exact h | assumption | apply State.alWrite_stays | refine Stays.ite (fun _ => ?_) (fun _ => ?_)
                            | refine Stays.ofSnd (by assumption) ?_ | refine Stays.ofFst (by assumption) ?_)
    | split | dsimp only | with_reducible refine Stays.upd ?_)

theorem State.alPut_stays {σ s : State} (h : Stays σ s) (kind reason : Nat) :
    Stays σ (State.alPut s kind reason) := by
  unfold State.alPut
  iterate 40 (try any_goals first
    | with_reducible (first | exact h | assumption | apply State.alFounded_stays | apply State.alTakeSlot_stays
                            | apply State.alWrite_stays | apply State.bump_stays | apply State.note_stays
                            | refine Stays.ite (fun _ => ?_) (fun _ => ?_) | refine Stays.ofSnd (by assumption) ?_
                            | refine Stays.ofFst (by assumption) ?_)
    | split | dsimp only | with_reducible refine Stays.upd ?_)

theorem State.alClose_stays {σ s : State} (h : Stays σ s) (kind reason : Nat) :
    Stays σ (State.alClose s kind reason) := by
  unfold State.alClose
  iterate 40 (try any_goals first
    | with_reducible (first | exact h | assumption | apply State.alOpenEpoch_stays | apply State.alPut_stays
                            | apply State.saveWear_stays | apply State.timeSave_stays
                            | refine Stays.ite (fun _ => ?_) (fun _ => ?_) | refine Stays.ofSnd (by assumption) ?_
                            | refine Stays.ofFst (by assumption) ?_)
    | split | dsimp only | with_reducible refine Stays.upd ?_)

theorem State.alPfdClose_stays {σ s : State} (h : Stays σ s) :
    Stays σ (State.alPfdClose s) := by
  unfold State.alPfdClose
  iterate 40 (try any_goals first
    | with_reducible (first | exact h | assumption | apply State.alClose_stays | apply State.alFlushReps_stays
                            | refine Stays.ite (fun _ => ?_) (fun _ => ?_) | refine Stays.ofSnd (by assumption) ?_
                            | refine Stays.ofFst (by assumption) ?_)
    | split | dsimp only | with_reducible refine Stays.upd ?_)

theorem State.alCheckpoint_stays {σ s : State} (h : Stays σ s) :
    Stays σ (State.alCheckpoint s) := by
  unfold State.alCheckpoint
  iterate 40 (try any_goals first
    | with_reducible (first | exact h | assumption | apply State.alFounded_stays | apply State.alTakeSlot_stays
                            | apply State.alWrite_stays | apply State.timeSave_stays
                            | refine Stays.ite (fun _ => ?_) (fun _ => ?_) | refine Stays.ofSnd (by assumption) ?_
                            | refine Stays.ofFst (by assumption) ?_)
    | split | dsimp only | with_reducible refine Stays.upd ?_)

theorem State.alRepeat_stays {σ s : State} (h : Stays σ s) (n : Note) :
    Stays σ (State.alRepeat s n) := by
  unfold State.alRepeat
  iterate 40 (try any_goals first
    | with_reducible (first | exact h | assumption | apply State.alFlushReps_stays | apply State.bumpN_stays
                            | refine Stays.ite (fun _ => ?_) (fun _ => ?_) | refine Stays.ofSnd (by assumption) ?_
                            | refine Stays.ofFst (by assumption) ?_)
    | split | dsimp only | with_reducible refine Stays.upd ?_)

theorem State.conLine_stays {σ s : State} (h : Stays σ s) (n : Note) :
    Stays σ (State.conLine s n) := by
  unfold State.conLine
  iterate 40 (try any_goals first
    | with_reducible (first | exact h | assumption | apply State.put_stays | refine Stays.ite (fun _ => ?_) (fun _ => ?_)
                            | refine Stays.ofSnd (by assumption) ?_ | refine Stays.ofFst (by assumption) ?_)
    | split | dsimp only | with_reducible refine Stays.upd ?_)

theorem State.alTake_stays {σ s : State} (h : Stays σ s) (n : Note) :
    Stays σ (State.alTake s n) := by
  unfold State.alTake
  iterate 40 (try any_goals first
    | with_reducible (first | exact h | assumption | apply State.alHist_stays | apply State.alClose_stays
                            | apply State.alRepeat_stays | apply State.conLine_stays
                            | refine Stays.ite (fun _ => ?_) (fun _ => ?_) | refine Stays.ofSnd (by assumption) ?_
                            | refine Stays.ofFst (by assumption) ?_)
    | split | dsimp only | with_reducible refine Stays.upd ?_)

theorem State.alClearRange_stays {σ s : State} (h : Stays σ s) (slot first last : Nat) :
    Stays σ (State.alClearRange s slot first last) := by
  unfold State.alClearRange
  iterate 40 (try any_goals first
    | with_reducible (first | exact h | assumption | apply State.alWrite_stays | apply State.bump_stays
                            | apply State.keepWord_stays | apply State.noteD_stays | apply Stays.foldl | apply Stays.foldlSnd
                            | apply Stays.foldlFst | refine Stays.ite (fun _ => ?_) (fun _ => ?_)
                            | refine Stays.ofSnd (by assumption) ?_ | refine Stays.ofFst (by assumption) ?_)
    | intro _ _ _ | split | dsimp only | with_reducible refine Stays.upd ?_)

theorem State.alScanSlot_stays {σ s : State} (h : Stays σ s) (n : Nat) :
    Stays σ (State.alScanSlot s n) := by
  unfold State.alScanSlot
  iterate 40 (try any_goals first
    | with_reducible (first | exact h | assumption | apply State.alClearRange_stays | apply State.alWrite_stays
                            | apply State.bump_stays | refine Stays.ite (fun _ => ?_) (fun _ => ?_)
                            | refine Stays.ofSnd (by assumption) ?_ | refine Stays.ofFst (by assumption) ?_)
    | split | dsimp only | with_reducible refine Stays.upd ?_)

theorem State.alScan_stays {σ s : State} (h : Stays σ s) :
    Stays σ (State.alScan s) := by
  unfold State.alScan
  iterate 40 (try any_goals first
    | with_reducible (first | exact h | assumption | apply State.alScanSlot_stays | apply State.setReg64_stays
                            | apply Stays.foldl | apply Stays.foldlSnd | apply Stays.foldlFst
                            | refine Stays.ite (fun _ => ?_) (fun _ => ?_) | refine Stays.ofSnd (by assumption) ?_
                            | refine Stays.ofFst (by assumption) ?_)
    | intro _ _ _ | split | dsimp only | with_reducible refine Stays.upd ?_)

theorem State.wearScan_stays {σ s : State} (h : Stays σ s) :
    Stays σ (State.wearScan s) := by
  unfold State.wearScan
  iterate 40 (try any_goals first
    | with_reducible (first | exact h | assumption | apply State.setFlag_stays | apply Stays.foldl | apply Stays.foldlSnd
                            | apply Stays.foldlFst | refine Stays.ite (fun _ => ?_) (fun _ => ?_)
                            | refine Stays.ofSnd (by assumption) ?_ | refine Stays.ofFst (by assumption) ?_)
    | intro _ _ _ | split | dsimp only | with_reducible refine Stays.upd ?_)

theorem State.alSnap_stays {σ s : State} (h : Stays σ s) (slot : Nat) :
    Stays σ (State.alSnap s slot) := by
  unfold State.alSnap
  iterate 40 (try any_goals first
    | with_reducible (first | exact h | assumption | apply State.setReg_stays | refine Stays.ite (fun _ => ?_) (fun _ => ?_)
                            | refine Stays.ofSnd (by assumption) ?_ | refine Stays.ofFst (by assumption) ?_)
    | split | dsimp only | with_reducible refine Stays.upd ?_)

theorem State.mgtSnap_stays {σ s : State} (h : Stays σ s) (slot : Nat) :
    Stays σ (State.mgtSnap s slot) := by
  unfold State.mgtSnap
  iterate 40 (try any_goals first
    | with_reducible (first | exact h | assumption | refine Stays.ite (fun _ => ?_) (fun _ => ?_)
                            | refine Stays.ofSnd (by assumption) ?_ | refine Stays.ofFst (by assumption) ?_)
    | split | dsimp only | with_reducible refine Stays.upd ?_)

theorem State.keyWrite_stays {σ s : State} (h : Stays σ s) (key : List Byte) :
    Stays σ (State.keyWrite s key) := by
  unfold State.keyWrite
  iterate 40 (try any_goals first
    | with_reducible (first | exact h | assumption | apply State.keepPut_stays | apply State.keepWord_stays
                            | apply State.setFlag_stays | refine Stays.ite (fun _ => ?_) (fun _ => ?_)
                            | refine Stays.ofSnd (by assumption) ?_ | refine Stays.ofFst (by assumption) ?_)
    | split | dsimp only | with_reducible refine Stays.upd ?_)

theorem State.newNonce_stays {σ s : State} (h : Stays σ s) :
    Stays σ (State.newNonce s).2 := by
  unfold State.newNonce
  iterate 40 (try any_goals first
    | with_reducible (first | exact h | assumption | apply State.addWear_stays | apply State.bump_stays
                            | apply State.setReg64_stays | refine Stays.ite (fun _ => ?_) (fun _ => ?_)
                            | refine Stays.ofSnd (by assumption) ?_ | refine Stays.ofFst (by assumption) ?_)
    | split | dsimp only | with_reducible refine Stays.upd ?_)

theorem State.alClear_stays {σ s : State} (h : Stays σ s) (first last : Nat) :
    Stays σ (State.alClear s first last) := by
  unfold State.alClear
  iterate 40 (try any_goals first
    | with_reducible (first | exact h | assumption | apply State.alClearRange_stays | apply State.alFounded_stays
                            | apply State.alWrite_stays | apply State.kwStore_stays | apply State.setReg64_stays
                            | refine Stays.ite (fun _ => ?_) (fun _ => ?_) | refine Stays.ofSnd (by assumption) ?_
                            | refine Stays.ofFst (by assumption) ?_)
    | split | dsimp only | with_reducible refine Stays.upd ?_)

theorem State.streamBegin_stays {σ s : State} (h : Stays σ s) (n : Nat) (x : Stream) :
    Stays σ (State.streamBegin s n x) := by
  unfold State.streamBegin
  iterate 40 (try any_goals first
    | with_reducible (first | exact h | assumption | apply State.setStream_stays | apply State.updTask_stays
                            | apply State.addTask_stays | refine Stays.ite (fun _ => ?_) (fun _ => ?_)
                            | refine Stays.ofSnd (by assumption) ?_ | refine Stays.ofFst (by assumption) ?_)
    | split | dsimp only | with_reducible refine Stays.upd ?_)

theorem State.streamTo_stays {σ s : State} (h : Stays σ s) (x : Task) (r : ArrayRec) (st k : Nat) (walk : Bool) (keep : NMap (List Byte)) :
    Stays σ (State.streamTo s x r st k walk keep) := by
  unfold State.streamTo
  iterate 40 (try any_goals first
    | with_reducible (first | exact h | assumption | apply State.setTask_stays | refine Stays.ite (fun _ => ?_) (fun _ => ?_)
                            | refine Stays.ofSnd (by assumption) ?_ | refine Stays.ofFst (by assumption) ?_)
    | split | dsimp only | with_reducible refine Stays.upd ?_)

theorem State.streamFrame_stays {σ s : State} (h : Stays σ s) (n : Nat) (x : Task) (r : ArrayRec) (v used : Nat) :
    Stays σ (State.streamFrame s n x r v used).2 := by
  unfold State.streamFrame
  iterate 40 (try any_goals first
    | with_reducible (first | exact h | assumption | apply State.getSlot_stays | apply State.memPut_stays
                            | apply State.newFrame_stays | apply State.put_stays | apply State.updFrame_stays
                            | apply Stays.foldl | apply Stays.foldlSnd | apply Stays.foldlFst
                            | refine Stays.ite (fun _ => ?_) (fun _ => ?_) | refine Stays.ofSnd (by assumption) ?_
                            | refine Stays.ofFst (by assumption) ?_)
    | intro _ _ _ | split | dsimp only | with_reducible refine Stays.upd ?_)

theorem State.streamCut_stays {σ s : State} (h : Stays σ s) (x : Task) (r : ArrayRec) (used : Nat) :
    Stays σ (State.streamCut s x r used) := by
  unfold State.streamCut
  iterate 40 (try any_goals first
    | with_reducible (first | exact h | assumption | apply State.logZero_stays | refine Stays.ite (fun _ => ?_) (fun _ => ?_)
                            | refine Stays.ofSnd (by assumption) ?_ | refine Stays.ofFst (by assumption) ?_)
    | split | dsimp only | with_reducible refine Stays.upd ?_)

theorem State.streamFinish_stays {σ s : State} (h : Stays σ s) (t n : Nat) (x : Task) (r : ArrayRec) (y : Stream) :
    Stays σ (State.streamFinish s t n x r y) := by
  unfold State.streamFinish
  iterate 40 (try any_goals first
    | with_reducible (first | exact h | assumption | apply State.setStream_stays | apply State.slotJoin_stays
                            | apply State.stopJoin_stays | apply State.endTask_stays | apply State.setPhase_stays
                            | apply State.streamFrame_stays | apply State.streamCut_stays
                            | refine Stays.ite (fun _ => ?_) (fun _ => ?_) | refine Stays.ofSnd (by assumption) ?_
                            | refine Stays.ofFst (by assumption) ?_)
    | split | dsimp only | with_reducible refine Stays.upd ?_)

theorem State.streamCur_stays {σ s : State} (h : Stays σ s) (t n : Nat) (x : Task) (r : ArrayRec) (y : Stream) :
    Stays σ (State.streamCur s t n x r y) := by
  unfold State.streamCur
  iterate 40 (try any_goals first
    | with_reducible (first | exact h | assumption | apply State.endTask_stays | apply State.setStream_stays
                            | apply State.streamTo_stays | apply Stays.foldl | apply Stays.foldlSnd | apply Stays.foldlFst
                            | refine Stays.ite (fun _ => ?_) (fun _ => ?_) | refine Stays.ofSnd (by assumption) ?_
                            | refine Stays.ofFst (by assumption) ?_)
    | intro _ _ _ | split | dsimp only | with_reducible refine Stays.upd ?_)

theorem State.streamGot_stays {σ s : State} (h : Stays σ s) (t n : Nat) (x : Task) (r : ArrayRec) (y : Stream) (k : Nat) (d : List Byte) :
    Stays σ (State.streamGot s t n x r y k d) := by
  unfold State.streamGot
  iterate 40 (try any_goals first
    | with_reducible (first | exact h | assumption | apply State.endTask_stays | apply State.setStream_stays
                            | apply State.streamCur_stays | apply State.streamFinish_stays | apply State.streamTo_stays
                            | refine Stays.ite (fun _ => ?_) (fun _ => ?_) | refine Stays.ofSnd (by assumption) ?_
                            | refine Stays.ofFst (by assumption) ?_)
    | split | dsimp only | with_reducible refine Stays.upd ?_)

theorem State.streamAt_stays {σ s : State} (h : Stays σ s) (x : Task) (r : ArrayRec) :
    Stays σ (State.streamAt s x r).2 := by
  unfold State.streamAt
  iterate 40 (try any_goals first
    | with_reducible (first | exact h | assumption | apply State.lookBlk_stays | refine Stays.ite (fun _ => ?_) (fun _ => ?_)
                            | refine Stays.ofSnd (by assumption) ?_ | refine Stays.ofFst (by assumption) ?_)
    | split | dsimp only | with_reducible refine Stays.upd ?_)

theorem State.streamGo_stays {σ s : State} (h : Stays σ s) (t n : Nat) :
    Stays σ (State.streamGo s t n) := by
  unfold State.streamGo
  iterate 40 (try any_goals first
    | with_reducible (first | exact h | assumption | apply State.beyondHit_stays | apply State.endTask_stays
                            | apply State.setTask_stays | apply State.streamAt_stays | apply State.streamGot_stays
                            | apply State.taskRead_stays | apply State.taskRecon_stays | apply Stays.foldl
                            | apply Stays.foldlSnd | apply Stays.foldlFst | refine Stays.ite (fun _ => ?_) (fun _ => ?_)
                            | refine Stays.ofSnd (by assumption) ?_ | refine Stays.ofFst (by assumption) ?_)
    | intro _ _ _ | split | dsimp only | with_reducible refine Stays.upd ?_)

theorem State.dumpCorrect_stays {σ s : State} (h : Stays σ s) :
    Stays σ (State.dumpCorrect s) := by
  unfold State.dumpCorrect
  iterate 40 (try any_goals first
    | with_reducible (first | exact h | assumption | apply State.note_stays | apply State.kwStore_stays | apply State.lrnPut_stays | apply Stays.foldl
                            | apply Stays.foldlSnd | apply Stays.foldlFst | refine Stays.ite (fun _ => ?_) (fun _ => ?_)
                            | refine Stays.ofSnd (by assumption) ?_ | refine Stays.ofFst (by assumption) ?_)
    | intro _ _ _ | split | dsimp only | with_reducible refine Stays.upd ?_)

theorem State.imageLive_stays {σ s : State} (h : Stays σ s) (es : List LgEnt) :
    Stays σ (State.imageLive s es) := by
  unfold State.imageLive
  iterate 40 (try any_goals first
    | with_reducible (first | exact h | assumption | apply State.dumpSeal_stays | refine Stays.ite (fun _ => ?_) (fun _ => ?_)
                            | refine Stays.ofSnd (by assumption) ?_ | refine Stays.ofFst (by assumption) ?_)
    | split | dsimp only | with_reducible refine Stays.upd ?_)

theorem State.bootLoad_stays {σ s : State} (h : Stays σ s) :
    Stays σ (State.bootLoad s) := by
  unfold State.bootLoad
  iterate 40 (try any_goals first
    | with_reducible (first | exact h | assumption | apply State.bump_stays | apply State.setReg64_stays
                            | apply State.addTask_stays | apply State.deleteStart_stays | apply State.rsBegin_stays
                            | apply State.imageLive_stays | apply Stays.foldl | apply Stays.foldlSnd | apply Stays.foldlFst
                            | refine Stays.ite (fun _ => ?_) (fun _ => ?_) | refine Stays.ofSnd (by assumption) ?_
                            | refine Stays.ofFst (by assumption) ?_)
    | intro _ _ _ | split | dsimp only | with_reducible refine Stays.upd ?_)

theorem State.bootReplay_stays {σ s : State} (h : Stays σ s) :
    Stays σ (State.bootReplay s) := by
  unfold State.bootReplay
  iterate 40 (try any_goals first
    | with_reducible (first | exact h | assumption | apply State.setReg64_stays | apply State.endTask_stays
                            | apply State.rpClear_stays | apply State.replay_stays | apply State.updRs_stays
                            | apply State.rsPages_stays | apply State.rsMark_stays | apply State.rsDiscard_stays
                            | apply Stays.foldl | apply Stays.foldlSnd | apply Stays.foldlFst
                            | refine Stays.ite (fun _ => ?_) (fun _ => ?_) | refine Stays.ofSnd (by assumption) ?_
                            | refine Stays.ofFst (by assumption) ?_)
    | intro _ _ _ | split | dsimp only | with_reducible refine Stays.upd ?_)

theorem State.bootStreams_stays {σ s : State} (h : Stays σ s) :
    Stays σ (State.bootStreams s) := by
  unfold State.bootStreams
  iterate 40 (try any_goals first
    | with_reducible (first | exact h | assumption | apply State.addTask_stays | apply State.streamBegin_stays
                            | apply Stays.foldl | apply Stays.foldlSnd | apply Stays.foldlFst
                            | refine Stays.ite (fun _ => ?_) (fun _ => ?_) | refine Stays.ofSnd (by assumption) ?_
                            | refine Stays.ofFst (by assumption) ?_)
    | intro _ _ _ | split | dsimp only | with_reducible refine Stays.upd ?_)

theorem State.bootCheck_stays {σ s : State} (h : Stays σ s) :
    Stays σ (State.bootCheck s) := by
  unfold State.bootCheck
  iterate 40 (try any_goals first
    | with_reducible (first | exact h | assumption | apply State.alHist_stays | refine Stays.ite (fun _ => ?_) (fun _ => ?_)
                            | refine Stays.ofSnd (by assumption) ?_ | refine Stays.ofFst (by assumption) ?_)
    | split | dsimp only | with_reducible refine Stays.upd ?_)

theorem State.walkRegions_stays {σ s : State} (h : Stays σ s) (a n : Nat) :
    Stays σ (State.walkRegions s a n) := by
  unfold State.walkRegions
  iterate 40 (try any_goals first
    | with_reducible (first | exact h | assumption | apply State.addTask_stays | apply Stays.foldl | apply Stays.foldlSnd | apply Stays.foldlFst
                            | refine Stays.ite (fun _ => ?_) (fun _ => ?_) | refine Stays.ofSnd (by assumption) ?_
                            | refine Stays.ofFst (by assumption) ?_)
    | intro _ _ _ | split | dsimp only | with_reducible refine Stays.upd ?_)

theorem State.walkResume_stays {σ s : State} (h : Stays σ s) (a : Nat) :
    Stays σ (State.walkResume s a) := by
  unfold State.walkResume
  iterate 40 (try any_goals first
    | with_reducible (first | exact h | assumption | apply State.walkRegions_stays | apply State.walkComplete_stays | apply State.setWalk_stays | apply State.targetFail_stays
                            | apply Stays.foldl | apply Stays.foldlSnd | apply Stays.foldlFst
                            | refine Stays.ite (fun _ => ?_) (fun _ => ?_) | refine Stays.ofSnd (by assumption) ?_
                            | refine Stays.ofFst (by assumption) ?_)
    | intro _ _ _ | split | dsimp only | with_reducible refine Stays.upd ?_)

theorem State.scrubResume_stays {σ s : State} (h : Stays σ s) (a : Nat) :
    Stays σ (State.scrubResume s a) := by
  unfold State.scrubResume
  iterate 40 (try any_goals first
    | with_reducible (first | exact h | assumption | apply State.setScrub_stays | refine Stays.ite (fun _ => ?_) (fun _ => ?_)
                            | refine Stays.ofSnd (by assumption) ?_ | refine Stays.ofFst (by assumption) ?_)
    | split | dsimp only | with_reducible refine Stays.upd ?_)

theorem State.bootEnd_stays {σ s : State} (h : Stays σ s) :
    Stays σ (State.bootEnd s) := by
  unfold State.bootEnd
  iterate 40 (try any_goals first
    | with_reducible (first | exact h | assumption | apply State.offlineAll_stays | apply State.note_stays | apply State.copyFill_stays | apply State.scrubResume_stays
                            | apply State.setFld_stays | apply State.setReg_stays | apply State.tlUpdate_stays
                            | apply State.walkResume_stays | apply Stays.foldl | apply Stays.foldlSnd | apply Stays.foldlFst
                            | refine Stays.ite (fun _ => ?_) (fun _ => ?_) | refine Stays.ofSnd (by assumption) ?_
                            | refine Stays.ofFst (by assumption) ?_)
    | intro _ _ _ | split | dsimp only | with_reducible refine Stays.upd ?_)

theorem State.bootScan_stays {σ s : State} (h : Stays σ s) :
    Stays σ (State.bootScan s) := by
  unfold State.bootScan
  iterate 40 (try any_goals first
    | with_reducible (first | exact h | assumption | apply State.alScan_stays | apply State.scInvalidate_stays
                            | apply State.setFlag_stays | apply State.setReg_stays | apply State.wearScan_stays
                            | refine Stays.ite (fun _ => ?_) (fun _ => ?_) | refine Stays.ofSnd (by assumption) ?_
                            | refine Stays.ofFst (by assumption) ?_)
    | split | dsimp only | with_reducible refine Stays.upd ?_)

theorem State.bootRun_stays {σ s : State} (h : Stays σ s) (t : Nat) :
    Stays σ (State.bootRun s t) := by
  unfold State.bootRun
  iterate 40 (try any_goals first
    | with_reducible (first | exact h | assumption | refine Stays.ite (fun _ => ?_) (fun _ => ?_)
                            | refine Stays.ofSnd (by assumption) ?_ | refine Stays.ofFst (by assumption) ?_)
    | split | dsimp only | with_reducible refine Stays.upd ?_)

theorem State.bootTrain_stays {σ s : State} (h : Stays σ s) :
    Stays σ (State.bootTrain s) := by
  unfold State.bootTrain
  iterate 40 (try any_goals first
    | with_reducible (first | exact h | assumption | apply State.setFlag_stays | refine Stays.ite (fun _ => ?_) (fun _ => ?_)
                            | refine Stays.ofSnd (by assumption) ?_ | refine Stays.ofFst (by assumption) ?_)
    | split | dsimp only | with_reducible refine Stays.upd ?_)

theorem State.bootStep_stays {σ s : State} (h : Stays σ s) :
    Stays σ (State.bootStep s) := by
  unfold State.bootStep
  iterate 40 (try any_goals first
    | with_reducible (first | exact h | assumption | apply State.tlUpdate_stays | apply State.alOpenEpoch_stays
                            | apply State.dumpCorrect_stays | apply State.bootLoad_stays | apply State.bootReplay_stays
                            | apply State.bootStreams_stays | apply State.bootEnd_stays | apply State.bootScan_stays
                            | apply State.bootRun_stays | apply State.bootTrain_stays
                            | refine Stays.ite (fun _ => ?_) (fun _ => ?_) | refine Stays.ofSnd (by assumption) ?_
                            | refine Stays.ofFst (by assumption) ?_)
    | split | dsimp only | with_reducible refine Stays.upd ?_)

theorem State.portNote_stays {σ s : State} (h : Stays σ s) (p n sev : Nat) :
    Stays σ (State.portNote s p n sev) := by
  unfold State.portNote
  iterate 40 (try any_goals first
    | with_reducible (first | exact h | assumption | apply State.note_stays | refine Stays.ite (fun _ => ?_) (fun _ => ?_)
                            | refine Stays.ofSnd (by assumption) ?_ | refine Stays.ofFst (by assumption) ?_)
    | split | dsimp only | with_reducible refine Stays.upd ?_)

theorem State.initDrop_stays {σ s : State} (h : Stays σ s) (p : Nat) :
    Stays σ (State.initDrop s p) := by
  unfold State.initDrop
  iterate 40 (try any_goals first
    | with_reducible (first | exact h | assumption | refine Stays.ite (fun _ => ?_) (fun _ => ?_)
                            | refine Stays.ofSnd (by assumption) ?_ | refine Stays.ofFst (by assumption) ?_)
    | split | dsimp only | with_reducible refine Stays.upd ?_)

theorem State.portBarred_stays {σ s : State} (h : Stays σ s) (p reason : Nat) :
    Stays σ (State.portBarred s p reason) := by
  unfold State.portBarred
  iterate 40 (try any_goals first
    | with_reducible (first | exact h | assumption | apply State.initDrop_stays | apply State.mpEndAll_stays
                            | apply State.updPort_stays | refine Stays.ite (fun _ => ?_) (fun _ => ?_)
                            | refine Stays.ofSnd (by assumption) ?_ | refine Stays.ofFst (by assumption) ?_)
    | split | dsimp only | with_reducible refine Stays.upd ?_)

theorem State.portReject_stays {σ s : State} (h : Stays σ s) (p reason : Nat) :
    Stays σ (State.portReject s p reason) := by
  unfold State.portReject
  iterate 40 (try any_goals first
    | with_reducible (first | exact h | assumption | apply State.failMember_stays | apply State.portBarred_stays
                            | apply State.sbSync_stays | refine Stays.ite (fun _ => ?_) (fun _ => ?_)
                            | refine Stays.ofSnd (by assumption) ?_ | refine Stays.ofFst (by assumption) ?_)
    | split | dsimp only | with_reducible refine Stays.upd ?_)

theorem State.labelsIn_stays {σ s : State} (h : Stays σ s) (port : Nat) :
    Stays σ (State.labelsIn s port) := by
  unfold State.labelsIn
  iterate 40 (try any_goals first
    | with_reducible (first | exact h | assumption | apply State.portNote_stays | apply State.takeTarget_stays
                            | refine Stays.ite (fun _ => ?_) (fun _ => ?_) | refine Stays.ofSnd (by assumption) ?_
                            | refine Stays.ofFst (by assumption) ?_)
    | split | dsimp only | with_reducible refine Stays.upd ?_)

theorem State.portReady_stays {σ s : State} (h : Stays σ s) (p : Nat) (vwc : Bool) :
    Stays σ (State.portReady s p vwc) := by
  unfold State.portReady
  iterate 40 (try any_goals first
    | with_reducible (first | exact h | assumption | apply State.bump_stays | apply State.updPort_stays
                            | apply State.mpIssue_stays | apply State.mpPump_stays | apply State.sbSync_stays
                            | apply State.tlUpdate_stays | apply State.failMember_stays | apply State.portNote_stays
                            | refine Stays.ite (fun _ => ?_) (fun _ => ?_) | refine Stays.ofSnd (by assumption) ?_
                            | refine Stays.ofFst (by assumption) ?_)
    | split | dsimp only | with_reducible refine Stays.upd ?_)

theorem State.initCmd_stays {σ s : State} (h : Stays σ s) (p : Nat) (op : MOp) (n : Nat) :
    Stays σ (State.initCmd s p op n) := by
  unfold State.initCmd
  iterate 40 (try any_goals first
    | with_reducible (first | exact h | assumption | apply State.mpIssue_stays | refine Stays.ite (fun _ => ?_) (fun _ => ?_)
                            | refine Stays.ofSnd (by assumption) ?_ | refine Stays.ofFst (by assumption) ?_)
    | split | dsimp only | with_reducible refine Stays.upd ?_)

theorem State.initQueue_stays {σ s : State} (h : Stays σ s) (p n : Nat) :
    Stays σ (State.initQueue s p n) := by
  unfold State.initQueue
  iterate 40 (try any_goals first
    | with_reducible (first | exact h | assumption | apply State.initCmd_stays | apply State.portReady_stays
                            | refine Stays.ite (fun _ => ?_) (fun _ => ?_) | refine Stays.ofSnd (by assumption) ?_
                            | refine Stays.ofFst (by assumption) ?_)
    | split | dsimp only | with_reducible refine Stays.upd ?_)

theorem State.initEnd_stays {σ s : State} (h : Stays σ s) (c : MCmd) (ok : Bool) (pay : MPayload) :
    Stays σ (State.initEnd s c ok pay) := by
  unfold State.initEnd
  iterate 40 (try any_goals first
    | with_reducible (first | exact h | assumption | apply State.initCmd_stays | apply State.initQueue_stays
                            | apply State.labelsIn_stays | apply State.portReject_stays | apply State.updPort_stays
                            | refine Stays.ite (fun _ => ?_) (fun _ => ?_) | refine Stays.ofSnd (by assumption) ?_
                            | refine Stays.ofFst (by assumption) ?_)
    | split | dsimp only | with_reducible refine Stays.upd ?_)

theorem State.smartEnd_stays {σ s : State} (h : Stays σ s) (p : Nat) (ok : Bool) (pay : MPayload) :
    Stays σ (State.smartEnd s p ok pay) := by
  unfold State.smartEnd
  iterate 40 (try any_goals first
    | with_reducible (first | exact h | assumption | apply State.portNote_stays | apply State.updPort_stays
                            | refine Stays.ite (fun _ => ?_) (fun _ => ?_) | refine Stays.ofSnd (by assumption) ?_
                            | refine Stays.ofFst (by assumption) ?_)
    | split | dsimp only | with_reducible refine Stays.upd ?_)

theorem State.queueRenew_stays {σ s : State} (h : Stays σ s) (p qp : Nat) :
    Stays σ (State.queueRenew s p qp) := by
  unfold State.queueRenew
  iterate 40 (try any_goals first
    | with_reducible (first | exact h | assumption | apply State.mpIssue_stays | apply State.mpPump_stays
                            | refine Stays.ite (fun _ => ?_) (fun _ => ?_) | refine Stays.ofSnd (by assumption) ?_
                            | refine Stays.ofFst (by assumption) ?_)
    | split | dsimp only | with_reducible refine Stays.upd ?_)

theorem State.linkDown_stays {σ s : State} (h : Stays σ s) (p : Nat) :
    Stays σ (State.linkDown s p) := by
  unfold State.linkDown
  iterate 40 (try any_goals first
    | with_reducible (first | exact h | assumption | apply State.failMember_stays | apply State.initDrop_stays
                            | apply State.mpEndAll_stays | apply State.mpHold_stays | apply State.updPort_stays
                            | refine Stays.ite (fun _ => ?_) (fun _ => ?_) | refine Stays.ofSnd (by assumption) ?_
                            | refine Stays.ofFst (by assumption) ?_)
    | split | dsimp only | with_reducible refine Stays.upd ?_)

theorem State.linkUp_stays {σ s : State} (h : Stays σ s) (p lanes speed : Nat) :
    Stays σ (State.linkUp s p lanes speed) := by
  unfold State.linkUp
  iterate 40 (try any_goals first
    | with_reducible (first | exact h | assumption | apply State.portNote_stays | apply State.updPort_stays
                            | refine Stays.ite (fun _ => ?_) (fun _ => ?_) | refine Stays.ofSnd (by assumption) ?_
                            | refine Stays.ofFst (by assumption) ?_)
    | split | dsimp only | with_reducible refine Stays.upd ?_)

theorem State.portGone_stays {σ s : State} (h : Stays σ s) (p : Nat) (q : Port) :
    Stays σ (State.portGone s p q) := by
  unfold State.portGone
  iterate 40 (try any_goals first
    | with_reducible (first | exact h | assumption | apply State.initDrop_stays | apply State.mpEndAll_stays
                            | apply State.updPort_stays | refine Stays.ite (fun _ => ?_) (fun _ => ?_)
                            | refine Stays.ofSnd (by assumption) ?_ | refine Stays.ofFst (by assumption) ?_)
    | split | dsimp only | with_reducible refine Stays.upd ?_)

theorem State.portRemove_stays {σ s : State} (h : Stays σ s) (p : Nat) :
    Stays σ (State.portRemove s p) := by
  unfold State.portRemove
  iterate 40 (try any_goals first
    | with_reducible (first | exact h | assumption | apply State.failMember_stays | apply State.portGone_stays
                            | apply State.tlUpdate_stays | refine Stays.ite (fun _ => ?_) (fun _ => ?_)
                            | refine Stays.ofSnd (by assumption) ?_ | refine Stays.ofFst (by assumption) ?_)
    | split | dsimp only | with_reducible refine Stays.upd ?_)

theorem State.portPresence_stays {σ s : State} (h : Stays σ s) (p : Nat) (seen : Bool) :
    Stays σ (State.portPresence s p seen) := by
  unfold State.portPresence
  iterate 40 (try any_goals first
    | with_reducible (first | exact h | assumption | apply State.portRemove_stays | apply State.setPort_stays
                            | refine Stays.ite (fun _ => ?_) (fun _ => ?_) | refine Stays.ofSnd (by assumption) ?_
                            | refine Stays.ofFst (by assumption) ?_)
    | split | dsimp only | with_reducible refine Stays.upd ?_)

theorem State.abortCmd_stays {σ s : State} (h : Stays σ s) (c : Cmd) :
    Stays σ (State.abortCmd s c) := by
  unfold State.abortCmd
  iterate 40 (try any_goals first
    | with_reducible (first | exact h | assumption | apply State.dropCmd_stays | apply State.giveUp_stays
                            | apply State.endTask_stays | apply Stays.foldl | apply Stays.foldlSnd | apply Stays.foldlFst
                            | refine Stays.ite (fun _ => ?_) (fun _ => ?_) | refine Stays.ofSnd (by assumption) ?_
                            | refine Stays.ofFst (by assumption) ?_)
    | intro _ _ _ | split | dsimp only | with_reducible refine Stays.upd ?_)

theorem State.stopCmd_stays {σ s : State} (h : Stays σ s) (c : Cmd) :
    Stays σ (State.stopCmd s c) := by
  unfold State.stopCmd
  iterate 40 (try any_goals first
    | with_reducible (first | exact h | assumption | apply State.abortCmd_stays | apply State.appendData_stays
                            | refine Stays.ite (fun _ => ?_) (fun _ => ?_) | refine Stays.ofSnd (by assumption) ?_
                            | refine Stays.ofFst (by assumption) ?_)
    | split | dsimp only | with_reducible refine Stays.upd ?_)

theorem State.hostStop_stays {σ s : State} (h : Stays σ s) (f : Func) (st : Nat) (flr : Bool) :
    Stays σ (State.hostStop s f st flr) := by
  unfold State.hostStop
  iterate 40 (try any_goals first
    | with_reducible (first | exact h | assumption | apply State.discardComps_stays | apply State.haltFunc_stays
                            | apply State.markIdle_stays | apply State.stopCmd_stays | apply Stays.foldl | apply Stays.foldlSnd
                            | apply Stays.foldlFst | refine Stays.ite (fun _ => ?_) (fun _ => ?_)
                            | refine Stays.ofSnd (by assumption) ?_ | refine Stays.ofFst (by assumption) ?_)
    | intro _ _ _ | split | dsimp only | with_reducible refine Stays.upd ?_)

theorem State.frzDrain_stays {σ s : State} (h : Stays σ s) :
    Stays σ (State.frzDrain s) := by
  unfold State.frzDrain
  iterate 40 (try any_goals first
    | with_reducible (first | exact h | assumption | apply State.setFlag_stays | refine Stays.ite (fun _ => ?_) (fun _ => ?_)
                            | refine Stays.ofSnd (by assumption) ?_ | refine Stays.ofFst (by assumption) ?_)
    | split | dsimp only | with_reducible refine Stays.upd ?_)

theorem State.freeze_stays {σ s : State} (h : Stays σ s) (cause : Nat) (f : Func) :
    Stays σ (State.freeze s cause f) := by
  unfold State.freeze
  iterate 40 (try any_goals first
    | with_reducible (first | exact h | assumption | apply State.frzDrain_stays | apply State.hostStop_stays
                            | apply State.setFlag_stays | apply State.setFld_stays
                            | refine Stays.ite (fun _ => ?_) (fun _ => ?_) | refine Stays.ofSnd (by assumption) ?_
                            | refine Stays.ofFst (by assumption) ?_)
    | split | dsimp only | with_reducible refine Stays.upd ?_)

theorem State.msixPump_stays {σ s : State} (h : Stays σ s) (f : Func) :
    Stays σ (State.msixPump s f) := by
  unfold State.msixPump
  iterate 40 (try any_goals first
    | with_reducible (first | exact h | assumption | apply State.unmaskSend_stays | apply Stays.foldl | apply Stays.foldlSnd
                            | apply Stays.foldlFst | refine Stays.ite (fun _ => ?_) (fun _ => ?_)
                            | refine Stays.ofSnd (by assumption) ?_ | refine Stays.ofFst (by assumption) ?_)
    | intro _ _ _ | split | dsimp only | with_reducible refine Stays.upd ?_)

theorem State.reSignal_stays {σ s : State} (h : Stays σ s) (f : Func) :
    Stays σ (State.reSignal s f) := by
  unfold State.reSignal
  iterate 40 (try any_goals first
    | with_reducible (first | exact h | assumption | apply State.signal_stays | apply Stays.foldl | apply Stays.foldlSnd
                            | apply Stays.foldlFst | refine Stays.ite (fun _ => ?_) (fun _ => ?_)
                            | refine Stays.ofSnd (by assumption) ?_ | refine Stays.ofFst (by assumption) ?_)
    | intro _ _ _ | split | dsimp only | with_reducible refine Stays.upd ?_)

theorem State.freezeEnd_stays {σ s : State} (h : Stays σ s) :
    Stays σ (State.freezeEnd s) := by
  unfold State.freezeEnd
  iterate 40 (try any_goals first
    | with_reducible (first | exact h | assumption | apply State.msixPump_stays | apply State.reSignal_stays
                            | apply State.setFlag_stays | apply State.setReg_stays
                            | refine Stays.ite (fun _ => ?_) (fun _ => ?_) | refine Stays.ofSnd (by assumption) ?_
                            | refine Stays.ofFst (by assumption) ?_)
    | split | dsimp only | with_reducible refine Stays.upd ?_)

theorem State.ringsReset_stays {σ s : State} (h : Stays σ s) (f : Func) :
    Stays σ (State.ringsReset s f) := by
  unfold State.ringsReset
  iterate 40 (try any_goals first
    | with_reducible (first | exact h | assumption | apply State.discardComps_stays
                            | refine Stays.ite (fun _ => ?_) (fun _ => ?_) | refine Stays.ofSnd (by assumption) ?_
                            | refine Stays.ofFst (by assumption) ?_)
    | split | dsimp only | with_reducible refine Stays.upd ?_)

theorem State.cfgReset_stays {σ s : State} (h : Stays σ s) (f : Func) (flr : Bool) :
    Stays σ (State.cfgReset s f flr) := by
  unfold State.cfgReset
  iterate 40 (try any_goals first
    | with_reducible (first | exact h | assumption | apply State.setFlag_stays | apply State.setFld_stays
                            | refine Stays.ite (fun _ => ?_) (fun _ => ?_) | refine Stays.ofSnd (by assumption) ?_
                            | refine Stays.ofFst (by assumption) ?_)
    | split | dsimp only | with_reducible refine Stays.upd ?_)

theorem State.winReset_stays {σ s : State} (h : Stays σ s) (f : Func) :
    Stays σ (State.winReset s f) := by
  unfold State.winReset
  iterate 40 (try any_goals first
    | with_reducible (first | exact h | assumption | apply State.setFlag_stays | apply Stays.foldl | apply Stays.foldlSnd
                            | apply Stays.foldlFst | refine Stays.ite (fun _ => ?_) (fun _ => ?_)
                            | refine Stays.ofSnd (by assumption) ?_ | refine Stays.ofFst (by assumption) ?_)
    | intro _ _ _ | split | dsimp only | with_reducible refine Stays.upd ?_)

theorem State.routeReset_stays {σ s : State} (h : Stays σ s) :
    Stays σ (State.routeReset s) := by
  unfold State.routeReset
  iterate 40 (try any_goals first
    | with_reducible (first | exact h | assumption | refine Stays.ite (fun _ => ?_) (fun _ => ?_)
                            | refine Stays.ofSnd (by assumption) ?_ | refine Stays.ofFst (by assumption) ?_)
    | split | dsimp only | with_reducible refine Stays.upd ?_)

theorem State.readsDrop_stays {σ s : State} (h : Stays σ s) :
    Stays σ (State.readsDrop s) := by
  unfold State.readsDrop
  iterate 40 (try any_goals first
    | with_reducible (first | exact h | assumption | refine Stays.ite (fun _ => ?_) (fun _ => ?_)
                            | refine Stays.ofSnd (by assumption) ?_ | refine Stays.ofFst (by assumption) ?_)
    | split | dsimp only | with_reducible refine Stays.upd ?_)

theorem State.hostReset_stays {σ s : State} (h : Stays σ s) :
    Stays σ (State.hostReset s) := by
  unfold State.hostReset
  iterate 40 (try any_goals first
    | with_reducible (first | exact h | assumption | apply State.setFlag_stays | apply State.clearRegs_stays
                            | apply State.hostStop_stays | apply State.ringsReset_stays | apply State.cfgReset_stays
                            | apply State.routeReset_stays | apply State.readsDrop_stays
                            | refine Stays.ite (fun _ => ?_) (fun _ => ?_) | refine Stays.ofSnd (by assumption) ?_
                            | refine Stays.ofFst (by assumption) ?_)
    | split | dsimp only | with_reducible refine Stays.upd ?_)

theorem State.hostGone_stays {σ s : State} (h : Stays σ s) :
    Stays σ (State.hostGone s) := by
  unfold State.hostGone
  iterate 40 (try any_goals first
    | with_reducible (first | exact h | assumption | apply State.hostReset_stays | apply State.setCfg_stays
                            | refine Stays.ite (fun _ => ?_) (fun _ => ?_) | refine Stays.ofSnd (by assumption) ?_
                            | refine Stays.ofFst (by assumption) ?_)
    | split | dsimp only | with_reducible refine Stays.upd ?_)

theorem State.flrBegin_stays {σ s : State} (h : Stays σ s) (f : Func) :
    Stays σ (State.flrBegin s f) := by
  unfold State.flrBegin
  iterate 40 (try any_goals first
    | with_reducible (first | exact h | assumption | apply State.hostStop_stays | refine Stays.ite (fun _ => ?_) (fun _ => ?_)
                            | refine Stays.ofSnd (by assumption) ?_ | refine Stays.ofFst (by assumption) ?_)
    | split | dsimp only | with_reducible refine Stays.upd ?_)

theorem State.flrEnd_stays {σ s : State} (h : Stays σ s) (f : Func) :
    Stays σ (State.flrEnd s f) := by
  unfold State.flrEnd
  iterate 40 (try any_goals first
    | with_reducible (first | exact h | assumption | apply State.bump_stays | apply State.clearRegs_stays
                            | apply State.ringsReset_stays | apply State.cfgReset_stays | apply State.winReset_stays
                            | apply State.routeReset_stays | refine Stays.ite (fun _ => ?_) (fun _ => ?_)
                            | refine Stays.ofSnd (by assumption) ?_ | refine Stays.ofFst (by assumption) ?_)
    | split | dsimp only | with_reducible refine Stays.upd ?_)

theorem State.chipState_stays {σ s : State} (h : Stays σ s) : Stays σ s.chipState :=
  h.trans ⟨rfl, rfl, fun _ => rfl, id, id, List.prefix_refl _, Nat.le_refl _, Nat.le_refl _, fun w => ⟨w, rfl⟩⟩

theorem State.resetMark_stays {σ s : State} (h : Stays σ s) (core : Bool) (cores : Nat) : Stays σ (s.resetMark false core cores) := by
  unfold State.resetMark
  rw [if_neg Bool.false_ne_true]
  exact Stays.ite (fun _ => State.setReg_stays h _ _) (fun _ => h)

theorem State.resetHold_stays {σ s : State} (h : Stays σ s) (por : Bool) :
    Stays σ (State.resetHold s por) := by
  unfold State.resetHold
  iterate 40 (try any_goals first
    | with_reducible (first | exact h | assumption | refine Stays.ite (fun _ => ?_) (fun _ => ?_)
                            | refine Stays.ofSnd (by assumption) ?_ | refine Stays.ofFst (by assumption) ?_)
    | split | dsimp only | with_reducible refine Stays.upd ?_)

theorem State.chipWipe_stays {σ s : State} (h : Stays σ s) (core : Bool) : Stays σ (s.chipWipe false core) := by
  unfold State.chipWipe
  have k := State.chipState_stays (State.clearRegs_stays (State.hostReset_stays h) false true true true true)
  exact State.resetHold_stays (State.setFlag_stays (State.resetMark_stays k _ _) _ _ _) _

theorem State.chipReset_stays {σ s : State} (h : Stays σ s) (core : Bool) : Stays σ (s.chipReset false core) :=
  Stays.ite (fun _ => State.gaReload_stays (State.chipWipe_stays h core) _) (fun _ => State.chipWipe_stays h core)

theorem State.gaLoad_mem (s : State) : s.gaLoad.mem = s.mem := by
  unfold State.gaLoad
  dsimp only
  split <;> rfl

theorem State.gaReload_mem (s : State) (c : Nat) : (s.gaReload c).mem = s.mem := by
  unfold State.gaReload
  rw [State.setFld_mem, State.gaLoad_mem, State.setFld_mem]

theorem State.chipWipe_forms (s : State) (core : Bool) :
    (memWf s.keep = true → memWf (s.chipWipe true core).keep = true) ∧ (s.chipWipe true core).mem = [] ∧
    (regsCanonical s = true → regsCanonical (s.chipWipe true core) = true) := by
  unfold State.chipWipe
  have k := State.chipState_stays (State.clearRegs_stays (State.hostReset_stays (Stays.refl s)) true true true true true)
  have m : (s.hostReset.clearRegs true true true true true).chipState.mem = [] := rfl
  generalize (s.hostReset.clearRegs true true true true true).chipState = u at k m
  have r : ∀ (v : State) (b : Bool), v.regs = u.regs → regsCanonical u = true →
      regsCanonical ((v.setFlag Reg.HP_STATUS 1 b).resetHold true) = true := by
    intro v b e c
    exact (State.setFlag_stays (Stays.refl v) Reg.HP_STATUS 1 b).regs (by unfold regsCanonical at c ⊢; rw [e]; exact c)
  exact ⟨fun w => k.keep w, m, fun w => r _ _ rfl (k.regs w)⟩


/-- A power-on reset keeps the Keep and the register file in form, and memory is empty after it. -/
theorem State.chipReset_forms (s : State) (core : Bool) :
    (memWf s.keep = true → memWf (s.chipReset true core).keep = true) ∧ (s.chipReset true core).mem = [] ∧
    (regsCanonical s = true → regsCanonical (s.chipReset true core) = true) := by
  obtain ⟨a, b, c⟩ := State.chipWipe_forms s core
  unfold State.chipReset
  split
  · have k := State.gaReload_stays (Stays.refl (s.chipWipe true core)) s.gaId
    exact ⟨fun w => k.keep (a w), (State.gaReload_mem _ _).trans b, fun w => k.regs (c w)⟩
  · exact ⟨a, b, c⟩

theorem State.release_stays {σ s : State} (h : Stays σ s) :
    Stays σ (State.release s) := by
  unfold State.release
  iterate 40 (try any_goals first
    | with_reducible (first | exact h | assumption | apply State.setFld_stays | apply State.vcoreGo_stays
                            | refine Stays.ite (fun _ => ?_) (fun _ => ?_) | refine Stays.ofSnd (by assumption) ?_
                            | refine Stays.ofFst (by assumption) ?_)
    | split | dsimp only | with_reducible refine Stays.upd ?_)

theorem State.taskBack_stays {σ s : State} (h : Stays σ s) (t : Nat) :
    Stays σ (State.taskBack s t) := by
  unfold State.taskBack
  iterate 40 (try any_goals first
    | with_reducible (first | exact h | assumption | apply State.updTask_stays | refine Stays.ite (fun _ => ?_) (fun _ => ?_)
                            | refine Stays.ofSnd (by assumption) ?_ | refine Stays.ofFst (by assumption) ?_)
    | split | dsimp only | with_reducible refine Stays.upd ?_)

theorem State.taskReadEnd_stays {σ s : State} (h : Stays σ s) (c : MCmd) (t cell o : Nat) (ok : Bool) (pay : MPayload) :
    Stays σ (State.taskReadEnd s c t cell o ok pay) := by
  unfold State.taskReadEnd
  iterate 40 (try any_goals first
    | with_reducible (first | exact h | assumption | apply State.areaRead_stays | apply State.taskBack_stays
                            | apply State.taskBlocks_stays | refine Stays.ite (fun _ => ?_) (fun _ => ?_)
                            | refine Stays.ofSnd (by assumption) ?_ | refine Stays.ofFst (by assumption) ?_)
    | split | dsimp only | with_reducible refine Stays.upd ?_)

theorem State.taskWriteEnd_stays {σ s : State} (h : Stays σ s) (t p : Nat) (ok : Bool) :
    Stays σ (State.taskWriteEnd s t p ok) := by
  unfold State.taskWriteEnd
  iterate 40 (try any_goals first
    | with_reducible (first | exact h | assumption | apply State.taskBack_stays | apply State.updTask_stays
                            | refine Stays.ite (fun _ => ?_) (fun _ => ?_) | refine Stays.ofSnd (by assumption) ?_
                            | refine Stays.ofFst (by assumption) ?_)
    | split | dsimp only | with_reducible refine Stays.upd ?_)

theorem State.endOne_stays {σ s : State} (h : Stays σ s) (e : MCmd × Bool × MPayload) :
    Stays σ (State.endOne s e) := by
  unfold State.endOne
  iterate 40 (try any_goals first
    | with_reducible (first | exact h | assumption | apply State.dumpEnd_stays | apply State.hostReadEnd_stays
                            | apply State.initEnd_stays | apply State.rsEnd_stays | apply State.smartEnd_stays
                            | apply State.taskReadEnd_stays | apply State.taskWriteEnd_stays
                            | refine Stays.ite (fun _ => ?_) (fun _ => ?_) | refine Stays.ofSnd (by assumption) ?_
                            | refine Stays.ofFst (by assumption) ?_)
    | split | dsimp only | with_reducible refine Stays.upd ?_)

theorem State.areaGo_stays {σ s : State} (h : Stays σ s) (x : Task) (r : ArrayRec) :
    Stays σ (State.areaGo s x r) := by
  unfold State.areaGo
  iterate 40 (try any_goals first
    | with_reducible (first | exact h | assumption | apply State.checkpointGo_stays | apply State.copyGo_stays
                            | apply State.copyMove_stays | apply State.createGo_stays | apply State.deleteGo_stays
                            | apply State.loadGo_stays | apply State.moveGo_stays | apply State.pageEnd_stays
                            | apply State.targetEndGo_stays | apply State.targetGo_stays
                            | refine Stays.ite (fun _ => ?_) (fun _ => ?_) | refine Stays.ofSnd (by assumption) ?_
                            | refine Stays.ofFst (by assumption) ?_)
    | split | dsimp only | with_reducible refine Stays.upd ?_)

theorem State.kick_stays {σ s : State} (h : Stays σ s) (x : Task) :
    Stays σ (State.kick s x) := by
  unfold State.kick
  iterate 40 (try any_goals first
    | with_reducible (first | exact h | assumption | apply State.areaGo_stays | apply State.copyMove_stays
                            | apply State.endTask_stays | apply State.importGo_stays | apply State.reconGo_stays
                            | apply State.streamGo_stays | apply State.stripeGo_stays | apply State.volDeleteGo_stays
                            | refine Stays.ite (fun _ => ?_) (fun _ => ?_) | refine Stays.ofSnd (by assumption) ?_
                            | refine Stays.ofFst (by assumption) ?_)
    | split | dsimp only | with_reducible refine Stays.upd ?_)

theorem State.waiterGo_stays {σ s : State} (h : Stays σ s) (h0 k : Nat) :
    Stays σ (State.waiterGo s h0 k) := by
  unfold State.waiterGo
  iterate 40 (try any_goals first
    | with_reducible (first | exact h | assumption | apply State.moveBlk_stays | apply State.appendMove_stays
                            | apply State.append_stays | apply State.setTask_stays
                            | refine Stays.ite (fun _ => ?_) (fun _ => ?_) | refine Stays.ofSnd (by assumption) ?_
                            | refine Stays.ofFst (by assumption) ?_)
    | split | dsimp only | with_reducible refine Stays.upd ?_)

theorem State.stopNext_stays {σ s t : State} (h : Stays σ s) (e : s.stopNext = some t) : Stays σ t := by
  unfold State.stopNext at e
  obtain ⟨x, -, rfl⟩ := Option.map_eq_some_iff.mp e
  exact State.waiterGo_stays (Stays.upd h) _ _


theorem State.settleStep_stays {σ s t : State} (h : Stays σ s) (e : s.settleStep = some t) : Stays σ t := by
  unfold State.settleStep at e
  split at e
  · rw [← Option.some.inj e]
    exact State.endOne_stays (Stays.upd h) _
  · split at e
    · rw [← Option.some.inj e]
      exact State.kick_stays h _
    · dsimp only at e
      split at e
      · rw [← Option.some.inj e]
        exact State.dumpGo_stays h
      · split at e
        · rw [← Option.some.inj e]
          exact State.rsGo_stays h
        · split at e
          · rw [← Option.some.inj e]
            exact State.rereadBlk_stays h _ _
          · exact State.stopNext_stays h e

theorem State.settleN_stays {σ s : State} (h : Stays σ s) (n : Nat) : Stays σ (State.settleN n s) := by
  induction n generalizing s with
  | zero => exact h
  | succ n ih =>
    unfold State.settleN
    split
    · rename_i e
      exact ih (State.settleStep_stays h e)
    · exact h

theorem State.rstNow_stays {σ s : State} (h : Stays σ s) :
    Stays σ (State.rstNow s) := by
  unfold State.rstNow
  iterate 40 (try any_goals first
    | with_reducible (first | exact h | assumption | apply State.chipReset_stays | apply State.release_stays
                            | refine Stays.ite (fun _ => ?_) (fun _ => ?_) | refine Stays.ofSnd (by assumption) ?_
                            | refine Stays.ofFst (by assumption) ?_)
    | split | dsimp only | with_reducible refine Stays.upd ?_)

theorem State.wbDone_stays {σ s : State} (h : Stays σ s) :
    Stays σ (State.wbDone s) := by
  unfold State.wbDone
  iterate 40 (try any_goals first
    | with_reducible (first | exact h | assumption | apply State.adminEnd_stays | apply Stays.foldl | apply Stays.foldlSnd
                            | apply Stays.foldlFst | refine Stays.ite (fun _ => ?_) (fun _ => ?_)
                            | refine Stays.ofSnd (by assumption) ?_ | refine Stays.ofFst (by assumption) ?_)
    | intro _ _ _ | split | dsimp only | with_reducible refine Stays.upd ?_)

theorem State.replayCheck_stays {σ s : State} (h : Stays σ s) :
    Stays σ (State.replayCheck s) := by
  unfold State.replayCheck
  iterate 40 (try any_goals first
    | with_reducible (first | exact h | assumption | apply State.replay_stays | refine Stays.ite (fun _ => ?_) (fun _ => ?_)
                            | refine Stays.ofSnd (by assumption) ?_ | refine Stays.ofFst (by assumption) ?_)
    | split | dsimp only | with_reducible refine Stays.upd ?_)

theorem State.settle_stays {σ s : State} (h : Stays σ s) :
    Stays σ (State.settle s) := by
  unfold State.settle
  iterate 40 (try any_goals first
    | with_reducible (first | exact h | assumption | apply State.wtCheck_stays | apply State.noImageSafe_stays
                            | apply State.bootCheck_stays | apply State.settleN_stays | apply State.rstNow_stays
                            | apply State.wbDone_stays | apply State.replayCheck_stays
                            | refine Stays.ite (fun _ => ?_) (fun _ => ?_) | refine Stays.ofSnd (by assumption) ?_
                            | refine Stays.ofFst (by assumption) ?_)
    | split | dsimp only | with_reducible refine Stays.upd ?_)

theorem State.lostNow_stays {σ s : State} (h : Stays σ s) (a stripe : Nat) :
    Stays σ (State.lostNow s a stripe) := by
  unfold State.lostNow
  iterate 40 (try any_goals first
    | with_reducible (first | exact h | assumption | apply State.noteD_stays | apply State.parkFrame_stays
                            | apply State.setSstState_stays | refine Stays.ite (fun _ => ?_) (fun _ => ?_)
                            | refine Stays.ofSnd (by assumption) ?_ | refine Stays.ofFst (by assumption) ?_)
    | split | dsimp only | with_reducible refine Stays.upd ?_)

theorem State.releaseNow_stays {σ s : State} (h : Stays σ s) (a stripe h0 : Nat) :
    Stays σ (State.releaseNow s a stripe h0) := by
  unfold State.releaseNow
  iterate 40 (try any_goals first
    | with_reducible (first | exact h | assumption | apply State.sstUnwrite_stays | apply State.unpark_stays
                            | apply State.adminEnd_stays | refine Stays.ite (fun _ => ?_) (fun _ => ?_)
                            | refine Stays.ofSnd (by assumption) ?_ | refine Stays.ofFst (by assumption) ?_)
    | split | dsimp only | with_reducible refine Stays.upd ?_)

theorem State.lgCont_stays {σ s : State} (h : Stays σ s) (r : LgReq) (seq : Nat) :
    Stays σ (State.lgCont s r seq) := by
  unfold State.lgCont
  iterate 40 (try any_goals first
    | with_reducible (first | exact h | assumption | apply State.closeGranted_stays | apply State.dumpOpened_stays
                            | apply State.dumpSeal_stays | apply State.dumpSealed_stays | apply State.lostNow_stays
                            | apply State.openGranted_stays | apply State.release_stays | apply State.releaseNow_stays
                            | apply State.replay_stays | apply State.resyncGranted_stays | apply State.setSstState_stays
                            | refine Stays.ite (fun _ => ?_) (fun _ => ?_) | refine Stays.ofSnd (by assumption) ?_
                            | refine Stays.ofFst (by assumption) ?_)
    | split | dsimp only | with_reducible refine Stays.upd ?_)

theorem State.lgGrant_stays {σ s : State} (h : Stays σ s) :
    Stays σ (State.lgGrant s) := by
  unfold State.lgGrant
  iterate 40 (try any_goals first
    | with_reducible (first | exact h | assumption | apply State.lgCountWaits_stays | apply State.lgWrite_stays
                            | apply State.lgForce_stays | apply State.lgCont_stays
                            | refine Stays.ite (fun _ => ?_) (fun _ => ?_) | refine Stays.ofSnd (by assumption) ?_
                            | refine Stays.ofFst (by assumption) ?_)
    | split | dsimp only | with_reducible refine Stays.upd ?_)

theorem State.scResync_stays {σ s : State} (h : Stays σ s) (a stripe : Nat) :
    Stays σ (State.scResync s a stripe) := by
  unfold State.scResync
  iterate 40 (try any_goals first
    | with_reducible (first | exact h | assumption | apply State.setSstGen_stays | apply State.askResync_stays
                            | refine Stays.ite (fun _ => ?_) (fun _ => ?_) | refine Stays.ofSnd (by assumption) ?_
                            | refine Stays.ofFst (by assumption) ?_)
    | split | dsimp only | with_reducible refine Stays.upd ?_)

theorem State.scWordLost_stays {σ s : State} (h : Stays σ s) (addr : Nat) :
    Stays σ (State.scWordLost s addr) := by
  unfold State.scWordLost
  iterate 40 (try any_goals first
    | with_reducible (first | exact h | assumption | apply State.bump_stays | apply State.note_stays
                            | apply State.scResync_stays | apply Stays.foldl | apply Stays.foldlSnd | apply Stays.foldlFst
                            | refine Stays.ite (fun _ => ?_) (fun _ => ?_) | refine Stays.ofSnd (by assumption) ?_
                            | refine Stays.ofFst (by assumption) ?_)
    | intro _ _ _ | split | dsimp only | with_reducible refine Stays.upd ?_)

theorem State.scErr_stays {σ s : State} (h : Stays σ s) (e : ScErr) : Stays σ (s.scErr e) := by
  unfold State.scErr
  split
  · exact Stays.ite (fun _ => h) (fun _ => State.scMissed_stays (State.bump_stays (State.scInvLine_stays h _) _) _ _ _)
  · exact Stays.ite (fun _ => h) (fun _ => State.bump_stays h _)
  · exact Stays.ite (fun _ => h) (fun _ => State.scMissed_stays (State.bump_stays (State.scInvLine_stays h _) _) _ _ _)
  · exact Stays.ite (fun _ => h) (fun _ => State.scWordLost_stays h _)

theorem State.testEnd_stays {σ s : State} (h : Stays σ s) (st : Nat) :
    Stays σ (State.testEnd s st) := by
  unfold State.testEnd
  iterate 40 (try any_goals first
    | with_reducible (first | exact h | assumption | apply State.setFlag_stays | apply State.setFld_stays
                            | refine Stays.ite (fun _ => ?_) (fun _ => ?_) | refine Stays.ofSnd (by assumption) ?_
                            | refine Stays.ofFst (by assumption) ?_)
    | split | dsimp only | with_reducible refine Stays.upd ?_)

theorem State.loomDone_stays {σ s : State} (h : Stays σ s) (ctx : Nat) (err : Option LoomErr) :
    Stays σ (State.loomDone s ctx err) := by
  unfold State.loomDone
  iterate 40 (try any_goals first
    | with_reducible (first | exact h | assumption | apply State.loomEnd_stays | apply State.stripeLoom_stays
                            | apply State.dumpXorEnd_stays | apply State.testEnd_stays
                            | refine Stays.ite (fun _ => ?_) (fun _ => ?_) | refine Stays.ofSnd (by assumption) ?_
                            | refine Stays.ofFst (by assumption) ?_)
    | split | dsimp only | with_reducible refine Stays.upd ?_)

theorem State.slotNext_stays {σ s : State} (h : Stays σ s) :
    Stays σ (State.slotNext s) := by
  unfold State.slotNext
  iterate 40 (try any_goals first
    | with_reducible (first | exact h | assumption | apply State.waiterGo_stays | refine Stays.ite (fun _ => ?_) (fun _ => ?_)
                            | refine Stays.ofSnd (by assumption) ?_ | refine Stays.ofFst (by assumption) ?_)
    | split | dsimp only | with_reducible refine Stays.upd ?_)

theorem State.slotTried_stays {σ s : State} (h : Stays σ s) :
    Stays σ (State.slotTried s) := by
  unfold State.slotTried
  iterate 40 (try any_goals first
    | with_reducible (first | exact h | assumption | refine Stays.ite (fun _ => ?_) (fun _ => ?_)
                            | refine Stays.ofSnd (by assumption) ?_ | refine Stays.ofFst (by assumption) ?_)
    | split | dsimp only | with_reducible refine Stays.upd ?_)

theorem State.destageNext_stays {σ s : State} (h : Stays σ s) :
    Stays σ (State.destageNext s) := by
  unfold State.destageNext
  iterate 40 (try any_goals first
    | with_reducible (first | exact h | assumption | apply State.destageGo_stays | refine Stays.ite (fun _ => ?_) (fun _ => ?_)
                            | refine Stays.ofSnd (by assumption) ?_ | refine Stays.ofFst (by assumption) ?_)
    | split | dsimp only | with_reducible refine Stays.upd ?_)

theorem State.menderAgain_stays {σ s : State} (h : Stays σ s) (t : Nat) :
    Stays σ (State.menderAgain s t) := by
  unfold State.menderAgain
  iterate 40 (try any_goals first
    | with_reducible (first | exact h | assumption | apply State.setTask_stays | apply State.setWalk_stays
                            | refine Stays.ite (fun _ => ?_) (fun _ => ?_) | refine Stays.ofSnd (by assumption) ?_
                            | refine Stays.ofFst (by assumption) ?_)
    | split | dsimp only | with_reducible refine Stays.upd ?_)

theorem State.strapAt_stays {σ s : State} (h : Stays σ s) (v : BitVec 2) :
    Stays σ (State.strapAt s v) := by
  unfold State.strapAt
  iterate 40 (try any_goals first
    | with_reducible (first | exact h | assumption | refine Stays.ite (fun _ => ?_) (fun _ => ?_)
                            | refine Stays.ofSnd (by assumption) ?_ | refine Stays.ofFst (by assumption) ?_)
    | split | dsimp only | with_reducible refine Stays.upd ?_)

theorem State.rstAt_stays {σ s : State} (h : Stays σ s) (low : Bool) :
    Stays σ (State.rstAt s low) := by
  unfold State.rstAt
  iterate 40 (try any_goals first
    | with_reducible (first | exact h | assumption | refine Stays.ite (fun _ => ?_) (fun _ => ?_)
                            | refine Stays.ofSnd (by assumption) ?_ | refine Stays.ofFst (by assumption) ?_)
    | split | dsimp only | with_reducible refine Stays.upd ?_)

theorem State.supplyMark_stays {σ s : State} (h : Stays σ s) :
    Stays σ (State.supplyMark s) := by
  unfold State.supplyMark
  iterate 40 (try any_goals first
    | with_reducible (first | exact h | assumption | refine Stays.ite (fun _ => ?_) (fun _ => ?_)
                            | refine Stays.ofSnd (by assumption) ?_ | refine Stays.ofFst (by assumption) ?_)
    | split | dsimp only | with_reducible refine Stays.upd ?_)

theorem State.supplyGo_stays {σ s : State} (h : Stays σ s) :
    Stays σ (State.supplyGo s) := by
  unfold State.supplyGo
  iterate 40 (try any_goals first
    | with_reducible (first | exact h | assumption | apply State.tlUpdate_stays | apply State.mwSupplyFail_stays
                            | apply State.packOn_stays | apply State.supplyMark_stays
                            | refine Stays.ite (fun _ => ?_) (fun _ => ?_) | refine Stays.ofSnd (by assumption) ?_
                            | refine Stays.ofFst (by assumption) ?_)
    | split | dsimp only | with_reducible refine Stays.upd ?_)

theorem State.vcoreStep_stays {σ s : State} (h : Stays σ s) :
    Stays σ (State.vcoreStep s) := by
  unfold State.vcoreStep
  iterate 40 (try any_goals first
    | with_reducible (first | exact h | assumption | apply State.vcoreGo_stays | apply State.tlUpdate_stays
                            | apply State.mwSupplyFail_stays | apply State.packOn_stays
                            | refine Stays.ite (fun _ => ?_) (fun _ => ?_) | refine Stays.ofSnd (by assumption) ?_
                            | refine Stays.ofFst (by assumption) ?_)
    | split | dsimp only | with_reducible refine Stays.upd ?_)

theorem State.heldWritesEnd_stays {σ s : State} (h : Stays σ s) :
    Stays σ (State.heldWritesEnd s) := by
  unfold State.heldWritesEnd
  iterate 40 (try any_goals first
    | with_reducible (first | exact h | assumption | refine Stays.ite (fun _ => ?_) (fun _ => ?_)
                            | refine Stays.ofSnd (by assumption) ?_ | refine Stays.ofFst (by assumption) ?_)
    | split | dsimp only | with_reducible refine Stays.upd ?_)

theorem State.tapForce_stays {σ s : State} (h : Stays σ s) :
    Stays σ (State.tapForce s) := by
  unfold State.tapForce
  iterate 40 (try any_goals first
    | with_reducible (first | exact h | assumption | refine Stays.ite (fun _ => ?_) (fun _ => ?_)
                            | refine Stays.ofSnd (by assumption) ?_ | refine Stays.ofFst (by assumption) ?_)
    | split | dsimp only | with_reducible refine Stays.upd ?_)

theorem State.pfdMark_stays {σ s : State} (h : Stays σ s) :
    Stays σ (State.pfdMark s) := by
  unfold State.pfdMark
  iterate 40 (try any_goals first
    | with_reducible (first | exact h | assumption | refine Stays.ite (fun _ => ?_) (fun _ => ?_)
                            | refine Stays.ofSnd (by assumption) ?_ | refine Stays.ofFst (by assumption) ?_)
    | split | dsimp only | with_reducible refine Stays.upd ?_)

theorem State.pfdFlags_stays {σ s : State} (h : Stays σ s) (cause : Nat) :
    Stays σ (State.pfdFlags s cause) := by
  unfold State.pfdFlags
  iterate 40 (try any_goals first
    | with_reducible (first | exact h | assumption | apply State.bump_stays | apply State.setFlag_stays
                            | apply State.setFld_stays | apply State.setReg_stays | refine Stays.ite (fun _ => ?_) (fun _ => ?_)
                            | refine Stays.ofSnd (by assumption) ?_ | refine Stays.ofFst (by assumption) ?_)
    | split | dsimp only | with_reducible refine Stays.upd ?_)

theorem State.pfdSave_stays {σ s : State} (h : Stays σ s) :
    Stays σ (State.pfdSave s) := by
  unfold State.pfdSave
  iterate 40 (try any_goals first
    | with_reducible (first | exact h | assumption | apply State.alPfdClose_stays | apply State.timeSave_stays
                            | refine Stays.ite (fun _ => ?_) (fun _ => ?_) | refine Stays.ofSnd (by assumption) ?_
                            | refine Stays.ofFst (by assumption) ?_)
    | split | dsimp only | with_reducible refine Stays.upd ?_)

theorem State.pfdEnter_stays {σ s : State} (h : Stays σ s) (cause : Nat) :
    Stays σ (State.pfdEnter s cause) := by
  unfold State.pfdEnter
  iterate 40 (try any_goals first
    | with_reducible (first | exact h | assumption | apply State.heldWritesEnd_stays | apply State.loomPark_stays
                            | apply State.pfdFlags_stays | apply State.pfdMark_stays | apply State.pfdSave_stays
                            | apply State.tapForce_stays | apply State.tlFreeze_stays
                            | refine Stays.ite (fun _ => ?_) (fun _ => ?_) | refine Stays.ofSnd (by assumption) ?_
                            | refine Stays.ofFst (by assumption) ?_)
    | split | dsimp only | with_reducible refine Stays.upd ?_)

theorem State.pfdDeclare_stays {σ s : State} (h : Stays σ s) (cause : Nat) :
    Stays σ (State.pfdDeclare s cause) := by
  unfold State.pfdDeclare
  iterate 40 (try any_goals first
    | with_reducible (first | exact h | assumption | apply State.pfdEnter_stays | apply State.supplyGo_stays
                            | apply State.tlUpdate_stays | refine Stays.ite (fun _ => ?_) (fun _ => ?_)
                            | refine Stays.ofSnd (by assumption) ?_ | refine Stays.ofFst (by assumption) ?_)
    | split | dsimp only | with_reducible refine Stays.upd ?_)

theorem State.vinGone_stays {σ s : State} (h : Stays σ s) :
    Stays σ (State.vinGone s) := by
  unfold State.vinGone
  iterate 40 (try any_goals first
    | with_reducible (first | exact h | assumption | apply State.setFlag_stays | refine Stays.ite (fun _ => ?_) (fun _ => ?_)
                            | refine Stays.ofSnd (by assumption) ?_ | refine Stays.ofFst (by assumption) ?_)
    | split | dsimp only | with_reducible refine Stays.upd ?_)

theorem State.vinSeen_stays {σ s : State} (h : Stays σ s) (mv : Nat) :
    Stays σ (State.vinSeen s mv) := by
  unfold State.vinSeen
  iterate 40 (try any_goals first
    | with_reducible (first | exact h | assumption | apply State.setReg_stays | refine Stays.ite (fun _ => ?_) (fun _ => ?_)
                            | refine Stays.ofSnd (by assumption) ?_ | refine Stays.ofFst (by assumption) ?_)
    | split | dsimp only | with_reducible refine Stays.upd ?_)

theorem State.powerFail_stays {σ s : State} (h : Stays σ s) (cause : Nat) :
    Stays σ (State.powerFail s cause) := by
  unfold State.powerFail
  iterate 40 (try any_goals first
    | with_reducible (first | exact h | assumption | apply State.pfdDeclare_stays | apply State.settle_stays
                            | apply State.supplyGo_stays | apply State.vinGone_stays
                            | refine Stays.ite (fun _ => ?_) (fun _ => ?_) | refine Stays.ofSnd (by assumption) ?_
                            | refine Stays.ofFst (by assumption) ?_)
    | split | dsimp only | with_reducible refine Stays.upd ?_)

theorem State.pfFalls_stays {σ s : State} (h : Stays σ s) :
    Stays σ (State.pfFalls s) := by
  unfold State.pfFalls
  iterate 40 (try any_goals first
    | with_reducible (first | exact h | assumption | refine Stays.ite (fun _ => ?_) (fun _ => ?_)
                            | refine Stays.ofSnd (by assumption) ?_ | refine Stays.ofFst (by assumption) ?_)
    | split | dsimp only | with_reducible refine Stays.upd ?_)

theorem State.destageUndo_stays {σ s : State} (h : Stays σ s) (x : Task) :
    Stays σ (State.destageUndo s x) := by
  unfold State.destageUndo
  iterate 40 (try any_goals first
    | with_reducible (first | exact h | assumption | apply State.endTask_stays | apply State.frameAgain_stays
                            | refine Stays.ite (fun _ => ?_) (fun _ => ?_) | refine Stays.ofSnd (by assumption) ?_
                            | refine Stays.ofFst (by assumption) ?_)
    | split | dsimp only | with_reducible refine Stays.upd ?_)

theorem State.vinUp_stays {σ s : State} (h : Stays σ s) (mv : Nat) :
    Stays σ (State.vinUp s mv) := by
  unfold State.vinUp
  iterate 40 (try any_goals first
    | with_reducible (first | exact h | assumption | apply State.vinSeen_stays | refine Stays.ite (fun _ => ?_) (fun _ => ?_)
                            | refine Stays.ofSnd (by assumption) ?_ | refine Stays.ofFst (by assumption) ?_)
    | split | dsimp only | with_reducible refine Stays.upd ?_)

theorem State.vinMark_stays {σ s : State} (h : Stays σ s) :
    Stays σ (State.vinMark s) := by
  unfold State.vinMark
  iterate 40 (try any_goals first
    | with_reducible (first | exact h | assumption | apply State.setFlag_stays | refine Stays.ite (fun _ => ?_) (fun _ => ?_)
                            | refine Stays.ofSnd (by assumption) ?_ | refine Stays.ofFst (by assumption) ?_)
    | split | dsimp only | with_reducible refine Stays.upd ?_)

theorem State.droopEval_stays {σ s : State} (h : Stays σ s) (mv : Nat) :
    Stays σ (State.droopEval s mv) := by
  unfold State.droopEval
  iterate 40 (try any_goals first
    | with_reducible (first | exact h | assumption | apply State.bump_stays | apply State.setFld_stays
                            | refine Stays.ite (fun _ => ?_) (fun _ => ?_) | refine Stays.ofSnd (by assumption) ?_
                            | refine Stays.ofFst (by assumption) ?_)
    | split | dsimp only | with_reducible refine Stays.upd ?_)

theorem State.clkGone_stays {σ s : State} (h : Stays σ s) (b n sev : Nat) :
    Stays σ (State.clkGone s b n sev) := by
  unfold State.clkGone
  iterate 40 (try any_goals first
    | with_reducible (first | exact h | assumption | apply State.bump_stays | apply State.note_stays | apply State.setFlag_stays
                            | refine Stays.ite (fun _ => ?_) (fun _ => ?_) | refine Stays.ofSnd (by assumption) ?_
                            | refine Stays.ofFst (by assumption) ?_)
    | split | dsimp only | with_reducible refine Stays.upd ?_)

theorem State.linkGone_stays {σ s : State} (h : Stays σ s) :
    Stays σ (State.linkGone s) := by
  unfold State.linkGone
  iterate 40 (try any_goals first
    | with_reducible (first | exact h | assumption | apply State.bump_stays | apply State.hostGone_stays
                            | apply State.setFlag_stays | apply State.setFld_stays
                            | refine Stays.ite (fun _ => ?_) (fun _ => ?_) | refine Stays.ofSnd (by assumption) ?_
                            | refine Stays.ofFst (by assumption) ?_)
    | split | dsimp only | with_reducible refine Stays.upd ?_)

theorem State.hostLinkLost_stays {σ s : State} (h : Stays σ s) :
    Stays σ (State.hostLinkLost s) := by
  unfold State.hostLinkLost
  iterate 40 (try any_goals first
    | with_reducible (first | exact h | assumption | apply State.settle_stays | apply State.linkGone_stays
                            | refine Stays.ite (fun _ => ?_) (fun _ => ?_) | refine Stays.ofSnd (by assumption) ?_
                            | refine Stays.ofFst (by assumption) ?_)
    | split | dsimp only | with_reducible refine Stays.upd ?_)

theorem State.tjSeen_stays {σ s : State} (h : Stays σ s) (tj : Int) :
    Stays σ (State.tjSeen s tj) := by
  unfold State.tjSeen
  iterate 40 (try any_goals first
    | with_reducible (first | exact h | assumption | apply State.note_stays | apply State.setFlag_stays
                            | apply State.setReg_stays | refine Stays.ite (fun _ => ?_) (fun _ => ?_)
                            | refine Stays.ofSnd (by assumption) ?_ | refine Stays.ofFst (by assumption) ?_)
    | split | dsimp only | with_reducible refine Stays.upd ?_)

theorem State.trained_stays {σ s : State} (h : Stays σ s) (tj : Int) :
    Stays σ (State.trained s tj) := by
  unfold State.trained
  iterate 40 (try any_goals first
    | with_reducible (first | exact h | assumption | refine Stays.ite (fun _ => ?_) (fun _ => ?_)
                            | refine Stays.ofSnd (by assumption) ?_ | refine Stays.ofFst (by assumption) ?_)
    | split | dsimp only | with_reducible refine Stays.upd ?_)

theorem State.spGo_stays {σ s : State} (h : Stays σ s) (st : Nat) :
    Stays σ (State.spGo s st) := by
  unfold State.spGo
  iterate 40 (try any_goals first
    | with_reducible (first | exact h | assumption | apply State.setFlag_stays | apply State.setFld_stays
                            | apply State.trained_stays | refine Stays.ite (fun _ => ?_) (fun _ => ?_)
                            | refine Stays.ofSnd (by assumption) ?_ | refine Stays.ofFst (by assumption) ?_)
    | split | dsimp only | with_reducible refine Stays.upd ?_)

theorem State.spHold_stays {σ s : State} (h : Stays σ s) :
    Stays σ (State.spHold s) := by
  unfold State.spHold
  iterate 40 (try any_goals first
    | with_reducible (first | exact h | assumption | refine Stays.ite (fun _ => ?_) (fun _ => ?_)
                            | refine Stays.ofSnd (by assumption) ?_ | refine Stays.ofFst (by assumption) ?_)
    | split | dsimp only | with_reducible refine Stays.upd ?_)

theorem State.spTimes_stays {σ s : State} (h : Stays σ s) :
    Stays σ (State.spTimes s) := by
  unfold State.spTimes
  iterate 40 (try any_goals first
    | with_reducible (first | exact h | assumption | apply State.setReg_stays | refine Stays.ite (fun _ => ?_) (fun _ => ?_)
                            | refine Stays.ofSnd (by assumption) ?_ | refine Stays.ofFst (by assumption) ?_)
    | split | dsimp only | with_reducible refine Stays.upd ?_)

theorem State.spMove_stays {σ s : State} (h : Stays σ s) (p : Nat) :
    Stays σ (State.spMove s p) := by
  unfold State.spMove
  iterate 40 (try any_goals first
    | with_reducible (first | exact h | assumption | apply State.spGo_stays | refine Stays.ite (fun _ => ?_) (fun _ => ?_)
                            | refine Stays.ofSnd (by assumption) ?_ | refine Stays.ofFst (by assumption) ?_)
    | split | dsimp only | with_reducible refine Stays.upd ?_)

theorem State.spShow_stays {σ s : State} (h : Stays σ s) :
    Stays σ (State.spShow s) := by
  unfold State.spShow
  iterate 40 (try any_goals first
    | with_reducible (first | exact h | assumption | apply State.setFld_stays | refine Stays.ite (fun _ => ?_) (fun _ => ?_)
                            | refine Stays.ofSnd (by assumption) ?_ | refine Stays.ofFst (by assumption) ?_)
    | split | dsimp only | with_reducible refine Stays.upd ?_)

theorem State.monClose_stays {σ s : State} (h : Stays σ s) (n si : Nat) :
    Stays σ (State.monClose s n si) := by
  unfold State.monClose
  iterate 40 (try any_goals first
    | with_reducible (first | exact h | assumption | apply State.setFld_stays | refine Stays.ite (fun _ => ?_) (fun _ => ?_)
                            | refine Stays.ofSnd (by assumption) ?_ | refine Stays.ofFst (by assumption) ?_)
    | split | dsimp only | with_reducible refine Stays.upd ?_)

theorem State.lowClr_stays {σ s : State} (h : Stays σ s) (n : Nat) :
    Stays σ (State.lowClr s n) := by
  unfold State.lowClr
  iterate 40 (try any_goals first
    | with_reducible (first | exact h | assumption | apply State.setFld_stays | refine Stays.ite (fun _ => ?_) (fun _ => ?_)
                            | refine Stays.ofSnd (by assumption) ?_ | refine Stays.ofFst (by assumption) ?_)
    | split | dsimp only | with_reducible refine Stays.upd ?_)

end Sys2Proof.Machine
end

