-- ==== Sys2Proof/Laws/StaysE.lean ====
section
/-! SUPPORT. Laws: what the operations of HostPort, Fetch, Commands, Admin, Views, Registers, Measures, Ports keep (see Stays).
-/

namespace Sys2Proof.Machine

set_option linter.all false
set_option Elab.async false

open Sys2Proof.Safety

theorem State.linkZero_stays {σ s : State} (h : Stays σ s) :
    Stays σ (State.linkZero s) := by
  unfold State.linkZero
  iterate 40 (try any_goals first
    | with_reducible (first | exact h | assumption | apply State.setFlag_stays | apply State.setFld_stays
                            | refine Stays.ite (fun _ => ?_) (fun _ => ?_) | refine Stays.ofSnd (by assumption) ?_
                            | refine Stays.ofFst (by assumption) ?_)
    | split | dsimp only | with_reducible refine Stays.upd ?_)

theorem State.bmeDrop_stays {σ s : State} (h : Stays σ s) (f : Func) :
    Stays σ (State.bmeDrop s f) := by
  unfold State.bmeDrop
  iterate 40 (try any_goals first
    | with_reducible (first | exact h | assumption | apply State.hostStop_stays | apply State.setFlag_stays
                            | refine Stays.ite (fun _ => ?_) (fun _ => ?_) | refine Stays.ofSnd (by assumption) ?_
                            | refine Stays.ofFst (by assumption) ?_)
    | split | dsimp only | with_reducible refine Stays.upd ?_)

theorem State.bmeRaise_stays {σ s : State} (h : Stays σ s) (f : Func) :
    Stays σ (State.bmeRaise s f) := by
  unfold State.bmeRaise
  iterate 40 (try any_goals first
    | with_reducible (first | exact h | assumption | apply State.msixPump_stays | apply State.reSignal_stays
                            | apply State.setFlag_stays | refine Stays.ite (fun _ => ?_) (fun _ => ?_)
                            | refine Stays.ofSnd (by assumption) ?_ | refine Stays.ofFst (by assumption) ?_)
    | split | dsimp only | with_reducible refine Stays.upd ?_)

theorem State.toD3_stays {σ s : State} (h : Stays σ s) (f : Func) :
    Stays σ (State.toD3 s f) := by
  unfold State.toD3
  iterate 40 (try any_goals first
    | with_reducible (first | exact h | assumption | apply State.hostStop_stays | apply State.setFld_stays
                            | refine Stays.ite (fun _ => ?_) (fun _ => ?_) | refine Stays.ofSnd (by assumption) ?_
                            | refine Stays.ofFst (by assumption) ?_)
    | split | dsimp only | with_reducible refine Stays.upd ?_)

theorem State.toD0_stays {σ s : State} (h : Stays σ s) (f : Func) :
    Stays σ (State.toD0 s f) := by
  unfold State.toD0
  iterate 40 (try any_goals first
    | with_reducible (first | exact h | assumption | apply State.setFld_stays | refine Stays.ite (fun _ => ?_) (fun _ => ?_)
                            | refine Stays.ofSnd (by assumption) ?_ | refine Stays.ofFst (by assumption) ?_)
    | split | dsimp only | with_reducible refine Stays.upd ?_)

theorem State.cfgRead_stays {σ s : State} (h : Stays σ s) (f : Func) (off : Nat) :
    Stays σ (State.cfgRead s f off) := by
  unfold State.cfgRead
  iterate 40 (try any_goals first
    | with_reducible (first | exact h | assumption | apply State.put_stays | refine Stays.ite (fun _ => ?_) (fun _ => ?_)
                            | refine Stays.ofSnd (by assumption) ?_ | refine Stays.ofFst (by assumption) ?_)
    | split | dsimp only | with_reducible refine Stays.upd ?_)

theorem State.pmWrite_stays {σ s : State} (h : Stays σ s) (f : Func) (v : Nat) :
    Stays σ (State.pmWrite s f v) := by
  unfold State.pmWrite
  iterate 40 (try any_goals first
    | with_reducible (first | exact h | assumption | apply State.setCfg_stays | apply State.toD0_stays | apply State.toD3_stays
                            | refine Stays.ite (fun _ => ?_) (fun _ => ?_) | refine Stays.ofSnd (by assumption) ?_
                            | refine Stays.ofFst (by assumption) ?_)
    | split | dsimp only | with_reducible refine Stays.upd ?_)

theorem State.cfgWrite_stays {σ s : State} (h : Stays σ s) (f : Func) (off v : Nat) :
    Stays σ (State.cfgWrite s f off v) := by
  unfold State.cfgWrite
  iterate 40 (try any_goals first
    | with_reducible (first | exact h | assumption | apply State.setCfg_stays | apply State.pumpReads_stays
                            | apply State.msixPump_stays | apply State.flrBegin_stays | apply State.bmeDrop_stays
                            | apply State.bmeRaise_stays | apply State.pmWrite_stays
                            | refine Stays.ite (fun _ => ?_) (fun _ => ?_) | refine Stays.ofSnd (by assumption) ?_
                            | refine Stays.ofFst (by assumption) ?_)
    | split | dsimp only | with_reducible refine Stays.upd ?_)

theorem State.winPart_stays {σ s : State} (h : Stays σ s) (f : Func) (w : Option Nat) (x n : Nat) (wr : Option (List Byte)) (ecc : Bool) :
    Stays σ (State.winPart s f w x n wr ecc) := by
  unfold State.winPart
  iterate 40 (try any_goals first
    | with_reducible (first | exact h | assumption | apply State.bump_stays | apply State.memPut_stays | apply State.put_stays
                            | refine Stays.ite (fun _ => ?_) (fun _ => ?_) | refine Stays.ofSnd (by assumption) ?_
                            | refine Stays.ofFst (by assumption) ?_)
    | split | dsimp only | with_reducible refine Stays.upd ?_)

theorem State.winRun_stays {σ s : State} (h : Stays σ s) (f : Func) (x n : Nat) (wr : Option (List Byte)) (ecc : Bool) (k : Nat) :
    Stays σ (s.winRun f x n wr ecc k) := by
  induction k generalizing s x n wr with
  | zero => exact h
  | succ k ih =>
    unfold State.winRun
    split
    · exact h
    · exact ih (State.winPart_stays h _ _ _ _ _ _) _ _ _

theorem State.ltrSend_stays {σ s : State} (h : Stays σ s) (us : Nat) :
    Stays σ (State.ltrSend s us) := by
  unfold State.ltrSend
  iterate 40 (try any_goals first
    | with_reducible (first | exact h | assumption | apply State.put_stays | refine Stays.ite (fun _ => ?_) (fun _ => ?_)
                            | refine Stays.ofSnd (by assumption) ?_ | refine Stays.ofFst (by assumption) ?_)
    | split | dsimp only | with_reducible refine Stays.upd ?_)

theorem State.ltrActive_stays {σ s : State} (h : Stays σ s) :
    Stays σ (State.ltrActive s) := by
  unfold State.ltrActive
  iterate 40 (try any_goals first
    | with_reducible (first | exact h | assumption | apply State.ltrSend_stays | refine Stays.ite (fun _ => ?_) (fun _ => ?_)
                            | refine Stays.ofSnd (by assumption) ?_ | refine Stays.ofFst (by assumption) ?_)
    | split | dsimp only | with_reducible refine Stays.upd ?_)

theorem State.adminRead_stays {σ s : State} (h : Stays σ s) (c : Cmd) :
    Stays σ (State.adminRead s c) := by
  unfold State.adminRead
  iterate 40 (try any_goals first
    | with_reducible (first | exact h | assumption | apply State.setCmd_stays | apply State.tryRead_stays | apply Stays.foldl
                            | apply Stays.foldlSnd | apply Stays.foldlFst | refine Stays.ite (fun _ => ?_) (fun _ => ?_)
                            | refine Stays.ofSnd (by assumption) ?_ | refine Stays.ofFst (by assumption) ?_)
    | intro _ _ _ | split | dsimp only | with_reducible refine Stays.upd ?_)

theorem State.prepare_stays {σ s : State} (h : Stays σ s) (c : Cmd) :
    Stays σ (State.prepare s c) := by
  unfold State.prepare
  iterate 40 (try any_goals first
    | with_reducible (first | exact h | assumption | apply State.adminRead_stays | apply State.setCmd_stays
                            | refine Stays.ite (fun _ => ?_) (fun _ => ?_) | refine Stays.ofSnd (by assumption) ?_
                            | refine Stays.ofFst (by assumption) ?_)
    | split | dsimp only | with_reducible refine Stays.upd ?_)

theorem State.accept_stays {σ s : State} (h : Stays σ s) (c : Cmd) :
    Stays σ (State.accept s c) := by
  unfold State.accept
  iterate 40 (try any_goals first
    | with_reducible (first | exact h | assumption | apply State.finishSt_stays | apply State.prepare_stays
                            | apply State.setCmd_stays | apply State.tryRead_stays
                            | refine Stays.ite (fun _ => ?_) (fun _ => ?_) | refine Stays.ofSnd (by assumption) ?_
                            | refine Stays.ofFst (by assumption) ?_)
    | split | dsimp only | with_reducible refine Stays.upd ?_)

theorem State.workBegins_stays {σ s : State} (h : Stays σ s) (c : Cmd) :
    Stays σ (State.workBegins s c) := by
  unfold State.workBegins
  iterate 40 (try any_goals first
    | with_reducible (first | exact h | assumption | refine Stays.ite (fun _ => ?_) (fun _ => ?_)
                            | refine Stays.ofSnd (by assumption) ?_ | refine Stays.ofFst (by assumption) ?_)
    | split | dsimp only | with_reducible refine Stays.upd ?_)

theorem State.takeEntry_stays {σ s : State} (h : Stays σ s) (f : Func) (q : Nat) (ent : List Byte) (bad : Bool) :
    Stays σ (State.takeEntry s f q ent bad) := by
  unfold State.takeEntry
  iterate 40 (try any_goals first
    | with_reducible (first | exact h | assumption | apply State.accept_stays | apply State.advanceHead_stays
                            | apply State.bump_stays | apply State.finishSt_stays | apply State.hostWrite_stays
                            | apply State.markPool_stays | apply State.newH_stays | apply State.updCq_stays
                            | apply State.workBegins_stays | refine Stays.ite (fun _ => ?_) (fun _ => ?_)
                            | refine Stays.ofSnd (by assumption) ?_ | refine Stays.ofFst (by assumption) ?_)
    | split | dsimp only | with_reducible refine Stays.upd ?_)

theorem State.takeBatch_stays {σ s : State} (h : Stays σ s) (f : Func) (q : Nat) (l : List (List Byte)) :
    Stays σ (s.takeBatch f q l) := by
  induction l generalizing s with
  | nil => exact h
  | cons e t ih =>
    unfold State.takeBatch
    split
    · exact h
    · split
      · exact State.updSq_stays h _ _ _
      · exact ih (State.takeEntry_stays h _ _ _ _)

theorem State.grantPick_stays {σ s : State} (h : Stays σ s) (c k : Nat) (t : State) (e : s.grantPick = some (c, k, t)) :
    Stays σ t := by
  unfold State.grantPick at e
  split at e
  · cases e
    exact h
  · have go : ∀ (u : State), Stays σ u → ∀ y, ([1, 2, 3].findSome? fun c =>
        if u.roundLeft c = 0 then none
        else (u.rrPick c).map fun k => (c, k, ({ u with rg.round := u.rg.round.set (c - 1) (u.roundLeft c - 1) } : State)))
        = some y → Stays σ y.2.2 := by
      intro u hu y hy
      obtain ⟨a, -, ha⟩ := List.exists_of_findSome?_eq_some hy
      split at ha
      · cases ha
      · obtain ⟨z, -, rfl⟩ := Option.map_eq_some_iff.mp ha
        exact Stays.upd hu
    dsimp only at e
    split at e
    · rename_i heq
      cases e
      exact go s h _ heq
    · exact go _ (Stays.upd h) _ e

theorem State.inlSweep_stays {σ s : State} (h : Stays σ s) :
    Stays σ (State.inlSweep s) := by
  unfold State.inlSweep
  iterate 40 (try any_goals first
    | with_reducible (first | exact h | assumption | apply State.bumpN_stays | refine Stays.ite (fun _ => ?_) (fun _ => ?_)
                            | refine Stays.ofSnd (by assumption) ?_ | refine Stays.ofFst (by assumption) ?_)
    | split | dsimp only | with_reducible refine Stays.upd ?_)

theorem State.grantRing_stays {σ s : State} (h : Stays σ s) (f : Func) (q : Nat) :
    Stays σ (State.grantRing s f q) := by
  unfold State.grantRing
  iterate 40 (try any_goals first
    | with_reducible (first | exact h | assumption | apply State.markPool_stays | apply State.takeBatch_stays
                            | apply State.tryRead_stays | refine Stays.ite (fun _ => ?_) (fun _ => ?_)
                            | refine Stays.ofSnd (by assumption) ?_ | refine Stays.ofFst (by assumption) ?_)
    | split | dsimp only | with_reducible refine Stays.upd ?_)

theorem State.fetchNext_stays {σ s : State} (h : Stays σ s) : Stays σ s.fetchNext := by
  unfold State.fetchNext
  dsimp only
  split
  · exact State.inlSweep_stays h
  · rename_i c k t e
    have g := State.grantPick_stays (State.inlSweep_stays h) _ _ _ e
    refine State.grantRing_stays ?_ _ _
    split
    · exact State.ltrActive_stays (Stays.upd g)
    · exact Stays.upd g

theorem State.partIn_stays {σ s : State} (h : Stays σ s) (h blk off len : Nat) (d : List Byte) :
    Stays σ (State.partIn s h blk off len d) := by
  unfold State.partIn
  iterate 40 (try any_goals first
    | with_reducible (first | exact h | assumption | apply State.appendData_stays | apply State.moveBlk_stays
                            | apply State.setCmd_stays | refine Stays.ite (fun _ => ?_) (fun _ => ?_)
                            | refine Stays.ofSnd (by assumption) ?_ | refine Stays.ofFst (by assumption) ?_)
    | split | dsimp only | with_reducible refine Stays.upd ?_)

theorem State.readData_stays {σ s : State} (h : Stays σ s) (r : RdReq) (d : List Byte) :
    Stays σ (State.readData s r d) := by
  unfold State.readData
  iterate 40 (try any_goals first
    | with_reducible (first | exact h | assumption | apply State.cqLineRead_stays | apply State.partIn_stays
                            | apply State.prepare_stays | apply State.takeBatch_stays | apply State.takeEntry_stays
                            | apply State.updSq_stays | refine Stays.ite (fun _ => ?_) (fun _ => ?_)
                            | refine Stays.ofSnd (by assumption) ?_ | refine Stays.ofFst (by assumption) ?_)
    | split | dsimp only | with_reducible refine Stays.upd ?_)

theorem State.readGone_stays {σ s : State} (h : Stays σ s) (r : RdReq) :
    Stays σ (State.readGone s r) := by
  unfold State.readGone
  iterate 40 (try any_goals first
    | with_reducible (first | exact h | assumption | apply State.appendData_stays | apply State.finishSt_stays
                            | apply State.haltErr_stays | apply State.markIdle_stays | apply State.markPool_stays
                            | apply State.setCmd_stays | apply State.writeEnd_stays
                            | refine Stays.ite (fun _ => ?_) (fun _ => ?_) | refine Stays.ofSnd (by assumption) ?_
                            | refine Stays.ofFst (by assumption) ?_)
    | split | dsimp only | with_reducible refine Stays.upd ?_)

theorem State.readFailed_stays {σ s : State} (h : Stays σ s) (r : HostRead) (cause : Nat) :
    Stays σ (State.readFailed s r cause) := by
  unfold State.readFailed
  iterate 40 (try any_goals first
    | with_reducible (first | exact h | assumption | apply State.freeze_stays | apply State.readGone_stays
                            | refine Stays.ite (fun _ => ?_) (fun _ => ?_) | refine Stays.ofSnd (by assumption) ?_
                            | refine Stays.ofFst (by assumption) ?_)
    | split | dsimp only | with_reducible refine Stays.upd ?_)

theorem State.readDone_stays {σ s : State} (h : Stays σ s) (r : HostRead) :
    Stays σ (State.readDone s r) := by
  unfold State.readDone
  iterate 40 (try any_goals first
    | with_reducible (first | exact h | assumption | apply State.frzDrain_stays | refine Stays.ite (fun _ => ?_) (fun _ => ?_)
                            | refine Stays.ofSnd (by assumption) ?_ | refine Stays.ofFst (by assumption) ?_)
    | split | dsimp only | with_reducible refine Stays.upd ?_)

theorem State.hostCompletion_stays {σ s : State} (h : Stays σ s) (t : Nat) (st : RdStatus) (d : List Byte) :
    Stays σ (State.hostCompletion s t st d) := by
  unfold State.hostCompletion
  iterate 40 (try any_goals first
    | with_reducible (first | exact h | assumption | apply State.bump_stays | apply State.markPool_stays
                            | apply State.pumpReads_stays | apply State.readData_stays | apply State.readDone_stays
                            | apply State.readFailed_stays | refine Stays.ite (fun _ => ?_) (fun _ => ?_)
                            | refine Stays.ofSnd (by assumption) ?_ | refine Stays.ofFst (by assumption) ?_)
    | split | dsimp only | with_reducible refine Stays.upd ?_)

theorem State.hostTimeout_stays {σ s : State} (h : Stays σ s) (t : Nat) :
    Stays σ (State.hostTimeout s t) := by
  unfold State.hostTimeout
  iterate 40 (try any_goals first
    | with_reducible (first | exact h | assumption | apply State.bump_stays | apply State.markPool_stays
                            | apply State.readDone_stays | apply State.readFailed_stays
                            | refine Stays.ite (fun _ => ?_) (fun _ => ?_) | refine Stays.ofSnd (by assumption) ?_
                            | refine Stays.ofFst (by assumption) ?_)
    | split | dsimp only | with_reducible refine Stays.upd ?_)

theorem State.pf0Run_stays {σ s : State} (h : Stays σ s) (n o : Nat) (act : State → Cmd → State)
    (k : ∀ t c, Stays σ t → Stays σ (act t c)) : Stays σ (s.pf0Run n o act) := by
  unfold State.pf0Run
  split
  · exact h
  · split
    · dsimp only
      split
      · exact k _ _ h
      · exact State.finishSt_stays (Stays.ite (fun _ => State.bump_stays h _) (fun _ => h)) _ _ _
    · exact h

theorem State.writeRun_stays {σ s : State} (h : Stays σ s) (c : Cmd) :
    Stays σ (State.writeRun s c) := by
  unfold State.writeRun
  iterate 40 (try any_goals first
    | with_reducible (first | exact h | assumption | apply State.finishSt_stays | apply State.writeAdmit_stays
                            | refine Stays.ite (fun _ => ?_) (fun _ => ?_) | refine Stays.ofSnd (by assumption) ?_
                            | refine Stays.ofFst (by assumption) ?_)
    | split | dsimp only | with_reducible refine Stays.upd ?_)

theorem State.trimRun_stays {σ s : State} (h : Stays σ s) (c : Cmd) :
    Stays σ (State.trimRun s c) := by
  unfold State.trimRun
  iterate 40 (try any_goals first
    | with_reducible (first | exact h | assumption | apply State.finish_stays | apply State.trim_stays
                            | refine Stays.ite (fun _ => ?_) (fun _ => ?_) | refine Stays.ofSnd (by assumption) ?_
                            | refine Stays.ofFst (by assumption) ?_)
    | split | dsimp only | with_reducible refine Stays.upd ?_)

theorem State.statusRun_stays {σ s : State} (h : Stays σ s) (c : Cmd) (b : List Byte) :
    Stays σ (State.statusRun s c b) := by
  unfold State.statusRun
  iterate 40 (try any_goals first
    | with_reducible (first | exact h | assumption | apply State.finish_stays | apply State.hostWriteSegs_stays
                            | refine Stays.ite (fun _ => ?_) (fun _ => ?_) | refine Stays.ofSnd (by assumption) ?_
                            | refine Stays.ofFst (by assumption) ?_)
    | split | dsimp only | with_reducible refine Stays.upd ?_)

theorem State.adminRun_stays {σ s : State} (h : Stays σ s) (n o : Nat) (act : State → Cmd → State)
    (k : ∀ t c, Stays σ t → Stays σ (act t c)) : Stays σ (s.adminRun n o act) := by
  unfold State.adminRun
  split
  · exact h
  · split
    · dsimp only
      split
      · exact State.adminEnd_stays h _ _ _
      · split
        · exact k _ _ h
        · exact State.adminRead_stays h _
    · exact h

theorem State.goLong_stays {σ s : State} (h : Stays σ s) (c : Cmd) :
    Stays σ (State.goLong s c) := by
  unfold State.goLong
  iterate 40 (try any_goals first
    | with_reducible (first | exact h | assumption | apply State.setCmd_stays | refine Stays.ite (fun _ => ?_) (fun _ => ?_)
                            | refine Stays.ofSnd (by assumption) ?_ | refine Stays.ofFst (by assumption) ?_)
    | split | dsimp only | with_reducible refine Stays.upd ?_)

theorem State.clearEntries_stays {σ s : State} (h : Stays σ s) (a count : Nat) :
    Stays σ (State.clearEntries s a count) := by
  unfold State.clearEntries
  iterate 40 (try any_goals first
    | with_reducible (first | exact h | assumption | apply State.setSst_stays | apply Stays.foldl | apply Stays.foldlSnd
                            | apply Stays.foldlFst | refine Stays.ite (fun _ => ?_) (fun _ => ?_)
                            | refine Stays.ofSnd (by assumption) ?_ | refine Stays.ofFst (by assumption) ?_)
    | intro _ _ _ | split | dsimp only | with_reducible refine Stays.upd ?_)

theorem State.createStart_stays {σ s : State} (h : Stays σ s) (c : Cmd) (a base n : Nat) (r : ArrayRec) (ports : List Nat) :
    Stays σ (State.createStart s c a base n r ports) := by
  unfold State.createStart
  iterate 40 (try any_goals first
    | with_reducible (first | exact h | assumption | apply State.addTask_stays | apply State.clearEntries_stays
                            | apply State.setArr_stays | apply State.setCmd_stays | refine Stays.ite (fun _ => ?_) (fun _ => ?_)
                            | refine Stays.ofSnd (by assumption) ?_ | refine Stays.ofFst (by assumption) ?_)
    | split | dsimp only | with_reducible refine Stays.upd ?_)

theorem State.arrayCreate_stays {σ s : State} (h : Stays σ s) (c : Cmd) :
    Stays σ (State.arrayCreate s c) := by
  unfold State.arrayCreate
  iterate 40 (try any_goals first
    | with_reducible (first | exact h | assumption | apply State.adminEnd_stays | apply State.createStart_stays
                            | refine Stays.ite (fun _ => ?_) (fun _ => ?_) | refine Stays.ofSnd (by assumption) ?_
                            | refine Stays.ofFst (by assumption) ?_)
    | split | dsimp only | with_reducible refine Stays.upd ?_)

theorem State.arrayDelete_stays {σ s : State} (h : Stays σ s) (c : Cmd) :
    Stays σ (State.arrayDelete s c) := by
  unfold State.arrayDelete
  iterate 40 (try any_goals first
    | with_reducible (first | exact h | assumption | apply State.adminEnd_stays | apply State.deleteStart_stays
                            | apply State.goLong_stays | refine Stays.ite (fun _ => ?_) (fun _ => ?_)
                            | refine Stays.ofSnd (by assumption) ?_ | refine Stays.ofFst (by assumption) ?_)
    | split | dsimp only | with_reducible refine Stays.upd ?_)

theorem State.setVol_stays {σ s : State} (h : Stays σ s) (n : Nat) (v : Vol) :
    Stays σ (State.setVol s n v) := by
  unfold State.setVol
  iterate 40 (try any_goals first
    | with_reducible (first | exact h | assumption | apply State.keepRec_stays | refine Stays.ite (fun _ => ?_) (fun _ => ?_)
                            | refine Stays.ofSnd (by assumption) ?_ | refine Stays.ofFst (by assumption) ?_)
    | intro _ _ | split | dsimp only | with_reducible refine Stays.upd ?_)

theorem State.volumeCreate_stays {σ s : State} (h : Stays σ s) (c : Cmd) :
    Stays σ (State.volumeCreate s c) := by
  unfold State.volumeCreate
  iterate 40 (try any_goals first
    | with_reducible (first | exact h | assumption | apply State.adminEnd_stays | apply State.setVol_stays
                            | refine Stays.ite (fun _ => ?_) (fun _ => ?_) | refine Stays.ofSnd (by assumption) ?_
                            | refine Stays.ofFst (by assumption) ?_)
    | split | dsimp only | with_reducible refine Stays.upd ?_)

theorem State.volumeDelete_stays {σ s : State} (h : Stays σ s) (c : Cmd) :
    Stays σ (State.volumeDelete s c) := by
  unfold State.volumeDelete
  iterate 40 (try any_goals first
    | with_reducible (first | exact h | assumption | apply State.adminEnd_stays | apply State.goLong_stays
                            | apply State.keepRec_stays | apply State.setVol_stays | apply State.updStream_stays
                            | apply Stays.foldl | apply Stays.foldlSnd | apply Stays.foldlFst
                            | refine Stays.ite (fun _ => ?_) (fun _ => ?_) | refine Stays.ofSnd (by assumption) ?_
                            | refine Stays.ofFst (by assumption) ?_)
    | intro _ _ | intro _ _ _ | split | dsimp only | intro _ | with_reducible refine Stays.upd ?_)

theorem State.volumeSet_stays {σ s : State} (h : Stays σ s) (c : Cmd) :
    Stays σ (State.volumeSet s c) := by
  unfold State.volumeSet
  iterate 40 (try any_goals first
    | with_reducible (first | exact h | assumption | apply State.adminEnd_stays | apply State.setVol_stays
                            | refine Stays.ite (fun _ => ?_) (fun _ => ?_) | refine Stays.ofSnd (by assumption) ?_
                            | refine Stays.ofFst (by assumption) ?_)
    | split | dsimp only | with_reducible refine Stays.upd ?_)

theorem State.orphansTake_stays {σ s : State} (h : Stays σ s) :
    Stays σ (State.orphansTake s) := by
  unfold State.orphansTake
  iterate 40 (try any_goals first
    | with_reducible (first | exact h | assumption | apply State.chooseTarget_stays | apply Stays.foldl | apply Stays.foldlSnd
                            | apply Stays.foldlFst | refine Stays.ite (fun _ => ?_) (fun _ => ?_)
                            | refine Stays.ofSnd (by assumption) ?_ | refine Stays.ofFst (by assumption) ?_)
    | intro _ _ _ | split | dsimp only | with_reducible refine Stays.upd ?_)

theorem State.spareSet_stays {σ s : State} (h : Stays σ s) (c : Cmd) :
    Stays σ (State.spareSet s c) := by
  unfold State.spareSet
  iterate 40 (try any_goals first
    | with_reducible (first | exact h | assumption | apply State.adminEnd_stays | apply State.keepRec_stays
                            | apply State.orphansTake_stays | apply State.sbSync_stays | apply State.tlUpdate_stays
                            | refine Stays.ite (fun _ => ?_) (fun _ => ?_) | refine Stays.ofSnd (by assumption) ?_
                            | refine Stays.ofFst (by assumption) ?_)
    | intro _ _ | split | dsimp only | with_reducible refine Stays.upd ?_)

theorem State.streamCreate_stays {σ s : State} (h : Stays σ s) (c : Cmd) :
    Stays σ (State.streamCreate s c) := by
  unfold State.streamCreate
  iterate 40 (try any_goals first
    | with_reducible (first | exact h | assumption | apply State.keepRec_stays | apply State.setStream_stays
                            | apply State.trim_stays | apply State.adminEnd_stays
                            | refine Stays.ite (fun _ => ?_) (fun _ => ?_) | refine Stays.ofSnd (by assumption) ?_
                            | refine Stays.ofFst (by assumption) ?_)
    | intro _ _ | split | dsimp only | with_reducible refine Stays.upd ?_)

theorem State.streamDelete_stays {σ s : State} (h : Stays σ s) (c : Cmd) :
    Stays σ (State.streamDelete s c) := by
  unfold State.streamDelete
  iterate 40 (try any_goals first
    | with_reducible (first | exact h | assumption | apply State.addTask_stays | apply State.adminEnd_stays
                            | apply State.failCmd_stays | apply State.goLong_stays | apply State.keepRec_stays
                            | apply State.updStream_stays | apply Stays.foldl | apply Stays.foldlSnd | apply Stays.foldlFst
                            | refine Stays.ite (fun _ => ?_) (fun _ => ?_) | refine Stays.ofSnd (by assumption) ?_
                            | refine Stays.ofFst (by assumption) ?_)
    | intro _ _ | intro _ _ _ | split | dsimp only | intro _ | with_reducible refine Stays.upd ?_)

theorem State.inPlace_stays {σ s : State} (h : Stays σ s) (c : Cmd) :
    Stays σ (State.inPlace s c) := by
  unfold State.inPlace
  iterate 40 (try any_goals first
    | with_reducible (first | exact h | assumption | apply State.adminEnd_stays | apply State.takeTarget_stays
                            | refine Stays.ite (fun _ => ?_) (fun _ => ?_) | refine Stays.ofSnd (by assumption) ?_
                            | refine Stays.ofFst (by assumption) ?_)
    | split | dsimp only | with_reducible refine Stays.upd ?_)

theorem State.stripeRelease_stays {σ s : State} (h : Stays σ s) (c : Cmd) :
    Stays σ (State.stripeRelease s c) := by
  unfold State.stripeRelease
  iterate 40 (try any_goals first
    | with_reducible (first | exact h | assumption | apply State.lgAsk_stays | apply State.release_stays
                            | apply State.setCmd_stays | refine Stays.ite (fun _ => ?_) (fun _ => ?_)
                            | refine Stays.ofSnd (by assumption) ?_ | refine Stays.ofFst (by assumption) ?_)
    | split | dsimp only | with_reducible refine Stays.upd ?_)

theorem State.backOnline_stays {σ s : State} (h : Stays σ s) (a : Nat) :
    Stays σ (State.backOnline s a) := by
  unfold State.backOnline
  iterate 40 (try any_goals first
    | with_reducible (first | exact h | assumption | apply State.scrubResume_stays | apply State.setArr_stays
                            | apply State.unpark_stays | apply State.walkResume_stays
                            | refine Stays.ite (fun _ => ?_) (fun _ => ?_) | refine Stays.ofSnd (by assumption) ?_
                            | refine Stays.ofFst (by assumption) ?_)
    | split | dsimp only | with_reducible refine Stays.upd ?_)

theorem State.setMode_stays {σ s : State} (h : Stays σ s) (m : Nat) :
    Stays σ (State.setMode s m) := by
  unfold State.setMode
  iterate 40 (try any_goals first
    | with_reducible (first | exact h | assumption | apply State.offlineAll_stays | apply State.backOnline_stays | apply State.setFld_stays | apply Stays.foldl
                            | apply Stays.foldlSnd | apply Stays.foldlFst | refine Stays.ite (fun _ => ?_) (fun _ => ?_)
                            | refine Stays.ofSnd (by assumption) ?_ | refine Stays.ofFst (by assumption) ?_)
    | intro _ _ _ | split | dsimp only | with_reducible refine Stays.upd ?_)

theorem State.writeBack_stays {σ s : State} (h : Stays σ s) (c : Cmd) :
    Stays σ (State.writeBack s c) := by
  unfold State.writeBack
  iterate 40 (try any_goals first
    | with_reducible (first | exact h | assumption | apply State.adminEnd_stays | apply State.goLong_stays
                            | apply State.wbClear_stays | apply State.wbSet_stays | refine Stays.ite (fun _ => ?_) (fun _ => ?_)
                            | refine Stays.ofSnd (by assumption) ?_ | refine Stays.ofFst (by assumption) ?_)
    | split | dsimp only | with_reducible refine Stays.upd ?_)

theorem State.timeSet_stays {σ s : State} (h : Stays σ s) (t : Nat) :
    Stays σ (State.timeSet s t) := by
  unfold State.timeSet
  iterate 40 (try any_goals first
    | with_reducible (first | exact h | assumption | apply State.keepRec_stays | apply State.setFlag_stays
                            | refine Stays.ite (fun _ => ?_) (fun _ => ?_) | refine Stays.ofSnd (by assumption) ?_
                            | refine Stays.ofFst (by assumption) ?_)
    | intro _ _ | split | dsimp only | with_reducible refine Stays.upd ?_)

theorem State.arrayImport_stays {σ s : State} (h : Stays σ s) (c : Cmd) :
    Stays σ (State.arrayImport s c) := by
  unfold State.arrayImport
  iterate 40 (try any_goals first
    | with_reducible (first | exact h | assumption | apply State.addTask_stays | apply State.adminEnd_stays
                            | apply State.goLong_stays | apply State.setFlag_stays
                            | refine Stays.ite (fun _ => ?_) (fun _ => ?_) | refine Stays.ofSnd (by assumption) ?_
                            | refine Stays.ofFst (by assumption) ?_)
    | split | dsimp only | with_reducible refine Stays.upd ?_)

theorem State.imageImport_stays {σ s : State} (h : Stays σ s) (c : Cmd) :
    Stays σ (State.imageImport s c) := by
  unfold State.imageImport
  iterate 40 (try any_goals first
    | with_reducible (first | exact h | assumption | apply State.adminEnd_stays | apply State.goLong_stays
                            | apply State.rsImport_stays | refine Stays.ite (fun _ => ?_) (fun _ => ?_)
                            | refine Stays.ofSnd (by assumption) ?_ | refine Stays.ofFst (by assumption) ?_)
    | split | dsimp only | with_reducible refine Stays.upd ?_)

theorem State.fwActivate_stays {σ s : State} (h : Stays σ s) (c : Cmd) :
    Stays σ (State.fwActivate s c) := by
  unfold State.fwActivate
  iterate 40 (try any_goals first
    | with_reducible (first | exact h | assumption | apply State.adminEnd_stays | apply State.setCmd_stays
                            | refine Stays.ite (fun _ => ?_) (fun _ => ?_) | refine Stays.ofSnd (by assumption) ?_
                            | refine Stays.ofFst (by assumption) ?_)
    | split | dsimp only | with_reducible refine Stays.upd ?_)

theorem State.fwGo_stays {σ s : State} (h : Stays σ s) :
    Stays σ (State.fwGo s) := by
  unfold State.fwGo
  iterate 40 (try any_goals first
    | with_reducible (first | exact h | assumption | apply State.adminEnd_stays | apply State.setFlag_stays
                            | apply State.setReg_stays | refine Stays.ite (fun _ => ?_) (fun _ => ?_)
                            | refine Stays.ofSnd (by assumption) ?_ | refine Stays.ofFst (by assumption) ?_)
    | split | dsimp only | with_reducible refine Stays.upd ?_)

theorem State.getNonce_stays {σ s : State} (h : Stays σ s) (c : Cmd) :
    Stays σ (State.getNonce s c) := by
  unfold State.getNonce
  iterate 40 (try any_goals first
    | with_reducible (first | exact h | assumption | apply State.adminEnd_stays | apply State.hostWriteSegs_stays
                            | apply State.newNonce_stays | refine Stays.ite (fun _ => ?_) (fun _ => ?_)
                            | refine Stays.ofSnd (by assumption) ?_ | refine Stays.ofFst (by assumption) ?_)
    | split | dsimp only | with_reducible refine Stays.upd ?_)

theorem State.almanacClear_stays {σ s : State} (h : Stays σ s) (c : Cmd) :
    Stays σ (State.almanacClear s c) := by
  unfold State.almanacClear
  iterate 40 (try any_goals first
    | with_reducible (first | exact h | assumption | apply State.adminEnd_stays | apply State.alClear_stays
                            | refine Stays.ite (fun _ => ?_) (fun _ => ?_) | refine Stays.ofSnd (by assumption) ?_
                            | refine Stays.ofFst (by assumption) ?_)
    | split | dsimp only | with_reducible refine Stays.upd ?_)

theorem State.keySet_stays {σ s : State} (h : Stays σ s) (c : Cmd) :
    Stays σ (State.keySet s c) := by
  unfold State.keySet
  iterate 40 (try any_goals first
    | with_reducible (first | exact h | assumption | apply State.adminEnd_stays | apply State.keyWrite_stays
                            | refine Stays.ite (fun _ => ?_) (fun _ => ?_) | refine Stays.ofSnd (by assumption) ?_
                            | refine Stays.ofFst (by assumption) ?_)
    | split | dsimp only | with_reducible refine Stays.upd ?_)

theorem State.regEffect_stays {σ s : State} (h : Stays σ s) (k : Nat) :
    Stays σ (State.regEffect s k).2 := by
  unfold State.regEffect
  iterate 40 (try any_goals first
    | with_reducible (first | exact h | assumption | apply State.freeBelow_stays | apply State.sstLook_stays
                            | apply State.ldProbe_stays | refine Stays.ite (fun _ => ?_) (fun _ => ?_)
                            | refine Stays.ofSnd (by assumption) ?_ | refine Stays.ofFst (by assumption) ?_)
    | split | dsimp only | with_reducible refine Stays.upd ?_)

theorem State.regRead_stays {σ s : State} (h : Stays σ s) (k : Nat) :
    Stays σ (State.regRead s k).2 := by
  unfold State.regRead
  iterate 40 (try any_goals first
    | with_reducible (first | exact h | assumption | apply State.regEffect_stays | refine Stays.ite (fun _ => ?_) (fun _ => ?_)
                            | refine Stays.ofSnd (by assumption) ?_ | refine Stays.ofFst (by assumption) ?_)
    | split | dsimp only | with_reducible refine Stays.upd ?_)

theorem State.barRead_stays {σ s : State} (h : Stays σ s) (f : Func) (off : Nat) :
    Stays σ (State.barRead s f off).2 := by
  unfold State.barRead
  iterate 40 (try any_goals first
    | with_reducible (first | exact h | assumption | apply State.regRead_stays | refine Stays.ite (fun _ => ?_) (fun _ => ?_)
                            | refine Stays.ofSnd (by assumption) ?_ | refine Stays.ofFst (by assumption) ?_)
    | split | dsimp only | with_reducible refine Stays.upd ?_)

theorem State.regStore_stays {σ s : State} (h : Stays σ s) (k v : Nat) :
    Stays σ (State.regStore s k v) := by
  unfold State.regStore
  iterate 40 (try any_goals first
    | with_reducible (first | exact h | assumption | apply State.setReg_stays | refine Stays.ite (fun _ => ?_) (fun _ => ?_)
                            | refine Stays.ofSnd (by assumption) ?_ | refine Stays.ofFst (by assumption) ?_)
    | split | dsimp only | with_reducible refine Stays.upd ?_)

theorem State.ringStore_stays {σ s : State} (h : Stays σ s) (f : Func) (isCq : Bool) (q o k v : Nat) :
    Stays σ (State.ringStore s f isCq q o k v) := by
  unfold State.ringStore
  iterate 40 (try any_goals first
    | with_reducible (first | exact h | assumption | apply State.cfgErr_stays | apply State.regStore_stays
                            | apply State.updSq_stays | refine Stays.ite (fun _ => ?_) (fun _ => ?_)
                            | refine Stays.ofSnd (by assumption) ?_ | refine Stays.ofFst (by assumption) ?_)
    | split | dsimp only | with_reducible refine Stays.upd ?_)

theorem State.regWrite_stays {σ s : State} (h : Stays σ s) (k v : Nat) :
    Stays σ (State.regWrite s k v) := by
  unfold State.regWrite
  iterate 40 (try any_goals first
    | with_reducible (first | exact h | assumption | apply State.gaDisable_stays | apply State.regStore_stays
                            | apply State.ringStore_stays | apply State.sbSync_stays
                            | refine Stays.ite (fun _ => ?_) (fun _ => ?_) | refine Stays.ofSnd (by assumption) ?_
                            | refine Stays.ofFst (by assumption) ?_)
    | split | dsimp only | with_reducible refine Stays.upd ?_)

theorem State.msixWrite_stays {σ s : State} (h : Stays σ s) (f : Func) (vec i v : Nat) :
    Stays σ (State.msixWrite s f vec i v) := by
  unfold State.msixWrite
  iterate 40 (try any_goals first
    | with_reducible (first | exact h | assumption | apply State.setMsix_stays | apply State.unmaskSend_stays
                            | refine Stays.ite (fun _ => ?_) (fun _ => ?_) | refine Stays.ofSnd (by assumption) ?_
                            | refine Stays.ofFst (by assumption) ?_)
    | split | dsimp only | with_reducible refine Stays.upd ?_)

theorem State.barWrite_stays {σ s : State} (h : Stays σ s) (f : Func) (off v : Nat) :
    Stays σ (State.barWrite s f off v) := by
  unfold State.barWrite
  iterate 40 (try any_goals first
    | with_reducible (first | exact h | assumption | apply State.msixWrite_stays | apply State.regWrite_stays
                            | refine Stays.ite (fun _ => ?_) (fun _ => ?_) | refine Stays.ofSnd (by assumption) ?_
                            | refine Stays.ofFst (by assumption) ?_)
    | split | dsimp only | with_reducible refine Stays.upd ?_)

theorem State.kwBefore_stays {σ s : State} (h : Stays σ s) (k : Nat) :
    Stays σ (State.kwBefore s k) := by
  unfold State.kwBefore
  iterate 40 (try any_goals first
    | with_reducible (first | exact h | assumption | apply State.mwStage_stays | refine Stays.ite (fun _ => ?_) (fun _ => ?_)
                            | refine Stays.ofSnd (by assumption) ?_ | refine Stays.ofFst (by assumption) ?_)
    | split | dsimp only | with_reducible refine Stays.upd ?_)

theorem State.kwAfter_stays {σ s : State} (h : Stays σ s) (k : Nat) :
    Stays σ (State.kwAfter s k) := by
  unfold State.kwAfter
  iterate 40 (try any_goals first
    | with_reducible (first | exact h | assumption | apply State.vcoreGo_stays | apply State.tlUpdate_stays
                            | apply State.gaRecode_stays | refine Stays.ite (fun _ => ?_) (fun _ => ?_)
                            | refine Stays.ofSnd (by assumption) ?_ | refine Stays.ofFst (by assumption) ?_)
    | split | dsimp only | with_reducible refine Stays.upd ?_)

theorem State.kwWrite_stays {σ s : State} (h : Stays σ s) (k v : Nat) :
    Stays σ (State.kwWrite s k v) := by
  unfold State.kwWrite
  iterate 40 (try any_goals first
    | with_reducible (first | exact h | assumption | apply State.kwStore_stays | apply State.kwBefore_stays
                            | apply State.kwAfter_stays | refine Stays.ite (fun _ => ?_) (fun _ => ?_)
                            | refine Stays.ofSnd (by assumption) ?_ | refine Stays.ofFst (by assumption) ?_)
    | split | dsimp only | with_reducible refine Stays.upd ?_)

theorem State.ringRows_stays {σ s : State} (h : Stays σ s) (isCq : Bool) (q o v : Nat) :
    Stays σ (State.ringRows s isCq q o v) := by
  unfold State.ringRows
  iterate 40 (try any_goals first
    | with_reducible (first | exact h | assumption | apply State.cqDisable_stays | apply State.cqEnable_stays
                            | apply State.headDoorbell_stays | apply State.inlFlush_stays | apply State.sqDisable_stays
                            | apply State.sqEnable_stays | apply State.tailDoorbell_stays
                            | refine Stays.ite (fun _ => ?_) (fun _ => ?_) | refine Stays.ofSnd (by assumption) ?_
                            | refine Stays.ofFst (by assumption) ?_)
    | split | dsimp only | with_reducible refine Stays.upd ?_)

theorem State.rowWrites_stays {σ s : State} (h : Stays σ s) (k v : Nat) (brkFb : Bool) :
    Stays σ (State.rowWrites s k v brkFb) := by
  unfold State.rowWrites
  iterate 40 (try any_goals first
    | with_reducible (first | exact h | assumption | apply State.alSnap_stays | apply State.freeze_stays
                            | apply State.freezeEnd_stays | apply State.gaForget_stays | apply State.injectDp_stays
                            | apply State.inlWrite_stays | apply State.kwWrite_stays | apply State.ldDrain_stays
                            | apply State.lowClr_stays | apply State.mwAbort_stays | apply State.mwClear_stays
                            | apply State.mwCommGo_stays | apply State.relearn_stays | apply State.ringRows_stays
                            | apply State.scDisable_stays | apply State.scEnable_stays | apply State.settle_stays
                            | apply State.tjobGo_stays | apply State.wbClear_stays | apply State.wbSet_stays
                            | refine Stays.ite (fun _ => ?_) (fun _ => ?_) | refine Stays.ofSnd (by assumption) ?_
                            | refine Stays.ofFst (by assumption) ?_)
    | split | dsimp only | with_reducible refine Stays.upd ?_)

theorem State.conWrite_stays {σ s : State} (h : Stays σ s) (off v : Nat) (brkFb : Bool) :
    Stays σ (State.conWrite s off v brkFb) := by
  unfold State.conWrite
  iterate 40 (try any_goals first
    | with_reducible (first | exact h | assumption | apply State.barWrite_stays | apply State.bump_stays
                            | apply State.rowWrites_stays | refine Stays.ite (fun _ => ?_) (fun _ => ?_)
                            | refine Stays.ofSnd (by assumption) ?_ | refine Stays.ofFst (by assumption) ?_)
    | split | dsimp only | with_reducible refine Stays.upd ?_)

theorem State.conRead_stays {σ s : State} (h : Stays σ s) (off : Nat) :
    Stays σ (State.conRead s off) := by
  unfold State.conRead
  iterate 40 (try any_goals first
    | with_reducible (first | exact h | assumption | apply State.barRead_stays | apply State.bump_stays | apply State.put_stays
                            | refine Stays.ite (fun _ => ?_) (fun _ => ?_) | refine Stays.ofSnd (by assumption) ?_
                            | refine Stays.ofFst (by assumption) ?_)
    | split | dsimp only | with_reducible refine Stays.upd ?_)

theorem State.sampleHists_stays {σ s : State} (h : Stays σ s) (m : AlSample) :
    Stays σ (State.sampleHists s m) := by
  unfold State.sampleHists
  iterate 40 (try any_goals first
    | with_reducible (first | exact h | assumption | apply State.alHist_stays | refine Stays.ite (fun _ => ?_) (fun _ => ?_)
                            | refine Stays.ofSnd (by assumption) ?_ | refine Stays.ofFst (by assumption) ?_)
    | split | dsimp only | with_reducible refine Stays.upd ?_)

theorem State.sampleExts_stays {σ s : State} (h : Stays σ s) (m : AlSample) :
    Stays σ (State.sampleExts s m) := by
  unfold State.sampleExts
  iterate 40 (try any_goals first
    | with_reducible (first | exact h | assumption | apply State.alMax_stays | apply State.alMin_stays
                            | refine Stays.ite (fun _ => ?_) (fun _ => ?_) | refine Stays.ofSnd (by assumption) ?_
                            | refine Stays.ofFst (by assumption) ?_)
    | split | dsimp only | with_reducible refine Stays.upd ?_)

theorem State.mpCount_stays {σ s : State} (h : Stays σ s) (c : MCmd) (ok : Bool) :
    Stays σ (State.mpCount s c ok) := by
  unfold State.mpCount
  iterate 40 (try any_goals first
    | with_reducible (first | exact h | assumption | apply State.countRerr_stays | apply State.countWerr_stays
                            | refine Stays.ite (fun _ => ?_) (fun _ => ?_) | refine Stays.ofSnd (by assumption) ?_
                            | refine Stays.ofFst (by assumption) ?_)
    | split | dsimp only | with_reducible refine Stays.upd ?_)

theorem State.mpSample_stays {σ s : State} (h : Stays σ s) (c : MCmd) :
    Stays σ (State.mpSample s c) := by
  unfold State.mpSample
  iterate 40 (try any_goals first
    | with_reducible (first | exact h | assumption | apply State.alHist_stays | apply State.alMax_stays
                            | refine Stays.ite (fun _ => ?_) (fun _ => ?_) | refine Stays.ofSnd (by assumption) ?_
                            | refine Stays.ofFst (by assumption) ?_)
    | split | dsimp only | with_reducible refine Stays.upd ?_)

theorem State.mpDone_stays {σ s : State} (h : Stays σ s) (c : MCmd) (ok dnr : Bool) (pay : MPayload) :
    Stays σ (State.mpDone s c ok dnr pay) := by
  unfold State.mpDone
  iterate 40 (try any_goals first
    | with_reducible (first | exact h | assumption | apply State.bump_stays | apply State.mpCount_stays
                            | apply State.mpEnd_stays | apply State.mpIssue_stays | apply State.mpPump_stays
                            | apply State.mpRemove_stays | apply State.mpSample_stays
                            | refine Stays.ite (fun _ => ?_) (fun _ => ?_) | refine Stays.ofSnd (by assumption) ?_
                            | refine Stays.ofFst (by assumption) ?_)
    | split | dsimp only | with_reducible refine Stays.upd ?_)

theorem State.mpLapse_stays {σ s : State} (h : Stays σ s) (c : MCmd) :
    Stays σ (State.mpLapse s c) := by
  unfold State.mpLapse
  iterate 40 (try any_goals first
    | with_reducible (first | exact h | assumption | apply State.bump_stays | apply State.mpReplace_stays
                            | refine Stays.ite (fun _ => ?_) (fun _ => ?_) | refine Stays.ofSnd (by assumption) ?_
                            | refine Stays.ofFst (by assumption) ?_)
    | split | dsimp only | with_reducible refine Stays.upd ?_)

theorem State.mpTimeout_stays {σ s : State} (h : Stays σ s) (c : MCmd) :
    Stays σ (State.mpTimeout s c) := by
  unfold State.mpTimeout
  iterate 40 (try any_goals first
    | with_reducible (first | exact h | assumption | apply State.countTmo_stays | apply State.mpEnd_stays
                            | apply State.mpIssue_stays | apply State.mpLapse_stays | apply State.queueRenew_stays
                            | refine Stays.ite (fun _ => ?_) (fun _ => ?_) | refine Stays.ofSnd (by assumption) ?_
                            | refine Stays.ofFst (by assumption) ?_)
    | split | dsimp only | with_reducible refine Stays.upd ?_)

theorem State.sbNak_stays {σ s : State} (h : Stays σ s) (bus : Nat) :
    Stays σ (State.sbNak s bus) := by
  unfold State.sbNak
  iterate 40 (try any_goals first
    | with_reducible (first | exact h | assumption | apply State.setFlag_stays | refine Stays.ite (fun _ => ?_) (fun _ => ?_)
                            | refine Stays.ofSnd (by assumption) ?_ | refine Stays.ofFst (by assumption) ?_)
    | split | dsimp only | with_reducible refine Stays.upd ?_)

theorem State.sbPoll_stays {σ s : State} (h : Stays σ s) (bus : Nat) (v : BitVec 16) :
    Stays σ (State.sbPoll s bus v) := by
  unfold State.sbPoll
  iterate 40 (try any_goals first
    | with_reducible (first | exact h | assumption | apply State.portPresence_stays | apply State.sbSync_stays
                            | apply State.setFlag_stays | apply Stays.foldl | apply Stays.foldlSnd | apply Stays.foldlFst
                            | refine Stays.ite (fun _ => ?_) (fun _ => ?_) | refine Stays.ofSnd (by assumption) ?_
                            | refine Stays.ofFst (by assumption) ?_)
    | intro _ _ _ | split | dsimp only | with_reducible refine Stays.upd ?_)

end Sys2Proof.Machine
end

