-- ==== Sys2Proof/Laws/StaysExec.lean ====
section
/-! SUPPORT. Laws: what every command keeps, and all of it once for exec (see Stays). -/

namespace Sys2Proof.Machine

set_option linter.all false
set_option Elab.async false

open Sys2Proof.Safety

theorem execScBufferWriteback_stays {σ s t : State} (w : Stays σ s) (e : execScBufferWriteback s = .next t) :
    Stays σ t := by
  rw [← Host.Outcome.next.inj e]
  iterate 40 (try any_goals first
    | with_reducible (first | exact w | assumption | apply State.scDrain1_stays | refine Stays.ite (fun _ => ?_) (fun _ => ?_)
                            | refine Stays.ofSnd (by assumption) ?_ | refine Stays.ofFst (by assumption) ?_)
    | split | dsimp only | with_reducible refine Stays.upd ?_)

theorem execScDisable_stays {σ s t : State} (w : Stays σ s) (e : execScDisable s = .next t) :
    Stays σ t := by
  rw [← Host.Outcome.next.inj e]
  iterate 40 (try any_goals first
    | with_reducible (first | exact w | assumption | apply State.scDisable_stays | refine Stays.ite (fun _ => ?_) (fun _ => ?_)
                            | refine Stays.ofSnd (by assumption) ?_ | refine Stays.ofFst (by assumption) ?_)
    | split | dsimp only | with_reducible refine Stays.upd ?_)

theorem execScEnable_stays {σ s t : State} (w : Stays σ s) (e : execScEnable s = .next t) :
    Stays σ t := by
  rw [← Host.Outcome.next.inj e]
  iterate 40 (try any_goals first
    | with_reducible (first | exact w | assumption | apply State.scEnable_stays | refine Stays.ite (fun _ => ?_) (fun _ => ?_)
                            | refine Stays.ofSnd (by assumption) ?_ | refine Stays.ofFst (by assumption) ?_)
    | split | dsimp only | with_reducible refine Stays.upd ?_)

theorem execScDrainDone_stays {σ s t : State} (h : Stays σ s) (e : execScDrainDone s = .next t) :
    Stays σ t := by
  unfold execScDrainDone at e
  rw [← Host.Outcome.next.inj e]
  iterate 40 (try any_goals first
    | with_reducible (first | exact h | assumption | apply State.scDrained_stays
                            | refine Stays.ite (fun _ => ?_) (fun _ => ?_) | refine Stays.ofSnd (by assumption) ?_
                            | refine Stays.ofFst (by assumption) ?_)
    | split | dsimp only | with_reducible refine Stays.upd ?_)

theorem execScInvalidateDone_stays {σ s t : State} (w : Stays σ s) (e : execScInvalidateDone s = .next t) :
    Stays σ t := by
  rw [← Host.Outcome.next.inj e]
  iterate 40 (try any_goals first
    | with_reducible (first | exact w | assumption | apply State.setFlag_stays | refine Stays.ite (fun _ => ?_) (fun _ => ?_)
                            | refine Stays.ofSnd (by assumption) ?_ | refine Stays.ofFst (by assumption) ?_)
    | split | dsimp only | with_reducible refine Stays.upd ?_)

theorem execLoomJobSubmit_stays {σ s t : State} (w : Stays σ s) (q : Nat) (e : execLoomJobSubmit q s = .next t) :
    Stays σ t := by
  rw [← Host.Outcome.next.inj e]
  iterate 40 (try any_goals first
    | with_reducible (first | exact w | assumption | refine Stays.ite (fun _ => ?_) (fun _ => ?_)
                            | refine Stays.ofSnd (by assumption) ?_ | refine Stays.ofFst (by assumption) ?_)
    | split | dsimp only | with_reducible refine Stays.upd ?_)

theorem execLoomJobStart_stays {σ s t : State} (w : Stays σ s) (e : execLoomJobStart s = .next t) :
    Stays σ t := by
  rw [← Host.Outcome.next.inj e]
  iterate 40 (try any_goals first
    | with_reducible (first | exact w | assumption | apply State.setFld_stays | refine Stays.ite (fun _ => ?_) (fun _ => ?_)
                            | refine Stays.ofSnd (by assumption) ?_ | refine Stays.ofFst (by assumption) ?_)
    | split | dsimp only | with_reducible refine Stays.upd ?_)

theorem execLmTjobGo_stays {σ s t : State} (w : Stays σ s) (e : execLmTjobGo s = .next t) :
    Stays σ t := by
  rw [← Host.Outcome.next.inj e]
  iterate 40 (try any_goals first
    | with_reducible (first | exact w | assumption | apply State.tjobGo_stays | refine Stays.ite (fun _ => ?_) (fun _ => ?_)
                            | refine Stays.ofSnd (by assumption) ?_ | refine Stays.ofFst (by assumption) ?_)
    | split | dsimp only | with_reducible refine Stays.upd ?_)

theorem execInjectDp_stays {σ s t : State} (w : Stays σ s) (e : execInjectDp s = .next t) :
    Stays σ t := by
  rw [← Host.Outcome.next.inj e]
  iterate 40 (try any_goals first
    | with_reducible (first | exact w | assumption | apply State.injectDp_stays | refine Stays.ite (fun _ => ?_) (fun _ => ?_)
                            | refine Stays.ofSnd (by assumption) ?_ | refine Stays.ofFst (by assumption) ?_)
    | split | dsimp only | with_reducible refine Stays.upd ?_)

theorem execLdWbSet_stays {σ s t : State} (w : Stays σ s) (e : execLdWbSet s = .next t) :
    Stays σ t := by
  rw [← Host.Outcome.next.inj e]
  iterate 40 (try any_goals first
    | with_reducible (first | exact w | assumption | apply State.wbSet_stays | refine Stays.ite (fun _ => ?_) (fun _ => ?_)
                            | refine Stays.ofSnd (by assumption) ?_ | refine Stays.ofFst (by assumption) ?_)
    | split | dsimp only | with_reducible refine Stays.upd ?_)

theorem execLdDrain_stays {σ s t : State} (w : Stays σ s) (e : execLdDrain s = .next t) :
    Stays σ t := by
  rw [← Host.Outcome.next.inj e]
  iterate 40 (try any_goals first
    | with_reducible (first | exact w | assumption | apply State.ldDrain_stays | refine Stays.ite (fun _ => ?_) (fun _ => ?_)
                            | refine Stays.ofSnd (by assumption) ?_ | refine Stays.ofFst (by assumption) ?_)
    | split | dsimp only | with_reducible refine Stays.upd ?_)

theorem execIdleTimerExpiry_stays {σ s t : State} (w : Stays σ s) (fr : Nat) (e : execIdleTimerExpiry fr s = .next t) :
    Stays σ t := by
  rw [← Host.Outcome.next.inj e]
  iterate 40 (try any_goals first
    | with_reducible (first | exact w | assumption | apply State.toReady_stays | refine Stays.ite (fun _ => ?_) (fun _ => ?_)
                            | refine Stays.ofSnd (by assumption) ?_ | refine Stays.ofFst (by assumption) ?_)
    | split | dsimp only | with_reducible refine Stays.upd ?_)

theorem execAgeLimitExpiry_stays {σ s t : State} (w : Stays σ s) (fr : Nat) (e : execAgeLimitExpiry fr s = .next t) :
    Stays σ t := by
  rw [← Host.Outcome.next.inj e]
  iterate 40 (try any_goals first
    | with_reducible (first | exact w | assumption | apply State.toReady_stays | refine Stays.ite (fun _ => ?_) (fun _ => ?_)
                            | refine Stays.ofSnd (by assumption) ?_ | refine Stays.ofFst (by assumption) ?_)
    | split | dsimp only | with_reducible refine Stays.upd ?_)

theorem execLdProbeRead_stays {σ s t : State} (w : Stays σ s) (e : execLdProbeRead s = .next t) :
    Stays σ t := by
  rw [← Host.Outcome.next.inj e]
  iterate 40 (try any_goals first
    | with_reducible (first | exact w | assumption | apply State.ldProbe_stays | refine Stays.ite (fun _ => ?_) (fun _ => ?_)
                            | refine Stays.ofSnd (by assumption) ?_ | refine Stays.ofFst (by assumption) ?_)
    | split | dsimp only | with_reducible refine Stays.upd ?_)

theorem execSqTailDoorbell_stays {σ s t : State} (w : Stays σ s) (f : Func) (q : Nat) (val : W32) (e : execSqTailDoorbell f q val s = .next t) :
    Stays σ t := by
  rw [← Host.Outcome.next.inj e]
  iterate 40 (try any_goals first
    | with_reducible (first | exact w | assumption | apply State.bump_stays | apply State.tailDoorbell_stays
                            | refine Stays.ite (fun _ => ?_) (fun _ => ?_) | refine Stays.ofSnd (by assumption) ?_
                            | refine Stays.ofFst (by assumption) ?_)
    | split | dsimp only | with_reducible refine Stays.upd ?_)

theorem execCqHeadDoorbell_stays {σ s t : State} (w : Stays σ s) (f : Func) (q : Nat) (val : W32) (e : execCqHeadDoorbell f q val s = .next t) :
    Stays σ t := by
  rw [← Host.Outcome.next.inj e]
  iterate 40 (try any_goals first
    | with_reducible (first | exact w | assumption | apply State.bump_stays | apply State.headDoorbell_stays
                            | refine Stays.ite (fun _ => ?_) (fun _ => ?_) | refine Stays.ofSnd (by assumption) ?_
                            | refine Stays.ofFst (by assumption) ?_)
    | split | dsimp only | with_reducible refine Stays.upd ?_)

theorem execInlineSlotWrite_stays {σ s t : State} (w : Stays σ s) (f : Func) (q off : Nat) (data : List Byte) (e : execInlineSlotWrite f q off data s = .next t) :
    Stays σ t := by
  rw [← Host.Outcome.next.inj e]
  iterate 40 (try any_goals first
    | with_reducible (first | exact w | assumption | apply State.inlWrite_stays | refine Stays.ite (fun _ => ?_) (fun _ => ?_)
                            | refine Stays.ofSnd (by assumption) ?_ | refine Stays.ofFst (by assumption) ?_)
    | split | dsimp only | with_reducible refine Stays.upd ?_)

theorem execInlFlush_stays {σ s t : State} (w : Stays σ s) (f : Func) (q : Nat) (e : execInlFlush f q s = .next t) :
    Stays σ t := by
  rw [← Host.Outcome.next.inj e]
  iterate 40 (try any_goals first
    | with_reducible (first | exact w | assumption | apply State.bump_stays | apply State.inlFlush_stays
                            | refine Stays.ite (fun _ => ?_) (fun _ => ?_) | refine Stays.ofSnd (by assumption) ?_
                            | refine Stays.ofFst (by assumption) ?_)
    | split | dsimp only | with_reducible refine Stays.upd ?_)

theorem execHeadReportTimer_stays {σ s t : State} (w : Stays σ s) (f : Func) (q : Nat) (e : execHeadReportTimer f q s = .next t) :
    Stays σ t := by
  rw [← Host.Outcome.next.inj e]
  iterate 40 (try any_goals first
    | with_reducible (first | exact w | assumption | apply State.reportHead_stays | refine Stays.ite (fun _ => ?_) (fun _ => ?_)
                            | refine Stays.ofSnd (by assumption) ?_ | refine Stays.ofFst (by assumption) ?_)
    | split | dsimp only | with_reducible refine Stays.upd ?_)

theorem execSqEnable_stays {σ s t : State} (w : Stays σ s) (f : Func) (q : Nat) (e : execSqEnable f q s = .next t) :
    Stays σ t := by
  rw [← Host.Outcome.next.inj e]
  iterate 40 (try any_goals first
    | with_reducible (first | exact w | assumption | apply State.sqEnable_stays | refine Stays.ite (fun _ => ?_) (fun _ => ?_)
                            | refine Stays.ofSnd (by assumption) ?_ | refine Stays.ofFst (by assumption) ?_)
    | split | dsimp only | with_reducible refine Stays.upd ?_)

theorem execSqDisable_stays {σ s t : State} (w : Stays σ s) (f : Func) (q : Nat) (e : execSqDisable f q s = .next t) :
    Stays σ t := by
  rw [← Host.Outcome.next.inj e]
  iterate 40 (try any_goals first
    | with_reducible (first | exact w | assumption | apply State.sqDisable_stays | refine Stays.ite (fun _ => ?_) (fun _ => ?_)
                            | refine Stays.ofSnd (by assumption) ?_ | refine Stays.ofFst (by assumption) ?_)
    | split | dsimp only | with_reducible refine Stays.upd ?_)

theorem execRingDrainDone_stays {σ s t : State} (w : Stays σ s) (f : Func) (q : Nat) (e : execRingDrainDone f q s = .next t) :
    Stays σ t := by
  rw [← Host.Outcome.next.inj e]
  iterate 40 (try any_goals first
    | with_reducible (first | exact w | assumption | apply State.reportHead_stays | apply State.updSq_stays
                            | refine Stays.ite (fun _ => ?_) (fun _ => ?_) | refine Stays.ofSnd (by assumption) ?_
                            | refine Stays.ofFst (by assumption) ?_)
    | split | dsimp only | with_reducible refine Stays.upd ?_)

theorem execCqEnable_stays {σ s t : State} (w : Stays σ s) (f : Func) (q : Nat) (e : execCqEnable f q s = .next t) :
    Stays σ t := by
  rw [← Host.Outcome.next.inj e]
  iterate 40 (try any_goals first
    | with_reducible (first | exact w | assumption | apply State.cqEnable_stays | refine Stays.ite (fun _ => ?_) (fun _ => ?_)
                            | refine Stays.ofSnd (by assumption) ?_ | refine Stays.ofFst (by assumption) ?_)
    | split | dsimp only | with_reducible refine Stays.upd ?_)

theorem execCqDisable_stays {σ s t : State} (w : Stays σ s) (f : Func) (q : Nat) (e : execCqDisable f q s = .next t) :
    Stays σ t := by
  rw [← Host.Outcome.next.inj e]
  iterate 40 (try any_goals first
    | with_reducible (first | exact w | assumption | apply State.cqDisable_stays | refine Stays.ite (fun _ => ?_) (fun _ => ?_)
                            | refine Stays.ofSnd (by assumption) ?_ | refine Stays.ofFst (by assumption) ?_)
    | split | dsimp only | with_reducible refine Stays.upd ?_)

theorem execMsixUnmask_stays {σ s t : State} (w : Stays σ s) (f : Func) (vec : Nat) (e : execMsixUnmask f vec s = .next t) :
    Stays σ t := by
  rw [← Host.Outcome.next.inj e]
  iterate 40 (try any_goals first
    | with_reducible (first | exact w | assumption | apply State.setMsix_stays | apply State.unmaskSend_stays
                            | refine Stays.ite (fun _ => ?_) (fun _ => ?_) | refine Stays.ofSnd (by assumption) ?_
                            | refine Stays.ofFst (by assumption) ?_)
    | split | dsimp only | with_reducible refine Stays.upd ?_)

theorem execCoalesceTimeout_stays {σ s t : State} (w : Stays σ s) (f : Func) (q : Nat) (e : execCoalesceTimeout f q s = .next t) :
    Stays σ t := by
  rw [← Host.Outcome.next.inj e]
  iterate 40 (try any_goals first
    | with_reducible (first | exact w | assumption | apply State.signal_stays | refine Stays.ite (fun _ => ?_) (fun _ => ?_)
                            | refine Stays.ofSnd (by assumption) ?_ | refine Stays.ofFst (by assumption) ?_)
    | split | dsimp only | with_reducible refine Stays.upd ?_)

theorem execCollectorDeposit_stays {σ s t : State} (w : Stays σ s) (e : execCollectorDeposit s = .next t) :
    Stays σ t := by
  rw [← Host.Outcome.next.inj e]
  iterate 40 (try any_goals first
    | with_reducible (first | exact w | assumption | apply State.grantDeposit_stays
                            | refine Stays.ite (fun _ => ?_) (fun _ => ?_) | refine Stays.ofSnd (by assumption) ?_
                            | refine Stays.ofFst (by assumption) ?_)
    | split | dsimp only | with_reducible refine Stays.upd ?_)

theorem execCompletionDrain_stays {σ s t : State} (w : Stays σ s) (e : execCompletionDrain s = .next t) :
    Stays σ t := by
  rw [← Host.Outcome.next.inj e]
  iterate 40 (try any_goals first
    | with_reducible (first | exact w | assumption | apply State.drainRing_stays | refine Stays.ite (fun _ => ?_) (fun _ => ?_)
                            | refine Stays.ofSnd (by assumption) ?_ | refine Stays.ofFst (by assumption) ?_)
    | split | dsimp only | with_reducible refine Stays.upd ?_)

theorem execCqOwnPoll_stays {σ s t : State} (w : Stays σ s) (f : Func) (q : Nat) (e : execCqOwnPoll f q s = .next t) :
    Stays σ t := by
  rw [← Host.Outcome.next.inj e]
  iterate 40 (try any_goals first
    | with_reducible (first | exact w | assumption | apply State.setCq_stays | apply State.tryRead_stays
                            | refine Stays.ite (fun _ => ?_) (fun _ => ?_) | refine Stays.ofSnd (by assumption) ?_
                            | refine Stays.ofFst (by assumption) ?_)
    | split | dsimp only | with_reducible refine Stays.upd ?_)

theorem execInlineStaleTimeout_stays {σ s t : State} (w : Stays σ s) (e : execInlineStaleTimeout s = .next t) :
    Stays σ t := by
  rw [← Host.Outcome.next.inj e]
  iterate 40 (try any_goals first
    | with_reducible (first | exact w | assumption | apply State.bump_stays | refine Stays.ite (fun _ => ?_) (fun _ => ?_)
                            | refine Stays.ofSnd (by assumption) ?_ | refine Stays.ofFst (by assumption) ?_)
    | split | dsimp only | with_reducible refine Stays.upd ?_)

theorem execCollectorPromoteTimeout_stays {σ s t : State} (w : Stays σ s) (e : execCollectorPromoteTimeout s = .next t) :
    Stays σ t := by
  rw [← Host.Outcome.next.inj e]
  iterate 40 (try any_goals first
    | with_reducible (first | exact w | assumption | apply State.bump_stays | refine Stays.ite (fun _ => ?_) (fun _ => ?_)
                            | refine Stays.ofSnd (by assumption) ?_ | refine Stays.ofFst (by assumption) ?_)
    | split | dsimp only | with_reducible refine Stays.upd ?_)

theorem execStallNoticeTimeout_stays {σ s t : State} (w : Stays σ s) (e : execStallNoticeTimeout s = .next t) :
    Stays σ t := by
  rw [← Host.Outcome.next.inj e]
  iterate 40 (try any_goals first
    | with_reducible (first | exact w | assumption | apply State.bump_stays | apply State.note_stays | apply State.setFlag_stays
                            | apply State.updCq_stays | refine Stays.ite (fun _ => ?_) (fun _ => ?_)
                            | refine Stays.ofSnd (by assumption) ?_ | refine Stays.ofFst (by assumption) ?_)
    | split | dsimp only | with_reducible refine Stays.upd ?_)

theorem execNoticeDrain_stays {σ s t : State} (w : Stays σ s) (e : execNoticeDrain s = .next t) :
    Stays σ t := by
  rw [← Host.Outcome.next.inj e]
  iterate 40 (try any_goals first
    | with_reducible (first | exact w | assumption | apply State.writeCq_stays | refine Stays.ite (fun _ => ?_) (fun _ => ?_)
                            | refine Stays.ofSnd (by assumption) ?_ | refine Stays.ofFst (by assumption) ?_)
    | split | dsimp only | with_reducible refine Stays.upd ?_)

theorem execHoldingRecheck_stays {σ s t : State} (w : Stays σ s) (st : Nat) (e : execHoldingRecheck st s = .next t) :
    Stays σ t := by
  rw [← Host.Outcome.next.inj e]
  iterate 40 (try any_goals first
    | with_reducible (first | exact w | assumption | apply State.holdCheck_stays | refine Stays.ite (fun _ => ?_) (fun _ => ?_)
                            | refine Stays.ofSnd (by assumption) ?_ | refine Stays.ofFst (by assumption) ?_)
    | split | dsimp only | with_reducible refine Stays.upd ?_)

theorem execCreditWaitGrant_stays {σ s t : State} (w : Stays σ s) (e : execCreditWaitGrant s = .next t) :
    Stays σ t := by
  rw [← Host.Outcome.next.inj e]
  iterate 40 (try any_goals first
    | with_reducible (first | exact w | assumption | apply State.bump_stays | apply State.tlAnswer_stays
                            | refine Stays.ite (fun _ => ?_) (fun _ => ?_) | refine Stays.ofSnd (by assumption) ?_
                            | refine Stays.ofFst (by assumption) ?_)
    | split | dsimp only | with_reducible refine Stays.upd ?_)

theorem execCreditWaitTimeout_stays {σ s t : State} (w : Stays σ s) (e : execCreditWaitTimeout s = .next t) :
    Stays σ t := by
  rw [← Host.Outcome.next.inj e]
  iterate 40 (try any_goals first
    | with_reducible (first | exact w | assumption | apply State.bump_stays | apply State.tlAnswer_stays
                            | refine Stays.ite (fun _ => ?_) (fun _ => ?_) | refine Stays.ofSnd (by assumption) ?_
                            | refine Stays.ofFst (by assumption) ?_)
    | split | dsimp only | with_reducible refine Stays.upd ?_)

theorem execLdWbClear_stays {σ s t : State} (w : Stays σ s) (e : execLdWbClear s = .next t) :
    Stays σ t := by
  rw [← Host.Outcome.next.inj e]
  iterate 40 (try any_goals first
    | with_reducible (first | exact w | assumption | apply State.wbClear_stays | refine Stays.ite (fun _ => ?_) (fun _ => ?_)
                            | refine Stays.ofSnd (by assumption) ?_ | refine Stays.ofFst (by assumption) ?_)
    | split | dsimp only | with_reducible refine Stays.upd ?_)

theorem execCeilingRecompute_stays {σ s t : State} (h : Stays σ s) (e : execCeilingRecompute s = .next t) :
    Stays σ t := by
  unfold execCeilingRecompute at e
  rw [← Host.Outcome.next.inj e]
  iterate 40 (try any_goals first
    | with_reducible (first | exact h | assumption | apply State.tlUpdate_stays | apply State.lrnStore_stays
                            | refine Stays.ite (fun _ => ?_) (fun _ => ?_) | refine Stays.ofSnd (by assumption) ?_
                            | refine Stays.ofFst (by assumption) ?_)
    | split | dsimp only | with_reducible refine Stays.upd ?_)

theorem execLearnWindow_stays {σ s t : State} (h : Stays σ s) (m : LearnSample) (e : execLearnWindow m s = .next t) :
    Stays σ t := by
  unfold execLearnWindow at e
  rw [← Host.Outcome.next.inj e]
  iterate 40 (try any_goals first
    | with_reducible (first | exact h | assumption | apply State.setFlag_stays | apply State.tlUpdate_stays
                            | apply State.lrnStore_stays | apply State.lrnPublish_stays | apply State.lrnTake_stays
                            | refine Stays.ite (fun _ => ?_) (fun _ => ?_) | refine Stays.ofSnd (by assumption) ?_
                            | refine Stays.ofFst (by assumption) ?_)
    | split | dsimp only | with_reducible refine Stays.upd ?_)

theorem execRelearnModel_stays {σ s t : State} (w : Stays σ s) (e : execRelearnModel s = .next t) :
    Stays σ t := by
  rw [← Host.Outcome.next.inj e]
  iterate 40 (try any_goals first
    | with_reducible (first | exact w | assumption | apply State.relearn_stays | refine Stays.ite (fun _ => ?_) (fun _ => ?_)
                            | refine Stays.ofSnd (by assumption) ?_ | refine Stays.ofFst (by assumption) ?_)
    | split | dsimp only | with_reducible refine Stays.upd ?_)

theorem execDeadlineExpiry_stays {σ s t : State} (w : Stays σ s) (port qp cid : Nat) (e : execDeadlineExpiry port qp cid s = .next t) :
    Stays σ t := by
  rw [← Host.Outcome.next.inj e]
  iterate 40 (try any_goals first
    | with_reducible (first | exact w | assumption | apply State.bump_stays | apply State.mpReplace_stays
                            | apply State.startRecon_stays | refine Stays.ite (fun _ => ?_) (fun _ => ?_)
                            | refine Stays.ofSnd (by assumption) ?_ | refine Stays.ofFst (by assumption) ?_)
    | split | dsimp only | with_reducible refine Stays.upd ?_)

theorem execStatePageTimer_stays {σ s t : State} (w : Stays σ s) (arr page : Nat) (e : execStatePageTimer arr page s = .next t) :
    Stays σ t := by
  rw [← Host.Outcome.next.inj e]
  iterate 40 (try any_goals first
    | with_reducible (first | exact w | assumption | apply State.pageGo_stays | refine Stays.ite (fun _ => ?_) (fun _ => ?_)
                            | refine Stays.ofSnd (by assumption) ?_ | refine Stays.ofFst (by assumption) ?_)
    | split | dsimp only | with_reducible refine Stays.upd ?_)

theorem execCopyBlockTimer_stays {σ s t : State} (w : Stays σ s) (arr blk : Nat) (e : execCopyBlockTimer arr blk s = .next t) :
    Stays σ t := by
  rw [← Host.Outcome.next.inj e]
  iterate 40 (try any_goals first
    | with_reducible (first | exact w | assumption | apply State.copyAsk_stays | refine Stays.ite (fun _ => ?_) (fun _ => ?_)
                            | refine Stays.ofSnd (by assumption) ?_ | refine Stays.ofFst (by assumption) ?_)
    | split | dsimp only | with_reducible refine Stays.upd ?_)

theorem execRebuildCheckpoint_stays {σ s t : State} (w : Stays σ s) (arr : Nat) (e : execRebuildCheckpoint arr s = .next t) :
    Stays σ t := by
  rw [← Host.Outcome.next.inj e]
  iterate 40 (try any_goals first
    | with_reducible (first | exact w | assumption | apply State.addTask_stays | refine Stays.ite (fun _ => ?_) (fun _ => ?_)
                            | refine Stays.ofSnd (by assumption) ?_ | refine Stays.ofFst (by assumption) ?_)
    | split | dsimp only | with_reducible refine Stays.upd ?_)

theorem execScrubCheckpoint_stays {σ s t : State} (w : Stays σ s) (arr : Nat) (e : execScrubCheckpoint arr s = .next t) :
    Stays σ t := by
  rw [← Host.Outcome.next.inj e]
  iterate 40 (try any_goals first
    | with_reducible (first | exact w | assumption | apply State.scrubWord_stays | apply State.setScrub_stays
                            | refine Stays.ite (fun _ => ?_) (fun _ => ?_) | refine Stays.ofSnd (by assumption) ?_
                            | refine Stays.ofFst (by assumption) ?_)
    | split | dsimp only | with_reducible refine Stays.upd ?_)

theorem execVolumeDeleteProceed_stays {σ s t : State} (w : Stays σ s) (vol : Nat) (e : execVolumeDeleteProceed vol s = .next t) :
    Stays σ t := by
  rw [← Host.Outcome.next.inj e]
  iterate 40 (try any_goals first
    | with_reducible (first | exact w | assumption | apply State.addTask_stays | apply State.volFramesGo_stays
                            | refine Stays.ite (fun _ => ?_) (fun _ => ?_) | refine Stays.ofSnd (by assumption) ?_
                            | refine Stays.ofFst (by assumption) ?_)
    | split | dsimp only | with_reducible refine Stays.upd ?_)

theorem execMwStartCommand_stays {σ s t : State} (w : Stays σ s) (brkFb : Bool) (e : execMwStartCommand brkFb s = .next t) :
    Stays σ t := by
  rw [← Host.Outcome.next.inj e]
  iterate 40 (try any_goals first
    | with_reducible (first | exact w | assumption | apply State.mwTell_stays | apply State.chopTest_stays | apply State.mwAsk_stays
                            | apply State.mwStart_stays | apply State.setFlag_stays
                            | refine Stays.ite (fun _ => ?_) (fun _ => ?_) | refine Stays.ofSnd (by assumption) ?_
                            | refine Stays.ofFst (by assumption) ?_)
    | split | dsimp only | with_reducible refine Stays.upd ?_)

theorem execMwStopCommand_stays {σ s t : State} (w : Stays σ s) (e : execMwStopCommand s = .next t) :
    Stays σ t := by
  rw [← Host.Outcome.next.inj e]
  iterate 40 (try any_goals first
    | with_reducible (first | exact w | assumption | apply State.mwTell_stays | apply State.mwAsk_stays | apply State.mwStop_stays
                            | refine Stays.ite (fun _ => ?_) (fun _ => ?_) | refine Stays.ofSnd (by assumption) ?_
                            | refine Stays.ofFst (by assumption) ?_)
    | split | dsimp only | with_reducible refine Stays.upd ?_)

theorem execMwClear_stays {σ s t : State} (w : Stays σ s) (brkFb : Bool) (e : execMwClear brkFb s = .next t) :
    Stays σ t := by
  rw [← Host.Outcome.next.inj e]
  iterate 40 (try any_goals first
    | with_reducible (first | exact w | assumption | apply State.mwTell_stays | apply State.mwClear_stays | refine Stays.ite (fun _ => ?_) (fun _ => ?_)
                            | refine Stays.ofSnd (by assumption) ?_ | refine Stays.ofFst (by assumption) ?_)
    | split | dsimp only | with_reducible refine Stays.upd ?_)

theorem execMwControlPeriod_stays {σ s t : State} (w : Stays σ s) (m : MwSample) (e : execMwControlPeriod m s = .next t) :
    Stays σ t := by
  rw [← Host.Outcome.next.inj e]
  iterate 40 (try any_goals first
    | with_reducible (first | exact w | assumption | apply State.mwPeriodStep_stays
                            | refine Stays.ite (fun _ => ?_) (fun _ => ?_) | refine Stays.ofSnd (by assumption) ?_
                            | refine Stays.ofFst (by assumption) ?_)
    | split | dsimp only | with_reducible refine Stays.upd ?_)

theorem execPeakTrip_stays {σ s t : State} (h : Stays σ s) (p : PeakPin) (e : execPeakTrip p s = .next t) :
    Stays σ t := by
  unfold execPeakTrip at e
  rw [← Host.Outcome.next.inj e]
  iterate 40 (try any_goals first
    | with_reducible (first | exact h | assumption | apply State.peakTrip_stays | refine Stays.ite (fun _ => ?_) (fun _ => ?_)
                            | refine Stays.ofSnd (by assumption) ?_ | refine Stays.ofFst (by assumption) ?_)
    | split | dsimp only | with_reducible refine Stays.upd ?_)

theorem execHubSample_stays {σ s t : State} (h : Stays σ s) (pinUv : Nat) (brkFb : Bool) (e : execHubSample pinUv brkFb s = .next t) :
    Stays σ t := by
  unfold execHubSample at e
  rw [← Host.Outcome.next.inj e]
  iterate 40 (try any_goals first
    | with_reducible (first | exact h | assumption | apply State.setReg_stays | apply State.hubAct_stays
                            | refine Stays.ite (fun _ => ?_) (fun _ => ?_) | refine Stays.ofSnd (by assumption) ?_
                            | refine Stays.ofFst (by assumption) ?_)
    | split | dsimp only | with_reducible refine Stays.upd ?_)

theorem execChopOvFilterExpiry_stays {σ s t : State} (h : Stays σ s) (brkFb : Bool) (e : execChopOvFilterExpiry brkFb s = .next t) :
    Stays σ t := by
  unfold execChopOvFilterExpiry at e
  rw [← Host.Outcome.next.inj e]
  iterate 40 (try any_goals first
    | with_reducible (first | exact h | assumption | apply State.note_stays | apply State.chopFaultGo_stays
                            | refine Stays.ite (fun _ => ?_) (fun _ => ?_) | refine Stays.ofSnd (by assumption) ?_
                            | refine Stays.ofFst (by assumption) ?_)
    | split | dsimp only | with_reducible refine Stays.upd ?_)

theorem execShortExitTimer_stays {σ s t : State} (h : Stays σ s) (e : execShortExitTimer s = .next t) :
    Stays σ t := by
  unfold execShortExitTimer at e
  rw [← Host.Outcome.next.inj e]
  iterate 40 (try any_goals first
    | with_reducible (first | exact h | assumption | apply State.mwGo_stays | apply State.mwTell_stays
                            | refine Stays.ite (fun _ => ?_) (fun _ => ?_) | refine Stays.ofSnd (by assumption) ?_
                            | refine Stays.ofFst (by assumption) ?_)
    | split | dsimp only | with_reducible refine Stays.upd ?_)

theorem execAlignTimer_stays {σ s t : State} (h : Stays σ s) (e : execAlignTimer s = .next t) :
    Stays σ t := by
  unfold execAlignTimer at e
  rw [← Host.Outcome.next.inj e]
  iterate 40 (try any_goals first
    | with_reducible (first | exact h | assumption | apply State.setFlag_stays | apply State.mwGo_stays
                            | apply State.mwTell_stays | apply State.mwPreset_stays | apply State.alignEnd_stays
                            | refine Stays.ite (fun _ => ?_) (fun _ => ?_) | refine Stays.ofSnd (by assumption) ?_
                            | refine Stays.ofFst (by assumption) ?_)
    | split | dsimp only | with_reducible refine Stays.upd ?_)

theorem execRampTimeout_stays {σ s t : State} (h : Stays σ s) (e : execRampTimeout s = .next t) :
    Stays σ t := by
  unfold execRampTimeout at e
  rw [← Host.Outcome.next.inj e]
  iterate 40 (try any_goals first
    | with_reducible (first | exact h | assumption | apply State.mwGo_stays | apply State.mwTell_stays
                            | apply State.mwPreset_stays | apply State.lockHit_stays
                            | refine Stays.ite (fun _ => ?_) (fun _ => ?_) | refine Stays.ofSnd (by assumption) ?_
                            | refine Stays.ofFst (by assumption) ?_)
    | split | dsimp only | with_reducible refine Stays.upd ?_)

theorem execCatchObsTimer_stays {σ s t : State} (h : Stays σ s) (e : execCatchObsTimer s = .next t) :
    Stays σ t := by
  unfold execCatchObsTimer at e
  rw [← Host.Outcome.next.inj e]
  iterate 40 (try any_goals first
    | with_reducible (first | exact h | assumption | apply State.bump_stays | apply State.setGates_stays
                            | apply State.mwGo_stays | apply State.mwTell_stays | refine Stays.ite (fun _ => ?_) (fun _ => ?_)
                            | refine Stays.ofSnd (by assumption) ?_ | refine Stays.ofFst (by assumption) ?_)
    | split | dsimp only | with_reducible refine Stays.upd ?_)

theorem execLockConfirm_stays {σ s t : State} (h : Stays σ s) (e : execLockConfirm s = .next t) :
    Stays σ t := by
  unfold execLockConfirm at e
  rw [← Host.Outcome.next.inj e]
  iterate 40 (try any_goals first
    | with_reducible (first | exact h | assumption | apply State.setFlag_stays | apply State.mwMove_stays
                            | refine Stays.ite (fun _ => ?_) (fun _ => ?_) | refine Stays.ofSnd (by assumption) ?_
                            | refine Stays.ofFst (by assumption) ?_)
    | split | dsimp only | with_reducible refine Stays.upd ?_)

theorem execCatchBrakeWait_stays {σ s t : State} (h : Stays σ s) (e : execCatchBrakeWait s = .next t) :
    Stays σ t := by
  unfold execCatchBrakeWait at e
  rw [← Host.Outcome.next.inj e]
  iterate 40 (try any_goals first
    | with_reducible (first | exact h | assumption | apply State.mwSt_stays | refine Stays.ite (fun _ => ?_) (fun _ => ?_)
                            | refine Stays.ofSnd (by assumption) ?_ | refine Stays.ofFst (by assumption) ?_)
    | split | dsimp only | with_reducible refine Stays.upd ?_)

theorem execHoldEntryTimer_stays {σ s t : State} (w : Stays σ s) (e : execHoldEntryTimer s = .next t) :
    Stays σ t := by
  rw [← Host.Outcome.next.inj e]
  iterate 40 (try any_goals first
    | with_reducible (first | exact w | assumption | apply State.mwTell_stays | apply State.mwGo_stays | refine Stays.ite (fun _ => ?_) (fun _ => ?_)
                            | refine Stays.ofSnd (by assumption) ?_ | refine Stays.ofFst (by assumption) ?_)
    | split | dsimp only | with_reducible refine Stays.upd ?_)

theorem execLockedRotor_stays {σ s t : State} (h : Stays σ s) (e : execLockedRotor s = .next t) :
    Stays σ t := by
  unfold execLockedRotor at e
  rw [← Host.Outcome.next.inj e]
  iterate 40 (try any_goals first
    | with_reducible (first | exact h | assumption | apply State.mwTell_stays | apply State.lockHit_stays
                            | refine Stays.ite (fun _ => ?_) (fun _ => ?_) | refine Stays.ofSnd (by assumption) ?_
                            | refine Stays.ofFst (by assumption) ?_)
    | split | dsimp only | with_reducible refine Stays.upd ?_)

theorem execLockRetryExpiry_stays {σ s t : State} (h : Stays σ s) (e : execLockRetryExpiry s = .next t) :
    Stays σ t := by
  unfold execLockRetryExpiry at e
  rw [← Host.Outcome.next.inj e]
  iterate 40 (try any_goals first
    | with_reducible (first | exact h | assumption | apply State.setFlag_stays | apply State.retryStart_stays
                            | refine Stays.ite (fun _ => ?_) (fun _ => ?_) | refine Stays.ofSnd (by assumption) ?_
                            | refine Stays.ofFst (by assumption) ?_)
    | split | dsimp only | with_reducible refine Stays.upd ?_)

theorem execRetryCountReset_stays {σ s t : State} (w : Stays σ s) (e : execRetryCountReset s = .next t) :
    Stays σ t := by
  rw [← Host.Outcome.next.inj e]
  iterate 40 (try any_goals first
    | with_reducible (first | exact w | assumption | apply State.setFld_stays | refine Stays.ite (fun _ => ?_) (fun _ => ?_)
                            | refine Stays.ofSnd (by assumption) ?_ | refine Stays.ofFst (by assumption) ?_)
    | split | dsimp only | with_reducible refine Stays.upd ?_)

theorem execEncoderIndex_stays {σ s t : State} (h : Stays σ s) (ab : List Nat) (e : execEncoderIndex ab s = .next t) :
    Stays σ t := by
  unfold execEncoderIndex at e
  rw [← Host.Outcome.next.inj e]
  iterate 40 (try any_goals first
    | with_reducible (first | exact h | assumption | apply State.setFlag_stays | apply State.mwMove_stays
                            | apply State.encSense_stays | apply State.indexGo_stays
                            | refine Stays.ite (fun _ => ?_) (fun _ => ?_) | refine Stays.ofSnd (by assumption) ?_
                            | refine Stays.ofFst (by assumption) ?_)
    | split | dsimp only | with_reducible refine Stays.upd ?_)

theorem execFeedbackLost_stays {σ s t : State} (h : Stays σ s) (e : execFeedbackLost s = .next t) :
    Stays σ t := by
  unfold execFeedbackLost at e
  rw [← Host.Outcome.next.inj e]
  iterate 40 (try any_goals first
    | with_reducible (first | exact h | assumption | apply State.fbLost_stays | refine Stays.ite (fun _ => ?_) (fun _ => ?_)
                            | refine Stays.ofSnd (by assumption) ?_ | refine Stays.ofFst (by assumption) ?_)
    | split | dsimp only | with_reducible refine Stays.upd ?_)

theorem execSpdInTimeout_stays {σ s t : State} (h : Stays σ s) (e : execSpdInTimeout s = .next t) :
    Stays σ t := by
  unfold execSpdInTimeout at e
  rw [← Host.Outcome.next.inj e]
  iterate 40 (try any_goals first
    | with_reducible (first | exact h | assumption | apply State.setFlag_stays | refine Stays.ite (fun _ => ?_) (fun _ => ?_)
                            | refine Stays.ofSnd (by assumption) ?_ | refine Stays.ofFst (by assumption) ?_)
    | split | dsimp only | with_reducible refine Stays.upd ?_)

theorem execMwComm_stays {σ s t : State} (w : Stays σ s) (e : execMwComm s = .next t) :
    Stays σ t := by
  rw [← Host.Outcome.next.inj e]
  iterate 40 (try any_goals first
    | with_reducible (first | exact w | assumption | apply State.mwCommGo_stays | refine Stays.ite (fun _ => ?_) (fun _ => ?_)
                            | refine Stays.ofSnd (by assumption) ?_ | refine Stays.ofFst (by assumption) ?_)
    | split | dsimp only | with_reducible refine Stays.upd ?_)

theorem execMwAbort_stays {σ s t : State} (w : Stays σ s) (e : execMwAbort s = .next t) :
    Stays σ t := by
  rw [← Host.Outcome.next.inj e]
  iterate 40 (try any_goals first
    | with_reducible (first | exact w | assumption | apply State.mwAbort_stays | refine Stays.ite (fun _ => ?_) (fun _ => ?_)
                            | refine Stays.ofSnd (by assumption) ?_ | refine Stays.ofFst (by assumption) ?_)
    | split | dsimp only | with_reducible refine Stays.upd ?_)

theorem execCommissionStepDone_stays {σ s t : State} (h : Stays σ s) (m : CommMeas) (e : execCommissionStepDone m s = .next t) :
    Stays σ t := by
  unfold execCommissionStepDone at e
  rw [← Host.Outcome.next.inj e]
  iterate 40 (try any_goals first
    | with_reducible (first | exact h | assumption | apply State.kwStore_stays | apply State.mwSt_stays
                            | apply State.mwGo_stays | apply State.mwTell_stays | apply State.commEnd_stays
                            | apply State.commRecord_stays | apply State.commDrive_stays
                            | refine Stays.ite (fun _ => ?_) (fun _ => ?_) | refine Stays.ofSnd (by assumption) ?_
                            | refine Stays.ofFst (by assumption) ?_)
    | split | dsimp only | with_reducible refine Stays.upd ?_)

theorem execGaForget_stays {σ s t : State} (w : Stays σ s) (e : execGaForget s = .next t) :
    Stays σ t := by
  rw [← Host.Outcome.next.inj e]
  iterate 40 (try any_goals first
    | with_reducible (first | exact w | assumption | apply State.gaForget_stays | refine Stays.ite (fun _ => ?_) (fun _ => ?_)
                            | refine Stays.ofSnd (by assumption) ?_ | refine Stays.ofFst (by assumption) ?_)
    | split | dsimp only | with_reducible refine Stays.upd ?_)

theorem execPackRemoval_stays {σ s t : State} (h : Stays σ s) (e : execPackRemoval s = .next t) :
    Stays σ t := by
  unfold execPackRemoval at e
  rw [← Host.Outcome.next.inj e]
  iterate 40 (try any_goals first
    | with_reducible (first | exact h | assumption | apply State.gaSt_stays | apply State.gaRemove_stays
                            | refine Stays.ite (fun _ => ?_) (fun _ => ?_) | refine Stays.ofSnd (by assumption) ?_
                            | refine Stays.ofFst (by assumption) ?_)
    | split | dsimp only | with_reducible refine Stays.upd ?_)

theorem execGaugeSlowPoll_stays {σ s t : State} (h : Stays σ s) (idUv ntcUv : Nat) (e : execGaugeSlowPoll idUv ntcUv s = .next t) :
    Stays σ t := by
  unfold execGaugeSlowPoll at e
  rw [← Host.Outcome.next.inj e]
  iterate 40 (try any_goals first
    | with_reducible (first | exact h | assumption | apply State.setFlag_stays | apply State.showInt_stays
                            | apply State.gaSt_stays | apply State.gaRemove_stays
                            | refine Stays.ite (fun _ => ?_) (fun _ => ?_) | refine Stays.ofSnd (by assumption) ?_
                            | refine Stays.ofFst (by assumption) ?_)
    | split | dsimp only | with_reducible refine Stays.upd ?_)

theorem execPackInsertion_stays {σ s t : State} (h : Stays σ s) (code : Nat) (e : execPackInsertion code s = .next t) :
    Stays σ t := by
  unfold execPackInsertion at e
  rw [← Host.Outcome.next.inj e]
  iterate 40 (try any_goals first
    | with_reducible (first | exact h | assumption | apply State.tlUpdate_stays | apply State.gaPlaced_stays
                            | refine Stays.ite (fun _ => ?_) (fun _ => ?_) | refine Stays.ofSnd (by assumption) ?_
                            | refine Stays.ofFst (by assumption) ?_)
    | split | dsimp only | with_reducible refine Stays.upd ?_)

theorem execGaugeSettled_stays {σ s t : State} (w : Stays σ s) (e : execGaugeSettled s = .next t) :
    Stays σ t := by
  rw [← Host.Outcome.next.inj e]
  iterate 40 (try any_goals first
    | with_reducible (first | exact w | assumption | apply State.gaSt_stays | apply State.gaStep5_stays
                            | refine Stays.ite (fun _ => ?_) (fun _ => ?_) | refine Stays.ofSnd (by assumption) ?_
                            | refine Stays.ofFst (by assumption) ?_)
    | split | dsimp only | with_reducible refine Stays.upd ?_)

theorem execGaugeSample_stays {σ s t : State} (w : Stays σ s) (m : GaSample) (e : execGaugeSample m s = .next t) :
    Stays σ t := by
  rw [← Host.Outcome.next.inj e]
  iterate 40 (try any_goals first
    | with_reducible (first | exact w | assumption | apply State.gaRun_stays | apply State.gaStep2_stays
                            | apply State.gaTake_stays | refine Stays.ite (fun _ => ?_) (fun _ => ?_)
                            | refine Stays.ofSnd (by assumption) ?_ | refine Stays.ofFst (by assumption) ?_)
    | split | dsimp only | with_reducible refine Stays.upd ?_)

theorem execGaugeOffsetZero_stays {σ s t : State} (w : Stays σ s) (e : execGaugeOffsetZero s = .next t) :
    Stays σ t := by
  rw [← Host.Outcome.next.inj e]
  iterate 40 (try any_goals first
    | with_reducible (first | exact w | assumption | apply State.gaSt_stays | refine Stays.ite (fun _ => ?_) (fun _ => ?_)
                            | refine Stays.ofSnd (by assumption) ?_ | refine Stays.ofFst (by assumption) ?_)
    | split | dsimp only | with_reducible refine Stays.upd ?_)

theorem execEpochHourClose_stays {σ s t : State} (w : Stays σ s) (e : execEpochHourClose s = .next t) :
    Stays σ t := by
  rw [← Host.Outcome.next.inj e]
  iterate 40 (try any_goals first
    | with_reducible (first | exact w | assumption | apply State.alClose_stays | refine Stays.ite (fun _ => ?_) (fun _ => ?_)
                            | refine Stays.ofSnd (by assumption) ?_ | refine Stays.ofFst (by assumption) ?_)
    | split | dsimp only | with_reducible refine Stays.upd ?_)

theorem execAlmanacCheckpoint_stays {σ s t : State} (w : Stays σ s) (e : execAlmanacCheckpoint s = .next t) :
    Stays σ t := by
  rw [← Host.Outcome.next.inj e]
  iterate 40 (try any_goals first
    | with_reducible (first | exact w | assumption | apply State.alCheckpoint_stays
                            | refine Stays.ite (fun _ => ?_) (fun _ => ?_) | refine Stays.ofSnd (by assumption) ?_
                            | refine Stays.ofFst (by assumption) ?_)
    | split | dsimp only | with_reducible refine Stays.upd ?_)

theorem execConditionCloseDelay_stays {σ s t : State} (w : Stays σ s) (e : execConditionCloseDelay s = .next t) :
    Stays σ t := by
  rw [← Host.Outcome.next.inj e]
  iterate 40 (try any_goals first
    | with_reducible (first | exact w | assumption | apply State.alClose_stays | refine Stays.ite (fun _ => ?_) (fun _ => ?_)
                            | refine Stays.ofSnd (by assumption) ?_ | refine Stays.ofFst (by assumption) ?_)
    | split | dsimp only | with_reducible refine Stays.upd ?_)

theorem execRepeatFlush_stays {σ s t : State} (w : Stays σ s) (e : execRepeatFlush s = .next t) :
    Stays σ t := by
  rw [← Host.Outcome.next.inj e]
  iterate 40 (try any_goals first
    | with_reducible (first | exact w | assumption | apply State.alFlushReps_stays
                            | refine Stays.ite (fun _ => ?_) (fun _ => ?_) | refine Stays.ofSnd (by assumption) ?_
                            | refine Stays.ofFst (by assumption) ?_)
    | split | dsimp only | with_reducible refine Stays.upd ?_)

theorem execAlmanacEventTake_stays {σ s t : State} (w : Stays σ s) (e : execAlmanacEventTake s = .next t) :
    Stays σ t := by
  rw [← Host.Outcome.next.inj e]
  iterate 40 (try any_goals first
    | with_reducible (first | exact w | assumption | apply State.alTake_stays | apply State.note_stays
                            | refine Stays.ite (fun _ => ?_) (fun _ => ?_) | refine Stays.ofSnd (by assumption) ?_
                            | refine Stays.ofFst (by assumption) ?_)
    | split | dsimp only | with_reducible refine Stays.upd ?_)

theorem execAlmanacSnapshot_stays {σ s t : State} (w : Stays σ s) (slot : Nat) (e : execAlmanacSnapshot slot s = .next t) :
    Stays σ t := by
  rw [← Host.Outcome.next.inj e]
  iterate 40 (try any_goals first
    | with_reducible (first | exact w | assumption | apply State.alSnap_stays | refine Stays.ite (fun _ => ?_) (fun _ => ?_)
                            | refine Stays.ofSnd (by assumption) ?_ | refine Stays.ofFst (by assumption) ?_)
    | split | dsimp only | with_reducible refine Stays.upd ?_)

theorem execMgtSlotWrite_stays {σ s t : State} (w : Stays σ s) (slot : Nat) (e : execMgtSlotWrite slot s = .next t) :
    Stays σ t := by
  rw [← Host.Outcome.next.inj e]
  iterate 40 (try any_goals first
    | with_reducible (first | exact w | assumption | apply State.mgtSnap_stays | refine Stays.ite (fun _ => ?_) (fun _ => ?_)
                            | refine Stays.ofSnd (by assumption) ?_ | refine Stays.ofFst (by assumption) ?_)
    | split | dsimp only | with_reducible refine Stays.upd ?_)

theorem execMgtTransaction_stays {σ s t : State} (w : Stays σ s) (ptr : Nat) (wr : List Byte) (rdLen : Nat) (e : execMgtTransaction ptr wr rdLen s = .next t) :
    Stays σ t := by
  rw [← Host.Outcome.next.inj e]
  iterate 40 (try any_goals first
    | with_reducible (first | exact w | assumption | apply State.mgtSnap_stays | apply State.put_stays
                            | refine Stays.ite (fun _ => ?_) (fun _ => ?_) | refine Stays.ofSnd (by assumption) ?_
                            | refine Stays.ofFst (by assumption) ?_)
    | split | dsimp only | with_reducible refine Stays.upd ?_)

theorem execKeepLowVoltage_stays {σ s t : State} (w : Stays σ s) (mv : Nat) (e : execKeepLowVoltage mv s = .next t) :
    Stays σ t := by
  rw [← Host.Outcome.next.inj e]
  refine Stays.ite (fun _ => State.setFlag_stays (w.trans ?_) _ _ _) (fun _ => w)
  exact ⟨rfl, rfl, id, id, id, List.prefix_refl _, Nat.le_refl _, Nat.le_refl _, fun _ => ⟨rfl, rfl⟩⟩

theorem execNonceExpiry_stays {σ s t : State} (w : Stays σ s) (e : execNonceExpiry s = .next t) :
    Stays σ t := by
  rw [← Host.Outcome.next.inj e]
  iterate 40 (try any_goals first
    | with_reducible (first | exact w | assumption | refine Stays.ite (fun _ => ?_) (fun _ => ?_)
                            | refine Stays.ofSnd (by assumption) ?_ | refine Stays.ofFst (by assumption) ?_)
    | split | dsimp only | with_reducible refine Stays.upd ?_)

theorem execScFillReturn_stays {σ s t : State} (h : Stays σ s) (fill : ScFill) (e : execScFillReturn fill s = .next t) :
    Stays σ t := by
  unfold execScFillReturn at e
  rw [← Host.Outcome.next.inj e]
  iterate 40 (try any_goals first
    | with_reducible (first | exact h | assumption | apply State.scFill_stays | apply State.settle_stays
                            | apply State.scErr_stays | apply Stays.foldl | apply Stays.foldlSnd | apply Stays.foldlFst
                            | refine Stays.ite (fun _ => ?_) (fun _ => ?_) | refine Stays.ofSnd (by assumption) ?_
                            | refine Stays.ofFst (by assumption) ?_)
    | intro _ _ _ | split | dsimp only | with_reducible refine Stays.upd ?_)

theorem execLedgerEntryGrant_stays {σ s t : State} (w : Stays σ s) (e : execLedgerEntryGrant s = .next t) :
    Stays σ t := by
  rw [← Host.Outcome.next.inj e]
  iterate 40 (try any_goals first
    | with_reducible (first | exact w | assumption | apply State.lgGrant_stays | apply State.settle_stays
                            | refine Stays.ite (fun _ => ?_) (fun _ => ?_) | refine Stays.ofSnd (by assumption) ?_
                            | refine Stays.ofFst (by assumption) ?_)
    | split | dsimp only | with_reducible refine Stays.upd ?_)

theorem execLoomJobComplete_stays {σ s t : State} (h : Stays σ s) (ctx : Nat) (err : Option LoomErr) (e : execLoomJobComplete ctx err s = .next t) :
    Stays σ t := by
  unfold execLoomJobComplete at e
  rw [← Host.Outcome.next.inj e]
  iterate 40 (try any_goals first
    | with_reducible (first | exact h | assumption | apply State.settle_stays | apply State.loomDone_stays
                            | refine Stays.ite (fun _ => ?_) (fun _ => ?_) | refine Stays.ofSnd (by assumption) ?_
                            | refine Stays.ofFst (by assumption) ?_)
    | split | dsimp only | with_reducible refine Stays.upd ?_)

theorem execSlotWaitResume_stays {σ s t : State} (h : Stays σ s) (e : execSlotWaitResume s = .next t) :
    Stays σ t := by
  unfold execSlotWaitResume at e
  rw [← Host.Outcome.next.inj e]
  iterate 40 (try any_goals first
    | with_reducible (first | exact h | assumption | apply State.settle_stays | apply State.slotNext_stays
                            | apply State.slotTried_stays | refine Stays.ite (fun _ => ?_) (fun _ => ?_)
                            | refine Stays.ofSnd (by assumption) ?_ | refine Stays.ofFst (by assumption) ?_)
    | split | dsimp only | with_reducible refine Stays.upd ?_)

theorem execClaimWaitResume_stays {σ s t : State} (w : Stays σ s) (arr stripe : Nat) (e : execClaimWaitResume arr stripe s = .next t) :
    Stays σ t := by
  rw [← Host.Outcome.next.inj e]
  iterate 40 (try any_goals first
    | with_reducible (first | exact w | assumption | apply State.claimNext_stays | apply State.settle_stays
                            | refine Stays.ite (fun _ => ?_) (fun _ => ?_) | refine Stays.ofSnd (by assumption) ?_
                            | refine Stays.ofFst (by assumption) ?_)
    | split | dsimp only | with_reducible refine Stays.upd ?_)

theorem execDestageStart_stays {σ s t : State} (w : Stays σ s) (e : execDestageStart s = .next t) :
    Stays σ t := by
  rw [← Host.Outcome.next.inj e]
  iterate 40 (try any_goals first
    | with_reducible (first | exact w | assumption | apply State.destageNext_stays | apply State.settle_stays
                            | refine Stays.ite (fun _ => ?_) (fun _ => ?_) | refine Stays.ofSnd (by assumption) ?_
                            | refine Stays.ofFst (by assumption) ?_)
    | split | dsimp only | with_reducible refine Stays.upd ?_)

theorem execWalkIssue_stays {σ s t : State} (w : Stays σ s) (arr : Nat) (e : execWalkIssue arr s = .next t) :
    Stays σ t := by
  rw [← Host.Outcome.next.inj e]
  iterate 40 (try any_goals first
    | with_reducible (first | exact w | assumption | apply State.settle_stays | apply State.walkGo_stays
                            | refine Stays.ite (fun _ => ?_) (fun _ => ?_) | refine Stays.ofSnd (by assumption) ?_
                            | refine Stays.ofFst (by assumption) ?_)
    | split | dsimp only | with_reducible refine Stays.upd ?_)

theorem execRepairStart_stays {σ s t : State} (w : Stays σ s) (e : execRepairStart s = .next t) :
    Stays σ t := by
  rw [← Host.Outcome.next.inj e]
  iterate 40 (try any_goals first
    | with_reducible (first | exact w | assumption | apply State.repairGo_stays | apply State.settle_stays
                            | refine Stays.ite (fun _ => ?_) (fun _ => ?_) | refine Stays.ofSnd (by assumption) ?_
                            | refine Stays.ofFst (by assumption) ?_)
    | split | dsimp only | with_reducible refine Stays.upd ?_)

theorem execResyncStart_stays {σ s t : State} (w : Stays σ s) (e : execResyncStart s = .next t) :
    Stays σ t := by
  rw [← Host.Outcome.next.inj e]
  iterate 40 (try any_goals first
    | with_reducible (first | exact w | assumption | apply State.resyncGo_stays | apply State.settle_stays
                            | refine Stays.ite (fun _ => ?_) (fun _ => ?_) | refine Stays.ofSnd (by assumption) ?_
                            | refine Stays.ofFst (by assumption) ?_)
    | split | dsimp only | with_reducible refine Stays.upd ?_)

theorem execScrubVisit_stays {σ s t : State} (w : Stays σ s) (arr : Nat) (e : execScrubVisit arr s = .next t) :
    Stays σ t := by
  rw [← Host.Outcome.next.inj e]
  iterate 40 (try any_goals first
    | with_reducible (first | exact w | assumption | apply State.scrubGo_stays | apply State.settle_stays
                            | refine Stays.ite (fun _ => ?_) (fun _ => ?_) | refine Stays.ofSnd (by assumption) ?_
                            | refine Stays.ofFst (by assumption) ?_)
    | split | dsimp only | with_reducible refine Stays.upd ?_)

theorem execMenderRetryTimer_stays {σ s t : State} (w : Stays σ s) (task : Nat) (e : execMenderRetryTimer task s = .next t) :
    Stays σ t := by
  rw [← Host.Outcome.next.inj e]
  iterate 40 (try any_goals first
    | with_reducible (first | exact w | assumption | apply State.menderAgain_stays | apply State.settle_stays
                            | refine Stays.ite (fun _ => ?_) (fun _ => ?_) | refine Stays.ofSnd (by assumption) ?_
                            | refine Stays.ofFst (by assumption) ?_)
    | split | dsimp only | with_reducible refine Stays.upd ?_)

theorem execArrayIdleTimer_stays {σ s t : State} (w : Stays σ s) (arr : Nat) (e : execArrayIdleTimer arr s = .next t) :
    Stays σ t := by
  rw [← Host.Outcome.next.inj e]
  iterate 40 (try any_goals first
    | with_reducible (first | exact w | assumption | refine Stays.ite (fun _ => ?_) (fun _ => ?_)
                            | refine Stays.ofSnd (by assumption) ?_ | refine Stays.ofFst (by assumption) ?_)
    | split | dsimp only | with_reducible refine Stays.upd ?_)

theorem execVinFilterExpiry_stays {σ s t : State} (w : Stays σ s) (mv : Nat) (e : execVinFilterExpiry mv s = .next t) :
    Stays σ t := by
  rw [← Host.Outcome.next.inj e]
  iterate 40 (try any_goals first
    | with_reducible (first | exact w | assumption | apply State.powerFail_stays | apply State.vinSeen_stays
                            | refine Stays.ite (fun _ => ?_) (fun _ => ?_) | refine Stays.ofSnd (by assumption) ?_
                            | refine Stays.ofFst (by assumption) ?_)
    | split | dsimp only | with_reducible refine Stays.upd ?_)

theorem execPfNLow_stays {σ s t : State} (w : Stays σ s) (e : execPfNLow s = .next t) :
    Stays σ t := by
  rw [← Host.Outcome.next.inj e]
  iterate 40 (try any_goals first
    | with_reducible (first | exact w | assumption | apply State.pfFalls_stays | apply State.powerFail_stays
                            | refine Stays.ite (fun _ => ?_) (fun _ => ?_) | refine Stays.ofSnd (by assumption) ?_
                            | refine Stays.ofFst (by assumption) ?_)
    | split | dsimp only | with_reducible refine Stays.upd ?_)

theorem execChipRstAssert_stays {σ s t : State} (w : Stays σ s) (e : execChipRstAssert s = .next t) :
    Stays σ t := by
  rw [← Host.Outcome.next.inj e]
  iterate 40 (try any_goals first
    | with_reducible (first | exact w | assumption | apply State.chipReset_stays | apply State.pfdDeclare_stays
                            | apply State.rstAt_stays | apply State.settle_stays | refine Stays.ite (fun _ => ?_) (fun _ => ?_)
                            | refine Stays.ofSnd (by assumption) ?_ | refine Stays.ofFst (by assumption) ?_)
    | split | dsimp only | with_reducible refine Stays.upd ?_)

theorem execChipRstRelease_stays {σ s t : State} (w : Stays σ s) (strap : BitVec 2) (e : execChipRstRelease strap s = .next t) :
    Stays σ t := by
  rw [← Host.Outcome.next.inj e]
  iterate 40 (try any_goals first
    | with_reducible (first | exact w | assumption | apply State.release_stays | apply State.rstAt_stays
                            | apply State.strapAt_stays | refine Stays.ite (fun _ => ?_) (fun _ => ?_)
                            | refine Stays.ofSnd (by assumption) ?_ | refine Stays.ofFst (by assumption) ?_)
    | split | dsimp only | with_reducible refine Stays.upd ?_)

theorem execCoreReset_stays {σ s t : State} (w : Stays σ s) (mv : Nat) (e : execCoreReset mv s = .next t) :
    Stays σ t := by
  rw [← Host.Outcome.next.inj e]
  iterate 40 (try any_goals first
    | with_reducible (first | exact w | assumption | apply State.bump_stays | apply State.chipReset_stays
                            | refine Stays.ite (fun _ => ?_) (fun _ => ?_) | refine Stays.ofSnd (by assumption) ?_
                            | refine Stays.ofFst (by assumption) ?_)
    | split | dsimp only | with_reducible refine Stays.upd ?_)

theorem execCoreResetRelease_stays {σ s t : State} (w : Stays σ s) (strap : BitVec 2) (mv : Nat) (e : execCoreResetRelease strap mv s = .next t) :
    Stays σ t := by
  rw [← Host.Outcome.next.inj e]
  iterate 40 (try any_goals first
    | with_reducible (first | exact w | assumption | apply State.release_stays | apply State.strapAt_stays
                            | refine Stays.ite (fun _ => ?_) (fun _ => ?_) | refine Stays.ofSnd (by assumption) ?_
                            | refine Stays.ofFst (by assumption) ?_)
    | split | dsimp only | with_reducible refine Stays.upd ?_)

theorem execDumpVcoreRequest_stays {σ s t : State} (h : Stays σ s) (e : execDumpVcoreRequest s = .next t) :
    Stays σ t := by
  unfold execDumpVcoreRequest at e
  rw [← Host.Outcome.next.inj e]
  iterate 40 (try any_goals first
    | with_reducible (first | exact h | assumption | apply State.vcoreStep_stays
                            | refine Stays.ite (fun _ => ?_) (fun _ => ?_) | refine Stays.ofSnd (by assumption) ?_
                            | refine Stays.ofFst (by assumption) ?_)
    | split | dsimp only | with_reducible refine Stays.upd ?_)

theorem execDestageStop_stays {σ s t : State} (h : Stays σ s) (e : execDestageStop s = .next t) :
    Stays σ t := by
  unfold execDestageStop at e
  rw [← Host.Outcome.next.inj e]
  iterate 40 (try any_goals first
    | with_reducible (first | exact h | assumption | apply State.settle_stays | apply State.destageUndo_stays
                            | apply Stays.foldl | apply Stays.foldlSnd | apply Stays.foldlFst
                            | refine Stays.ite (fun _ => ?_) (fun _ => ?_) | refine Stays.ofSnd (by assumption) ?_
                            | refine Stays.ofFst (by assumption) ?_)
    | intro _ _ _ | split | dsimp only | with_reducible refine Stays.upd ?_)

theorem execDumpSnapshot_stays {σ s t : State} (w : Stays σ s) (e : execDumpSnapshot s = .next t) :
    Stays σ t := by
  rw [← Host.Outcome.next.inj e]
  iterate 40 (try any_goals first
    | with_reducible (first | exact w | assumption | apply State.dumpSnap_stays | apply State.settle_stays
                            | refine Stays.ite (fun _ => ?_) (fun _ => ?_) | refine Stays.ofSnd (by assumption) ?_
                            | refine Stays.ofFst (by assumption) ?_)
    | split | dsimp only | with_reducible refine Stays.upd ?_)

theorem execVinReturn_stays {σ s t : State} (w : Stays σ s) (mv : Nat) (e : execVinReturn mv s = .next t) :
    Stays σ t := by
  rw [← Host.Outcome.next.inj e]
  iterate 40 (try any_goals first
    | with_reducible (first | exact w | assumption | apply State.vinMark_stays | apply State.vinUp_stays
                            | refine Stays.ite (fun _ => ?_) (fun _ => ?_) | refine Stays.ofSnd (by assumption) ?_
                            | refine Stays.ofFst (by assumption) ?_)
    | split | dsimp only | with_reducible refine Stays.upd ?_)

theorem execVinBreak_stays {σ s t : State} (w : Stays σ s) (mv : Nat) (e : execVinBreak mv s = .next t) :
    Stays σ t := by
  rw [← Host.Outcome.next.inj e]
  iterate 40 (try any_goals first
    | with_reducible (first | exact w | assumption | apply State.vinGone_stays | apply State.vinSeen_stays
                            | refine Stays.ite (fun _ => ?_) (fun _ => ?_) | refine Stays.ofSnd (by assumption) ?_
                            | refine Stays.ofFst (by assumption) ?_)
    | split | dsimp only | with_reducible refine Stays.upd ?_)

theorem execResumeWaitExpiry_stays {σ s t : State} (w : Stays σ s) (e : execResumeWaitExpiry s = .next t) :
    Stays σ t := by
  rw [← Host.Outcome.next.inj e]
  iterate 40 (try any_goals first
    | with_reducible (first | exact w | assumption | apply State.serviceResume_stays | apply State.settle_stays
                            | refine Stays.ite (fun _ => ?_) (fun _ => ?_) | refine Stays.ofSnd (by assumption) ?_
                            | refine Stays.ofFst (by assumption) ?_)
    | split | dsimp only | with_reducible refine Stays.upd ?_)

theorem execStartupStep_stays {σ s t : State} (w : Stays σ s) (e : execStartupStep s = .next t) :
    Stays σ t := by
  rw [← Host.Outcome.next.inj e]
  iterate 40 (try any_goals first
    | with_reducible (first | exact w | assumption | apply State.bootStep_stays | apply State.settle_stays
                            | refine Stays.ite (fun _ => ?_) (fun _ => ?_) | refine Stays.ofSnd (by assumption) ?_
                            | refine Stays.ofFst (by assumption) ?_)
    | split | dsimp only | with_reducible refine Stays.upd ?_)

theorem execMemberWaitExpiry_stays {σ s t : State} (w : Stays σ s) (e : execMemberWaitExpiry s = .next t) :
    Stays σ t := by
  rw [← Host.Outcome.next.inj e]
  iterate 40 (try any_goals first
    | with_reducible (first | exact w | assumption | apply State.failMember_stays | apply State.settle_stays | apply Stays.foldl
                            | apply Stays.foldlSnd | apply Stays.foldlFst | refine Stays.ite (fun _ => ?_) (fun _ => ?_)
                            | refine Stays.ofSnd (by assumption) ?_ | refine Stays.ofFst (by assumption) ?_)
    | intro _ _ _ | split | dsimp only | with_reducible refine Stays.upd ?_)

theorem execDroopStage_stays {σ s t : State} (w : Stays σ s) (mv : Nat) (e : execDroopStage mv s = .next t) :
    Stays σ t := by
  rw [← Host.Outcome.next.inj e]
  iterate 40 (try any_goals first
    | with_reducible (first | exact w | assumption | apply State.droopEval_stays | apply State.setReg_stays
                            | refine Stays.ite (fun _ => ?_) (fun _ => ?_) | refine Stays.ofSnd (by assumption) ?_
                            | refine Stays.ofFst (by assumption) ?_)
    | split | dsimp only | with_reducible refine Stays.upd ?_)

theorem execDumpOnlyEntry_stays {σ s t : State} (w : Stays σ s) (mv : Nat) (e : execDumpOnlyEntry mv s = .next t) :
    Stays σ t := by
  rw [← Host.Outcome.next.inj e]
  iterate 40 (try any_goals first
    | with_reducible (first | exact w | assumption | apply State.bump_stays | apply State.setFlag_stays
                            | apply State.setReg_stays | refine Stays.ite (fun _ => ?_) (fun _ => ?_)
                            | refine Stays.ofSnd (by assumption) ?_ | refine Stays.ofFst (by assumption) ?_)
    | split | dsimp only | with_reducible refine Stays.upd ?_)

theorem execVcoreSettleExpiry_stays {σ s t : State} (w : Stays σ s) (e : execVcoreSettleExpiry s = .next t) :
    Stays σ t := by
  rw [← Host.Outcome.next.inj e]
  iterate 40 (try any_goals first
    | with_reducible (first | exact w | assumption | apply State.droopEval_stays | refine Stays.ite (fun _ => ?_) (fun _ => ?_)
                            | refine Stays.ofSnd (by assumption) ?_ | refine Stays.ofFst (by assumption) ?_)
    | split | dsimp only | with_reducible refine Stays.upd ?_)

theorem execRefclkLoss_stays {σ s t : State} (h : Stays σ s) (clk : RefClk) (e : execRefclkLoss clk s = .next t) :
    Stays σ t := by
  unfold execRefclkLoss at e
  rw [← Host.Outcome.next.inj e]
  iterate 40 (try any_goals first
    | with_reducible (first | exact h | assumption | apply State.bump_stays | apply State.clkGone_stays
                            | apply State.hostLinkLost_stays | refine Stays.ite (fun _ => ?_) (fun _ => ?_)
                            | refine Stays.ofSnd (by assumption) ?_ | refine Stays.ofFst (by assumption) ?_)
    | split | dsimp only | with_reducible refine Stays.upd ?_)

theorem execThermCrossing_stays {σ s t : State} (w : Stays σ s) (tj : Int) (e : execThermCrossing tj s = .next t) :
    Stays σ t := by
  rw [← Host.Outcome.next.inj e]
  iterate 40 (try any_goals first
    | with_reducible (first | exact w | assumption | apply State.tjSeen_stays | refine Stays.ite (fun _ => ?_) (fun _ => ?_)
                            | refine Stays.ofSnd (by assumption) ?_ | refine Stays.ofFst (by assumption) ?_)
    | split | dsimp only | with_reducible refine Stays.upd ?_)

theorem execRefreshRateStep_stays {σ s t : State} (w : Stays σ s) (tj : Int) (e : execRefreshRateStep tj s = .next t) :
    Stays σ t := by
  rw [← Host.Outcome.next.inj e]
  iterate 40 (try any_goals first
    | with_reducible (first | exact w | assumption | apply State.setFlag_stays | apply State.setFld_stays
                            | apply State.tjSeen_stays | refine Stays.ite (fun _ => ?_) (fun _ => ?_)
                            | refine Stays.ofSnd (by assumption) ?_ | refine Stays.ofFst (by assumption) ?_)
    | split | dsimp only | with_reducible refine Stays.upd ?_)

theorem execDramRetrain_stays {σ s t : State} (w : Stays σ s) (tj : Int) (e : execDramRetrain tj s = .next t) :
    Stays σ t := by
  rw [← Host.Outcome.next.inj e]
  iterate 40 (try any_goals first
    | with_reducible (first | exact w | assumption | apply State.bump_stays | apply State.tjSeen_stays
                            | apply State.trained_stays | refine Stays.ite (fun _ => ?_) (fun _ => ?_)
                            | refine Stays.ofSnd (by assumption) ?_ | refine Stays.ofFst (by assumption) ?_)
    | split | dsimp only | with_reducible refine Stays.upd ?_)

theorem execTimeSaveTimer_stays {σ s t : State} (w : Stays σ s) (e : execTimeSaveTimer s = .next t) :
    Stays σ t := by
  rw [← Host.Outcome.next.inj e]
  iterate 40 (try any_goals first
    | with_reducible (first | exact w | assumption | apply State.timeSave_stays | refine Stays.ite (fun _ => ?_) (fun _ => ?_)
                            | refine Stays.ofSnd (by assumption) ?_ | refine Stays.ofFst (by assumption) ?_)
    | split | dsimp only | with_reducible refine Stays.upd ?_)

theorem execSleepEval_stays {σ s t : State} (w : Stays σ s) (e : execSleepEval s = .next t) :
    Stays σ t := by
  rw [← Host.Outcome.next.inj e]
  iterate 40 (try any_goals first
    | with_reducible (first | exact w | assumption | apply State.spHold_stays | apply State.spMove_stays
                            | apply State.spShow_stays | apply State.spTimes_stays
                            | refine Stays.ite (fun _ => ?_) (fun _ => ?_) | refine Stays.ofSnd (by assumption) ?_
                            | refine Stays.ofFst (by assumption) ?_)
    | split | dsimp only | with_reducible refine Stays.upd ?_)

theorem execWakeEvent_stays {σ s t : State} (w : Stays σ s) (_src : WakeSrc) (e : execWakeEvent _src s = .next t) :
    Stays σ t := by
  rw [← Host.Outcome.next.inj e]
  iterate 40 (try any_goals first
    | with_reducible (first | exact w | assumption | apply State.bump_stays | apply State.spGo_stays
                            | refine Stays.ite (fun _ => ?_) (fun _ => ?_) | refine Stays.ofSnd (by assumption) ?_
                            | refine Stays.ofFst (by assumption) ?_)
    | split | dsimp only | with_reducible refine Stays.upd ?_)

theorem execSpeedWindow_stays {σ s t : State} (w : Stays σ s) (laps : List Nat) (e : execSpeedWindow laps s = .next t) :
    Stays σ t := by
  rw [← Host.Outcome.next.inj e]
  iterate 40 (try any_goals first
    | with_reducible (first | exact w | assumption | apply State.monClose_stays | apply State.setFld_stays | apply Stays.foldl
                            | apply Stays.foldlSnd | apply Stays.foldlFst | refine Stays.ite (fun _ => ?_) (fun _ => ?_)
                            | refine Stays.ofSnd (by assumption) ?_ | refine Stays.ofFst (by assumption) ?_)
    | intro _ _ _ | split | dsimp only | with_reducible refine Stays.upd ?_)

theorem execLowClr_stays {σ s t : State} (w : Stays σ s) (n : Nat) (e : execLowClr n s = .next t) :
    Stays σ t := by
  rw [← Host.Outcome.next.inj e]
  iterate 40 (try any_goals first
    | with_reducible (first | exact w | assumption | apply State.lowClr_stays | refine Stays.ite (fun _ => ?_) (fun _ => ?_)
                            | refine Stays.ofSnd (by assumption) ?_ | refine Stays.ofFst (by assumption) ?_)
    | split | dsimp only | with_reducible refine Stays.upd ?_)

theorem execPerstAssert_stays {σ s t : State} (w : Stays σ s) (e : execPerstAssert s = .next t) :
    Stays σ t := by
  rw [← Host.Outcome.next.inj e]
  iterate 40 (try any_goals first
    | with_reducible (first | exact w | assumption | apply State.hostGone_stays | apply State.linkZero_stays
                            | apply State.setFlag_stays | apply State.settle_stays
                            | refine Stays.ite (fun _ => ?_) (fun _ => ?_) | refine Stays.ofSnd (by assumption) ?_
                            | refine Stays.ofFst (by assumption) ?_)
    | split | dsimp only | with_reducible refine Stays.upd ?_)

theorem execPerstRelease_stays {σ s t : State} (w : Stays σ s) (e : execPerstRelease s = .next t) :
    Stays σ t := by
  rw [← Host.Outcome.next.inj e]
  iterate 40 (try any_goals first
    | with_reducible (first | exact w | assumption | apply State.setFlag_stays | refine Stays.ite (fun _ => ?_) (fun _ => ?_)
                            | refine Stays.ofSnd (by assumption) ?_ | refine Stays.ofFst (by assumption) ?_)
    | split | dsimp only | with_reducible refine Stays.upd ?_)

theorem execHotReset_stays {σ s t : State} (w : Stays σ s) (e : execHotReset s = .next t) :
    Stays σ t := by
  rw [← Host.Outcome.next.inj e]
  iterate 40 (try any_goals first
    | with_reducible (first | exact w | assumption | apply State.hostReset_stays | apply State.settle_stays
                            | refine Stays.ite (fun _ => ?_) (fun _ => ?_) | refine Stays.ofSnd (by assumption) ?_
                            | refine Stays.ofFst (by assumption) ?_)
    | split | dsimp only | with_reducible refine Stays.upd ?_)

theorem execHostLinkDown_stays {σ s t : State} (h : Stays σ s) (e : execHostLinkDown s = .next t) :
    Stays σ t := by
  unfold execHostLinkDown at e
  rw [← Host.Outcome.next.inj e]
  iterate 40 (try any_goals first
    | with_reducible (first | exact h | assumption | apply State.hostLinkLost_stays
                            | refine Stays.ite (fun _ => ?_) (fun _ => ?_) | refine Stays.ofSnd (by assumption) ?_
                            | refine Stays.ofFst (by assumption) ?_)
    | split | dsimp only | with_reducible refine Stays.upd ?_)

theorem execHostLinkUp_stays {σ s t : State} (w : Stays σ s) (width speed : Nat) (e : execHostLinkUp width speed s = .next t) :
    Stays σ t := by
  rw [← Host.Outcome.next.inj e]
  iterate 40 (try any_goals first
    | with_reducible (first | exact w | assumption | apply State.setFlag_stays | apply State.setFld_stays
                            | refine Stays.ite (fun _ => ?_) (fun _ => ?_) | refine Stays.ofSnd (by assumption) ?_
                            | refine Stays.ofFst (by assumption) ?_)
    | split | dsimp only | with_reducible refine Stays.upd ?_)

theorem execFlr_stays {σ s t : State} (w : Stays σ s) (f : Func) (e : execFlr f s = .next t) :
    Stays σ t := by
  rw [← Host.Outcome.next.inj e]
  iterate 40 (try any_goals first
    | with_reducible (first | exact w | assumption | apply State.flrBegin_stays | apply State.settle_stays
                            | refine Stays.ite (fun _ => ?_) (fun _ => ?_) | refine Stays.ofSnd (by assumption) ?_
                            | refine Stays.ofFst (by assumption) ?_)
    | split | dsimp only | with_reducible refine Stays.upd ?_)

theorem execFlrWaitDone_stays {σ s t : State} (w : Stays σ s) (f : Func) (e : execFlrWaitDone f s = .next t) :
    Stays σ t := by
  rw [← Host.Outcome.next.inj e]
  iterate 40 (try any_goals first
    | with_reducible (first | exact w | assumption | apply State.flrEnd_stays | apply State.settle_stays
                            | refine Stays.ite (fun _ => ?_) (fun _ => ?_) | refine Stays.ofSnd (by assumption) ?_
                            | refine Stays.ofFst (by assumption) ?_)
    | split | dsimp only | with_reducible refine Stays.upd ?_)

theorem execBmeClear_stays {σ s t : State} (w : Stays σ s) (f : Func) (e : execBmeClear f s = .next t) :
    Stays σ t := by
  rw [← Host.Outcome.next.inj e]
  iterate 40 (try any_goals first
    | with_reducible (first | exact w | assumption | apply State.bmeDrop_stays | apply State.settle_stays
                            | refine Stays.ite (fun _ => ?_) (fun _ => ?_) | refine Stays.ofSnd (by assumption) ?_
                            | refine Stays.ofFst (by assumption) ?_)
    | split | dsimp only | with_reducible refine Stays.upd ?_)

theorem execBmeSet_stays {σ s t : State} (w : Stays σ s) (f : Func) (e : execBmeSet f s = .next t) :
    Stays σ t := by
  rw [← Host.Outcome.next.inj e]
  iterate 40 (try any_goals first
    | with_reducible (first | exact w | assumption | apply State.bmeRaise_stays | refine Stays.ite (fun _ => ?_) (fun _ => ?_)
                            | refine Stays.ofSnd (by assumption) ?_ | refine Stays.ofFst (by assumption) ?_)
    | split | dsimp only | with_reducible refine Stays.upd ?_)

theorem execD3hotEntry_stays {σ s t : State} (w : Stays σ s) (f : Func) (e : execD3hotEntry f s = .next t) :
    Stays σ t := by
  rw [← Host.Outcome.next.inj e]
  iterate 40 (try any_goals first
    | with_reducible (first | exact w | assumption | apply State.settle_stays | apply State.toD3_stays
                            | refine Stays.ite (fun _ => ?_) (fun _ => ?_) | refine Stays.ofSnd (by assumption) ?_
                            | refine Stays.ofFst (by assumption) ?_)
    | split | dsimp only | with_reducible refine Stays.upd ?_)

theorem execD0Return_stays {σ s t : State} (w : Stays σ s) (f : Func) (e : execD0Return f s = .next t) :
    Stays σ t := by
  rw [← Host.Outcome.next.inj e]
  iterate 40 (try any_goals first
    | with_reducible (first | exact w | assumption | apply State.toD0_stays | refine Stays.ite (fun _ => ?_) (fun _ => ?_)
                            | refine Stays.ofSnd (by assumption) ?_ | refine Stays.ofFst (by assumption) ?_)
    | split | dsimp only | with_reducible refine Stays.upd ?_)

theorem execConfigRequest_stays {σ s t : State} (w : Stays σ s) (f : Func) (off : Nat) (wr : Option W32) (e : execConfigRequest f off wr s = .next t) :
    Stays σ t := by
  rw [← Host.Outcome.next.inj e]
  iterate 40 (try any_goals first
    | with_reducible (first | exact w | assumption | apply State.cfgRead_stays | apply State.cfgWrite_stays
                            | apply State.put_stays | apply State.settle_stays | refine Stays.ite (fun _ => ?_) (fun _ => ?_)
                            | refine Stays.ofSnd (by assumption) ?_ | refine Stays.ofFst (by assumption) ?_)
    | split | dsimp only | with_reducible refine Stays.upd ?_)

theorem execBar0InvalidAccess_stays {σ s t : State} (w : Stays σ s) (f : Func) (off len : Nat) (wr : Bool) (e : execBar0InvalidAccess f off len wr s = .next t) :
    Stays σ t := by
  rw [← Host.Outcome.next.inj e]
  iterate 40 (try any_goals first
    | with_reducible (first | exact w | assumption | apply State.bump_stays | apply State.put_stays
                            | refine Stays.ite (fun _ => ?_) (fun _ => ?_) | refine Stays.ofSnd (by assumption) ?_
                            | refine Stays.ofFst (by assumption) ?_)
    | split | dsimp only | with_reducible refine Stays.upd ?_)

theorem execBar2Access_stays {σ s t : State} (w : Stays σ s) (f : Func) (off len : Nat) (wr : Option (List Byte)) (ecc : Bool) (e : execBar2Access f off len wr ecc s = .next t) :
    Stays σ t := by
  rw [← Host.Outcome.next.inj e]
  iterate 40 (try any_goals first
    | with_reducible (first | exact w | assumption | apply State.bump_stays | apply State.put_stays | apply State.winRun_stays
                            | refine Stays.ite (fun _ => ?_) (fun _ => ?_) | refine Stays.ofSnd (by assumption) ?_
                            | refine Stays.ofFst (by assumption) ?_)
    | split | dsimp only | with_reducible refine Stays.upd ?_)

theorem execHpDatapathError_stays {σ s t : State} (w : Stays σ s) (e : execHpDatapathError s = .next t) :
    Stays σ t := by
  rw [← Host.Outcome.next.inj e]
  iterate 40 (try any_goals first
    | with_reducible (first | exact w | assumption | apply State.freeze_stays | apply State.settle_stays
                            | refine Stays.ite (fun _ => ?_) (fun _ => ?_) | refine Stays.ofSnd (by assumption) ?_
                            | refine Stays.ofFst (by assumption) ?_)
    | split | dsimp only | with_reducible refine Stays.upd ?_)

theorem execFreezeForce_stays {σ s t : State} (w : Stays σ s) (e : execFreezeForce s = .next t) :
    Stays σ t := by
  rw [← Host.Outcome.next.inj e]
  iterate 40 (try any_goals first
    | with_reducible (first | exact w | assumption | apply State.freeze_stays | apply State.settle_stays
                            | refine Stays.ite (fun _ => ?_) (fun _ => ?_) | refine Stays.ofSnd (by assumption) ?_
                            | refine Stays.ofFst (by assumption) ?_)
    | split | dsimp only | with_reducible refine Stays.upd ?_)

theorem execFreezeRelease_stays {σ s t : State} (w : Stays σ s) (e : execFreezeRelease s = .next t) :
    Stays σ t := by
  rw [← Host.Outcome.next.inj e]
  iterate 40 (try any_goals first
    | with_reducible (first | exact w | assumption | apply State.freezeEnd_stays | refine Stays.ite (fun _ => ?_) (fun _ => ?_)
                            | refine Stays.ofSnd (by assumption) ?_ | refine Stays.ofFst (by assumption) ?_)
    | split | dsimp only | with_reducible refine Stays.upd ?_)

theorem execLtrIdleTimer_stays {σ s t : State} (w : Stays σ s) (e : execLtrIdleTimer s = .next t) :
    Stays σ t := by
  rw [← Host.Outcome.next.inj e]
  iterate 40 (try any_goals first
    | with_reducible (first | exact w | assumption | apply State.ltrSend_stays | refine Stays.ite (fun _ => ?_) (fun _ => ?_)
                            | refine Stays.ofSnd (by assumption) ?_ | refine Stays.ofFst (by assumption) ?_)
    | split | dsimp only | with_reducible refine Stays.upd ?_)

theorem execRingFetch_stays {σ s t : State} (w : Stays σ s) (e : execRingFetch s = .next t) :
    Stays σ t := by
  rw [← Host.Outcome.next.inj e]
  iterate 40 (try any_goals first
    | with_reducible (first | exact w | assumption | apply State.fetchNext_stays | apply State.settle_stays
                            | refine Stays.ite (fun _ => ?_) (fun _ => ?_) | refine Stays.ofSnd (by assumption) ?_
                            | refine Stays.ofFst (by assumption) ?_)
    | split | dsimp only | with_reducible refine Stays.upd ?_)

theorem execOwnRereadTimeout_stays {σ s t : State} (w : Stays σ s) (f : Func) (q : Nat) (e : execOwnRereadTimeout f q s = .next t) :
    Stays σ t := by
  rw [← Host.Outcome.next.inj e]
  iterate 40 (try any_goals first
    | with_reducible (first | exact w | assumption | apply State.markPool_stays | apply State.tryRead_stays
                            | refine Stays.ite (fun _ => ?_) (fun _ => ?_) | refine Stays.ofSnd (by assumption) ?_
                            | refine Stays.ofFst (by assumption) ?_)
    | split | dsimp only | with_reducible refine Stays.upd ?_)

theorem execHostReadCompletion_stays {σ s t : State} (w : Stays σ s) (tag : Nat) (st : RdStatus) (data : List Byte) (e : execHostReadCompletion tag st data s = .next t) :
    Stays σ t := by
  rw [← Host.Outcome.next.inj e]
  iterate 40 (try any_goals first
    | with_reducible (first | exact w | assumption | apply State.hostCompletion_stays | apply State.settle_stays
                            | refine Stays.ite (fun _ => ?_) (fun _ => ?_) | refine Stays.ofSnd (by assumption) ?_
                            | refine Stays.ofFst (by assumption) ?_)
    | split | dsimp only | with_reducible refine Stays.upd ?_)

theorem execHostReadTimeout_stays {σ s t : State} (w : Stays σ s) (tag : Nat) (e : execHostReadTimeout tag s = .next t) :
    Stays σ t := by
  rw [← Host.Outcome.next.inj e]
  iterate 40 (try any_goals first
    | with_reducible (first | exact w | assumption | apply State.hostTimeout_stays | apply State.settle_stays
                            | refine Stays.ite (fun _ => ?_) (fun _ => ?_) | refine Stays.ofSnd (by assumption) ?_
                            | refine Stays.ofFst (by assumption) ?_)
    | split | dsimp only | with_reducible refine Stays.upd ?_)

theorem execTagQuarantineExpiry_stays {σ s t : State} (w : Stays σ s) (tag : Nat) (e : execTagQuarantineExpiry tag s = .next t) :
    Stays σ t := by
  rw [← Host.Outcome.next.inj e]
  iterate 40 (try any_goals first
    | with_reducible (first | exact w | assumption | apply State.pumpReads_stays | refine Stays.ite (fun _ => ?_) (fun _ => ?_)
                            | refine Stays.ofSnd (by assumption) ?_ | refine Stays.ofFst (by assumption) ?_)
    | split | dsimp only | with_reducible refine Stays.upd ?_)

theorem execRead_stays {σ s t : State} (w : Stays σ s) (h : Nat) (e : execRead h s = .next t) :
    Stays σ t := by
  rw [← Host.Outcome.next.inj e]
  iterate 40 (try any_goals first
    | with_reducible (first | exact w | assumption | apply State.pf0Run_stays | apply State.readGo_stays
                            | apply State.settle_stays | refine Stays.ite (fun _ => ?_) (fun _ => ?_)
                            | refine Stays.ofSnd (by assumption) ?_ | refine Stays.ofFst (by assumption) ?_)
    | intro _ _ _ | split | dsimp only | with_reducible refine Stays.upd ?_)

theorem execWrite_stays {σ s t : State} (w : Stays σ s) (h : Nat) (e : execWrite h s = .next t) :
    Stays σ t := by
  rw [← Host.Outcome.next.inj e]
  iterate 40 (try any_goals first
    | with_reducible (first | exact w | assumption | apply State.pf0Run_stays | apply State.settle_stays
                            | apply State.writeRun_stays | refine Stays.ite (fun _ => ?_) (fun _ => ?_)
                            | refine Stays.ofSnd (by assumption) ?_ | refine Stays.ofFst (by assumption) ?_)
    | intro _ _ _ | split | dsimp only | with_reducible refine Stays.upd ?_)

theorem execWriteZeroes_stays {σ s t : State} (w : Stays σ s) (h : Nat) (e : execWriteZeroes h s = .next t) :
    Stays σ t := by
  rw [← Host.Outcome.next.inj e]
  iterate 40 (try any_goals first
    | with_reducible (first | exact w | assumption | apply State.pf0Run_stays | apply State.settle_stays
                            | apply State.writeRun_stays | refine Stays.ite (fun _ => ?_) (fun _ => ?_)
                            | refine Stays.ofSnd (by assumption) ?_ | refine Stays.ofFst (by assumption) ?_)
    | intro _ _ _ | split | dsimp only | with_reducible refine Stays.upd ?_)

theorem execFlush_stays {σ s t : State} (w : Stays σ s) (h : Nat) (e : execFlush h s = .next t) :
    Stays σ t := by
  rw [← Host.Outcome.next.inj e]
  iterate 40 (try any_goals first
    | with_reducible (first | exact w | assumption | apply State.finish_stays | apply State.pf0Run_stays
                            | apply State.settle_stays | refine Stays.ite (fun _ => ?_) (fun _ => ?_)
                            | refine Stays.ofSnd (by assumption) ?_ | refine Stays.ofFst (by assumption) ?_)
    | intro _ _ _ | split | dsimp only | with_reducible refine Stays.upd ?_)

theorem execDeallocate_stays {σ s t : State} (w : Stays σ s) (h : Nat) (e : execDeallocate h s = .next t) :
    Stays σ t := by
  rw [← Host.Outcome.next.inj e]
  iterate 40 (try any_goals first
    | with_reducible (first | exact w | assumption | apply State.pf0Run_stays | apply State.settle_stays
                            | apply State.writeRun_stays | refine Stays.ite (fun _ => ?_) (fun _ => ?_)
                            | refine Stays.ofSnd (by assumption) ?_ | refine Stays.ofFst (by assumption) ?_)
    | intro _ _ _ | split | dsimp only | with_reducible refine Stays.upd ?_)

theorem execLogAppend_stays {σ s t : State} (w : Stays σ s) (h : Nat) (e : execLogAppend h s = .next t) :
    Stays σ t := by
  rw [← Host.Outcome.next.inj e]
  iterate 40 (try any_goals first
    | with_reducible (first | exact w | assumption | apply State.append_stays | apply State.pf0Run_stays
                            | apply State.settle_stays | refine Stays.ite (fun _ => ?_) (fun _ => ?_)
                            | refine Stays.ofSnd (by assumption) ?_ | refine Stays.ofFst (by assumption) ?_)
    | intro _ _ _ | split | dsimp only | with_reducible refine Stays.upd ?_)

theorem execLogRead_stays {σ s t : State} (w : Stays σ s) (h : Nat) (e : execLogRead h s = .next t) :
    Stays σ t := by
  rw [← Host.Outcome.next.inj e]
  iterate 40 (try any_goals first
    | with_reducible (first | exact w | assumption | apply State.logReadGo_stays | apply State.pf0Run_stays
                            | apply State.settle_stays | refine Stays.ite (fun _ => ?_) (fun _ => ?_)
                            | refine Stays.ofSnd (by assumption) ?_ | refine Stays.ofFst (by assumption) ?_)
    | intro _ _ _ | split | dsimp only | with_reducible refine Stays.upd ?_)

theorem execLogTrim_stays {σ s t : State} (w : Stays σ s) (h : Nat) (e : execLogTrim h s = .next t) :
    Stays σ t := by
  rw [← Host.Outcome.next.inj e]
  iterate 40 (try any_goals first
    | with_reducible (first | exact w | assumption | apply State.pf0Run_stays | apply State.settle_stays
                            | apply State.trimRun_stays | refine Stays.ite (fun _ => ?_) (fun _ => ?_)
                            | refine Stays.ofSnd (by assumption) ?_ | refine Stays.ofFst (by assumption) ?_)
    | intro _ _ _ | split | dsimp only | with_reducible refine Stays.upd ?_)

theorem execVolumeStatus_stays {σ s t : State} (w : Stays σ s) (h : Nat) (e : execVolumeStatus h s = .next t) :
    Stays σ t := by
  rw [← Host.Outcome.next.inj e]
  iterate 40 (try any_goals first
    | with_reducible (first | exact w | assumption | apply State.pf0Run_stays | apply State.settle_stays
                            | apply State.statusRun_stays | refine Stays.ite (fun _ => ?_) (fun _ => ?_)
                            | refine Stays.ofSnd (by assumption) ?_ | refine Stays.ofFst (by assumption) ?_)
    | intro _ _ _ | split | dsimp only | with_reducible refine Stays.upd ?_)

theorem execStreamStatus_stays {σ s t : State} (w : Stays σ s) (h : Nat) (e : execStreamStatus h s = .next t) :
    Stays σ t := by
  rw [← Host.Outcome.next.inj e]
  iterate 40 (try any_goals first
    | with_reducible (first | exact w | assumption | apply State.pf0Run_stays | apply State.settle_stays
                            | apply State.statusRun_stays | refine Stays.ite (fun _ => ?_) (fun _ => ?_)
                            | refine Stays.ofSnd (by assumption) ?_ | refine Stays.ofFst (by assumption) ?_)
    | intro _ _ _ | split | dsimp only | with_reducible refine Stays.upd ?_)

theorem execArrayCreate_stays {σ s t : State} (w : Stays σ s) (h : Nat) (e : execArrayCreate h s = .next t) :
    Stays σ t := by
  rw [← Host.Outcome.next.inj e]
  iterate 40 (try any_goals first
    | with_reducible (first | exact w | assumption | apply State.adminRun_stays | apply State.arrayCreate_stays
                            | apply State.settle_stays | refine Stays.ite (fun _ => ?_) (fun _ => ?_)
                            | refine Stays.ofSnd (by assumption) ?_ | refine Stays.ofFst (by assumption) ?_)
    | intro _ _ _ | split | dsimp only | with_reducible refine Stays.upd ?_)

theorem execArrayDelete_stays {σ s t : State} (w : Stays σ s) (h : Nat) (e : execArrayDelete h s = .next t) :
    Stays σ t := by
  rw [← Host.Outcome.next.inj e]
  iterate 40 (try any_goals first
    | with_reducible (first | exact w | assumption | apply State.adminRun_stays | apply State.arrayDelete_stays
                            | apply State.settle_stays | refine Stays.ite (fun _ => ?_) (fun _ => ?_)
                            | refine Stays.ofSnd (by assumption) ?_ | refine Stays.ofFst (by assumption) ?_)
    | intro _ _ _ | split | dsimp only | with_reducible refine Stays.upd ?_)

theorem execVolumeCreate_stays {σ s t : State} (w : Stays σ s) (h : Nat) (e : execVolumeCreate h s = .next t) :
    Stays σ t := by
  rw [← Host.Outcome.next.inj e]
  iterate 40 (try any_goals first
    | with_reducible (first | exact w | assumption | apply State.adminRun_stays | apply State.settle_stays
                            | apply State.volumeCreate_stays | refine Stays.ite (fun _ => ?_) (fun _ => ?_)
                            | refine Stays.ofSnd (by assumption) ?_ | refine Stays.ofFst (by assumption) ?_)
    | intro _ _ _ | split | dsimp only | with_reducible refine Stays.upd ?_)

theorem execVolumeDelete_stays {σ s t : State} (w : Stays σ s) (h : Nat) (e : execVolumeDelete h s = .next t) :
    Stays σ t := by
  rw [← Host.Outcome.next.inj e]
  iterate 40 (try any_goals first
    | with_reducible (first | exact w | assumption | apply State.adminRun_stays | apply State.settle_stays
                            | apply State.volumeDelete_stays | refine Stays.ite (fun _ => ?_) (fun _ => ?_)
                            | refine Stays.ofSnd (by assumption) ?_ | refine Stays.ofFst (by assumption) ?_)
    | intro _ _ _ | split | dsimp only | with_reducible refine Stays.upd ?_)

theorem execVolumeSet_stays {σ s t : State} (w : Stays σ s) (h : Nat) (e : execVolumeSet h s = .next t) :
    Stays σ t := by
  rw [← Host.Outcome.next.inj e]
  iterate 40 (try any_goals first
    | with_reducible (first | exact w | assumption | apply State.adminRun_stays | apply State.settle_stays
                            | apply State.volumeSet_stays | refine Stays.ite (fun _ => ?_) (fun _ => ?_)
                            | refine Stays.ofSnd (by assumption) ?_ | refine Stays.ofFst (by assumption) ?_)
    | intro _ _ _ | split | dsimp only | with_reducible refine Stays.upd ?_)

theorem execSpareSet_stays {σ s t : State} (w : Stays σ s) (h : Nat) (e : execSpareSet h s = .next t) :
    Stays σ t := by
  rw [← Host.Outcome.next.inj e]
  iterate 40 (try any_goals first
    | with_reducible (first | exact w | assumption | apply State.adminRun_stays | apply State.settle_stays
                            | apply State.spareSet_stays | refine Stays.ite (fun _ => ?_) (fun _ => ?_)
                            | refine Stays.ofSnd (by assumption) ?_ | refine Stays.ofFst (by assumption) ?_)
    | intro _ _ _ | split | dsimp only | with_reducible refine Stays.upd ?_)

theorem execStreamCreate_stays {σ s t : State} (w : Stays σ s) (h : Nat) (e : execStreamCreate h s = .next t) :
    Stays σ t := by
  rw [← Host.Outcome.next.inj e]
  iterate 40 (try any_goals first
    | with_reducible (first | exact w | assumption | apply State.adminRun_stays | apply State.settle_stays
                            | apply State.streamCreate_stays | refine Stays.ite (fun _ => ?_) (fun _ => ?_)
                            | refine Stays.ofSnd (by assumption) ?_ | refine Stays.ofFst (by assumption) ?_)
    | intro _ _ _ | split | dsimp only | with_reducible refine Stays.upd ?_)

theorem execStreamDelete_stays {σ s t : State} (w : Stays σ s) (h : Nat) (e : execStreamDelete h s = .next t) :
    Stays σ t := by
  rw [← Host.Outcome.next.inj e]
  iterate 40 (try any_goals first
    | with_reducible (first | exact w | assumption | apply State.adminRun_stays | apply State.settle_stays
                            | apply State.streamDelete_stays | refine Stays.ite (fun _ => ?_) (fun _ => ?_)
                            | refine Stays.ofSnd (by assumption) ?_ | refine Stays.ofFst (by assumption) ?_)
    | intro _ _ _ | split | dsimp only | with_reducible refine Stays.upd ?_)

theorem execMemberFail_stays {σ s t : State} (w : Stays σ s) (h : Nat) (e : execMemberFail h s = .next t) :
    Stays σ t := by
  rw [← Host.Outcome.next.inj e]
  iterate 40 (try any_goals first
    | with_reducible (first | exact w | assumption | apply State.adminEnd_stays | apply State.adminRun_stays
                            | apply State.failMember_stays | apply State.settle_stays
                            | refine Stays.ite (fun _ => ?_) (fun _ => ?_) | refine Stays.ofSnd (by assumption) ?_
                            | refine Stays.ofFst (by assumption) ?_)
    | intro _ _ _ | split | dsimp only | with_reducible refine Stays.upd ?_)

theorem execRebuildInPlace_stays {σ s t : State} (w : Stays σ s) (h : Nat) (e : execRebuildInPlace h s = .next t) :
    Stays σ t := by
  rw [← Host.Outcome.next.inj e]
  iterate 40 (try any_goals first
    | with_reducible (first | exact w | assumption | apply State.adminRun_stays | apply State.inPlace_stays
                            | apply State.settle_stays | refine Stays.ite (fun _ => ?_) (fun _ => ?_)
                            | refine Stays.ofSnd (by assumption) ?_ | refine Stays.ofFst (by assumption) ?_)
    | intro _ _ _ | split | dsimp only | with_reducible refine Stays.upd ?_)

theorem execStripeRelease_stays {σ s t : State} (w : Stays σ s) (h : Nat) (e : execStripeRelease h s = .next t) :
    Stays σ t := by
  rw [← Host.Outcome.next.inj e]
  iterate 40 (try any_goals first
    | with_reducible (first | exact w | assumption | apply State.adminRun_stays | apply State.settle_stays
                            | apply State.stripeRelease_stays | refine Stays.ite (fun _ => ?_) (fun _ => ?_)
                            | refine Stays.ofSnd (by assumption) ?_ | refine Stays.ofFst (by assumption) ?_)
    | intro _ _ _ | split | dsimp only | with_reducible refine Stays.upd ?_)

theorem execSetMode_stays {σ s t : State} (w : Stays σ s) (h : Nat) (e : execSetMode h s = .next t) :
    Stays σ t := by
  rw [← Host.Outcome.next.inj e]
  iterate 40 (try any_goals first
    | with_reducible (first | exact w | assumption | apply State.adminEnd_stays | apply State.adminRun_stays
                            | apply State.setMode_stays | apply State.settle_stays
                            | refine Stays.ite (fun _ => ?_) (fun _ => ?_) | refine Stays.ofSnd (by assumption) ?_
                            | refine Stays.ofFst (by assumption) ?_)
    | intro _ _ _ | split | dsimp only | with_reducible refine Stays.upd ?_)

theorem execWriteBack_stays {σ s t : State} (w : Stays σ s) (h : Nat) (e : execWriteBack h s = .next t) :
    Stays σ t := by
  rw [← Host.Outcome.next.inj e]
  iterate 40 (try any_goals first
    | with_reducible (first | exact w | assumption | apply State.adminRun_stays | apply State.settle_stays
                            | apply State.writeBack_stays | refine Stays.ite (fun _ => ?_) (fun _ => ?_)
                            | refine Stays.ofSnd (by assumption) ?_ | refine Stays.ofFst (by assumption) ?_)
    | intro _ _ _ | split | dsimp only | with_reducible refine Stays.upd ?_)

theorem execTimeSet_stays {σ s t : State} (w : Stays σ s) (h : Nat) (e : execTimeSet h s = .next t) :
    Stays σ t := by
  rw [← Host.Outcome.next.inj e]
  iterate 40 (try any_goals first
    | with_reducible (first | exact w | assumption | apply State.adminEnd_stays | apply State.adminRun_stays
                            | apply State.settle_stays | apply State.timeSet_stays
                            | refine Stays.ite (fun _ => ?_) (fun _ => ?_) | refine Stays.ofSnd (by assumption) ?_
                            | refine Stays.ofFst (by assumption) ?_)
    | intro _ _ _ | split | dsimp only | with_reducible refine Stays.upd ?_)

theorem execCommission_stays {σ s t : State} (w : Stays σ s) (h : Nat) (e : execCommission h s = .next t) :
    Stays σ t := by
  rw [← Host.Outcome.next.inj e]
  iterate 40 (try any_goals first
    | with_reducible (first | exact w | assumption | apply State.mwTell_stays | apply State.adminRun_stays | apply State.commStart_stays
                            | apply State.goLong_stays | apply State.settle_stays | refine Stays.ite (fun _ => ?_) (fun _ => ?_)
                            | refine Stays.ofSnd (by assumption) ?_ | refine Stays.ofFst (by assumption) ?_)
    | intro _ _ _ | split | dsimp only | with_reducible refine Stays.upd ?_)

theorem execNoticeRoute_stays {σ s t : State} (w : Stays σ s) (h : Nat) (e : execNoticeRoute h s = .next t) :
    Stays σ t := by
  rw [← Host.Outcome.next.inj e]
  iterate 40 (try any_goals first
    | with_reducible (first | exact w | assumption | apply State.adminEnd_stays | apply State.adminRun_stays
                            | apply State.settle_stays | refine Stays.ite (fun _ => ?_) (fun _ => ?_)
                            | refine Stays.ofSnd (by assumption) ?_ | refine Stays.ofFst (by assumption) ?_)
    | intro _ _ _ | split | dsimp only | with_reducible refine Stays.upd ?_)

theorem execArrayImport_stays {σ s t : State} (w : Stays σ s) (h : Nat) (e : execArrayImport h s = .next t) :
    Stays σ t := by
  rw [← Host.Outcome.next.inj e]
  iterate 40 (try any_goals first
    | with_reducible (first | exact w | assumption | apply State.adminRun_stays | apply State.arrayImport_stays
                            | apply State.settle_stays | refine Stays.ite (fun _ => ?_) (fun _ => ?_)
                            | refine Stays.ofSnd (by assumption) ?_ | refine Stays.ofFst (by assumption) ?_)
    | intro _ _ _ | split | dsimp only | with_reducible refine Stays.upd ?_)

theorem execImageImport_stays {σ s t : State} (w : Stays σ s) (h : Nat) (e : execImageImport h s = .next t) :
    Stays σ t := by
  rw [← Host.Outcome.next.inj e]
  iterate 40 (try any_goals first
    | with_reducible (first | exact w | assumption | apply State.adminRun_stays | apply State.imageImport_stays
                            | apply State.settle_stays | refine Stays.ite (fun _ => ?_) (fun _ => ?_)
                            | refine Stays.ofSnd (by assumption) ?_ | refine Stays.ofFst (by assumption) ?_)
    | intro _ _ _ | split | dsimp only | with_reducible refine Stays.upd ?_)

theorem execFwDownload_stays {σ s t : State} (w : Stays σ s) (h : Nat) (e : execFwDownload h s = .next t) :
    Stays σ t := by
  rw [← Host.Outcome.next.inj e]
  iterate 40 (try any_goals first
    | with_reducible (first | exact w | assumption | apply State.adminEnd_stays | apply State.adminRun_stays
                            | apply State.memPut_stays | apply State.settle_stays | refine Stays.ite (fun _ => ?_) (fun _ => ?_)
                            | refine Stays.ofSnd (by assumption) ?_ | refine Stays.ofFst (by assumption) ?_)
    | intro _ _ _ | split | dsimp only | with_reducible refine Stays.upd ?_)

theorem execFwActivate_stays {σ s t : State} (w : Stays σ s) (h : Nat) (e : execFwActivate h s = .next t) :
    Stays σ t := by
  rw [← Host.Outcome.next.inj e]
  iterate 40 (try any_goals first
    | with_reducible (first | exact w | assumption | apply State.adminRun_stays | apply State.fwActivate_stays
                            | apply State.settle_stays | refine Stays.ite (fun _ => ?_) (fun _ => ?_)
                            | refine Stays.ofSnd (by assumption) ?_ | refine Stays.ofFst (by assumption) ?_)
    | intro _ _ _ | split | dsimp only | with_reducible refine Stays.upd ?_)

theorem execFwRestart_stays {σ s t : State} (w : Stays σ s) (e : execFwRestart s = .next t) :
    Stays σ t := by
  rw [← Host.Outcome.next.inj e]
  iterate 40 (try any_goals first
    | with_reducible (first | exact w | assumption | apply State.fwGo_stays | apply State.settle_stays
                            | refine Stays.ite (fun _ => ?_) (fun _ => ?_) | refine Stays.ofSnd (by assumption) ?_
                            | refine Stays.ofFst (by assumption) ?_)
    | split | dsimp only | with_reducible refine Stays.upd ?_)

theorem execGetNonce_stays {σ s t : State} (w : Stays σ s) (h : Nat) (e : execGetNonce h s = .next t) :
    Stays σ t := by
  rw [← Host.Outcome.next.inj e]
  iterate 40 (try any_goals first
    | with_reducible (first | exact w | assumption | apply State.adminRun_stays | apply State.getNonce_stays
                            | apply State.settle_stays | refine Stays.ite (fun _ => ?_) (fun _ => ?_)
                            | refine Stays.ofSnd (by assumption) ?_ | refine Stays.ofFst (by assumption) ?_)
    | intro _ _ _ | split | dsimp only | with_reducible refine Stays.upd ?_)

theorem execAlmanacClear_stays {σ s t : State} (w : Stays σ s) (h : Nat) (e : execAlmanacClear h s = .next t) :
    Stays σ t := by
  rw [← Host.Outcome.next.inj e]
  iterate 40 (try any_goals first
    | with_reducible (first | exact w | assumption | apply State.adminRun_stays | apply State.almanacClear_stays
                            | apply State.settle_stays | refine Stays.ite (fun _ => ?_) (fun _ => ?_)
                            | refine Stays.ofSnd (by assumption) ?_ | refine Stays.ofFst (by assumption) ?_)
    | intro _ _ _ | split | dsimp only | with_reducible refine Stays.upd ?_)

theorem execKeySet_stays {σ s t : State} (w : Stays σ s) (h : Nat) (e : execKeySet h s = .next t) :
    Stays σ t := by
  rw [← Host.Outcome.next.inj e]
  iterate 40 (try any_goals first
    | with_reducible (first | exact w | assumption | apply State.adminRun_stays | apply State.keySet_stays
                            | apply State.settle_stays | refine Stays.ite (fun _ => ?_) (fun _ => ?_)
                            | refine Stays.ofSnd (by assumption) ?_ | refine Stays.ofFst (by assumption) ?_)
    | intro _ _ _ | split | dsimp only | with_reducible refine Stays.upd ?_)

theorem execLoLatchRead_stays {σ s t : State} (w : Stays σ s) (off : Nat) (e : execLoLatchRead off s = .next t) :
    Stays σ t := by
  rw [← Host.Outcome.next.inj e]
  iterate 40 (try any_goals first
    | with_reducible (first | exact w | assumption | apply State.put_stays | apply State.regRead_stays
                            | refine Stays.ite (fun _ => ?_) (fun _ => ?_) | refine Stays.ofSnd (by assumption) ?_
                            | refine Stays.ofFst (by assumption) ?_)
    | split | dsimp only | with_reducible refine Stays.upd ?_)

theorem execRegisterWrite_stays {σ s t : State} (w : Stays σ s) (f : Func) (off len : Nat) (val : W64) (e : execRegisterWrite f off len val s = .next t) :
    Stays σ t := by
  rw [← Host.Outcome.next.inj e]
  iterate 40 (try any_goals first
    | with_reducible (first | exact w | assumption | apply State.barWrite_stays | apply State.bump_stays
                            | refine Stays.ite (fun _ => ?_) (fun _ => ?_) | refine Stays.ofSnd (by assumption) ?_
                            | refine Stays.ofFst (by assumption) ?_)
    | split | dsimp only | with_reducible refine Stays.upd ?_)

theorem execKwFieldWrite_stays {σ s t : State} (h : Stays σ s) (off : Nat) (val : KwWrite) (e : execKwFieldWrite off val s = .next t) :
    Stays σ t := by
  unfold execKwFieldWrite at e
  rw [← Host.Outcome.next.inj e]
  iterate 40 (try any_goals first
    | with_reducible (first | exact h | assumption | apply State.keepErr_stays | apply State.kwWrite_stays | apply Stays.foldl
                            | apply Stays.foldlSnd | apply Stays.foldlFst | refine Stays.ite (fun _ => ?_) (fun _ => ?_)
                            | refine Stays.ofSnd (by assumption) ?_ | refine Stays.ofFst (by assumption) ?_)
    | intro _ _ _ | split | dsimp only | with_reducible refine Stays.upd ?_)

theorem execConsoleInput_stays {σ s t : State} (w : Stays σ s) (op : ConsoleOp) (e : execConsoleInput op s = .next t) :
    Stays σ t := by
  rw [← Host.Outcome.next.inj e]
  iterate 40 (try any_goals first
    | with_reducible (first | exact w | assumption | apply State.conRead_stays | apply State.conWrite_stays
                            | refine Stays.ite (fun _ => ?_) (fun _ => ?_) | refine Stays.ofSnd (by assumption) ?_
                            | refine Stays.ofFst (by assumption) ?_)
    | split | dsimp only | with_reducible refine Stays.upd ?_)

theorem execAlmanacSample_stays {σ s t : State} (w : Stays σ s) (m : AlSample) (e : execAlmanacSample m s = .next t) :
    Stays σ t := by
  rw [← Host.Outcome.next.inj e]
  iterate 40 (try any_goals first
    | with_reducible (first | exact w | assumption | apply State.sampleExts_stays | apply State.sampleHists_stays
                            | apply State.setReg_stays | apply State.tjSeen_stays | refine Stays.ite (fun _ => ?_) (fun _ => ?_)
                            | refine Stays.ofSnd (by assumption) ?_ | refine Stays.ofFst (by assumption) ?_)
    | split | dsimp only | with_reducible refine Stays.upd ?_)

theorem execMgtHealthRefresh_stays {σ s t : State} (w : Stays σ s) (e : execMgtHealthRefresh s = .next t) :
    Stays σ t := by
  rw [← Host.Outcome.next.inj e]
  iterate 40 (try any_goals first
    | with_reducible (first | exact w | assumption | refine Stays.ite (fun _ => ?_) (fun _ => ?_)
                            | refine Stays.ofSnd (by assumption) ?_ | refine Stays.ofFst (by assumption) ?_)
    | split | dsimp only | with_reducible refine Stays.upd ?_)

theorem execTapInstruction_stays {σ s t : State} (w : Stays σ s) (code : BitVec 6) (e : execTapInstruction code s = .next t) :
    Stays σ t := by
  rw [← Host.Outcome.next.inj e]
  iterate 40 (try any_goals first
    | with_reducible (first | exact w | assumption | apply State.put_stays | refine Stays.ite (fun _ => ?_) (fun _ => ?_)
                            | refine Stays.ofSnd (by assumption) ?_ | refine Stays.ofFst (by assumption) ?_)
    | split | dsimp only | with_reducible refine Stays.upd ?_)

theorem execMemberCompletion_stays {σ s t : State} (w : Stays σ s) (port qp cid : Nat) (ok dnr : Bool) (pay : MPayload) (e : execMemberCompletion port qp cid ok dnr pay s = .next t) :
    Stays σ t := by
  rw [← Host.Outcome.next.inj e]
  iterate 40 (try any_goals first
    | with_reducible (first | exact w | assumption | apply State.mpDone_stays | apply State.settle_stays
                            | refine Stays.ite (fun _ => ?_) (fun _ => ?_) | refine Stays.ofSnd (by assumption) ?_
                            | refine Stays.ofFst (by assumption) ?_)
    | split | dsimp only | with_reducible refine Stays.upd ?_)

theorem execMemberCmdTimeout_stays {σ s t : State} (w : Stays σ s) (port qp cid : Nat) (e : execMemberCmdTimeout port qp cid s = .next t) :
    Stays σ t := by
  rw [← Host.Outcome.next.inj e]
  iterate 40 (try any_goals first
    | with_reducible (first | exact w | assumption | apply State.mpTimeout_stays | apply State.settle_stays
                            | refine Stays.ite (fun _ => ?_) (fun _ => ?_) | refine Stays.ofSnd (by assumption) ?_
                            | refine Stays.ofFst (by assumption) ?_)
    | split | dsimp only | with_reducible refine Stays.upd ?_)

theorem execMemberLongTimeout_stays {σ s t : State} (w : Stays σ s) (port qp cid : Nat) (e : execMemberLongTimeout port qp cid s = .next t) :
    Stays σ t := by
  rw [← Host.Outcome.next.inj e]
  iterate 40 (try any_goals first
    | with_reducible (first | exact w | assumption | apply State.failMember_stays | apply State.settle_stays
                            | refine Stays.ite (fun _ => ?_) (fun _ => ?_) | refine Stays.ofSnd (by assumption) ?_
                            | refine Stays.ofFst (by assumption) ?_)
    | split | dsimp only | with_reducible refine Stays.upd ?_)

theorem execMemberLinkDown_stays {σ s t : State} (h : Stays σ s) (port : Nat) (e : execMemberLinkDown port s = .next t) :
    Stays σ t := by
  unfold execMemberLinkDown at e
  rw [← Host.Outcome.next.inj e]
  iterate 40 (try any_goals first
    | with_reducible (first | exact h | assumption | apply State.tlUpdate_stays | apply State.linkDown_stays
                            | apply State.settle_stays | refine Stays.ite (fun _ => ?_) (fun _ => ?_)
                            | refine Stays.ofSnd (by assumption) ?_ | refine Stays.ofFst (by assumption) ?_)
    | split | dsimp only | with_reducible refine Stays.upd ?_)

theorem execMemberLinkUp_stays {σ s t : State} (h : Stays σ s) (port lanes speed : Nat) (e : execMemberLinkUp port lanes speed s = .next t) :
    Stays σ t := by
  unfold execMemberLinkUp at e
  rw [← Host.Outcome.next.inj e]
  iterate 40 (try any_goals first
    | with_reducible (first | exact h | assumption | apply State.tlUpdate_stays | apply State.linkUp_stays
                            | apply State.settle_stays | refine Stays.ite (fun _ => ?_) (fun _ => ?_)
                            | refine Stays.ofSnd (by assumption) ?_ | refine Stays.ofFst (by assumption) ?_)
    | split | dsimp only | with_reducible refine Stays.upd ?_)

theorem execRetrainTimeout_stays {σ s t : State} (w : Stays σ s) (port : Nat) (e : execRetrainTimeout port s = .next t) :
    Stays σ t := by
  rw [← Host.Outcome.next.inj e]
  iterate 40 (try any_goals first
    | with_reducible (first | exact w | assumption | apply State.portReject_stays | apply State.settle_stays
                            | refine Stays.ite (fun _ => ?_) (fun _ => ?_) | refine Stays.ofSnd (by assumption) ?_
                            | refine Stays.ofFst (by assumption) ?_)
    | split | dsimp only | with_reducible refine Stays.upd ?_)

theorem execTrainingTimeout_stays {σ s t : State} (w : Stays σ s) (port : Nat) (e : execTrainingTimeout port s = .next t) :
    Stays σ t := by
  rw [← Host.Outcome.next.inj e]
  iterate 40 (try any_goals first
    | with_reducible (first | exact w | assumption | apply State.portReject_stays | apply State.settle_stays
                            | refine Stays.ite (fun _ => ?_) (fun _ => ?_) | refine Stays.ofSnd (by assumption) ?_
                            | refine Stays.ofFst (by assumption) ?_)
    | split | dsimp only | with_reducible refine Stays.upd ?_)

theorem execReadyWaitTimeout_stays {σ s t : State} (w : Stays σ s) (port : Nat) (e : execReadyWaitTimeout port s = .next t) :
    Stays σ t := by
  rw [← Host.Outcome.next.inj e]
  iterate 40 (try any_goals first
    | with_reducible (first | exact w | assumption | apply State.portReject_stays | apply State.settle_stays
                            | refine Stays.ite (fun _ => ?_) (fun _ => ?_) | refine Stays.ofSnd (by assumption) ?_
                            | refine Stays.ofFst (by assumption) ?_)
    | split | dsimp only | with_reducible refine Stays.upd ?_)

theorem execCstsRdy_stays {σ s t : State} (w : Stays σ s) (port : Nat) (e : execCstsRdy port s = .next t) :
    Stays σ t := by
  rw [← Host.Outcome.next.inj e]
  iterate 40 (try any_goals first
    | with_reducible (first | exact w | assumption | apply State.initCmd_stays | apply State.settle_stays
                            | apply State.updPort_stays | refine Stays.ite (fun _ => ?_) (fun _ => ?_)
                            | refine Stays.ofSnd (by assumption) ?_ | refine Stays.ofFst (by assumption) ?_)
    | split | dsimp only | with_reducible refine Stays.upd ?_)

theorem execPowerWaitExpiry_stays {σ s t : State} (w : Stays σ s) (port : Nat) (e : execPowerWaitExpiry port s = .next t) :
    Stays σ t := by
  rw [← Host.Outcome.next.inj e]
  iterate 40 (try any_goals first
    | with_reducible (first | exact w | assumption | apply State.sbSync_stays | apply State.updPort_stays
                            | refine Stays.ite (fun _ => ?_) (fun _ => ?_) | refine Stays.ofSnd (by assumption) ?_
                            | refine Stays.ofFst (by assumption) ?_)
    | split | dsimp only | with_reducible refine Stays.upd ?_)

theorem execPresencePoll_stays {σ s t : State} (w : Stays σ s) (bus : Nat) (ack : Bool) (bits : BitVec 16) (e : execPresencePoll bus ack bits s = .next t) :
    Stays σ t := by
  rw [← Host.Outcome.next.inj e]
  iterate 40 (try any_goals first
    | with_reducible (first | exact w | assumption | apply State.sbNak_stays | apply State.sbPoll_stays
                            | apply State.settle_stays | refine Stays.ite (fun _ => ?_) (fun _ => ?_)
                            | refine Stays.ofSnd (by assumption) ?_ | refine Stays.ofFst (by assumption) ?_)
    | split | dsimp only | with_reducible refine Stays.upd ?_)

theorem execSmartPoll_stays {σ s t : State} (w : Stays σ s) (port : Nat) (e : execSmartPoll port s = .next t) :
    Stays σ t := by
  rw [← Host.Outcome.next.inj e]
  iterate 40 (try any_goals first
    | with_reducible (first | exact w | assumption | apply State.mpIssue_stays | apply State.updPort_stays
                            | refine Stays.ite (fun _ => ?_) (fun _ => ?_) | refine Stays.ofSnd (by assumption) ?_
                            | refine Stays.ofFst (by assumption) ?_)
    | split | dsimp only | with_reducible refine Stays.upd ?_)

/-- What every command but the two rows of a power-on reset keeps. -/
theorem exec_stays (c : Instr) (s t : State) (h1 : ∀ x, c ≠ .powerOnReset x) (h2 : ∀ r, c ≠ .railOutOfWindow r)
    (e : exec c s = .next t) : Stays s t := by
  cases c with
  | powerOnReset x => exact absurd rfl (h1 x)
  | railOutOfWindow x => exact absurd rfl (h2 x)
  | chipRstAssert => exact execChipRstAssert_stays (Stays.refl s) e
  | coreReset mv => exact execCoreReset_stays (Stays.refl s) mv e
  | startupStep => exact execStartupStep_stays (Stays.refl s) e
  | memberWaitExpiry => exact execMemberWaitExpiry_stays (Stays.refl s) e
  | droopStage mv => exact execDroopStage_stays (Stays.refl s) mv e
  | dumpOnlyEntry mv => exact execDumpOnlyEntry_stays (Stays.refl s) mv e
  | vcoreSettleExpiry => exact execVcoreSettleExpiry_stays (Stays.refl s) e
  | refclkLoss clk => exact execRefclkLoss_stays (Stays.refl s) clk e
  | thermCrossing tj => exact execThermCrossing_stays (Stays.refl s) tj e
  | timeSaveTimer => exact execTimeSaveTimer_stays (Stays.refl s) e
  | sleepEval => exact execSleepEval_stays (Stays.refl s) e
  | wakeEvent src => exact execWakeEvent_stays (Stays.refl s) src e
  | dramRetrain tj => exact execDramRetrain_stays (Stays.refl s) tj e
  | speedWindow laps => exact execSpeedWindow_stays (Stays.refl s) laps e
  | lowClr n => exact execLowClr_stays (Stays.refl s) n e
  | vinFilterExpiry mv => exact execVinFilterExpiry_stays (Stays.refl s) mv e
  | pfNLow => exact execPfNLow_stays (Stays.refl s) e
  | dumpVcoreRequest => exact execDumpVcoreRequest_stays (Stays.refl s) e
  | destageStop => exact execDestageStop_stays (Stays.refl s) e
  | dumpSnapshot => exact execDumpSnapshot_stays (Stays.refl s) e
  | vinReturn mv => exact execVinReturn_stays (Stays.refl s) mv e
  | resumeWaitExpiry => exact execResumeWaitExpiry_stays (Stays.refl s) e
  | keepLowVoltage mv => exact execKeepLowVoltage_stays (Stays.refl s) mv e
  | perstAssert => exact execPerstAssert_stays (Stays.refl s) e
  | perstRelease => exact execPerstRelease_stays (Stays.refl s) e
  | hotReset => exact execHotReset_stays (Stays.refl s) e
  | hostLinkDown => exact execHostLinkDown_stays (Stays.refl s) e
  | flr f => exact execFlr_stays (Stays.refl s) f e
  | flrWaitDone f => exact execFlrWaitDone_stays (Stays.refl s) f e
  | bmeClear f => exact execBmeClear_stays (Stays.refl s) f e
  | bmeSet f => exact execBmeSet_stays (Stays.refl s) f e
  | d3hotEntry f => exact execD3hotEntry_stays (Stays.refl s) f e
  | d0Return f => exact execD0Return_stays (Stays.refl s) f e
  | configRequest f off wr => exact execConfigRequest_stays (Stays.refl s) f off wr e
  | bar0InvalidAccess f off len wr => exact execBar0InvalidAccess_stays (Stays.refl s) f off len wr e
  | bar2Access f off len wr ecc => exact execBar2Access_stays (Stays.refl s) f off len wr ecc e
  | hostReadCompletion tag st data => exact execHostReadCompletion_stays (Stays.refl s) tag st data e
  | hostReadTimeout tag => exact execHostReadTimeout_stays (Stays.refl s) tag e
  | tagQuarantineExpiry tag => exact execTagQuarantineExpiry_stays (Stays.refl s) tag e
  | hpDatapathError => exact execHpDatapathError_stays (Stays.refl s) e
  | freezeForce => exact execFreezeForce_stays (Stays.refl s) e
  | freezeRelease => exact execFreezeRelease_stays (Stays.refl s) e
  | msixUnmask f vec => exact execMsixUnmask_stays (Stays.refl s) f vec e
  | ltrIdleTimer => exact execLtrIdleTimer_stays (Stays.refl s) e
  | sqTailDoorbell f q val => exact execSqTailDoorbell_stays (Stays.refl s) f q val e
  | cqHeadDoorbell f q val => exact execCqHeadDoorbell_stays (Stays.refl s) f q val e
  | inlineSlotWrite f q off data => exact execInlineSlotWrite_stays (Stays.refl s) f q off data e
  | inlFlush f q => exact execInlFlush_stays (Stays.refl s) f q e
  | sqEnable f q => exact execSqEnable_stays (Stays.refl s) f q e
  | sqDisable f q => exact execSqDisable_stays (Stays.refl s) f q e
  | cqEnable f q => exact execCqEnable_stays (Stays.refl s) f q e
  | cqDisable f q => exact execCqDisable_stays (Stays.refl s) f q e
  | ringDrainDone f q => exact execRingDrainDone_stays (Stays.refl s) f q e
  | ringFetch => exact execRingFetch_stays (Stays.refl s) e
  | ownRereadTimeout f q => exact execOwnRereadTimeout_stays (Stays.refl s) f q e
  | headReportTimer f q => exact execHeadReportTimer_stays (Stays.refl s) f q e
  | collectorDeposit => exact execCollectorDeposit_stays (Stays.refl s) e
  | completionDrain => exact execCompletionDrain_stays (Stays.refl s) e
  | cqOwnPoll f q => exact execCqOwnPoll_stays (Stays.refl s) f q e
  | coalesceTimeout f q => exact execCoalesceTimeout_stays (Stays.refl s) f q e
  | inlineStaleTimeout => exact execInlineStaleTimeout_stays (Stays.refl s) e
  | collectorPromoteTimeout => exact execCollectorPromoteTimeout_stays (Stays.refl s) e
  | stallNoticeTimeout => exact execStallNoticeTimeout_stays (Stays.refl s) e
  | noticeDrain => exact execNoticeDrain_stays (Stays.refl s) e
  | almanacEventTake => exact execAlmanacEventTake_stays (Stays.refl s) e
  | read h => exact execRead_stays (Stays.refl s) h e
  | write h => exact execWrite_stays (Stays.refl s) h e
  | writeZeroes h => exact execWriteZeroes_stays (Stays.refl s) h e
  | flush h => exact execFlush_stays (Stays.refl s) h e
  | deallocate h => exact execDeallocate_stays (Stays.refl s) h e
  | logAppend h => exact execLogAppend_stays (Stays.refl s) h e
  | logRead h => exact execLogRead_stays (Stays.refl s) h e
  | logTrim h => exact execLogTrim_stays (Stays.refl s) h e
  | volumeStatus h => exact execVolumeStatus_stays (Stays.refl s) h e
  | streamStatus h => exact execStreamStatus_stays (Stays.refl s) h e
  | holdingRecheck st => exact execHoldingRecheck_stays (Stays.refl s) st e
  | arrayCreate h => exact execArrayCreate_stays (Stays.refl s) h e
  | arrayDelete h => exact execArrayDelete_stays (Stays.refl s) h e
  | volumeCreate h => exact execVolumeCreate_stays (Stays.refl s) h e
  | volumeDelete h => exact execVolumeDelete_stays (Stays.refl s) h e
  | volumeDeleteProceed vol => exact execVolumeDeleteProceed_stays (Stays.refl s) vol e
  | volumeSet h => exact execVolumeSet_stays (Stays.refl s) h e
  | spareSet h => exact execSpareSet_stays (Stays.refl s) h e
  | streamCreate h => exact execStreamCreate_stays (Stays.refl s) h e
  | streamDelete h => exact execStreamDelete_stays (Stays.refl s) h e
  | memberFail h => exact execMemberFail_stays (Stays.refl s) h e
  | rebuildInPlace h => exact execRebuildInPlace_stays (Stays.refl s) h e
  | stripeRelease h => exact execStripeRelease_stays (Stays.refl s) h e
  | setMode h => exact execSetMode_stays (Stays.refl s) h e
  | writeBack h => exact execWriteBack_stays (Stays.refl s) h e
  | timeSet h => exact execTimeSet_stays (Stays.refl s) h e
  | commission h => exact execCommission_stays (Stays.refl s) h e
  | arrayImport h => exact execArrayImport_stays (Stays.refl s) h e
  | imageImport h => exact execImageImport_stays (Stays.refl s) h e
  | fwDownload h => exact execFwDownload_stays (Stays.refl s) h e
  | fwActivate h => exact execFwActivate_stays (Stays.refl s) h e
  | fwRestart => exact execFwRestart_stays (Stays.refl s) e
  | getNonce h => exact execGetNonce_stays (Stays.refl s) h e
  | almanacClear h => exact execAlmanacClear_stays (Stays.refl s) h e
  | keySet h => exact execKeySet_stays (Stays.refl s) h e
  | noticeRoute h => exact execNoticeRoute_stays (Stays.refl s) h e
  | nonceExpiry => exact execNonceExpiry_stays (Stays.refl s) e
  | creditWaitGrant => exact execCreditWaitGrant_stays (Stays.refl s) e
  | creditWaitTimeout => exact execCreditWaitTimeout_stays (Stays.refl s) e
  | slotWaitResume => exact execSlotWaitResume_stays (Stays.refl s) e
  | claimWaitResume arr stripe => exact execClaimWaitResume_stays (Stays.refl s) arr stripe e
  | idleTimerExpiry fr => exact execIdleTimerExpiry_stays (Stays.refl s) fr e
  | ageLimitExpiry fr => exact execAgeLimitExpiry_stays (Stays.refl s) fr e
  | destageStart => exact execDestageStart_stays (Stays.refl s) e
  | ldWbClear => exact execLdWbClear_stays (Stays.refl s) e
  | ldWbSet => exact execLdWbSet_stays (Stays.refl s) e
  | ldDrain => exact execLdDrain_stays (Stays.refl s) e
  | ldProbeRead => exact execLdProbeRead_stays (Stays.refl s) e
  | ledgerEntryGrant => exact execLedgerEntryGrant_stays (Stays.refl s) e
  | statePageTimer arr page => exact execStatePageTimer_stays (Stays.refl s) arr page e
  | copyBlockTimer arr blk => exact execCopyBlockTimer_stays (Stays.refl s) arr blk e
  | loomJobSubmit q => exact execLoomJobSubmit_stays (Stays.refl s) q e
  | loomJobStart => exact execLoomJobStart_stays (Stays.refl s) e
  | loomJobComplete ctx eccBad => exact execLoomJobComplete_stays (Stays.refl s) ctx eccBad e
  | lmTjobGo => exact execLmTjobGo_stays (Stays.refl s) e
  | injectDp => exact execInjectDp_stays (Stays.refl s) e
  | scFillReturn line => exact execScFillReturn_stays (Stays.refl s) line e
  | scBufferWriteback => exact execScBufferWriteback_stays (Stays.refl s) e
  | scDisable => exact execScDisable_stays (Stays.refl s) e
  | scDrainDone => exact execScDrainDone_stays (Stays.refl s) e
  | scEnable => exact execScEnable_stays (Stays.refl s) e
  | scInvalidateDone => exact execScInvalidateDone_stays (Stays.refl s) e
  | ceilingRecompute => exact execCeilingRecompute_stays (Stays.refl s) e
  | learnWindow m => exact execLearnWindow_stays (Stays.refl s) m e
  | relearnModel => exact execRelearnModel_stays (Stays.refl s) e
  | mwControlPeriod m => exact execMwControlPeriod_stays (Stays.refl s) m e
  | hubSample pinUv brkFb => exact execHubSample_stays (Stays.refl s) pinUv brkFb e
  | chopOvFilterExpiry brkFb => exact execChopOvFilterExpiry_stays (Stays.refl s) brkFb e
  | peakTrip dc => exact execPeakTrip_stays (Stays.refl s) dc e
  | mwStartCommand brkFb => exact execMwStartCommand_stays (Stays.refl s) brkFb e
  | mwStopCommand => exact execMwStopCommand_stays (Stays.refl s) e
  | mwClear brkFb => exact execMwClear_stays (Stays.refl s) brkFb e
  | mwComm => exact execMwComm_stays (Stays.refl s) e
  | mwAbort => exact execMwAbort_stays (Stays.refl s) e
  | commissionStepDone m => exact execCommissionStepDone_stays (Stays.refl s) m e
  | alignTimer => exact execAlignTimer_stays (Stays.refl s) e
  | rampTimeout => exact execRampTimeout_stays (Stays.refl s) e
  | catchObsTimer => exact execCatchObsTimer_stays (Stays.refl s) e
  | lockConfirm => exact execLockConfirm_stays (Stays.refl s) e
  | catchBrakeWait => exact execCatchBrakeWait_stays (Stays.refl s) e
  | holdEntryTimer => exact execHoldEntryTimer_stays (Stays.refl s) e
  | lockedRotor => exact execLockedRotor_stays (Stays.refl s) e
  | lockRetryExpiry => exact execLockRetryExpiry_stays (Stays.refl s) e
  | retryCountReset => exact execRetryCountReset_stays (Stays.refl s) e
  | shortExitTimer => exact execShortExitTimer_stays (Stays.refl s) e
  | encoderIndex angle => exact execEncoderIndex_stays (Stays.refl s) angle e
  | feedbackLost => exact execFeedbackLost_stays (Stays.refl s) e
  | spdInTimeout => exact execSpdInTimeout_stays (Stays.refl s) e
  | gaugeSample m => exact execGaugeSample_stays (Stays.refl s) m e
  | gaugeOffsetZero => exact execGaugeOffsetZero_stays (Stays.refl s) e
  | packRemoval => exact execPackRemoval_stays (Stays.refl s) e
  | gaugeSlowPoll idUv ntcUv => exact execGaugeSlowPoll_stays (Stays.refl s) idUv ntcUv e
  | packInsertion code => exact execPackInsertion_stays (Stays.refl s) code e
  | gaugeSettled => exact execGaugeSettled_stays (Stays.refl s) e
  | gaForget => exact execGaForget_stays (Stays.refl s) e
  | memberCompletion port qp cid ok dnr pay => exact execMemberCompletion_stays (Stays.refl s) port qp cid ok dnr pay e
  | deadlineExpiry port qp cid => exact execDeadlineExpiry_stays (Stays.refl s) port qp cid e
  | memberCmdTimeout port qp cid => exact execMemberCmdTimeout_stays (Stays.refl s) port qp cid e
  | memberLongTimeout port qp cid => exact execMemberLongTimeout_stays (Stays.refl s) port qp cid e
  | memberLinkDown port => exact execMemberLinkDown_stays (Stays.refl s) port e
  | memberLinkUp port lanes speed => exact execMemberLinkUp_stays (Stays.refl s) port lanes speed e
  | retrainTimeout port => exact execRetrainTimeout_stays (Stays.refl s) port e
  | trainingTimeout port => exact execTrainingTimeout_stays (Stays.refl s) port e
  | readyWaitTimeout port => exact execReadyWaitTimeout_stays (Stays.refl s) port e
  | powerWaitExpiry port => exact execPowerWaitExpiry_stays (Stays.refl s) port e
  | presencePoll bus ack bits => exact execPresencePoll_stays (Stays.refl s) bus ack bits e
  | smartPoll port => exact execSmartPoll_stays (Stays.refl s) port e
  | walkIssue arr => exact execWalkIssue_stays (Stays.refl s) arr e
  | rebuildCheckpoint arr => exact execRebuildCheckpoint_stays (Stays.refl s) arr e
  | scrubCheckpoint arr => exact execScrubCheckpoint_stays (Stays.refl s) arr e
  | scrubVisit arr => exact execScrubVisit_stays (Stays.refl s) arr e
  | repairStart => exact execRepairStart_stays (Stays.refl s) e
  | resyncStart => exact execResyncStart_stays (Stays.refl s) e
  | menderRetryTimer task => exact execMenderRetryTimer_stays (Stays.refl s) task e
  | arrayIdleTimer arr => exact execArrayIdleTimer_stays (Stays.refl s) arr e
  | kwFieldWrite off val => exact execKwFieldWrite_stays (Stays.refl s) off val e
  | epochHourClose => exact execEpochHourClose_stays (Stays.refl s) e
  | almanacCheckpoint => exact execAlmanacCheckpoint_stays (Stays.refl s) e
  | conditionCloseDelay => exact execConditionCloseDelay_stays (Stays.refl s) e
  | repeatFlush => exact execRepeatFlush_stays (Stays.refl s) e
  | almanacSnapshot slot => exact execAlmanacSnapshot_stays (Stays.refl s) slot e
  | mgtTransaction ptr wr rdLen => exact execMgtTransaction_stays (Stays.refl s) ptr wr rdLen e
  | mgtSlotWrite slot => exact execMgtSlotWrite_stays (Stays.refl s) slot e
  | mgtHealthRefresh => exact execMgtHealthRefresh_stays (Stays.refl s) e
  | tapInstruction code => exact execTapInstruction_stays (Stays.refl s) code e
  | consoleInput op => exact execConsoleInput_stays (Stays.refl s) op e
  | loLatchRead off => exact execLoLatchRead_stays (Stays.refl s) off e
  | registerWrite f off len val => exact execRegisterWrite_stays (Stays.refl s) f off len val e
  | chipRstRelease strap => exact execChipRstRelease_stays (Stays.refl s) strap e
  | coreResetRelease strap mv => exact execCoreResetRelease_stays (Stays.refl s) strap mv e
  | vinBreak mv => exact execVinBreak_stays (Stays.refl s) mv e
  | almanacSample m => exact execAlmanacSample_stays (Stays.refl s) m e
  | refreshRateStep tj => exact execRefreshRateStep_stays (Stays.refl s) tj e
  | hostLinkUp width speed => exact execHostLinkUp_stays (Stays.refl s) width speed e
  | cstsRdy port => exact execCstsRdy_stays (Stays.refl s) port e

end Sys2Proof.Machine
end

