-- ==== Sys2Proof/Laws/Power.lean ====
section
/-! SUPPORT. Laws: what a reset clears and keeps, power failure, clocks and power states. -/

namespace Sys2Proof.Machine

open Sys2Proof.Safety

set_option linter.all false

theorem nf' {b : Bool} (h : b = false) : ¬(b = true) := by rw [h]; decide

theorem vcoreGo_frame (s : State) (c : Nat) : (s.vcoreGo c) = { s with regs := (s.vcoreGo c).regs, pw := (s.vcoreGo c).pw } := by
  unfold State.vcoreGo; dsimp only; split <;> rfl

theorem vcoreGo_pw (s : State) (c : Nat) : (s.vcoreGo c).pw.held = s.pw.held ∧ (s.vcoreGo c).pw.core = s.pw.core ∧ (s.vcoreGo c).pw.step = s.pw.step ∧
   (s.vcoreGo c).pw.strap = s.pw.strap ∧ (s.vcoreGo c).pw.relAt = s.pw.relAt ∧ (s.vcoreGo c).pw.strapPin = s.pw.strapPin ∧ (s.vcoreGo c).pw.rstLow = s.pw.rstLow ∧ (s.vcoreGo c).pw.rstDone = s.pw.rstDone := by
  unfold State.vcoreGo; dsimp only; split <;> simp [State.setFld, State.setReg]

theorem vcoreGo_reg (s : State) (c k : Nat) (h : k ≠ Reg.SS_STATUS) : (s.vcoreGo c).reg k = s.reg k := by
  unfold State.vcoreGo; dsimp only; split
  · rfl
  · rw [State.reg_setFld_ne _ _ _ _ _ _ h]; rfl

theorem dom_mode : domCleared true true true true true Reg.RV_MODE = true ∧ domCleared false true true true true Reg.RV_MODE = true ∧ regReset Reg.RV_MODE = 0 := by decide +kernel

theorem reg_lt (s : State) (k : Nat) (h : regReset k < 2 ^ 32) : s.reg k % 2 ^ 32 = s.reg k := by
  apply Nat.mod_eq_of_lt
  unfold State.reg
  split
  · exact BitVec.isLt _
  · exact h

theorem cleared_mode (s : State) (por : Bool) : (s.clearRegs por true true true true).reg Reg.RV_MODE = 0 := by
  rw [State.reg_clearRegs]
  cases por
  · rw [if_pos dom_mode.2.1, dom_mode.2.2]
  · rw [if_pos dom_mode.1, dom_mode.2.2]

theorem chipClear_of (u t : State) (h : t.cmds = u.chipState.cmds ∧ t.mem = u.chipState.mem ∧ t.rg = u.chipState.rg ∧ t.lm = u.chipState.lm ∧ t.lg = u.chipState.lg ∧ t.ld = u.chipState.ld ∧ t.sc = u.chipState.sc ∧ t.mw = u.chipState.mw ∧ t.ga = u.chipState.ga ∧ t.al = u.chipState.al ∧ t.hm = u.chipState.hm ∧ t.mp = u.chipState.mp ∧ t.md = u.chipState.md ∧ t.hp.reads = [] ∧ t.mode = 0) : chipClear t := by
  obtain ⟨a,b,c,d,e,f,g,h,i,j,k,l,m,n,o⟩ := h
  exact ⟨a,b,c,d,e,f,g,h,by rw [i]; rfl,j,k,by rw [l]; rfl,by rw [l]; rfl,by rw [m]; rfl,n,o⟩

theorem setReg_parts (s : State) (k v : Nat) : ∃ r, s.setReg k v = { s with regs := r } := ⟨_, rfl⟩
theorem setFld_parts (s : State) (k hi lo v : Nat) : ∃ r, s.setFld k hi lo v = { s with regs := r } := setReg_parts _ _ _
theorem setFlag_parts (s : State) (k i : Nat) (b : Bool) : ∃ r, s.setFlag k i b = { s with regs := r } := setFld_parts _ _ _ _ _
theorem setReg64_parts (s : State) (k v : Nat) : ∃ r, s.setReg64 k v = { s with regs := r } := by
  unfold State.setReg64
  obtain ⟨a, e⟩ := setReg_parts s k (v % 2 ^ 32)
  rw [e]
  obtain ⟨b, e⟩ := setReg_parts { s with regs := a } (k + 4) (v / 2 ^ 32)
  exact ⟨b, e⟩

theorem gaLoad_parts (s : State) : ∃ r g, s.gaLoad = { s with regs := r, ga := g } ∧ recOf s.ga g := by
  unfold State.gaLoad
  dsimp only
  split
  · unfold State.gaFresh State.gaSt
    generalize 8 * s.gaRated / 10 = c
    generalize s.gaRatedR = d
    obtain ⟨a, e⟩ := setReg_parts s Reg.GA_CAP c
    rw [e]
    obtain ⟨a, e⟩ := setReg_parts { s with regs := a } Reg.GA_RINT d
    rw [e]
    obtain ⟨a, e⟩ := setFlag_parts { s with regs := a } Reg.GA_STATUS 7 true
    rw [e]
    dsimp only
    generalize hg : { s.ga with learns := 0, learnT := 0, rintW := d } = g
    obtain ⟨b, e⟩ := setReg64_parts { s with regs := a, ga := g } Reg.GA_REC_SEQ_LO 0
    rw [e]
    exact ⟨b, g, rfl, by rw [← hg]; rfl⟩
  · unfold State.gaSt
    generalize (s.keepN _ 64) = r
    obtain ⟨a, e⟩ := setReg_parts s Reg.GA_CAP (leAt r 8 4)
    rw [e]
    obtain ⟨a, e⟩ := setReg_parts { s with regs := a } Reg.GA_RINT (leAt r 12 4)
    rw [e]
    obtain ⟨a, e⟩ := setReg64_parts { s with regs := a } Reg.GA_REC_SEQ_LO (leAt r 0 8)
    rw [e]
    exact ⟨a, _, rfl, rfl⟩

theorem gaReload_parts (s : State) (c : Nat) : ∃ r g, s.gaReload c = { s with regs := r, ga := g } ∧ recOf s.ga g := by
  unfold State.gaReload
  obtain ⟨r, g, e, k⟩ := gaLoad_parts (s.setFld Reg.GA_STATUS 18 16 c)
  rw [e]
  exact ⟨_, g, rfl, k⟩
theorem gaLoad_reg (s : State) (q : Nat) (h1 : q ≠ Reg.GA_STATUS) (h2 : q ≠ Reg.GA_CAP) (h3 : q ≠ Reg.GA_RINT)
    (h4 : q ≠ Reg.GA_REC_SEQ_LO) (h5 : q ≠ Reg.GA_REC_SEQ_LO + 4) : s.gaLoad.reg q = s.reg q := by
  unfold State.gaLoad
  dsimp only
  split
  · unfold State.setReg64 State.gaFresh
    rw [State.reg_setReg_ne _ _ _ _ h5, State.reg_setReg_ne _ _ _ _ h4]
    refine (State.reg_congr (s := ((s.setReg Reg.GA_CAP (8 * s.gaRated / 10)).setReg Reg.GA_RINT s.gaRatedR).setFlag
      Reg.GA_STATUS 7 true) rfl _).trans ?_
    rw [State.reg_setFlag_ne _ _ _ _ _ h1, State.reg_setReg_ne _ _ _ _ h3, State.reg_setReg_ne _ _ _ _ h2]
  · generalize (s.keepN _ 64) = r
    refine (State.reg_congr (s := ((s.setReg Reg.GA_CAP (leAt r 8 4)).setReg Reg.GA_RINT (leAt r 12 4)).setReg64
      Reg.GA_REC_SEQ_LO (leAt r 0 8)) rfl _).trans ?_
    unfold State.setReg64
    rw [State.reg_setReg_ne _ _ _ _ h5, State.reg_setReg_ne _ _ _ _ h4, State.reg_setReg_ne _ _ _ _ h3,
      State.reg_setReg_ne _ _ _ _ h2]

theorem gaReload_reg (s : State) (c q : Nat) (h1 : q ≠ Reg.GA_STATUS) (h2 : q ≠ Reg.GA_CAP) (h3 : q ≠ Reg.GA_RINT)
    (h4 : q ≠ Reg.GA_REC_SEQ_LO) (h5 : q ≠ Reg.GA_REC_SEQ_LO + 4) : (s.gaReload c).reg q = s.reg q := by
  unfold State.gaReload
  rw [State.reg_setFld_ne _ _ _ _ _ _ h1, gaLoad_reg _ _ h1 h2 h3 h4 h5, State.reg_setFld_ne _ _ _ _ _ _ h1]

theorem resetMark_frame (s : State) (por core : Bool) (n : Nat) : (s.resetMark por core n).cmds = s.cmds ∧ (s.resetMark por core n).mem = s.mem ∧
   (s.resetMark por core n).rg = s.rg ∧ (s.resetMark por core n).lm = s.lm ∧ (s.resetMark por core n).lg = s.lg ∧ (s.resetMark por core n).ld = s.ld ∧
   (s.resetMark por core n).sc = s.sc ∧ (s.resetMark por core n).mw = s.mw ∧ (s.resetMark por core n).ga = s.ga ∧ (s.resetMark por core n).al = s.al ∧ (s.resetMark por core n).hm = s.hm ∧
   (s.resetMark por core n).mp = s.mp ∧ (s.resetMark por core n).md = s.md ∧ (s.resetMark por core n).hp.reads = s.hp.reads ∧ (s.resetMark por core n).pw = s.pw ∧
   (s.resetMark por core n).reg Reg.RV_MODE = s.reg Reg.RV_MODE ∧ (s.resetMark por core n).kp.inhibit = (if por then false else s.kp.inhibit) ∧
   (s.resetMark por core n).now = (if por then 0 else s.now) := by
  unfold State.resetMark
  cases por
  · cases core
    · rw [if_neg (by decide), if_neg (by decide)]
      simp
    · rw [if_neg (by decide), if_pos rfl]
      simp [State.reg_setReg_ne _ _ _ _ (show Reg.RV_MODE ≠ Reg.SS_CORE_RESETS by decide)]
  · rw [if_pos rfl]
    exact ⟨rfl,rfl,rfl,rfl,rfl,rfl,rfl,rfl,rfl,rfl,rfl,rfl,rfl,rfl,rfl,State.reg_congr (s := s) rfl _,rfl,rfl⟩

theorem chipWipe_clear (s : State) (por core : Bool) : chipClear (s.chipWipe por core) ∧ (s.chipWipe por core).pw = (State.resetHold { s with now := if por then 0 else s.now } por).pw ∧
   (s.chipWipe por core).kp.inhibit = (if por then false else s.kp.inhibit) ∧ (por = true → (s.chipWipe por core).now = 0) ∧
   (por = false → core = true → (s.chipWipe por core).reg Reg.SS_CORE_RESETS = s.reg Reg.SS_CORE_RESETS) := by
  have cm := cleared_mode s.hostReset por
  have hp : s.hostReset.pw = s.pw := State.hostReset_same_pw (s := s) rfl
  have hk : s.hostReset.kp.inhibit = s.kp.inhibit := congrArg KeepSt.inhibit (State.hostReset_same_kp (s := s) rfl)
  unfold State.chipWipe
  have e1 : (s.hostReset.clearRegs por true true true true).pw = s.pw := by rw [State.clearRegs_pw]; exact hp
  have e2 : (s.hostReset.clearRegs por true true true true).kp.inhibit = s.kp.inhibit := by rw [State.clearRegs_kp]; exact hk
  have e3 : (s.hostReset.clearRegs por true true true true).now = s.now :=
    (State.clearRegs_now _ _ _ _ _ _).trans (State.hostReset_stays (Stays.refl s)).now
  generalize s.hostReset.clearRegs por true true true true = u at *
  generalize hn : s.reg Reg.SS_CORE_RESETS = n
  obtain ⟨a,b,c,d,e,f,g,h,i,j,k,l,m,o,p,q,r,v⟩ := resetMark_frame u.chipState por core n
  refine ⟨chipClear_of u _ ⟨a,b,c,d,e,f,g,h,i,j,k,l,m,o.trans rfl,?_⟩, ?_, r.trans (by rw [← e2]; rfl), ?_, ?_⟩
  · show ((u.chipState.resetMark por core n).setFlag Reg.HP_STATUS 1 _).fld Reg.RV_MODE 1 0 = 0
    rw [State.fld_setFlag_ne _ _ _ _ _ _ _ (by decide), State.fld, q]
    show bits (u.reg _) 1 0 = 0
    rw [cm]; rfl
  · unfold State.resetHold
    simp only [State.setFlag_pw, p]
    rw [show u.chipState.pw = u.pw from rfl, e1, State.setFlag_now, v, show u.chipState.now = s.now from e3]
  · intro hp; subst hp; exact v.trans rfl
  · intro hp hc; subst hp; subst hc
    show ((u.chipState.setReg Reg.SS_CORE_RESETS n).setFlag Reg.HP_STATUS 1 _).reg _ = n
    rw [State.reg_setFlag_ne _ _ _ _ _ (by decide), State.reg_setReg_same, ← hn, reg_lt _ _ (by decide +kernel)]

theorem chipReset_clear (s : State) (por core : Bool) : chipClear (s.chipReset por core) ∧ (s.chipReset por core).pw = (State.resetHold { s with now := if por then 0 else s.now } por).pw ∧
   (s.chipReset por core).kp.inhibit = (if por then false else s.kp.inhibit) ∧ (por = true → (s.chipReset por core).now = 0) ∧
   (por = false → core = true → (s.chipReset por core).reg Reg.SS_CORE_RESETS = s.reg Reg.SS_CORE_RESETS) := by
  obtain ⟨a, b, c, d, e⟩ := chipWipe_clear s por core
  unfold State.chipReset
  split
  · generalize s.chipWipe por core = u at *
    have m : (u.gaReload s.gaId).mode = u.mode := by
      unfold State.mode State.fld
      rw [gaReload_reg u _ _ (by decide) (by decide) (by decide) (by decide) (by decide)]
    have n := gaReload_reg u s.gaId Reg.SS_CORE_RESETS (by decide) (by decide) (by decide) (by decide) (by decide)
    obtain ⟨r, g, p, q⟩ := gaReload_parts u s.gaId
    rw [p] at m n ⊢
    obtain ⟨a1,a2,a3,a4,a5,a6,a7,a8,a9,b1,b2,b3,b4,b5,b6,b7⟩ := a
    refine ⟨⟨a1,a2,a3,a4,a5,a6,a7,a8,?_,b1,b2,b3,b4,b5,b6,m.trans b7⟩, b, c, d, fun x y => n.trans (e x y)⟩
    unfold recOf at *
    rw [a9] at q
    exact q
  · exact ⟨a, b, c, d, e⟩

theorem strapAt_hr (strap : BitVec 2) (s : State) : ((s.strapAt strap).resetHold true).pw.strapPin = strap.toNat := rfl

theorem release_spec (s : State) : s.release = { s with regs := s.release.regs, pw := s.release.pw } ∧ s.release.pw.held = false ∧ s.release.pw.core = false ∧ s.release.pw.step = 1 ∧ s.release.pw.strap = s.pw.strapPin ∧
   s.release.pw.relAt = s.now ∧ s.release.pw.strapPin = s.pw.strapPin ∧ s.release.pw.rstLow = s.pw.rstLow ∧ s.release.pw.rstDone = s.pw.rstDone ∧ s.release.fld Reg.RV_MODE 3 2 = s.pw.strapPin % 4 ∧ s.release.mode = s.mode := by
  unfold State.release
  dsimp only
  generalize hu : State.setFld { s with pw.held := false, pw.core := false, pw.strap := s.pw.strapPin, pw.step := 1, pw.relAt := s.now } Reg.RV_MODE 3 2 s.pw.strapPin = u
  have f := vcoreGo_frame u u.svcCode
  obtain ⟨a,b,c,d,e,g,h,i⟩ := vcoreGo_pw u u.svcCode
  have r := vcoreGo_reg u u.svcCode Reg.RV_MODE (by decide)
  refine ⟨?_, ?_, ?_, ?_, ?_, ?_, ?_, ?_, ?_, ?_, ?_⟩
  · rw [f, ← hu]; rfl
  · rw [a, ← hu]; rfl
  · rw [b, ← hu]; rfl
  · rw [c, ← hu]; rfl
  · rw [d, ← hu]; rfl
  · rw [e, ← hu]; rfl
  · rw [g, ← hu]; rfl
  · rw [h, ← hu]; rfl
  · rw [i, ← hu]; rfl
  · rw [State.fld, r, ← hu, ← State.fld, State.fld_setFld_same _ _ _ _ _ (by decide) (by decide)]; rfl
  · rw [State.mode, State.fld, r, ← hu, ← State.fld, State.fld_setFld_disj _ _ _ _ _ _ _ (by decide) (by decide) (by decide)]; rfl

theorem chipClear_release (s : State) (h : chipClear s) : chipClear s.release := by
  obtain ⟨f, -, -, -, -, -, -, -, -, -, m⟩ := release_spec s
  obtain ⟨a1,a2,a3,a4,a5,a6,a7,a8,a9,b1,b2,b3,b4,b5,b6,b7⟩ := h
  refine ⟨?_,?_,?_,?_,?_,?_,?_,?_,?_,?_,?_,?_,?_,?_,?_, m.trans b7⟩ <;> (rw [f]; assumption)

theorem nf {b : Bool} (h : b = false) : ¬(b = true) := by rw [h]; decide

theorem pfdEnter_hm (s : State) (c : Nat) : Same State.hm s.pfdMark.hm (s.pfdEnter c) := by
  unfold State.pfdEnter
  apply State.pfdSave_same_hm
  apply State.loomPark_same_hm
  apply State.heldWritesEnd_same_hm
  apply State.tlFreeze_same_hm
  apply State.pfdFlags_same_hm
  apply State.tapForce_same_hm
  rfl

theorem pfd_hm (s : State) (cause : Nat) (hc : cause ≠ 3) (h1 : s.pfd = false) (h2 : s.pw.held = false) (h3 : 3 ≤ s.pw.step) :
   (s.pfdDeclare cause).hm = { s.pfdMark.hm with supAt := some (s.pfdEnter cause).now } := by
  unfold State.pfdDeclare
  rw [if_neg (by rw [h1, h2]; simp; omega), if_neg hc]
  have k := pfdEnter_hm s cause
  unfold Same at k
  generalize s.pfdEnter cause = v at *
  unfold State.supplyGo
  rw [if_neg (by rw [k]; show ¬(Option.isSome none = true); decide)]
  refine State.tlUpdate_same_hm (State.tlUpdate_same_hm ?_)
  have e : v.supplyMark.hm = { s.pfdMark.hm with supAt := some v.now } :=
    congrArg (fun h : Hamper => { h with supAt := some v.now }) k
  split
  · exact State.packOn_same_hm (State.mwSupplyFail_same_hm e)
  · exact e

theorem seenRegs (s : State) (tj : Int) : (s.tjSeen tj).regs = ((s.setReg Reg.SS_TJ (intBits 16 tj)).setFlag Reg.SS_STATUS 8
   (decide (tj ≥ (10 * clampN 85 150 (s.fld Reg.SS_THERM 7 0) : Nat)) || (s.flag Reg.SS_STATUS 8 && decide (tj ≥ (10 * clampN 85 150 (s.fld Reg.SS_THERM 7 0) : Nat) - (10 * max 1 (s.fld Reg.SS_THERM 11 8) : Nat))))).regs ∧ (s.tjSeen tj).mem = s.mem ∧ (s.tjSeen tj).keep = s.keep ∧ (s.tjSeen tj).cmds = s.cmds ∧ (s.tjSeen tj).now = s.now ∧ (s.tjSeen tj).pw = s.pw := by
  unfold State.tjSeen
  dsimp only
  repeat' split
  all_goals exact ⟨rfl, rfl, rfl, rfl, rfl, rfl⟩

theorem signExt_intBits16 (tj : Int) (h1 : -0x8000 ≤ tj) (h2 : tj < 0x8000) : signExt 16 (bits (intBits 16 tj) 15 0) = tj := by
  unfold signExt bits intBits
  simp only [Nat.reduceAdd, Nat.sub_zero, Nat.reducePow, Nat.div_one, pow_zero, Nat.reduceSub, Nat.shiftRight_zero]
  obtain ⟨g, hg⟩ : ∃ g, (tj % ((65536 : Nat) : Int)).toNat = g := ⟨_, rfl⟩
  simp only [hg, bit, Nat.testBit_eq_decide_div_mod_eq, decide_eq_true_eq, Nat.reducePow]
  split <;> omega

theorem spGo_spState (s : State) (st : Nat) (h : st < 4) : (s.spGo st).spState = st ∧ s.spGo st = { s with regs := (s.spGo st).regs, pw := (s.spGo st).pw } := by
  unfold State.spGo
  dsimp only
  by_cases e : s.spState = st
  · rw [if_pos e]; exact ⟨e, rfl⟩
  · rw [if_neg e]
    split
    all_goals
      refine ⟨?_, rfl⟩
      unfold State.spState
      refine (State.fld_congr (s := State.setFlag (State.setFld _ _ _ _ _) _ _ _) rfl _ _ _).trans ?_
      · rw [State.fld_setFlag_ne _ _ _ _ _ _ _ (by decide), State.fld_setFld_same _ _ _ _ _ (by decide) (by decide)]
        omega

theorem spGo_reg (s : State) (st q : Nat) (h1 : q ≠ Reg.SP_STATUS) (h2 : q ≠ Reg.DC_STATUS) : (s.spGo st).reg q = s.reg q := by
  unfold State.spGo
  dsimp only
  split
  · rfl
  · split
    all_goals
      refine (State.reg_congr (s := State.setFlag (State.setFld _ _ _ _ _) _ _ _) rfl _).trans ?_
      rw [State.reg_setFlag_ne _ _ _ _ _ h2, State.reg_setFld_ne _ _ _ _ _ _ h1]
      rfl

theorem reg64_set (s : State) (lo v : Nat) : (s.setReg64 lo v).reg64 lo = v % 2 ^ 64 := by
  unfold State.setReg64 State.reg64
  rw [State.reg_setReg_ne _ _ _ _ (by omega), State.reg_setReg_same, State.reg_setReg_same]
  omega

theorem wear_reg64 (s : State) (p : Fin 16) (n lo : Nat) (h1 : lo ≠ Reg.KP_WARN 0) (h2 : lo + 4 ≠ Reg.KP_WARN 0) (h3 : lo ≠ Reg.KP_STATUS) (h4 : lo + 4 ≠ Reg.KP_STATUS) : (s.addWear p n).reg64 lo = s.reg64 lo := by
  unfold State.addWear
  dsimp only
  have hp : (p : Nat) / 32 = 0 := by have := p.isLt; omega
  rw [hp]
  split
  · unfold State.reg64
    have : ∀ q, q ≠ Reg.KP_WARN 0 → q ≠ Reg.KP_STATUS → ∀ (u : State) a b c d e f, State.reg (State.note ((State.setFlag (State.setFlag u (Reg.KP_WARN 0) e true) Reg.KP_STATUS f true)) a b c d) q = u.reg q := by
      intro q a b u _ _ _ _ _ _
      refine (State.reg_congr (s := State.setFlag (State.setFlag u _ _ _) _ _ _) rfl _).trans ?_
      rw [State.reg_setFlag_ne _ _ _ _ _ b, State.reg_setFlag_ne _ _ _ _ _ a]
    rw [this _ h1 h3, this _ h2 h4]
    rfl
  · rfl

/-- What is found lies in the list. -/
theorem minBy_mem {α : Type} (key : α → Nat) : ∀ (l : List α) (y : α), minBy key l = some y → y ∈ l
  | [], _, h => nomatch h
  | x :: t, y, h => by
    unfold minBy at h
    split at h
    · exact Option.some.inj h ▸ List.mem_cons_self
    · rename_i z hz
      split at h
      · exact Option.some.inj h ▸ List.mem_cons_of_mem x (minBy_mem key t z hz)
      · exact Option.some.inj h ▸ List.mem_cons_self

theorem minBy_le {α : Type} (key : α → Nat) : ∀ l : List α, l ≠ [] → ∃ y, minBy key l = some y ∧ ∀ x ∈ l, key y ≤ key x := by
  intro l
  induction l with
  | nil => intro h; exact absurd rfl h
  | cons a t ih =>
    intro _
    by_cases e : t = []
    · subst e; exact ⟨a, rfl, by simp⟩
    · obtain ⟨y, h1, h2⟩ := ih e
      unfold minBy
      rw [h1]
      dsimp only
      split
      · exact ⟨y, rfl, fun x hx => by rcases List.mem_cons.mp hx with rfl | hx; omega; exact h2 x hx⟩
      · exact ⟨a, rfl, fun x hx => by rcases List.mem_cons.mp hx with rfl | hx; omega; have := h2 x hx; omega⟩

theorem mon_fold (si : List Nat) : ∀ (l : List Nat) (s : State), l.Nodup →
    (∀ n, n ∈ l → ((l.foldl (fun s n => s.monClose n (si.getD n 0)) s).fld (Reg.LN_MON n) 9 0 = si.getD n 0 % 1024 ∧
      (l.foldl (fun s n => s.monClose n (si.getD n 0)) s).fld (Reg.LN_MON n) 25 16 = min (si.getD n 0) (s.fld (Reg.LN_MON n) 25 16) % 1024)) ∧
    (∀ q, (∀ n ∈ l, q ≠ Reg.LN_MON n) → (l.foldl (fun s n => s.monClose n (si.getD n 0)) s).reg q = s.reg q) ∧
    (l.foldl (fun s n => s.monClose n (si.getD n 0)) s) = { s with regs := (l.foldl (fun s n => s.monClose n (si.getD n 0)) s).regs } := by
  intro l
  induction l with
  | nil => intro s _; exact ⟨by simp, by simp, rfl⟩
  | cons m l ih =>
    intro s hn
    rw [List.nodup_cons] at hn
    obtain ⟨a, b, c⟩ := ih (s.monClose m (si.getD m 0)) hn.2
    have inj : ∀ x y, Reg.LN_MON x = Reg.LN_MON y → x = y := by intro x y h; unfold Reg.LN_MON at h; omega
    have fc : ∀ (u v : State) k hi lo, u.reg k = v.reg k → u.fld k hi lo = v.fld k hi lo := by intro u v k hi lo h; unfold State.fld; rw [h]
    simp only [List.foldl_cons]
    refine ⟨?_, ?_, ?_⟩
    · intro n h
      by_cases e : n = m
      · subst e
        have r := b (Reg.LN_MON n) (fun k hk => fun h => hn.1 (inj _ _ h ▸ hk))
        rw [fc _ _ _ _ _ r, fc _ _ _ _ _ r]
        unfold State.monClose
        dsimp only
        constructor
        · rw [State.fld_setFld_disj _ _ _ _ _ _ _ (by decide) (by decide) (by decide), State.fld_setFld_same _ _ _ _ _ (by decide) (by decide)]; rfl
        · rw [State.fld_setFld_same _ _ _ _ _ (by decide) (by decide)]; rfl
      · have hm : n ∈ l := by simpa [e] using h
        obtain ⟨p, q⟩ := a n hm
        rw [p, q]
        unfold State.monClose
        dsimp only
        rw [State.fld_setFld_ne _ _ _ _ _ _ _ _ (fun h => e (inj _ _ h)), State.fld_setFld_ne _ _ _ _ _ _ _ _ (fun h => e (inj _ _ h))]
        exact ⟨rfl, rfl⟩
    · intro q h
      rw [b q (fun n hk => h n (by simp [hk]))]
      unfold State.monClose
      dsimp only
      rw [State.reg_setFld_ne _ _ _ _ _ _ (h m (by simp)), State.reg_setFld_ne _ _ _ _ _ _ (h m (by simp))]
    · rw [c]; rfl

end Sys2Proof.Machine
end

