-- ==== Sys2Proof/Laws/HostPort.lean ====
section
/-! SUPPORT. Laws: what a host reset clears, rings and their records by number. -/

namespace Sys2Proof.Machine

open Sys2Proof.Safety

set_option linter.all false

theorem key_two (k : Nat) : keyFunc k = .pf0 ∨ keyFunc k = .pf1 := by unfold keyFunc; split <;> simp

theorem cfgReset_dst (s : State) (f : Func) (b : Bool) : (s.cfgReset f b).bme f = false ∧ (s.cfgReset f b).dstate f = 0 := by
  unfold State.cfgReset State.bme State.dstate
  dsimp only
  cases f <;> exact ⟨by simp only [bmeBit, dstLo, isPf0]; rw [State.flag_setFld_disj _ _ _ _ _ _ (by decide) (by decide) (by decide), State.flag_setFlag_same _ _ _ _ (by decide)],
    by rw [State.fld_setFld_same _ _ _ _ _ (by decide) (by decide)]; rfl⟩

theorem cfgReset_bit (s : State) (b : Bool) (f g : Func) (h : f ≠ g) : (s.cfgReset f b).bme g = s.bme g ∧ (s.cfgReset f b).dstate g = s.dstate g ∧ (s.cfgReset f b).frozen = s.frozen := by
  unfold State.cfgReset State.bme State.dstate State.frozen
  dsimp only
  cases f <;> cases g <;> first | exact absurd rfl h | skip
  all_goals
    simp only [bmeBit, dstLo, isPf0]
    refine ⟨?_, ?_, ?_⟩
    · rw [State.flag_setFld_disj _ _ _ _ _ _ (by decide) (by decide) (by decide), State.flag_setFlag_bit _ _ _ _ _ (by decide) (by decide)]
      rfl
    · rw [State.fld_setFld_disj _ _ _ _ _ _ _ (by decide) (by decide) (by decide), State.fld_setFlag_disj _ _ _ _ _ _ (by decide) (by decide)]
      rfl
    · rw [State.flag_setFld_disj _ _ _ _ _ _ (by decide) (by decide) (by decide), State.flag_setFlag_bit _ _ _ _ _ (by decide) (by decide)]
      rfl

theorem filt2 {α : Type} (l : List α) (k : α → Func) : (l.filter fun e => k e != Func.pf0).filter (fun e => k e != Func.pf1) = [] := by
  rw [List.filter_filter, List.filter_eq_nil_iff]
  intro a _
  cases k a <;> decide

theorem rings_reset (s : State) : ((s.ringsReset .pf0).ringsReset .pf1).rg.sq = [] ∧ ((s.ringsReset .pf0).ringsReset .pf1).rg.inl = [] ∧ ((s.ringsReset .pf0).ringsReset .pf1).hp.msix = [] := by
  have k : ∀ (u : State) (p : Func → Nat → Bool), (u.discardComps p).2.rg.sq = u.rg.sq ∧ (u.discardComps p).2.rg.inl = u.rg.inl ∧ (u.discardComps p).2.hp.msix = u.hp.msix := by
    intro u p; unfold State.discardComps; dsimp only
    have mp : ∀ v : State, v.markPool.rg.sq = v.rg.sq ∧ v.markPool.rg.inl = v.rg.inl ∧ v.markPool.hp.msix = v.hp.msix := by
      intro v; unfold State.markPool; split <;> (try split) <;> exact ⟨rfl, rfl, rfl⟩
    exact ⟨(mp _).1, (mp _).2.1, (mp _).2.2⟩
  have r : ∀ (u : State) f, (u.ringsReset f).rg.sq = u.rg.sq.filter (fun e => keyFunc e.1 != f) ∧ (u.ringsReset f).rg.inl = u.rg.inl.filter (fun i => i.f != f) ∧
     (u.ringsReset f).hp.msix = u.hp.msix.filter (fun e => keyFunc e.1 != f) := by
    intro u f
    obtain ⟨a, b, c⟩ := k u (fun g _ => g == f)
    unfold State.ringsReset
    exact ⟨by rw [← a], by rw [← b], by rw [← c]⟩
  obtain ⟨a, b, c⟩ := r s .pf0
  obtain ⟨a', b', c'⟩ := r (s.ringsReset .pf0) .pf1
  rw [a', b', c', a, b, c]
  exact ⟨filt2 _ _, filt2 _ _, filt2 _ _⟩

theorem ringsReset_eq (u : State) (f : Func) : (u.ringsReset f).rg.sq = u.rg.sq.filter (fun e => keyFunc e.1 != f) ∧ (u.ringsReset f).rg.inl = u.rg.inl.filter (fun i => i.f != f) ∧
     (u.ringsReset f).hp.msix = u.hp.msix.filter (fun e => keyFunc e.1 != f) := by
  have k : ∀ (u : State) (p : Func → Nat → Bool), (u.discardComps p).2.rg.sq = u.rg.sq ∧ (u.discardComps p).2.rg.inl = u.rg.inl ∧ (u.discardComps p).2.hp.msix = u.hp.msix := by
    intro u p; unfold State.discardComps; dsimp only
    have mp : ∀ v : State, v.markPool.rg.sq = v.rg.sq ∧ v.markPool.rg.inl = v.rg.inl ∧ v.markPool.hp.msix = v.hp.msix := by
      intro v; unfold State.markPool; split <;> (try split) <;> exact ⟨rfl, rfl, rfl⟩
    exact ⟨(mp _).1, (mp _).2.1, (mp _).2.2⟩
  obtain ⟨a, b, c⟩ := k u (fun g _ => g == f)
  unfold State.ringsReset
  exact ⟨by rw [← a], by rw [← b], by rw [← c]⟩

theorem hostReset_clear (s : State) : hostClear s.hostReset := by
  unfold State.hostReset
  dsimp only
  obtain ⟨a, b, c⟩ := rings_reset ((s.hostStop .pf0 0 false).hostStop .pf1 0 false)
  generalize ((((s.hostStop .pf0 0 false).hostStop .pf1 0 false).ringsReset .pf0).ringsReset .pf1) = u at *
  generalize hv : ((u.readsDrop.clearRegs false false true true true).setFlag Reg.HP_STATUS 2 false) = v
  have fz : v.frozen = false := by rw [← hv]; exact State.flag_setFlag_same _ _ _ _ (by decide)
  have hd : v.rg.sq = u.rg.sq ∧ v.rg.inl = u.rg.inl ∧ v.hp.msix = u.hp.msix ∧ v.hp.reads = [] ∧ v.hp.rdq = [] := by rw [← hv]; exact ⟨rfl, rfl, rfl, rfl, rfl⟩
  have c0 := cfgReset_dst v .pf0 false
  have c1 := cfgReset_dst (v.cfgReset .pf0 false) .pf1 false
  have d0 := cfgReset_bit v false .pf0 .pf1 (by decide)
  have d1 := cfgReset_bit (v.cfgReset .pf0 false) false .pf1 .pf0 (by decide)
  refine ⟨hd.1.trans a, hd.2.1.trans b, hd.2.2.1.trans c, hd.2.2.2.1, hd.2.2.2.2, rfl, ?_, ?_⟩
  · exact (d1.2.2.trans d0.2.2).trans fz
  · intro f
    cases f
    · exact ⟨d1.1.trans c0.1, d1.2.1.trans c0.2, rfl⟩
    · exact ⟨c1.1, c1.2, rfl⟩

theorem hostClear_congr {t u : State} (h : hostClear t) (e : u.rg = t.rg) (e2 : u.hp.msix = t.hp.msix) (e3 : u.hp.reads = t.hp.reads) (e4 : u.hp.rdq = t.hp.rdq)
   (e5 : u.hp.flr0 = t.hp.flr0) (e6 : u.hp.flr1 = t.hp.flr1) (e7 : u.frozen = t.frozen ∧ ∀ f, u.bme f = t.bme f ∧ u.dstate f = t.dstate f) : hostClear u := by
  obtain ⟨a,b,c,d,p,q,r,w⟩ := h
  refine ⟨by rw [e, a], by rw [e, b], by rw [e2, c], by rw [e3, d], by rw [e4, p], by rw [e, q], e7.1.trans r, ?_⟩
  intro f
  refine ⟨(e7.2 f).1.trans (w f).1, (e7.2 f).2.trans (w f).2.1, ?_⟩
  have := (w f).2.2
  unfold State.inFlr at *
  rw [← this]; cases f <;> simp [e5, e6]

theorem hostGone_clear (s : State) : hostClear s.hostGone := by
  unfold State.hostGone
  dsimp only
  have hc := hostReset_clear s
  generalize s.hostReset = z at *
  split
  · exact hostClear_congr hc rfl rfl rfl rfl rfl rfl ⟨rfl, fun f => ⟨rfl, rfl⟩⟩
  · exact hc

theorem linkBits (s : State) (f : Func) : s.linkZero.frozen = s.frozen ∧ s.linkZero.bme f = s.bme f ∧ s.linkZero.dstate f = s.dstate f ∧ s.linkZero.flag Reg.HP_STATUS 0 = false := by
  unfold State.linkZero State.frozen State.bme State.dstate
  cases f <;> (simp only [bmeBit, dstLo, isPf0]; refine ⟨?_, ?_, ?_, ?_⟩ <;> simp (disch := decide) only [State.reg_setFld_ne, State.reg_setReg_ne, State.reg_setFlag_ne, State.reg_bump_ne,
    State.fld_setFld_same, State.fld_setFld_ne, State.fld_setFld_disj, State.fld_setReg_ne, State.fld_setFlag_ne,
    State.fld_setFlag_disj, State.fld_bump_ne, State.flag_setFlag_same, State.flag_setFlag_ne, State.flag_setFlag_bit,
    State.flag_setFld_ne, State.flag_setFld_disj, State.flag_setReg_ne, State.flag_bump_ne, State.reg_bump_same])

theorem mix (m v x : Nat) (h : m < 2 ^ 32) : (BitVec.ofNat 32 ((v &&& m) + (x &&& (0xFFFFFFFF - m)))).toNat &&& m = v &&& m := by
  have d : (v &&& m) &&& (x &&& (0xFFFFFFFF - m)) = 0 := by
    apply Nat.eq_of_testBit_eq
    intro i
    have : 0xFFFFFFFF - m = 2 ^ 32 - (m + 1) := by omega
    simp only [Nat.testBit_and, this, Nat.testBit_two_pow_sub_succ h, Nat.zero_testBit]
    cases m.testBit i <;> simp
  have e : BitVec.ofNat 32 ((v &&& m) + (x &&& (0xFFFFFFFF - m))) = BitVec.ofNat 32 (v &&& m) ||| BitVec.ofNat 32 (x &&& (0xFFFFFFFF - m)) := by
    rw [BitVec.ofNat_add]
    apply BitVec.add_eq_or_of_and_eq_zero
    rw [← BitVec.ofNat_and, d]
  rw [e, ← BitVec.ofNat_or, BitVec.toNat_ofNat]
  apply Nat.eq_of_testBit_eq
  intro i
  have : 0xFFFFFFFF - m = 2 ^ 32 - (m + 1) := by omega
  simp only [Nat.testBit_and, Nat.testBit_mod_two_pow, Nat.testBit_or, this, Nat.testBit_two_pow_sub_succ h]
  by_cases hi : i < 32
  · cases m.testBit i <;> simp [hi]
  · have : m.testBit i = false := Nat.testBit_lt_two_pow (Nat.lt_of_lt_of_le h (Nat.pow_le_pow_right (by decide) (by omega)))
    simp [this]

theorem known_lt (s : State) (f : Func) (off : Nat) : (s.cfgKnown f off).1 < 2 ^ 32 := by
  unfold State.cfgKnown
  dsimp only
  split
  all_goals (repeat' split) <;> (dsimp only) <;> decide

theorem hostStop_run (s : State) (f : Func) (st : Nat) (b : Bool) (h : st ≠ 1) : (∀ e ∈ (s.hostStop f st b).rg.sq, keyFunc e.1 = f → e.2.state ≠ 1) ∧
    (∀ e ∈ (s.hostStop f st b).rg.cq, keyFunc e.1 = f → e.2.state ≠ 1) := by
  have mi : ∀ u : State, u.markIdle.rg = u.rg := by
    intro u; unfold State.markIdle; split
    · rfl
    · split <;> rfl
  have hf : ∀ u : State, (∀ e ∈ (u.haltFunc f st).rg.sq, keyFunc e.1 = f → e.2.state ≠ 1) ∧ (∀ e ∈ (u.haltFunc f st).rg.cq, keyFunc e.1 = f → e.2.state ≠ 1) := by
    intro u
    constructor
    all_goals
      intro e he hk
      unfold State.haltFunc at he
      obtain ⟨x, hx, rfl⟩ := List.mem_map.mp he
      by_cases c : (keyFunc x.1 == f && x.2.state == 1) = true
      · rw [if_pos c]; exact h
      · rw [if_neg c] at hk ⊢
        simp only [hk, beq_self_eq_true, Bool.true_and, beq_iff_eq] at c
        exact c
  unfold State.hostStop
  dsimp only
  rw [mi]
  exact hf _

theorem sq_setSq (s : State) (f : Func) (q : Nat) (x : Sq) : (s.setSq f q x).sq f q = x := by
  unfold State.setSq State.sq; exact mapGetD_mapSet_same _ _ _ _

theorem cq_setCq (s : State) (f : Func) (q : Nat) (x : Cq) : (s.setCq f q x).cq f q = x := by
  unfold State.setCq State.cq; exact mapGetD_mapSet_same _ _ _ _

theorem sq_congr {s t : State} (h : t.rg.sq = s.rg.sq) (f : Func) (q : Nat) : t.sq f q = s.sq f q := by unfold State.sq; rw [h]

theorem cq_congr {s t : State} (h : t.rg.cq = s.rg.cq) (f : Func) (q : Nat) : t.cq f q = s.cq f q := by unfold State.cq; rw [h]

theorem asm64 (d : List Byte) (h : d.length = 64) : asmPut (List.replicate 64 none) 0 d = d.map some := by
  unfold asmPut
  simp [h]

theorem cq_setCq' (s : State) (f : Func) (q : Nat) (x : Cq) : (s.setCq f q x).cq f q = x := by
  unfold State.setCq State.cq; exact mapGetD_mapSet_same _ _ _ _

end Sys2Proof.Machine
end

