-- ==== Sys2Proof/Laws/Commands.lean ====
section
/-! SUPPORT. Laws: admission, ends of commands, memory and the Keep by bytes. -/

namespace Sys2Proof.Machine

open Sys2Proof.Safety

set_option linter.all false

theorem pf0_ok {s : State} {h o : Nat} {c : Cmd} (a : dataReady s h o c) (k : s.check c = St.success) (act : State → Cmd → State) :
    s.pf0Run h o act = act s c := by
  obtain ⟨a1, a2, a3, a4⟩ := a
  unfold State.pf0Run
  rw [a1]; dsimp only
  rw [if_pos (by rw [a2, a3, a4]; simp), if_pos k]

theorem pf0_no {s : State} {h o : Nat} {c : Cmd} (a : dataReady s h o c) (k : s.check c ≠ St.success) (act : State → Cmd → State) :
    s.pf0Run h o act = (if s.check c = St.classMismatch then s.bump Reg.SV_CLASS_REJ else s).finishSt
      (Rank.larder (Ent.tgt c.ent)) c (s.check c) := by
  obtain ⟨a1, a2, a3, a4⟩ := a
  unfold State.pf0Run
  rw [a1]; dsimp only
  rw [if_pos (by rw [a2, a3, a4]; simp), if_neg k]

theorem arrEnded_f (s : State) (c : Cmd) : (s.arrEnded c).rg = s.rg ∧ (s.arrEnded c).mem = s.mem ∧ (s.arrEnded c).keep = s.keep ∧ (s.arrEnded c).regs = s.regs ∧ (s.arrEnded c).out = s.out := by
  unfold State.arrEnded; dsimp only; repeat' split
  all_goals exact ⟨rfl, rfl, rfl, rfl, rfl⟩

theorem mark_f (s : State) : s.markIdle.rg = s.rg ∧ s.markIdle.mem = s.mem ∧ s.markIdle.keep = s.keep ∧ s.markIdle.regs = s.regs ∧ s.markIdle.out = s.out ∧ s.markIdle.cmds = s.cmds := by
  unfold State.markIdle; dsimp only; repeat' split
  all_goals exact ⟨rfl, rfl, rfl, rfl, rfl, rfl⟩

theorem bytesAt_length (d : List Byte) (i n : Nat) : (bytesAt d i n).length = n := by
  unfold bytesAt
  simp

theorem ad_step {s : State} {h o : Nat} {c : Cmd} (a : adminReady s h o c) (act : State → Cmd → State) :
    s.adminRun h o act = if s.check c ≠ St.success then s.adminEnd h (s.check c) 0 else if c.dataIn then act s c else s.adminRead c := by
  obtain ⟨a1, a2, a3, a4, a5⟩ := a
  unfold State.adminRun
  rw [a1]; dsimp only
  rw [if_pos (by rw [a2, a3, a4, a5]; simp [isPf0])]

theorem addWear_f (u : State) (p k : Nat) : (u.addWear p k).st = u.st ∧ (u.addWear p k).mem = u.mem ∧ (u.addWear p k).cmds = u.cmds ∧ (u.addWear p k).now = u.now ∧ (u.addWear p k).kp.timeOff = u.kp.timeOff ∧ (u.addWear p k).kp.inhibit = u.kp.inhibit := by
  unfold State.addWear; dsimp only; split <;> exact ⟨rfl, rfl, rfl, rfl, rfl, rfl⟩

theorem adminEnd_f (s : State) (h st r : Nat) : (s.adminEnd h st r).st.vols = s.st.vols ∧ (s.adminEnd h st r).mem = s.mem := by
  unfold State.adminEnd
  dsimp only
  have ar : ∀ (u : State) c, (u.arrEnded c).st = u.st ∧ (u.arrEnded c).mem = u.mem := by
    intro u c; unfold State.arrEnded; dsimp only; repeat' split
    all_goals exact ⟨rfl, rfl⟩
  have mi : ∀ (u : State), u.markIdle.st = u.st ∧ u.markIdle.mem = u.mem := by
    intro u; unfold State.markIdle; dsimp only; repeat' split
    all_goals exact ⟨rfl, rfl⟩
  split
  · unfold State.finish
    dsimp only
    split
    · rw [(mi _).1, (mi _).2]
      unfold State.dropCmd
      exact ⟨by show (State.arrEnded _ _).st.vols = _; rw [(ar _ _).1], by show (State.arrEnded _ _).mem = _; rw [(ar _ _).2]⟩
    · rw [(mi _).1, (mi _).2]
      exact ⟨by show (State.arrEnded _ _).st.vols = _; rw [(ar _ _).1], by show (State.arrEnded _ _).mem = _; rw [(ar _ _).2]⟩
  · exact ⟨rfl, rfl⟩

theorem setVol_f (s : State) (n : Nat) (v : Vol) (h : s.kp.inhibit = false) : (s.setVol n v).st.vols = mapSet s.st.vols n v ∧ (s.setVol n v).mem = s.mem := by
  unfold State.setVol State.keepRec
  rw [if_neg (nf' h), (addWear_f _ _ _).1, (addWear_f _ _ _).2.1]
  exact ⟨rfl, rfl⟩

theorem toLe_length : ∀ (n v : Nat), (toLe n v).length = n := by
  intro n; induction n with
  | zero => intro v; rfl
  | succ n ih => intro v; unfold toLe; simp [ih]

theorem memReadN_length : ∀ (n : Nat) (m : List Host.Cell) (a : Nat), (memReadN m a n).length = n := by
  intro n; induction n with
  | zero => intro m a; rfl
  | succ n ih => intro m a; unfold memReadN; simp [ih]

theorem memReadN_add : ∀ (k : Nat) (m : List Host.Cell) (a n : Nat), memReadN m a (k + n) = memReadN m a k ++ memReadN m (a + k) n := by
  intro k; induction k with
  | zero => intro m a n; simp [memReadN]
  | succ k ih => intro m a n; rw [show k + 1 + n = (k + n) + 1 by omega]; simp only [memReadN, ih]; rw [show a + 1 + k = a + (k + 1) by omega]; rfl

theorem memReadN_out : ∀ (n : Nat) (m : List Host.Cell) (a b : Nat) (bs : List Byte), (b + n ≤ a ∨ a + bs.length ≤ b) → memReadN (memWriteN m a bs) b n = memReadN m b n := by
  intro n; induction n with
  | zero => intro m a b bs _; rfl
  | succ n ih => intro m a b bs h; simp only [memReadN]; rw [ih _ _ _ _ (by omega), memRead_memWriteN_out _ _ _ _ (by omega)]

theorem keepWords_read : ∀ (l : List Nat) (s : State) (off : Nat), memWf s.keep = true → s.kp.inhibit = false →
    memReadN (s.keepWords off l).keep off (8 * l.length) = l.flatMap (toLe 8) ∧ memWf (s.keepWords off l).keep = true ∧
    ∀ b n, b + n ≤ off → memReadN (s.keepWords off l).keep b n = memReadN s.keep b n := by
  intro l; induction l with
  | nil => intro s off h1 h2; exact ⟨rfl, h1, fun _ _ _ => rfl⟩
  | cons v l ih =>
    intro s off h1 h2
    have kw : (s.keepWord off v).keep = memWriteN s.keep off (toLe 8 v) ∧ (s.keepWord off v).kp.inhibit = false := by
      unfold State.keepWord
      rw [if_neg (nf' h2)]
      unfold State.addWear; dsimp only; split <;> exact ⟨rfl, h2⟩
    have wf : memWf (s.keepWord off v).keep = true := by rw [kw.1]; exact memWf_memWriteN _ _ _ h1
    obtain ⟨a, b, c⟩ := ih (s.keepWord off v) (off + 8) wf kw.2
    refine ⟨?_, b, ?_⟩
    · show memReadN ((s.keepWord off v).keepWords (off + 8) l).keep off (8 * (l.length + 1)) = _
      rw [show 8 * (l.length + 1) = 8 + 8 * l.length by omega, memReadN_add, a, c off 8 (by omega), kw.1]
      have : memReadN (memWriteN s.keep off (toLe 8 v)) off 8 = toLe 8 v := by
        have e := memReadN_memWriteN_same (toLe 8 v) s.keep off h1
        rw [toLe_length] at e
        exact e
      rw [this]; rfl
    · intro p n h
      show memReadN ((s.keepWord off v).keepWords (off + 8) l).keep p n = _
      rw [c p n (by omega), kw.1, memReadN_out _ _ _ _ _ (by omega)]

theorem toLe_leNat : ∀ (bs : List Byte), toLe bs.length (leNat bs) = bs := by
  intro bs; induction bs with
  | nil => rfl
  | cons b t ih =>
    show BitVec.ofNat 8 (leNat (b :: t)) :: toLe t.length (leNat (b :: t) / 256) = b :: t
    have : leNat (b :: t) = b.toNat + 256 * leNat t := rfl
    have lt := b.isLt
    have e1 : leNat (b :: t) / 256 = leNat t := by rw [this]; omega
    have e2 : BitVec.ofNat 8 (leNat (b :: t)) = b := by
      apply BitVec.eq_of_toNat_eq; rw [this, BitVec.toNat_ofNat]; omega
    rw [e1, e2, ih]

theorem bytesAt_in (bs : List Byte) (o n : Nat) (h : o + n ≤ bs.length) : bytesAt bs o n = (bs.drop o).take n := by
  unfold bytesAt
  simp
  omega

theorem words_back (bs : List Byte) (h : bs.length = 32) : (toWords bs).flatMap (toLe 8) = bs := by
  have e : ∀ o, o + 8 ≤ 32 → toLe 8 (leAt bs o 8) = (bs.drop o).take 8 := by
    intro o ho
    unfold leAt
    have l : (bytesAt bs o 8).length = 8 := by unfold bytesAt; simp
    have := toLe_leNat (bytesAt bs o 8)
    rw [l] at this
    rw [this, bytesAt_in _ _ _ (by omega)]
  unfold toWords
  rw [h]
  show [leAt bs 0 8, leAt bs 8 8, leAt bs 16 8, leAt bs 24 8].flatMap (toLe 8) = bs
  simp only [List.flatMap_cons, List.flatMap_nil, e 0 (by omega), e 8 (by omega), e 16 (by omega), e 24 (by omega), List.append_nil]
  have t1 : bs = bs.take 8 ++ (bs.drop 8) := (List.take_append_drop 8 bs).symm
  have t2 : bs.drop 8 = (bs.drop 8).take 8 ++ (bs.drop 16) := by
    have := (List.take_append_drop 8 (bs.drop 8)).symm; rwa [List.drop_drop] at this
  have t3 : bs.drop 16 = (bs.drop 16).take 8 ++ (bs.drop 24) := by
    have := (List.take_append_drop 8 (bs.drop 16)).symm; rwa [List.drop_drop] at this
  have t4 : (bs.drop 24).take 8 = bs.drop 24 := List.take_of_length_le (by simp; omega)
  rw [t4]
  conv => rhs; rw [t1, t2, t3]
  simp

theorem lgBytes_length (seq : Nat) (r : LgReq) : (lgBytes seq r).length = 32 := by
  have b : ∀ d : List Byte, (bytesAt d 0 16).length = 16 := by intro d; unfold bytesAt; simp
  unfold lgBytes lgBody
  split <;> simp [toLe_length, b, zeros]

end Sys2Proof.Machine
end

