-- ==== Sys2Proof/Laws/Units.lean ====
section
/-! SUPPORT. Laws: the Millwheel, the Gauge, the member ports and the Mender. -/

namespace Sys2Proof.Machine

open Sys2Proof.Safety

set_option linter.all false

theorem mwGo_frame (st : Nat) (s : State) : s.mwGo st = { s with regs := (s.mwGo st).regs, mw := (s.mwGo st).mw } ∧
    (∀ q, q ≠ Reg.MW_STATUS → (s.mwGo st).reg q = s.reg q) ∧ (∀ i, 4 ≤ i → i < 32 → i ≠ 10 → (s.mwGo st).flag Reg.MW_STATUS i = s.flag Reg.MW_STATUS i) ∧
    (s.mwGo st).fld Reg.MW_STATUS 22 20 = s.fld Reg.MW_STATUS 22 20 ∧ (st < 16 → (s.mwGo st).mwState = st) ∧ (s.mwGo st).mw.comm = s.mw.comm ∧
    (s.mwGo st).mw.at_ = s.now := by
  unfold State.mwGo State.mwSt State.setGates State.mwState State.mwSt
  dsimp only
  have c : ∀ i, 4 ≤ i → i < 32 → (s.setFld Reg.MW_STATUS 3 0 st).flag Reg.MW_STATUS i = s.flag Reg.MW_STATUS i := by
    intro i h1 h2; exact State.flag_setFld_disj _ _ _ _ _ _ (by decide) h2 (by omega)
  have d : (s.setFld Reg.MW_STATUS 3 0 st).fld Reg.MW_STATUS 22 20 = s.fld Reg.MW_STATUS 22 20 := State.fld_setFld_disj _ _ _ _ _ _ _ (by decide) (by decide) (by decide)
  have e : st < 16 → (s.setFld Reg.MW_STATUS 3 0 st).fld Reg.MW_STATUS 3 0 = st := by
    intro h; rw [State.fld_setFld_same _ _ _ _ _ (by decide) (by decide)]; omega
  split
  · refine ⟨rfl, ?_, ?_, ?_, ?_, rfl, rfl⟩
    · intro q h; rw [State.reg_setFlag_ne _ _ _ _ _ h]; exact State.reg_setFld_ne _ _ _ _ _ _ h
    · intro i h1 h2 h3; rw [State.flag_setFlag_bit _ _ _ _ _ h3 h2]; exact c i h1 h2
    · rw [State.fld_setFlag_disj _ _ _ _ _ _ (by decide) (by decide)]; exact d
    · intro h; rw [State.fld_setFlag_disj _ _ _ _ _ _ (by decide) (by decide)]; exact e h
  · split
    · exact ⟨rfl, fun q h => State.reg_setFld_ne _ _ _ _ _ _ h, fun i h1 h2 _ => c i h1 h2, d, e, rfl, rfl⟩
    · split
      · exact ⟨rfl, fun q h => State.reg_setFld_ne _ _ _ _ _ _ h, fun i h1 h2 _ => c i h1 h2, d, e, rfl, rfl⟩
      · exact ⟨rfl, fun q h => State.reg_setFld_ne _ _ _ _ _ _ h, fun i h1 h2 _ => c i h1 h2, d, e, rfl, rfl⟩

theorem enters (st : Nat) (s : State) (h : st < 16) : (s.mwGo st).mwState = st := (mwGo_frame st s).2.2.2.2.1 h

theorem chopOk (s : State) (fb : Bool) (h : s.hubV < 20 ∨ fb = true) : s.chopTest fb = (true, s) := by
  unfold State.chopTest
  split
  · rfl
  · rcases h with h | h
    · rename_i n; exact absurd h n
    · rw [if_pos h]

/-- `t` differs from `s` in registers and the wheel alone, and not in STATE or the trip marks. -/
structure MwR (s t : State) : Prop where
  f : t = { s with regs := t.regs, mw := t.mw }
  st : t.mwState = s.mwState
  ph : t.mw.tripPh = s.mw.tripPh
  dc : t.mw.tripDc = s.mw.tripDc

theorem MwR.rfl' (s : State) : MwR s s := ⟨rfl, rfl, rfl, rfl⟩

theorem MwR.trans {s t u : State} (h : MwR s t) (k : MwR t u) : MwR s u :=
  ⟨by rw [k.f, h.f], k.st.trans h.st, k.ph.trans h.ph, k.dc.trans h.dc⟩

theorem MwR.mwSt (s : State) (f : Mw → Mw) (h : ∀ m, (f m).tripPh = m.tripPh ∧ (f m).tripDc = m.tripDc) : MwR s (s.mwSt f) :=
  ⟨rfl, rfl, (h _).1, (h _).2⟩

theorem MwR.flag (s : State) (i : Nat) (b : Bool) (h : 4 ≤ i) : MwR s (s.setFlag Reg.MW_STATUS i b) :=
  ⟨rfl, State.fld_setFlag_disj _ _ _ _ _ _ (by decide) (by omega), rfl, rfl⟩

theorem MwR.reg (s : State) (k v : Nat) (h : Reg.MW_STATUS ≠ k) : MwR s (s.setReg k v) :=
  ⟨rfl, State.fld_setReg_ne _ _ _ _ _ _ h, rfl, rfl⟩

theorem MwR.ite {s a b : State} {c : Prop} [Decidable c] (h : MwR s a) (k : MwR s b) : MwR s (if c then a else b) := by split <;> assumption

theorem MwR.ask (s : State) : MwR s s.mwAsk := by unfold State.mwAsk; exact MwR.mwSt _ _ (fun _ => ⟨rfl, rfl⟩)

theorem MwR.flux (s : State) (p : Option (Nat × Nat × Nat)) : MwR s (s.fluxStep p) := by
  unfold State.fluxStep
  dsimp only
  exact MwR.mwSt _ _ (fun _ => ⟨rfl, rfl⟩)

theorem MwR.obs (s : State) (p : Rat) : MwR s (s.observe p) := by
  unfold State.observe; exact MwR.mwSt _ _ (fun _ => ⟨rfl, rfl⟩)

theorem MwR.shown (s : State) : MwR s s.mwShow := by
  unfold State.mwShow
  dsimp only
  refine MwR.trans ?_ (MwR.flag _ _ _ (by decide))
  refine MwR.trans ?_ (MwR.reg _ _ _ (by decide))
  refine MwR.trans ?_ (MwR.reg _ _ _ (by decide))
  refine MwR.trans ?_ (MwR.reg _ _ _ (by decide))
  refine MwR.trans ?_ (MwR.reg _ _ _ (by decide))
  refine MwR.trans ?_ (MwR.reg _ _ _ (by decide))
  exact MwR.reg _ _ _ (by decide)

/-- The Tally recomputes where the Millwheel's state has changed (R133), and only there. -/
theorem State.mwTell_of_ne {u s : State} (h : u.mwState ≠ s.mwState) : u.mwTell s = u.tlUpdate := if_neg h

theorem State.mwTell_of_eq {u s : State} (h : u.mwState = s.mwState) : u.mwTell s = u := if_pos h

theorem MwR.setGates (s : State) (v : Option Nat) : MwR s (s.setGates v) := by
  unfold State.setGates
  refine MwR.mwSt _ _ fun m => ?_
  cases v <;> exact ⟨rfl, rfl⟩

/-- A period leaves OFF only for FAULT, at overspeed (R197). -/
theorem move_off (s : State) (h : s.mwState = Ms.off) (v : s.overspeed = false) : s.mwMove = s := by
  have k : s.mwNext = s := by
    unfold State.mwNext
    dsimp only
    rw [h, v]
    rfl
  unfold State.mwMove
  rw [k]
  exact State.mwTell_of_eq rfl

theorem tref_off (s : State) (h : s.mwState = Ms.off) : s.torqueRef = s.mwSt fun m => { m with tref := 0 } := by
  unfold State.torqueRef
  dsimp only
  rw [h]
  split <;> rfl

/-- In OFF the comparators act and every gate is off (R175, R181). -/
theorem drive_off (s : State) (h : s.mwState = Ms.off) : MwR s s.mwDrive ∧ s.mwDrive.mw.gates = 0 ∧ s.mwDrive.mw.tref = s.mw.tref := by
  have e : s.mwDrive = s.compare.secWatch.idleDrive false := by
    have k : s.compare.secWatch.mwState = Ms.off := h
    unfold State.mwDrive
    dsimp only
    rw [k]
    rfl
  rw [e]
  refine ⟨?_, rfl, rfl⟩
  have a : MwR s s.compare := by
    unfold State.compare
    exact MwR.mwSt _ _ (fun _ => ⟨rfl, rfl⟩)
  have b : MwR s.compare s.compare.secWatch := by
    unfold State.secWatch
    exact MwR.mwSt _ _ (fun _ => ⟨rfl, rfl⟩)
  unfold State.idleDrive
  exact (a.trans b).trans ((MwR.setGates _ _).trans (MwR.mwSt _ _ (fun _ => ⟨rfl, rfl⟩)))

theorem MwR.est (s : State) (ph : Option (Nat × Nat × Nat)) : MwR s (s.mwEstimate ph) := by
  unfold State.mwEstimate
  dsimp only
  have k3 : MwR s ((s.fluxStep ph).observe s.mwAngle) := (MwR.flux _ _).trans (MwR.obs _ _)
  generalize ((s.fluxStep ph).observe s.mwAngle) = v at *
  refine MwR.trans ?_ (MwR.flag _ _ _ (by decide))
  have k5 : MwR s (v.mwSt fun x => { x with that := v.torqueEst }) := k3.trans (MwR.mwSt _ _ (fun _ => ⟨rfl, rfl⟩))
  generalize (v.mwSt fun x => { x with that := v.torqueEst }) = u at *
  exact MwR.ite (k5.trans (MwR.flag _ _ _ (by decide))) k5

/-- What the turn of a period does: the trip marks are cleared, and DC trips in a row counted (R185, R197). -/
theorem mwTurn_frame (s : State) : s.mwTurn = { s with mw := s.mwTurn.mw } ∧ s.mwTurn.mw.tripPh = false ∧ s.mwTurn.mw.tripDc = false ∧
    s.mwTurn.mw.dcRun = (if s.mw.tripDc then s.mw.dcRun + 1 else 0) ∧ s.mwTurn.mw.gates = s.mw.gates :=
  ⟨rfl, rfl, rfl, rfl, rfl⟩

/-- Without an encoder the sample of a period brings registers and the wheel's inputs only. -/
theorem MwR.sense (s : State) (m : MwSample) (h : s.mwFb ≠ 1) : MwR s (s.mwSense m) := by
  have e : MwR s (s.encSense m.ab) := by
    unfold State.encSense
    dsimp only
    rw [if_neg (by intro k; exact h k.2)]
    exact MwR.mwSt _ _ (fun _ => ⟨rfl, rfl⟩)
  unfold State.mwSense
  dsimp only
  generalize s.encSense m.ab = v at *
  have k : MwR s (v.mwSt fun x => { x with res := m.res.toNat, spdV := m.spdIn.getD x.spdV,
                                           spdAt := if m.spdIn.isSome then s.now else x.spdAt }) :=
    e.trans (MwR.mwSt _ _ (fun _ => ⟨rfl, rfl⟩))
  exact MwR.ite (k.trans (MwR.flag _ 11 false (by decide))) k

theorem showInt_frame (s : State) (k w : Nat) (g : Bool) (v : Int) : s.showInt k w g v = { s with regs := (s.showInt k w g v).regs, free := (s.showInt k w g v).free } ∧
    (∀ q, q ≠ k → (s.showInt k w g v).reg q = s.reg q) := by
  unfold State.showInt
  dsimp only
  split
  · split
    · exact ⟨rfl, fun q h => State.reg_setFld_ne _ _ _ _ _ _ h⟩
    · exact ⟨rfl, fun q h => (State.reg_setFld_ne _ _ _ _ _ _ h).trans rfl⟩
  · split
    · exact ⟨rfl, fun q h => State.reg_setFld_ne _ _ _ _ _ _ h⟩
    · exact ⟨rfl, fun q h => (State.reg_setFld_ne _ _ _ _ _ _ h).trans rfl⟩

theorem gaMean_frame (z : State) : z.gaMean = { z with regs := z.gaMean.regs, free := z.gaMean.free, ga := z.gaMean.ga } ∧
    z.gaMean.ga.i = z.ga.i ∧ z.gaMean.ga.q = z.ga.q ∧ z.gaMean.ga.v = z.ga.v := by
  unfold State.gaMean State.gaSt; split
  · obtain ⟨a, _⟩ := showInt_frame z Reg.GA_CURRENT 32 true z.ga.sum.floor
    have e : (z.showInt Reg.GA_CURRENT 32 true z.ga.sum.floor).ga = z.ga := by rw [a]
    generalize z.showInt Reg.GA_CURRENT 32 true z.ga.sum.floor = y at *
    refine ⟨by rw [a], ?_, ?_, ?_⟩ <;> rw [e]
  · exact ⟨rfl, rfl, rfl, rfl⟩

theorem gaLoad_frame (s : State) : s.gaLoad = { s with regs := s.gaLoad.regs, ga := s.gaLoad.ga } ∧ s.gaLoad.ga.seenAt = s.ga.seenAt ∧
    (∀ i, i ≠ 7 → i < 32 → s.gaLoad.flag Reg.GA_STATUS i = s.flag Reg.GA_STATUS i) ∧
    s.gaLoad.fld Reg.GA_STATUS 18 16 = s.fld Reg.GA_STATUS 18 16 ∧ s.gaLoad.reg Reg.GA_INSERTS = s.reg Reg.GA_INSERTS := by
  have f64 : ∀ (z : State) v, (z.setReg64 Reg.GA_REC_SEQ_LO v) = { z with regs := (z.setReg64 Reg.GA_REC_SEQ_LO v).regs } ∧
      ∀ q, q ≠ Reg.GA_REC_SEQ_LO → q ≠ Reg.GA_REC_SEQ_LO + 4 → (z.setReg64 Reg.GA_REC_SEQ_LO v).reg q = z.reg q := by
    intro z v; unfold State.setReg64
    refine ⟨rfl, fun q h1 h2 => ?_⟩
    rw [State.reg_setReg_ne _ _ _ _ h2, State.reg_setReg_ne _ _ _ _ h1]
  unfold State.gaLoad
  dsimp only
  split
  · obtain ⟨a, b⟩ := f64 s.gaFresh 0
    generalize s.gaFresh.setReg64 Reg.GA_REC_SEQ_LO 0 = y at *
    have st := b Reg.GA_STATUS (by decide) (by decide)
    have ins := b Reg.GA_INSERTS (by decide) (by decide)
    refine ⟨by rw [a]; rfl, by rw [a]; rfl, ?_, ?_, ?_⟩
    · intro i h1 h2
      unfold State.flag; rw [st]
      have : s.gaFresh.flag Reg.GA_STATUS i = s.flag Reg.GA_STATUS i := by
        unfold State.gaFresh
        refine (State.flag_congr (s := (((s.setReg Reg.GA_CAP (8 * s.gaRated / 10)).setReg Reg.GA_RINT s.gaRatedR).setFlag Reg.GA_STATUS 7 true)) rfl _ _).trans ?_
        rw [State.flag_setFlag_bit _ _ _ _ _ h1 h2, State.flag_setReg_ne _ _ _ _ _ (by decide), State.flag_setReg_ne _ _ _ _ _ (by decide)]
      exact this
    · unfold State.fld; rw [st]
      have : s.gaFresh.fld Reg.GA_STATUS 18 16 = s.fld Reg.GA_STATUS 18 16 := by
        unfold State.gaFresh
        refine (State.fld_congr (s := (((s.setReg Reg.GA_CAP (8 * s.gaRated / 10)).setReg Reg.GA_RINT s.gaRatedR).setFlag Reg.GA_STATUS 7 true)) rfl _ _ _).trans ?_
        simp (disch := decide) only [State.reg_setFld_ne, State.reg_setReg_ne, State.reg_setFlag_ne, State.reg_bump_ne,
    State.fld_setFld_same, State.fld_setFld_ne, State.fld_setFld_disj, State.fld_setReg_ne, State.fld_setFlag_ne,
    State.fld_setFlag_disj, State.fld_bump_ne, State.flag_setFlag_same, State.flag_setFlag_ne, State.flag_setFlag_bit,
    State.flag_setFld_ne, State.flag_setFld_disj, State.flag_setReg_ne, State.flag_bump_ne, State.reg_bump_same]
      exact this
    · rw [ins]
      unfold State.gaFresh
      refine (State.reg_congr (s := (((s.setReg Reg.GA_CAP (8 * s.gaRated / 10)).setReg Reg.GA_RINT s.gaRatedR).setFlag Reg.GA_STATUS 7 true)) rfl _).trans ?_
      simp (disch := decide) only [State.reg_setFld_ne, State.reg_setReg_ne, State.reg_setFlag_ne, State.reg_bump_ne,
    State.fld_setFld_same, State.fld_setFld_ne, State.fld_setFld_disj, State.fld_setReg_ne, State.fld_setFlag_ne,
    State.fld_setFlag_disj, State.fld_bump_ne, State.flag_setFlag_same, State.flag_setFlag_ne, State.flag_setFlag_bit,
    State.flag_setFld_ne, State.flag_setFld_disj, State.flag_setReg_ne, State.flag_bump_ne, State.reg_bump_same]
  · generalize (s.keepN (gaRec (if s.gaRecSeq 1 > s.gaRecSeq 0 then 1 else 0)) 64) = r
    obtain ⟨a, b⟩ := f64 ((s.setReg Reg.GA_CAP (leAt r 8 4)).setReg Reg.GA_RINT (leAt r 12 4)) (leAt r 0 8)
    generalize State.setReg64 ((s.setReg Reg.GA_CAP (leAt r 8 4)).setReg Reg.GA_RINT (leAt r 12 4)) Reg.GA_REC_SEQ_LO (leAt r 0 8) = y at *
    have c : ∀ q, q ≠ Reg.GA_REC_SEQ_LO → q ≠ Reg.GA_REC_SEQ_LO + 4 → q ≠ Reg.GA_CAP → q ≠ Reg.GA_RINT → y.reg q = s.reg q := by
      intro q h1 h2 h3 h4
      rw [b q h1 h2, State.reg_setReg_ne _ _ _ _ h4, State.reg_setReg_ne _ _ _ _ h3]
    have st := c Reg.GA_STATUS (by decide) (by decide) (by decide) (by decide)
    have ins := c Reg.GA_INSERTS (by decide) (by decide) (by decide) (by decide)
    refine ⟨by rw [a]; rfl, by rw [a]; rfl, ?_, ?_, ins⟩
    · intro i h1 h2
      show bit (y.reg Reg.GA_STATUS) i = _
      rw [st]; rfl
    · show bits (y.reg Reg.GA_STATUS) 18 16 = _
      rw [st]; rfl

theorem port_setPort (s : State) (p : Nat) (q : Port) : (s.setPort p q).port p = q := by
  unfold State.port State.setPort; dsimp only; exact mapGetD_mapSet_same _ _ _ _

theorem port_updPort (s : State) (p : Nat) (f : Port → Port) : (s.updPort p f).port p = f (s.port p) := port_setPort s p _

theorem y0 (s : State) (a : Nat) : (if a = s.mp.out0 then s else State.put { s with mp.out0 := a } [.sideband 0 a]).mp.ports = s.mp.ports ∧
  (if a = s.mp.out0 then s else State.put { s with mp.out0 := a } [.sideband 0 a]).mp.cmds = s.mp.cmds ∧ 
  (if a = s.mp.out0 then s else State.put { s with mp.out0 := a } [.sideband 0 a]).regs = s.regs := by
  split
  · exact ⟨rfl, rfl, rfl⟩
  · exact ⟨rfl, rfl, rfl⟩

theorem y1 (s : State) (a : Nat) : (if a = s.mp.out1 then s else State.put { s with mp.out1 := a } [.sideband 1 a]).mp.ports = s.mp.ports ∧
  (if a = s.mp.out1 then s else State.put { s with mp.out1 := a } [.sideband 1 a]).mp.cmds = s.mp.cmds ∧ 
  (if a = s.mp.out1 then s else State.put { s with mp.out1 := a } [.sideband 1 a]).regs = s.regs := by
  split
  · exact ⟨rfl, rfl, rfl⟩
  · exact ⟨rfl, rfl, rfl⟩

theorem sbSend_frame (s : State) (x y : Nat) : (s.sbSend x y).mp.ports = s.mp.ports ∧ (s.sbSend x y).mp.cmds = s.mp.cmds ∧ (s.sbSend x y).regs = s.regs := by
  have a := y0 s x
  unfold State.sbSend
  dsimp only
  generalize (if x = s.mp.out0 then s else State.put { s with mp.out0 := x } [.sideband 0 x]) = u at *
  have b := y1 u y
  rw [b.1, b.2.1, b.2.2]
  exact a

theorem sb_frame (s : State) : s.sbSync.mp.ports = s.mp.ports ∧ s.sbSync.mp.cmds = s.mp.cmds ∧ s.sbSync.regs = s.regs := by
  unfold State.sbSync
  exact sbSend_frame s _ _

theorem port_sb (s : State) (p : Nat) : s.sbSync.port p = s.port p ∧ s.sbSync.mp.cmds = s.mp.cmds ∧ s.sbSync.regs = s.regs := by
  refine ⟨?_, (sb_frame s).2⟩
  unfold State.port; rw [(sb_frame s).1]

theorem addTask_spec (s : State) (k : TKind) (a st o l : Nat) (ph : TPhase) :
    (∃ t, (s.addTask k a st o l ph).2.md.tasks = s.md.tasks ++ [t] ∧ t.kind = k ∧ t.arr = a ∧ t.stripe = st) ∧
    (s.addTask k a st o l ph).2 = { s with md := (s.addTask k a st o l ph).2.md, nextH := (s.addTask k a st o l ph).2.nextH } ∧
    (s.addTask k a st o l ph).2.md.walks = s.md.walks ∧ (s.addTask k a st o l ph).2.md.repq = s.md.repq :=
  ⟨⟨_, rfl, rfl, rfl, rfl⟩, rfl, rfl, rfl⟩

theorem rateRoll_f (s : State) (a : Nat) : s.rateRoll a = { s with md := (s.rateRoll a).md } ∧ (s.rateRoll a).md.tasks = s.md.tasks ∧
    (s.rateRoll a).md.walks = s.md.walks ∧ (s.rateRoll a).md.repq = s.md.repq := by
  unfold State.rateRoll; dsimp only; split <;> exact ⟨rfl, rfl, rfl, rfl⟩

theorem walk_setWalk (s : State) (a : Nat) (w : Walk) : (s.setWalk a w).walk a = w := mapGetD_mapSet_same _ _ _ _

theorem scrub_setScrub (s : State) (a : Nat) (w : Scrub) : (s.setScrub a w).scrubOf a = w := mapGetD_mapSet_same _ _ _ _

end Sys2Proof.Machine
end

