-- ==== Sys2Proof/Laws/Registers.lean ====
section
/-! SUPPORT. Laws: register fields and the Almanac rows. -/

namespace Sys2Proof.Machine

open Sys2Proof.Safety

set_option linter.all false

def fldsOk : List RField → Bool
  | [] => true
  | x :: t => decide (x.lo ≤ x.hi) && t.all (fun y => decide (y.hi < x.lo) || decide (x.hi < y.lo)) && fldsOk t

theorem fldsOk0 : regTable0.all (fun d => fldsOk d.fields) = true := by decide

theorem fldsOk1 : regTable1.all (fun d => fldsOk d.fields) = true := by decide

theorem fldsOk2 : regTable2.all (fun d => fldsOk d.fields) = true := by decide

theorem fldsOk3 : regTable3.all (fun d => fldsOk d.fields) = true := by decide

theorem fldsOk4 : regTable4.all (fun d => fldsOk d.fields) = true := by decide

theorem fldsOk5 : regTable5.all (fun d => fldsOk d.fields) = true := by decide

theorem fldsOk6 : regTable6.all (fun d => fldsOk d.fields) = true := by decide

theorem fldsOk7 : regTable7.all (fun d => fldsOk d.fields) = true := by decide

theorem fldsOk8 : regTable8.all (fun d => fldsOk d.fields) = true := by decide

theorem fldsOk9 : regTable9.all (fun d => fldsOk d.fields) = true := by decide

theorem fldsOk10 : regTable10.all (fun d => fldsOk d.fields) = true := by decide

theorem fldsOk11 : regTable11.all (fun d => fldsOk d.fields) = true := by decide

theorem fldsOk12 : regTable12.all (fun d => fldsOk d.fields) = true := by decide

theorem fldsOk13 : regTable13.all (fun d => fldsOk d.fields) = true := by decide

theorem fldsOk14 : regTable14.all (fun d => fldsOk d.fields) = true := by decide

theorem fldsOk15 : regTable15.all (fun d => fldsOk d.fields) = true := by decide

theorem fldsOk16 : regTable16.all (fun d => fldsOk d.fields) = true := by decide

theorem fldsOk17 : regTable17.all (fun d => fldsOk d.fields) = true := by decide

theorem fldsOk18 : regTable18.all (fun d => fldsOk d.fields) = true := by decide

theorem fldsOk19 : regTable19.all (fun d => fldsOk d.fields) = true := by decide

theorem fldsOk_all (d : RegDesc) (h : d ∈ regTable) : fldsOk d.fields = true := by
  have k : regTable.all (fun d => fldsOk d.fields) = true := by
    unfold regTable
    simp only [List.all_append, fldsOk0, fldsOk1, fldsOk2, fldsOk3, fldsOk4, fldsOk5, fldsOk6, fldsOk7, fldsOk8, fldsOk9, fldsOk10, fldsOk11, fldsOk12, fldsOk13, fldsOk14, fldsOk15, fldsOk16, fldsOk17, fldsOk18, fldsOk19, Bool.and_self]
  exact List.all_eq_true.mp k d h

theorem apply_bits_ne (v acc : Nat) (x : RField) (hi lo : Nat) (w : x.lo ≤ x.hi) (d : hi < x.lo ∨ x.hi < lo) :
    bits (RField.apply v acc x) hi lo = bits acc hi lo := by
  unfold RField.apply
  split
  · exact bits_setBits_ne _ _ _ _ _ _ w d
  · exact bits_setBits_ne _ _ _ _ _ _ w d
  · exact bits_setBits_ne _ _ _ _ _ _ w d
  all_goals rfl

theorem fold_ne (v : Nat) (hi lo : Nat) (l : List RField) (acc : Nat) (w : fldsOk l = true)
    (d : ∀ y ∈ l, hi < y.lo ∨ y.hi < lo) : bits (l.foldl (RField.apply v) acc) hi lo = bits acc hi lo := by
  induction l generalizing acc with
  | nil => rfl
  | cons y t ih =>
    unfold fldsOk at w
    simp only [Bool.and_eq_true, decide_eq_true_eq] at w
    rw [List.foldl_cons, ih _ w.2 (fun z hz => d z (List.mem_cons_of_mem _ hz)), apply_bits_ne _ _ _ _ _ w.1.1 (d y List.mem_cons_self)]

theorem fold_at (v : Nat) (x : RField) (l : List RField) (acc : Nat) (w : fldsOk l = true) (m : x ∈ l) :
    x.lo ≤ x.hi ∧ ∃ b, bits b x.hi x.lo = bits acc x.hi x.lo ∧ bits (l.foldl (RField.apply v) acc) x.hi x.lo = bits (RField.apply v b x) x.hi x.lo := by
  induction l generalizing acc with
  | nil => cases m
  | cons y t ih =>
    unfold fldsOk at w
    simp only [Bool.and_eq_true, decide_eq_true_eq, List.all_eq_true, Bool.or_eq_true] at w
    rw [List.foldl_cons]
    rcases List.mem_cons.mp m with h | h
    · subst h
      exact ⟨w.1.1, acc, rfl, fold_ne v _ _ t _ w.2 (fun z hz => (w.1.2 z hz).symm)⟩
    · obtain ⟨e, b, b1, b2⟩ := ih (RField.apply v acc y) w.2 h
      refine ⟨e, b, ?_, b2⟩
      rw [b1, apply_bits_ne _ _ _ _ _ w.1.1 (w.1.2 x h)]

theorem bits_lt (v hi lo : Nat) : bits v hi lo < 2 ^ (hi + 1 - lo) := Nat.mod_lt _ (Nat.two_pow_pos _)

theorem mapGet_mapErase_same {α : Type} (m : NMap α) (k : Nat) : mapGet? (mapErase m k) k = none := by
  unfold mapErase
  induction m with
  | nil => rfl
  | cons e t ih =>
    rw [List.filter_cons]
    split
    · rename_i h
      simp at h
      simp [mapGet?, h, ih]
    · exact ih

theorem intBits_lt (w : Nat) (v : Int) : intBits w v < 2 ^ w := by
  unfold intBits
  have h : (0 : Int) < 2 ^ w := by positivity
  have := Int.emod_lt_of_pos v h
  have := Int.emod_nonneg v (ne_of_gt h)
  zify
  omega

theorem tjSeen_f (s : State) (tj : Int) : s.tjSeen tj = { s with regs := (s.tjSeen tj).regs, rg := (s.tjSeen tj).rg } ∧
    (s.tjSeen tj).reg Reg.SS_TJ = intBits 16 tj := by
  unfold State.tjSeen
  dsimp only
  generalize (decide (tj ≥ 1500) && decide (s.tjNow < 1500)) = hot
  generalize (decide (tj ≥ ((10 * clampN 85 150 (s.fld Reg.SS_THERM 7 0) : Nat) : Int)) || _) = on
  generalize hy : (s.setReg Reg.SS_TJ (intBits 16 tj)).setFlag Reg.SS_STATUS 8 on = y
  have yf : y = { s with regs := y.regs } := by rw [← hy]; rfl
  have yr : y.reg Reg.SS_TJ = intBits 16 tj := by
    rw [← hy, State.reg_setFlag_ne _ _ _ _ _ (by decide), State.reg_setReg_same]
    have := intBits_lt 16 tj
    omega
  split
  · split
    · exact ⟨by rw [yf]; rfl, (State.reg_congr (s := y) rfl _).trans yr⟩
    · exact ⟨by rw [yf]; rfl, (State.reg_congr (s := y) rfl _).trans yr⟩
  · split
    · exact ⟨by rw [yf]; rfl, (State.reg_congr (s := y) rfl _).trans yr⟩
    · exact ⟨by rw [yf], yr⟩

theorem mod_back (w a x : Nat) (h : a ≤ w) (hx : x < w) : ((w - a + x) % w + a) % w = x := by
  have : (w - a + x) % w = if w - a + x < w then w - a + x else x - a := by
    split
    · exact Nat.mod_eq_of_lt ‹_›
    · rw [Nat.mod_eq_sub_mod (by omega), show w - a + x - w = x - a by omega]; exact Nat.mod_eq_of_lt (by omega)
  rw [this]; split
  · rw [show w - a + x + a = x + w by omega, Nat.add_mod_right]; exact Nat.mod_eq_of_lt hx
  · rw [show x - a + a = x by omega]; exact Nat.mod_eq_of_lt hx

end Sys2Proof.Machine
end

