-- ==== Sys2Proof/WellFormed.lean ====
section
/-! DEFINITION. Which commands are well formed: every ring, port, array, context or slot number lies in the range the spec
gives it. -/

namespace Sys2Proof

/-- Submission and completion rings of a function (Table 14-1). -/
def Func.rings : Func → Nat
  | .pf0 => 256
  | .pf1 => 4

/-- MSI-X vectors of a function (Tables 13-1 and 13-2). -/
def Func.vectors : Func → Nat
  | .pf0 => 256
  | .pf1 => 32

/-- Does a command name only things that exist? -/
def Instr.wf : Instr → Bool
  | .sqTailDoorbell f q _ | .cqHeadDoorbell f q _ | .inlFlush f q | .sqEnable f q | .sqDisable f q | .cqEnable f q
  | .cqDisable f q | .ringDrainDone f q | .ownRereadTimeout f q | .headReportTimer f q | .cqOwnPoll f q
  | .coalesceTimeout f q => decide (q < f.rings)
  | .inlineSlotWrite f q off data => decide (q < f.rings) && decide (off + data.length ≤ 64)
  | .msixUnmask f v => decide (v < f.vectors)
  | .memberCompletion p qp _ _ _ _ | .deadlineExpiry p qp _ | .memberCmdTimeout p qp _ | .memberLongTimeout p qp _ =>
    decide (p < 32) && decide (qp ≤ 8)
  | .memberLinkDown p | .memberLinkUp p _ _ | .retrainTimeout p | .trainingTimeout p | .readyWaitTimeout p
  | .powerWaitExpiry p | .smartPoll p | .cstsRdy p => decide (p < 32)
  | .presencePoll b _ _ => decide (b < 2)
  | .walkIssue a | .rebuildCheckpoint a | .scrubCheckpoint a | .scrubVisit a | .arrayIdleTimer a => decide (a < 4)
  | .statePageTimer a _ | .copyBlockTimer a _ | .claimWaitResume a _ => decide (a < 4)
  | .loomJobSubmit q => decide (q < 4)
  | .loomJobComplete c _ => decide (c < 8)
  | .speedWindow l => decide (l.length = 8)
  | .lowClr n => decide (n < 8)
  | .configRequest _ off _ => decide (off < 4096)
  | .hostReadCompletion t _ _ | .hostReadTimeout t | .tagQuarantineExpiry t => decide (t < 768)
  | .mwControlPeriod _ | .hubSample _ _ | .learnWindow _ => true
  | .powerOnReset _ | .railOutOfWindow _ | .chipRstAssert | .coreReset _ | .startupStep | .memberWaitExpiry => true
  | .droopStage _ | .dumpOnlyEntry _ | .vcoreSettleExpiry | .refclkLoss _ | .thermCrossing _ | .timeSaveTimer => true
  | .sleepEval | .wakeEvent _ | .dramRetrain _ | .vinFilterExpiry _ | .pfNLow | .dumpVcoreRequest => true
  | .destageStop | .dumpSnapshot | .vinReturn _ | .resumeWaitExpiry | .keepLowVoltage _ => true
  | .perstAssert | .perstRelease | .hotReset | .hostLinkDown | .flr _ | .flrWaitDone _ | .bmeClear _ | .bmeSet _ => true
  | .d3hotEntry _ | .d0Return _ | .bar0InvalidAccess _ _ _ _ | .bar2Access _ _ _ _ _ | .hpDatapathError => true
  | .freezeForce | .freezeRelease | .ltrIdleTimer | .ringFetch | .collectorDeposit | .completionDrain => true
  | .inlineStaleTimeout | .collectorPromoteTimeout | .stallNoticeTimeout | .noticeDrain | .almanacEventTake => true
  | .read _ | .write _ | .writeZeroes _ | .flush _ | .deallocate _ | .logAppend _ | .logRead _ | .logTrim _ => true
  | .volumeStatus _ | .streamStatus _ => true
  | .holdingRecheck st => decide (st < 1024)
  | .arrayCreate _ | .arrayDelete _ | .volumeCreate _ | .volumeDelete _ | .volumeDeleteProceed _ | .volumeSet _ => true
  | .spareSet _ | .streamCreate _ | .streamDelete _ | .memberFail _ | .rebuildInPlace _ | .stripeRelease _ => true
  | .setMode _ | .writeBack _ | .timeSet _ | .commission _ | .arrayImport _ | .imageImport _ | .fwDownload _ => true
  | .fwActivate _ | .fwRestart | .getNonce _ | .almanacClear _ | .keySet _ | .noticeRoute _ | .nonceExpiry => true
  | .creditWaitGrant | .creditWaitTimeout | .slotWaitResume | .idleTimerExpiry _ | .ageLimitExpiry _ => true
  | .destageStart | .ldWbClear | .ldWbSet | .ldDrain | .ldProbeRead | .ledgerEntryGrant | .loomJobStart => true
  | .lmTjobGo | .injectDp | .scFillReturn _ | .scBufferWriteback | .scDisable | .scDrainDone | .scEnable => true
  | .scInvalidateDone | .ceilingRecompute | .relearnModel | .chopOvFilterExpiry _ | .peakTrip _ => true
  | .mwStartCommand _ | .mwStopCommand | .mwClear _ | .mwComm | .mwAbort | .commissionStepDone _ | .alignTimer => true
  | .rampTimeout | .catchObsTimer | .lockConfirm | .catchBrakeWait | .holdEntryTimer | .lockedRotor => true
  | .lockRetryExpiry | .retryCountReset | .shortExitTimer | .encoderIndex _ | .feedbackLost | .spdInTimeout => true
  | .gaugeSample _ | .gaugeOffsetZero | .packRemoval | .gaugeSlowPoll _ _ | .packInsertion _ | .gaugeSettled => true
  | .gaForget | .repairStart | .resyncStart | .menderRetryTimer _ => true
  | .kwFieldWrite off _ => decide (off % 4 = 0)
  | .epochHourClose | .almanacCheckpoint | .conditionCloseDelay | .repeatFlush => true
  | .almanacSnapshot sl => decide (sl < 512)
  | .mgtTransaction p _ _ => decide (p < 65536)
  | .mgtSlotWrite sl => decide (sl < 65536)
  | .mgtHealthRefresh | .tapInstruction _ | .consoleInput _ => true
  | .loLatchRead off => decide (off % 4 = 0)
  | .registerWrite _ _ len _ => decide (len = 4) || decide (len = 8)
  | .chipRstRelease _ | .coreResetRelease _ _ | .vinBreak _ | .almanacSample _ | .refreshRateStep _ => true
  | .hostLinkUp _ _ => true

end Sys2Proof
end

