-- ==== Sys2Proof/Tests/Slice0.lean ====
section
/-! SUPPORT. The model's own tests: ill-formed commands, the spec's worked examples, one step of single commands, and for
every statement of Obligations.lean with hypotheses a witness that meets them. A witness of the k-th clause with hypotheses of
the statement N (counted from 0, in the order they are written) is named wit_N_k; where one clause's hypotheses contain
another's, the witness of the larger serves both. -/

namespace Sys2Proof.Tests

open Sys2Proof.Machine Sys2Proof.Safety

set_option linter.all false
set_option Elab.async false

/-! ### Small states to test on -/

/-- State.reset with some registers set. -/
def hw (l : List (Nat × Nat)) : State := l.foldl (fun s e => s.setReg e.1 e.2) State.reset
/-- The same at a later AON count. -/
def hwAt (n : Nat) (l : List (Nat × Nat)) : State := { hw l with now := n }
/-- The state an outcome leads to. -/
def nextOf (o : Out) : State := match o with
  | .next t => t
  | _ => State.reset
/-- The state one command leads to. -/
def run (c : Instr) (s : State) : State := nextOf (exec c s)

/-- A submission entry by its fields (Table 15-1): opcode, TGT, P0, P1, P2, DPTR, P3. -/
def ent (o tgt p0 p1 p2 : Nat) (dptr : Nat := 0) (p3 : List Byte := []) : List Byte :=
  toLe 1 o ++ zeros 1 ++ toLe 2 7 ++ toLe 2 tgt ++ zeros 2 ++ toLe 8 dptr ++ toLe 8 p0 ++ toLe 4 p1 ++ toLe 4 p2 ++
  bytesAt p3 0 28 ++ zeros 4
/-- A command taken with handle 1, ready to execute. -/
def cmdOf (f : Func) (e : List Byte) (segs : List (Nat × Nat) := []) : Cmd :=
  { h := 1, f := f, sq := 1, cq := 1, pos := 0, prio := 0, ent := e, ph := .ready, segs := segs }
/-- The same with data that has arrived. -/
def cmdData (e d : List Byte) (segs : List (Nat × Nat)) : Cmd :=
  { cmdOf .pf1 e segs with recv := [⟨0, 0, d⟩] }

/-- A PARITY array of 2 + 1 positions at ports 0, 1 and 2, chunks of one block, 16 stripes. -/
def arrA : ArrayRec :=
  { kind := 0, dw := 2, k := 1, chunk := 0, meta_ := 2, state := 1, base := 0, count := 16, epoch := 1, failed := 0, pos := [0, 1, 2]
    h := 262144, ident := [], created := 0, labelGen := [], copyA := some 0, copyB := some 1, moves := 0, nguid := [] }
/-- The array at the stripes of its one BLOCK volume 0 and its LOG volume 1, with stream 0 OPEN in volume 1. -/
def volB : Vol := { cls := 0, arr := 0, base := 0, count := 4, deleting := false, prio := 0, deadline := 0 }
def volL : Vol := { cls := 1, arr := 0, base := 4, count := 8, deleting := false, prio := 0, deadline := 0 }
def strm : Stream :=
  { state := 1, policy := 0, vol := 1, idleMs := 10, base := 0, count := 8, recMax := 4096, retain := 0, trim := 0, next := 1
    vis := 0, cur := 0, lastTime := 0, idx := [(0, {})], done := [], refused := [], holes := [], holdAt := 0 }
/-- Ports 0 to 2 READY. -/
def okPort : Port := { state := Ps.ready, present := true, ioq := 1, depth := 64, lanes := 4, speed := 4, rdy := true, ident := true }
/-- An array in service in NORMAL mode. -/
def svc (l : List (Nat × Nat) := []) : State :=
  { hw ([(Reg.RV_MODE, 1), (Reg.HP_STATUS, 0x30001)] ++ l) with
    st := { arrays := [(0, arrA)], vols := [(0, volB), (1, volL)] }
    mp := { ports := [(0, okPort), (1, okPort), (2, okPort)], widths := 0xFFFF }
    sv := { streams := [(0, strm)] }
    lg := { replayed := 1 } }
/-- The array in service with one command. -/
def svcCmd (c : Cmd) (l : List (Nat × Nat) := []) : State := { svc l with cmds := [c] }
/-- A frame of stripe 0 of array 0 in FILLING with chunk 0 held. -/
def frm : Frame :=
  { arr := 0, stripe := 0, vol := 0, stream := none, state := Fs.filling, cls := 0, order := 0, cur := [(0, ⟨0x100000, [2]⟩)], succ := []
    par := [], idleAt := 0, ageAt := 0, wt := false, wtNext := false, used := false, faulted := false, img := none, first := false
    gen := 0, resync := false, succAt := 0, lap := false }
def svcFrame (n : Nat) (f : Frame) (l : List (Nat × Nat) := []) : State :=
  { svc l with now := n, ld.frames := [(0, f)] }
/-- A member command on port 0. -/
def mc : MCmd :=
  { port := 0, qp := 1, cid := 5, op := .read, lba := 0, n := 1, data := [], tags := [], client := .smart, issued := 0, dl := none
    again := false, expired := false, timedOut := false }
def svcMp (n : Nat) (c : MCmd) : State := { svc with now := n, mp.cmds := [c] }
def svcPort (n : Nat) (q : Port) (l : List (Nat × Nat) := []) : State := { svc l with now := n, mp.ports := [(0, q)] }
/-- A job of the Loom in queue q. -/
def job (q : Nat) (c : LClient) : LJob :=
  { id := 1, q := q, op := 0, d := 2, k := 1, erase := 0, zero := 0, len := 1, crcOut := false, tag := 0, src := [], dst := [], result := 0
    crcList := 0, client := c, second := false, bad := false, at_ := 0, parked := false }
def task (k : TKind) (p : TPhase) : Task := { id := 9, kind := k, arr := 0, stripe := 0, off := 0, len := 1, phase := p }
def noteA : Note := { unit := Rank.gauge, value := 1, sev := Sev.fault, arg := 0, detail := 0, amount := 0, time := 0, rep := 0 }
/-- Rings 1 and 1 of PF0 with 16 entries, inline, bus master on for both functions. -/
def ringS : State :=
  hw [(Reg.HP_STATUS, 0x30001), (Reg.RG_SQ_CFG true 1, 0x01010004), (Reg.RG_CQ_CFG true 1, 0x08010004)]
/-- Entry 0 of the window table: PF0, 4 KiB at BAR2 offset 0 on DRAM address 0; CTRL bits as given with bit 0. -/
def winS (mode ctrl : Nat) : State := hw [(Reg.RV_MODE, mode), (Reg.WT_E_CTRL 0, ctrl)]
/-- Ports 0 to 3 READY and in no array, and the command that creates array 0 of 2 + 1 positions with 16 stripes on the first three. -/
def freeMembers : State :=
  { hw [(Reg.RV_MODE, 1), (Reg.HP_STATUS, 0x30001)] with
    mp := { ports := (List.range 4).map fun p => (p, { okPort with lbas := 10000000, meta_ := 2 }), widths := 0xFFFF } }
def createCmd : Cmd := cmdData (ent 0x81 0 16 33040 0 4096) ([0, 1, 2] ++ ones 29) [(0x1000, 32)]
/-- A Ledger request for the OPEN of a stripe. -/
def openReq : LgReq :=
  { unit := 0, kind := Lk.open_, arr := 0, stripe := 3, gen := 1, mask := 0, frame := 0, dump := [], cont := .resync, counted := true }
/-- A Millwheel that may start, one with a hub divider, and a commissioning measurement of a good step. -/
def startable : State := hw [(Reg.MW_CTRL, 1), (Reg.MW_C_STATUS, 1), (Reg.MW_C_PSI, 5000), (Reg.MW_ONOFF, 0)]
def hubS : State := hw [(Reg.MW_VDIV, 0x40000000)]
def noMeas : CommMeas := ⟨true, 0, 0, 0, 0, 0, 0, 0, 0, 0, 0, 0, 0, 0⟩
/-- A Keep with one closed event record (slot 64, SEQ 0) of severity FAULT, signature of noteA; its CRC-32C is at 0x3F8. -/
def recBytes : List Byte :=
  putBytes (putBytes (zeros 0x3F8) 0x18 [3, 2]) 0x28 (alSigBytes Rank.gauge 1 0 0)
def recKeep : List Host.Cell := memWriteN [] (alSlot 64) (recBytes ++ [0x53, 0x72, 0x9F, 0x15] ++ toLe 4 0xA1A1A1A1)
/-- The register map's entry for a key, and one of its fields. -/
def desc (k : Nat) : RegDesc := (regDesc? k).getD ⟨0, 0, 0, 0, 0, .chip, []⟩
def fieldAt (k i : Nat) : RField := (desc k).fields.getD i ⟨0, 0, .ro, 0⟩
/-- The key of R358 set to zeros, a nonce, and a request that carries its MAC. -/
def keyS : State := { State.reset with keep := memWriteN [] 0xDC028 (toLe 8 0x4B455901), kp.nonce := some ⟨[1], 0⟩ }
def authHead : List Byte := toLe 2 64 ++ toLe 2 65 ++ [1] ++ zeros 27
def authCmd : Cmd := cmdData (ent 0x95 0 0 0 0) (authHead ++ hmacSha256 (zeros 32) ([1] ++ authHead)) [(0x1000, 64)]
/-- A fold with its value evaluated at each element, as the kernel needs it. -/
def foldFast (f : Nat → Byte → Nat) : List Byte → Nat → Nat
  | [], c => c
  | b :: bs, c => match f c b with
    | 0 => foldFast f bs 0
    | n + 1 => foldFast f bs (n + 1)
theorem foldFast_eq (f : Nat → Byte → Nat) (bs : List Byte) (c : Nat) : bs.foldl f c = foldFast f bs c := by
  induction bs generalizing c with
  | nil => rfl
  | cons b bs ih =>
    rw [List.foldl_cons, ih, foldFast]
    cases f c b <;> rfl
theorem crc32c_eq (bs : List Byte) : crc32c bs = foldFast (fun c b => crcShift 8 (c ^^^ b.toNat)) bs 0xFFFFFFFF ^^^ 0xFFFFFFFF := by
  rw [crc32c, foldFast_eq]
theorem recKeep_newest : State.alNewest { State.reset with keep := recKeep } = some 64 := by
  simp only [State.alNewest, State.alValid, recOk, crc32c_eq]; decide +kernel
theorem recKeep_valid : State.alValid { State.reset with keep := recKeep } 64 = true := by
  simp only [State.alValid, recOk, crc32c_eq]; decide +kernel

/-! ### Ill-formed commands are refused -/

theorem test_wf_ring : (Instr.sqEnable .pf1 4).wf = false := by decide
theorem test_wf_inline : (Instr.inlineSlotWrite .pf0 0 32 (zeros 33)).wf = false := by decide
theorem test_wf_vector : (Instr.msixUnmask .pf1 32).wf = false := by decide
theorem test_wf_member : (Instr.deadlineExpiry 0 9 0).wf = false := by decide
theorem test_wf_port : (Instr.smartPoll 32).wf = false := by decide
theorem test_wf_bus : (Instr.presencePoll 2 true 0).wf = false := by decide
theorem test_wf_array : (Instr.walkIssue 4).wf = false := by decide
theorem test_wf_page : (Instr.statePageTimer 4 0).wf = false := by decide
theorem test_wf_queue : (Instr.loomJobSubmit 4).wf = false := by decide
theorem test_wf_context : (Instr.loomJobComplete 8 none).wf = false := by decide
theorem test_wf_laps : (Instr.speedWindow [0, 0, 0, 0, 0, 0, 0]).wf = false := by decide
theorem test_wf_monitor : (Instr.lowClr 8).wf = false := by decide
theorem test_wf_config : (Instr.configRequest .pf0 4096 none).wf = false := by decide
theorem test_wf_tag : (Instr.hostReadTimeout 768).wf = false := by decide
theorem test_wf_stream : (Instr.holdingRecheck 1024).wf = false := by decide
theorem test_wf_kw : (Instr.kwFieldWrite 2 ⟨0, []⟩).wf = false := by decide
theorem test_wf_snapshot : (Instr.almanacSnapshot 512).wf = false := by decide
theorem test_wf_pointer : (Instr.mgtTransaction 65536 [] 0).wf = false := by decide
theorem test_wf_slot : (Instr.mgtSlotWrite 65536).wf = false := by decide
theorem test_wf_lo : (Instr.loLatchRead 2).wf = false := by decide
theorem test_wf_length : (Instr.registerWrite .pf0 0 2 0).wf = false := by decide

/-! ### The spec's worked examples -/

/-- Chapter 02's 4 + 2 array with 64 KiB chunks. -/
def arrB : ArrayRec := { arrA with dw := 4, k := 2, chunk := 2, count := 2000, pos := [0, 1, 2, 3, 4, 5] }

/-- Chapter 02: volume block 1,000 is chunk 2, block 8 of stripe 1,215. -/
theorem test_map_block : mapBlock arrB { volB with base := 1200, count := 400 } 1000 = (1215, 2, 8) := by decide
/-- Chapter 02: D2 of stripe 1,215 lies at position 5, P and Q at 1 and 2, and block 8 at member LBA 52,216. -/
theorem test_placement : (arrB.dataPos 1215 2 0, arrB.parPos 1215 0, arrB.parPos 1215 1, arrB.lba 1215 8) = (5, 1, 2, 52216) := by
  decide
/-- Chapter 03: 0x02 times 0x80 is 0x1D, and 0x8E is the inverse of 0x02. -/
theorem test_gf : gfMul 0x02 0x80 = 0x1D ∧ gfMul 0x02 0x8E = 1 := by decide
/-- Chapter 03, worked recovery: D1 is 0x5A from 0x3C, 0xA5, 0x0F and P 0xCC. -/
theorem test_recon : (xorAll [[0xCC], [0x3C], [0xA5], [0x0F]] : List Byte) = [0x5A] := by decide
/-- Chapter 05: the slot of SEQ 90,118 is at Keep offset 0x5_00C0. -/
theorem test_ledger_slot : lgSlot 90118 = 0x500C0 := by decide
/-- Chapter 06: a 200-byte payload makes a 256-byte record; PAD LEN 160 fills 192 bytes. -/
theorem test_record_size : recSize 200 = 256 ∧ recSize 160 = 192 := by decide
/-- Chapter 08: data chunk 40 of 32 members is on index 8 and its XOR chunk on index 30. -/
theorem test_dump_index : (hmIdx 32 40, hmXorIdx 32 1) = (8, 30) := by decide
/-- Chapter 08: 49,152 slots and 2,048 pages need 7 metadata chunks, and the stream 49,200. -/
theorem test_dump_regions : metaChunks 49152 2048 = 7 ∧ streamChunks 49152 2048 3145728 = 49200 := by decide
/-- Chapter 14: the tail doorbell 0x0001_0000 fills ring 5 with 16 entries; two laps on, 0x0001_0008 gives 8, and
0x0000_0001 moves back. -/
theorem test_positions : posDiff 16 0 0x10000 = 16 ∧ posDiff 16 0x10000 0x10008 = 8 ∧ posDiff 16 0x10000 0x00001 = 17 := by decide
/-- Chapter 16: slot 64 lies at Keep offset 0xA_0000. -/
theorem test_almanac_slot : alSlot 64 = 0xA0000 := by decide
/-- Chapter 18: the addresses of MP_P17_TMO, two doorbells' rings and ST_APOS1_5. -/
theorem test_addresses : Reg.MP_P_TMO 17 = 0xB630 := by decide
/-- R39: the check value: CRC-32C of "123456789" is 0xE3069283. -/
theorem test_crc : crc32c [0x31, 0x32, 0x33, 0x34, 0x35, 0x36, 0x37, 0x38, 0x39] = 0xE3069283 := by decide +kernel

/-- Chapter 05, Table 05-5: outcomes of the latest entries of array 1's stripes. -/
theorem test_replay :
    replayOutcome ⟨90101, Lk.open_, 1, 1215, 43, 0x3F, 0⟩ true Sst.consistent = some Sst.resyncDue ∧
    replayOutcome ⟨90108, Lk.close, 1, 1216, 18, 0, 0⟩ true Sst.consistent = some Sst.consistent ∧
    replayOutcome ⟨90115, Lk.close, 1, 1300, 7, 8, 0⟩ true Sst.consistent = some Sst.degraded ∧
    replayOutcome ⟨90099, Lk.close, 1, 1180, 40, 0, 0⟩ false Sst.degraded = none ∧
    replayOutcome ⟨90116, Lk.lost, 1, 2001, 3, 0x31, 0⟩ false Sst.degraded = some Sst.lost := by decide

/-- Chapter 10's pack: 14 LFP cells, code 3, 33,120 C and 60 mΩ learned. -/
def gaS : State :=
  { hw [(Reg.GA_STATUS, 0x30001), (Reg.GA_ID 3, 57), (Reg.GA_CAP, 33120000), (Reg.GA_RINT, 60000)] with
    ga := { v := 469 / 10, q := 25200 } }
/-- Chapter 10: the pack limits are 39.2 V and 49.7 V, and the voltage estimate at 46.9 V is 24,288 C. -/
theorem test_gauge_limits : gaS.vEod = 392 / 10 ∧ gaS.vEoc = 497 / 10 := by decide +kernel
theorem test_gauge_qv : gaS.gaQv = 24288 := by decide +kernel
/-- Chapter 10: EOD at 10 A falls due at 38.6 V, the count goes to 0 and the span gives 30,960 C. -/
theorem test_gauge_eod :
    ({ gaS with ga := { v := 386 / 10, i := -10, q := 2160, anchor := 2, span := true } } : State).gaStep3.1 = some 30960 ∧
    ({ gaS with ga := { v := 386 / 10, i := -10, q := 2160, anchor := 2, span := true } } : State).gaStep3.2.ga.q = 0 := by
  decide +kernel

/-! ### One step of a command -/

theorem test_power_on_reset : (run (.powerOnReset 2) (hw [(Reg.SS_STATUS, 1)])).fld Reg.RV_MODE 3 2 = 2 ∧
    (run (.powerOnReset 2) (hw [(Reg.SS_STATUS, 1)])).pfd = false := by decide +kernel
theorem test_startup_step : (run .startupStep { State.reset with pw.step := 3 }).hp.cfgReady = true := by decide +kernel
/-- Code 0 releases stage 1 above 0.72 V and applies stage 2 below 0.64 V. -/
theorem test_droop_stage : (run (.droopStage 639) State.reset).fld Reg.SS_STATUS 3 2 = 2 ∧
    (run (.droopStage 720) (hw [(Reg.SS_STATUS, 4)])).fld Reg.SS_STATUS 3 2 = 1 := by decide +kernel
theorem test_refclk_loss : (run (.refclkLoss .mref) State.reset).flag Reg.SS_STATUS 6 = true := by decide +kernel
theorem test_low_clr : (run (.lowClr 2) (hw [(Reg.LN_MON 2, 0x00120034)])).reg (Reg.LN_MON 2) = 0x03FF0034 := by decide +kernel
theorem test_wake : (run (.wakeEvent .host) (hw [(Reg.SP_STATUS, 2)])).spState = 0 := by decide +kernel
theorem test_vin_return : (run (.vinReturn 24000) (hw [(Reg.SS_STATUS, 1)])).hm.vinAt = some 0 := by decide +kernel
theorem test_keep_low : (run (.keepLowVoltage 739) State.reset).kp.inhibit = true := by decide +kernel
theorem test_host_link_up : (run (.hostLinkUp 16 5) State.reset).fld Reg.HP_STATUS 10 8 = 5 := by decide +kernel
theorem test_perst : (run .perstAssert (ringS.setSq .pf0 1 { state := 1 })).rg.sq = [] := by decide +kernel
theorem test_config_retry : (run (.configRequest .pf1 0 none) State.reset).out = [.cfgRetry .pf1] := by decide +kernel
theorem test_bar0_invalid : (run (.bar0InvalidAccess .pf0 2 4 false) State.reset).out = [.barReply .pf0 0 [0, 0, 0, 0]] ∧
    (run (.bar0InvalidAccess .pf0 2 4 false) State.reset).reg Reg.HP_BADACC = 1 := by decide +kernel
theorem test_bar2_miss : (run (.bar2Access .pf0 0 4 none false) State.reset).reg Reg.WT_MISS = 1 := by decide +kernel
theorem test_bar2_write : (run (.bar2Access .pf0 8 1 (some [0x5A]) false) (winS 3 9)).mem = [(8, 0x5A)] := by decide +kernel
theorem test_freeze : (run .freezeForce State.reset).fld Reg.HP_FREEZE 3 0 = 5 := by decide +kernel
theorem test_flr : (run (.flr .pf0) (ringS.setSq .pf0 1 { state := 1 })).inFlr .pf0 = true := by decide +kernel
theorem test_bme_clear : (run (.bmeClear .pf0) (ringS.setSq .pf0 1 { state := 1 })).bme .pf0 = false ∧
    ((run (.bmeClear .pf0) (ringS.setSq .pf0 1 { state := 1 })).sq .pf0 1).state = 3 := by decide +kernel
theorem test_tail : ((run (.sqTailDoorbell .pf0 1 0x10000) (ringS.setSq .pf0 1 { state := 1 })).sq .pf0 1).tail = 0x10000 := by
  decide +kernel
theorem test_tail_bad : ((run (.sqTailDoorbell .pf0 1 0x10001) (ringS.setSq .pf0 1 { state := 1 })).sq .pf0 1).err = 1 := by
  decide +kernel
theorem test_cq_enable : ((run (.cqEnable .pf0 1) ringS).cq .pf0 1).state = 1 := by decide +kernel
theorem test_sq_enable : ((run (.sqEnable .pf0 1) ((ringS.setReg (Reg.RG_SQ_HR_LO true 1) 0x1000).setCq .pf0 1
    { state := 1 })).sq .pf0 1).state = 1 := by decide +kernel
theorem test_inline : (run (.inlineSlotWrite .pf0 1 0 (zeros 64)) (ringS.setSq .pf0 1 { state := 1 })).rg.inl.length = 1 := by
  decide +kernel
/-- One entry waits: one 64-byte read inside the ring. -/
theorem test_ring_fetch : (run .ringFetch ((ringS.setSq .pf0 1 { state := 1, tail := 1 }).setCq .pf0 1 { state := 1 })).out =
    [.memRead .pf0 0 0 64] := by decide +kernel
theorem test_head_report : (run (.headReportTimer .pf0 1) { ringS.setSq .pf0 1 { state := 1, head := 8, headAt := some 0 } with
    now := 2 }).out = [.memWrite .pf0 0 [8, 0, 0, 0, 0, 0, 0, 0]] := by decide +kernel
theorem test_deposit : (run .collectorDeposit { State.reset with rg.units := [(Rank.gauge, [.note noteA])] }).rg.col.length = 1 := by
  decide +kernel
theorem test_notice_drain : (run .noticeDrain { State.reset with rg.col := [⟨Rank.gauge, .note noteA, 0, false, false, false⟩] }
    ).rg.notices = 1 := by decide +kernel

/-- Statuses of the completions deposited by a command. -/
def statuses (s : State) : List Nat := s.rg.units.flatMap fun e => e.2.filterMap fun d => match d with
  | .comp c => some c.status
  | .note _ => none
/-- A command of PF0 and of PF1 on the array in service. -/
def d0 (o tgt p0 p1 p2 : Nat) (n : Nat := 0) : State :=
  svcCmd (cmdOf .pf0 (ent o tgt p0 p1 p2 (if n = 0 then 0 else 0x1000)) (if n = 0 then [] else [(0x1000, n)]))
def a1 (o tgt p0 p1 p2 : Nat) : State := svcCmd (cmdOf .pf1 (ent o tgt p0 p1 p2))

theorem test_read_range : statuses (run (.read 1) (d0 1 0 32 1 0 4096)) = [St.lbaRange] := by decide +kernel
theorem test_read_class : statuses (run (.read 1) (d0 1 1 0 1 0 4096)) = [St.classMismatch] := by decide +kernel
theorem test_write_volume : statuses (run (.write 1) (d0 2 9 0 1 0 4096)) = [St.invalidVolume] := by decide +kernel
theorem test_write_field : statuses (run (.write 1) (d0 2 0 0 0 0 4096)) = [St.invalidField] := by decide +kernel
theorem test_flush : statuses (run (.flush 1) (d0 4 0 0 0 0)) = [0] := by decide +kernel
theorem test_stream_status : statuses (run (.streamStatus 1) (d0 0x19 4 0 0 0 64)) = [St.invalidStream] := by decide +kernel
theorem test_holding : ((run (.holdingRecheck 0) { svc with now := 1000000, sv.streams := [(0, { strm with state := 2 })] }).stream?
    0).map (fun x => x.state) = some 1 := by decide +kernel

theorem test_array_in_use : statuses (run (.arrayDelete 1) (a1 0x82 0 0 0 0)) = [St.inUse] := by decide +kernel
theorem test_member_fail : ((svc.memberGone 2 8).port 2).failed = true ∧ (svc.memberGone 2 8).reg Reg.MD_LASTFAIL = 0x802 := by
  decide +kernel
theorem test_set_mode : (run (.setMode 1) (a1 0x8C 0 0 1 0)).mode = 2 ∧
    statuses (run (.setMode 1) (a1 0x8C 0 0 2 0)) = [St.modeRefused] := by decide +kernel
theorem test_notice_route : (run (.noticeRoute 1) (a1 0x97 0 0 0x51 0)).rg.routeSev = 5 ∧
    (run (.noticeRoute 1) (a1 0x97 0 0 0x51 0)).rg.routeRing = 1 := by decide +kernel
theorem test_nonce_expiry : (run .nonceExpiry { State.reset with now := 60000000, kp.nonce := some ⟨[], 0⟩ }).kp.nonce = none := by
  decide +kernel
theorem test_unknown_opcode : statuses (run (.keySet 1) (a1 0x96 1 0 0 0)) = [St.invalidField] := by decide +kernel

theorem test_credit_grant : (run .creditWaitGrant { hw [(Reg.TL_STATUS, 1), (Reg.TL_CEIL_LO, 4096)] with
    tl.waitQ := [⟨1, [0], true, 0⟩] }).reg Reg.TL_WAITED = 1 := by decide +kernel
theorem test_idle_timer : ((run (.idleTimerExpiry 0) (svcFrame 10000000 frm)).frame? 0).map (fun f => (f.state, f.cls)) =
    some (Fs.ready, 2) := by decide +kernel
theorem test_drain : ((run .ldDrain (svcFrame 0 frm)).frame? 0).map (fun f => (f.state, f.cls)) = some (Fs.ready, 0) := by
  decide +kernel
theorem test_wb_clear : (run .ldWbClear (hw [(Reg.LD_CTRL, 1)])).flag Reg.LD_STATUS 0 = true := by decide +kernel
theorem test_loom_submit : ((run (.loomJobSubmit 2) { State.reset with lm.waiting := [job 2 (.task 9)] }).loomQ 2).length = 1 := by
  decide +kernel
theorem test_tjob_refused : (run .lmTjobGo State.reset).flag Reg.LM_TJOB_STAT 1 = true := by decide +kernel
theorem test_sc_drain : (run .scDrainDone (hw [(Reg.SC_STATUS, 3)])).scEnabled = false := by decide +kernel
theorem test_sc_writeback : (run .scBufferWriteback { State.reset with sc.buf := [(1, [(2, 7)])] }).mem = [(66, 7)] := by
  decide +kernel
theorem test_ceiling : (run .ceilingRecompute State.reset).gate = Gate.cold := by decide +kernel

/-- Table 09-4: sector 1, flux and torque up give V2; a torque of 0 gives the zero vector nearer to V1 (100), V0. -/
theorem test_switching : switchVec 1 1 1 1 = 2 ∧ switchVec (-1) 1 6 1 = 2 ∧ switchVec 1 0 1 1 = 0 := by decide
theorem test_peak : (run (.peakTrip ⟨true, 1200000⟩) { State.reset with mw.gates := 0x15 }).mw.gates = 0 := by decide +kernel
/-- Times four: one turn through A, AB, B, none counts 4 up, and the other way 4 down. -/
theorem test_encoder : abCount (some 0) 0 [1, 3, 2, 0] = (4, some 0, false) ∧ abCount (some 0) 0 [2, 3, 1, 0] = (-4, some 0, false) := by
  decide
/-- R175: a comparator's threshold code n stands at n times 1.2 V / 256. -/
theorem test_trip_code : (hw [(Reg.MW_ITRIP, 128)]).trips ⟨false, 599999⟩ = false ∧
    (hw [(Reg.MW_ITRIP, 128)]).trips ⟨false, 600000⟩ = true := by decide +kernel
theorem test_mw_start : (run (.mwStartCommand true) (hw [(Reg.MW_CTRL, 1), (Reg.MW_C_STATUS, 1), (Reg.MW_C_PSI, 5000),
    (Reg.MW_ONOFF, 0)])).mwState = Ms.catch_ := by decide +kernel
theorem test_mw_clear : (run (.mwClear true) (hw [(Reg.MW_STATUS, 0x19)])).mwState = Ms.off := by decide +kernel
theorem test_ramp_timeout : (run .rampTimeout (hwAt 10000000 [(Reg.MW_STATUS, 0x82)])).mwState = Ms.run := by decide +kernel

/-- Code 3 seen steadily for 500 ms (R208). -/
def steadyPack : State := { State.reset with now := 500000, ga.steady := some (3, 0) }
theorem test_insertion : (run (.packInsertion 3) steadyPack).gaId = 3 ∧ (run (.packInsertion 3) steadyPack).gaPresent = true ∧
    (run (.packInsertion 3) State.reset).gaPresent = false := by
  decide +kernel
theorem test_removal : (run .packRemoval (hw [(Reg.GA_STATUS, 3), (Reg.GA_EPACK, 5)])).reg Reg.GA_EPACK = 0 := by decide +kernel
theorem test_id_codes : idCode 384000 = some 2 ∧ idCode 399001 = none := by decide

theorem test_member_retry : (run (.memberCompletion 0 1 5 false false .none) (svcMp 0 mc)).mp.cmds.map (fun c => c.again) =
    [true] := by decide +kernel
theorem test_member_timeout : (run (.memberCmdTimeout 0 1 5) (svcMp 2000000 mc)).reg (Reg.MP_P_TMO 0) = 1 := by decide +kernel
theorem test_member_late : (run (.memberCompletion 0 1 5 true false .none) (svcMp 0 { mc with expired := true })).reg
    (Reg.MP_P_LATE 0) = 1 := by decide +kernel
theorem test_link_down : ((run (.memberLinkDown 0) svc).port 0).state = Ps.retrain := by decide +kernel
theorem test_training_timeout : ((State.portBarred (svcPort 0 { okPort with state := Ps.training }) 0 6).port 0).reason = 6 := by
  decide +kernel
theorem test_power_wait : ((run (.powerWaitExpiry 0) (svcPort 5000000 { okPort with state := Ps.powering })).port 0).state =
    Ps.training := by decide +kernel

theorem test_kw_skipped : (run (.kwFieldWrite Reg.MW_START ⟨0x01F400C8, []⟩) State.reset).reg Reg.KP_SKIPPED = 1 := by decide +kernel
/-- R351: the setting's word cannot be corrected: it reads its reset value, and KW_ECC and the count show it. -/
theorem test_kw_ecc : let t := run (.kwFieldWrite Reg.MW_START ⟨0x01F400C8, [.setting Reg.MW_START]⟩) (hw [(Reg.MW_START, 5)])
    (t.reg Reg.MW_START, t.reg Reg.KP_UNCORR, t.flag Reg.KP_STATUS 4) = (0x01F400C8, 1, true) := by decide +kernel
theorem test_register_write : (run (.registerWrite .pf1 Reg.GA_CTRL 4 0) State.reset).gaOn = false := by decide +kernel
theorem test_lo_latch : mapGet? (run (.loLatchRead Reg.TL_CEIL_LO) (hw [(Reg.TL_CEIL_LO + 4, 9)])).latch (Reg.TL_CEIL_LO + 4) =
    some 9 := by decide +kernel
theorem test_tap : (run (.tapInstruction 0x03) (hw [(Reg.TD_CTRL, 1)])).out = [.tap 1 0] := by decide +kernel
theorem test_console : (run (.consoleInput (.write Reg.GA_CTRL 0 true)) State.reset) = State.reset := by decide +kernel
theorem test_snapshot : (run (.almanacSnapshot 3) State.reset).flag Reg.AL_RSTAT 0 = true := by decide +kernel
theorem test_mgt : (run (.mgtTransaction 0xFFFF [] 2) (hw [(Reg.AL_MGT, 0x80)])).al.mgtPtr = 1 := by decide +kernel

/-! ### States that meet the hypotheses of the statements -/

theorem wit_StepRuns_0 : ∃ (c : Instr) (rest : List Instr) (s : State), s.pending = c :: rest :=
  ⟨.freezeRelease, [], { State.reset with pending := [.freezeRelease] },
    by decide +kernel⟩

theorem wit_StepRuns_1 : ∃ (s : State), s.pending = [] :=
  ⟨State.reset,
    by decide +kernel⟩

theorem wit_StepInvariant_0 : ∃ (s : State) (t : State), memCanonical s = true ∧ regsCanonical s = true ∧ step s = .next t :=
  ⟨State.reset, { State.reset with now := 1 },
    by decide +kernel, by decide +kernel, rfl⟩

theorem wit_CommandFrame_0 : ∃ (c : Instr) (s : State) (t : State), (∀ x, c ≠ .powerOnReset x) ∧ (∀ r, c ≠ .railOutOfWindow r)
    ∧ exec c s = .next t :=
  ⟨.freezeRelease, State.reset, State.reset,
    by refine ⟨nofun, nofun, ?_⟩; exact rfl⟩

theorem wit_InhibitedKeep_0 : ∃ (c : Instr) (s : State) (t : State), (∀ x, c ≠ .powerOnReset x) ∧ (∀ r, c ≠ .railOutOfWindow
    r) ∧ s.kp.inhibit = true ∧ exec c s = .next t :=
  ⟨.freezeRelease, { State.reset with kp.inhibit := true }, { State.reset with kp.inhibit := true },
    by refine ⟨nofun, nofun, ?_⟩; exact ⟨rfl, rfl⟩⟩

theorem wit_PowerOnReset_0 : ∃ (strap : BitVec 2) (s : State), s.pw.rstLow = false :=
  ⟨2, State.reset,
    by decide +kernel⟩

theorem wit_ChipReset_0 : ∃ (s : State), s.pw.held = false ∧ s.hm.rstWait = false ∧ s.rstDeferred = false :=
  ⟨State.reset,
    by decide +kernel⟩

theorem wit_ChipReset_1 : ∃ (strap : BitVec 2) (s : State), s.pw.held = true ∧ s.pw.core = false :=
  ⟨1, { State.reset with pw.held := true, pw.rstLow := true },
    by decide +kernel⟩

theorem wit_ChipReset_2 : ∃ (mv : Nat) (s : State), mv < 520 :=
  ⟨519, State.reset,
    by decide +kernel⟩

theorem wit_ChipReset_3 : ∃ (strap : BitVec 2) (mv : Nat) (s : State), s.pw.held = true ∧ s.pw.core = true ∧ 700 < mv ∧
    s.vinReturned = true ∧ s.pw.rstLow = false :=
  ⟨1, 701, { State.reset with pw.held := true, pw.core := true, pw.vin := 24000 },
    by decide +kernel⟩

theorem wit_StartupSteps_0 : ∃ (s : State), s.mode = 0 ∧ s.pw.held = false ∧ s.pw.step = 1 :=
  ⟨State.reset,
    by decide +kernel⟩

theorem wit_StartupSteps_1 : ∃ (s : State), s.mode = 0 ∧ s.pw.held = false ∧ s.pw.step = 2 :=
  ⟨{ State.reset with pw.step := 2 },
    by decide +kernel⟩

theorem wit_StartupSteps_2 : ∃ (s : State), s.mode = 0 ∧ s.pw.held = false ∧ s.pw.step = 3 :=
  ⟨{ State.reset with pw.step := 3 },
    by decide +kernel⟩

theorem wit_StartupSteps_3 : ∃ (s : State), s.mode = 0 ∧ s.pw.held = false ∧ s.pw.step = 4 ∧ (s.usedPorts.all s.portSettled) =
    true :=
  ⟨{ State.reset with pw.step := 4 },
    by decide +kernel⟩

theorem wit_StartupSteps_4 : ∃ (s : State), s.mode = 0 ∧ s.pw.step = 4 ∧ s.due s.sv.startAt (1000 * clampN 1000 60000 (s.fld
    Reg.RV_STARTUP 15 0)) = true :=
  ⟨{ State.reset with pw.step := 4, now := 60000000 },
    by decide +kernel⟩

theorem wit_PowerFailure_0 : ∃ (mv : Nat) (s : State), mv < s.vinTh ∧ s.pfd = false ∧ s.pw.held = false ∧ 3 ≤ s.pw.step :=
  ⟨9999, { State.reset with pw.step := 3 },
    by decide +kernel⟩

theorem wit_PowerFailure_2 : ∃ (cause : Nat) (s : State), cause < 4 :=
  ⟨3, State.reset,
    by decide +kernel⟩

theorem wit_PowerFailure_3 : ∃ (s : State) (t : Nat), s.hm.supAt = some t ∧ s.pfd = true ∧ s.stepDue t 10 = true ∧ s.hm.vcore
    = false ∧ s.hm.late = 0 :=
  ⟨{ hwAt 10 [(Reg.SS_STATUS, 1)] with hm.supAt := some 0 }, 0,
    by decide +kernel⟩

theorem wit_PowerFailure_4 : ∃ (s : State), s.pfd = true ∧ s.stepDue s.hm.pfdAt 50 = true ∧ s.hm.stopped = false ∧ s.step3Past
    = true ∧ s.md.tasks = [] :=
  ⟨hwAt 50 [(Reg.SS_STATUS, 1)],
    by decide +kernel⟩

theorem wit_PowerFailure_5 : ∃ (s : State) (n : Nat) (x : Task), x.kind = .destage n :=
  ⟨svc, 0, task (.destage 0) .claim,
    by decide +kernel⟩

theorem wit_PowerFailure_7 : ∃ (s : State), s.pfd = true ∧ s.stepDue s.hm.pfdAt 100 = true ∧ s.hm.stopped = true ∧
    s.hm.snapped = false ∧ State.makesImage { s with hm.snapped := true, ld.movesStopped := true } = true :=
  ⟨{ hwAt 100 [(Reg.SS_STATUS, 1), (Reg.RV_MODE, 1)] with hm.stopped := true },
    by decide +kernel⟩

theorem wit_PowerFailure_8 : ∃ (s : State), s.pfd = true ∧ s.stepDue s.hm.pfdAt 100 = true ∧ s.hm.stopped = true ∧
    s.hm.snapped = false ∧ State.makesImage { s with hm.snapped := true, ld.movesStopped := true } = false :=
  ⟨{ hwAt 100 [(Reg.SS_STATUS, 1)] with hm.stopped := true },
    by decide +kernel⟩

theorem wit_SupplyReturns_1 : ∃ (mv : Nat) (s : State), s.vinTh + 1000 ≤ mv ∧ s.pfd = true ∧ s.hm.vinAt = none :=
  ⟨24000, hw [(Reg.SS_STATUS, 1)],
    by decide +kernel⟩

theorem wit_SupplyReturns_2 : ∃ (mv : Nat) (s : State), mv < s.vinTh + 1000 :=
  ⟨9999, State.reset,
    by decide +kernel⟩

theorem wit_SupplyReturns_3 : ∃ (s : State) (t : Nat), s.hm.vinAt = some t ∧ s.pfd = true ∧ s.flag Reg.HM_STATUS 3 = true ∧
    s.due t s.resumeUs = true ∧ s.hm.rstWait = false :=
  ⟨{ hwAt 10000000 [(Reg.SS_STATUS, 1), (Reg.HM_STATUS, 8)] with hm.vinAt := some 0 }, 0,
    by decide +kernel⟩

theorem wit_SupplyReturns_4 : ∃ (mv : Nat) (s : State), s.droopCode = 0 ∧ s.fld Reg.SS_STATUS 3 2 = 0 :=
  ⟨640, hw [(Reg.SS_STATUS, 0)],
    by decide +kernel⟩

theorem wit_SupplyReturns_5 : ∃ (s : State), s.due s.pw.codeAt 50 = true :=
  ⟨{ State.reset with now := 50 },
    by decide +kernel⟩

theorem wit_ClocksAndPower_0 : ∃ (s : State) (clk : RefClk) (b : Nat), ((clk = .mref ∧ b = 6) ∨ (clk = .xtal ∧ b = 5) ∨ (clk =
    .aonclk ∧ b = 7)) ∧ s.flag Reg.SS_STATUS b = false :=
  ⟨State.reset, .xtal, 5,
    by decide +kernel⟩

theorem wit_ClocksAndPower_2 : ∃ (tj : Int) (s : State), -0x8000 ≤ tj ∧ tj < 0x8000 ∧ tj ≥ (10 * clampN 85 150 (s.fld
    Reg.SS_THERM 7 0) : Nat) :=
  ⟨0x7FFF, State.reset,
    by decide +kernel⟩

theorem wit_ClocksAndPower_3 : ∃ (tj : Int) (s : State), -0x8000 ≤ tj ∧ tj < 0x8000 ∧ tj < (10 * clampN 85 150 (s.fld
    Reg.SS_THERM 7 0) : Nat) - (10 * max 1 (s.fld Reg.SS_THERM 11 8) : Nat) :=
  ⟨-0x8000, State.reset,
    by decide +kernel⟩

theorem wit_ClocksAndPower_4 : ∃ (s : State), s.pw.held = false :=
  ⟨State.reset,
    by decide +kernel⟩

theorem wit_Upkeep_0 : ∃ (tj : Int) (s : State), tj > 1250 :=
  ⟨1251, State.reset,
    by decide +kernel⟩

theorem wit_Upkeep_1 : ∃ (tj : Int) (s : State), tj ≤ 820 :=
  ⟨820, State.reset,
    by decide +kernel⟩

theorem wit_Upkeep_2 : ∃ (tj : Int) (s : State), s.flag Reg.DC_STATUS 2 = false ∧ s.flag Reg.DC_STATUS 3 = false ∧ (s.due
    s.pw.trainAt (1000000 * clampN 10 3600 (s.fld Reg.DC_RETRAIN 15 0)) = true ∨ (tj - s.pw.trainTj).natAbs ≥ 200) :=
  ⟨200, hw [(Reg.DC_STATUS, 0)],
    by decide +kernel⟩

theorem wit_Upkeep_3 : ∃ (s : State), s.pw.held = false ∧ s.due s.pw.savedAt 60000000 = true ∧ s.kp.inhibit = false :=
  ⟨{ State.reset with now := 60000000 },
    by decide +kernel⟩

theorem wit_Upkeep_4 : ∃ (laps : List Nat) (s : State) (n : Nat), n < 8 :=
  ⟨[], State.reset, 7,
    by decide +kernel⟩

theorem wit_Upkeep_5 : ∃ (n : Nat) (s : State), n < 8 :=
  ⟨7, State.reset,
    by decide +kernel⟩

theorem wit_HostLink_0 : ∃ (s : State), s.flag Reg.HP_STATUS 0 = true ∧ s.flag Reg.HP_STATUS 1 = false :=
  ⟨hw [(Reg.HP_STATUS, 1)],
    by decide +kernel⟩

theorem wit_HostLink_1 : ∃ (w : Nat) (v : Nat) (s : State), s.flag Reg.HP_STATUS 1 = false :=
  ⟨4, 5, hw [(Reg.HP_STATUS, 0)],
    by decide +kernel⟩

theorem wit_FunctionStates_0 : ∃ (f : Func) (s : State), s.inFlr f = false :=
  ⟨.pf0, State.reset,
    by decide +kernel⟩

theorem wit_FunctionStates_1 : ∃ (f : Func) (s : State) (t : Nat), s.flrAt f = some t ∧ (s.hp.reads.all (fun r => r.req.f !=
    f) = true ∨ s.due t 10000 = true) :=
  ⟨.pf0, { State.reset with hp.flr0 := some 0 }, 0,
    by decide +kernel⟩

theorem wit_FunctionStates_2 : ∃ (f : Func) (s : State), s.bme f = true :=
  ⟨.pf1, hw [(Reg.HP_STATUS, 0x20000)],
    by decide +kernel⟩

theorem wit_FunctionStates_3 : ∃ (f : Func) (s : State), s.bme f = false :=
  ⟨.pf1, State.reset,
    by decide +kernel⟩

theorem wit_FunctionStates_4 : ∃ (f : Func) (s : State), s.dstate f ≠ 3 :=
  ⟨.pf0, State.reset,
    by decide +kernel⟩

theorem wit_ConfigSpace_0 : ∃ (f : Func) (off : Nat) (wr : Option W32) (s : State), (s.hp.cfgReady = false ∨ s.flag
    Reg.HP_STATUS 1 = true ∨ s.inFlr f = true) :=
  ⟨.pf0, 0, none, State.reset,
    by decide +kernel⟩

theorem wit_ConfigSpace_1 : ∃ (f : Func) (off : Nat) (s : State), s.hp.cfgReady = true ∧ s.flag Reg.HP_STATUS 1 = false ∧
    s.inFlr f = false ∧ off % 4 = 0 :=
  ⟨.pf0, 4092, { hw [(Reg.HP_STATUS, 1)] with hp.cfgReady := true },
    by decide +kernel⟩

theorem wit_ConfigSpace_2 : ∃ (f : Func) (off : Nat) (v : W32) (s : State), s.hp.cfgReady = true ∧ s.flag Reg.HP_STATUS 1 =
    false ∧ s.inFlr f = false ∧ off % 4 = 0 ∧ off < 4096 ∧ off ≠ 0x04 ∧ off ≠ 0x44 ∧ off ≠ 0x50 ∧ off ≠ 0x68 :=
  ⟨.pf1, 4092, 1, { hw [(Reg.HP_STATUS, 1)] with hp.cfgReady := true },
    by decide +kernel⟩

theorem wit_BarAccess_0 : ∃ (f : Func) (off : Nat) (len : Nat) (wr : Bool) (s : State), bar0Invalid f off len wr = true ∧
    s.pf0Dropped f = false :=
  ⟨.pf0, 2, 4, true, State.reset,
    by decide +kernel⟩

theorem wit_BarAccess_1 : ∃ (off : Nat) (len : Nat) (s : State), bar0Invalid .pf0 off len true = true ∧ s.frozen = true :=
  ⟨2, 4, hw [(Reg.HP_STATUS, 4)],
    by decide +kernel⟩

theorem wit_BarAccess_2 : ∃ (f : Func) (off : Nat) (len : Nat) (ecc : Bool) (s : State), s.pf0Dropped f = false ∧ 0 < len ∧
    s.winFind f off = none :=
  ⟨.pf0, 0, 4, false, State.reset,
    by decide +kernel⟩

theorem wit_BarAccess_3 : ∃ (f : Func) (off : Nat) (len : Nat) (w : Nat) (s : State), s.pf0Dropped f = false ∧ 0 < len ∧
    s.winFind f off = some w ∧ off + len ≤ Win.base s w + Win.size s w ∧ s.flag (Reg.WT_E_CTRL w) 2 = true ∧ winArea (Win.tgt
    s w + (off - Win.base s w)) len = 1 :=
  ⟨.pf0, 4092, 4, 0, winS 0 5,
    by decide +kernel⟩

theorem wit_BarAccess_4 : ∃ (f : Func) (off : Nat) (w : Nat) (d : List Byte) (s : State), s.pf0Dropped f = false ∧ 0 <
    d.length ∧ s.winFind f off = some w ∧ off + d.length ≤ Win.base s w + Win.size s w ∧ s.flag (Reg.WT_E_CTRL w) 3 = true ∧
    s.mode = 3 ∧ winArea (Win.tgt s w + (off - Win.base s w)) d.length = 1 :=
  ⟨.pf0, 4095, 0, [0x55], winS 3 9,
    by decide +kernel⟩

theorem wit_FreezeAndLtr_0 : ∃ (s : State), s.frozen = false :=
  ⟨State.reset,
    by decide +kernel⟩

theorem wit_FreezeAndLtr_1 : ∃ (s : State), s.frozen = false :=
  ⟨State.reset,
    by decide +kernel⟩

theorem wit_FreezeAndLtr_2 : ∃ (s : State), s.frozen = true ∧ s.flag Reg.HP_FREEZE 4 = true :=
  ⟨hw [(Reg.HP_STATUS, 4), (Reg.HP_FREEZE, 0x10)],
    by decide +kernel⟩

theorem wit_FreezeAndLtr_3 : ∃ (s : State), s.flag Reg.HP_FREEZE 4 = false :=
  ⟨State.reset,
    by decide +kernel⟩

theorem wit_FreezeAndLtr_4 : ∃ (s : State) (t : Nat), s.hp.ltrIdle = some t ∧ s.due t 1000 = true ∧ s.cmds.any (fun c => isPf0
    c.f) = false ∧ bit (s.cfgW .pf0 0x88) 10 = true ∧ s.flag Reg.HP_STATUS 0 = true ∧ s.dstate .pf0 = 0 ∧ s.hp.ltrLast ≠ some
    (s.fld Reg.HP_LTR 25 16) :=
  ⟨{ hwAt 1000 [(Reg.HP_STATUS, 1)] with hp.ltrIdle := some 0, hp.cfg := [(0x88, 0x400)] }, 0,
    by decide +kernel⟩

theorem wit_Doorbells_0 : ∃ (f : Func) (q : Nat) (v : W32) (s : State), s.pf0Dropped f = false ∧ (s.sq f q).state = 1 ∧
    posValid (s.sqN f q) (v.toNat % 2 ^ 17) = true ∧ posDiff (s.sqN f q) (s.sq f q).tail (v.toNat % 2 ^ 17) ≤ s.sqN f q -
    s.sqOcc f q :=
  ⟨.pf0, 1, 0x10000, (ringS).setSq .pf0 1 { state := 1 },
    by decide +kernel⟩

theorem wit_Doorbells_1 : ∃ (f : Func) (q : Nat) (v : W32) (s : State), s.pf0Dropped f = false ∧ (s.sq f q).state = 1 ∧
    (posValid (s.sqN f q) (v.toNat % 2 ^ 17) = false ∨ s.sqN f q - s.sqOcc f q < posDiff (s.sqN f q) (s.sq f q).tail (v.toNat
    % 2 ^ 17)) :=
  ⟨.pf0, 1, 16, (ringS).setSq .pf0 1 { state := 1 },
    by decide +kernel⟩

theorem wit_Doorbells_2 : ∃ (q : Nat) (v : W32) (s : State), s.frozen = true :=
  ⟨0, 0, hw [(Reg.HP_STATUS, 4)],
    by decide +kernel⟩

theorem wit_Doorbells_3 : ∃ (f : Func) (q : Nat) (v : W32) (s : State), s.pf0Dropped f = false ∧ (s.cq f q).state ≠ 0 ∧ (s.cq
    f q).waitAt = none ∧ posValid (s.cqN f q) (v.toNat % 2 ^ 17) = true ∧ posDiff (s.cqN f q) (s.cq f q).head (v.toNat % 2 ^
    17) ≤ posDiff (s.cqN f q) (s.cq f q).head (s.cq f q).tail :=
  ⟨.pf0, 1, 0x10000, ringS.setCq .pf0 1 { state := 1, tail := 0x10000 },
    by decide +kernel⟩

theorem wit_InlinePush_0 : ∃ (f : Func) (q : Nat) (d : List Byte) (s : State), s.pf0Dropped f = false ∧ d.length = 64 ∧ (s.sq
    f q).state = 1 ∧ s.sqInline f q = true ∧ s.sqOcc f q < s.sqN f q ∧ s.rg.inl.length < 128 :=
  ⟨.pf0, 1, zeros 64, (ringS).setSq .pf0 1 { state := 1 },
    by decide +kernel⟩

theorem wit_InlinePush_1 : ∃ (f : Func) (q : Nat) (off : Nat) (d : List Byte) (s : State), s.pf0Dropped f = false ∧ inlineOk
    off d.length = false :=
  ⟨.pf0, 1, 2, zeros 4, State.reset,
    by decide +kernel⟩

theorem wit_InlinePush_2 : ∃ (f : Func) (q : Nat) (s : State), s.pf0Dropped f = false :=
  ⟨.pf0, 1, State.reset,
    by decide +kernel⟩

theorem wit_InlinePush_3 : ∃ (i : InlItem) (s : State), s.rg.inl.find? (fun i => s.due i.at_ s.inlStaleUs) = some i :=
  ⟨⟨.pf0, 1, 0, zeros 64, 0⟩, { hwAt 1000 [] with rg.inl := [⟨.pf0, 1, 0, zeros 64, 0⟩] },
    by decide +kernel⟩

theorem wit_RingStates_0 : ∃ (f : Func) (q : Nat) (s : State), s.pf0Dropped f = false ∧ (s.sq f q).state = 0 ∧ s.hrAddr f q ≠
    0 ∧ (s.cq f (s.sqCq f q)).state = 1 :=
  ⟨.pf0, 1, (ringS.setReg (Reg.RG_SQ_HR_LO true 1) 0x1000).setCq .pf0 1 { state := 1 },
    by decide +kernel⟩

theorem wit_RingStates_1 : ∃ (f : Func) (q : Nat) (s : State), s.pf0Dropped f = false ∧ (s.sq f q).state = 0 ∧ (s.hrAddr f q =
    0 ∨ (s.cq f (s.sqCq f q)).state ≠ 1) :=
  ⟨.pf0, 1, State.reset,
    by decide +kernel⟩

theorem wit_RingStates_2 : ∃ (f : Func) (q : Nat) (s : State), s.pf0Dropped f = false ∧ (s.sq f q).state ≠ 0 :=
  ⟨.pf0, 1, (ringS).setSq .pf0 1 { state := 1 },
    by decide +kernel⟩

theorem wit_RingStates_4 : ∃ (f : Func) (q : Nat) (s : State), (s.sq f q).state = 2 ∧ s.inFlight f q = false ∧ s.canIssue f =
    true :=
  ⟨.pf0, 1, (ringS).setSq .pf0 1 { state := 2 },
    by decide +kernel⟩

theorem wit_RingStates_5 : ∃ (f : Func) (q : Nat) (s : State), s.pf0Dropped f = false ∧ (s.cq f q).state = 0 :=
  ⟨.pf0, 1, ringS,
    by decide +kernel⟩

theorem wit_RingStates_6 : ∃ (f : Func) (q : Nat) (s : State), s.pf0Dropped f = false ∧ (s.cq f q).state ≠ 0 ∧ s.rg.sq.any
    (fun e => keyFunc e.1 == f && e.2.state != 0 && s.sqCq f (e.1 % 256) == q) = true :=
  ⟨.pf0, 1, ((ringS).setSq .pf0 1 { state := 1 }).setCq .pf0 1 { state := 1 },
    by decide +kernel⟩

theorem wit_RingStates_7 : ∃ (f : Func) (q : Nat) (s : State), s.pf0Dropped f = false ∧ (s.cq f q).state ≠ 0 ∧ s.rg.sq.any
    (fun e => keyFunc e.1 == f && e.2.state != 0 && s.sqCq f (e.1 % 256) == q) = false :=
  ⟨.pf0, 1, ringS.setCq .pf0 1 { state := 1 },
    by decide +kernel⟩

theorem wit_RingReports_0 : ∃ (f : Func) (q : Nat) (t : Nat) (s : State), (s.sq f q).headAt = some t ∧ s.due t 2 = true ∧
    s.canIssue f = true :=
  ⟨.pf0, 1, 0, { (ringS).setSq .pf0 1 { state := 1, headAt := some 0 } with now := 2 },
    by decide +kernel⟩

theorem wit_RingReports_1 : ∃ (f : Func) (v : Nat) (s : State), (s.msixEnt f v).pend = true ∧ s.msixEn f = true ∧ s.msixFmask
    f = false ∧ s.canIssue f = true :=
  ⟨.pf0, 0, { ringS with hp.cfg := [(0x50, 0x80000000)], hp.msix := [(fkey .pf0 0, { pend := true })] },
    by decide +kernel⟩

theorem wit_RingReports_2 : ∃ (f : Func) (q : Nat) (s : State), (s.cq f q).state = 1 ∧ 0 < (s.cq f q).unsig ∧ s.cqIen f q =
    true ∧ s.due (s.cq f q).unsigAt (max 1 (s.fld (Reg.RG_CQ_COAL (isPf0 f) q) 23 8)) = true :=
  ⟨.pf0, 1, { ringS.setCq .pf0 1 { state := 1, unsig := 1 } with now := 1000000 },
    by decide +kernel⟩

theorem wit_RingReports_3 : ∃ (r : Nat) (d : Deposit) (s : State), (s.sweepOrder.find? fun r => (s.presented r).isSome) = some
    r ∧ s.presented r = some d :=
  ⟨Rank.gauge, .note noteA, { State.reset with rg.units := [(Rank.gauge, [.note noteA])] },
    by decide +kernel⟩

theorem wit_RingReports_4 : ∃ (f : Func) (c : Nat) (s : State), s.drainChoice = some (f, c) :=
  ⟨.pf0, 1, { ringS.setCq .pf0 1 { state := 1 } with rg.col := [⟨25, .comp (compOf (cmdOf .pf0 [])), 0, false, false, false⟩] },
    by decide +kernel⟩

theorem wit_RingReports_5 : ∃ (s : State), s.rg.col.any (fun i => !i.promoted && s.due i.at_ s.colStaleUs) = true :=
  ⟨{ hwAt 1000 [] with rg.col := [⟨Rank.gauge, .note noteA, 0, false, false, false⟩] },
    by decide +kernel⟩

theorem wit_RingReports_6 : ∃ (e : Nat × Cq) (s : State), s.rg.cq.find? s.stallDue = some e :=
  ⟨(fkey .pf0 1, { waitAt := some 0 }), { ringS.setCq .pf0 1 { waitAt := some 0 } with now := 10000 },
    by decide +kernel⟩

theorem wit_RingReports_7 : ∃ (n : Note) (s : State), s.nextNotice = some n ∧ s.noteRouted n = false :=
  ⟨noteA, { State.reset with rg.col := [⟨Rank.gauge, .note noteA, 0, false, false, false⟩] },
    by decide +kernel⟩

theorem wit_RingReports_8 : ∃ (n : Note) (s : State), s.nextNotice = some n ∧ s.noteRouted n = true ∧ 0 < s.cqRoom .pf1
    s.rg.routeRing ∧ s.canIssue .pf1 = true :=
  ⟨noteA, { ringS.setCq .pf1 0 { state := 1 } with rg.col := [⟨Rank.gauge, .note noteA, 0, false, false, false⟩] },
    by decide +kernel⟩

theorem wit_RingFetching_0 : ∃ (c : Nat) (k : Nat) (s : State) (t : State), s.inlSweep.grantPick = some (c, k, t) :=
  ⟨0, 1, (ringS).setSq .pf0 1 { state := 1, tail := 1 }, ((ringS).setSq .pf0 1 { state := 1, tail := 1 }).inlSweep,
    by decide +kernel⟩

theorem wit_RingFetching_1 : ∃ (f : Func) (q : Nat) (t : Nat) (s : State), s.canIssue f = true ∧ s.readTag f = some t ∧ inlRun
    (s.rg.inl.take 16) f q (s.sqN f q) (min (min 8 (s.creditRoom f q)) (s.sqOcc f q)) (s.sq f q).head = [] :=
  ⟨.pf0, 1, 0, (ringS).setSq .pf0 1 { state := 1, tail := 1 },
    by decide +kernel⟩

theorem wit_RingFetching_2 : ∃ (f : Func) (q : Nat) (t : Nat) (s : State), (s.sq f q).ownAt = some t ∧ (s.sq f q).state = 1 ∧
    s.due t 1 = true ∧ 0 < s.creditRoom f q ∧ s.canIssue f = true ∧ (s.liveReads.any fun x => x.f == f && x.purp.ring == some
    q) = false :=
  ⟨.pf0, 1, 0, { (ringS).setSq .pf0 1 { state := 1, tail := 1, ownAt := some 0 } with now := 1 },
    by decide +kernel⟩

theorem wit_RingFetching_3 : ∃ (f : Func) (q : Nat) (t : Nat) (s : State), ownMode (s.cqN f q) = true ∧ (s.cq f q).state = 1 ∧
    s.cqRoom f q = 0 ∧ s.cqWaiting f q = true ∧ s.canIssue f = true ∧ (s.cq f q).pollAt = none ∧ s.readTag f = some t :=
  ⟨.pf0, 1, 0, { (ringS.setFld (Reg.RG_CQ_CFG true 1) 4 0 13).setCq .pf0 1 { state := 1, tail := 0x10000, hold := [compOf (cmdOf .pf0 [])] } with now := 0 },
    by decide +kernel⟩

theorem wit_ReadEnds_0 : ∃ (tag : Nat) (d : List Byte) (r : HostRead) (s : State), s.hp.reads.find? (fun r => r.tag == tag) =
    some r ∧ r.stopped = false :=
  ⟨3, [], ⟨3, ⟨.pf0, 0, 64, .gone⟩, 0, 10000, false, false⟩,
    { State.reset with hp.reads := [⟨3, ⟨.pf0, 0, 64, .gone⟩, 0, 10000, false, false⟩] },
    by decide +kernel⟩

theorem wit_ReadEnds_1 : ∃ (tag : Nat) (d : List Byte) (r : HostRead) (s : State), s.hp.reads.find? (fun r => r.tag == tag) =
    some r ∧ r.stopped = false :=
  ⟨3, [], ⟨3, ⟨.pf0, 0, 64, .gone⟩, 0, 10000, false, false⟩,
    { State.reset with hp.reads := [⟨3, ⟨.pf0, 0, 64, .gone⟩, 0, 10000, false, false⟩] },
    by decide +kernel⟩

theorem wit_ReadEnds_2 : ∃ (tag : Nat) (st : RdStatus) (d : List Byte) (s : State), s.hp.reads.find? (fun r => r.tag == tag) =
    none ∧ (s.hp.quar.any fun q => q.tag == tag) = true :=
  ⟨3, .ok, [], { State.reset with hp.quar := [⟨3, 0⟩] },
    by decide +kernel⟩

theorem wit_ReadEnds_3 : ∃ (cause : Nat) (r : HostRead) (s : State), s.flag Reg.HP_FRZ_CFG (cause - 1) = true ∧ r.flr = false
    :=
  ⟨5, ⟨3, ⟨.pf0, 0, 64, .gone⟩, 0, 10000, false, false⟩, hw [(Reg.HP_FRZ_CFG, 0x1F)],
    by decide +kernel⟩

theorem wit_ReadEnds_4 : ∃ (tag : Nat) (r : HostRead) (s : State), s.hp.reads.find? (fun r => r.tag == tag) = some r ∧ s.due
    r.issued r.timeout = true :=
  ⟨3, ⟨3, ⟨.pf0, 0, 64, .gone⟩, 0, 10000, false, false⟩,
    { State.reset with now := 10000, hp.reads := [⟨3, ⟨.pf0, 0, 64, .gone⟩, 0, 10000, false, false⟩] },
    by decide +kernel⟩

theorem wit_ReadEnds_5 : ∃ (tag : Nat) (s : State), (s.hp.quar.any fun q => q.tag == tag && decide (s.now ≥ q.freeAt)) = true
    :=
  ⟨3, { State.reset with hp.quar := [⟨3, 0⟩] },
    by decide +kernel⟩

theorem wit_DataCommands_0 : ∃ (i : Instr) (h : Nat) (o : Nat) (c : Cmd) (s : State), (i, o) ∈ [(Instr.read h, 0x01), (.write
    h, 0x02), (.writeZeroes h, 0x03), (.flush h, 0x04), (.deallocate h, 0x05), (.logRead h, 0x11), (.logTrim h, 0x12),
    (.volumeStatus h, 0x18), (.streamStatus h, 0x19)] ∧ dataReady s h o c ∧ s.check c ≠ St.success :=
  ⟨.read 1, 1, 1, cmdOf .pf0 (ent 0x01 0 0 0 0 0) [], svcCmd (cmdOf .pf0 (ent 0x01 0 0 0 0 0) []),
    by unfold dataReady; decide +kernel⟩

theorem wit_DataCommands_2 : ∃ (h : Nat) (o : Nat) (c : Cmd) (s : State), dataReady s h o c ∧ s.check c = St.success ∧ o =
    0x01 :=
  ⟨1, 1, cmdOf .pf0 (ent 0x01 0 0 1 0 4096) [(0x1000, 4096)], svcCmd (cmdOf .pf0 (ent 0x01 0 0 1 0 4096) [(0x1000, 4096)]),
    by unfold dataReady; decide +kernel⟩

theorem wit_DataCommands_3 : ∃ (h : Nat) (o : Nat) (c : Cmd) (s : State) (i : Instr), dataReady s h o c ∧ s.check c =
    St.success ∧ (i, o) ∈ [(Instr.write h, 0x02), (.writeZeroes h, 0x03), (.deallocate h, 0x05)] :=
  ⟨1, 2, cmdOf .pf0 (ent 0x02 0 0 1 0 4096) [(0x1000, 4096)], svcCmd (cmdOf .pf0 (ent 0x02 0 0 1 0 4096) [(0x1000, 4096)]),
    .write 1,
    by unfold dataReady; decide +kernel⟩

theorem wit_DataCommands_4 : ∃ (h : Nat) (o : Nat) (c : Cmd) (s : State), dataReady s h o c ∧ s.check c = St.success ∧ o =
    0x04 :=
  ⟨1, 0x04, cmdOf .pf0 (ent 0x04 0 0 0 0 0) [], svcCmd (cmdOf .pf0 (ent 0x04 0 0 0 0 0) []),
    by unfold dataReady; decide +kernel⟩

theorem wit_DataCommands_5 : ∃ (h : Nat) (o : Nat) (c : Cmd) (s : State), dataReady s h o c ∧ s.check c = St.success ∧ o =
    0x10 ∧ s.appendTurn c = true :=
  ⟨1, 0x10, cmdOf .pf0 (ent 0x10 0 0 64 0 4096) [(0x1000, 64)], svcCmd (cmdOf .pf0 (ent 0x10 0 0 64 0 4096) [(0x1000, 64)]),
    by unfold dataReady; decide +kernel⟩

theorem wit_DataCommands_6 : ∃ (h : Nat) (o : Nat) (c : Cmd) (s : State), dataReady s h o c ∧ s.check c = St.success ∧ o =
    0x11 :=
  ⟨1, 0x11, cmdOf .pf0 (ent 0x11 0 1 1 32 4096) [(0x1000, 32)], svcCmd (cmdOf .pf0 (ent 0x11 0 1 1 32 4096) [(0x1000, 32)]),
    by unfold dataReady; decide +kernel⟩

theorem wit_DataCommands_7 : ∃ (h : Nat) (o : Nat) (c : Cmd) (s : State), dataReady s h o c ∧ s.check c = St.success ∧ o =
    0x12 :=
  ⟨1, 0x12, cmdOf .pf0 (ent 0x12 0 0 0 0 0) [], svcCmd (cmdOf .pf0 (ent 0x12 0 0 0 0 0) []),
    by unfold dataReady; decide +kernel⟩

theorem wit_DataCommands_8 : ∃ (h : Nat) (o : Nat) (c : Cmd) (s : State), dataReady s h o c ∧ s.check c = St.success ∧ o =
    0x18 :=
  ⟨1, 0x18, cmdOf .pf0 (ent 0x18 0 0 0 0 4096) [(0x1000, 64)], svcCmd (cmdOf .pf0 (ent 0x18 0 0 0 0 4096) [(0x1000, 64)]),
    by unfold dataReady; decide +kernel⟩

theorem wit_DataCommands_9 : ∃ (h : Nat) (o : Nat) (c : Cmd) (s : State), dataReady s h o c ∧ s.check c = St.success ∧ o =
    0x19 :=
  ⟨1, 0x19, cmdOf .pf0 (ent 0x19 0 0 0 0 4096) [(0x1000, 64)], svcCmd (cmdOf .pf0 (ent 0x19 0 0 0 0 4096) [(0x1000, 64)]),
    by unfold dataReady; decide +kernel⟩

theorem wit_Completion_0 : ∃ (rank : Nat) (c : Cmd) (s : State), c.quiet = false :=
  ⟨25, cmdOf .pf0 (ent 4 0 0 0 0), State.reset,
    by decide +kernel⟩

theorem wit_Completion_1 : ∃ (rank : Nat) (c : Cmd) (s : State) (r : Nat), c.quiet = false ∧ r ≠ rank :=
  ⟨25, cmdOf .pf0 (ent 4 0 0 0 0), State.reset, 26,
    by decide +kernel⟩

theorem wit_ReadHit_0 : ∃ (h : Nat) (a : Nat) (n : Nat) (c : Cmd) (p : Place) (f : Frame) (z : Slot × Bool) (s : State),
    dataReady s h 0x01 c ∧ c.h = h ∧ s.check c = St.success ∧ Ent.p1 c.ent = 1 ∧ c.rd = none ∧ c.segs = [(a, 4096)] ∧ c.quiet
    = false ∧ s.canIssue c.f = true ∧ s.cmdPlace c 0 = some p ∧ s.frameOf p.a p.stripe = some (n, f) ∧ f.serve p.i p.o = some
    z :=
  ⟨1, 0x1000, 0, cmdOf .pf0 (ent 0x01 0 0 1 0 4096) [(0x1000, 4096)], ⟨0, arrA, 0, 0, 0⟩, frm, (⟨0x100000, [2]⟩, false),
    { svcFrame 0 frm with cmds := [cmdOf .pf0 (ent 0x01 0 0 1 0 4096) [(0x1000, 4096)]] },
    by unfold dataReady; decide +kernel⟩

theorem wit_Streams_0 : ∃ (n : Nat) (seq : Nat) (x : Stream) (s : State), s.stream? n = some x ∧ x.state ≠ 2 ∧ s.kp.inhibit =
    false :=
  ⟨0, 5, strm, svc,
    by decide +kernel⟩

theorem wit_Streams_1 : ∃ (n : Nat) (len : Nat) (user : Nat) (a : Nat) (st : Nat) (r : ArrayRec) (x : Stream) (s : State),
    s.stream? n = some x ∧ s.streamStripe x x.cur = some (a, r, st) ∧ x.state ≠ 2 ∧ recSize len ≤ x.room r :=
  ⟨0, 64, 0, 0, 4, arrA, strm, svc,
    by decide +kernel⟩

theorem wit_Streams_2 : ∃ (n : Nat) (x : Stream) (s : State), s.stream? n = some x ∧ x.state = 2 ∧ s.due x.holdAt 1000000 =
    true :=
  ⟨0, { strm with state := 2 }, { svc with now := 1000000, sv := { streams := [(0, { strm with state := 2 })] } },
    by decide +kernel⟩

theorem wit_AdminCommands_0 : ∃ (h : Nat) (st : Nat) (res0 : Nat) (c : Cmd) (s : State), s.cmd? h = some c ∧ c.h = h ∧ c.quiet
    = false :=
  ⟨1, 0, 0, cmdOf .pf1 (ent 0x81 0 16 33040 0 4096 []) [(0x1000, 32)], svcCmd (cmdOf .pf1 (ent 0x81 0 16 33040 0 4096 [])
    [(0x1000, 32)]),
    by decide +kernel⟩

theorem wit_AdminCommands_2 : ∃ (i : Instr) (h : Nat) (o : Nat) (c : Cmd) (s : State), (i, o) ∈ [(Instr.arrayCreate h, 0x81),
    (.arrayDelete h, 0x82), (.volumeCreate h, 0x83), (.volumeDelete h, 0x84), (.volumeSet h, 0x85), (.spareSet h, 0x86),
    (.streamCreate h, 0x87), (.streamDelete h, 0x88), (.memberFail h, 0x89), (.rebuildInPlace h, 0x8A), (.stripeRelease h,
    0x8B), (.setMode h, 0x8C), (.writeBack h, 0x8D), (.timeSet h, 0x8E), (.commission h, 0x8F), (.arrayImport h, 0x90),
    (.imageImport h, 0x91), (.fwDownload h, 0x92), (.fwActivate h, 0x93), (.getNonce h, 0x94), (.almanacClear h, 0x95),
    (.keySet h, 0x96), (.noticeRoute h, 0x97)] ∧ adminReady s h o c ∧ s.check c ≠ St.success :=
  ⟨.setMode 1, 1, 0x8C, cmdOf .pf1 (ent 0x8C 0 0 3 0 0 []) [], svcCmd (cmdOf .pf1 (ent 0x8C 0 0 3 0 0 []) []),
    by unfold adminReady; decide +kernel⟩

theorem wit_AdminCommands_3 : ∃ (i : Instr) (h : Nat) (o : Nat) (c : Cmd) (s : State), (i, o) ∈ [(Instr.arrayCreate h, 0x81),
    (.arrayDelete h, 0x82), (.volumeCreate h, 0x83), (.volumeDelete h, 0x84), (.volumeSet h, 0x85), (.spareSet h, 0x86),
    (.streamCreate h, 0x87), (.streamDelete h, 0x88), (.memberFail h, 0x89), (.rebuildInPlace h, 0x8A), (.stripeRelease h,
    0x8B), (.setMode h, 0x8C), (.writeBack h, 0x8D), (.timeSet h, 0x8E), (.commission h, 0x8F), (.arrayImport h, 0x90),
    (.imageImport h, 0x91), (.fwDownload h, 0x92), (.fwActivate h, 0x93), (.getNonce h, 0x94), (.almanacClear h, 0x95),
    (.keySet h, 0x96), (.noticeRoute h, 0x97)] ∧ adminReady s h o c ∧ s.check c = St.success ∧ c.dataIn = false :=
  ⟨.arrayCreate 1, 1, 0x81, cmdOf .pf1 (ent 0x81 0 16 33040 0 4096 []) [(0x1000, 32)], svcCmd (cmdOf .pf1 (ent 0x81 0 16 33040
    0 4096 []) [(0x1000, 32)]),
    by unfold adminReady; decide +kernel⟩

theorem wit_ArrayAdmin_0 : ∃ (h o : Nat) (c : Cmd) (s : State) (r : ArrayRec) (ports : List Nat) (n base : Nat), adminReady s
    h o c ∧ s.check c = St.success ∧ c.dataIn = true ∧ o = 0x81 ∧ r = { cfgOf (Ent.p1 c.ent) with h := s.fld Reg.ST_LAYOUT 4 0
    * 262144 } ∧ ports = mapPorts r c.adminData ∧ n = (if Ent.p0 c.ent = 0 then min s.entryRoom (s.stripeRoom r ports) else
    Ent.p0 c.ent) ∧ s.st.arrays.length < 4 ∧ (∀ p ∈ ports, s.portAbsent p = false ∧ s.assigned p = false ∧ s.portUnfit p
    r.meta_ = false) ∧ ports.eraseDups.length = ports.length ∧ metaFits r = true ∧ max 1 (Ent.p0 c.ent) ≤ s.stripeRoom r ports
    ∧ 0 < n ∧ firstFit s.entryRanges n sstEntries = some base ∧ Ent.tgt c.ent ≠ 0xFFFF ∧ s.arr? (Ent.tgt c.ent) = none ∧
    s.kp.inhibit = false :=
  ⟨1, 0x81, createCmd, { freeMembers with cmds := [createCmd] }, { cfgOf 33040 with h := 524288 }, [0, 1, 2], 16, 0,
    by unfold adminReady; decide +kernel⟩

theorem wit_ArrayAdmin_1 : ∃ (h o : Nat) (c : Cmd) (s : State), adminReady s h o c ∧ s.check c = St.success ∧ c.dataIn = true
    ∧ o = 0x81 ∧ 4 ≤ s.st.arrays.length :=
  ⟨1, 0x81, createCmd, { freeMembers with cmds := [createCmd], st.arrays := [(1, arrA), (2, arrA), (3, arrA), (4, arrA)] },
    by unfold adminReady; decide +kernel⟩

theorem wit_ArrayAdmin_2 : ∃ (h o : Nat) (c : Cmd) (s : State), adminReady s h o c ∧ s.check c = St.success ∧ c.dataIn = true
    ∧ o = 0x82 ∧ (s.st.vols.any fun e => e.2.arr == Ent.tgt c.ent) = false ∧ s.arrIn (Ent.tgt c.ent) 3 = false :=
  ⟨1, 0x82, cmdOf .pf1 (ent 0x82 0 0 0 0 0 []) [], { svcCmd (cmdOf .pf1 (ent 0x82 0 0 0 0 0 []) []) with st.vols := [] },
    by unfold adminReady; decide +kernel⟩

theorem wit_ArrayAdmin_3 : ∃ (h o : Nat) (c : Cmd) (s : State), adminReady s h o c ∧ s.check c = St.success ∧ c.dataIn = true
    ∧ o = 0x82 ∧ (s.st.vols.any fun e => e.2.arr == Ent.tgt c.ent) = true :=
  ⟨1, 0x82, cmdOf .pf1 (ent 0x82 0 0 0 0 0 []) [], svcCmd (cmdOf .pf1 (ent 0x82 0 0 0 0 0 []) []),
    by unfold adminReady; decide +kernel⟩

theorem wit_ArrayAdmin_4 : ∃ (h o : Nat) (c : Cmd) (s : State) (v base : Nat) (r : ArrayRec), adminReady s h o c ∧ s.check c =
    St.success ∧ c.dataIn = true ∧ o = 0x83 ∧ (List.range 256).find? (fun v => (s.vol? v).isNone) = some v ∧ s.arr? (Ent.tgt
    c.ent) = some r ∧ firstFit (s.volRuns (Ent.tgt c.ent)) (Ent.p0 c.ent) r.count = some base ∧ s.kp.inhibit = false :=
  ⟨1, 0x83, cmdOf .pf1 (ent 0x83 0 4 0 0 0 []) [], svcCmd (cmdOf .pf1 (ent 0x83 0 4 0 0 0 []) []), 2, 12, arrA,
    by unfold adminReady; decide +kernel⟩

theorem wit_ArrayAdmin_5 : ∃ (h o : Nat) (c : Cmd) (s : State) (v : Vol), adminReady s h o c ∧ s.check c = St.success ∧
    c.dataIn = true ∧ o = 0x84 ∧ s.vol? (Ent.tgt c.ent) = some v ∧ s.kp.inhibit = false :=
  ⟨1, 0x84, cmdOf .pf1 (ent 0x84 0 0 0 0 0 []) [], svcCmd (cmdOf .pf1 (ent 0x84 0 0 0 0 0 []) []), volB,
    by unfold adminReady; decide +kernel⟩

theorem wit_ArrayAdmin_6 : ∃ (h o : Nat) (c : Cmd) (s : State) (v : Vol), adminReady s h o c ∧ s.check c = St.success ∧
    c.dataIn = true ∧ o = 0x85 ∧ s.vol? (Ent.tgt c.ent) = some v ∧ s.kp.inhibit = false :=
  ⟨1, 0x85, cmdOf .pf1 (ent 0x85 0 0 3 20 0 []) [], svcCmd (cmdOf .pf1 (ent 0x85 0 0 3 20 0 []) []), volB,
    by unfold adminReady; decide +kernel⟩

theorem wit_ArrayAdmin_7 : ∃ (h o : Nat) (c : Cmd) (s : State), adminReady s h o c ∧ s.check c = St.success ∧ c.dataIn = true
    ∧ o = 0x86 ∧ bit (Ent.p1 c.ent) 0 = false ∧ s.kp.inhibit = false :=
  ⟨1, 0x86, cmdOf .pf1 (ent 0x86 0 0 4 0 0 []) [], svcCmd (cmdOf .pf1 (ent 0x86 0 0 4 0 0 []) []),
    by unfold adminReady; decide +kernel⟩

theorem wit_ArrayAdmin_8 : ∃ (h o : Nat) (c : Cmd) (s : State) (p : Nat), adminReady s h o c ∧ s.check c = St.success ∧
    c.dataIn = true ∧ o = 0x86 ∧ bit (Ent.p1 c.ent) 0 = true ∧ p = bits (Ent.p1 c.ent) 5 1 ∧ (s.port p).state ≠ Ps.absent ∧
    (s.port p).state ≠ Ps.rejected ∧ s.portPos p = none ∧ (s.st.spares.any fun e => e.1 != Ent.tgt c.ent && e.2.port == p) =
    false ∧ s.spareUnfit p (bits (Ent.p1 c.ent) 11 8) = false ∧ s.kp.inhibit = false :=
  ⟨1, 0x86, cmdOf .pf1 (ent 0x86 0 0 7 0 0 []) [], { svcCmd (cmdOf .pf1 (ent 0x86 0 0 7 0 0 []) []) with mp := freeMembers.mp
    }, 3,
    by unfold adminReady; decide +kernel⟩

theorem wit_ArrayAdmin_9 : ∃ (h o : Nat) (c : Cmd) (s : State), adminReady s h o c ∧ s.check c = St.success ∧ c.dataIn = true
    ∧ o = 0x89 :=
  ⟨1, 0x89, cmdOf .pf1 (ent 0x89 0 0 2 0 0 []) [], svcCmd (cmdOf .pf1 (ent 0x89 0 0 2 0 0 []) []),
    by unfold adminReady; decide +kernel⟩

theorem wit_ArrayAdmin_10 : ∃ (h o : Nat) (c : Cmd) (s : State) (r : ArrayRec), adminReady s h o c ∧ s.check c = St.success ∧
    c.dataIn = true ∧ o = 0x8A ∧ s.arr? (Ent.tgt c.ent) = some r ∧ (s.port (r.port (Ent.p1 c.ent))).state ≠ Ps.absent ∧
    s.inPlaceOk (r.port (Ent.p1 c.ent)) r = true :=
  ⟨1, 0x8A, cmdOf .pf1 (ent 0x8A 0 0 2 0 0 []) [], { svc with
      st := { arrays := [(0, { arrA with failed := 4 })] }, mp := freeMembers.mp, cmds := [cmdOf .pf1 (ent 0x8A 0 0 2 0 0 []) []] }, { arrA with failed := 4 },
    by unfold adminReady; decide +kernel⟩

theorem wit_ArrayAdmin_11 : ∃ (h o : Nat) (c : Cmd) (s : State), adminReady s h o c ∧ s.check c = St.success ∧ c.dataIn = true
    ∧ o = 0x8B :=
  ⟨1, 0x8B, cmdOf .pf1 (ent 0x8B 0 0 0 0 0 []) [], { svc with mem := [⟨sstAddr 0, Sst.lost⟩], cmds := [cmdOf .pf1 (ent 0x8B 0
    0 0 0 0 []) []] },
    by unfold adminReady; decide +kernel⟩

theorem wit_ArrayAdmin_12 : ∃ (h o : Nat) (c : Cmd) (s : State), adminReady s h o c ∧ s.check c = St.success ∧ c.dataIn = true
    ∧ o = 0x90 ∧ s.st.arrays.length < 4 :=
  ⟨1, 0x90, cmdOf .pf1 (ent 0x90 0 0 0 0 0 []) [], svcCmd (cmdOf .pf1 (ent 0x90 0 0 0 0 0 []) []) [(Reg.RV_MODE, 10)],
    by unfold adminReady; decide +kernel⟩

theorem wit_ArrayAdmin_13 : ∃ (h o : Nat) (c : Cmd) (s : State), adminReady s h o c ∧ s.check c = St.success ∧ c.dataIn = true
    ∧ o = 0x91 ∧ s.hm.restore = none :=
  ⟨1, 0x91, cmdOf .pf1 (ent 0x91 0 0 0 0 0 []) [], svcCmd (cmdOf .pf1 (ent 0x91 0 0 0 0 0 []) []) [(Reg.RV_MODE, 10)],
    by unfold adminReady; decide +kernel⟩

theorem wit_Volumes_0 : ∃ (v : Nat) (base : Nat) (c : Cmd) (r : ArrayRec) (s : State), (List.range 256).find? (fun v =>
    (s.vol? v).isNone) = some v ∧ s.arr? (Ent.tgt c.ent) = some r ∧ firstFit (s.volRuns (Ent.tgt c.ent)) (Ent.p0 c.ent)
    r.count = some base ∧ s.kp.inhibit = false :=
  ⟨2, 12, cmdOf .pf1 (ent 0x83 0 4 0 0), arrA, svc,
    by decide +kernel⟩

theorem wit_Volumes_1 : ∃ (v : Nat) (base : Nat) (c : Cmd) (r : ArrayRec) (s : State) (w : Nat), (List.range 256).find? (fun v
    => (s.vol? v).isNone) = some v ∧ s.arr? (Ent.tgt c.ent) = some r ∧ firstFit (s.volRuns (Ent.tgt c.ent)) (Ent.p0 c.ent)
    r.count = some base ∧ s.kp.inhibit = false ∧ w ≠ v :=
  ⟨2, 12, cmdOf .pf1 (ent 0x83 0 4 0 0), arrA, svc, 3,
    by decide +kernel⟩

theorem wit_Volumes_2 : ∃ (c : Cmd) (v : Vol) (s : State), s.vol? (Ent.tgt c.ent) = some v ∧ s.kp.inhibit = false :=
  ⟨cmdOf .pf1 (ent 0x84 0 0 0 0), volB, svc,
    by decide +kernel⟩

theorem wit_Volumes_3 : ∃ (c : Cmd) (v : Vol) (s : State) (w : Nat), s.vol? (Ent.tgt c.ent) = some v ∧ s.kp.inhibit = false ∧
    w ≠ Ent.tgt c.ent :=
  ⟨cmdOf .pf1 (ent 0x84 0 0 0 0), volB, svc, 1,
    by decide +kernel⟩

theorem wit_Volumes_4 : ∃ (n : Nat) (v : Vol) (s : State), s.vol? n = some v ∧ v.deleting = true ∧ s.volBusy n = false ∧
    s.volTasks n = false :=
  ⟨0, { volB with deleting := true }, { svc with st.vols := [(0, { volB with deleting := true })] },
    by decide +kernel⟩

theorem wit_Volumes_5 : ∃ (n : Nonce) (s : State), s.kp.nonce = some n ∧ s.due n.at_ 60000000 = true :=
  ⟨⟨[], 0⟩, { State.reset with now := 60000000, kp.nonce := some ⟨[], 0⟩ },
    by decide +kernel⟩

theorem wit_ServiceAdmin_1 : ∃ (h : Nat) (o : Nat) (c : Cmd) (s : State), adminReady s h o c ∧ s.check c = St.success ∧
    c.dataIn = true ∧ o = 0x87 :=
  ⟨1, 0x87, cmdOf .pf1 (ent 0x87 1 4 4 4096 0 (toLe 2 10)) [], svcCmd (cmdOf .pf1 (ent 0x87 1 4 4 4096 0 (toLe 2 10)) []),
    by unfold adminReady; decide +kernel⟩

theorem wit_ServiceAdmin_2 : ∃ (h : Nat) (o : Nat) (c : Cmd) (s : State), adminReady s h o c ∧ s.check c = St.success ∧
    c.dataIn = true ∧ o = 0x88 :=
  ⟨1, 0x88, cmdOf .pf1 (ent 0x88 0 0 0 0 0 []) [], svcCmd (cmdOf .pf1 (ent 0x88 0 0 0 0 0 []) []),
    by unfold adminReady; decide +kernel⟩

theorem wit_ServiceAdmin_3 : ∃ (h : Nat) (o : Nat) (c : Cmd) (s : State), adminReady s h o c ∧ s.check c = St.success ∧
    c.dataIn = true ∧ o = 0x8C :=
  ⟨1, 0x8C, cmdOf .pf1 (ent 0x8C 0 0 1 0 0 []) [], svcCmd (cmdOf .pf1 (ent 0x8C 0 0 1 0 0 []) []),
    by unfold adminReady; decide +kernel⟩

theorem wit_ServiceAdmin_4 : ∃ (h : Nat) (o : Nat) (c : Cmd) (s : State), adminReady s h o c ∧ s.check c = St.success ∧
    c.dataIn = true ∧ o = 0x8D :=
  ⟨1, 0x8D, cmdOf .pf1 (ent 0x8D 0 0 1 0 0 []) [], svcCmd (cmdOf .pf1 (ent 0x8D 0 0 1 0 0 []) []),
    by unfold adminReady; decide +kernel⟩

theorem wit_ServiceAdmin_5 : ∃ (h : Nat) (o : Nat) (c : Cmd) (s : State), adminReady s h o c ∧ s.check c = St.success ∧
    c.dataIn = true ∧ o = 0x8E :=
  ⟨1, 0x8E, cmdOf .pf1 (ent 0x8E 0 77 0 0 0 []) [], svcCmd (cmdOf .pf1 (ent 0x8E 0 77 0 0 0 []) []),
    by unfold adminReady; decide +kernel⟩

theorem wit_ServiceAdmin_6 : ∃ (h : Nat) (o : Nat) (c : Cmd) (s : State), adminReady s h o c ∧ s.check c = St.success ∧
    c.dataIn = true ∧ o = 0x8F :=
  ⟨1, 0x8F, cmdOf .pf1 (ent 0x8F 0 0 0 0 0 []) [], svcCmd (cmdOf .pf1 (ent 0x8F 0 0 0 0 0 []) []),
    by unfold adminReady; decide +kernel⟩

theorem wit_ServiceAdmin_7 : ∃ (h : Nat) (o : Nat) (c : Cmd) (s : State), adminReady s h o c ∧ s.check c = St.success ∧
    c.dataIn = true ∧ o = 0x92 :=
  ⟨1, 0x92, { cmdOf .pf1 (ent 0x92 0 0 4096 0 0x1000) [(0x1000, 4096)] with recv := List.replicate 64 ⟨0, 0, zeros 64⟩ },
    svcCmd { cmdOf .pf1 (ent 0x92 0 0 4096 0 0x1000) [(0x1000, 4096)] with recv := List.replicate 64 ⟨0, 0, zeros 64⟩ },
    by unfold adminReady; decide +kernel⟩

theorem wit_ServiceAdmin_8 : ∃ (h : Nat) (o : Nat) (c : Cmd) (s : State), adminReady s h o c ∧ s.check c = St.success ∧
    c.dataIn = true ∧ o = 0x93 :=
  ⟨1, 0x93, cmdOf .pf1 (ent 0x93 0 0 4096 0 0 []) [], svcCmd (cmdOf .pf1 (ent 0x93 0 0 4096 0 0 []) []),
    by unfold adminReady; decide +kernel⟩

theorem wit_ServiceAdmin_9 : ∃ (h : Nat) (o : Nat) (c : Cmd) (s : State), adminReady s h o c ∧ s.check c = St.success ∧
    c.dataIn = true ∧ o = 0x94 :=
  ⟨1, 0x94, cmdOf .pf1 (ent 0x94 0 0 0 0 4096 []) [(0x1000, 32)], svcCmd (cmdOf .pf1 (ent 0x94 0 0 0 0 4096 []) [(0x1000,
    32)]),
    by unfold adminReady; decide +kernel⟩

theorem wit_ServiceAdmin_10 : ∃ (h : Nat) (o : Nat) (c : Cmd) (s : State), adminReady s h o c ∧ s.check c = St.success ∧
    c.dataIn = true ∧ o = 0x95 :=
  ⟨1, 0x95, cmdData (ent 0x95 0 0 0 0 4096 []) (toLe 2 64 ++ toLe 2 65 ++ [1] ++ zeros 59) [(0x1000, 64)], svcCmd (cmdData
    (ent 0x95 0 0 0 0 4096 []) (toLe 2 64 ++ toLe 2 65 ++ [1] ++ zeros 59) [(0x1000, 64)]),
    by unfold adminReady; decide +kernel⟩

theorem wit_ServiceAdmin_11 : ∃ (h : Nat) (o : Nat) (c : Cmd) (s : State), adminReady s h o c ∧ s.check c = St.success ∧
    c.dataIn = true ∧ o = 0x96 :=
  ⟨1, 0x96, cmdData (ent 0x96 0 0 0 0 4096 []) (ones 32) [(0x1000, 32)], svcCmd (cmdData (ent 0x96 0 0 0 0 4096 []) (ones
    32) [(0x1000, 32)]),
    by unfold adminReady; decide +kernel⟩

theorem wit_ServiceAdmin_12 : ∃ (h : Nat) (o : Nat) (c : Cmd) (s : State), adminReady s h o c ∧ s.check c = St.success ∧
    c.dataIn = true ∧ o = 0x97 :=
  ⟨1, 0x97, cmdOf .pf1 (ent 0x97 0 0 81 0 0 []) [], svcCmd (cmdOf .pf1 (ent 0x97 0 0 81 0 0 []) []),
    by unfold adminReady; decide +kernel⟩

theorem wit_ServiceAdmin_13 : ∃ (t : Nat) (s : State), t < 2 ^ 64 ∧ s.kp.inhibit = false :=
  ⟨2 ^ 64 - 1, State.reset,
    by decide +kernel⟩

theorem wit_ServiceAdmin_14 : ∃ (m : Nat) (s : State), m < 4 ∧ m ≠ 1 ∧ m ≠ 2 :=
  ⟨3, State.reset,
    by decide +kernel⟩

theorem wit_ServiceAdmin_15 : ∃ (s : State), s.mode ≠ 2 :=
  ⟨State.reset,
    by decide +kernel⟩

theorem wit_ServiceAdmin_16 : ∃ (s : State), s.mode ≠ 1 :=
  ⟨State.reset,
    by decide +kernel⟩

theorem wit_ServiceAdmin_17 : ∃ (s : State), s.mode = 1 :=
  ⟨hw [(Reg.RV_MODE, 1)],
    by decide +kernel⟩

theorem wit_FirmwareAndKeys_2 : ∃ (c : Cmd) (s : State), s.cmds.find? (fun c => !isPf0 c.f && Ent.opc c.ent == 0x93 && c.ph ==
    .waiting) = some c :=
  ⟨{ cmdOf .pf1 (ent 0x93 0 0 4096 0) with ph := .waiting },
    { svc with cmds := [{ cmdOf .pf1 (ent 0x93 0 0 4096 0) with ph := .waiting }] },
    by decide +kernel⟩

theorem wit_FirmwareAndKeys_3 : ∃ (c : Cmd) (s : State), s.authOk c.adminData = false :=
  ⟨cmdData (ent 0x95 0 0 0 0) (toLe 2 64 ++ toLe 2 65 ++ [1] ++ zeros 59) [(0x1000, 64)], svc,
    by decide +kernel⟩

theorem wit_CreditRule_1 : ∃ (h : Nat) (blks : List Nat) (alone : Bool) (s : State) (b : Nat), (s.tlAsk h blks alone).1 =
    .granted ∧ b ∈ blks :=
  ⟨1, [0], true, hw [(Reg.TL_STATUS, 1), (Reg.TL_CEIL_LO, 4096)], 0,
    by decide +kernel⟩

theorem wit_CreditRule_2 : ∃ (h : Nat) (blks : List Nat) (alone : Bool) (s : State), s.gate = Gate.cold :=
  ⟨1, [0], true, State.reset,
    by decide +kernel⟩

theorem wit_CreditRule_3 : ∃ (q : TReq) (t : List TReq) (s : State), s.tl.waitQ = q :: t ∧ s.tlFits q.blks.length = true :=
  ⟨⟨1, [0], true, 0⟩, [], { hw [(Reg.TL_STATUS, 1), (Reg.TL_CEIL_LO, 4096)] with tl.waitQ := [⟨1, [0], true, 0⟩] },
    by decide +kernel⟩

theorem wit_CreditRule_4 : ∃ (q : TReq) (s : State), s.gate ≠ Gate.pfd ∧ (s.tl.waitQ.find? fun q => s.due q.since s.tlWaitUs)
    = some q :=
  ⟨⟨1, [0], true, 0⟩, { hwAt 10000 [(Reg.TL_STATUS, 1)] with tl.waitQ := [⟨1, [0], true, 0⟩] },
    by decide +kernel⟩

theorem wit_CreditRule_5 : ∃ (q : TReq) (c : Cmd) (s : State), s.cmd? q.h = some c ∧ c.log = none ∧ q.alone = false :=
  ⟨⟨1, [0], false, 0⟩, cmdOf .pf0 (ent 2 0 0 1 0), svcCmd (cmdOf .pf0 (ent 2 0 0 1 0)),
    by decide +kernel⟩

theorem wit_CeilingRule_0 : ∃ (s : State), s.mh < 2 :=
  ⟨State.reset,
    by decide +kernel⟩

theorem wit_CeilingRule_1 : ∃ (s : State), s.twoSource = true ∧ s.packOk = false :=
  ⟨hw [(Reg.TL_CTRL, 1)],
    by decide +kernel⟩

theorem wit_CeilingRule_2 : ∃ (s : State), s.gate ≠ Gate.pfd :=
  ⟨State.reset,
    by decide +kernel⟩

theorem wit_CeilingRule_3 : ∃ (m : LearnSample) (s : State), s.learnOk m = true :=
  ⟨⟨0, 0, 0, false, false⟩, hwAt 64000 [(Reg.TL_CTRL, 2), (Reg.MW_STATUS, 5)],
    by decide +kernel⟩

theorem wit_CeilingRule_4 : ∃ (m : LearnSample) (s : State), s.learnOk m = false :=
  ⟨⟨0, 0, 0, true, false⟩, hwAt 64000 [(Reg.TL_CTRL, 2), (Reg.MW_STATUS, 5)],
    by decide +kernel⟩

theorem wit_LarderRows_1 : ∃ (n : Nat) (f : Frame) (s : State), s.frame? n = some f ∧ f.state = Fs.filling ∧ s.due f.idleAt
    (s.idleUs f) = true :=
  ⟨0, frm, svcFrame 10000000 frm,
    by decide +kernel⟩

theorem wit_LarderRows_2 : ∃ (n : Nat) (f : Frame) (s : State), s.frame? n = some f ∧ f.state = Fs.filling ∧ s.due f.ageAt
    (1000 * clampN 100 60000 (s.fld Reg.LD_AGE 15 0)) = true :=
  ⟨0, frm, svcFrame 60000000 frm,
    by decide +kernel⟩

theorem wit_LarderRows_3 : ∃ (n : Nat) (f : Frame) (s : State), s.ld.destageStopped = false ∧ s.destaging < s.destageMax ∧
    s.nextDestage = some (n, f) ∧ s.lg.replayed.testBit f.arr = true :=
  ⟨0, { frm with state := Fs.ready }, svcFrame 0 { frm with state := Fs.ready },
    by decide +kernel⟩

theorem wit_LarderRows_4 : ∃ (n : Nat) (f : Frame) (r : ArrayRec) (s : State), s.frame? n = some f ∧ s.arr? f.arr = some r :=
  ⟨0, frm, arrA, svcFrame 0 frm,
    by decide +kernel⟩

theorem wit_LarderRows_6 : ∃ (s v : State), v = ((s.setFlag Reg.LD_CTRL 0 false).setFlag Reg.LD_STATUS 1 true).wbDrop ∧ s.wbOn
    = true ∧ s.cmds = [] ∧ s.tl.waitQ = [] :=
  ⟨hw [(Reg.LD_CTRL, 1)], (((hw [(Reg.LD_CTRL, 1)]).setFlag Reg.LD_CTRL 0 false).setFlag Reg.LD_STATUS 1 true).wbDrop,
    by decide +kernel⟩

theorem wit_LarderRows_7 : ∃ (s : State), s.flag Reg.LD_STATUS 1 = true ∧ (s.ld.frames.any fun e => e.2.hasDirty && e.2.state
    != Fs.parked) = false :=
  ⟨hw [(Reg.LD_STATUS, 2)],
    by decide +kernel⟩

theorem wit_LarderRows_8 : ∃ (v : Vol) (r : ArrayRec) (x : Slot) (suc : Bool) (n stripe i o : Nat) (f : Frame) (s : State),
    s.vol? (s.fld Reg.LD_PROBE_SEL 7 0) = some v ∧ s.arr? v.arr = some r ∧ mapBlock r v (s.reg Reg.LD_PROBE_BLK_LO + s.reg
    Reg.LD_PROBE_BLK_HI * 2 ^ 32) = (stripe, i, o) ∧ stripe < v.base + v.count ∧ s.frameOf v.arr stripe = some (n, f) ∧
    f.serve i o = some (x, suc) ∧ x.addr + 4096 * o < 2 ^ 64 :=
  ⟨volB, arrA, ⟨0x100000, [2]⟩, false, 0, 0, 0, 0, frm, svcFrame 0 frm,
    by decide +kernel⟩

theorem wit_LarderRows_9 : ∃ (h k : Nat) (t : List (Nat × Nat)) (x : Task) (s : State), s.ld.movesStopped = false ∧ s.ld.slotQ
    = (h, k) :: t ∧ s.task? h = some x ∧ (∀ n, x.kind ≠ .stream n) :=
  ⟨9, 0, [], task .scrub .waitSlot, { svc with ld.slotQ := [(9, 0)], md.tasks := [task .scrub .waitSlot] },
    by decide +kernel, by decide +kernel, by decide +kernel, by simp [task]⟩

theorem wit_LarderRows_10 : ∃ (h k : Nat) (t : List (Nat × Nat)) (c : Cmd) (s : State), s.ld.movesStopped = false ∧ s.ld.slotQ
    = (h, k) :: t ∧ s.task? h = none ∧ s.cmd? h = some c ∧ c.log = none ∧ Ent.opc c.ent ≠ 0x10 :=
  ⟨1, 0, [], cmdOf .pf0 (ent 0x02 0 0 1 0 4096) [(0x1000, 4096)], { svcCmd (cmdOf .pf0 (ent 0x02 0 0 1 0 4096) [(0x1000,
    4096)]) with ld.slotQ := [(1, 0)] },
    by decide +kernel⟩

theorem wit_LarderRows_11 : ∃ (a stripe : Nat) (h : Hold) (s : State), s.holder a stripe = some h.owner :=
  ⟨0, 3, ⟨0, 3, 7⟩, { svc with st.holds := [⟨0, 3, 7⟩] },
    by decide +kernel⟩

theorem wit_LarderRows_12 : ∃ (a stripe : Nat) (h : Hold) (l : List Hold) (x : Task) (s : State), s.holder a stripe = none ∧
    s.st.claimQ = h :: l ∧ h.arr = a ∧ h.stripe = stripe ∧ s.task? h.owner = some x ∧ s.claimShut x = false ∧ x.phase = .claim
    :=
  ⟨0, 0, ⟨0, 0, 9⟩, [], task .scrub .claim, { svc with st.claimQ := [⟨0, 0, 9⟩], md.tasks := [task .scrub .claim] },
    by decide +kernel⟩

theorem wit_LedgerEntry_0 : ∃ (r : LgReq) (s : State), s.lgPick = some r ∧ s.kp.inhibit = false :=
  ⟨openReq, { svc with lg.reqs := [openReq] },
    by decide +kernel⟩

theorem wit_LedgerEntry_1 : ∃ (s : State), s.kp.inhibit = true ∨ s.lgPick = none :=
  ⟨State.reset,
    by decide +kernel⟩

theorem wit_LedgerEntry_2 : ∃ (r : LgReq) (s : State), memWf s.keep = true ∧ s.kp.inhibit = false ∧ s.lgHead + 1 < 2 ^ 64 :=
  ⟨openReq, State.reset,
    by decide +kernel⟩

theorem wit_LedgerEntry_3 : ∃ (a p t : Nat) (r : ArrayRec) (s : State), mapGet? s.st.pages (65536 * a + p) = some t ∧ s.arr? a
    = some r ∧ s.pfd = false ∧ (s.due t 1000000 = true ∨ s.lgForced a p = true) ∧ s.pageWriting a p = false :=
  ⟨0, 1, 0, arrA, { svc with now := 1000000, st.pages := [(1, 0)] },
    by decide +kernel⟩

theorem wit_LedgerEntry_4 : ∃ (a k t : Nat) (s : State), mapGet? s.lg.copies (1024 * a + k) = some t ∧ s.pfd = false ∧ s.due t
    s.copyUs = true :=
  ⟨0, 1, 0, { svc with now := 100000, lg.copies := [(1, 0)] },
    by decide +kernel⟩

theorem wit_LoomJobs_0 : ∃ (q : Nat) (j : LJob) (s : State), (s.lm.waiting.find? fun j => j.q == q) = some j ∧ (s.loomQ
    q).length < 32 :=
  ⟨2, job 2 (.task 9), { State.reset with lm.waiting := [job 2 (.task 9)] },
    by decide +kernel⟩

theorem wit_LoomJobs_1 : ∃ (c : Nat) (j : LJob) (aged : Bool) (s : State), (s.testMode = true → s.flag Reg.LM_CTRL 0 = false)
    ∧ s.loomFree = some c ∧ s.loomPick = some (j, aged) :=
  ⟨0, job 2 (.task 9), false, { hw [(Reg.RV_MODE, 1)] with lm.queues := [(2, [job 2 (.task 9)])] },
    by decide +kernel⟩

theorem wit_LoomJobs_2 : ∃ (ctx : Nat) (err : Option LoomErr) (j : LJob) (s : State), mapGet? s.lm.ctx ctx = some j ∧ j.parked
    = false ∧ (s.dumpOnly = false ∨ j.q = 0) :=
  ⟨7, none, job 2 .test, { State.reset with lm.ctx := [(7, job 2 .test)] },
    by decide +kernel⟩

theorem wit_LoomJobs_3 : ∃ (ctx : Nat) (err : Option LoomErr) (j : LJob) (s : State), s.loomFault = true :=
  ⟨0, none, job 2 .test, { State.reset with regs := (hw [(Reg.LM_STATUS, 4)]).regs },
    by decide +kernel⟩

theorem wit_LoomJobs_4 : ∃ (ctx : Nat) (err : Option LoomErr) (j : LJob) (s : State), s.loomFault = false ∧ j.bad = true :=
  ⟨0, none, { job 2 .test with bad := true }, State.reset,
    by decide +kernel⟩

theorem wit_LoomJobs_5 : ∃ (ctx : Nat) (err : Option LoomErr) (j : LJob) (s : State), s.loomFault = false ∧ j.bad = false ∧
    j.op = Op.locate ∧ j.k < 2 :=
  ⟨0, none, { job 2 .test with op := Op.locate }, State.reset,
    by decide +kernel⟩

theorem wit_LoomJobs_6 : ∃ (ctx : Nat) (err : Option LoomErr) (j : LJob) (s : State), s.loomFault = false ∧ j.bad = false ∧
    j.op = Op.recon ∧ j.k < j.ed.length + j.ep.length :=
  ⟨0, none, { job 2 .test with op := Op.recon, erase := 3 }, State.reset,
    by decide +kernel⟩

theorem wit_LoomJobs_7 : ∃ (ctx : Nat) (err : Option LoomErr) (j : LJob) (s : State) (x b : Nat), s.loomFault = false ∧ j.bad
    = false ∧ (j.op = Op.encode ∨ j.op = Op.check ∨ j.op = Op.xor) ∧ s.lm.inject = 0 ∧ x ∈ j.inputs ∧ b < j.len ∧ err = some
    (.ecc x b) :=
  ⟨0, some (.ecc 2 0), { job 2 .test with op := Op.check }, State.reset, 2, 0,
    by decide +kernel⟩

theorem wit_LoomJobs_8 : ∃ (ctx : Nat) (err : Option LoomErr) (j : LJob) (s : State), s.loomFault = false ∧ j.bad = false ∧
    (j.op = Op.encode ∨ j.op = Op.xor) ∧ s.lm.inject < 2 ∧ err = none :=
  ⟨0, none, { job 2 .test with op := Op.xor }, { State.reset with lm.inject := 1 },
    by decide +kernel⟩

theorem wit_LoomJobs_9 : ∃ (s : State), s.testMode = true ∧ s.flag Reg.LM_TJOB_STAT 0 = false :=
  ⟨hw [(Reg.RV_MODE, 3)],
    by decide +kernel⟩

theorem wit_LoomJobs_10 : ∃ (s : State), s.testMode = false ∨ s.flag Reg.LM_TJOB_STAT 0 = true :=
  ⟨State.reset,
    by decide +kernel⟩

theorem wit_LoomJobs_11 : ∃ (s : State), s.testMode = true :=
  ⟨hw [(Reg.RV_MODE, 3)],
    by decide +kernel⟩

theorem wit_LoomJobs_12 : ∃ (s : State), s.testMode = false :=
  ⟨State.reset,
    by decide +kernel⟩

theorem wit_StateCacheRows_0 : ∃ (line : Nat) (m : ScMiss) (s : State) (x : ScMiss), (s.sc.miss.find? fun m => m.line == line)
    = some m ∧ s.sc.rwait = [] ∧ x ∈ (s.scFill line).sc.miss :=
  ⟨5, ⟨5, 2, none, 0, true⟩, { State.reset with sc.miss := [⟨5, 2, none, 0, true⟩, ⟨6, 3, none, 0, true⟩] }, ⟨6, 3, none, 0,
    true⟩,
    by decide +kernel⟩

theorem wit_StateCacheRows_2 : ∃ (line : Nat) (l : ScLine) (s : State), s.scLine line = some l :=
  ⟨4096, ⟨0, 4096, false, []⟩, { State.reset with sc.sets := [(0, [⟨0, 4096, false, []⟩])] },
    by decide +kernel⟩

theorem wit_StateCacheRows_3 : ∃ (l : Nat) (d : NMap Byte) (t : List (Nat × NMap Byte)) (s : State), s.sc.buf = (l, d) :: t ∧
    (s.sc.wwait = [] ∨ s.scDraining = true) :=
  ⟨5, [(0, 7)], [], { State.reset with sc.buf := [(5, [(0, 7)])] },
    by decide +kernel⟩

theorem wit_StateCacheRows_4 : ∃ (l : Nat) (d : NMap Byte) (t : List (Nat × NMap Byte)) (s : State), s.sc.buf = (l, d) :: t ∧
    s.scDraining = false :=
  ⟨5, [(0, 7)], [], { State.reset with sc.buf := [(5, [(0, 7)])] },
    by decide +kernel⟩

theorem wit_StateCacheRows_5 : ∃ (s : State), s.scDraining = true ∧ s.sc.buf = [] ∧ s.flag Reg.SC_CTRL 0 = false ∧ s.sc.wwait
    = [] :=
  ⟨hw [(Reg.SC_STATUS, 3), (Reg.SC_CTRL, 0)],
    by decide +kernel⟩

theorem wit_StateCacheRows_7 : ∃ (s : State), s.scEnabled = false ∧ s.flag Reg.SC_STATUS 2 = false ∧ s.flag Reg.SC_CTRL 1 =
    true :=
  ⟨hw [(Reg.SC_STATUS, 0), (Reg.SC_CTRL, 2)],
    by decide +kernel⟩

theorem wit_StateCacheRows_8 : ∃ (s : State), s.flag Reg.SC_STATUS 2 = true ∧ s.due s.sc.invAt 64 = true :=
  ⟨hwAt 64 [(Reg.SC_STATUS, 4)],
    by decide +kernel⟩

theorem wit_MillwheelStates_1 : ∃ (st : Nat) (s : State), st < 10 ∧ (st = Ms.off ∨ st = Ms.fault ∨ st = Ms.catch_) :=
  ⟨Ms.fault, State.reset,
    by decide +kernel⟩

theorem wit_MillwheelStates_2 : ∃ (st : Nat) (s : State), st < 10 ∧ st = Ms.short :=
  ⟨Ms.short, State.reset,
    by decide +kernel⟩

theorem wit_MillwheelStates_3 : ∃ (st : Nat) (s : State) (q : Nat), st < 10 ∧ q ≠ Reg.MW_STATUS :=
  ⟨9, State.reset, 0,
    by decide +kernel⟩

theorem wit_MillwheelStates_4 : ∃ (fb : Bool) (s v : State), v = (s.setFlag Reg.MW_STATUS 14 s.noModel).mwAsk ∧ v.mwState =
    Ms.off ∧ v.mwMayStart = true ∧ v.flag Reg.MW_STATUS 12 = false ∧ (v.hubV < 20 ∨ fb = true) :=
  ⟨true, startable, (startable.setFlag Reg.MW_STATUS 14 startable.noModel).mwAsk,
    by decide +kernel⟩

theorem wit_MillwheelStates_6 : ∃ (s v : State), v = s.mwAsk ∧ v.mwStopping = true ∧ v.supplyFail = false ∧ v.mw.comm = none ∧
    (v.mwState = Ms.catch_ ∨ v.mwState = Ms.align ∨ v.mwState = Ms.ramp) :=
  ⟨hw [(Reg.MW_STATUS, 3)], State.mwAsk (hw [(Reg.MW_STATUS, 3)]),
    by decide +kernel⟩

theorem wit_MillwheelStates_7 : ∃ (s v : State), v = s.mwAsk ∧ v.mwStopping = true ∧ v.supplyFail = false ∧ v.mw.comm = none ∧
    (v.mwState = Ms.run ∨ v.mwState = Ms.hold) :=
  ⟨hw [(Reg.MW_STATUS, 4), (Reg.MW_CTRL, 3)], State.mwAsk (hw [(Reg.MW_STATUS, 4), (Reg.MW_CTRL, 3)]),
    by decide +kernel⟩

theorem wit_MillwheelStates_8 : ∃ (fb : Bool) (s : State), s.mwState = Ms.fault ∧ s.hubV < s.hubHi ∧ fb = true :=
  ⟨true, hw [(Reg.MW_STATUS, 9)],
    by decide +kernel⟩

theorem wit_SpinUp_0 : ∃ (s : State), s.mwState = Ms.align ∧ s.due s.mw.at_ (1000 * clampN 20 2000 (s.mwFld Reg.MW_START 15
    0)) = true ∧ (s.mwFb = 0 ∨ s.mw.comm.isSome = true) :=
  ⟨hwAt 2000000 [(Reg.MW_STATUS, 1)],
    by decide +kernel⟩

theorem wit_SpinUp_1 : ∃ (s : State), s.mwState = Ms.align ∧ s.due s.mw.at_ (1000 * clampN 20 2000 (s.mwFld Reg.MW_START 15
    0)) = true ∧ s.mwFb ≠ 0 ∧ s.mw.comm = none :=
  ⟨hwAt 2000000 [(Reg.MW_STATUS, 1), (Reg.MW_CFG, 0x10)],
    by decide +kernel⟩

theorem wit_SpinUp_2 : ∃ (s : State), s.mwFb ≠ 2 ∨ s.mwOffsetOk = true :=
  ⟨State.reset,
    by decide +kernel⟩

theorem wit_SpinUp_3 : ∃ (s : State), s.mwState = Ms.ramp ∧ s.flag Reg.MW_STATUS 7 = true ∧ s.due s.mw.at_ (1000 * clampN 50
    10000 (s.mwFld Reg.MW_START 31 16)) = true :=
  ⟨hwAt 10000000 [(Reg.MW_STATUS, 0x82)],
    by decide +kernel⟩

theorem wit_SpinUp_4 : ∃ (s : State), s.mwState = Ms.ramp ∧ s.flag Reg.MW_STATUS 7 = false ∧ s.due s.mw.at_ (1000 * clampN 50
    10000 (s.mwFld Reg.MW_START 31 16) + 100000) = true :=
  ⟨hwAt 10100000 [(Reg.MW_STATUS, 2)],
    by decide +kernel⟩

theorem wit_SpinUp_5 : ∃ (s : State) (t : Nat), s.mw.lowAt = some t ∧ s.mwState = Ms.catch_ ∧ s.due t (1000 * s.mwFld
    Reg.MW_CATCH 7 0) = true :=
  ⟨{ hwAt 255000 [(Reg.MW_STATUS, 3)] with mw.lowAt := some 0 }, 0,
    by decide +kernel⟩

theorem wit_SpinUp_6 : ∃ (s : State) (t : Nat), s.mw.okAt = some t ∧ s.due t (1000 * max 1 (s.mwFld Reg.MW_CATCH 15 8)) = true
    :=
  ⟨{ hwAt 255000 [] with mw.okAt := some 0 }, 0,
    by decide +kernel⟩

theorem wit_SpinUp_7 : ∃ (s : State) (t : Nat), s.mw.waitAt = some t ∧ s.mwState = Ms.catch_ ∧ s.mwFld Reg.MW_CATCH 23 16 ≠ 0
    ∧ s.due t (1000000 * s.mwFld Reg.MW_CATCH 23 16) = true :=
  ⟨{ hwAt 255000000 [(Reg.MW_STATUS, 3), (Reg.MW_CATCH, 0x10000)] with mw.waitAt := some 0 }, 0,
    by decide +kernel⟩

theorem wit_SpinUp_8 : ∃ (s : State) (t : Nat), s.mw.nearAt = some t ∧ s.mwState = Ms.run ∧ s.due t 100000 = true :=
  ⟨{ hwAt 100000 [(Reg.MW_STATUS, 4)] with mw.nearAt := some 0 }, 0,
    by decide +kernel⟩

theorem wit_RotorGuard_0 : ∃ (s : State), (s.mwState = Ms.ramp ∨ s.mwState = Ms.run ∨ s.mwState = Ms.hold ∨ s.mwState =
    Ms.brake) ∧ absQ s.mw.tref > s.tlimMot / 10 ∧ s.due s.mw.secAt (1000 * clampN 20 5000 (s.mwFld Reg.MW_LOCK 15 0)) = true
    :=
  ⟨{ hwAt 5000000 [(Reg.MW_STATUS, 4)] with mw.tref := 100 },
    by decide +kernel⟩

theorem wit_RotorGuard_1 : ∃ (s : State), s.mw.comm = none ∧ s.fld Reg.MW_STATUS 22 20 < s.fld Reg.MW_LOCK 26 24 :=
  ⟨hw [(Reg.MW_LOCK, 0x1000000)],
    by decide +kernel⟩

theorem wit_RotorGuard_2 : ∃ (s : State), s.mw.comm = none ∧ s.fld Reg.MW_LOCK 26 24 ≤ s.fld Reg.MW_STATUS 22 20 :=
  ⟨hw [(Reg.MW_LOCK, 0)],
    by decide +kernel⟩

theorem wit_RotorGuard_3 : ∃ (s : State), s.flag Reg.MW_STATUS 13 = true ∧ s.due s.mw.retryAt (1000000 * max 1 (s.mwFld
    Reg.MW_LOCK 23 16)) = true :=
  ⟨hwAt 255000000 [(Reg.MW_STATUS, 0x2001)],
    by decide +kernel⟩

theorem wit_RotorGuard_4 : ∃ (s : State), s.mwState = Ms.hold ∧ s.due s.mw.at_ 60000000 = true :=
  ⟨hwAt 60000000 [(Reg.MW_STATUS, 5)],
    by decide +kernel⟩

theorem wit_RotorGuard_5 : ∃ (ab : List Nat) (s : State), s.mwFb = 1 ∧ s.mwEncZ = true ∧ s.mw.aligned = false ∧ s.mwState ≠
    Ms.catch_ ∧ (abCount s.mw.ab s.mw.cnt ab).2.2 = false :=
  ⟨[0, 1], hw [(Reg.MW_CFG, 0x50)],
    by decide +kernel⟩

theorem wit_RotorGuard_6 : ∃ (s : State), s.mwFb ≠ 0 ∧ s.mwState ≠ Ms.fault ∧ s.flag Reg.MW_STATUS 7 = true :=
  ⟨hw [(Reg.MW_CFG, 0x10), (Reg.MW_STATUS, 0x84)],
    by decide +kernel⟩

theorem wit_RotorGuard_7 : ∃ (s : State), s.mwFb ≠ 0 ∧ s.mwState ≠ Ms.fault ∧ s.flag Reg.MW_STATUS 7 = false :=
  ⟨hw [(Reg.MW_CFG, 0x10), (Reg.MW_STATUS, 4)],
    by decide +kernel⟩

theorem wit_RotorGuard_8 : ∃ (s : State), s.mwFb = 0 ∨ s.mwState = Ms.fault :=
  ⟨State.reset,
    by decide +kernel⟩

theorem wit_RotorGuard_9 : ∃ (s : State), s.mwSrc = 1 ∧ (s.mwFld Reg.MW_SPDIN 1 0 = 1 ∨ s.mwFld Reg.MW_SPDIN 1 0 = 2) ∧ s.due
    s.mw.spdAt 100000 = true :=
  ⟨hwAt 100000 [(Reg.MW_CFG, 0x400), (Reg.MW_SPDIN, 2)],
    by decide +kernel⟩

theorem wit_HubGuard_1 : ∃ (pin : Nat) (fb : Bool) (s v : State), v = s.setReg Reg.MW_HUB (s.hubRead pin) ∧ v.hubV ≥ v.hubAbs
    ∧ (v.mwState ≠ Ms.fault ∨ v.fld Reg.MW_STATUS 19 16 ≠ 1) :=
  ⟨1200000, true, hubS, hubS.setReg Reg.MW_HUB (hubS.hubRead 1200000),
    by decide +kernel⟩

theorem wit_HubGuard_3 : ∃ (pin : Nat) (fb : Bool) (s v : State), v = s.setReg Reg.MW_HUB (s.hubRead pin) ∧ v.hubV < v.hubAbs
    ∧ v.shortDue = false :=
  ⟨0, true, hubS, hubS.setReg Reg.MW_HUB (hubS.hubRead 0),
    by decide +kernel⟩

theorem wit_HubGuard_4 : ∃ (s : State), s.hubReg ≤ s.hubV ∧ s.shortDue = true :=
  ⟨hw [(Reg.MW_HUB, 0xFFFF), (Reg.MW_STATUS, 0x44)],
    by decide +kernel⟩

theorem wit_HubGuard_5 : ∃ (s : State) (t : Nat), s.mw.emfAt = some t ∧ s.mwState = Ms.short ∧ s.hubV < s.hubReg ∧ s.due t
    1000 = true :=
  ⟨{ hwAt 1000 [(Reg.MW_STATUS, 8)] with mw.emfAt := some 0 }, 0,
    by decide +kernel⟩

theorem wit_HubGuard_6 : ∃ (s : State) (t : Nat), s.mw.ovAt = some t ∧ s.due t s.ovUs = true ∧ s.mw.brk = true :=
  ⟨{ hwAt 100 [] with mw.ovAt := some 0, mw.brk := true }, 0,
    by decide +kernel⟩

theorem wit_HubGuard_7 : ∃ (p : PeakPin) (s : State), s.trips p = true ∧ p.dc = true ∧ s.mw.tripDc = false :=
  ⟨⟨true, 1200000⟩, State.reset,
    by decide +kernel⟩

theorem wit_HubGuard_8 : ∃ (p : PeakPin) (s : State), s.trips p = true ∧ p.dc = false ∧ s.mw.tripPh = false ∧ s.mw.tripDc =
    false :=
  ⟨⟨false, 1200000⟩, hw [(Reg.MW_STATUS, 8)],
    by decide +kernel⟩

theorem wit_HubGuard_9 : ∃ (p : PeakPin) (s : State), 256 * p.uv < 1200000 * s.tripCode p.dc :=
  ⟨⟨true, 4687⟩, hw [(Reg.MW_ITRIP, 0)],
    by decide +kernel⟩

theorem wit_ControlPeriod_0 : ∃ (m : MwSample) (s : State), s.mw.tripDc = true ∧ 7 ≤ s.mw.dcRun ∧ s.mwState ≠ Ms.fault ∧
    s.mwFb ≠ 1 :=
  ⟨⟨none, [], 0, none⟩, { State.reset with mw.tripDc := true, mw.dcRun := 7 },
    by decide +kernel⟩

theorem wit_ControlPeriod_1 : ∃ (m : MwSample) (s v : State), v = (((s.mwTurn.mwSense m).mwAsk.setFlag Reg.MW_STATUS 14
    s.noModel).mwEstimate m.phase) ∧ v.overspeed = false ∧ s.mw.tripDc = false ∧ s.mwState = Ms.off ∧ s.mwFb ≠ 1 :=
  ⟨⟨none, [], 0, none⟩, State.reset, (((State.reset.mwTurn.mwSense ⟨none, [], 0, none⟩).mwAsk.setFlag Reg.MW_STATUS 14
    State.reset.noModel).mwEstimate none),
    rfl, by decide +kernel⟩

theorem wit_ControlPeriod_3 : ∃ (p : Nat) (c : Int) (q : Nat), p < 4 ∧ q < 4 ∧ abPos q = (abPos p + 1) % 4 :=
  ⟨2, -1, 0,
    by decide +kernel⟩

theorem wit_ControlPeriod_4 : ∃ (p : Nat) (c : Int) (q : Nat), p < 4 ∧ q < 4 ∧ abPos q = (abPos p + 2) % 4 :=
  ⟨3, 0, 0,
    by decide +kernel⟩

theorem wit_ControlPeriod_5 : ∃ (flux torq : Int) (sector prev : Nat), 1 ≤ sector ∧ sector ≤ 6 ∧ prev < 8 ∧ torq = 0 :=
  ⟨1, 0, 6, 7,
    by decide +kernel⟩

theorem wit_ControlPeriod_6 : ∃ (flux torq : Int) (sector prev : Nat), 1 ≤ sector ∧ sector ≤ 6 ∧ prev < 8 ∧ torq ≠ 0 :=
  ⟨-1, 1, 1, 0,
    by decide +kernel⟩

theorem wit_Commissioning_0 : ∃ (s : State), s.commOk = true :=
  ⟨svc,
    by decide +kernel⟩

theorem wit_Commissioning_1 : ∃ (s : State), s.commOk = false :=
  ⟨State.reset,
    by decide +kernel⟩

theorem wit_Commissioning_3 : ∃ (c : MwComm) (s : State), s.mw.comm = some c ∧ s.cmd? c.cmd = none :=
  ⟨{}, { State.reset with mw.comm := some {} },
    by decide +kernel⟩

theorem wit_Commissioning_4 : ∃ (m : CommMeas) (c : MwComm) (s : State), s.mw.comm = some c ∧ commGood m c.step = false :=
  ⟨{ noMeas with powerLo := 96, power := 100, powerHi := 100 }, { step := 2 }, { State.reset with mw.comm := some { step := 2
    } },
    by decide +kernel⟩

theorem wit_Commissioning_5 : ∃ (m : CommMeas) (c : MwComm) (s : State), s.mw.comm = some c ∧ commGood m c.step = true ∧
    c.step < 6 :=
  ⟨noMeas, { step := 5 }, { State.reset with mw.comm := some { step := 5 } },
    by decide +kernel⟩

theorem wit_Commissioning_6 : ∃ (m : CommMeas) (c : MwComm) (s : State), s.mw.comm = some c ∧ commGood m c.step = true ∧ 6 ≤
    c.step :=
  ⟨noMeas, { step := 6 }, { State.reset with mw.comm := some { step := 6 } },
    by decide +kernel⟩

theorem wit_PackPresence_0 : ∃ (code t : Nat) (s : State), s.gaPresent = false ∧ s.gaOn = true ∧ code < 8 ∧ s.ga.steady = some
    (code, t) ∧ s.due t 500000 = true :=
  ⟨7, 0, { hwAt 500000 [(Reg.GA_CTRL, 1)] with ga.steady := some (7, 0) },
    by decide +kernel⟩

theorem wit_PackPresence_1 : ∃ (code : Nat) (s : State), s.gaReady code = false :=
  ⟨3, { hwAt 499999 [(Reg.GA_CTRL, 1)] with ga.steady := some (3, 0) },
    by decide +kernel⟩

theorem wit_PackPresence_2 : ∃ (s : State), s.gaPresent = true :=
  ⟨hw [(Reg.GA_STATUS, 1)],
    by decide +kernel⟩

theorem wit_PackPresence_3 : ∃ (idUv ntcUv : Nat) (s : State), s.gaOn = true ∧ s.gaPresent = true ∧ idCode idUv = some s.gaId
    :=
  ⟨384000, 0, hw [(Reg.GA_CTRL, 1), (Reg.GA_STATUS, 0x20001)],
    by decide +kernel⟩

theorem wit_PackPresence_4 : ∃ (idUv ntcUv : Nat) (s : State), s.gaOn = true ∧ s.gaPresent = true ∧ idCode idUv ≠ some s.gaId
    :=
  ⟨399001, 0, hw [(Reg.GA_CTRL, 1), (Reg.GA_STATUS, 0x20001)],
    by decide +kernel⟩

theorem wit_PackPresence_5 : ∃ (t : Nat) (s : State), s.ga.seenAt = some t ∧ s.gaPresent = true ∧ s.due t 1000000 = true :=
  ⟨0, { hwAt 1000000 [(Reg.GA_STATUS, 1)] with ga.seenAt := some 0 },
    by decide +kernel⟩

theorem wit_GaugeSample_0 : ∃ (m : GaSample) (s : State), s.gaOn = true :=
  ⟨⟨0, 0⟩, hw [(Reg.GA_CTRL, 1)],
    by decide +kernel⟩

theorem wit_GaugeSample_1 : ∃ (m : GaSample) (s : State), s.ga.zero = false :=
  ⟨⟨0, 0⟩, State.reset,
    by decide +kernel⟩

theorem wit_GaugeSample_2 : ∃ (m : GaSample) (s : State), s.ga.zero = true :=
  ⟨⟨0, 0⟩, { State.reset with ga.zero := true },
    by decide +kernel⟩

theorem wit_GaugeSample_3 : ∃ (s : State), 10 ≤ s.ga.overN :=
  ⟨{ State.reset with ga.overN := 10 },
    by decide +kernel⟩

theorem wit_GaugeSample_4 : ∃ (s : State), s.gaPresent = true ∧ s.hasEod = true ∧ s.ga.i ≤ 0 ∧ s.ga.v ≤ s.vEod + s.ga.i *
    s.gaR :=
  ⟨hw [(Reg.GA_STATUS, 1), (Reg.GA_ID 0, 0x15)],
    by decide +kernel⟩

theorem wit_GaugeSample_5 : ∃ (s : State), s.gaPresent = true ∧ s.hasEoc = true ∧ 0 ≤ s.ga.i ∧ s.vEoc + s.ga.i * s.gaR ≤
    s.ga.v ∧ s.vEod + s.ga.i * s.gaR < s.ga.v :=
  ⟨{ hw [(Reg.GA_STATUS, 1), (Reg.GA_ID 0, 0x15)] with ga.v := 100000 },
    by decide +kernel⟩

theorem wit_GaugeSample_6 : ∃ (s : State), s.gaValid = false :=
  ⟨State.reset,
    by decide +kernel⟩

theorem wit_Members_0 : ∃ (port : Nat) (qp : Nat) (cid : Nat) (pay : MPayload) (c : MCmd) (s : State), s.mpFind port qp cid =
    some c ∧ c.expired = false ∧ c.timedOut = false ∧ c.again = false :=
  ⟨0, 1, 5, .none, mc, svcMp 0 mc,
    by decide +kernel⟩

theorem wit_Members_1 : ∃ (port : Nat) (qp : Nat) (cid : Nat) (ok : Bool) (dnr : Bool) (pay : MPayload) (c : MCmd) (s :
    State), s.mpFind port qp cid = some c ∧ c.expired = false ∧ c.timedOut = false ∧ (ok = true ∨ dnr = true ∨ c.again = true)
    :=
  ⟨0, 1, 5, true, false, .none, mc, svcMp 0 mc,
    by decide +kernel⟩

theorem wit_Members_2 : ∃ (port : Nat) (qp : Nat) (cid : Nat) (ok : Bool) (dnr : Bool) (pay : MPayload) (s : State), s.mpFind
    port qp cid = none :=
  ⟨0, 1, 5, true, false, .none, svc,
    by decide +kernel⟩

theorem wit_Members_3 : ∃ (port : Nat) (qp : Nat) (cid : Nat) (c : MCmd) (s : State), s.mpFind port qp cid = some c ∧
    c.timedOut = false ∧ s.due c.issued (1000 * clampN 100 2000 (s.fld Reg.MP_TIMING 11 0)) = true :=
  ⟨0, 1, 5, mc, svcMp 2000000 mc,
    by decide +kernel⟩

theorem wit_Members_4 : ∃ (port : Nat) (qp : Nat) (cid : Nat) (c : MCmd) (s : State), s.mpFind port qp cid = some c ∧ s.due
    c.issued (1000 * clampN 100 2000 (s.fld Reg.MP_TIMING 11 0)) = false :=
  ⟨0, 1, 5, mc, svcMp 0 mc,
    by decide +kernel⟩

theorem wit_Members_5 : ∃ (c : MCmd) (s : State), c ∈ s.mp.cmds :=
  ⟨mc, svcMp 0 mc,
    by decide +kernel⟩

theorem wit_Members_6 : ∃ (port : Nat) (qp : Nat) (cid : Nat) (c : MCmd) (s : State), s.mpFind port qp cid = some c ∧ s.due
    c.issued 2000000 = true :=
  ⟨0, 1, 5, mc, svcMp 2000000 mc,
    by decide +kernel⟩

theorem wit_Members_7 : ∃ (port : Nat) (cause : Nat) (s : State), (s.port port).failed = false ∧ s.assigned port = true :=
  ⟨0, 1, svc,
    by decide +kernel⟩

theorem wit_Members_8 : ∃ (port : Nat) (cause : Nat) (s : State), ((s.port port).failed = true ∨ s.assigned port = false) :=
  ⟨5, 1, svc,
    by decide +kernel⟩

theorem wit_Members_9 : ∃ (port : Nat) (qp : Nat) (cid : Nat) (d : Nat) (h : Nat) (k : Nat) (m : MCmd) (c : Cmd) (p : Place)
    (s : State), s.mpFind port qp cid = some m ∧ m.dl = some d ∧ m.client = .host h k ∧ d ≤ s.now ∧ m.expired = false ∧
    m.timedOut = false ∧ s.cmd? h = some c ∧ s.blkPlace c k = some p :=
  ⟨0, 1, 5, 0, 1, 0, { mc with client := .host 1 0, dl := some 0 }, cmdOf .pf0 (ent 0x01 0 0 1 0 4096) [(0x1000, 4096)], ⟨0,
    arrA, 0, 0, 0⟩, { svcMp 0 { mc with client := .host 1 0, dl := some 0 } with cmds := [cmdOf .pf0 (ent 0x01 0 0 1 0 4096) [(0x1000, 4096)]] },
    by decide +kernel⟩

theorem wit_LateCompletion_0 : ∃ (port : Nat) (qp : Nat) (cid : Nat) (ok : Bool) (dnr : Bool) (pay : MPayload) (c : MCmd) (s :
    State), s.mpFind port qp cid = some c ∧ (c.expired = true ∨ c.timedOut = true) :=
  ⟨0, 1, 5, true, false, .none, { mc with expired := true }, svcMp 0 { mc with expired := true },
    by decide +kernel⟩

theorem wit_Ports_11 : ∃ (p r : Nat) (s : State) (c : MCmd), c ∈ (s.portBarred p r).mp.cmds :=
  ⟨0, 6, svcMp 0 { mc with port := 1 }, { mc with port := 1 }, by decide +kernel⟩

theorem wit_Ports_12 : ∃ (p : Nat) (q : Port) (s : State) (c : MCmd), c ∈ (s.portGone p q).mp.cmds :=
  ⟨0, okPort, svcMp 0 { mc with port := 1 }, { mc with port := 1 }, by decide +kernel⟩

theorem wit_Ports_0 : ∃ (p : Nat) (s : State), (s.port p).state = Ps.ready ∧ s.pfd = false :=
  ⟨0, svc,
    by decide +kernel⟩

theorem wit_Ports_1 : ∃ (p : Nat) (lanes : Nat) (speed : Nat) (s : State), ((s.port p).state = Ps.training ∨ (s.port p).state
    = Ps.retrain) :=
  ⟨0, 4, 4, svcPort 0 { okPort with state := Ps.retrain },
    by decide +kernel⟩

theorem wit_Ports_2 : ∃ (p : Nat) (s : State), (s.port p).state = Ps.retrain ∧ s.due (s.port p).boundAt (1000 * clampN 10 2000
    (s.fld Reg.MP_TIMING 27 16)) = true :=
  ⟨0, svcPort 2000000 { okPort with state := Ps.retrain },
    by decide +kernel⟩

theorem wit_Ports_3 : ∃ (p : Nat) (s : State), (s.port p).state = Ps.training ∧ s.due (s.port p).boundAt 1000000 = true :=
  ⟨0, svcPort 1000000 { okPort with state := Ps.training },
    by decide +kernel⟩

theorem wit_Ports_4 : ∃ (p : Nat) (s : State), (s.port p).state = Ps.init ∧ (s.port p).rdy = false :=
  ⟨0, svcPort 0 { okPort with state := Ps.init, rdy := false },
    by decide +kernel⟩

theorem wit_Ports_5 : ∃ (p : Nat) (s : State), (s.port p).state = Ps.powering ∧ s.due (s.port p).since (1000 * clampN 10 5000
    (s.fld Reg.MP_HP 15 0)) = true :=
  ⟨0, svcPort 5000000 { okPort with state := Ps.powering },
    by decide +kernel⟩

theorem wit_Ports_6 : ∃ (bus : Nat) (bits : BitVec 16) (s : State), s.pw.held = false ∧ 3 ≤ s.pw.step :=
  ⟨1, 0, { svc with pw.step := 3 },
    by decide +kernel⟩

theorem wit_Ports_7 : ∃ (bus : Nat) (bits : BitVec 16) (s : State), s.pw.held = false ∧ 3 ≤ s.pw.step ∧ 2 ≤ (if bus = 0 then
    s.mp.nak0 else s.mp.nak1) ∧ bus < 2 :=
  ⟨1, 0, { svc with pw.step := 3, mp.nak1 := 2 },
    by decide +kernel⟩

theorem wit_Ports_8 : ∃ (p : Nat) (s : State), s.portExists p = true ∧ (s.port p).state = Ps.absent ∧ 1 ≤ (s.port p).polls :=
  ⟨31, { svc with mp.ports := [(31, { polls := 1 })], mp.widths := 0xFFFF },
    by decide +kernel⟩

theorem wit_Ports_9 : ∃ (p : Nat) (s : State), s.portExists p = true ∧ (s.port p).state ≠ Ps.absent :=
  ⟨0, svc,
    by decide +kernel⟩

theorem wit_Ports_10 : ∃ (p : Nat) (s : State), (s.port p).state = Ps.ready ∧ s.due (s.port p).smartAt (1000000 * max 1 (s.fld
    Reg.MP_CFG 15 8)) = true :=
  ⟨0, svcPort 255000000 okPort,
    by decide +kernel⟩

theorem wit_MenderStarts_0 : ∃ (a : Nat) (r : ArrayRec) (s : State) (v : State), v = s.rateRoll a ∧ s.arr? a = some r ∧
    v.walkMayIssue a r = true :=
  ⟨0, { arrA with failed := 4 },
    { svc with st.arrays := [(0, { arrA with failed := 4 })], md.pos := [(2, ⟨0, 5, false⟩)], md.walks := [(0, { active := true })], mp.ports := [(0, okPort), (1, okPort), (5, okPort)] },
    State.rateRoll ({ svc with st.arrays := [(0, { arrA with failed := 4 })], md.pos := [(2, ⟨0, 5, false⟩)], md.walks := [(0, { active := true })], mp.ports := [(0, okPort), (1, okPort), (5, okPort)] })
    0,
    by decide +kernel⟩

theorem wit_MenderStarts_1 : ∃ (a : Nat) (r : ArrayRec) (s : State), s.walkMayIssue a r = true :=
  ⟨0, { arrA with failed := 4 },
    { svc with st.arrays := [(0, { arrA with failed := 4 })], md.pos := [(2, ⟨0, 5, false⟩)], md.walks := [(0, { active := true })], mp.ports := [(0, okPort), (1, okPort), (5, okPort)] },
    by decide +kernel⟩

theorem wit_MenderStarts_2 : ∃ (e : RepEnt) (r : ArrayRec) (s : State), (s.md.repq.find? fun e => s.menderOk e.arr &&
    (s.resyncWaits e.arr).isEmpty) = some e ∧ s.arr? e.arr = some r ∧ (s.rateRoll e.arr).rateOk e.arr r = true :=
  ⟨⟨0, 3, 1, 1⟩, arrA, { svc with md.repq := [⟨0, 3, 1, 1⟩] },
    by decide +kernel⟩

theorem wit_MenderStarts_3 : ∃ (e : LgLive) (r : ArrayRec) (s : State), s.resyncNext = some e ∧ s.arr? e.arr = some r ∧
    s.frameOf e.arr e.stripe = none :=
  ⟨⟨1, Lk.resync, 0, 3, 1, 0, false⟩, arrA,
    { svc with mem := [⟨sstAddr 3, Sst.resyncDue⟩], lg.live := [⟨1, Lk.resync, 0, 3, 1, 0, false⟩] },
    by decide +kernel⟩

theorem wit_MenderStarts_4 : ∃ (e : LgLive) (r : ArrayRec) (n : Nat) (f : Frame) (s : State), s.resyncNext = some e ∧ s.arr?
    e.arr = some r ∧ s.frameOf e.arr e.stripe = some (n, f) :=
  ⟨⟨1, Lk.resync, 0, 3, 1, 0, false⟩, arrA, 0, { frm with stripe := 3 },
    { { svc with mem := [⟨sstAddr 3, Sst.resyncDue⟩], lg.live := [⟨1, Lk.resync, 0, 3, 1, 0, false⟩] } with ld.frames := [(0, { frm with stripe := 3 })] },
    by decide +kernel⟩

theorem wit_MenderStarts_5 : ∃ (e : LgLive) (s : State), s.resyncNext = some e :=
  ⟨⟨1, Lk.resync, 0, 3, 1, 0, false⟩,
    { svc with mem := [⟨sstAddr 3, Sst.resyncDue⟩], lg.live := [⟨1, Lk.resync, 0, 3, 1, 0, false⟩] },
    by decide +kernel⟩

theorem wit_MenderTimes_0 : ∃ (a : Nat) (s : State), s.pfd = false ∧ (s.walk a).active = true ∧ (s.walk a).ckWalked < (s.walk
    a).walked ∧ (s.md.tasks.any fun t => t.arr == a && t.kind == .checkpoint) = false ∧ ((s.walk a).ckWalked + 4096 ≤ (s.walk
    a).walked ∨ s.due (s.walk a).ckAt 1000000 = true) :=
  ⟨0, { svc with md.walks := [(0, { active := true, walked := 4096 })] },
    by decide +kernel⟩

theorem wit_MenderTimes_1 : ∃ (a : Nat) (s : State), (s.pfd = true ∨ (s.walk a).active = false ∨ (s.walk a).walked ≤ (s.walk
    a).ckWalked) :=
  ⟨0, svc,
    by decide +kernel⟩

theorem wit_MenderTimes_2 : ∃ (a : Nat) (s : State), s.pfd = false ∧ (s.scrubOf a).running = true ∧ 0 < (s.scrubOf a).ckCount
    ∧ (65536 ≤ (s.scrubOf a).ckCount ∨ s.due (s.scrubOf a).ckAt 60000000 = true) :=
  ⟨0, { svc with md.scrubs := [(0, { running := true, ckCount := 65536 })] },
    by decide +kernel⟩

theorem wit_MenderTimes_3 : ∃ (t : Nat) (x : Task) (s : State), s.task? t = some x ∧ x.phase = .retry ∧ s.due x.since 1000000
    = true ∧ s.pfd = false ∧ x.kind.isWalk = none :=
  ⟨9, task .scrub .retry, { svc with now := 1000000, md.tasks := [task .scrub .retry] },
    by decide +kernel⟩

theorem wit_MenderTimes_5 : ∃ (a : Nat) (s : State) (b : Nat), (s.cmds.any fun c => isPf0 c.f && s.cmdArr c == some a) = false
    ∧ s.due (mapGetD s.md.arrIdle a 0) 1000000 = true ∧ b ≠ a :=
  ⟨0, { svc with now := 1000000 }, 1,
    by decide +kernel⟩

theorem wit_MenderTimes_6 : ∃ (a : Nat) (s : State), s.scrubMay a = true :=
  ⟨0, svc [(Reg.MD_CFG, 1)],
    by decide +kernel⟩

theorem wit_MenderTimes_7 : ∃ (a : Nat) (r : ArrayRec) (s : State) (v : State), v = s.rateRoll a ∧ s.arr? a = some r ∧
    v.scrubMay a = true ∧ (v.scrubOf a).running = false :=
  ⟨0, arrA, svc [(Reg.MD_CFG, 1)], State.rateRoll (svc [(Reg.MD_CFG, 1)]) 0,
    by decide +kernel⟩

theorem wit_MenderTimes_8 : ∃ (a : Nat) (r : ArrayRec) (s : State) (v : State), v = s.rateRoll a ∧ s.arr? a = some r ∧
    v.scrubMay a = true ∧ (v.scrubOf a).running = true ∧ v.due (v.scrubOf a).visitAt (v.scrubUs r) = true ∧ v.rateOk a r =
    true :=
  ⟨0, arrA, { svc [(Reg.MD_CFG, 1)] with now := 365 * 86400000000, md.scrubs := [(0, { running := true })] }, State.rateRoll
    ({ svc [(Reg.MD_CFG, 1)] with now := 365 * 86400000000, md.scrubs := [(0, { running := true })] }) 0,
    by decide +kernel⟩

theorem wit_MenderTimes_10 : ∃ (a : Nat) (n : Nat) (r : ArrayRec) (s : State), bit (s.sst a n) 28 = true ∧ s.sstState a n =
    Sst.degraded :=
  ⟨0, 3, arrA, { svc with mem := [⟨sstAddr 3, Sst.degraded⟩, ⟨sstAddr 3 + 3, 0x10⟩] },
    by decide +kernel⟩

theorem wit_MenderTimes_11 : ∃ (a : Nat) (n : Nat) (r : ArrayRec) (s : State), bit (s.sst a n) 28 = true ∧ (s.sstState a n =
    Sst.consistent ∨ s.sstState a n = Sst.open_ ∨ s.sstState a n = Sst.rebuilding) :=
  ⟨0, 3, arrA, { svc with mem := [⟨sstAddr 3, Sst.consistent⟩, ⟨sstAddr 3 + 3, 0x10⟩] },
    by decide +kernel⟩

theorem wit_MenderTimes_12 : ∃ (a : Nat) (n : Nat) (r : ArrayRec) (s : State), bit (s.sst a n) 28 = false :=
  ⟨0, 3, arrA, svc,
    by decide +kernel⟩

theorem wit_RegisterAccess_0 : ∃ (f : Func) (off : Nat) (len : Nat) (val : W64) (s : State), s.pf0Dropped f = true :=
  ⟨.pf0, 0, 4, 0, hw [(Reg.HP_STATUS, 4)],
    by decide +kernel⟩

theorem wit_RegisterAccess_1 : ∃ (f : Func) (off : Nat) (len : Nat) (val : W64) (s : State), s.pf0Dropped f = false ∧
    bar0Invalid f off len true = true :=
  ⟨.pf0, 2, 4, 0, State.reset,
    by decide +kernel⟩

theorem wit_RegisterAccess_2 : ∃ (f : Func) (off : Nat) (val : W64) (s : State), s.pf0Dropped f = false ∧ bar0Invalid f off 4
    true = false :=
  ⟨.pf1, 0, 0, State.reset,
    by decide +kernel⟩

theorem wit_RegisterAccess_3 : ∃ (f : Func) (off : Nat) (val : W64) (s : State), s.pf0Dropped f = false ∧ bar0Invalid f off 8
    true = false :=
  ⟨.pf1, 8, 0, State.reset,
    by decide +kernel⟩

theorem wit_RegisterAccess_6 : ∃ (p : Fin 16) (k : Nat) (v : Nat) (s : State), s.reg k = v % 2 ^ 32 :=
  ⟨0, 4, 0, hw [(4, 0)],
    by decide +kernel⟩

theorem wit_RegisterAccess_7 : ∃ (p : Fin 16) (k : Nat) (v : Nat) (s : State), s.reg k ≠ v % 2 ^ 32 ∧ s.kp.inhibit = true :=
  ⟨0, 4, 1, { hw [(4, 0)] with kp.inhibit := true },
    by decide +kernel⟩

theorem wit_RegisterAccess_8 : ∃ (p : Fin 16) (k : Nat) (v : Nat) (s : State), s.reg k ≠ v % 2 ^ 32 ∧ s.kp.inhibit = false ∧ k
    ≠ Reg.KP_WARN 0 ∧ k ≠ Reg.KP_STATUS :=
  ⟨0, 4, 1, hw [(4, 0)],
    by decide +kernel⟩

theorem wit_RegisterAccess_9 : ∃ (k : Nat) (s : State), isLo k = true ∧ mapGet? s.latch k = none :=
  ⟨Reg.TL_CEIL_LO, State.reset,
    by decide +kernel⟩

theorem wit_RegisterAccess_10 : ∃ (k : Nat) (v : W32) (s : State), mapGet? s.latch k = some v :=
  ⟨Reg.TL_CEIL_LO + 4, 3, { State.reset with latch := [(Reg.TL_CEIL_LO + 4, 3)] },
    by decide +kernel⟩

theorem wit_RegisterAccess_11 : ∃ (off : Nat) (s : State), isLo off = true ∧ s.pf0Dropped (keyFn off).1 = false :=
  ⟨Reg.TL_CEIL_LO, State.reset,
    by decide +kernel⟩

theorem wit_RegisterAccess_12 : ∃ (off : Nat) (s : State), isLo off = true ∧ s.pf0Dropped (keyFn off).1 = true :=
  ⟨Reg.RG_SQ_BASE_LO true 1, hw [(Reg.HP_STATUS, 4)],
    by decide +kernel⟩

theorem wit_Service_0 : ∃ (op : ConsoleOp) (s : State), s.testMode = false :=
  ⟨.read 0, State.reset,
    by decide +kernel⟩

theorem wit_Service_1 : ∃ (off : Nat) (s : State), s.testMode = true ∧ bar0Invalid .pf1 off 4 false = false :=
  ⟨0, hw [(Reg.RV_MODE, 3)],
    by decide +kernel⟩

theorem wit_Service_2 : ∃ (off : Nat) (v : W32) (fb : Bool) (s : State), s.testMode = true ∧ bar0Invalid .pf1 off 4 true =
    false :=
  ⟨0, 0, true, hw [(Reg.RV_MODE, 3)],
    by decide +kernel⟩

theorem wit_Service_3 : ∃ (code : BitVec 6) (s : State), s.flag Reg.TD_CTRL 0 = false :=
  ⟨0, hw [(Reg.TD_CTRL, 0)],
    by decide +kernel⟩

theorem wit_Service_4 : ∃ (s : State), s.flag Reg.TD_CTRL 0 = true :=
  ⟨hw [(Reg.TD_CTRL, 1)],
    by decide +kernel⟩

theorem wit_Service_5 : ∃ (code : BitVec 6) (s : State), s.flag Reg.TD_CTRL 0 = true ∧ (code = 0x03 ∨ code = 0x3F) :=
  ⟨0x3F, hw [(Reg.TD_CTRL, 1)],
    by decide +kernel⟩

theorem wit_Service_6 : ∃ (ptr : Nat) (rdLen : Nat) (s : State), s.flag Reg.AL_MGT 7 = true ∧ 0 < rdLen :=
  ⟨0, 1, hw [(Reg.AL_MGT, 0x80)],
    by decide +kernel⟩

theorem wit_Service_7 : ∃ (ptr : Nat) (rdLen : Nat) (wr : List Byte) (s : State), s.flag Reg.AL_MGT 7 = false :=
  ⟨0, 1, [], hw [(Reg.AL_MGT, 0)],
    by decide +kernel⟩

theorem wit_Service_8 : ∃ (slot : Nat) (s : State), s.flag Reg.AL_MGT 7 = true ∧ slot < 0x100 :=
  ⟨0xFF, hw [(Reg.AL_MGT, 0x80)],
    by decide +kernel⟩

theorem wit_Service_9 : ∃ (s : State), s.spState ≠ 3 :=
  ⟨hw [(Reg.SP_STATUS, 2)],
    by decide +kernel⟩

theorem wit_AlmanacRows_0 : ∃ (s : State), s.al.isOpen = true ∧ s.due s.al.cur.at_ 3600000000 = true :=
  ⟨{ State.reset with now := 3600000000, al := { isOpen := true } },
    by decide +kernel⟩

theorem wit_AlmanacRows_1 : ∃ (s : State), s.al.isOpen = true ∧ s.due s.al.cur.ckAt 600000000 = true :=
  ⟨{ State.reset with now := 600000000, al := { isOpen := true } },
    by decide +kernel⟩

theorem wit_AlmanacRows_2 : ∃ (t : Nat) (s : State), s.al.cur.condAt = some t ∧ s.al.isOpen = true ∧ t ≤ s.now :=
  ⟨0, { State.reset with al := { isOpen := true, cur := { condAt := some 0 } } },
    by decide +kernel⟩

theorem wit_AlmanacRows_3 : ∃ (k : Nat) (r : Nat) (s : State), s.al.isOpen = true :=
  ⟨1, 1, { State.reset with al := { isOpen := true } },
    by decide +kernel⟩

theorem wit_AlmanacRows_5 : ∃ (slot : Nat) (s : State), slot < 0x100 :=
  ⟨0xFF, State.reset,
    by decide +kernel⟩

theorem wit_AlmanacRows_6 : ∃ (m : AlSample) (s : State), s.al.isOpen = false :=
  ⟨⟨0, 0, 0, 0, 0, 0⟩, State.reset,
    by decide +kernel⟩

theorem wit_AlmanacRows_7 : ∃ (m : AlSample) (s : State), s.al.isOpen = true :=
  ⟨⟨0, 0, 0, 0, 0, 0⟩, { State.reset with al := { isOpen := true } },
    by decide +kernel⟩

theorem wit_AlmanacRows_8 : ∃ (i : ColItem) (n : Note) (s : State), s.al.isOpen = true ∧ s.rg.col.find? (fun i => i.dep.isNote
    && !i.taken) = some i ∧ i.dep = .note n :=
  ⟨⟨Rank.gauge, .note noteA, 0, false, false, false⟩, noteA,
    { State.reset with al := { isOpen := true }, rg := { col := [⟨Rank.gauge, .note noteA, 0, false, false, false⟩] } },
    by decide +kernel⟩

theorem wit_Placement_0 : ∃ (r : ArrayRec) (s : Nat) (i : Nat) (j : Nat), r.mirror = false ∧ 0 < r.w :=
  ⟨arrA, 5, 1, 0,
    by decide +kernel⟩

theorem wit_Placement_1 : ∃ (r : ArrayRec) (s : Nat) (i : Nat) (c : Nat), r.mirror = true :=
  ⟨{ arrA with kind := 1, dw := 2, k := 1 }, 5, 1, 1,
    by decide +kernel⟩

theorem wit_PlacementInverse_0 : ∃ (r : ArrayRec) (s : Nat) (c : Nat), c < r.w :=
  ⟨arrA, 5, 2,
    by decide +kernel⟩

theorem wit_PlacementInverse_1 : ∃ (r : ArrayRec) (s : Nat) (p : Nat), p < r.w :=
  ⟨arrA, 5, 2,
    by decide +kernel⟩

theorem wit_PlacementInverse_2 : ∃ (r : ArrayRec) (v : Vol) (blk : Nat), 0 < r.dw :=
  ⟨arrA, volB, 31,
    by decide +kernel⟩

theorem wit_SupplyReturns_6 : ∃ (s : State) (mv : Nat), s.kp.inhibit = false ∧ mv < 740 :=
  ⟨State.reset, 739, by decide +kernel⟩

/-- The firmware check is a free function: whichever way it answers, one of the first two clauses applies. -/
theorem wit_FirmwareAndKeys_0 : ∃ (c : Cmd) (s : State), 1 ≤ Ent.p1 c.ent ∧ Ent.p1 c.ent ≤ 1048576 ∧
    (Config.fwVerify (s.memN fwArea (Ent.p1 c.ent)) = false ∨ Config.fwVerify (s.memN fwArea (Ent.p1 c.ent)) = true) :=
  ⟨cmdOf .pf1 (ent 0x93 0 0 4096 0), svc, by decide +kernel, by decide +kernel, by
    cases Config.fwVerify (svc.memN fwArea (Ent.p1 (cmdOf .pf1 (ent 0x93 0 0 4096 0)).ent)) <;> simp⟩

theorem wit_FirmwareAndKeys_4 : ∃ (c : Cmd) (s : State), s.authOk c.adminData = true :=
  ⟨authCmd, keyS, by decide +kernel⟩

theorem wit_RegisterFields_1 : ∃ (k : Nat) (d : RegDesc) (x : RField), regDesc? k = some d ∧ x ∈ d.fields ∧
    (x.ty = .ro ∨ x.ty = .wo ∨ x.ty = .kw) :=
  ⟨Reg.MW_START, desc Reg.MW_START, fieldAt Reg.MW_START 1, by decide +kernel⟩

theorem wit_RegisterFields_2 : ∃ (k : Nat) (d : RegDesc) (x : RField), regDesc? k = some d ∧ x ∈ d.fields ∧ x.ty = .rw :=
  ⟨Reg.GA_CTRL, desc Reg.GA_CTRL, fieldAt Reg.GA_CTRL 0, by decide +kernel⟩

theorem wit_RegisterFields_3 : ∃ (k : Nat) (d : RegDesc) (x : RField), regDesc? k = some d ∧ x ∈ d.fields ∧ x.ty = .w1c :=
  ⟨0x906C, desc 0x906C, fieldAt 0x906C 1, by decide +kernel⟩

theorem wit_RegisterFields_4 : ∃ (k v : Nat) (d : RegDesc) (s : State), regDesc? k = some d ∧ rowBits k = 0 ∧
    d.write (s.reg k) v < 2 ^ 32 :=
  ⟨Reg.GA_CTRL, 0xFFFFFFFF, desc Reg.GA_CTRL, State.reset, by decide +kernel⟩

theorem wit_RegisterFields_5 : ∃ (x : RField), x.lo ≤ x.hi ∧ x.ty = .w1s :=
  ⟨⟨3, 3, .w1s, 0⟩, by decide⟩

theorem wit_RegisterAccess_4 : ∃ (off w : Nat) (val : W32) (d : RegDesc) (s : State), regDesc? off = some d ∧
    (d.fields.any fun x => x.ty == .kw) = true ∧ s.kwFix off (s.reg off) (d.kwWrite (s.reg off) val.toNat) = some w :=
  ⟨Reg.MW_START, 0x01F400C9, 0x01F400C9, desc Reg.MW_START, State.reset, by decide +kernel⟩

theorem wit_RegisterAccess_5 : ∃ (off : Nat) (d : RegDesc), regDesc? off = some d ∧
    (d.fields.any fun x => x.ty == .kw) = false :=
  ⟨Reg.GA_CTRL, desc Reg.GA_CTRL, by decide +kernel⟩

theorem wit_SkippedWrites_0 : ∃ (off w : Nat) (val : W32) (d : RegDesc) (s : State), regDesc? off = some d ∧
    (d.fields.any fun x => x.ty == .kw) = true ∧ s.kwFix off (s.reg off) (d.kwWrite (s.reg off) val.toNat) = some w ∧
    s.reg off = w % 2 ^ 32 :=
  ⟨Reg.MW_START, 0x01F400C8, 0x01F400C8, desc Reg.MW_START, State.reset, by decide +kernel⟩

theorem wit_AlmanacRows_4 : ∃ (n : Nat) (s : State), 0 < s.al.reps ∧ s.due s.al.repAt 1000000 = true ∧ s.al.repSlot = n ∧
    s.alValid n = true ∧ s.alKindOf n = 2 ∧ s.alOpenOf n = false :=
  ⟨64, { State.reset with now := 1000000, al := { reps := 1, repSlot := 64 }, keep := recKeep }, by decide, by decide +kernel, rfl,
    recKeep_valid, by decide +kernel, by decide +kernel⟩

theorem alNewest_alHist (s : State) (h b : Nat) : (s.alHist h b).alNewest = s.alNewest := rfl

theorem wit_AlmanacRows_9 : ∃ (n : Note) (s : State), (s.alHist 9 n.sev).alIsRepeat n = true ∧
    (s.al.reps = 0 ∨ s.alNewest = some s.al.repSlot) :=
  ⟨noteA, { State.reset with keep := recKeep }, by
    unfold State.alIsRepeat
    rw [alNewest_alHist, recKeep_newest]
    decide +kernel, Or.inl rfl⟩

end Sys2Proof.Tests
end

section
/-! PROOF. The statements of the scope chapter: what a step runs, what every command keeps, the state after reset, the power-on
resets, and the register fields by their types. -/

namespace Sys2Proof.Proofs

open Sys2Proof.Machine Sys2Proof.Safety

/-! ### A step and its commands -/

/-- Settles O1. -/
theorem stepRuns : Obligations.StepRuns := by
  refine ⟨fun c rest s h => ?_, fun s h => ?_⟩
  · simp only [step, h]
  · simp only [step, h]

/-- Every arm of exec answers a next state: no command of the model faults or is refused. -/
theorem exec_answers (c : Instr) (s : State) : ∃ t, exec c s = .next t := by
  cases c <;> exact ⟨_, rfl⟩

/-- Settles O4, from what every operation keeps (`Stays`). -/
theorem commandFrame : Obligations.CommandFrame := by
  refine ⟨exec_answers, fun c s t hpor hrail e => ?_⟩
  have k := exec_stays c s t hpor hrail e
  exact ⟨k.pending, k.now, k.out, k.nextH⟩

/-! ### Canonical form -/

/-- Memory, the Keep and the register file are in canonical form. -/
def Canonical (s : State) : Prop := memCanonical s = true ∧ regsCanonical s = true

theorem canonical_iff (s : State) :
    Canonical s ↔ memWf s.mem = true ∧ memWf s.keep = true ∧ regsCanonical s = true := by
  simp only [Canonical, memCanonical, Bool.and_eq_true, and_assoc]

theorem Canonical.of_stays {s t : State} (h : Canonical s) (k : Stays s t) : Canonical t := by
  obtain ⟨hmem, hkeep, hregs⟩ := (canonical_iff s).mp h
  exact (canonical_iff t).mpr ⟨k.mem hmem, k.keep hkeep, k.regs hregs⟩

/-- A power-on reset empties memory; the Keep and the register file keep their form. -/
theorem Canonical.chipReset_por {s : State} (h : Canonical s) (core : Bool) : Canonical (s.chipReset true core) := by
  obtain ⟨-, hkeep, hregs⟩ := (canonical_iff s).mp h
  obtain ⟨formKeep, emptyMem, formRegs⟩ := s.chipReset_forms core
  exact (canonical_iff _).mpr ⟨by rw [emptyMem]; rfl, formKeep hkeep, formRegs hregs⟩

theorem Canonical.powerOnReset {s t : State} (h : Canonical s) (strap : BitVec 2)
    (e : exec (.powerOnReset strap) s = .next t) : Canonical t := by
  have k : Canonical ((s.strapAt strap).chipReset true false) := Canonical.chipReset_por (s := s.strapAt strap) h false
  rw [← Host.Outcome.next.inj e]
  dsimp only
  split
  · exact k
  · exact k.of_stays (State.release_stays (Stays.refl _))

theorem Canonical.railOutOfWindow {s t : State} (h : Canonical s) (rail : Rail)
    (e : exec (.railOutOfWindow rail) s = .next t) : Canonical t :=
  Host.Outcome.next.inj e ▸ h.chipReset_por false

/-- Every command keeps the canonical form; the two rows of a power-on reset, which `Stays` leaves out, have their own lemmas. -/
theorem Canonical.exec {s t : State} (h : Canonical s) (c : Instr) (e : exec c s = .next t) : Canonical t := by
  by_cases hpor : ∃ x, c = .powerOnReset x
  · obtain ⟨x, rfl⟩ := hpor
    exact h.powerOnReset x e
  · by_cases hrail : ∃ r, c = .railOutOfWindow r
    · obtain ⟨r, rfl⟩ := hrail
      exact h.railOutOfWindow r e
    · exact h.of_stays (exec_stays c s t (not_exists.mp hpor) (not_exists.mp hrail) e)

/-- Settles O3: a tick changes the count alone, and a command runs on the state with the queue's rest, whose memory and
registers are those of the state before. -/
theorem stepInvariant : Obligations.StepInvariant := by
  intro s t hmem hregs e
  have h : Canonical s := ⟨hmem, hregs⟩
  cases hq : s.pending with
  | nil =>
    rw [stepRuns.2 s hq] at e
    exact Host.Outcome.next.inj e ▸ h
  | cons c rest =>
    rw [stepRuns.1 c rest s hq] at e
    exact Canonical.exec (s := { s with pending := rest }) h c e

/-! ### Reset -/

/-- Settles O2. -/
theorem resetState : Obligations.ResetState := by
  refine ⟨rfl, ?_, ?_, rfl, rfl, rfl, rfl, rfl, fun _ => rfl⟩
  · unfold chipClear recOf
    decide +kernel
  · refine ⟨rfl, rfl, rfl, rfl, rfl, rfl, by decide +kernel, fun f => ?_⟩
    cases f <;> decide +kernel

/-- What a power-on reset leaves before any release: the machine is held, the AON count is 0 and Keep writes are allowed. -/
theorem chipReset_por_leaves (s : State) : chipClear (s.chipReset true false) ∧ (s.chipReset true false).now = 0 ∧
    (s.chipReset true false).kp.inhibit = false ∧
    (s.chipReset true false).pw = (State.resetHold { s with now := 0 } true).pw := by
  obtain ⟨clear, hpw, hinhibit, hnow, -⟩ := chipReset_clear s true false
  exact ⟨clear, hnow rfl, hinhibit, hpw⟩

/-- Settles O6. -/
theorem powerOnReset : Obligations.PowerOnReset := by
  refine ⟨fun strap s => ?_, fun rail s => ?_⟩
  · obtain ⟨clear, hnow, hinhibit, hpw⟩ := chipReset_por_leaves (s.strapAt strap)
    generalize hu : (s.strapAt strap).chipReset true false = u at clear hnow hinhibit hpw
    have hpin : u.pw.strapPin = strap.toNat := by rw [hpw]; rfl
    have hlow : u.pw.rstLow = s.pw.rstLow := by rw [hpw]; rfl
    have hdone : u.pw.rstDone = false := by rw [hpw]; rfl
    have e : exec (.powerOnReset strap) s = .next (if u.pw.rstLow then u else u.release) := by rw [← hu]; rfl
    refine ⟨_, e, ?_⟩
    by_cases low : s.pw.rstLow = true
    · rw [if_pos (hlow.trans low)]
      exact ⟨clear, hnow, hinhibit, hpin, by rw [hpw, low]; rfl, hdone, fun high => absurd low (by rw [high]; decide)⟩
    · rw [if_neg (by rw [hlow]; exact low)]
      obtain ⟨frame, hheld, -, hstep, hstrap, -, hpin', -, hdone', hmode, -⟩ := release_spec u
      refine ⟨chipClear_release u clear, by rw [frame]; exact hnow, by rw [frame]; exact hinhibit, hpin'.trans hpin,
        hheld.trans (Bool.eq_false_iff.mpr low).symm, hdone'.trans hdone, fun _ => ⟨hstep, hstrap.trans hpin, ?_⟩⟩
      rw [hmode, hpin]
      exact Nat.mod_eq_of_lt strap.isLt
  · obtain ⟨clear, hnow, -, hpw⟩ := chipReset_por_leaves s
    exact ⟨_, rfl, clear, hnow, by rw [hpw]; rfl, by rw [hpw]; rfl⟩

/-! ### Register fields by their types -/

/-- What a write leaves in a field depends on the field alone: no other field of the register shares a bit with it. -/
theorem write_field (k v old : Nat) (d : RegDesc) (x : RField) (hd : regDesc? k = some d) (hx : x ∈ d.fields) :
    x.lo ≤ x.hi ∧ ∃ b, bits b x.hi x.lo = bits old x.hi x.lo ∧
      bits (d.write old v) x.hi x.lo = bits (x.apply v b) x.hi x.lo :=
  fold_at v x d.fields old (fldsOk_all d (List.mem_of_find?_eq_some hd)) hx

theorem apply_unwritable (v acc : Nat) (x : RField) (h : x.ty = .ro ∨ x.ty = .wo ∨ x.ty = .kw) :
    x.apply v acc = acc := by
  unfold RField.apply
  obtain h | h | h := h <;> rw [h]

theorem bits_apply_rw (v acc : Nat) (x : RField) (w : x.lo ≤ x.hi) (h : x.ty = .rw) :
    bits (x.apply v acc) x.hi x.lo = bits v x.hi x.lo := by
  unfold RField.apply
  rw [h]
  dsimp only
  rw [bits_setBits_same _ _ _ _ w, Nat.mod_eq_of_lt (bits_lt _ _ _)]

theorem testBit_bits_apply_w1c (v acc : Nat) (x : RField) (w : x.lo ≤ x.hi) (h : x.ty = .w1c) (i : Nat) :
    (bits (x.apply v acc) x.hi x.lo).testBit i =
      ((bits acc x.hi x.lo).testBit i && !(bits v x.hi x.lo).testBit i) := by
  unfold RField.apply
  rw [h]
  dsimp only
  rw [bits_setBits_same _ _ _ _ w, Nat.testBit_mod_two_pow, Nat.testBit_and, Nat.testBit_xor,
    Nat.testBit_two_pow_sub_one, testBit_bits acc]
  by_cases c : i < x.hi + 1 - x.lo <;> simp [c]

theorem bits_apply_w1s (v acc : Nat) (x : RField) (w : x.lo ≤ x.hi) (h : x.ty = .w1s) :
    bits (x.apply v acc) x.hi x.lo = bits acc x.hi x.lo ||| bits v x.hi x.lo := by
  unfold RField.apply
  rw [h]
  dsimp only
  rw [bits_setBits_same _ _ _ _ w, Nat.mod_eq_of_lt (Nat.or_lt_two_pow (bits_lt _ _ _) (bits_lt _ _ _))]

/-- A register with no row bits takes the written value whole. -/
theorem keepBits_zero (old new : Nat) (h : new < 2 ^ 32) : keepBits 0 old new = new := by
  unfold keepBits
  rw [Nat.zero_xor, Nat.and_zero, Nat.or_zero, show 0xFFFFFFFF = 2 ^ 32 - 1 from rfl, Nat.and_two_pow_sub_one_eq_mod,
    Nat.mod_eq_of_lt h]

theorem regStore_eq_setReg (s : State) (k v : Nat) (d : RegDesc) (hd : regDesc? k = some d) (hrow : rowBits k = 0)
    (hlt : d.write (s.reg k) v < 2 ^ 32) : s.regStore k v = s.setReg k (d.write (s.reg k) v) := by
  unfold State.regStore
  rw [hd]
  dsimp only
  rw [hrow, keepBits_zero _ _ hlt]

/-- Settles O53, field by field: fields of one register share no bit (`fldsOk_all`). -/
theorem registerFields : Obligations.RegisterFields := by
  refine ⟨fun k v d x s hd hx => ?_, fun k v d s hd hrow hlt => ?_, fun v acc x w h => bits_apply_w1s v acc x w h⟩
  · obtain ⟨w, b, same, written⟩ := write_field k v (s.reg k) d x hd hx
    refine ⟨fun h => ?_, fun h => ?_, fun h i => ?_⟩
    · rw [written, apply_unwritable v b x h, same]
    · rw [written, bits_apply_rw v b x w h]
    · rw [written, testBit_bits_apply_w1c v b x w h, same]
  · rw [regStore_eq_setReg s k v d hd hrow hlt]
    exact ⟨by rw [State.reg_setReg_same, Nat.mod_eq_of_lt hlt], rfl, fun q hq => s.reg_setReg_ne k q _ hq⟩

/-! ### Errors of the Keep -/

/-- Wear of a page changes no register but the page's KP_WARN and KP_STATUS. -/
theorem reg_addWear_ne (s : State) (page n q : Nat) (hwarn : q ≠ Reg.KP_WARN (page / 32)) (hstat : q ≠ Reg.KP_STATUS) :
    (s.addWear page n).reg q = s.reg q := by
  unfold State.addWear
  dsimp only
  split
  · rw [State.reg_note, State.reg_setFlag_ne _ _ _ _ _ hstat, State.reg_setFlag_ne _ _ _ _ _ hwarn]
    rfl
  · rfl

/-- The KP_CORR clause of RegisterAccess holds for the words the Keep has (1 MiB, R350). -/
theorem reg_keepErr_corrected (s : State) (w : Nat) (hw : w < 2 ^ 17) :
    (s.keepErr (.corrected w)).reg Reg.KP_CORR = sat32 (s.reg Reg.KP_CORR + 1) := by
  unfold State.keepErr State.keepWord
  dsimp only
  split
  · rw [State.reg_bump_ne _ _ _ (by decide), State.reg_bump_same]
  · rw [reg_addWear_ne _ _ _ _ (by unfold Reg.KP_CORR Reg.KP_WARN; omega) (by decide)]
    exact s.reg_bump_same Reg.KP_CORR

/-- A state whose count for page 384, beyond the Keep's 256 pages, stands at the level that warns, and with one corrected word
counted. The warning bit of that page falls on bit 0 of KP_CORR (KP_WARN 12 and KP_CORR are one register key). -/
def wornBeyondKeep : State := State.setReg { State.reset with kp.wear := [(384, 10 ^ 10)] } Reg.KP_CORR 1

/-- Refutes O54: its clause on corrected errors takes any word number, also one outside the Keep. With word 384 * 512 the
write back wears page 384, whose warning sets bit 0 of KP_CORR, so that KP_CORR goes from 1 to 3. -/
theorem not_registerAccess : ¬ Obligations.RegisterAccess := by
  rintro ⟨⟨-, -, -, -, -, -, -, hErr, -⟩, -⟩
  obtain ⟨hCorr, -⟩ := hErr (384 * 512) wornBeyondKeep
  have counted : (wornBeyondKeep.keepErr (.corrected (384 * 512))).reg Reg.KP_CORR = 3 := by decide +kernel
  have before : sat32 (wornBeyondKeep.reg Reg.KP_CORR + 1) = 2 := by decide +kernel
  rw [counted, before] at hCorr
  exact absurd hCorr (by decide)

end Sys2Proof.Proofs
end

section
/-! PROOF. The statements of the arrays chapter on placement: where the chunks of a stripe lie, and that nothing is lost by it. -/

namespace Sys2Proof.Proofs

open Sys2Proof.Machine Sys2Proof.Safety

/-! ### Where chunks lie (R29, R30) -/

theorem w_of_parity {r : ArrayRec} (h : r.mirror = false) : r.w = r.dw + r.k := by
  rw [ArrayRec.w, h]
  rfl

theorem dataPos_of_mirror {r : ArrayRec} (h : r.mirror = true) (s i c : Nat) : r.dataPos s i c = i * r.n + c := if_pos h

theorem dataPos_of_parity {r : ArrayRec} (h : r.mirror = false) (s i c : Nat) :
    r.dataPos s i c = (r.w - s % r.w + i) % r.w := if_neg (nf' h)

/-- Parity j is the cell behind the data chunks: it lies where a data chunk of index D + j would. -/
theorem parPos_of_parity {r : ArrayRec} (h : r.mirror = false) (w : 0 < r.w) (s j : Nat) :
    r.parPos s j = (r.w - s % r.w + (r.dw + j)) % r.w := by
  have rotation : s % r.w < r.w := Nat.mod_lt s w
  have width := w_of_parity h
  unfold ArrayRec.parPos
  congr 1
  omega

/-- A sum that was kept positive by adding the width w is, modulo w, the difference of integers R29 writes. -/
theorem cast_rotated {w a : Nat} (x : Nat) (h : a ≤ w) : (((w - a + x) % w : Nat) : Int) = ((w : Int) - a + x) % w := by
  push_cast [Nat.cast_sub h]
  rfl

/-- Settles O58. -/
theorem placement : Obligations.Placement := by
  refine ⟨fun r s i j parity w => ?_, fun r s i c mirror => dataPos_of_mirror mirror s i c⟩
  have rotation : s % r.w ≤ r.w := (Nat.mod_lt s w).le
  constructor
  · rw [parPos_of_parity parity w, cast_rotated _ rotation]
    have width : (r.w : Int) = r.dw + r.k := by rw [w_of_parity parity]; push_cast; rfl
    have shift : (r.w : Int) - (s % r.w : Nat) + (r.dw + j : Nat) = (r.w : Int) - r.k + j - (s % r.w : Nat) + r.w := by
      push_cast
      linarith
    rw [shift, Int.add_emod_right]
  · rw [dataPos_of_parity parity, cast_rotated i rotation]

/-! ### Cells, positions and blocks (R29, R30, R35) -/

theorem cellPos_of_mirror {r : ArrayRec} (h : r.mirror = true) (s c : Nat) : r.cellPos s c = c := if_pos h

theorem posCell_of_mirror {r : ArrayRec} (h : r.mirror = true) (s p : Nat) : r.posCell s p = p := if_pos h

/-- The cells of a parity array, data chunks and parities alike, lie rotated by s mod W. -/
theorem cellPos_of_parity {r : ArrayRec} (h : r.mirror = false) (w : 0 < r.w) (s c : Nat) :
    r.cellPos s c = (r.w - s % r.w + c) % r.w := by
  unfold ArrayRec.cellPos
  rw [if_neg (nf' h)]
  split
  · exact dataPos_of_parity h s c 0
  · rw [parPos_of_parity h w, Nat.add_sub_cancel' (by omega)]

theorem posCell_of_parity {r : ArrayRec} (h : r.mirror = false) (s p : Nat) : r.posCell s p = (p + s % r.w) % r.w :=
  if_neg (nf' h)

theorem posCell_cellPos {r : ArrayRec} (s c : Nat) (h : c < r.w) :
    r.cellPos s c < r.w ∧ r.posCell s (r.cellPos s c) = c := by
  have w : 0 < r.w := Nat.zero_lt_of_lt h
  cases mirror : r.mirror with
  | true => rw [cellPos_of_mirror mirror, posCell_of_mirror mirror]; exact ⟨h, rfl⟩
  | false =>
    rw [cellPos_of_parity mirror w, posCell_of_parity mirror]
    exact ⟨Nat.mod_lt _ w, mod_back r.w (s % r.w) c (Nat.mod_lt s w).le h⟩

theorem cellPos_posCell {r : ArrayRec} (s p : Nat) (h : p < r.w) :
    r.posCell s p < r.w ∧ r.cellPos s (r.posCell s p) = p := by
  have w : 0 < r.w := Nat.zero_lt_of_lt h
  cases mirror : r.mirror with
  | true => rw [posCell_of_mirror mirror, cellPos_of_mirror mirror]; exact ⟨h, rfl⟩
  | false =>
    rw [cellPos_of_parity mirror w, posCell_of_parity mirror]
    refine ⟨Nat.mod_lt _ w, ?_⟩
    have rotation : s % r.w < r.w := Nat.mod_lt s w
    rw [Nat.add_mod_mod, show r.w - s % r.w + (p + s % r.w) = p + r.w by omega, Nat.add_mod_right, Nat.mod_eq_of_lt h]

theorem b_pos (r : ArrayRec) : 0 < r.b := Nat.mul_pos (by decide) (Nat.two_pow_pos _)

theorem mapBlock_lt (r : ArrayRec) (v : Vol) (blk : Nat) (h : 0 < r.dw) :
    (mapBlock r v blk).2.1 < r.dw ∧ (mapBlock r v blk).2.2 < r.b := by
  have inStripe : blk % r.sb < r.b * r.dw := Nat.mul_comm r.dw r.b ▸ Nat.mod_lt blk (Nat.mul_pos h (b_pos r))
  exact ⟨Nat.div_lt_of_lt_mul inStripe, Nat.mod_lt _ (b_pos r)⟩

theorem unmapBlock_mapBlock (r : ArrayRec) (v : Vol) (blk : Nat) :
    unmapBlock r v (mapBlock r v blk).1 (mapBlock r v blk).2.1 (mapBlock r v blk).2.2 = blk :=
  calc (v.base + blk / r.sb - v.base) * r.sb + blk % r.sb / r.b * r.b + blk % r.sb % r.b
      = blk / r.sb * r.sb + (blk % r.sb / r.b * r.b + blk % r.sb % r.b) := by
        rw [Nat.add_sub_cancel_left, Nat.add_assoc]
    _ = blk := by rw [Nat.div_add_mod', Nat.div_add_mod']

/-- Settles O59. -/
theorem placementInverse : Obligations.PlacementInverse := by
  refine ⟨fun r s c h => posCell_cellPos s c h, fun r s p h => cellPos_posCell s p h, fun r v blk h => ?_⟩
  obtain ⟨chunk, block⟩ := mapBlock_lt r v blk h
  exact ⟨chunk, block, unmapBlock_mapBlock r v blk⟩

end Sys2Proof.Proofs
end

section
/-! PROOF. The statement on the Ledger's entries, with what writes of the Keep leave alone. -/

namespace Sys2Proof.Proofs

open Sys2Proof.Machine Sys2Proof.Safety

/-! ### What writes of the Keep leave alone (R353 to R357) -/

/-- Wear shows in its count, in the warning registers and in a notice. -/
theorem addWear_frame (s : State) (page n : Nat) : s.addWear page n =
    { s with regs := (s.addWear page n).regs, rg := (s.addWear page n).rg, kp := (s.addWear page n).kp } := by
  unfold State.addWear
  dsimp only
  split <;> rfl

@[simp] theorem addWear_st (s : State) (page n : Nat) : (s.addWear page n).st = s.st := by
  rw [addWear_frame]

@[simp] theorem addWear_md (s : State) (page n : Nat) : (s.addWear page n).md = s.md := by
  rw [addWear_frame]

@[simp] theorem addWear_mem (s : State) (page n : Nat) : (s.addWear page n).mem = s.mem := by
  rw [addWear_frame]

/-- A word of the Keep changes besides the Keep what its wear changes. -/
theorem keepWord_frame (s : State) (off v : Nat) : s.keepWord off v =
    { s with regs := (s.keepWord off v).regs, rg := (s.keepWord off v).rg, kp := (s.keepWord off v).kp
             keep := (s.keepWord off v).keep } := by
  unfold State.keepWord
  split
  · rfl
  · rw [addWear_frame]

theorem keepWords_frame (l : List Nat) (s : State) (off : Nat) : s.keepWords off l =
    { s with regs := (s.keepWords off l).regs, rg := (s.keepWords off l).rg, kp := (s.keepWords off l).kp
             keep := (s.keepWords off l).keep } := by
  induction l generalizing s off with
  | nil => rfl
  | cons v t ih =>
    rw [State.keepWords, ih, keepWord_frame]

theorem keepPut_frame (s : State) (off : Nat) (bs : List Byte) : s.keepPut off bs =
    { s with regs := (s.keepPut off bs).regs, rg := (s.keepPut off bs).rg, kp := (s.keepPut off bs).kp
             keep := (s.keepPut off bs).keep } := keepWords_frame _ s off

/-! ### The Ledger's entries (R46, R98, R101, R102) -/

/-! Noting the change of a copy block changes the list of changed blocks alone. -/
@[simp] theorem lgTouch_regs (s : State) (arr seq : Nat) : (s.lgTouch arr seq).regs = s.regs := rfl
@[simp] theorem lgTouch_keep (s : State) (arr seq : Nat) : (s.lgTouch arr seq).keep = s.keep := rfl
@[simp] theorem lgTouch_mem (s : State) (arr seq : Nat) : (s.lgTouch arr seq).mem = s.mem := rfl
@[simp] theorem lgTouch_live (s : State) (arr seq : Nat) : (s.lgTouch arr seq).lg.live = s.lg.live := rfl

theorem lgWrite_seq (s : State) (r : LgReq) : (s.lgWrite r).1 = s.lgHead + 1 := rfl

theorem lgWrite_keep (s : State) (r : LgReq) :
    (s.lgWrite r).2.keep = (s.keepPut (lgSlot (s.lgHead + 1)) (lgBytes (s.lgHead + 1) r)).keep := by
  simp only [State.lgWrite, apply_ite State.keep, lgTouch_keep, ite_self]
  rfl

theorem lgWrite_mem (s : State) (r : LgReq) : (s.lgWrite r).2.mem = s.mem := by
  simp only [State.lgWrite, apply_ite State.mem, lgTouch_mem, ite_self]
  rw [keepPut_frame]
  rfl

theorem lgWrite_live (s : State) (r : LgReq) :
    (s.lgWrite r).2.lg.live = s.lg.live ++ [⟨s.lgHead + 1, r.kind, r.arr, r.stripe, r.gen, r.frame, false⟩] := by
  simp only [State.lgWrite, apply_ite (fun t : State => t.lg.live), lgTouch_live, ite_self]
  rw [keepPut_frame]
  rfl

theorem lgWrite_head (s : State) (r : LgReq) (lim : s.lgHead + 1 < 2 ^ 64) : (s.lgWrite r).2.lgHead = s.lgHead + 1 := by
  have regs : (s.lgWrite r).2.regs = ((s.keepPut (lgSlot (s.lgHead + 1)) (lgBytes (s.lgHead + 1) r)).setReg64
      Reg.LG_HEAD_LO (s.lgHead + 1)).regs := by
    simp only [State.lgWrite, apply_ite State.regs, lgTouch_regs, ite_self]
  have head : (s.lgWrite r).2.lgHead = _ := congrArg₂ (fun a b => a + b * 2 ^ 32)
    (State.reg_congr regs Reg.LG_HEAD_LO) (State.reg_congr regs (Reg.LG_HEAD_LO + 4))
  exact head.trans ((reg64_set _ _ _).trans (Nat.mod_eq_of_lt lim))

/-- The 32 bytes of an entry, written as four words, read back as they are. -/
theorem keepN_keepPut_entry (s : State) (off : Nat) (bs : List Byte) (len : bs.length = 32) (wf : memWf s.keep = true)
    (go : s.kp.inhibit = false) : (s.keepPut off bs).keepN off 32 = bs := by
  have words : (toWords bs).length = 4 := by simp [toWords, len]
  obtain ⟨read, -, -⟩ := keepWords_read (toWords bs) s off wf go
  rw [words, words_back bs len] at read
  exact read

theorem lgGrant_of_pick {s : State} {r : LgReq} (pick : s.lgPick = some r) (go : s.kp.inhibit = false) : ∃ u : State,
    u = { s with lg.reqs := s.lg.reqs.erase r, lg.rr := mapSet s.lg.rr (lgRank r.kind) r.unit } ∧
    s.lgGrant = (((u.lgWrite r).2.lgCont r (u.lgWrite r).1).lgForce).lgCountWaits := by
  refine ⟨_, rfl, ?_⟩
  unfold State.lgGrant
  rw [go, if_neg Bool.false_ne_true, pick]

theorem lgGrant_of_nothing {s : State} (h : s.kp.inhibit = true ∨ s.lgPick = none) : s.lgGrant = s := by
  have nothing : (if s.kp.inhibit then none else s.lgPick) = none := by
    rcases h with h | h
    · rw [if_pos h]
    · rw [h, ite_self]
  unfold State.lgGrant
  rw [nothing]

theorem execLedgerEntryGrant_eq (s : State) : exec .ledgerEntryGrant s = .next s.lgGrant.settle := rfl

theorem exec_statePageTimer_due {a p t : Nat} {r : ArrayRec} {s : State} (page : mapGet? s.st.pages (65536 * a + p) = some t)
    (arr : s.arr? a = some r) (up : s.pfd = false) (come : s.due t 1000000 = true ∨ s.lgForced a p = true)
    (idle : s.pageWriting a p = false) : exec (.statePageTimer a p) s = .next (s.pageGo a p t r) := by
  have go : ¬(s.pfd = true ∨ (!(s.due t 1000000 || s.lgForced a p)) = true ∨ s.pageWriting a p = true) := by
    rw [up, idle]
    rcases come with h | h <;> simp [h]
  show execStatePageTimer a p s = _
  unfold execStatePageTimer
  rw [page, arr]
  exact congrArg Host.Outcome.next (if_neg go)

theorem exec_copyBlockTimer_due {a k t : Nat} {s : State} (copy : mapGet? s.lg.copies (1024 * a + k) = some t)
    (up : s.pfd = false) (come : s.due t s.copyUs = true) : exec (.copyBlockTimer a k) s = .next (s.copyAsk a k) := by
  have go : ¬(s.pfd = true ∨ (!s.due t s.copyUs) = true) := by rw [up, come]; simp
  show execCopyBlockTimer a k s = _
  unfold execCopyBlockTimer
  rw [copy]
  exact congrArg Host.Outcome.next (if_neg go)

/-- Settles O36. -/
theorem ledgerEntry : Obligations.LedgerEntry := by
  refine ⟨fun r s pick go => ?_, fun s h => ?_, fun r s wf go lim => ?_,
    fun a p t r s page arr up come idle => exec_statePageTimer_due page arr up come idle,
    fun a k t s copy up come => exec_copyBlockTimer_due copy up come⟩
  · obtain ⟨u, hu, grant⟩ := lgGrant_of_pick pick go
    exact ⟨u, hu, by rw [execLedgerEntryGrant_eq, grant]⟩
  · rw [execLedgerEntryGrant_eq, lgGrant_of_nothing h]
  · refine ⟨lgWrite_seq s r, lgWrite_head s r lim, ?_, lgWrite_mem s r, lgWrite_live s r⟩
    rw [State.keepN, lgWrite_keep]
    exact keepN_keepPut_entry s _ _ (lgBytes_length _ r) wf go

end Sys2Proof.Proofs
end

section
/-! PROOF. The statements on volumes and on the admin commands for arrays, volumes and spares. -/

namespace Sys2Proof.Proofs

open Sys2Proof.Machine Sys2Proof.Safety

/-! ### Records of the Keep -/

theorem keepRec_allowed {s : State} (go : s.kp.inhibit = false) (id : Nat) (f : State → State) :
    s.keepRec id f = (f s).addWear (Config.settingsPage id) 1 := if_neg (nf' go)

/-- A record stored in the Keep leaves alone every part of the state its store and wear leave alone. -/
theorem keepRec_same {α : Type} (φ : State → α) (s : State) (id : Nat) (f : State → State) (store : φ (f s) = φ s)
    (wear : ∀ (t : State) page n, φ (t.addWear page n) = φ t) (count : ∀ (t : State) k, φ (t.bump k) = φ t) :
    φ (s.keepRec id f) = φ s := by
  unfold State.keepRec
  split
  · exact count s _
  · exact (wear _ _ _).trans store

/-! ### Volumes (R50) -/

theorem vol_setVol_same {s : State} (go : s.kp.inhibit = false) (n : Nat) (v : Vol) : (s.setVol n v).vol? n = some v := by
  obtain ⟨vols, -⟩ := setVol_f s n v go
  rw [State.vol?, vols, mapGet_mapSet_same]

theorem vol_setVol_ne {s : State} (go : s.kp.inhibit = false) (n : Nat) (v : Vol) {w : Nat} (h : w ≠ n) :
    (s.setVol n v).vol? w = s.vol? w := by
  obtain ⟨vols, -⟩ := setVol_f s n v go
  rw [State.vol?, vols, mapGet_mapSet_ne _ _ _ _ h, State.vol?]

theorem vol_adminEnd (s : State) (h st r w : Nat) : (s.adminEnd h st r).vol? w = s.vol? w := by
  rw [State.vol?, (adminEnd_f s h st r).1, State.vol?]

/-- The record VOLUME_CREATE stores for a volume whose stripes begin at base. -/
def newVol (c : Cmd) (base : Nat) : Vol :=
  { cls := Ent.p1 c.ent % 4, arr := Ent.tgt c.ent, base := base, count := Ent.p0 c.ent, deleting := false
    prio := bits (Ent.p1 c.ent) 18 16, deadline := Ent.p2 c.ent }

/-- VOLUME_CREATE with a free number and a free run: its record is stored, and the command ends. -/
theorem volumeCreate_eq {v base : Nat} {c : Cmd} {r : ArrayRec} {s : State}
    (number : (List.range 256).find? (fun v => (s.vol? v).isNone) = some v) (arr : s.arr? (Ent.tgt c.ent) = some r)
    (run : firstFit (s.volRuns (Ent.tgt c.ent)) (Ent.p0 c.ent) r.count = some base) (go : s.kp.inhibit = false) :
    ∃ u : State, s.volumeCreate c = u.adminEnd c.h St.success v ∧ u.vol? v = some (newVol c base) ∧
      (∀ w, w ≠ v → u.vol? w = s.vol? w) ∧ u.mem = s.mem := by
  have parts : ∀ {p : Prop} [Decidable p] (t : State) (l : List Nat),
      (if p then { t with sv.ready := l } else t).st = t.st ∧ (if p then { t with sv.ready := l } else t).mem = t.mem := by
    intro p _ t l
    split <;> exact ⟨rfl, rfl⟩
  unfold State.volumeCreate
  simp only [number, arr, run]
  refine ⟨_, rfl, ?_, fun w h => ?_, ?_⟩
  · rw [State.vol?, (parts _ _).1]
    exact vol_setVol_same go v _
  · rw [State.vol?, (parts _ _).1]
    exact vol_setVol_ne go v _ h
  · rw [(parts _ _).2]
    exact (setVol_f s v _ go).2

/-- Streams of a volume that turn DELETING leave volume records and memory alone. -/
theorem streamsDeleting_same {α : Type} (φ : State → α) (l : List (Nat × Stream)) (s : State)
    (stream : ∀ (t : State) n x, φ (t.setStream n x) = φ t)
    (wear : ∀ (t : State) page n, φ (t.addWear page n) = φ t) (count : ∀ (t : State) k, φ (t.bump k) = φ t) :
    φ (l.foldl (fun s e => s.keepRec (Reg.SV_LCFG + e.1) fun s => s.updStream e.1 fun x => { x with state := 3 }) s) = φ s := by
  refine foldl_same rfl fun t e same => (keepRec_same φ t _ _ ?_ wear count).trans same
  unfold State.updStream
  split
  · exact stream t _ _
  · rfl

theorem volumeDelete_eq {c : Cmd} {v : Vol} {s : State} (vol : s.vol? (Ent.tgt c.ent) = some v) (go : s.kp.inhibit = false) :
    (s.volumeDelete c).vol? (Ent.tgt c.ent) = some { v with deleting := true } ∧
    (∀ w, w ≠ Ent.tgt c.ent → (s.volumeDelete c).vol? w = s.vol? w) ∧ (s.volumeDelete c).mem = s.mem := by
  have go' : (s.goLong c).kp.inhibit = false := go
  unfold State.volumeDelete
  simp only [vol]
  refine ⟨?_, fun w h => ?_, ?_⟩
  · rw [State.vol?, streamsDeleting_same State.st _ _ (fun _ _ _ => rfl) addWear_st (fun _ _ => rfl)]
    exact vol_setVol_same go' _ _
  · rw [State.vol?, streamsDeleting_same State.st _ _ (fun _ _ _ => rfl) addWear_st (fun _ _ => rfl)]
    exact vol_setVol_ne go' _ _ h
  · rw [streamsDeleting_same State.mem _ _ (fun _ _ _ => rfl) addWear_mem (fun _ _ => rfl)]
    exact (setVol_f (s.goLong c) _ _ go').2

theorem volumeSet_eq {c : Cmd} {v : Vol} {s : State} (vol : s.vol? (Ent.tgt c.ent) = some v) :
    s.volumeSet c = (s.setVol (Ent.tgt c.ent) { v with
      deadline := if bit (Ent.p1 c.ent) 0 then Ent.p2 c.ent else v.deadline
      prio := if bit (Ent.p1 c.ent) 1 then bits (Ent.p1 c.ent) 18 16 else v.prio }).adminEnd c.h St.success 0 := by
  unfold State.volumeSet
  simp only [vol]

theorem exec_volumeDeleteProceed_free {n : Nat} {v : Vol} {s : State} (vol : s.vol? n = some v) (deleting : v.deleting = true)
    (busy : s.volBusy n = false) (tasks : s.volTasks n = false) : exec (.volumeDeleteProceed n) s =
      .next ((s.volFramesGo n).addTask (.volDelete (s.volDelH n) n) v.arr v.base 0 0 (.step 0)).2 := by
  have go : ¬(v.deleting = false ∨ s.volBusy n = true ∨ s.volTasks n = true) := by rw [deleting, busy, tasks]; simp
  show execVolumeDeleteProceed n s = _
  unfold execVolumeDeleteProceed
  rw [vol]
  exact congrArg Host.Outcome.next (if_neg go)

theorem exec_nonceExpiry_due {n : Nonce} {s : State} (nonce : s.kp.nonce = some n) (come : s.due n.at_ 60000000 = true) :
    exec .nonceExpiry s = .next { s with kp.nonce := none } := by
  show execNonceExpiry s = _
  unfold execNonceExpiry
  rw [nonce]
  exact congrArg Host.Outcome.next (if_pos come)

/-- Settles O30. -/
theorem volumes : Obligations.Volumes := by
  refine ⟨fun v base c r s number arr run go => ?_, fun c v s vol go => volumeDelete_eq vol go,
    fun n v s vol deleting busy tasks => exec_volumeDeleteProceed_free vol deleting busy tasks,
    fun n s nonce come => exec_nonceExpiry_due nonce come⟩
  obtain ⟨u, e, stored, others, mem⟩ := volumeCreate_eq number arr run go
  rw [e]
  exact ⟨(vol_adminEnd ..).trans stored, fun w h => (vol_adminEnd ..).trans (others w h), (adminEnd_f ..).2.trans mem⟩

/-! ### Admin commands whose turn has come (R343) -/

theorem h_of_cmd {s : State} {h : Nat} {c : Cmd} (e : s.cmd? h = some c) : c.h = h := by
  simpa using List.find?_some e

theorem adminReady_h {s : State} {h o : Nat} {c : Cmd} (ready : adminReady s h o c) : c.h = h := by
  obtain ⟨named, -⟩ := ready
  exact h_of_cmd named

/-- A command whose checks pass and whose data is at hand acts. -/
theorem adminRun_acts {s : State} {h o : Nat} {c : Cmd} (ready : adminReady s h o c) (pass : s.check c = St.success)
    (data : c.dataIn = true) (act : State → Cmd → State) : s.adminRun h o act = act s c := by
  rw [ad_step ready act, if_neg (not_not.mpr pass), if_pos data]

/-! ### ARRAY_CREATE (R48, R49) -/

theorem arr_setArr_same {s : State} (go : s.kp.inhibit = false) (a : Nat) (r : ArrayRec) : (s.setArr a r).arr? a = some r := by
  rw [State.setArr, keepRec_allowed go, State.arr?, addWear_st]
  exact mapGet_mapSet_same _ _ _

theorem setArr_md (s : State) (a : Nat) (r : ArrayRec) : (s.setArr a r).md = s.md :=
  keepRec_same State.md s _ _ rfl addWear_md (fun _ _ => rfl)

/-- A write through the State Cache changes memory and the cache. -/
theorem scWrite_frame (s : State) (a : Nat) (bs : List Byte) : s.scWrite a bs =
    { s with mem := (s.scWrite a bs).mem, sc := (s.scWrite a bs).sc } := by
  unfold State.scWrite State.scBufPut State.scLinePut
  dsimp only
  split
  · rfl
  · split
    · split <;> rfl
    · rfl

theorem setSst_arrays (s : State) (a stripe v : Nat) : (s.setSst a stripe v).st.arrays = s.st.arrays := by
  unfold State.setSst
  split
  · rw [scWrite_frame]
  · rfl

theorem setSst_md (s : State) (a stripe v : Nat) : (s.setSst a stripe v).md = s.md := by
  unfold State.setSst
  split
  · rw [scWrite_frame]
  · rfl

/-- Clearing the entries of an array leaves alone what clearing one entry leaves alone. -/
theorem clearEntries_same {α : Type} (φ : State → α) (one : ∀ (t : State) a stripe v, φ (t.setSst a stripe v) = φ t)
    (s : State) (a n : Nat) : φ (s.clearEntries a n) = φ s := by
  refine foldl_same rfl fun t stripe same => ?_
  split
  · exact same
  · exact (one t a stripe 0).trans same

/-- The record of a new array: the geometry asked for, at its place in the table and on its ports. -/
def newArr (s : State) (base n : Nat) (r : ArrayRec) (ports : List Nat) : ArrayRec :=
  { r with base := base, count := n, pos := ports, ident := bytesAt (Config.freeBytes s.free 16) 0 16
           created := s.time % 2 ^ 48, labelGen := List.replicate r.w 0, nguid := ports.map fun p => (s.port p).nguid }

theorem createStart_eq (s : State) (c : Cmd) (a base n : Nat) (r : ArrayRec) (ports : List Nat) :
    s.createStart c a base n r ports =
      ((((({ s with free := s.free + 1 } : State).setArr a (newArr s base n r ports)).clearEntries a n).setCmd
        { c with ph := .moving }).addTask (.create c.h) a 0 0 0 (.step 0)).2 := rfl

theorem createStart_arr {s : State} (go : s.kp.inhibit = false) (c : Cmd) (a base n : Nat) (r : ArrayRec) (ports : List Nat) :
    (s.createStart c a base n r ports).arr? a = some (newArr s base n r ports) :=
  (congrArg (mapGet? · a) (clearEntries_same (fun t => t.st.arrays) setSst_arrays _ a n)).trans
    (arr_setArr_same (s := { s with free := s.free + 1 }) go a _)

theorem createStart_task (s : State) (c : Cmd) (a base n : Nat) (r : ArrayRec) (ports : List Nat) :
    ∃ t, (s.createStart c a base n r ports).md.tasks = s.md.tasks ++ [t] ∧ t.kind = .create c.h ∧ t.arr = a := by
  rw [createStart_eq]
  generalize hu : (({ s with free := s.free + 1 } : State).setArr a (newArr s base n r ports)).clearEntries a n = u
  have md : u.md = s.md := by rw [← hu, clearEntries_same State.md setSst_md, setArr_md]
  obtain ⟨⟨t, tasks, kind, arr, -⟩, -⟩ := addTask_spec (u.setCmd { c with ph := .moving }) (.create c.h) a 0 0 0 (.step 0)
  exact ⟨t, tasks.trans (by rw [State.setCmd_md, md]), kind, arr⟩

/-- The status of ARRAY_CREATE's conditions of Table 15-7, for the geometry, ports and size its operands give. -/
def createStatus (s : State) (c : Cmd) (r : ArrayRec) (ports : List Nat) (n : Nat) : Nat := firstSt [
  (decide (s.st.arrays.length ≥ 4), St.limit),
  (ports.any s.portAbsent, St.memberAbsent),
  (ports.any (fun p => s.assigned p || s.portUnfit p r.meta_) || ports.eraseDups.length != ports.length || !metaFits r ||
    decide (s.stripeRoom r ports < max 1 (Ent.p0 c.ent)), St.memberUnsuitable),
  (n == 0 || (firstFit s.entryRanges n sstEntries).isNone, St.noSpace),
  (Ent.tgt c.ent != 0xFFFF && (s.arr? (Ent.tgt c.ent)).isSome, St.inUse)]

section
variable {c : Cmd} {s : State} {r : ArrayRec} {ports : List Nat} {n base : Nat}

theorem arrayCreate_eq (geometry : r = { cfgOf (Ent.p1 c.ent) with h := s.fld Reg.ST_LAYOUT 4 0 * 262144 })
    (map : ports = mapPorts r c.adminData)
    (size : n = if Ent.p0 c.ent = 0 then min s.entryRoom (s.stripeRoom r ports) else Ent.p0 c.ent) :
    s.arrayCreate c =
      if createStatus s c r ports n ≠ St.success then s.adminEnd c.h (createStatus s c r ports n) 0
      else s.createStart c (if Ent.tgt c.ent = 0xFFFF then ((List.range 4).find? fun a => (s.arr? a).isNone).getD 0
        else Ent.tgt c.ent) ((firstFit s.entryRanges n sstEntries).getD 0) n r ports := by
  subst geometry map size
  rfl

theorem createStatus_limit (full : 4 ≤ s.st.arrays.length) : createStatus s c r ports n = St.limit :=
  if_pos (decide_eq_true full)

theorem createStatus_success (few : s.st.arrays.length < 4)
    (free : ∀ p ∈ ports, s.portAbsent p = false ∧ s.assigned p = false ∧ s.portUnfit p r.meta_ = false)
    (distinct : ports.eraseDups.length = ports.length) (fits : metaFits r = true)
    (room : max 1 (Ent.p0 c.ent) ≤ s.stripeRoom r ports) (stripes : 0 < n)
    (place : firstFit s.entryRanges n sstEntries = some base) (unused : s.arr? (Ent.tgt c.ent) = none) :
    createStatus s c r ports n = St.success := by
  have present : ports.any s.portAbsent = false := List.any_eq_false.mpr fun p hp => nf' (free p hp).1
  have suitable : (ports.any fun p => s.assigned p || s.portUnfit p r.meta_) = false := by
    refine List.any_eq_false.mpr fun p hp => ?_
    obtain ⟨-, unassigned, fit⟩ := free p hp
    rw [unassigned, fit]
    decide
  unfold createStatus
  rw [present, suitable, distinct, fits, place, unused]
  simp [firstSt, Nat.not_le.mpr few, Nat.not_lt.mpr room, stripes.ne']

end

/-! ### ARRAY_DELETE (R51) -/

theorem deleteStart_task (s : State) (a h st : Nat) :
    ∃ t, (s.deleteStart a h st).md.tasks.getLast? = some t ∧ t.kind = .delete h ∧ t.arr = a := by
  unfold State.deleteStart
  dsimp only
  generalize State.updCmd _ h _ = u
  obtain ⟨⟨t, tasks, kind, arr, -⟩, -⟩ := addTask_spec u (.delete h) a 0 0 0 (.step 0)
  exact ⟨t, by rw [tasks, List.getLast?_concat], kind, arr⟩

theorem arrayDelete_starts {c : Cmd} {s : State} (empty : (s.st.vols.any fun e => e.2.arr == Ent.tgt c.ent) = false)
    (idle : s.arrIn (Ent.tgt c.ent) 3 = false) :
    s.arrayDelete c = (s.goLong c).deleteStart (Ent.tgt c.ent) c.h St.success := by
  unfold State.arrayDelete
  dsimp only
  rw [if_neg (nf' empty), if_neg (nf' idle)]

theorem arrayDelete_inUse {c : Cmd} {s : State} (used : (s.st.vols.any fun e => e.2.arr == Ent.tgt c.ent) = true) :
    s.arrayDelete c = s.adminEnd c.h St.inUse 0 := if_pos used

/-! ### SPARE_SET (R48, R247, R248) -/

theorem spareSet_clears {c : Cmd} {s : State} (clear : bit (Ent.p1 c.ent) 0 = false) : s.spareSet c =
    ((s.keepRec (Reg.ST_SPARE (Ent.tgt c.ent)) fun s => { s with
      st.spares := mapErase s.st.spares (Ent.tgt c.ent) }).sbSync.tlUpdate).adminEnd c.h St.success 0 :=
  if_pos (by rw [clear]; rfl)

theorem spareSet_sets {c : Cmd} {s : State} {p : Nat} (set : bit (Ent.p1 c.ent) 0 = true) (hp : p = bits (Ent.p1 c.ent) 5 1)
    (present : (s.port p).state ≠ Ps.absent) (accepted : (s.port p).state ≠ Ps.rejected) (free : s.portPos p = none)
    (spare : (s.st.spares.any fun e => e.1 != Ent.tgt c.ent && e.2.port == p) = false)
    (fit : s.spareUnfit p (bits (Ent.p1 c.ent) 11 8) = false) : s.spareSet c =
      ((s.keepRec (Reg.ST_SPARE (Ent.tgt c.ent)) fun s => { s with
        st.spares := mapSet s.st.spares (Ent.tgt c.ent) ⟨p, bits (Ent.p1 c.ent) 11 8⟩ }).orphansTake.sbSync.tlUpdate).adminEnd
        c.h St.success 0 := by
  unfold State.spareSet
  simp only [← hp]
  have pass : firstSt [((s.port p).state == Ps.absent, St.memberAbsent),
      ((s.portPos p).isSome || (s.st.spares.any fun e => e.1 != Ent.tgt c.ent && e.2.port == p) ||
        (s.port p).state == Ps.rejected || s.spareUnfit p (bits (Ent.p1 c.ent) 11 8), St.memberUnsuitable)] = St.success := by
    rw [free, spare, fit, beq_false_of_ne present, beq_false_of_ne accepted]
    rfl
  rw [set, pass, if_neg (by decide), if_neg (not_not.mpr rfl)]

/-! ### REBUILD_IN_PLACE (R248), STRIPE_RELEASE (R97) and imports (R108, R173) -/

theorem inPlace_takes {c : Cmd} {s : State} {r : ArrayRec} (arr : s.arr? (Ent.tgt c.ent) = some r)
    (present : (s.port (r.port (Ent.p1 c.ent))).state ≠ Ps.absent) (ok : s.inPlaceOk (r.port (Ent.p1 c.ent)) r = true) :
    s.inPlace c =
      (s.takeTarget (Ent.tgt c.ent) (Ent.p1 c.ent) (r.port (Ent.p1 c.ent)) true).adminEnd c.h St.success 0 := by
  unfold State.inPlace
  simp only [arr]
  rw [if_neg present, if_neg (by rw [ok]; decide)]

/-- A request for an entry stands in the list; counting its wait marks it, no more. -/
theorem lgAsk_reqs (s : State) (r : LgReq) : ∃ counted, { r with counted := counted } ∈ (s.lgAsk r).lg.reqs := by
  unfold State.lgAsk State.lgCountWaits
  dsimp only
  generalize List.filter _ _ = waits
  refine ⟨waits.contains { r with counted := false }, List.mem_map.mpr ⟨{ r with counted := false }, by simp, ?_⟩⟩
  cases waits.contains { r with counted := false } <;> rfl

theorem arrayImport_starts {c : Cmd} {s : State} (few : s.st.arrays.length < 4) :
    (s.arrayImport c).flag Reg.LG_STATUS 5 = true ∧
      ∃ t, (s.arrayImport c).md.tasks = s.md.tasks ++ [t] ∧ t.kind = .import_ c.h := by
  unfold State.arrayImport
  rw [if_neg (Nat.not_le.mpr few)]
  exact ⟨State.flag_setFlag_same _ _ _ _ (by decide), _, rfl, rfl⟩

theorem imageImport_starts {c : Cmd} {s : State} (none_ : s.hm.restore = none) : ∃ x, (s.imageImport c).hm.restore = some x ∧
    x.step = 10 ∧ x.cmd = c.h ∧ (s.imageImport c).mem = s.mem ∧ (s.imageImport c).keep = s.keep := by
  unfold State.imageImport
  rw [none_]
  exact ⟨_, rfl, rfl, rfl, rfl, rfl⟩

/-! ### The commands as rows -/

/-- Settles O29: each command acts once its checks have passed, and what it does is said above. -/
theorem arrayAdmin : Obligations.ArrayAdmin := by
  intro h o c s ready pass data
  obtain rfl : c.h = h := adminReady_h ready
  have row : ∀ (act : State → Cmd → State) {t : State}, act s c = t →
      Host.Outcome.next (s.adminRun c.h o act).settle = (.next t.settle : Out) := fun act t e => by
    rw [adminRun_acts ready pass data act, e]
  refine ⟨⟨?_, ?_, ?_, ?_⟩, ⟨?_, ?_, ?_⟩, ⟨?_, ?_, ?_, ?_⟩, ?_, ?_, ?_⟩
  · rintro r ports n base rfl geometry map size few free distinct fits room stripes place numbered unused go
    have starts : s.arrayCreate c = s.createStart c (Ent.tgt c.ent) base n r ports := by
      rw [arrayCreate_eq geometry map size, createStatus_success few free distinct fits room stripes place unused,
        if_neg (not_not.mpr rfl), if_neg numbered, place]
      rfl
    obtain ⟨t, tasks, kind, arr⟩ := createStart_task s c (Ent.tgt c.ent) base n r ports
    exact ⟨_, _, t, row State.arrayCreate starts, createStart_arr go .., rfl, rfl, rfl, rfl, rfl, rfl, rfl, tasks, kind, arr⟩
  · rintro rfl full
    refine row State.arrayCreate ?_
    rw [arrayCreate_eq rfl rfl rfl, createStatus_limit full]
    rfl
  · rintro rfl empty idle
    obtain ⟨t, last⟩ := deleteStart_task (s.goLong c) (Ent.tgt c.ent) c.h St.success
    exact ⟨_, t, row State.arrayDelete (arrayDelete_starts empty idle), last⟩
  · rintro rfl used
    exact row State.arrayDelete (arrayDelete_inUse used)
  · rintro v base r rfl number arr run go
    obtain ⟨u, e, stored, others, -⟩ := volumeCreate_eq number arr run go
    exact ⟨u, row State.volumeCreate e, stored, others⟩
  · rintro v rfl vol go
    obtain ⟨deleting, others, -⟩ := volumeDelete_eq vol go
    exact ⟨_, row State.volumeDelete rfl, deleting, others⟩
  · rintro v rfl vol go
    exact ⟨_, row State.volumeSet (volumeSet_eq vol), vol_setVol_same go _ _, fun w hw => vol_setVol_ne go _ _ hw⟩
  · rintro rfl clear go
    refine ⟨_, row State.spareSet (spareSet_clears clear), ?_⟩
    rw [keepRec_allowed go, addWear_st]
    exact ⟨rfl, rfl, rfl⟩
  · rintro p rfl set hp present accepted free spare fit go
    refine ⟨_, row State.spareSet (spareSet_sets set hp present accepted free spare fit), ?_⟩
    rw [keepRec_allowed go, addWear_st]
    exact ⟨mapGet_mapSet_same _ _ _, rfl⟩
  · rintro rfl
    exact row (fun s c => (s.failMember (Ent.p1 c.ent) 8).adminEnd c.h St.success 0) rfl
  · rintro r rfl arr present ok
    exact row State.inPlace (inPlace_takes arr present ok)
  · rintro rfl
    obtain ⟨counted, asked⟩ := lgAsk_reqs (s.setCmd { c with ph := .moving }) {
      unit := 1, kind := Lk.close, arr := Ent.tgt c.ent, stripe := Ent.p0 c.ent, gen := s.genNow (Ent.tgt c.ent) (Ent.p0 c.ent)
      mask := 0, frame := 0xFFFFE, dump := [], cont := .release c.h, counted := false }
    exact ⟨_, _, row State.stripeRelease rfl, asked, rfl, rfl, rfl, rfl, rfl, rfl⟩
  · rintro rfl few
    obtain ⟨flag, t, tasks, kind⟩ := arrayImport_starts few
    exact ⟨_, t, row State.arrayImport rfl, flag, tasks, kind⟩
  · rintro rfl none_
    obtain ⟨x, restore, step, cmd, mem, keep⟩ := imageImport_starts none_
    exact ⟨_, x, row State.imageImport rfl, restore, step, cmd, mem, keep⟩

end Sys2Proof.Proofs
end

section
/-! PROOF. The statement on the Larder's rows: frames, destage, write-back, the probe and waits. -/

namespace Sys2Proof.Proofs

open Sys2Proof.Machine Sys2Proof.Safety

/-! ### Frames and the timers that make them READY (R75) -/

@[simp] theorem frame_setFrame_same (s : State) (n : Nat) (f : Frame) : (s.setFrame n f).frame? n = some f :=
  mapGet_mapSet_same _ _ _

theorem updFrame_of_frame {s : State} {n : Nat} {f : Frame} (frame : s.frame? n = some f) (g : Frame → Frame) :
    s.updFrame n g = s.setFrame n (g f) := by
  unfold State.updFrame
  rw [frame]

theorem toReady_of_filling {n cls : Nat} {f : Frame} {s : State} (frame : s.frame? n = some f) (filling : f.state = Fs.filling) :
    s.toReady n cls =
      { s.setFrame n { f with state := Fs.ready, cls := cls, order := s.ld.nextOrder, faulted := false } with
        ld.nextOrder := s.ld.nextOrder + 1 } := by
  unfold State.toReady
  simp only [frame]
  rw [if_pos (.inl filling)]

theorem exec_idleTimerExpiry_due {n : Nat} {f : Frame} {s : State} (frame : s.frame? n = some f)
    (filling : f.state = Fs.filling) (come : s.due f.idleAt (s.idleUs f) = true) :
    exec (.idleTimerExpiry n) s = .next (s.toReady n 2) := by
  show execIdleTimerExpiry n s = _
  unfold execIdleTimerExpiry
  rw [frame]
  exact congrArg Host.Outcome.next (if_pos ⟨filling, come⟩)

theorem exec_ageLimitExpiry_due {n : Nat} {f : Frame} {s : State} (frame : s.frame? n = some f)
    (filling : f.state = Fs.filling) (come : s.due f.ageAt (1000 * clampN 100 60000 (s.fld Reg.LD_AGE 15 0)) = true) :
    exec (.ageLimitExpiry n) s = .next (s.toReady n 2) := by
  show execAgeLimitExpiry n s = _
  unfold execAgeLimitExpiry
  rw [frame]
  exact congrArg Host.Outcome.next (if_pos ⟨filling, come⟩)

/-! ### Destage (R76) -/

theorem destageNext_takes {n : Nat} {f : Frame} {s : State} (on : s.ld.destageStopped = false)
    (place : s.destaging < s.destageMax) (next : s.nextDestage = some (n, f)) (replayed : s.lg.replayed.testBit f.arr = true) :
    s.destageNext = s.destageGo n f := by
  have go : ¬(s.ld.destageStopped = true ∨ s.destaging ≥ s.destageMax) := by
    rw [on]
    simp only [Bool.false_eq_true, false_or]
    omega
  unfold State.destageNext
  rw [if_neg go, next]
  exact if_pos replayed

/-- A destage counts itself, moves its frame on, and has a task of its own. -/
theorem destageGo_eq {n : Nat} {f : Frame} {r : ArrayRec} {s : State} (frame : s.frame? n = some f)
    (arr : s.arr? f.arr = some r) : ∃ k, s.destageGo n f =
      (((s.bump k).setFrame n { f with state := if f.full r then Fs.destaging else Fs.fillread }).addTask (.destage n) f.arr
        f.stripe 0 r.b (.step 0)).2 := by
  refine ⟨if f.cls = 1 then Reg.LD_DST_FULL else if f.cls = 2 then Reg.LD_DST_PARTIAL else Reg.LD_DST_WT, ?_⟩
  unfold State.destageGo
  generalize (if f.cls = 1 then Reg.LD_DST_FULL else if f.cls = 2 then Reg.LD_DST_PARTIAL else Reg.LD_DST_WT) = k
  have arr' : (s.bump k).arr? f.arr = some r := arr
  have frame' : (s.bump k).frame? n = some f := frame
  have kept : ∀ g : Frame, ((s.bump k).setFrame n g).arr? f.arr = some r := fun g => arr
  simp only [arr', updFrame_of_frame frame', kept]

theorem destageGo_effect {n : Nat} {f : Frame} {r : ArrayRec} {s : State} (frame : s.frame? n = some f)
    (arr : s.arr? f.arr = some r) :
    (s.destageGo n f).frame? n = some { f with state := if f.full r then Fs.destaging else Fs.fillread } ∧
    (∃ t, (s.destageGo n f).md.tasks = s.md.tasks ++ [t] ∧ t.kind = .destage n ∧ t.arr = f.arr ∧ t.stripe = f.stripe) ∧
    (s.destageGo n f).mem = s.mem := by
  obtain ⟨k, e⟩ := destageGo_eq frame arr
  rw [e]
  exact ⟨frame_setFrame_same (s.bump k) n _, ⟨_, rfl, rfl, rfl, rfl⟩, rfl⟩

/-! ### Write-back (R84, R85) -/

/-- With no command in hand and none waiting for credit, there is no write to turn write-through. -/
theorem wbDrop_of_idle {s : State} (cmds : s.cmds = []) (waits : s.tl.waitQ = []) : s.wbDrop = s := by
  unfold State.wbDrop
  rw [cmds]
  simp only [List.filter_nil, List.foldl_nil, waits, ite_eq_left_iff]
  intro _
  rw [← waits]

theorem wtCheck_of_drained {s : State} (draining : s.flag Reg.LD_STATUS 1 = true)
    (clean : (s.ld.frames.any fun e => e.2.hasDirty && e.2.state != Fs.parked) = false) :
    s.wtCheck.flag Reg.LD_STATUS 0 = true ∧ s.wtCheck.flag Reg.LD_STATUS 1 = false := by
  unfold State.wtCheck
  rw [if_pos ⟨draining, by rw [clean]; rfl⟩]
  exact ⟨by rw [State.flag_setFlag_bit _ _ _ _ _ (by decide) (by decide), State.flag_setFlag_same _ _ _ _ (by decide)],
    State.flag_setFlag_same _ _ _ _ (by decide)⟩

theorem wbClearing_flags (s : State) :
    ((s.setFlag Reg.LD_CTRL 0 false).setFlag Reg.LD_STATUS 1 true).flag Reg.LD_CTRL 0 = false ∧
    ((s.setFlag Reg.LD_CTRL 0 false).setFlag Reg.LD_STATUS 1 true).flag Reg.LD_STATUS 1 = true :=
  ⟨by rw [State.flag_setFlag_ne _ _ _ _ _ _ (by decide), State.flag_setFlag_same _ _ _ _ (by decide)],
    State.flag_setFlag_same _ _ _ _ (by decide)⟩

theorem wbSet_flags (s : State) : s.wbSet.flag Reg.LD_CTRL 0 = true ∧ s.wbSet.flag Reg.LD_STATUS 0 = false ∧
    s.wbSet.flag Reg.LD_STATUS 1 = false := by
  unfold State.wbSet
  refine ⟨?_, ?_, State.flag_setFlag_same _ _ _ _ (by decide)⟩
  · rw [State.flag_setFlag_ne _ _ _ _ _ _ (by decide), State.flag_setFlag_ne _ _ _ _ _ _ (by decide),
      State.flag_setFlag_same _ _ _ _ (by decide)]
  · rw [State.flag_setFlag_bit _ _ _ _ _ (by decide) (by decide), State.flag_setFlag_same _ _ _ _ (by decide)]

/-! ### The probe (R81) -/

/-- The block selected is in the Larder: the probe latches its state and address. -/
theorem ldProbe_found {v : Vol} {r : ArrayRec} {x : Slot} {suc : Bool} {n stripe i o : Nat} {f : Frame} {s : State}
    (vol : s.vol? (s.fld Reg.LD_PROBE_SEL 7 0) = some v) (arr : s.arr? v.arr = some r)
    (place : mapBlock r v (s.reg Reg.LD_PROBE_BLK_LO + s.reg Reg.LD_PROBE_BLK_HI * 2 ^ 32) = (stripe, i, o))
    (inside : stripe < v.base + v.count) (frame : s.frameOf v.arr stripe = some (n, f)) (served : f.serve i o = some (x, suc)) :
    s.ldProbe = ((s.setReg Reg.LD_PROBE (x.blk o + 4 * f.state + 32 * b2n suc + 64)).setReg Reg.LD_PROBE_ADDR_LO
      ((x.addr + 4096 * o) % 2 ^ 32)).setReg Reg.LD_PROBE_ADDR_HI ((x.addr + 4096 * o) / 2 ^ 32) := by
  unfold State.ldProbe
  simp only [vol, arr, place]
  rw [if_neg (Nat.not_le.mpr inside)]
  simp only [frame, served]

/-! ### Waits for slots (R83) and claims (R44) -/

theorem waiterGo_task {h k : Nat} {x : Task} {s : State} (task : s.task? h = some x) (notStream : ∀ n, x.kind ≠ .stream n) :
    s.waiterGo h k = s.setTask { x with phase := .read } := by
  unfold State.waiterGo
  rw [task]
  dsimp only
  split
  · exact absurd ‹_› (notStream _)
  · rfl

theorem waiterGo_cmd {h k : Nat} {c : Cmd} {s : State} (noTask : s.task? h = none) (cmd : s.cmd? h = some c)
    (noLog : c.log = none) (notAppend : Ent.opc c.ent ≠ 0x10) : s.waiterGo h k = s.moveBlk h k := by
  unfold State.waiterGo
  rw [noTask, cmd]
  dsimp only
  rw [noLog]
  exact if_neg notAppend

/-- The first waiter for a slot tries again. -/
theorem exec_slotWaitResume_first {h k : Nat} {t : List (Nat × Nat)} {s : State} (moves : s.ld.movesStopped = false)
    (line : s.ld.slotQ = (h, k) :: t) : exec .slotWaitResume s =
      .next (State.waiterGo { s with ld.slotQ := t, ld.slotTry := some h } h k).settle.slotTried := by
  show execSlotWaitResume s = _
  unfold execSlotWaitResume State.slotNext
  rw [if_neg (nf' moves), line]

theorem claimNext_of_held {a stripe owner : Nat} {s : State} (held : s.holder a stripe = some owner) :
    s.claimNext a stripe = s := if_pos (by rw [held]; rfl)

/-- The stripe is free, and the first in line may have it: it takes the claim and begins. -/
theorem claimNext_first {h : Hold} {l : List Hold} {x : Task} {s : State} (free : s.holder h.arr h.stripe = none)
    (line : s.st.claimQ = h :: l) (task : s.task? h.owner = some x) (open_ : s.claimShut x = false) (waits : x.phase = .claim) :
    s.claimNext h.arr h.stripe = State.taskBegin { s with st.claimQ := l, st.holds := s.st.holds ++ [h] } x.id := by
  have task' : ({ s with st.claimQ := l } : State).task? h.owner = some x := task
  unfold State.claimNext
  rw [free, line]
  simp only [Option.isSome_none, Bool.false_eq_true, if_false, List.find?_cons, task, open_, beq_self_eq_true, Bool.not_false,
    Bool.and_self, List.erase_cons_head, task', waits, if_true]

/-- Settles O35. -/
theorem larderRows : Obligations.LarderRows := by
  have again : ∀ {t u : State}, t = u → (Host.Outcome.next t.settle.slotTried : Out) = .next u.settle.slotTried :=
    fun e => by rw [e]
  refine ⟨⟨fun n cls f s frame filling => ?_, fun n f s frame filling come => exec_idleTimerExpiry_due frame filling come,
    fun n f s frame filling come => exec_ageLimitExpiry_due frame filling come,
    fun n f s on place next replayed => congrArg (fun t : State => Host.Outcome.next t.settle)
      (destageNext_takes on place next replayed),
    fun n f r s frame arr => destageGo_effect frame arr, fun s => rfl⟩,
    ⟨fun s v hv on => ⟨?_, fun cmds waits => ?_⟩, fun s draining clean => wtCheck_of_drained draining clean, fun s => ?_,
      fun v r x suc n stripe i o f s vol arr place inside frame served lim => ?_⟩,
    fun h k t x s moves line task notStream => ?_, fun h k t c s moves line noTask cmd noLog notAppend => ?_,
    fun a stripe s => rfl, fun a stripe h s held => claimNext_of_held held, ?_⟩
  · rw [toReady_of_filling frame filling]
    exact ⟨frame_setFrame_same s n _, rfl, rfl⟩
  · subst hv
    exact congrArg Host.Outcome.next (if_pos on)
  · have drop : v = (s.setFlag Reg.LD_CTRL 0 false).setFlag Reg.LD_STATUS 1 true := hv.trans (wbDrop_of_idle cmds waits)
    rw [drop]
    exact ⟨rfl, wbClearing_flags s⟩
  · obtain ⟨wb, active, draining⟩ := wbSet_flags s
    exact ⟨s.wbSet, rfl, wb, active, draining, rfl⟩
  · refine ⟨_, congrArg Host.Outcome.next (ldProbe_found vol arr place inside frame served), ?_, ?_, rfl⟩
    · rw [State.reg_setReg_ne _ Reg.LD_PROBE_ADDR_HI Reg.LD_PROBE_ADDR_LO _ (by decide), State.reg_setReg_same,
        State.reg_setReg_same]
      omega
    · rw [State.reg_setReg_ne _ _ _ _ (by decide), State.reg_setReg_ne _ _ _ _ (by decide), State.reg_setReg_same]
  · exact (exec_slotWaitResume_first moves line).trans (again (waiterGo_task task notStream))
  · exact (exec_slotWaitResume_first moves line).trans (again (waiterGo_cmd noTask cmd noLog notAppend))
  · rintro a stripe h l x s free line rfl rfl task open_ waits
    exact claimNext_first free line task open_ waits

end Sys2Proof.Proofs
end

section
/-! PROOF. The statement on the Loom's jobs: their queues, their contexts, their ends and the test jobs. -/

namespace Sys2Proof.Proofs

open Sys2Proof.Machine Sys2Proof.Safety

/-! ### Queues and contexts (R63) -/

theorem removeFirst_eq_eraseP {α : Type} (p : α → Bool) (l : List α) : removeFirst p l = l.eraseP p := by
  induction l with
  | nil => rfl
  | cons x t ih =>
    rw [removeFirst, ih, List.eraseP_cons, cond_eq_ite]

/-- One element a predicate finds leaves the list. -/
theorem length_removeFirst {α : Type} {p : α → Bool} {l : List α} {x : α} (found : l.find? p = some x) :
    (removeFirst p l).length + 1 = l.length := by
  have mem : x ∈ l := List.mem_of_find?_eq_some found
  rw [removeFirst_eq_eraseP, List.length_eraseP_of_mem mem (List.find?_some found)]
  exact Nat.sub_add_cancel (List.length_pos_of_mem mem)

/-- The first waiting job of a queue, under the queue's credit, leaves the waiting list for the queue's end. -/
theorem execLoomJobSubmit_of_credit {q : Nat} {j : LJob} {s : State}
    (waits : (s.lm.waiting.find? fun j => j.q == q) = some j) (credit : (s.loomQ q).length < 32) :
    exec (.loomJobSubmit q) s = .next { s with
      lm.waiting := removeFirst (fun x => x.q == q) s.lm.waiting
      lm.queues := mapUpd s.lm.queues q [] (· ++ [{ j with at_ := s.now }]) } := by
  show execLoomJobSubmit q s = _
  unfold execLoomJobSubmit
  rw [waits]
  exact congrArg Host.Outcome.next (if_pos credit)

/-- The state with job j taken from the head of its queue into context c; a test job's descriptor is read then. -/
def loomTaken (s : State) (c : Nat) (j : LJob) : State :=
  { s with
    lm.queues := mapUpd s.lm.queues j.q [] (·.drop 1)
    lm.ctx := mapSet s.lm.ctx c (if j.client = .test then s.loomDecode j else j) }

/-- A free context takes the job picked; a start by aging is counted in the queue's register (R63). -/
theorem execLoomJobStart_of_pick {c : Nat} {j : LJob} {aged : Bool} {s : State}
    (runs : s.testMode = true → s.flag Reg.LM_CTRL 0 = false) (free : s.loomFree = some c)
    (pick : s.loomPick = some (j, aged)) : exec .loomJobStart s = .next (if aged then
      (loomTaken s c j).setFld (Reg.LM_QSTAT j.q) 31 16 (min 0xFFFF (s.fld (Reg.LM_QSTAT j.q) 31 16 + 1))
      else loomTaken s c j) := by
  have go : ¬(s.testMode = true ∧ s.flag Reg.LM_CTRL 0 = true) := fun ⟨test, paused⟩ => nf' (runs test) paused
  show execLoomJobStart s = _
  unfold execLoomJobStart loomTaken
  rw [if_neg go, free, pick]
  cases hc : j.client <;> simp only [hc, reduceCtorEq, if_true, if_false] <;> rfl

/-! ### The end of a job -/

/-- A record is written to memory alone. -/
@[simp] theorem loomRecord_lm (s : State) (j : LJob) (r : LRes) : (s.loomRecord j r).lm = s.lm := by
  unfold State.loomRecord
  split
  · rfl
  · rw [State.memPut_lm]
    split
    · exact foldl_same rfl fun t e h => h
    · rfl

/-- A DATAPATH ending is dated, and may latch FAULT; no context changes (R66). -/
@[simp] theorem loomDp_ctx (s : State) (ctx : Nat) : (s.loomDp ctx).lm.ctx = s.lm.ctx := by
  unfold State.loomDp
  dsimp only
  split <;> rfl

/-- The result of a job's end is that of its run; record and counters do not change it. -/
theorem loomEnd_result (s : State) (ctx : Nat) (j : LJob) (err : Option LoomErr) :
    (s.loomEnd ctx j err).1 = (s.loomExec j err).1 := rfl

/-- A job that ends leaves its context. -/
theorem loomEnd_frees (s : State) (ctx : Nat) (j : LJob) (err : Option LoomErr) :
    mapGet? (s.loomEnd ctx j err).2.lm.ctx ctx = none := by
  have left : (s.loomEnd ctx j err).2.lm.ctx = mapErase (s.loomExec j err).2.lm.ctx ctx := by
    unfold State.loomEnd
    dsimp only
    split <;> split <;> split <;>
      simp only [loomDp_ctx, State.bump_lm, State.setReg64_lm, State.setReg_lm, loomRecord_lm]
  rw [left]
  exact mapGet_mapErase_same _ ctx

/-- What a job's end, with result r, does for its client. -/
def loomTells (v : State) (ctx : Nat) (j : LJob) (r : LRes) : State := match j.client with
  | .task t => v.stripeLoom t ctx j r
  | .dump f => v.dumpXorEnd j f r.status
  | .test => v.testEnd r.status

theorem loomTells_test {j : LJob} (client : j.client = .test) (v : State) (ctx : Nat) (r : LRes) :
    loomTells v ctx j r = v.testEnd r.status := by rw [loomTells, client]

theorem loomTells_task {j : LJob} {t : Nat} (client : j.client = .task t) (v : State) (ctx : Nat) (r : LRes) :
    loomTells v ctx j r = v.stripeLoom t ctx j r := by rw [loomTells, client]

theorem loomTells_dump {j : LJob} {f : Nat} (client : j.client = .dump f) (v : State) (ctx : Nat) (r : LRes) :
    loomTells v ctx j r = v.dumpXorEnd j f r.status := by rw [loomTells, client]

/-- The job of a context that is not parked ends, and its client is told; while only blocks of queue 0 may start, the job is one
of queue 0 (R64). -/
theorem execLoomJobComplete_of_ctx {ctx : Nat} {err : Option LoomErr} {j : LJob} {s : State}
    (held : mapGet? s.lm.ctx ctx = some j) (awake : j.parked = false) (may : s.dumpOnly = false ∨ j.q = 0) :
    exec (.loomJobComplete ctx err) s =
      .next (loomTells (s.loomEnd ctx j err).2 ctx j (s.loomEnd ctx j err).1).settle := by
  have goes : ¬(j.parked = true ∨ (s.dumpOnly = true ∧ j.q ≠ 0)) := by
    rintro (parked | ⟨only, other⟩)
    · exact nf' awake parked
    · exact may.elim (fun h => nf' h only) other
  show Host.Outcome.next (s.loomDone ctx err).settle = _
  unfold State.loomDone
  rw [held]
  dsimp only
  rw [if_neg goes]
  rfl

/-! ### The result of a job (R60, R65, R66) -/

theorem loomExec_of_fault {s : State} (fault : s.loomFault = true) (j : LJob) (err : Option LoomErr) :
    s.loomExec j err = (LRes.of Ls.datapath, s) := if_pos fault

section

variable {s : State} {j : LJob} (up : s.loomFault = false)

include up

theorem loomExec_of_bad (bad : j.bad = true) (err : Option LoomErr) : s.loomExec j err = (LRes.of Ls.badDesc, s) := by
  unfold State.loomExec
  rw [if_neg (nf' up), if_pos bad]

variable (good : j.bad = false)

include good

theorem loomExec_of_locate (locate : j.op = Op.locate) (few : j.k < 2) (err : Option LoomErr) :
    s.loomExec j err = (LRes.of Ls.unsupported, s) := by
  unfold State.loomExec
  rw [if_neg (nf' up), if_neg (nf' good), if_pos ⟨locate, few⟩]

theorem loomExec_of_recon (recon : j.op = Op.recon) (many : j.k < j.ed.length + j.ep.length) (err : Option LoomErr) :
    s.loomExec j err = (LRes.of Ls.tooMany, s) := by
  have other : ¬(j.op = Op.locate ∧ j.k < 2) := fun h => absurd (recon.symm.trans h.1) (by decide)
  unfold State.loomExec
  rw [if_neg (nf' up), if_neg (nf' good), if_neg other, if_pos ⟨recon, many⟩]

variable (notLocate : j.op ≠ Op.locate) (notRecon : j.op ≠ Op.recon)

include notLocate notRecon

/-- A job with no fault and no refusal that an error stops at block b ends with the error's status and input. -/
theorem loomExec_of_stop {err : Option LoomErr} {b st src : Nat} (stops : j.stopAt s.lm.inject err = some (b, st, src)) :
    (s.loomExec j err).1.status = st ∧ (s.loomExec j err).1.srcBad = src := by
  unfold State.loomExec
  rw [if_neg (nf' up), if_neg (nf' good), if_neg (fun h => notLocate h.1), if_neg (fun h => notRecon h.1), stops]
  exact ⟨rfl, rfl⟩

/-- A job with no fault, no refusal and no error that stops it runs. -/
theorem loomExec_of_run {err : Option LoomErr} (runs : j.stopAt s.lm.inject err = none) :
    s.loomExec j err = State.loomRun { s with lm.inject := 0 } j := by
  unfold State.loomExec
  rw [if_neg (nf' up), if_neg (nf' good), if_neg (fun h => notLocate h.1), if_neg (fun h => notRecon h.1), runs]

end

/-- An input word beyond correction, with no injection pending, stops the job at its block and names the input (R65). -/
theorem stopAt_ecc {j : LJob} {x b : Nat} (input : x ∈ j.inputs) (block : b < j.len) :
    j.stopAt 0 (some (.ecc x b)) = some (b, Ls.sourceEcc, x) :=
  if_pos ⟨List.contains_iff_mem.mpr input, block, Or.inr (by decide)⟩

/-- With no error, fewer than two injections stop nothing: a single one is computed again (R66). -/
theorem stopAt_none {j : LJob} {inject : Nat} (few : inject < 2) : j.stopAt inject none = none := if_neg (Nat.not_le.mpr few)

/-- An ENCODE or XOR that runs ends with success and counts every block of every chunk it reads. -/
theorem loomRun_of_output {j : LJob} (s : State) (op : j.op = Op.encode ∨ j.op = Op.xor) :
    (s.loomRun j).1.status = Ls.ok ∧ (s.loomRun j).1.inBytes = j.inputs.length * j.len * 4096 := by
  have notCheck : j.op ≠ Op.check := by rcases op with h | h <;> rw [h] <;> decide
  have notLocate : j.op ≠ Op.locate := by rcases op with h | h <;> rw [h] <;> decide
  have notCmp : j.op ≠ Op.mirrorCmp := by rcases op with h | h <;> rw [h] <;> decide
  have count : j.inCount = j.inputs.length := if_neg (not_or.mpr ⟨notCheck, notLocate⟩)
  unfold State.loomRun
  dsimp only
  rw [if_neg notCheck, if_neg notLocate, if_neg notCmp, count]
  exact ⟨rfl, rfl⟩

/-! ### Test jobs (R62, R66) -/

/-- The job LM_TJOB_GO submits: its queue is read from the descriptor at address a, the rest when a context takes it. -/
def testJob (s : State) (a : Nat) : LJob :=
  { id := s.nextH, q := bits (s.memNat a 1) 5 4, op := 0, d := 0, k := 0, erase := 0, zero := 0, len := 0, crcOut := false,
    tag := 0, src := [], dst := [], result := a, crcList := 0, client := .test, second := false, bad := false, at_ := 0,
    parked := false }

/-- In test mode, with no test job at work, GO shows BUSY and submits a job. -/
theorem exec_lmTjobGo_of_test {s : State} (test : s.testMode = true) (idle : s.flag Reg.LM_TJOB_STAT 0 = false) :
    exec .lmTjobGo s = .next ((State.setFlag { s with nextH := s.nextH + 1 } Reg.LM_TJOB_STAT 0 true).loomSubmit
      (testJob s (s.reg Reg.LM_TJOB_LO / 64 * 64 + s.fld Reg.LM_TJOB_HI 15 0 * 2 ^ 32))) := by
  have goes : ¬(s.testMode = false ∨ s.flag Reg.LM_TJOB_STAT 0 = true) := by
    rintro (other | busy)
    · exact nf' other test
    · exact nf' idle busy
  exact congrArg Host.Outcome.next (if_neg goes)

/-- Settles O37. -/
theorem loomJobs : Obligations.LoomJobs := by
  refine ⟨⟨fun q j s waits credit => ?_, fun c j aged s runs free pick => ?_⟩,
    ⟨fun ctx err j s held awake may => ?_, fun ctx err j s => ⟨fun fault => ?_, fun up bad => ?_, fun up good locate few => ?_,
      fun up good recon many => ?_, fun x b up good op none_ input block error => ?_, fun up good op few error => ?_⟩⟩,
    fun s test idle => ?_, fun s refused => ?_, fun s test => ?_, fun s other => ?_⟩
  · exact ⟨_, execLoomJobSubmit_of_credit waits credit, mapGetD_mapSet_same _ _ _ _, length_removeFirst waits, rfl, rfl⟩
  · refine ⟨_, execLoomJobStart_of_pick runs free pick, ?_⟩
    have ctx : mapGet? (loomTaken s c j).lm.ctx c = some (if j.client = .test then s.loomDecode j else j) :=
      mapGet_mapSet_same _ c _
    have queue : (loomTaken s c j).loomQ j.q = (s.loomQ j.q).drop 1 := mapGetD_mapSet_same _ _ _ _
    cases aged with
    | false => exact ⟨ctx, queue, rfl, rfl, fun _ => rfl⟩
    | true => exact ⟨ctx, queue, rfl, rfl, nofun⟩
  · have ends := execLoomJobComplete_of_ctx (err := err) held awake may
    refine ⟨(s.loomEnd ctx j err).1, (s.loomEnd ctx j err).2, rfl, loomEnd_frees s ctx j err, fun client => ?_,
      fun t client => ?_, fun f client => ?_⟩
    · rw [ends, loomTells_test client]
    · rw [ends, loomTells_task client]
    · rw [ends, loomTells_dump client]
  · rw [loomEnd_result, loomExec_of_fault fault]
  · rw [loomEnd_result, loomExec_of_bad up bad]
  · rw [loomEnd_result, loomExec_of_locate up good locate few]
  · rw [loomEnd_result, loomExec_of_recon up good recon many]
  · have notLocate : j.op ≠ Op.locate := by rcases op with h | h | h <;> rw [h] <;> decide
    have notRecon : j.op ≠ Op.recon := by rcases op with h | h | h <;> rw [h] <;> decide
    rw [loomEnd_result]
    exact loomExec_of_stop up good notLocate notRecon (by rw [error, none_]; exact stopAt_ecc input block)
  · have notLocate : j.op ≠ Op.locate := by rcases op with h | h <;> rw [h] <;> decide
    have notRecon : j.op ≠ Op.recon := by rcases op with h | h <;> rw [h] <;> decide
    rw [loomEnd_result, loomExec_of_run up good notLocate notRecon (by rw [error]; exact stopAt_none few)]
    exact loomRun_of_output _ op
  · exact ⟨_, _, exec_lmTjobGo_of_test test idle, State.flag_setFlag_same _ _ _ _ (by decide), rfl, rfl, rfl, rfl⟩
  · exact congrArg Host.Outcome.next (if_pos refused)
  · exact congrArg Host.Outcome.next (if_pos test)
  · exact congrArg Host.Outcome.next (if_neg (nf' other))

end Sys2Proof.Proofs
end

section
/-! PROOF. The statement on a READ the Larder serves, with what ends and counters leave alone. -/

namespace Sys2Proof.Proofs

open Sys2Proof.Machine Sys2Proof.Safety

/-! ### What counting leaves alone -/

/-- What the State Cache shows of an entry depends on no register but SC_STATUS. -/
theorem sstState_bump (s : State) (k a stripe : Nat) (other : Reg.SC_STATUS ≠ k) :
    (s.bump k).sstState a stripe = s.sstState a stripe := by
  have serves : (s.bump k).scServes = s.scServes := by
    unfold State.scServes State.scEnabled State.scDraining
    rw [State.flag_bump_ne _ _ _ _ other, State.flag_bump_ne _ _ _ _ other]
  have byte : ∀ x, (s.bump k).scByte x = s.scByte x := fun x => by
    unfold State.scByte State.scUnder
    rw [serves]
    rfl
  have number : ∀ x n, (s.bump k).scNat x n = s.scNat x n := fun x n => by simp only [State.scNat, byte]
  unfold State.sstState State.sst
  simp only [number]
  rfl

theorem canIssue_bump (s : State) (k : Nat) (f : Func) (other : Reg.HP_STATUS ≠ k) : (s.bump k).canIssue f = s.canIssue f := by
  unfold State.canIssue State.bme State.frozen State.dstate
  rw [State.flag_bump_ne _ _ _ _ other, State.flag_bump_ne _ _ _ _ other, State.fld_bump_ne _ _ _ _ _ other]
  rfl

/-! ### Taken commands -/

theorem cmd_setCmd {s : State} {c d : Cmd} (taken : s.cmd? c.h = some d) : (s.setCmd c).cmd? c.h = some c := by
  have handle : ((fun x : Cmd => x.h == c.h) ∘ fun x => if x.h == c.h then c else x) = fun x => x.h == c.h := by
    funext x
    by_cases same : x.h = c.h <;> simp [same]
  have named : (d.h == c.h) = true := beq_iff_eq.mpr (h_of_cmd taken)
  unfold State.cmd? at taken
  unfold State.setCmd State.cmd?
  rw [List.find?_map, handle, taken, Option.map_some, if_pos named]

/-- A command that ends leaves the list of taken commands; memory, the Keep, the registers and the output stay (R331, R339). -/
theorem finish_leaves (s : State) (rank : Nat) (c : Cmd) : (s.finish rank c).cmds = s.cmds.filter (fun d => d.h != c.h) ∧
    (s.finish rank c).mem = s.mem ∧ (s.finish rank c).keep = s.keep ∧ (s.finish rank c).regs = s.regs ∧
    (s.finish rank c).out = s.out := by
  obtain ⟨-, mem, keep, regs, out⟩ := arrEnded_f s c
  unfold State.finish
  dsimp only
  split
  · obtain ⟨-, mem', keep', regs', out', cmds'⟩ := mark_f (s.dropCmd c)
    exact ⟨cmds', mem'.trans mem, keep'.trans keep, regs'.trans regs, out'.trans out⟩
  · obtain ⟨-, mem', keep', regs', out', cmds'⟩ := mark_f (State.deposit
      { s.arrEnded c with cmds := s.cmds.filter fun d => d.h != c.h } rank (.comp (compOf c)))
    exact ⟨cmds', mem'.trans mem, keep'.trans keep, regs'.trans regs, out'.trans out⟩

/-! ### Writes to a host buffer (R338) -/

/-- A buffer of one segment takes data of its length in one write. -/
theorem hostWriteSegs_one {s : State} {f : Func} {a n : Nat} {d : List Byte} (may : s.canIssue f = true) (len : d.length = n)
    (some_ : 0 < n) : s.hostWriteSegs f [(a, n)] 0 d = s.put [.memWrite f a d] := by
  have piece : segSlice [(a, n)] 0 n = [(a, n)] := by
    unfold segSlice
    rw [if_neg some_.ne', if_neg (Nat.not_le.mpr some_)]
    simp [segSlice]
  unfold State.hostWriteSegs
  rw [len, piece]
  simp only [List.foldl_cons, List.foldl_nil, State.hostWrite, may, if_true, ← len, List.take_length]

/-! ### A READ the Larder serves (R81, R342) -/

theorem updFrame_frame (s : State) (n : Nat) (g : Frame → Frame) : s.updFrame n g = { s with ld := (s.updFrame n g).ld } := by
  unfold State.updFrame
  split <;> rfl

theorem larderHolds_of_serve {s : State} {p : Place} {n : Nat} {f : Frame} {z : Slot × Bool}
    (frame : s.frameOf p.a p.stripe = some (n, f)) (served : f.serve p.i p.o = some z) : s.larderHolds p = true := by
  unfold State.larderHolds
  rw [frame]
  exact Option.isSome_iff_exists.mpr ⟨z, served⟩

/-- A block its frame serves is found in the Larder, and the frame has been used. -/
theorem lookBlk_of_serve {s : State} {p : Place} {n : Nat} {f : Frame} {z : Slot × Bool}
    (kept : s.sstState p.a p.stripe ≠ Sst.lost) (frame : s.frameOf p.a p.stripe = some (n, f))
    (served : f.serve p.i p.o = some z) : s.lookBlk p =
      (.data (s.memN (z.1.addr + 4096 * p.o) 4096), s.updFrame n fun f => { f with used := true }) := by
  unfold State.lookBlk
  rw [if_neg kept, frame]
  simp only [served, Option.map_some]

theorem readBlk_of_data {s t : State} {h k : Nat} {c : Cmd} {p : Place} {d : List Byte} (taken : s.cmd? h = some c)
    (place : s.blkPlace c k = some p) (found : s.lookBlk p = (.data d, t)) :
    s.readBlk h k = t.readBlkEnd c k d (Rank.larder (Ent.tgt c.ent)) := by
  unfold State.readBlk
  rw [taken]
  dsimp only
  rw [place]
  dsimp only
  rw [found]

/-- The only block of a READ with a buffer of one segment: its bytes go out, and the command ends. -/
theorem readBlkEnd_only {s : State} {c : Cmd} {a rank : Nat} {d : List Byte} (todo : c.todo = [0]) (segs : c.segs = [(a, 4096)])
    (may : s.canIssue c.f = true) : s.readBlkEnd c 0 d rank =
      (s.put [.memWrite c.f a (bytesAt d 0 4096)]).finish rank { c with todo := [] } := by
  unfold State.readBlkEnd
  rw [segs, hostWriteSegs_one may (bytesAt_length d 0 4096) (by decide), todo]
  rfl

/-- The READ as it asks for its only block. -/
def readMoving (c : Cmd) : Cmd := { c with ph := .moving, todo := [0] }

/-- The state in which a one-block READ the Larder serves asks for its block: the hit is counted. -/
def readCounted (s : State) (c : Cmd) : State := (s.bump Reg.LD_HITS).setCmd (readMoving c)

theorem readGo_of_hit {s : State} {c : Cmd} {p : Place} (one : Ent.p1 c.ent = 1) (place : s.cmdPlace c 0 = some p)
    (held : s.larderHolds p = true) : s.readGo c = (readCounted s c).readBlk c.h 0 := by
  have hit : ([0] : List Nat).all (s.blkHit c) = true := by
    simp only [List.all_cons, List.all_nil, Bool.and_true, State.blkHit, place, held]
  unfold State.readGo
  dsimp only
  rw [one, List.range_one, if_pos hit]
  rfl

theorem blkPlace_readMoving {s : State} {c : Cmd} (noLog : c.rd = none) (k : Nat) :
    (readCounted s c).blkPlace (readMoving c) k = s.cmdPlace c k := by
  have noLog' : (readMoving c).rd = none := noLog
  unfold State.blkPlace
  rw [noLog']
  rfl

/-- The state once the READ's block has been found in frame n. -/
def readFound (s : State) (c : Cmd) (n : Nat) : State := (readCounted s c).updFrame n fun f => { f with used := true }

theorem readFound_frame (s : State) (c : Cmd) (n : Nat) :
    readFound s c n = { readCounted s c with ld := (readFound s c n).ld } := updFrame_frame _ n _

/-- A one-block READ the Larder serves: the hit is counted, the frame has been used, the block's bytes go out, and the command
ends. -/
theorem readGo_served {s : State} {c : Cmd} {p : Place} {n a : Nat} {f : Frame} {z : Slot × Bool}
    (taken : s.cmd? c.h = some c) (one : Ent.p1 c.ent = 1) (noLog : c.rd = none) (segs : c.segs = [(a, 4096)])
    (may : s.canIssue c.f = true) (place : s.cmdPlace c 0 = some p) (kept : s.sstState p.a p.stripe ≠ Sst.lost)
    (frame : s.frameOf p.a p.stripe = some (n, f)) (served : f.serve p.i p.o = some z) : s.readGo c =
      ((readFound s c n).put [.memWrite c.f a (bytesAt (s.memN (z.1.addr + 4096 * p.o) 4096) 0 4096)]).finish
        (Rank.larder (Ent.tgt c.ent)) { readMoving c with todo := [] } := by
  have taken' : (readCounted s c).cmd? c.h = some (readMoving c) := cmd_setCmd (s := s.bump Reg.LD_HITS) taken
  have kept' : (readCounted s c).sstState p.a p.stripe ≠ Sst.lost := by
    have same : (readCounted s c).sstState p.a p.stripe = _ := sstState_bump s Reg.LD_HITS p.a p.stripe (by decide)
    rwa [same]
  have found := lookBlk_of_serve (s := readCounted s c) kept' frame served
  have may' : (readFound s c n).canIssue c.f = true := by
    rw [readFound_frame]
    exact (canIssue_bump s Reg.LD_HITS c.f (by decide)).trans may
  rw [readGo_of_hit one place (larderHolds_of_serve frame served),
    readBlk_of_data taken' ((blkPlace_readMoving noLog 0).trans place) found]
  exact readBlkEnd_only (c := readMoving c) rfl segs may'

/-- Settles O26. -/
theorem readHit : Obligations.ReadHit := by
  rintro h a n c p f z s ready rfl pass one noLog segs - may place kept frame served
  have taken : s.cmd? c.h = some c := ready.1
  have go := readGo_served taken one noLog segs may place kept frame served
  obtain ⟨cmds, mem, keep, regs, out⟩ := finish_leaves ((readFound s c n).put
    [.memWrite c.f a (bytesAt (s.memN (z.1.addr + 4096 * p.o) 4096) 0 4096)]) (Rank.larder (Ent.tgt c.ent))
    { readMoving c with todo := [] }
  rw [← go] at cmds mem keep regs out
  rw [readFound_frame] at mem keep regs out
  refine ⟨s.readGo c, congrArg (fun t : State => Host.Outcome.next t.settle) (pf0_ok ready pass State.readGo), out,
    (State.reg_congr regs _).trans (s.reg_bump_same Reg.LD_HITS), fun d hd same => ?_, mem, keep⟩
  rw [cmds] at hd
  exact absurd same (bne_iff_ne.mp (List.mem_filter.mp hd).2)

end Sys2Proof.Proofs
end

section
/-! PROOF. The statement on the State Cache's rows: fills, write-backs, disabling, draining, enabling and invalidation. -/

namespace Sys2Proof.Proofs

open Sys2Proof.Machine Sys2Proof.Safety

/-! ### Fills and errors (R88, R89, R92) -/

/-- The bytes a fill brings for a line: DRAM's under the buffer's. -/
def fillData (s : State) (line : Nat) : List Byte :=
  (List.range 64).map fun i => (s.scBuf (64 * line + i)).getD (memRead s.mem (64 * line + i))

/-- The set of a line once register m's fill has returned. -/
def fillSet (s : State) (line : Nat) (m : ScMiss) : List ScLine :=
  ⟨m.way, line, m.prefetch, fillData s line⟩ :: (mapGetD s.sc.sets (scSetOf line) []).filter fun x => x.way != m.way

/-- A fill with no read waiting: the register is free, and the line stands in its set. -/
theorem scFill_of_miss {s : State} {line : Nat} {m : ScMiss} (miss : (s.sc.miss.find? fun m => m.line == line) = some m)
    (none_ : s.sc.rwait = []) : s.scFill line = { s with
      sc.miss := s.sc.miss.filter fun x => x.line != line
      sc.sets := mapSet s.sc.sets (scSetOf line) (fillSet s line m)
      sc.rwait := [] } := by
  unfold State.scFill State.scReadsAgain
  rw [miss]
  dsimp only
  rw [none_]
  rfl

theorem scErr_corrected {s : State} {line : Nat} {l : ScLine} (held : s.scLine line = some l) :
    s.scErr (.corrected line) = s.bump Reg.SC_ECC_CORR := by
  have present : (s.scLine line).isNone = false := by rw [held]; rfl
  exact if_neg (nf' present)

/-! ### The merging buffer (R87) -/

/-- The state with the buffer's oldest line in DRAM, before any waiting write follows. -/
def lineDrained (s : State) (l : Nat) (d : NMap Byte) (t : List (Nat × NMap Byte)) : State :=
  { s with mem := drainLine s.mem l d, sc.buf := t }

section

variable {s : State} {l : Nat} {d : NMap Byte} {t : List (Nat × NMap Byte)} (oldest : s.sc.buf = (l, d) :: t)

include oldest

theorem scDrain1_of_draining (draining : s.scDraining = true) : s.scDrain1 = lineDrained s l d t := by
  unfold State.scDrain1
  rw [oldest]
  exact if_pos draining

theorem scDrain1_of_serving (serving : s.scDraining = false) : s.scDrain1 = (lineDrained s l d t).scWritesGo s.sc.wwait := by
  unfold State.scDrain1
  rw [oldest]
  exact if_neg (nf' serving)

end

/-- With no write waiting, none enters the buffer. -/
theorem scWritesGo_nil {s : State} (none_ : s.sc.wwait = []) : s.scWritesGo [] = s := by
  unfold State.scWritesGo
  rw [← none_]

/-! ### Disabling, draining, enabling and invalidation (R93, R94) -/

theorem scDisable_frame (s : State) : s.scDisable = { s with regs := s.scDisable.regs } := by
  unfold State.scDisable
  dsimp only
  split
  · rfl
  · split <;> rfl

theorem scDisable_en (s : State) : s.scDisable.flag Reg.SC_CTRL 0 = false := by
  have cleared : (s.setFlag Reg.SC_CTRL 0 false).flag Reg.SC_CTRL 0 = false := State.flag_setFlag_same _ _ _ _ (by decide)
  unfold State.scDisable
  dsimp only
  split
  · exact cleared
  · split
    · exact (State.flag_setFlag_ne _ _ _ _ _ _ (by decide)).trans cleared
    · exact cleared

/-- Disabling an enabled cache that does not invalidate starts the drain. -/
theorem scDisable_drains {s : State} (valid : s.flag Reg.SC_STATUS 2 = false) (enabled : s.scEnabled = true) :
    s.scDisable.scDraining = true := by
  have valid' : (s.setFlag Reg.SC_CTRL 0 false).flag Reg.SC_STATUS 2 = false :=
    (State.flag_setFlag_ne _ _ _ _ _ _ (by decide)).trans valid
  have enabled' : (s.setFlag Reg.SC_CTRL 0 false).scEnabled = true :=
    (State.flag_setFlag_ne _ _ _ _ _ _ (by decide)).trans enabled
  unfold State.scDisable
  dsimp only
  rw [if_neg (nf' valid'), if_pos enabled']
  exact State.flag_setFlag_same _ _ _ _ (by decide)

theorem execScDrainDone_of_empty {s : State} (draining : s.scDraining = true) (empty : s.sc.buf = []) :
    exec .scDrainDone s = .next s.scDrained :=
  congrArg Host.Outcome.next (if_pos ⟨draining, by rw [empty]; rfl⟩)

/-- A drain's end shows neither ENABLED nor DRAINING. -/
def drainShown (s : State) : State := (s.setFlag Reg.SC_STATUS 1 false).setFlag Reg.SC_STATUS 0 false

theorem drainShown_flags (s : State) : (drainShown s).scEnabled = false ∧ (drainShown s).scDraining = false :=
  ⟨State.flag_setFlag_same _ _ _ _ (by decide),
    (State.flag_setFlag_bit _ _ _ _ _ (by decide) (by decide)).trans (State.flag_setFlag_same _ _ _ _ (by decide))⟩

/-- With EN clear and no write waiting, a drain's end forgets the reads that waited. -/
theorem scDrained_of_off {s : State} (off : s.flag Reg.SC_CTRL 0 = false) (none_ : s.sc.wwait = []) :
    s.scDrained = { drainShown s with sc.rwait := [] } := by
  have off' : (drainShown s).flag Reg.SC_CTRL 0 = false := by
    unfold drainShown
    rw [State.flag_setFlag_ne _ _ _ _ _ _ (by decide), State.flag_setFlag_ne _ _ _ _ _ _ (by decide), off]
  have waits : (drainShown s).sc.wwait = [] := none_
  unfold State.scDrained
  rw [← drainShown]
  dsimp only
  rw [waits, List.foldl_nil]
  refine (if_neg (nf' off')).trans ?_
  rw [← waits]

theorem scStart_of_control {s : State} (control : s.flag Reg.SC_CTRL 1 = true) : s.scStart = s.scInvalidate := if_pos control

theorem scInvalidate_shows (s : State) : s.scInvalidate.flag Reg.SC_STATUS 2 = true := by
  unfold State.scInvalidate
  rw [State.flag_setFlag_bit _ _ _ _ _ (by decide) (by decide), State.flag_setFlag_same _ _ _ _ (by decide)]

/-- Setting EN on a disabled cache with its control bit set starts an invalidation. -/
theorem scEnable_of_disabled {s : State} (disabled : s.scEnabled = false) (valid : s.flag Reg.SC_STATUS 2 = false)
    (control : s.flag Reg.SC_CTRL 1 = true) : s.scEnable = (s.setFlag Reg.SC_CTRL 0 true).scInvalidate := by
  have control' : (s.setFlag Reg.SC_CTRL 0 true).flag Reg.SC_CTRL 1 = true :=
    (State.flag_setFlag_bit _ _ _ _ _ (by decide) (by decide)).trans control
  unfold State.scEnable
  dsimp only
  rw [disabled, valid, ← scStart_of_control control']
  rfl

/-- The end of an invalidation: its bit clears, and ENABLED takes the value of EN. -/
theorem execScInvalidateDone_due {s : State} (valid : s.flag Reg.SC_STATUS 2 = true) (come : s.due s.sc.invAt 64 = true) :
    exec .scInvalidateDone s =
      .next ((s.setFlag Reg.SC_STATUS 2 false).setFlag Reg.SC_STATUS 0 (s.flag Reg.SC_CTRL 0)) :=
  congrArg Host.Outcome.next (if_pos ⟨valid, come⟩)

/-- Settles O38. -/
theorem stateCacheRows : Obligations.StateCacheRows := by
  refine ⟨⟨fun fill s => rfl, fun line m s miss none_ => ?_, fun line l s held => scErr_corrected held,
      fun l d t s oldest idle => congrArg Host.Outcome.next ?_,
      fun l d t s oldest serving => congrArg Host.Outcome.next (scDrain1_of_serving oldest serving)⟩,
    fun s => ⟨s.scDisable, rfl, scDisable_en s, scDisable_drains, scDisable_frame s⟩, fun s draining empty off none_ => ?_,
    fun s draining empty => execScDrainDone_of_empty draining empty, fun s disabled valid control => ?_,
    fun s valid come => ?_⟩
  · rw [scFill_of_miss miss none_]
    exact ⟨fun x hx => bne_iff_ne.mp (List.mem_filter.mp hx).2, ⟨_, _, mapGetD_mapSet_same _ _ _ _, rfl⟩, rfl⟩
  · cases serving : s.scDraining with
    | true => exact scDrain1_of_draining oldest serving
    | false =>
      have none_ : s.sc.wwait = [] := idle.resolve_right (nf' serving)
      rw [scDrain1_of_serving oldest serving, none_]
      exact scWritesGo_nil none_
  · obtain ⟨disabled, drained⟩ := drainShown_flags s
    exact ⟨_, (execScDrainDone_of_empty draining empty).trans (congrArg Host.Outcome.next (scDrained_of_off off none_)),
      disabled, drained, rfl⟩
  · exact ⟨_, congrArg Host.Outcome.next (scEnable_of_disabled disabled valid control), scInvalidate_shows _, rfl, rfl, rfl⟩
  · exact ⟨_, execScInvalidateDone_due valid come,
      (State.flag_setFlag_bit _ _ _ _ _ (by decide) (by decide)).trans (State.flag_setFlag_same _ _ _ _ (by decide)),
      State.flag_setFlag_same _ _ _ _ (by decide), rfl⟩

end Sys2Proof.Proofs
end

section
/-! PROOF. The statements on log streams and on the admin commands for streams, mode, time, routing and firmware. -/

namespace Sys2Proof.Proofs

open Sys2Proof.Machine Sys2Proof.Safety

/-! ### Streams as entries of the stream table -/

@[simp] theorem stream_setStream_same (s : State) (n : Nat) (x : Stream) : (s.setStream n x).stream? n = some x :=
  mapGet_mapSet_same _ _ _

theorem updStream_of_stream {s : State} {n : Nat} {x : Stream} (stream : s.stream? n = some x) (f : Stream → Stream) :
    s.updStream n f = s.setStream n (f x) := by
  unfold State.updStream
  rw [stream]

@[simp] theorem addWear_stream (s : State) (page k n : Nat) : (s.addWear page k).stream? n = s.stream? n := by
  rw [addWear_frame]
  rfl

/-! ### Trim and HOLDING (R111, R122) -/

/-- Only a HOLDING stream (state 2 of Table 06-2) looks for its next stripe. -/
theorem holdCheck_of_not_holding {s : State} {n : Nat} {x : Stream} (stream : s.stream? n = some x) (active : x.state ≠ 2) :
    s.holdCheck n = s := by
  unfold State.holdCheck
  rw [stream]
  exact if_neg active

theorem holdCheck_of_holding {s : State} {n : Nat} {x : Stream} (stream : s.stream? n = some x) (holding : x.state = 2) :
    s.holdCheck n = if s.recyclable x x.nextStripe then (s.setStream n { x with state := 1 }).recycle n x.nextStripe
      else s.setStream n { x with holdAt := s.now } := by
  unfold State.holdCheck
  rw [stream]
  dsimp only
  rw [if_pos holding, updStream_of_stream stream, updStream_of_stream stream]

/-- The trim point of a stream that is not HOLDING is stored in the Keep, and nothing else follows. -/
theorem trim_of_not_holding {s : State} {n : Nat} {x : Stream} (stream : s.stream? n = some x) (active : x.state ≠ 2)
    (go : s.kp.inhibit = false) (seq : Nat) :
    s.trim n seq = (s.setStream n { x with trim := max x.trim (min seq x.vis) }).addWear
      (Config.settingsPage (Reg.SV_LTRIM_LO + n)) 1 := by
  unfold State.trim
  rw [stream]
  dsimp only
  rw [keepRec_allowed go, updStream_of_stream stream]
  exact holdCheck_of_not_holding ((addWear_stream ..).trans (stream_setStream_same ..)) active

theorem exec_holdingRecheck_due {s : State} {n : Nat} {x : Stream} (stream : s.stream? n = some x) (holding : x.state = 2)
    (come : s.due x.holdAt 1000000 = true) : exec (.holdingRecheck n) s = .next (s.holdCheck n) := by
  show execHoldingRecheck n s = _
  unfold execHoldingRecheck
  rw [stream]
  exact congrArg Host.Outcome.next (if_pos ⟨holding, come⟩)

/-! ### Placing a record (R115, R116) -/

/-- A record that fits into the current stripe is placed there, with no frame closed and no stripe recycled. -/
theorem logPlace_of_fits {s : State} {n a st len : Nat} {x : Stream} {r : ArrayRec} (stream : s.stream? n = some x)
    (stripe : s.streamStripe x x.cur = some (a, r, st)) (active : x.state ≠ 2) (fits : recSize len ≤ x.room r) (user : Nat) :
    s.logPlace n len user = s.logAssign n len user := by
  unfold State.logPlace
  rw [stream]
  dsimp only
  rw [stripe]
  exact (if_neg active).trans (if_pos fits)

/-- What the next record of a stream is given: NEXT, a time no earlier than the last, and the first free byte of the current
stripe, whose records then end after it. -/
theorem logAssign_of_stream {s : State} {n : Nat} {x : Stream} (stream : s.stream? n = some x) (len user : Nat) :
    ∃ op y, s.logAssign n len user = (.ok op, s.setStream n y) ∧ op.seq = x.next ∧ op.time = max s.time x.lastTime ∧
      op.stripe = x.cur ∧ y.next = x.next + 1 ∧ y.lastTime = op.time ∧ op.off = 64 + (x.at_ x.cur).used ∧
      (y.at_ x.cur).used = (x.at_ x.cur).used + recSize len := by
  unfold State.logAssign
  rw [stream]
  exact ⟨_, _, rfl, rfl, rfl, rfl, rfl, rfl, rfl, congrArg LogStripe.used (mapGetD_mapSet_same _ _ _ _)⟩

/-- Settles O27. -/
theorem streams : Obligations.Streams := by
  refine ⟨fun n seq x s stream active go => ?_, fun n len user a st r x s stream stripe active fits => ?_,
    fun n x s stream holding come => ?_⟩
  · rw [trim_of_not_holding stream active go seq]
    exact ⟨_, (addWear_stream ..).trans (stream_setStream_same ..), rfl, le_max_left _ _, addWear_mem ..,
      by rw [addWear_frame]; rfl⟩
  · obtain ⟨op, y, placed, record⟩ := logAssign_of_stream stream len user
    rw [logPlace_of_fits stream stripe active fits user, placed]
    exact ⟨op, y, rfl, rfl, record⟩
  · rw [exec_holdingRecheck_due stream holding come, holdCheck_of_holding stream holding]

/-! ### SET_MODE (R257, R258) -/

theorem setMode_same {s : State} {m : Nat} (same : s.mode = m) : s.setMode m = s := if_pos same

theorem setMode_service {s : State} (other : s.mode ≠ 1) : s.setMode 1 = (s.setFld Reg.RV_MODE 1 0 1).offlineAll :=
  if_neg other

theorem setMode_recovery {s : State} (other : s.mode ≠ 2) :
    s.setMode 2 = (List.range 4).foldl State.backOnline (s.setFld Reg.RV_MODE 1 0 2) := if_neg other

/-- A mode that neither takes arrays offline nor brings them back is stored in its field, no more. -/
theorem setMode_plain {s : State} {m : Nat} (other : s.mode ≠ m) (m1 : m ≠ 1) (m2 : m ≠ 2) :
    s.setMode m = s.setFld Reg.RV_MODE 1 0 m := (if_neg other).trans ((if_neg m2).trans (if_neg m1))

theorem mode_setFld (s : State) {m : Nat} (h : m < 4) : (s.setFld Reg.RV_MODE 1 0 m).mode = m :=
  (State.fld_setFld_same s Reg.RV_MODE 1 0 m (by decide) (by decide)).trans (Nat.mod_eq_of_lt h)

/-! ### TIME_SET (R345) -/

/-- The offset stored for a device time t, added to the count it was taken from, gives t again. -/
theorem add_timeOffset (now : Nat) {t : Nat} (h : t < 2 ^ 64) :
    (now + (t + 2 ^ 64 - now % 2 ^ 64) % 2 ^ 64) % 2 ^ 64 = t := by
  omega

theorem timeSet_eq {s : State} (go : s.kp.inhibit = false) (t : Nat) : s.timeSet t =
    (State.addWear { s with kp.timeOff := (t + 2 ^ 64 - s.now % 2 ^ 64) % 2 ^ 64 }
      (Config.settingsPage (Reg.SS_TSAVE_LO + 8)) 1).setFlag Reg.SS_STATUS 11 false := by
  unfold State.timeSet
  rw [keepRec_allowed go]

theorem timeSet_effect {s : State} {t : Nat} (h : t < 2 ^ 64) (go : s.kp.inhibit = false) :
    (s.timeSet t).time = t ∧ (s.timeSet t).flag Reg.SS_STATUS 11 = false ∧ (s.timeSet t).mem = s.mem ∧
      (s.timeSet t).cmds = s.cmds := by
  rw [timeSet_eq go]
  generalize hu : ({ s with kp.timeOff := (t + 2 ^ 64 - s.now % 2 ^ 64) % 2 ^ 64 } : State) = u
  obtain ⟨-, mem, cmds, now, off, -⟩ := addWear_f u (Config.settingsPage (Reg.SS_TSAVE_LO + 8)) 1
  refine ⟨?_, State.flag_setFlag_same _ _ _ _ (by decide), by rw [State.setFlag_mem, mem, ← hu],
    by rw [State.setFlag_cmds, cmds, ← hu]⟩
  rw [State.time, State.setFlag_now, State.setFlag_kp, now, off, ← hu]
  exact add_timeOffset s.now h

/-! ### The commands as rows -/

/-- Settles O31: each command acts once its checks have passed. -/
theorem serviceAdmin : Obligations.ServiceAdmin := by
  refine ⟨fun h o c s ready pass data => ?_, fun t s lt go => timeSet_effect lt go, fun m s lt m1 m2 => ?_,
    fun s => setMode_recovery, fun s => setMode_service, fun s => setMode_same⟩
  · obtain rfl : c.h = h := adminReady_h ready
    have row : ∀ act : State → Cmd → State,
        Host.Outcome.next (s.adminRun c.h o act).settle = (.next (act s c).settle : Out) := fun act => by
      rw [adminRun_acts ready pass data act]
    refine ⟨?_, ?_, ?_, ?_, ?_, ?_, ?_, ?_, ?_, ?_, ?_, ?_⟩ <;> rintro rfl
    · exact row State.streamCreate
    · exact row State.streamDelete
    · exact row fun s c => (s.setMode (Ent.p1 c.ent + 1)).adminEnd c.h St.success 0
    · exact row State.writeBack
    · exact row fun s c => (s.timeSet (Ent.p0 c.ent)).adminEnd c.h St.success s.time
    · exact row fun s c => ((s.goLong c).commStart c.h).mwTell s
    · exact row fun s c => (s.memPut (fwArea + Ent.p0 c.ent) c.adminData).adminEnd c.h St.success 0
    · exact row State.fwActivate
    · exact row State.getNonce
    · exact row State.almanacClear
    · exact row State.keySet
    · exact row fun s c => State.adminEnd { s with
        rg.routeRing := Ent.p1 c.ent % 4, rg.routeSev := bits (Ent.p1 c.ent) 6 4 } c.h St.success 0
  · by_cases same : s.mode = m
    · rw [setMode_same same]
      exact ⟨same, rfl⟩
    · rw [setMode_plain same m1 m2]
      exact ⟨mode_setFld s lt, rfl⟩

end Sys2Proof.Proofs
end

section
/-! PROOF. The statement on credit: grants, refusals and the ends of waits. -/

namespace Sys2Proof.Proofs

open Sys2Proof.Machine Sys2Proof.Safety

/-! ### Requests for credit (R135, R136) -/

theorem tlFits_iff (s : State) (n : Nat) :
    s.tlFits n = true ↔ s.gate = Gate.metered ∧ s.committed + 4096 * n ≤ s.ceiling := by
  simp only [State.tlFits, Bool.and_eq_true, beq_iff_eq, decide_eq_true_eq]

/-- A request that finds none waiting, and fits, is granted and reserved. -/
theorem tlAsk_of_fits {s : State} {blks : List Nat} (first : s.tl.waitQ = []) (fits : s.tlFits blks.length = true) (h : Nat)
    (alone : Bool) : s.tlAsk h blks alone = (.granted, s.tlReserve h blks) := by
  obtain ⟨metered, -⟩ := (tlFits_iff s _).mp fits
  have notPfd : s.gate ≠ Gate.pfd := by rw [metered]; decide
  have notCold : s.gate ≠ Gate.cold := by rw [metered]; decide
  unfold State.tlAsk
  dsimp only
  rw [if_neg notPfd, if_neg notCold]
  exact if_pos (by rw [first, fits]; rfl)

/-- Only the branch of a request that is first and fits answers with a grant. -/
theorem fits_of_tlAsk_granted {s : State} {h : Nat} {blks : List Nat} {alone : Bool}
    (granted : (s.tlAsk h blks alone).1 = .granted) : s.tl.waitQ = [] ∧ s.tlFits blks.length = true := by
  by_cases ok : (s.tl.waitQ.isEmpty && s.tlFits blks.length) = true
  · obtain ⟨first, fits⟩ := Bool.and_eq_true_iff.mp ok
    exact ⟨List.isEmpty_iff.mp first, fits⟩
  · unfold State.tlAsk at granted
    dsimp only at granted
    rw [if_neg ok] at granted
    split_ifs at granted

theorem tlAsk_granted_iff (s : State) (h : Nat) (blks : List Nat) (alone : Bool) :
    (s.tlAsk h blks alone).1 = .granted ↔ s.tl.waitQ = [] ∧ s.tlFits blks.length = true :=
  ⟨fits_of_tlAsk_granted, fun ⟨first, fits⟩ => by rw [tlAsk_of_fits first fits]⟩

/-- A cold gate refuses at once (R136). -/
theorem tlAsk_of_cold {s : State} (cold : s.gate = Gate.cold) (h : Nat) (blks : List Nat) (alone : Bool) :
    s.tlAsk h blks alone = (.refused, s.bump Reg.TL_REFUSED_NOW) := by
  have notPfd : s.gate ≠ Gate.pfd := by rw [cold]; decide
  unfold State.tlAsk
  dsimp only
  rw [if_neg notPfd, if_pos cold]

/-! ### Reservations -/

/-- The entry of command h holds what it held and the new blocks. -/
theorem tlReserve_resv (s : State) (h : Nat) (blks : List Nat) :
    ∃ old, (s.tlReserve h blks).tl.resv = (s.tl.resv.filter fun e => e.1 != h) ++ [(h, old ++ blks)] := ⟨_, rfl⟩

theorem tlHas_tlReserve {blks : List Nat} {b : Nat} (mem : b ∈ blks) (s : State) (h : Nat) :
    (s.tlReserve h blks).tlHas h b = true := by
  obtain ⟨old, resv⟩ := tlReserve_resv s h blks
  unfold State.tlHas
  rw [resv, List.any_append]
  simp [mem]

/-! ### The ends of waits (R138) -/

theorem execCreditWaitGrant_of_fits {q : TReq} {t : List TReq} {s : State} (line : s.tl.waitQ = q :: t)
    (fits : s.tlFits q.blks.length = true) : exec .creditWaitGrant s =
      .next ((State.bump { s with tl.waitQ := t } Reg.TL_WAITED).tlAnswer q true) := by
  show execCreditWaitGrant s = _
  unfold execCreditWaitGrant
  rw [line]
  exact congrArg Host.Outcome.next (if_pos fits)

theorem execCreditWaitTimeout_due {q : TReq} {s : State} (notPfd : s.gate ≠ Gate.pfd)
    (due : (s.tl.waitQ.find? fun q => s.due q.since s.tlWaitUs) = some q) : exec .creditWaitTimeout s =
      .next ((State.bump { s with tl.waitQ := s.tl.waitQ.erase q } Reg.TL_TIMEOUTS).tlAnswer q false) := by
  show execCreditWaitTimeout s = _
  unfold execCreditWaitTimeout
  rw [if_neg notPfd, due]

section
variable {q : TReq} {c : Cmd} {s : State} (cmd : s.cmd? q.h = some c) (write : c.log = none) (whole : q.alone = false)

include cmd write whole

/-- A WRITE whose wait ends with its credit goes on as a credited one. -/
theorem tlAnswer_write_granted : s.tlAnswer q true =
    ((s.tlReserve q.h q.blks).updCmd q.h fun c => { c with credited := true }).writeGo q.h := by
  have cmd' : (s.tlReserve q.h q.blks).cmd? q.h = some c := cmd
  unfold State.tlAnswer
  simp only [if_true, cmd', write, whole, Option.isSome_none, Bool.false_eq_true, if_false]

/-- A WRITE whose wait ends without credit goes on write-through. -/
theorem tlAnswer_write_refused : s.tlAnswer q false = (s.goWt q.h).writeGo q.h := by
  unfold State.tlAnswer
  simp only [cmd, write, whole, Option.isSome_none, Bool.false_eq_true, if_false]

end

/-- Settles O33. -/
theorem creditRule : Obligations.CreditRule := by
  refine ⟨fun h blks alone s => ?_, fun h blks alone s granted => ?_, fun h blks alone s cold => tlAsk_of_cold cold h blks alone,
    fun q t s line fits => ⟨_, execCreditWaitGrant_of_fits line fits, State.reg_bump_same _ _, rfl⟩,
    fun q s notPfd due => ⟨_, execCreditWaitTimeout_due notPfd due, State.reg_bump_same _ _, rfl⟩,
    fun q c s cmd write whole => ⟨tlAnswer_write_granted cmd write whole, tlAnswer_write_refused cmd write whole⟩⟩
  · rw [tlAsk_granted_iff, tlFits_iff]
    exact and_left_comm
  · obtain ⟨first, fits⟩ := fits_of_tlAsk_granted granted
    exact ⟨by rw [tlAsk_of_fits first fits], fun b mem => tlHas_tlReserve mem s h⟩

end Sys2Proof.Proofs
end

section
/-! PROOF. The statement on supplies: VIN's return and break, resumption, the Droop Guard and VDD_KEEP. -/

namespace Sys2Proof.Proofs

open Sys2Proof.Machine Sys2Proof.Safety

/-! ### VIN's return and its break (R149, R164) -/

theorem exec_vinReturn_high {mv : Nat} {s : State} (high : s.vinTh + 1000 ≤ mv) :
    exec (.vinReturn mv) s = .next (s.vinUp mv).vinMark :=
  congrArg Host.Outcome.next (if_neg (Nat.not_lt.mpr high))

theorem exec_vinBreak_low {mv : Nat} {s : State} (low : mv < s.vinTh + 1000) :
    exec (.vinBreak mv) s = .next (s.vinSeen mv).vinGone :=
  congrArg Host.Outcome.next (if_pos low)

/-- A measurement of VIN is no declaration of PFD. -/
theorem pfd_vinUp (s : State) (mv : Nat) : (s.vinUp mv).pfd = s.pfd :=
  State.flag_setReg_ne _ _ _ _ _ (by decide)

theorem vinMark_frame (s : State) : s.vinMark = { s with regs := s.vinMark.regs, hm := s.vinMark.hm } := by
  unfold State.vinMark
  split <;> rfl

theorem vinMark_shows (s : State) : s.vinMark.flag Reg.SS_STATUS 1 = true := by
  unfold State.vinMark
  split <;> exact State.flag_setFlag_same _ _ _ _ (by decide)

/-- During PFD the first return starts the resumption wait (R164). -/
theorem vinMark_starts {s : State} (pfd : s.pfd = true) (first : s.hm.vinAt = none) :
    s.vinMark.hm.vinAt = some s.now ∧ s.vinMark.flag Reg.HM_STATUS 8 = true := by
  have starts : ¬(!s.pfd ∨ s.hm.vinAt.isSome) := by simp [pfd, first]
  unfold State.vinMark
  rw [if_neg starts]
  exact ⟨rfl, (State.flag_setFlag_ne _ _ _ _ _ _ (by decide)).trans (State.flag_setFlag_same _ _ _ _ (by decide))⟩

theorem vinGone_clears (s : State) :
    s.vinGone.flag Reg.SS_STATUS 1 = false ∧ s.vinGone.flag Reg.HM_STATUS 8 = false :=
  ⟨(State.flag_setFlag_ne _ _ _ _ _ _ (by decide)).trans (State.flag_setFlag_same _ _ _ _ (by decide)),
    State.flag_setFlag_same _ _ _ _ (by decide)⟩

/-! ### Resumption (R165) -/

theorem exec_resumeWaitExpiry_due {s : State} {t : Nat} (returned : s.hm.vinAt = some t) (pfd : s.pfd = true)
    (ended : s.flag Reg.HM_STATUS 3 = true) (come : s.due t s.resumeUs = true) (noReset : s.hm.rstWait = false) :
    exec .resumeWaitExpiry s = .next s.serviceResume.settle := by
  show execResumeWaitExpiry s = _
  unfold execResumeWaitExpiry
  rw [returned]
  exact congrArg Host.Outcome.next (if_pos ⟨pfd, ended, come, noReset⟩)

/-! ### Droop stages (R378, Table 17-12) -/

/-- The stage that VDD_CORE enters from stage 0 at code 0. -/
def droopEntry (mv : Nat) : Nat := if mv < 640 then 2 else if mv < 700 then 1 else 0

theorem droopEntry_lt (mv : Nat) : droopEntry mv < 4 := by
  unfold droopEntry
  split_ifs <;> decide

theorem droopEntry_eq_zero_iff (mv : Nat) : droopEntry mv = 0 ↔ ¬mv < 700 := by
  unfold droopEntry
  split_ifs <;> simp <;> omega

/-- A stage not in force comes below its threshold alone. -/
@[simp] theorem stageOn_of_off (mv below rel : Nat) : stageOn false mv below rel = decide (mv < below) := by simp [stageOn]

theorem droopEval_frame (s : State) (mv : Nat) : s.droopEval mv = { s with regs := (s.droopEval mv).regs } := by
  unfold State.droopEval
  dsimp only
  split_ifs <;> rfl

@[simp] theorem droopEval_pw (s : State) (mv : Nat) : (s.droopEval mv).pw = s.pw := by rw [droopEval_frame]

theorem droopEval_of_idle {s : State} (code : s.droopCode = 0) (idle : s.fld Reg.SS_STATUS 3 2 = 0) (mv : Nat) :
    s.droopEval mv = if mv < 700 then (s.setFld Reg.SS_STATUS 3 2 (droopEntry mv)).bump Reg.SS_DROOPS
      else s.setFld Reg.SS_STATUS 3 2 (droopEntry mv) := by
  have enters : (if stageOn (0 == 2) mv 640 660 then 2 else if stageOn (0 != 0) mv 700 720 then 1 else 0) = droopEntry mv := by
    simp [droopEntry]
  unfold State.droopEval
  simp only [code, idle, droopTh, if_true, enters, true_and, ne_eq, droopEntry_eq_zero_iff, not_not]

/-- From stage 0 at code 0 the stage entered shows, and entering one is counted. -/
theorem droopEval_effect {s : State} (code : s.droopCode = 0) (idle : s.fld Reg.SS_STATUS 3 2 = 0) (mv : Nat) :
    (s.droopEval mv).fld Reg.SS_STATUS 3 2 = droopEntry mv ∧
    (s.droopEval mv).reg Reg.SS_DROOPS = if mv < 700 then sat32 (s.reg Reg.SS_DROOPS + 1) else s.reg Reg.SS_DROOPS := by
  have shown : (s.setFld Reg.SS_STATUS 3 2 (droopEntry mv)).fld Reg.SS_STATUS 3 2 = droopEntry mv :=
    (State.fld_setFld_same _ _ _ _ _ (by decide) (by decide)).trans (Nat.mod_eq_of_lt (droopEntry_lt mv))
  have kept : (s.setFld Reg.SS_STATUS 3 2 (droopEntry mv)).reg Reg.SS_DROOPS = s.reg Reg.SS_DROOPS :=
    State.reg_setFld_ne _ _ _ _ _ _ (by decide)
  rw [droopEval_of_idle code idle]
  split
  · exact ⟨(State.fld_bump_ne _ _ _ _ _ (by decide)).trans shown, by rw [State.reg_bump_same, kept]⟩
  · exact ⟨shown, kept⟩

/-- The old code's thresholds end 50 µs after a change of code. -/
theorem exec_vcoreSettleExpiry_due {s : State} (come : s.due s.pw.codeAt 50 = true) : exec .vcoreSettleExpiry s =
    .next (State.droopEval { s with pw.oldCode := s.fld Reg.SS_STATUS 10 9 } (s.reg Reg.SS_VDDC)) :=
  congrArg Host.Outcome.next (if_pos come)

/-! ### Dump-only (R378, Table 17-3) -/

/-- Is dump-only in force at a voltage? It comes below 580 mV and holds up to 585 mV. -/
def dumpOnlyAt (s : State) (mv : Nat) : Bool := decide (mv < 580) || (s.flag Reg.SS_STATUS 4 && decide (mv ≤ 585))

/-- The state that shows dump-only as it is, with its voltage. -/
def dumpOnlyShown (s : State) (mv : Nat) : State :=
  ((s.setReg Reg.SS_VDDC (min mv 0xFFFF)).setFlag Reg.SS_STATUS 4 (dumpOnlyAt s mv)).setFlag Reg.LM_STATUS 4 (dumpOnlyAt s mv)

theorem dumpOnlyShown_flags (s : State) (mv : Nat) : (dumpOnlyShown s mv).flag Reg.SS_STATUS 4 = dumpOnlyAt s mv ∧
    (dumpOnlyShown s mv).flag Reg.LM_STATUS 4 = dumpOnlyAt s mv :=
  ⟨(State.flag_setFlag_ne _ _ _ _ _ _ (by decide)).trans (State.flag_setFlag_same _ _ _ _ (by decide)),
    State.flag_setFlag_same _ _ _ _ (by decide)⟩

theorem dumpOnlyShown_count (s : State) (mv : Nat) :
    (dumpOnlyShown s mv).reg Reg.SS_DUMPONLY = s.reg Reg.SS_DUMPONLY := by
  unfold dumpOnlyShown
  rw [State.reg_setFlag_ne _ _ _ _ _ (by decide), State.reg_setFlag_ne _ _ _ _ _ (by decide),
    State.reg_setReg_ne _ _ _ _ (by decide)]

/-- Dump-only comes anew exactly below 580 mV. -/
theorem dumpOnlyAt_enters_iff (s : State) (mv : Nat) :
    (dumpOnlyAt s mv && !s.flag Reg.SS_STATUS 4) = true ↔ mv < 580 ∧ s.flag Reg.SS_STATUS 4 = false := by
  cases was : s.flag Reg.SS_STATUS 4 <;> simp [dumpOnlyAt, was]

theorem exec_dumpOnlyEntry_eq (s : State) (mv : Nat) : exec (.dumpOnlyEntry mv) s =
    .next (if mv < 580 ∧ s.flag Reg.SS_STATUS 4 = false then (dumpOnlyShown s mv).bump Reg.SS_DUMPONLY
      else dumpOnlyShown s mv) := by
  have holds : stageOn (s.flag Reg.SS_STATUS 4) mv 580 585 = dumpOnlyAt s mv := by simp [stageOn, dumpOnlyAt]
  show execDumpOnlyEntry mv s = _
  unfold execDumpOnlyEntry
  simp only [holds, dumpOnlyAt_enters_iff]
  rfl

theorem exec_dumpOnlyEntry_effect (s : State) (mv : Nat) : ∃ u : State, exec (.dumpOnlyEntry mv) s = .next u ∧
    u.flag Reg.SS_STATUS 4 = dumpOnlyAt s mv ∧ u.flag Reg.LM_STATUS 4 = u.flag Reg.SS_STATUS 4 ∧
    u.reg Reg.SS_DUMPONLY = (if mv < 580 ∧ s.flag Reg.SS_STATUS 4 = false then sat32 (s.reg Reg.SS_DUMPONLY + 1)
      else s.reg Reg.SS_DUMPONLY) ∧ u = { s with regs := u.regs } := by
  obtain ⟨ss, lm⟩ := dumpOnlyShown_flags s mv
  refine ⟨_, exec_dumpOnlyEntry_eq s mv, ?_⟩
  split
  · have ss' := (State.flag_bump_ne (dumpOnlyShown s mv) Reg.SS_DUMPONLY Reg.SS_STATUS 4 (by decide)).trans ss
    have lm' := (State.flag_bump_ne (dumpOnlyShown s mv) Reg.SS_DUMPONLY Reg.LM_STATUS 4 (by decide)).trans lm
    exact ⟨ss', lm'.trans ss'.symm, by rw [State.reg_bump_same, dumpOnlyShown_count], rfl⟩
  · exact ⟨ss, lm.trans ss.symm, dumpOnlyShown_count s mv, rfl⟩

/-! ### VDD_KEEP (R353) -/

theorem exec_keepLowVoltage_low {mv : Nat} (low : mv < 740) (s : State) : exec (.keepLowVoltage mv) s =
    .next (State.setFlag { s with kp.inhibit := true } Reg.KP_STATUS 0 false) :=
  congrArg Host.Outcome.next (if_pos low)

/-- Settles O10. -/
theorem supplyReturns : Obligations.SupplyReturns := by
  refine ⟨⟨fun mv s high => ?_, fun mv s low => ?_,
      fun s t returned pfd ended come noReset => exec_resumeWaitExpiry_due returned pfd ended come noReset⟩,
    fun mv s code idle => ?_, fun mv s => exec_dumpOnlyEntry_effect s mv,
    fun s come => ⟨_, exec_vcoreSettleExpiry_due come, ?_, ?_⟩,
    fun s _ mv low => ⟨_, exec_keepLowVoltage_low low s, rfl, State.flag_setFlag_same _ _ _ _ (by decide), rfl, rfl, rfl⟩⟩
  · have frame := vinMark_frame (s.vinUp mv)
    refine ⟨_, exec_vinReturn_high high, ?_, ?_, vinMark_shows _, fun pfd first => ?_, ?_, ?_, ?_⟩
    case refine_3 => exact vinMark_starts ((pfd_vinUp s mv).trans pfd) first
    all_goals rw [frame]; rfl
  · obtain ⟨ss, hm⟩ := vinGone_clears (s.vinSeen mv)
    exact ⟨_, exec_vinBreak_low low, rfl, ss, hm, rfl, rfl, rfl, rfl⟩
  · have code' : (s.setReg Reg.SS_VDDC (min mv 0xFFFF)).droopCode = 0 := by
      rw [State.droopCode, State.fld_setReg_ne _ _ _ _ _ _ (by decide)]
      exact code
    have idle' := (State.fld_setReg_ne s Reg.SS_VDDC Reg.SS_STATUS (min mv 0xFFFF) 3 2 (by decide)).trans idle
    obtain ⟨shown, count⟩ := droopEval_effect code' idle' mv
    rw [State.reg_setReg_ne _ _ _ _ (by decide)] at count
    exact ⟨_, rfl, shown, count, droopEval_frame _ mv⟩
  · rw [droopEval_pw]
  · rw [droopEval_pw]
    exact droopEval_frame _ _

end Sys2Proof.Proofs
end

section
/-! PROOF. What the Millwheel's own updates leave alone, and the statement on its states: entry, start, stop and clear. -/

namespace Sys2Proof.Proofs

open Sys2Proof.Machine Sys2Proof.Safety

/-! ### What the wheel's own updates leave alone -/

/-! A change of the drive changes mw only. -/
@[simp] theorem mwSt_mw (s : State) (f : Mw → Mw) : (s.mwSt f).mw = f s.mw := rfl
@[simp] theorem mwSt_reg (s : State) (f : Mw → Mw) (k : Nat) : (s.mwSt f).reg k = s.reg k := rfl
@[simp] theorem mwSt_fld (s : State) (f : Mw → Mw) (k hi lo : Nat) : (s.mwSt f).fld k hi lo = s.fld k hi lo := rfl
@[simp] theorem mwSt_flag (s : State) (f : Mw → Mw) (k i : Nat) : (s.mwSt f).flag k i = s.flag k i := rfl
@[simp] theorem mwSt_mwState (s : State) (f : Mw → Mw) : (s.mwSt f).mwState = s.mwState := rfl

/-! The preset of an entry into RUN or BRAKE changes mw only. -/
@[simp] theorem mwPreset_mwState (s : State) : s.mwPreset.mwState = s.mwState := rfl
@[simp] theorem mwPreset_comm (s : State) : s.mwPreset.mw.comm = s.mw.comm := rfl

/-- A flag of MW_STATUS above its STATE field leaves the state alone. -/
theorem mwState_setFlag (s : State) {i : Nat} (b : Bool) (above : 4 ≤ i) : (s.setFlag Reg.MW_STATUS i b).mwState = s.mwState :=
  (MwR.flag s i b above).st

theorem mwState_setReg_ne (s : State) (k v : Nat) (other : Reg.MW_STATUS ≠ k) : (s.setReg k v).mwState = s.mwState :=
  (MwR.reg s k v other).st

theorem mwState_bump_ne (s : State) (k : Nat) (other : Reg.MW_STATUS ≠ k) : (s.bump k).mwState = s.mwState :=
  mwState_setReg_ne s k _ other

/-- A setting in force is read from its own register alone. -/
theorem mwFld_congr {s t : State} {k : Nat} (old : t.mw.old = s.mw.old) (reg : t.reg k = s.reg k) (hi lo : Nat) :
    t.mwFld k hi lo = s.mwFld k hi lo := by
  unfold State.mwFld State.mwSet
  rw [old, reg]

theorem mwFld_setFlag_ne (s : State) (k i q hi lo : Nat) (b : Bool) (other : q ≠ k) :
    (s.setFlag k i b).mwFld q hi lo = s.mwFld q hi lo :=
  mwFld_congr (s := s) (t := s.setFlag k i b) rfl (State.reg_setFlag_ne _ _ _ _ _ other) hi lo

/-- With no write waiting, a setting in force is the register's field. -/
theorem mwFld_of_settled {s : State} (settled : s.mw.old = []) (k hi lo : Nat) : s.mwFld k hi lo = s.fld k hi lo := by
  unfold State.mwFld State.mwSet
  rw [settled]
  rfl

/-! HUB and its thresholds do not depend on the flags of MW_STATUS. -/
theorem hubV_setFlag (s : State) (i : Nat) (b : Bool) : (s.setFlag Reg.MW_STATUS i b).hubV = s.hubV := by
  unfold State.hubV
  rw [State.fld_setFlag_ne _ _ _ _ _ _ _ (by decide)]

theorem hubHi_setFlag (s : State) (i : Nat) (b : Bool) : (s.setFlag Reg.MW_STATUS i b).hubHi = s.hubHi := by
  unfold State.hubHi
  rw [mwFld_setFlag_ne _ _ _ _ _ _ _ (by decide)]

theorem chopHys_setFlag (s : State) (i : Nat) (b : Bool) : (s.setFlag Reg.MW_STATUS i b).chopHys = s.chopHys := by
  unfold State.chopHys
  rw [mwFld_setFlag_ne _ _ _ _ _ _ _ (by decide)]

theorem bemf_setFlag (s : State) (i : Nat) (b : Bool) : (s.setFlag Reg.MW_STATUS i b).bemf = s.bemf := by
  unfold State.bemf State.psiM
  rw [State.flag_setFlag_ne _ _ _ _ _ _ (by decide), State.reg_setFlag_ne _ _ _ _ _ (by decide),
    mwFld_setFlag_ne _ _ _ _ _ _ _ (by decide)]
  rfl

/-! ### Entry into a state (R175, R186, Table 09-5) -/

theorem mwGo_eq (st : Nat) (s : State) : s.mwGo st = { s with regs := (s.mwGo st).regs, mw := (s.mwGo st).mw } :=
  (mwGo_frame st s).1

theorem reg_mwGo_ne (st : Nat) (s : State) {q : Nat} (other : q ≠ Reg.MW_STATUS) : (s.mwGo st).reg q = s.reg q := by
  obtain ⟨-, kept, -⟩ := mwGo_frame st s
  exact kept q other

/-- Only STATE and FB_LOST change in MW_STATUS. -/
theorem flag_mwGo (st : Nat) (s : State) {i : Nat} (above : 4 ≤ i) (fits : i < 32) (notFb : i ≠ 10) :
    (s.mwGo st).flag Reg.MW_STATUS i = s.flag Reg.MW_STATUS i := by
  obtain ⟨-, -, kept, -⟩ := mwGo_frame st s
  exact kept i above fits notFb

@[simp] theorem mwGo_comm (st : Nat) (s : State) : (s.mwGo st).mw.comm = s.mw.comm := by
  obtain ⟨-, -, -, -, -, kept, -⟩ := mwGo_frame st s
  exact kept

@[simp] theorem mwGo_since (st : Nat) (s : State) : (s.mwGo st).mw.at_ = s.now := by
  obtain ⟨-, -, -, -, -, -, since⟩ := mwGo_frame st s
  exact since

theorem mwGo_gates_off {st : Nat} (opens : st = Ms.off ∨ st = Ms.fault ∨ st = Ms.catch_) (s : State) :
    (s.mwGo st).mw.gates = 0 := by
  obtain rfl | rfl | rfl := opens <;> rfl

theorem mwGo_gates_short (s : State) : (s.mwGo Ms.short).mw.gates = if s.pw.held then 0 else vecGates 0 := rfl

/-- Entry into OFF puts every waiting setting in force. -/
theorem mwGo_off_settled (s : State) : (s.mwGo Ms.off).mw.old = [] := rfl

/-- The Tally recomputes after the entry into another state. -/
theorem mwTell_mwGo {st : Nat} {s v : State} (lt : st < 16) (other : st ≠ s.mwState) : (v.mwGo st).mwTell s = (v.mwGo st).tlUpdate :=
  State.mwTell_of_ne (by rw [enters st v lt]; exact other)

/-! ### Start, stop and clear (R186, R188, R192, R195) -/

/-- A start command whose conditions and self-test hold leaves OFF. -/
theorem exec_mwStartCommand_starts {fb : Bool} {s v : State} (asked : v = (s.setFlag Reg.MW_STATUS 14 s.noModel).mwAsk)
    (off : v.mwState = Ms.off) (may : v.mwMayStart = true) (noComm : v.flag Reg.MW_STATUS 12 = false)
    (test : v.hubV < 20 ∨ fb = true) : exec (.mwStartCommand fb) s = .next (v.mwStart.mwTell v) := by
  subst asked
  show execMwStartCommand fb s = _
  unfold execMwStartCommand
  dsimp only
  rw [if_neg (by simp [off, may, noComm]), chopOk _ _ test]

theorem mwStart_mwState (v : State) : v.mwStart.mwState = (if v.flag Reg.MW_STATUS 8 = false then Ms.catch_
    else if v.mwRpm < -(v.rpmAlign : Rat) then Ms.brake else Ms.run) := by
  unfold State.mwStart
  cases v.flag Reg.MW_STATUS 8
  · exact enters Ms.catch_ _ (by decide)
  · simp only [if_true, Bool.true_eq_false, if_false]
    split
    · exact enters Ms.brake _ (by decide)
    · exact enters Ms.run _ (by decide)

theorem exec_mwStopCommand_stops {s v : State} (asked : v = s.mwAsk) (stopping : v.mwStopping = true)
    (supply : v.supplyFail = false) : exec .mwStopCommand s = .next (v.mwStop.mwTell v) := by
  subst asked
  exact congrArg Host.Outcome.next (if_pos ⟨stopping, supply⟩)

theorem commEnd_of_none {s : State} (noComm : s.mw.comm = none) (res : Nat) : s.commEnd res = s := by
  unfold State.commEnd
  rw [noComm]

theorem mwStop_starting {v : State} (noComm : v.mw.comm = none)
    (starting : v.mwState = Ms.catch_ ∨ v.mwState = Ms.align ∨ v.mwState = Ms.ramp) : v.mwStop.mwState = Ms.off := by
  unfold State.mwStop
  rw [commEnd_of_none noComm]
  dsimp only
  rw [if_pos starting]
  exact enters _ _ (by decide)

theorem mwStop_running {v : State} (noComm : v.mw.comm = none) (running : v.mwState = Ms.run ∨ v.mwState = Ms.hold) :
    v.mwStop.mwState = if v.flag Reg.MW_CTRL 1 ∧ v.flag Reg.MW_CTRL 0 then Ms.brake else Ms.off := by
  have notStarting : ¬(v.mwState = Ms.catch_ ∨ v.mwState = Ms.align ∨ v.mwState = Ms.ramp) := by
    obtain h | h := running <;> rw [h] <;> decide
  unfold State.mwStop
  rw [commEnd_of_none noComm]
  dsimp only
  rw [if_neg notStarting, if_pos running]
  split <;> exact enters _ _ (by decide)

/-- What CLEAR leaves in FAULT with HUB below HUB_HI and a good self-test. -/
def clearedWheel (s : State) : State :=
  (((s.setFlag Reg.MW_STATUS 5 false).mwGo Ms.off).setFlag Reg.MW_STATUS 4 false).setFld Reg.MW_STATUS 19 16 0

theorem mwClear_of_fault {s : State} (fault : s.mwState = Ms.fault) (low : s.hubV < s.hubHi) :
    s.mwClear true = clearedWheel s := by
  have still : (s.setFlag Reg.MW_STATUS 5 false).mwState = Ms.fault := (mwState_setFlag s false (by decide)).trans fault
  have low' : (s.setFlag Reg.MW_STATUS 5 false).hubV < (s.setFlag Reg.MW_STATUS 5 false).hubHi := by
    rw [hubV_setFlag, hubHi_setFlag]
    exact low
  unfold State.mwClear
  rw [chopOk s true (.inr rfl)]
  exact if_pos ⟨still, low'⟩

theorem clearedWheel_off (s : State) : (clearedWheel s).mwState = Ms.off := by
  refine (State.fld_setFld_disj _ _ _ _ _ _ _ (by decide) (by decide) (by decide)).trans ?_
  exact (mwState_setFlag _ false (by decide)).trans (enters Ms.off _ (by decide))

theorem clearedWheel_flags (s : State) : (clearedWheel s).flag Reg.MW_STATUS 4 = false ∧
    (clearedWheel s).flag Reg.MW_STATUS 5 = false ∧ (clearedWheel s).fld Reg.MW_STATUS 19 16 = 0 := by
  refine ⟨?_, ?_, State.fld_setFld_same _ _ _ _ _ (by decide) (by decide)⟩
  · exact (State.flag_setFld_disj _ _ _ _ _ _ (by decide) (by decide) (by decide)).trans
      (State.flag_setFlag_same _ _ _ _ (by decide))
  · rw [clearedWheel, State.flag_setFld_disj _ _ _ _ _ _ (by decide) (by decide) (by decide),
      State.flag_setFlag_bit _ _ _ _ _ (by decide) (by decide), flag_mwGo _ _ (by decide) (by decide) (by decide)]
    exact State.flag_setFlag_same _ _ _ _ (by decide)

theorem clearedWheel_frame (s : State) :
    clearedWheel s = { s with regs := (clearedWheel s).regs, mw := (clearedWheel s).mw } := by
  unfold clearedWheel
  rw [mwGo_eq]
  rfl

theorem exec_mwClear_of_fault {s : State} (fault : s.mwState = Ms.fault) (low : s.hubV < s.hubHi) :
    exec (.mwClear true) s = .next (clearedWheel s).tlUpdate := by
  show execMwClear true s = _
  unfold execMwClear
  rw [mwClear_of_fault fault low, State.mwTell_of_ne (by rw [clearedWheel_off, fault]; decide)]

/-- Settles O39. -/
theorem millwheelStates : Obligations.MillwheelStates := by
  refine ⟨fun st s few => ⟨enters st s (by omega), mwGo_since st s, fun opens => mwGo_gates_off opens s,
      fun short => by rw [short, mwGo_gates_short], mwGo_eq st s, fun q other => reg_mwGo_ne st s other⟩,
    fun fb s v asked off may noComm test =>
      ⟨exec_mwStartCommand_starts asked off may noComm test, mwStart_mwState v⟩,
    fun s v asked stopping supply => ⟨exec_mwStopCommand_stops asked stopping supply, mwStop_starting, mwStop_running⟩,
    fun fb s fault low fed => ?_⟩
  subst fed
  obtain ⟨faultGone, chopGone, cause⟩ := clearedWheel_flags s
  exact ⟨clearedWheel s, exec_mwClear_of_fault fault low, clearedWheel_off s, faultGone, chopGone, cause, clearedWheel_frame s⟩

end Sys2Proof.Proofs
end

section
/-! PROOF. The statement on the timers of a start, from ALIGN to HOLD. -/

namespace Sys2Proof.Proofs

open Sys2Proof.Machine Sys2Proof.Safety

/-! ### What a stored setting leaves alone (R353, R354) -/

theorem kwStore_frame (s : State) (page k v : Nat) : s.kwStore page k v =
    { s with regs := (s.kwStore page k v).regs, rg := (s.kwStore page k v).rg, kp := (s.kwStore page k v).kp } := by
  unfold State.kwStore
  split_ifs
  · rfl
  · rfl
  · rw [addWear_frame]
    rfl

@[simp] theorem kwStore_mw (s : State) (page k v : Nat) : (s.kwStore page k v).mw = s.mw := by rw [kwStore_frame]
@[simp] theorem kwStore_cmds (s : State) (page k v : Nat) : (s.kwStore page k v).cmds = s.cmds := by rw [kwStore_frame]

/-- A setting stored on a page of the settings region leaves MW_STATUS alone. -/
theorem status_kwStore (s : State) (page : Fin 16) (k v : Nat) (other : Reg.MW_STATUS ≠ k) :
    (s.kwStore page k v).reg Reg.MW_STATUS = s.reg Reg.MW_STATUS := by
  have first : (page : Nat) / 32 = 0 := Nat.div_eq_of_lt (by omega)
  unfold State.kwStore
  split_ifs
  · exact State.reg_bump_ne _ _ _ (by decide)
  · exact State.reg_bump_ne _ _ _ (by decide)
  · rw [reg_addWear_ne _ _ _ _ (by rw [first]; decide) (by decide), State.reg_setReg_ne _ _ _ _ other]

/-! ### The end of ALIGN (R187) -/

theorem alignEnd_mw (s : State) : s.alignEnd.mw = { s.mw with aligned := true, cnt := 0, ref := 0 } := by
  unfold State.alignEnd
  dsimp only
  split
  · exact kwStore_mw _ _ _ _
  · rfl

/-- Only a first alignment of a resolver stores an offset. -/
theorem alignEnd_of_offset {s : State} (noStore : s.mwFb ≠ 2 ∨ s.mwOffsetOk = true) :
    s.alignEnd = s.mwSt fun m => { m with aligned := true, cnt := 0, ref := 0 } := by
  refine if_neg fun (store : s.mwFb = 2 ∧ s.mwOffsetOk = false) => ?_
  rcases noStore with other | valid
  · exact other store.1
  · exact absurd store.2 (by rw [valid]; decide)

/-- The state after ALIGN with a sensor: RUN, its angle known. -/
def alignedRun (s : State) : State := (s.alignEnd.setFlag Reg.MW_STATUS 8 true).mwGo Ms.run

theorem alignedRun_known (s : State) : (alignedRun s).flag Reg.MW_STATUS 8 = true :=
  (flag_mwGo _ _ (by decide) (by decide) (by decide)).trans (State.flag_setFlag_same _ _ _ _ (by decide))

theorem alignedRun_count (s : State) : (alignedRun s).mw.aligned = true ∧ (alignedRun s).mw.cnt = 0 ∧
    (alignedRun s).mw.ref = 0 := by
  have aligned : (alignedRun s).mw.aligned = s.alignEnd.mw.aligned := rfl
  have cnt : (alignedRun s).mw.cnt = s.alignEnd.mw.cnt := rfl
  have ref : (alignedRun s).mw.ref = s.alignEnd.mw.ref := rfl
  rw [aligned, cnt, ref, alignEnd_mw]
  exact ⟨rfl, rfl, rfl⟩

theorem exec_alignTimer_due {s : State} (align : s.mwState = Ms.align)
    (come : s.due s.mw.at_ (1000 * clampN 20 2000 (s.mwFld Reg.MW_START 15 0)) = true) : exec .alignTimer s =
    .next (State.mwTell (if s.mwFb = 0 ∨ s.mw.comm.isSome then s.alignEnd.mwGo Ms.ramp else (alignedRun s).mwPreset) s) :=
  congrArg Host.Outcome.next (if_pos ⟨align, come⟩)

theorem exec_alignTimer_ramp {s : State} (align : s.mwState = Ms.align)
    (come : s.due s.mw.at_ (1000 * clampN 20 2000 (s.mwFld Reg.MW_START 15 0)) = true)
    (open_ : s.mwFb = 0 ∨ s.mw.comm.isSome = true) : exec .alignTimer s = .next (s.alignEnd.mwGo Ms.ramp).tlUpdate := by
  rw [exec_alignTimer_due align come, if_pos open_, mwTell_mwGo (by decide) (by rw [align]; decide)]

theorem exec_alignTimer_run {s : State} (align : s.mwState = Ms.align)
    (come : s.due s.mw.at_ (1000 * clampN 20 2000 (s.mwFld Reg.MW_START 15 0)) = true)
    (sensor : s.mwFb ≠ 0) (noComm : s.mw.comm = none) : exec .alignTimer s = .next (alignedRun s).mwPreset.tlUpdate := by
  have moved : (alignedRun s).mwPreset.mwState ≠ s.mwState := by
    rw [mwPreset_mwState, alignedRun, enters _ _ (by decide), align]
    decide
  rw [exec_alignTimer_due align come, if_neg (by simp [sensor, noComm]), State.mwTell_of_ne moved]

/-! ### RAMP and CATCH (R186, R188, R196) -/

theorem exec_rampTimeout_locked {s : State} (ramp : s.mwState = Ms.ramp) (locked : s.flag Reg.MW_STATUS 7 = true)
    (come : s.due s.mw.at_ (1000 * clampN 50 10000 (s.mwFld Reg.MW_START 31 16)) = true) : exec .rampTimeout s =
    .next (if s.mw.comm.isSome then s.mwGo Ms.off else (s.mwGo Ms.run).mwPreset).tlUpdate := by
  have moved : (if s.mw.comm.isSome then s.mwGo Ms.off else (s.mwGo Ms.run).mwPreset).mwState ≠ s.mwState := by
    rw [ramp]
    split
    · rw [enters _ _ (by decide)]
      decide
    · rw [mwPreset_mwState, enters _ _ (by decide)]
      decide
  show execRampTimeout s = _
  unfold execRampTimeout
  dsimp only
  rw [if_pos ramp, if_pos ⟨locked, come⟩, State.mwTell_of_ne moved]

theorem exec_rampTimeout_unlocked {s : State} (ramp : s.mwState = Ms.ramp) (unlocked : s.flag Reg.MW_STATUS 7 = false)
    (come : s.due s.mw.at_ (1000 * clampN 50 10000 (s.mwFld Reg.MW_START 31 16) + 100000) = true) :
    exec .rampTimeout s = .next (s.lockHit.mwTell s) := by
  show execRampTimeout s = _
  unfold execRampTimeout
  dsimp only
  rw [if_pos ramp, if_neg (by simp [unlocked]), if_pos come]

/-- The state after CATCH with the wheel at rest: ALIGN with its first vector, the start counted. -/
def alignStart (s : State) : State := ((s.mwGo Ms.align).setGates (some 2)).bump Reg.MW_STARTS

theorem alignStart_align (s : State) : (alignStart s).mwState = Ms.align :=
  (mwState_bump_ne _ _ (by decide)).trans ((MwR.setGates _ _).st.trans (enters _ _ (by decide)))

theorem alignStart_counted (s : State) : (alignStart s).reg Reg.MW_STARTS = sat32 (s.reg Reg.MW_STARTS + 1) := by
  have kept : ((s.mwGo Ms.align).setGates (some 2)).reg Reg.MW_STARTS = s.reg Reg.MW_STARTS :=
    reg_mwGo_ne Ms.align s (by decide)
  rw [alignStart, State.reg_bump_same, kept]

theorem alignStart_frame (s : State) : alignStart s = { s with regs := (alignStart s).regs, mw := (alignStart s).mw } := by
  unfold alignStart
  rw [mwGo_eq]
  rfl

theorem exec_catchObsTimer_due {s : State} {t : Nat} (low : s.mw.lowAt = some t) (catch_ : s.mwState = Ms.catch_)
    (come : s.due t (1000 * s.mwFld Reg.MW_CATCH 7 0) = true) : exec .catchObsTimer s = .next (alignStart s).tlUpdate := by
  have moved : (alignStart s).mwState ≠ s.mwState := by
    rw [alignStart_align, catch_]
    decide
  show execCatchObsTimer s = _
  unfold execCatchObsTimer
  rw [low]
  dsimp only
  rw [if_pos ⟨catch_, come⟩]
  exact congrArg Host.Outcome.next (State.mwTell_of_ne moved)

theorem exec_catchBrakeWait_due {s : State} {t : Nat} (wait : s.mw.waitAt = some t) (catch_ : s.mwState = Ms.catch_)
    (set : s.mwFld Reg.MW_CATCH 23 16 ≠ 0) (come : s.due t (1000000 * s.mwFld Reg.MW_CATCH 23 16) = true) :
    exec .catchBrakeWait s = .next (s.mwSt fun m => { m with brake := true }) := by
  show execCatchBrakeWait s = _
  unfold execCatchBrakeWait
  dsimp only
  rw [wait]
  exact congrArg Host.Outcome.next (if_pos ⟨catch_, set, come⟩)

/-! ### The observer's lock and HOLD (R178, R188) -/

/-- The state with the observer's lock and the angle it gives shown. -/
def lockShown (s : State) : State :=
  (s.setFlag Reg.MW_STATUS 7 true).setFlag Reg.MW_STATUS 8 (s.setFlag Reg.MW_STATUS 7 true).angleKnown

theorem lockShown_lock (s : State) : (lockShown s).flag Reg.MW_STATUS 7 = true :=
  (State.flag_setFlag_bit _ _ _ _ _ (by decide) (by decide)).trans (State.flag_setFlag_same _ _ _ _ (by decide))

theorem lockShown_mwState (s : State) : (lockShown s).mwState = s.mwState :=
  (mwState_setFlag _ _ (by decide)).trans (mwState_setFlag _ _ (by decide))

theorem exec_lockConfirm_due {s : State} {t : Nat} (ok : s.mw.okAt = some t)
    (come : s.due t (1000 * max 1 (s.mwFld Reg.MW_CATCH 15 8)) = true) :
    exec .lockConfirm s = .next (if s.mwState = Ms.catch_ then (lockShown s).mwMove else lockShown s) := by
  show execLockConfirm s = _
  unfold execLockConfirm
  rw [ok]
  dsimp only
  rw [if_pos come, ← lockShown, lockShown_mwState]

theorem exec_holdEntryTimer_due {s : State} {t : Nat} (near : s.mw.nearAt = some t) (run : s.mwState = Ms.run)
    (come : s.due t 100000 = true) : exec .holdEntryTimer s = .next (s.mwGo Ms.hold).tlUpdate := by
  show execHoldEntryTimer s = _
  unfold execHoldEntryTimer
  rw [near]
  dsimp only
  rw [if_pos ⟨run, come⟩, mwTell_mwGo (by decide) (by rw [run]; decide)]

/-- Settles O40. -/
theorem spinUp : Obligations.SpinUp := by
  refine ⟨⟨fun s align come open_ => exec_alignTimer_ramp align come open_, fun s align come sensor noComm => ?_,
      fun s noStore => alignEnd_of_offset noStore⟩,
    fun s ramp locked come => exec_rampTimeout_locked ramp locked come,
    fun s ramp unlocked come => exec_rampTimeout_unlocked ramp unlocked come,
    fun s t low catch_ come => ⟨alignStart s, exec_catchObsTimer_due low catch_ come, alignStart_align s,
      alignStart_counted s, alignStart_frame s⟩,
    fun s t ok come => ⟨lockShown s, exec_lockConfirm_due ok come, lockShown_lock s, lockShown_mwState s, rfl⟩,
    fun s t wait catch_ set come => exec_catchBrakeWait_due wait catch_ set come,
    fun s t near run come => exec_holdEntryTimer_due near run come⟩
  obtain ⟨aligned, cnt, ref⟩ := alignedRun_count s
  exact ⟨alignedRun s, exec_alignTimer_run align come sensor noComm, enters _ _ (by decide), alignedRun_known s, aligned,
    cnt, ref⟩

end Sys2Proof.Proofs
end

section
/-! PROOF. The statement on a locked rotor, lost feedback and the speed input. -/

namespace Sys2Proof.Proofs

open Sys2Proof.Machine Sys2Proof.Safety

/-! ### A locked rotor and its retries (R192, R196) -/

theorem loaded_of_torque {s : State}
    (drives : s.mwState = Ms.ramp ∨ s.mwState = Ms.run ∨ s.mwState = Ms.hold ∨ s.mwState = Ms.brake)
    (torque : absQ s.mw.tref > s.tlimMot / 10) : s.loaded = true := by
  unfold State.loaded
  obtain h | h | h | h := drives <;> simp [h, torque]

theorem exec_lockedRotor_due {s : State} (loaded : s.loaded = true)
    (come : s.due s.mw.secAt (1000 * clampN 20 5000 (s.mwFld Reg.MW_LOCK 15 0)) = true) :
    exec .lockedRotor s = .next (s.lockHit.mwTell s) :=
  congrArg Host.Outcome.next (if_pos ⟨loaded, come⟩)

/-- The wheel turned OFF by a locked rotor, which is counted. -/
def lockOff (s : State) : State := (s.mwGo Ms.off).bump Reg.MW_LOCKS

theorem lockOff_off (s : State) : (lockOff s).mwState = Ms.off :=
  (mwState_bump_ne _ _ (by decide)).trans (enters _ _ (by decide))

theorem lockOff_counted (s : State) : (lockOff s).reg Reg.MW_LOCKS = sat32 (s.reg Reg.MW_LOCKS + 1) := by
  rw [lockOff, State.reg_bump_same, reg_mwGo_ne _ _ (by decide)]

/-- In OFF the retry limit in force is the one written. -/
theorem lockOff_limit (s : State) : (lockOff s).mwFld Reg.MW_LOCK 26 24 = s.fld Reg.MW_LOCK 26 24 := by
  have settled : (lockOff s).mw.old = [] := mwGo_off_settled s
  rw [mwFld_of_settled settled, lockOff, State.fld_bump_ne _ _ _ _ _ (by decide), State.fld, reg_mwGo_ne _ _ (by decide)]
  rfl

/-- The wheel OFF with its retry number n pending. -/
def retryPending (s : State) (n : Nat) : State :=
  (((lockOff s).setFlag Reg.MW_STATUS 13 true).setFld Reg.MW_STATUS 22 20 n).mwSt fun m => { m with retryAt := s.now }

theorem lockHit_eq {s : State} (noComm : s.mw.comm = none) : s.lockHit =
    if s.fld Reg.MW_LOCK 26 24 ≤ s.fld Reg.MW_STATUS 22 20 then (lockOff s).mwFaultGo 2
    else retryPending s (s.fld Reg.MW_STATUS 22 20 + 1) := by
  have now : (lockOff s).now = s.now := by
    rw [lockOff, mwGo_eq]
    rfl
  unfold State.lockHit
  rw [commEnd_of_none noComm]
  dsimp only
  rw [← lockOff, lockOff_limit, retryPending, ← now]

theorem retryPending_off (s : State) (n : Nat) : (retryPending s n).mwState = Ms.off := by
  rw [retryPending, mwSt_mwState, State.mwState, State.fld_setFld_disj _ _ _ _ _ _ _ (by decide) (by decide) (by decide)]
  exact (mwState_setFlag _ true (by decide)).trans (lockOff_off s)

theorem retryPending_flag (s : State) (n : Nat) : (retryPending s n).flag Reg.MW_STATUS 13 = true := by
  rw [retryPending, mwSt_flag, State.flag_setFld_disj _ _ _ _ _ _ (by decide) (by decide) (by decide)]
  exact State.flag_setFlag_same _ _ _ _ (by decide)

theorem retryPending_number (s : State) {n : Nat} (fits : n < 8) : (retryPending s n).fld Reg.MW_STATUS 22 20 = n := by
  rw [retryPending, mwSt_fld, State.fld_setFld_same _ _ _ _ _ (by decide) (by decide)]
  exact Nat.mod_eq_of_lt fits

theorem retryPending_counted (s : State) (n : Nat) :
    (retryPending s n).reg Reg.MW_LOCKS = sat32 (s.reg Reg.MW_LOCKS + 1) := by
  rw [retryPending, mwSt_reg, State.reg_setFld_ne _ _ _ _ _ _ (by decide), State.reg_setFlag_ne _ _ _ _ _ (by decide),
    lockOff_counted]

theorem exec_lockRetryExpiry_due {s : State} (pending : s.flag Reg.MW_STATUS 13 = true)
    (come : s.due s.mw.retryAt (1000000 * max 1 (s.mwFld Reg.MW_LOCK 23 16)) = true) : exec .lockRetryExpiry s =
    .next (if s.mwState = Ms.off ∧ (s.setFlag Reg.MW_STATUS 13 false).mwMayStart = true then
      (s.setFlag Reg.MW_STATUS 13 false).retryStart else s.setFlag Reg.MW_STATUS 13 false) := by
  show execLockRetryExpiry s = _
  unfold execLockRetryExpiry
  dsimp only
  rw [if_pos ⟨pending, come⟩, mwState_setFlag _ _ (by decide)]

theorem exec_retryCountReset_due {s : State} (hold : s.mwState = Ms.hold) (come : s.due s.mw.at_ 60000000 = true) :
    exec .retryCountReset s = .next (s.setFld Reg.MW_STATUS 22 20 0) :=
  congrArg Host.Outcome.next (if_pos ⟨hold, come⟩)

/-! ### The encoder's index (R177, R187) -/

/-- Edges with no illegal transition change the count and the last levels only. -/
theorem encSense_of_legal {s : State} {ab : List Nat} (legal : (abCount s.mw.ab s.mw.cnt ab).2.2 = false) : s.encSense ab =
    s.mwSt fun m => { m with cnt := (abCount s.mw.ab s.mw.cnt ab).1, ab := (abCount s.mw.ab s.mw.cnt ab).2.1 } :=
  if_neg fun illegal => absurd illegal.1 (by rw [legal]; decide)

/-- Without an alignment an index stores no offset; a valid offset restarts the count. -/
theorem indexGo_of_unaligned {s : State} (unaligned : s.mw.aligned = false) : s.indexGo.mw.idxSeen = true ∧
    s.indexGo.mwState = s.mwState ∧ s.indexGo.mw.cnt = (if s.mwOffsetOk then 0 else s.mw.cnt) ∧
    (s.mwOffsetOk = true → s.indexGo.mw.ref = s.mwFld Reg.MW_OFFSET 15 0) ∧ s.indexGo = { s with mw := s.indexGo.mw } := by
  have noStore : ¬(s.mw.aligned = true ∧ s.mwOffsetOk = false) := by simp [unaligned]
  have seen : (s.mwSt fun m => { m with idxSeen := true }).mwOffsetOk = s.mwOffsetOk := rfl
  unfold State.indexGo
  dsimp only
  rw [if_neg noStore, seen]
  cases s.mwOffsetOk
  · exact ⟨rfl, rfl, rfl, Bool.noConfusion, rfl⟩
  · exact ⟨rfl, rfl, rfl, fun _ => rfl, rfl⟩

/-- The state that shows whether the wheel's angle is known. -/
def angleShown (s : State) : State := s.setFlag Reg.MW_STATUS 8 s.angleKnown

theorem exec_encoderIndex_shown {s : State} {ab : List Nat} (encoder : s.mwFb = 1) (index : s.mwEncZ = true)
    (notCatch : ((s.encSense ab).indexGo).mwState ≠ Ms.catch_) :
    exec (.encoderIndex ab) s = .next (angleShown (s.encSense ab).indexGo) := by
  have off : ¬(s.mwFb ≠ 1 ∨ s.mwEncZ = false) := by simp [encoder, index]
  have still : (angleShown (s.encSense ab).indexGo).mwState ≠ Ms.catch_ := by
    rw [angleShown, mwState_setFlag _ _ (by decide)]
    exact notCatch
  show execEncoderIndex ab s = _
  unfold execEncoderIndex
  rw [if_neg off]
  exact congrArg Host.Outcome.next (if_neg still)

theorem exec_encoderIndex_effect {s : State} {ab : List Nat} (encoder : s.mwFb = 1) (index : s.mwEncZ = true)
    (unaligned : s.mw.aligned = false) (notCatch : s.mwState ≠ Ms.catch_)
    (legal : (abCount s.mw.ab s.mw.cnt ab).2.2 = false) : ∃ u : State, exec (.encoderIndex ab) s = .next u ∧
      u.mw.idxSeen = true ∧ u.mwState = s.mwState ∧
      u.mw.cnt = (if s.mwOffsetOk then 0 else (abCount s.mw.ab s.mw.cnt ab).1) ∧
      (s.mwOffsetOk = true → u.mw.ref = s.mwFld Reg.MW_OFFSET 15 0) ∧ u = { s with regs := u.regs, mw := u.mw } := by
  have sensed := encSense_of_legal legal
  have unaligned' : (s.encSense ab).mw.aligned = false := by
    rw [sensed]
    exact unaligned
  obtain ⟨seen, state, cnt, ref, frame⟩ := indexGo_of_unaligned unaligned'
  have state' : (s.encSense ab).indexGo.mwState = s.mwState := by rw [state, sensed, mwSt_mwState]
  have cnt' : (s.encSense ab).mw.cnt = (abCount s.mw.ab s.mw.cnt ab).1 := by rw [sensed, mwSt_mw]
  have ok : (s.encSense ab).mwOffsetOk = s.mwOffsetOk := by
    rw [sensed]
    rfl
  have offset : (s.encSense ab).mwFld Reg.MW_OFFSET 15 0 = s.mwFld Reg.MW_OFFSET 15 0 := by
    rw [sensed]
    exact mwFld_congr (s := s) rfl rfl 15 0
  rw [cnt', ok] at cnt
  rw [ok, offset] at ref
  refine ⟨_, exec_encoderIndex_shown encoder index (by rw [state']; exact notCatch), seen,
    (mwState_setFlag _ _ (by decide)).trans state', cnt, ref, ?_⟩
  rw [angleShown, frame, sensed]
  rfl

/-! ### Lost feedback and the speed input (R178, R197, R199) -/

theorem exec_spdInTimeout_due {s : State} (source : s.mwSrc = 1)
    (form : s.mwFld Reg.MW_SPDIN 1 0 = 1 ∨ s.mwFld Reg.MW_SPDIN 1 0 = 2) (come : s.due s.mw.spdAt 100000 = true) :
    exec .spdInTimeout s = .next (s.setFlag Reg.MW_STATUS 11 true) :=
  congrArg Host.Outcome.next (if_pos ⟨source, form, come⟩)

theorem fbLost_of_none {s : State} (none_ : s.mwFb = 0 ∨ s.mwState = Ms.fault) : s.fbLost = s := if_pos none_

theorem fbLost_of_sensor {s : State} (sensor : s.mwFb ≠ 0) (notFault : s.mwState ≠ Ms.fault) :
    s.fbLost = if s.flag Reg.MW_STATUS 7 then s.setFlag Reg.MW_STATUS 10 true else s.mwFaultGo 4 :=
  if_neg (not_or.mpr ⟨sensor, notFault⟩)

theorem exec_feedbackLost_eq (s : State) : exec .feedbackLost s = .next s.fbLost := rfl

/-- Settles O41. Entry into OFF puts the written retry limit in force (`lockOff_limit`). -/
theorem rotorGuard : Obligations.RotorGuard := by
  refine ⟨⟨fun s drives torque come => exec_lockedRotor_due (loaded_of_torque drives torque) come,
      fun s noComm few => ?_, fun s noComm spent => by rw [lockHit_eq noComm, if_pos spent]; rfl,
      fun s pending come => ⟨_, rfl, exec_lockRetryExpiry_due pending come⟩,
      fun s hold come => exec_retryCountReset_due hold come⟩,
    fun ab s encoder index unaligned notCatch legal => exec_encoderIndex_effect encoder index unaligned notCatch legal,
    fun s sensor notFault locked => by rw [exec_feedbackLost_eq, fbLost_of_sensor sensor notFault, if_pos locked],
    fun s sensor notFault unlocked => by
      rw [exec_feedbackLost_eq, fbLost_of_sensor sensor notFault, unlocked, if_neg Bool.false_ne_true],
    fun s none_ => by rw [exec_feedbackLost_eq, fbLost_of_none none_],
    fun s source form come => exec_spdInTimeout_due source form come⟩
  have limit : s.fld Reg.MW_LOCK 26 24 < 8 := State.fld_lt s _ _ _
  rw [lockHit_eq noComm, if_neg (by omega)]
  exact ⟨retryPending_off _ _, retryPending_flag _ _, retryPending_number _ (by omega), retryPending_counted _ _, rfl⟩

end Sys2Proof.Proofs
end

section
/-! PROOF. The statement on HUB, the chopper, SHORT and the comparators. -/

namespace Sys2Proof.Proofs

open Sys2Proof.Machine Sys2Proof.Safety

/-! ### A HUB value (R176, R192 to R195) -/

theorem hubLimit_of_reached {v : State} (high : v.hubV ≥ v.hubAbs)
    (new : v.mwState ≠ Ms.fault ∨ v.fld Reg.MW_STATUS 19 16 ≠ 1) : v.hubLimit = v.mwFaultGo 1 := if_pos ⟨high, new⟩

theorem hubLimit_of_low {v : State} (low : v.hubV < v.hubAbs) : v.hubLimit = v := if_neg fun h => not_le.mpr low h.1

theorem shortDue_iff (s : State) : s.shortDue = true ↔ s.mwState ≠ Ms.short ∧ s.mwState ≠ Ms.fault ∧
    (s.flag Reg.MW_STATUS 6 = true ∧ s.hubSc ≤ s.hubV ∨ s.flag Reg.MW_STATUS 5 = true ∧ s.hubV < s.bemf) := by
  simp [State.shortDue, and_assoc]

theorem hubShort_of_due {s : State} (above : s.hubReg ≤ s.hubV) (due : s.shortDue = true) : s.hubShort = s.shortGo := by
  unfold State.hubShort
  dsimp only
  rw [if_neg (not_lt.mpr above), if_pos due]

/-- The state with ZERO_T ended where HUB lies below HUB_REG (R193). -/
def zeroTEnded (s : State) : State := if s.hubV < s.hubReg then s.setFlag Reg.MW_STATUS 6 false else s

theorem zeroTEnded_mwState (s : State) : (zeroTEnded s).mwState = s.mwState := by
  unfold zeroTEnded
  split
  · exact mwState_setFlag s false (by decide)
  · rfl

theorem zeroTEnded_frame (s : State) : zeroTEnded s = { s with regs := (zeroTEnded s).regs } := by
  unfold zeroTEnded
  split <;> rfl

theorem zeroTEnded_clears {s : State} (low : s.hubV < s.hubReg) : (zeroTEnded s).flag Reg.MW_STATUS 6 = false := by
  rw [zeroTEnded, if_pos low]
  exact State.flag_setFlag_same _ _ _ _ (by decide)

/-- The end of ZERO_T gives no new reason for SHORT. -/
theorem zeroTEnded_notDue {s : State} (notDue : s.shortDue = false) : (zeroTEnded s).shortDue = false := by
  unfold zeroTEnded
  split
  · rw [Bool.eq_false_iff, Ne, shortDue_iff, mwState_setFlag _ _ (by decide), State.flag_setFlag_same _ _ _ _ (by decide),
      State.flag_setFlag_bit _ _ _ _ _ (by decide) (by decide), hubV_setFlag, bemf_setFlag]
    rw [Bool.eq_false_iff, Ne, shortDue_iff] at notDue
    rintro ⟨notShort, notFault, zeroT | chop⟩
    · exact absurd zeroT.1 (by decide)
    · exact notDue ⟨notShort, notFault, .inr chop⟩
  · exact notDue

theorem hubShort_of_notDue {s : State} (notDue : s.shortDue = false) : s.hubShort = zeroTEnded s :=
  if_neg (by rw [← zeroTEnded, zeroTEnded_notDue notDue]; decide)

/-- The chopper does not look at ZERO_T. -/
theorem zeroTEnded_brk (s : State) : (zeroTEnded s).brkNext = s.brkNext := by
  unfold zeroTEnded
  split
  · unfold State.brkNext
    dsimp only
    rw [hubV_setFlag, hubHi_setFlag, chopHys_setFlag, State.flag_setFlag_bit _ _ _ _ _ (by decide) (by decide)]
    rfl
  · rfl

theorem hubChop_frame (s : State) (fb : Bool) :
    s.hubChop fb = { s with regs := (s.hubChop fb).regs, mw := (s.hubChop fb).mw } := by
  unfold State.hubChop
  dsimp only
  split <;> rfl

theorem hubChop_brk (s : State) (fb : Bool) : (s.hubChop fb).mw.brk = s.brkNext := by
  unfold State.hubChop
  dsimp only
  rw [mwSt_mw]

/-- The chopper's count of milliseconds is the one register it changes. -/
theorem hubChop_status (s : State) (fb : Bool) : (s.hubChop fb).reg Reg.MW_STATUS = s.reg Reg.MW_STATUS := by
  unfold State.hubChop
  dsimp only
  rw [mwSt_reg]
  split
  · exact State.reg_bump_ne _ _ _ (by decide)
  · rfl

theorem exec_hubSample_eq (pin : Nat) (fb : Bool) (s : State) : exec (.hubSample pin fb) s =
    .next ((s.setReg Reg.MW_HUB (s.hubRead pin)).hubLimit.hubShort.hubChop fb) := rfl

/-- A HUB value below HUB_ABS that gives no SHORT ends ZERO_T and switches the chopper. -/
theorem exec_hubSample_plain {pin : Nat} {s v : State} (fb : Bool) (read : v = s.setReg Reg.MW_HUB (s.hubRead pin))
    (low : v.hubV < v.hubAbs) (notDue : v.shortDue = false) :
    exec (.hubSample pin fb) s = .next ((zeroTEnded v).hubChop fb) := by
  rw [exec_hubSample_eq, ← read, hubLimit_of_low low, hubShort_of_notDue notDue]

/-! ### SHORT is left (R194) -/

theorem exec_shortExitTimer_due {s : State} {t : Nat} (emf : s.mw.emfAt = some t) (short : s.mwState = Ms.short)
    (low : s.hubV < s.hubReg) (come : s.due t 1000 = true) :
    exec .shortExitTimer s = .next (s.mwGo (if s.supplyFail then Ms.generate else Ms.off)).tlUpdate := by
  have lt : (if s.supplyFail then Ms.generate else Ms.off) < 16 := by split <;> decide
  have other : (if s.supplyFail then Ms.generate else Ms.off) ≠ s.mwState := by
    rw [short]
    split <;> decide
  show execShortExitTimer s = _
  unfold execShortExitTimer
  rw [emf]
  dsimp only
  rw [if_pos ⟨short, low, come⟩, mwTell_mwGo lt other]

/-! ### A chopper that does not conduct (R193) -/

/-- With ZERO_T no torque is asked. -/
theorem torqueRef_of_zeroT {s : State} (zeroT : s.flag Reg.MW_STATUS 6 = true) :
    s.torqueRef = s.mwSt fun m => { m with tref := 0 } := if_pos zeroT

/-- `t` differs from `s` in the drive alone, and not in T_ref or the chopper. -/
structure BridgeOnly (s t : State) : Prop where
  frame : t = { s with mw := t.mw }
  tref : t.mw.tref = s.mw.tref
  brk : t.mw.brk = s.mw.brk

theorem BridgeOnly.trans {s t u : State} (h : BridgeOnly s t) (k : BridgeOnly t u) : BridgeOnly s u :=
  ⟨by rw [k.frame, h.frame], k.tref.trans h.tref, k.brk.trans h.brk⟩

theorem BridgeOnly.mwSt (s : State) {f : Mw → Mw} (h : ∀ m, (f m).tref = m.tref ∧ (f m).brk = m.brk) :
    BridgeOnly s (s.mwSt f) := ⟨rfl, (h s.mw).1, (h s.mw).2⟩

theorem BridgeOnly.setGates (s : State) (v : Option Nat) : BridgeOnly s (s.setGates v) := by
  unfold State.setGates
  refine BridgeOnly.mwSt s fun m => ?_
  cases v <;> exact ⟨rfl, rfl⟩

theorem BridgeOnly.compare (s : State) : BridgeOnly s s.compare := by
  unfold State.compare
  exact BridgeOnly.mwSt s fun _ => ⟨rfl, rfl⟩

theorem BridgeOnly.secWatch (s : State) : BridgeOnly s s.secWatch := by
  unfold State.secWatch
  exact BridgeOnly.mwSt s fun _ => ⟨rfl, rfl⟩

theorem BridgeOnly.choose (s : State) : BridgeOnly s s.choose := by
  unfold State.choose
  exact (BridgeOnly.setGates s _).trans (BridgeOnly.mwSt _ fun _ => ⟨rfl, rfl⟩)

theorem BridgeOnly.rampStep (s : State) : BridgeOnly s s.rampStep := by
  unfold State.rampStep
  exact (BridgeOnly.setGates s _).trans (BridgeOnly.mwSt _ fun _ => ⟨rfl, rfl⟩)

theorem BridgeOnly.holdDrive (s : State) (v : Nat) : BridgeOnly s (s.holdDrive v) := by
  unfold State.holdDrive
  exact (BridgeOnly.setGates s _).trans (BridgeOnly.mwSt _ fun _ => ⟨rfl, rfl⟩)

theorem BridgeOnly.idleDrive (s : State) (full : Bool) : BridgeOnly s (s.idleDrive full) := by
  unfold State.idleDrive
  exact (BridgeOnly.setGates s _).trans (BridgeOnly.mwSt _ fun _ => ⟨rfl, rfl⟩)

/-- The bridge in any state of the wheel (Table 09-5). -/
theorem BridgeOnly.mwDrive (s : State) : BridgeOnly s s.mwDrive := by
  have sensed : BridgeOnly s s.compare.secWatch := (BridgeOnly.compare s).trans (BridgeOnly.secWatch _)
  unfold State.mwDrive
  dsimp only
  generalize s.compare.secWatch = u at *
  refine sensed.trans ?_
  have counts : BridgeOnly u (u.mwSt fun x => { x with per := x.per + 1 }) := BridgeOnly.mwSt u fun _ => ⟨rfl, rfl⟩
  split_ifs
  · exact BridgeOnly.choose u
  · exact BridgeOnly.rampStep u
  · exact counts.trans (BridgeOnly.holdDrive _ 0)
  · exact counts.trans (BridgeOnly.idleDrive _ true)
  · exact BridgeOnly.holdDrive u 0
  · exact BridgeOnly.holdDrive u 1
  · exact BridgeOnly.holdDrive u 2
  · exact BridgeOnly.idleDrive u false

/-- Fewer than eight periods in a row with a DC trip are no bridge fault (R197). -/
theorem dcCheck_of_few {s : State} (few : s.mw.dcRun < 8) : s.dcCheck = s := if_neg fun h => absurd h.1 (Nat.not_le.mpr few)

theorem mwTurn_dcRun_lt {s : State} (few : s.mw.dcRun < 7) : s.mwTurn.mw.dcRun < 8 := by
  obtain ⟨-, -, -, run, -⟩ := mwTurn_frame s
  rw [run]
  split <;> omega

/-- A new control period under ZERO_T changes the drive alone, and asks no torque. -/
theorem mwNow_of_zeroT {s : State} (zeroT : s.flag Reg.MW_STATUS 6 = true) (few : s.mw.dcRun < 7) :
    s.mwNow = { s with mw := s.mwNow.mw } ∧ s.mwNow.mw.tref = 0 ∧ s.mwNow.mw.brk = s.mw.brk := by
  obtain ⟨turn, -⟩ := mwTurn_frame s
  have zeroT' : s.mwTurn.flag Reg.MW_STATUS 6 = true := by
    rw [turn]
    exact zeroT
  have now : s.mwNow = (s.mwTurn.mwSt fun m => { m with tref := 0 }).mwDrive := by
    rw [State.mwNow, dcCheck_of_few (mwTurn_dcRun_lt few), torqueRef_of_zeroT zeroT']
  obtain ⟨frame, tref, brk⟩ := BridgeOnly.mwDrive (s.mwTurn.mwSt fun m => { m with tref := 0 })
  have brk' : s.mwTurn.mw.brk = s.mw.brk := rfl
  rw [now]
  refine ⟨?_, by rw [tref, mwSt_mw], by rw [brk, mwSt_mw]; exact brk'⟩
  rw [frame, turn]
  rfl

/-- The state in which the chopper is declared faulty, before its new control period. -/
def chopFaulty (s : State) : State :=
  ((s.setFlag Reg.MW_STATUS 5 true).setFlag Reg.MW_STATUS 6 true).mwSt fun m => { m with brk := false, ovAt := none }

theorem chopFaulty_flags (s : State) : (chopFaulty s).flag Reg.MW_STATUS 5 = true ∧
    (chopFaulty s).flag Reg.MW_STATUS 6 = true := by
  rw [chopFaulty, mwSt_flag, mwSt_flag, State.flag_setFlag_bit _ _ _ _ _ (by decide) (by decide)]
  exact ⟨State.flag_setFlag_same _ _ _ _ (by decide), State.flag_setFlag_same _ _ _ _ (by decide)⟩

theorem chopFaultGo_effect {s : State} (few : s.mw.dcRun < 7) : s.chopFaultGo.flag Reg.MW_STATUS 5 = true ∧
    s.chopFaultGo.flag Reg.MW_STATUS 6 = true ∧ s.chopFaultGo.mw.brk = false ∧ s.chopFaultGo.mw.tref = 0 ∧
    s.chopFaultGo = { s with regs := s.chopFaultGo.regs, mw := s.chopFaultGo.mw } := by
  obtain ⟨chop, zeroT⟩ := chopFaulty_flags s
  obtain ⟨frame, tref, brk⟩ := mwNow_of_zeroT (s := chopFaulty s) zeroT few
  have go : s.chopFaultGo = (chopFaulty s).mwNow := rfl
  rw [go]
  refine ⟨?_, ?_, brk, tref, ?_⟩
  · rw [frame]
    exact chop
  · rw [frame]
    exact zeroT
  · rw [frame]
    rfl

theorem exec_chopOvFilterExpiry_due {s : State} {t : Nat} (reached : s.mw.ovAt = some t) (come : s.due t s.ovUs = true)
    (brk : s.mw.brk = true) : exec (.chopOvFilterExpiry false) s =
    .next (s.chopFaultGo.note Rank.millwheel (Config.eventValue 9) Sev.fault 0) := by
  show execChopOvFilterExpiry false s = _
  unfold execChopOvFilterExpiry
  rw [reached]
  exact congrArg Host.Outcome.next (if_pos ⟨come, brk, rfl⟩)

/-! ### Comparator trips (R185) -/

theorem exec_peakTrip_of_trip {p : PeakPin} {s : State} (trips : s.trips p = true) :
    exec (.peakTrip p) s = .next (s.peakTrip p.dc) := congrArg Host.Outcome.next (if_pos trips)

theorem exec_peakTrip_of_low {p : PeakPin} {s : State} (low : 256 * p.uv < 1200000 * s.tripCode p.dc) :
    exec (.peakTrip p) s = .next s :=
  congrArg Host.Outcome.next (if_neg fun h => Nat.not_le.mpr low (of_decide_eq_true h))

/-- A first DC trip of a period is counted and opens every gate. -/
theorem peakTrip_dc {s : State} (first : s.mw.tripDc = false) : s.peakTrip true =
    ((s.bump Reg.MW_TRIP_DC).mwSt fun m => { m with tripDc := true }).setGates none := by
  unfold State.peakTrip
  dsimp only
  simp only [if_true, first, Bool.false_eq_true, if_false, mwSt_mw, Bool.true_eq_false, and_false]

/-- A first phase trip of a period is counted; in SHORT it moves to V7, else it opens every gate. -/
theorem peakTrip_phase {s : State} (first : s.mw.tripPh = false) (noDc : s.mw.tripDc = false) : s.peakTrip false =
    ((s.bump Reg.MW_TRIP_PH).mwSt fun m => { m with tripPh := true }).setGates
      (if s.mwState = Ms.short then some 7 else none) := by
  have state : ((s.bump Reg.MW_TRIP_PH).mwSt fun m => { m with tripPh := true }).mwState = s.mwState :=
    mwState_bump_ne s _ (by decide)
  have dc : ((s.bump Reg.MW_TRIP_PH).mwSt fun m => { m with tripPh := true }).mw.tripDc = false := noDc
  unfold State.peakTrip
  dsimp only
  rw [if_neg Bool.false_ne_true, first, if_neg Bool.false_ne_true]
  simp only [Bool.false_eq_true, if_false, state, dc, and_true]
  split <;> rfl

theorem setGates_some (s : State) (v : Nat) :
    (s.setGates (some v)).mw.gates = if s.pw.held then 0 else vecGates v := rfl

/-- What a first phase trip of a period shows: its mark, its count, and V7 in SHORT alone. -/
theorem peakTrip_phase_effect {s : State} (first : s.mw.tripPh = false) (noDc : s.mw.tripDc = false) :
    (s.peakTrip false).mw.tripPh = true ∧
    (s.peakTrip false).mw.gates = (if s.mwState = Ms.short ∧ s.pw.held = false then vecGates 7 else 0) ∧
    (s.peakTrip false).reg Reg.MW_TRIP_PH = sat32 (s.reg Reg.MW_TRIP_PH + 1) ∧
    s.peakTrip false = { s with regs := (s.peakTrip false).regs, mw := (s.peakTrip false).mw } := by
  have held : ((s.bump Reg.MW_TRIP_PH).mwSt fun m => { m with tripPh := true }).pw.held = s.pw.held := rfl
  rw [peakTrip_phase first noDc]
  by_cases short : s.mwState = Ms.short
  · rw [if_pos short]
    refine ⟨rfl, ?_, State.reg_bump_same _ _, rfl⟩
    rw [setGates_some, held]
    cases s.pw.held <;> simp [short]
  · rw [if_neg short]
    exact ⟨rfl, by rw [if_neg fun h => short h.1]; rfl, State.reg_bump_same _ _, rfl⟩

/-- Settles O42. Ending ZERO_T gives no new reason for SHORT (`zeroTEnded_notDue`), so a plain HUB value only switches the chopper;
a faulty chopper's new period changes the drive alone (`BridgeOnly`). -/
theorem hubGuard : Obligations.HubGuard := by
  refine ⟨⟨fun pin fb s v read => ⟨by rw [exec_hubSample_eq, ← read], hubLimit_of_reached, hubLimit_of_low⟩,
      fun pin fb s v read low notDue => ⟨_, exec_hubSample_plain fb read low notDue, ?_, ?_, fun under => ?_, ?_⟩,
      fun s above due => hubShort_of_due above due, shortDue_iff,
      fun s t emf short low come => exec_shortExitTimer_due emf short low come⟩,
    fun s t reached come brk => ⟨_, exec_chopOvFilterExpiry_due reached come brk, chopFaultGo_effect⟩,
    fun p s trips dc first => ⟨_, exec_peakTrip_of_trip trips, ?_⟩,
    fun p s trips phase first noDc => ⟨_, exec_peakTrip_of_trip trips, ?_⟩,
    fun p s low => exec_peakTrip_of_low low⟩
  · rw [State.mwState, State.fld, hubChop_status]
    rw [read]
    exact (zeroTEnded_mwState _).trans (mwState_setReg_ne _ _ _ (by decide))
  · rw [hubChop_brk, zeroTEnded_brk]
    rfl
  · rw [State.flag, hubChop_status]
    exact zeroTEnded_clears under
  · rw [hubChop_frame, zeroTEnded_frame, read]
    rfl
  · rw [dc, peakTrip_dc first]
    exact ⟨rfl, rfl, State.reg_bump_same _ _, rfl⟩
  · rw [phase]
    exact peakTrip_phase_effect first noDc

end Sys2Proof.Proofs
end

section
/-! PROOF. The statement on the control period. -/

namespace Sys2Proof.Proofs

open Sys2Proof.Machine Sys2Proof.Safety

/-! ### The turn of a period and its estimates (R178 to R180, R185, R197) -/

/-- The form of feedback waits for OFF: the turn of a period leaves it in force. -/
theorem mwFb_mwTurn (s : State) : s.mwTurn.mwFb = s.mwFb := by
  have found : s.mwTurn.mw.old.find? (fun e => e.1 == Reg.MW_CFG) = (s.mw.old.find? fun e => e.1 == Reg.MW_CFG).map
      fun e => (e.1, setBits e.2 21 16 (s.fld Reg.MW_CFG 21 16)) := by
    show ((s.mw.old.filter fun e => e.1 == Reg.MW_CFG).map fun e =>
      (e.1, setBits e.2 21 16 (s.fld Reg.MW_CFG 21 16))).find? (fun e => e.1 == Reg.MW_CFG) = _
    rw [List.find?_map, List.find?_filter]
    simp only [Function.comp_apply, and_self, Bool.decide_eq_true]
  have reg : s.mwTurn.reg Reg.MW_CFG = s.reg Reg.MW_CFG := rfl
  unfold State.mwFb State.mwFld State.mwSet
  rw [found, reg]
  cases s.mw.old.find? fun e => e.1 == Reg.MW_CFG with
  | none => rfl
  | some e => exact bits_setBits_ne _ _ _ _ _ _ (by decide) (by decide)

/-- The estimates of a control period: its turn, its sample, the speed source's request and what the sample tells. -/
def periodEstimates (m : MwSample) (s : State) : State :=
  ((s.mwTurn.mwSense m).mwAsk.setFlag Reg.MW_STATUS 14 s.noModel).mwEstimate m.phase

theorem exec_mwControlPeriod_eq (m : MwSample) (s : State) : exec (.mwControlPeriod m) s =
    .next (periodEstimates m s).dcCheck.mwMove.torqueRef.mwDrive.mwShow := rfl

/-- Without an encoder a period's estimates change registers and the wheel, and not its state or the trip marks. -/
theorem periodEstimates_wheel (m : MwSample) {s : State} (noEncoder : s.mwFb ≠ 1) : MwR s.mwTurn (periodEstimates m s) :=
  (((MwR.sense s.mwTurn m (by rw [mwFb_mwTurn]; exact noEncoder)).trans (MwR.ask _)).trans
    (MwR.flag _ 14 s.noModel (by decide))).trans (MwR.est _ m.phase)

theorem mwState_periodEstimates (m : MwSample) {s : State} (noEncoder : s.mwFb ≠ 1) :
    (periodEstimates m s).mwState = s.mwState := (periodEstimates_wheel m noEncoder).st

theorem periodEstimates_frame (m : MwSample) {s : State} (noEncoder : s.mwFb ≠ 1) : periodEstimates m s =
    { s with regs := (periodEstimates m s).regs, mw := (periodEstimates m s).mw } := (periodEstimates_wheel m noEncoder).f

/-! The run of periods with a DC trip is counted at the turn alone. -/
theorem mwSense_dcRun (m : MwSample) {s : State} (noEncoder : s.mwFb ≠ 1) : (s.mwSense m).mw.dcRun = s.mw.dcRun := by
  have sensed : (s.encSense m.ab).mw.dcRun = s.mw.dcRun := by
    unfold State.encSense
    dsimp only
    rw [if_neg fun h => noEncoder h.2, mwSt_mw]
  unfold State.mwSense
  dsimp only
  split
  · exact sensed
  · exact sensed

theorem mwEstimate_dcRun (s : State) (ph : Option (Nat × Nat × Nat)) : (s.mwEstimate ph).mw.dcRun = s.mw.dcRun := by
  have flux : (s.fluxStep ph).mw.dcRun = s.mw.dcRun := by
    unfold State.fluxStep
    rfl
  unfold State.mwEstimate
  dsimp only
  rw [State.setFlag_mw]
  split
  · exact flux
  · exact flux

theorem periodEstimates_dcRun (m : MwSample) {s : State} (noEncoder : s.mwFb ≠ 1) :
    (periodEstimates m s).mw.dcRun = if s.mw.tripDc then s.mw.dcRun + 1 else 0 := by
  rw [periodEstimates, mwEstimate_dcRun]
  exact mwSense_dcRun m (by rw [mwFb_mwTurn]; exact noEncoder)

/-- Eight periods in a row with a DC trip are a bridge fault (R197). -/
theorem dcCheck_of_eight {s : State} (eight : 8 ≤ s.mw.dcRun) (notFault : s.mwState ≠ Ms.fault) :
    s.dcCheck = s.mwFaultGo 3 := if_pos ⟨eight, notFault⟩

/-! ### A period in OFF -/

/-- The registers that show the estimates are all a show changes. -/
theorem mwShow_mw (s : State) : s.mwShow.mw = s.mw := by
  unfold State.mwShow
  simp only [State.setFlag_mw, State.setReg_mw]

/-- In OFF a period asks no torque, opens every gate and leaves the state. -/
theorem idlePeriod_effect {v : State} (off : v.mwState = Ms.off) (slow : v.overspeed = false) :
    MwR v v.mwMove.torqueRef.mwDrive.mwShow ∧ v.mwMove.torqueRef.mwDrive.mwShow.mw.gates = 0 ∧
    v.mwMove.torqueRef.mwDrive.mwShow.mw.tref = 0 := by
  rw [move_off v off slow, tref_off v off]
  have idle : MwR v (v.mwSt fun m => { m with tref := 0 }) := MwR.mwSt v _ fun _ => ⟨rfl, rfl⟩
  obtain ⟨drive, gates, tref⟩ := drive_off (v.mwSt fun m => { m with tref := 0 }) off
  exact ⟨(idle.trans drive).trans (MwR.shown _), by rw [mwShow_mw, gates], by rw [mwShow_mw, tref, mwSt_mw]⟩

theorem exec_mwControlPeriod_off {m : MwSample} {s : State} (slow : (periodEstimates m s).overspeed = false)
    (noTrip : s.mw.tripDc = false) (off : s.mwState = Ms.off) (noEncoder : s.mwFb ≠ 1) : ∃ u : State,
    exec (.mwControlPeriod m) s = .next u ∧ u.mwState = Ms.off ∧ u.mw.tripPh = false ∧ u.mw.tripDc = false ∧
      u.mw.tref = 0 ∧ u.mw.gates = 0 ∧ u = { s with regs := u.regs, mw := u.mw } := by
  have none_ : (periodEstimates m s).mw.dcRun = 0 := by
    rw [periodEstimates_dcRun m noEncoder, noTrip, if_neg Bool.false_ne_true]
  have off' := (mwState_periodEstimates m noEncoder).trans off
  have wheel := periodEstimates_wheel m noEncoder
  obtain ⟨-, ph, dc, -⟩ := mwTurn_frame s
  obtain ⟨idle, gates, tref⟩ := idlePeriod_effect off' slow
  refine ⟨_, ?_, idle.st.trans off', (idle.ph.trans wheel.ph).trans ph, (idle.dc.trans wheel.dc).trans dc, tref, gates, ?_⟩
  · rw [exec_mwControlPeriod_eq, dcCheck_of_few (by omega)]
  · rw [idle.f, periodEstimates_frame m noEncoder]

/-! ### Encoder edges (R175) -/

theorem abPos_lt (v : Nat) : abPos v < 4 := by
  have small : ∀ r < 4, [0, 1, 3, 2].getD r 0 < 4 := by decide
  exact small _ (Nat.mod_lt v (by decide))

/-- One edge counts by the way the levels turn; half a turn is illegal. -/
theorem abCount_edge (p q : Nat) (c : Int) : abCount (some p) c [q] =
    (if (abPos q + 4 - abPos p) % 4 = 1 then c + 1 else if (abPos q + 4 - abPos p) % 4 = 3 then c - 1 else c, some q,
      decide ((abPos q + 4 - abPos p) % 4 = 2)) := by
  unfold abCount
  dsimp only
  split <;> rename_i half <;> simp [abCount, half]

theorem abCount_still (p : Nat) (c : Int) : abCount (some p) c [p] = (c, some p, false) := by
  have turn : (abPos p + 4 - abPos p) % 4 = 0 := by omega
  rw [abCount_edge, turn]
  rfl

theorem abCount_forward {p q : Nat} (next : abPos q = (abPos p + 1) % 4) (c : Int) :
    abCount (some p) c [q] = (c + 1, some q, false) := by
  have turn : (abPos q + 4 - abPos p) % 4 = 1 := by
    have := abPos_lt p
    omega
  rw [abCount_edge, turn]
  rfl

theorem abCount_backward {p q : Nat} (next : abPos q = (abPos p + 1) % 4) (c : Int) :
    abCount (some q) c [p] = (c - 1, some p, false) := by
  have turn : (abPos p + 4 - abPos q) % 4 = 3 := by
    have := abPos_lt p
    omega
  rw [abCount_edge, turn]
  rfl

theorem abCount_illegal {p q : Nat} (half : abPos q = (abPos p + 2) % 4) (c : Int) :
    (abCount (some p) c [q]).2.2 = true := by
  have turn : (abPos q + 4 - abPos p) % 4 = 2 := by
    have := abPos_lt p
    omega
  rw [abCount_edge, turn]
  rfl

/-! ### The switching table (R182, Table 09-4) -/

theorem zeroVec_cases (prev : Nat) : zeroVec prev = 0 ∨ zeroVec prev = 7 := by
  unfold zeroVec
  dsimp only
  split
  · exact .inr rfl
  · exact .inl rfl

theorem switchVec_of_no_torque {torq : Int} (none_ : torq = 0) (flux : Int) (sector prev : Nat) :
    switchVec flux torq sector prev = zeroVec prev := if_pos none_

/-- With torque asked for, the table gives an active vector. -/
theorem switchVec_active {torq : Int} (torque : torq ≠ 0) (flux : Int) (sector prev : Nat) :
    1 ≤ switchVec flux torq sector prev ∧ switchVec flux torq sector prev ≤ 6 := by
  unfold switchVec
  dsimp only
  rw [if_neg torque]
  split_ifs <;> omega

/-- Settles O43: the run of DC trips is counted at the turn alone, and without an encoder the estimates change registers and the
wheel alone (`periodEstimates_wheel`); an edge and the table are judged case by case. -/
theorem controlPeriod : Obligations.ControlPeriod := by
  refine ⟨fun m s trip seven notFault noEncoder => ?_, fun m s v estimates slow noTrip off noEncoder => ?_,
    fun p c _ => ⟨abCount_still p c, fun q _ next => ⟨abCount_forward next c, abCount_backward next c⟩,
      fun q _ half => abCount_illegal half c⟩,
    fun flux torq sector prev _ _ _ => ⟨fun none_ => ?_, fun torque => switchVec_active torque flux sector prev⟩⟩
  · have run : (periodEstimates m s).mw.dcRun = s.mw.dcRun + 1 := by
      rw [periodEstimates_dcRun m noEncoder, if_pos trip]
    have state := mwState_periodEstimates m noEncoder
    exact ⟨_, by rw [exec_mwControlPeriod_eq, dcCheck_of_eight (by omega) (by rw [state]; exact notFault)], state, run⟩
  · rw [estimates] at slow
    exact exec_mwControlPeriod_off slow noTrip off noEncoder
  · rw [switchVec_of_no_torque none_]
    exact zeroVec_cases prev

end Sys2Proof.Proofs
end

section
/-! PROOF. The statement on commissioning. -/

namespace Sys2Proof.Proofs

open Sys2Proof.Machine Sys2Proof.Safety

/-! ### Start and end (R201, R202) -/

theorem exec_mwComm_eq (s : State) : exec .mwComm s = .next (if s.commOk then (s.commStart 0).mwTell s else s) := rfl

theorem commStart_effect (s : State) (h : Nat) : (s.commStart h).mwState = Ms.align ∧
    (s.commStart h).flag Reg.MW_STATUS 12 = true ∧ (s.commStart h).mw.comm = some { cmd := h } ∧
    s.commStart h = { s with regs := (s.commStart h).regs, mw := (s.commStart h).mw } := by
  unfold State.commStart
  refine ⟨enters Ms.align _ (by decide), ?_, by rw [mwGo_comm, mwSt_mw], ?_⟩
  · rw [flag_mwGo _ _ (by decide) (by decide) (by decide), mwSt_flag]
    exact State.flag_setFlag_same _ _ _ _ (by decide)
  · rw [mwGo_eq]
    rfl

/-- A commissioning's end before its command is told: it runs no more, and its result is stored unless the record holds it. -/
def commClosed (s : State) (res : Nat) : State :=
  let t := (s.setFlag Reg.MW_STATUS 12 false).mwSt fun m => { m with comm := none }
  if res = 1 then t
  else t.kwStore (Config.settingsPage Reg.MW_C_STATUS) Reg.MW_C_STATUS (setBits (t.reg Reg.MW_C_STATUS) 7 4 res)

theorem commClosed_comm (s : State) (res : Nat) : (commClosed s res).mw.comm = none := by
  unfold commClosed
  dsimp only
  split
  · rfl
  · rw [kwStore_mw, mwSt_mw]

theorem commClosed_flag (s : State) (res : Nat) : (commClosed s res).flag Reg.MW_STATUS 12 = false := by
  unfold commClosed
  dsimp only
  split
  · rw [mwSt_flag]
    exact State.flag_setFlag_same _ _ _ _ (by decide)
  · rw [State.flag, status_kwStore _ _ _ _ (by decide)]
    exact State.flag_setFlag_same _ _ _ _ (by decide)

theorem commClosed_cmds (s : State) (res : Nat) : (commClosed s res).cmds = s.cmds := by
  unfold commClosed
  dsimp only
  split
  · rfl
  · rw [kwStore_cmds]
    rfl

/-- Where no command waits for it, a commissioning ends with its close. -/
theorem commEnd_of_no_cmd {s : State} {c : MwComm} (comm : s.mw.comm = some c) (noCmd : s.cmd? c.cmd = none) (res : Nat) :
    s.commEnd res = commClosed s res := by
  have noCmd' : (commClosed s res).cmd? c.cmd = none := by
    rw [State.cmd?, commClosed_cmds]
    exact noCmd
  unfold State.commEnd
  rw [comm]
  dsimp only
  rw [← commClosed, noCmd']

theorem exec_mwAbort_of_comm {s : State} {c : MwComm} (comm : s.mw.comm = some c) :
    exec .mwAbort s = .next (((s.commEnd 2).mwGo Ms.off).mwTell s) :=
  congrArg Host.Outcome.next (if_pos (by rw [comm]; rfl))

/-! ### Steps (R201) -/

/-- The state that shows the next step of a commissioning. -/
def stepShown (s : State) (c : MwComm) : State :=
  s.kwStore (Config.settingsPage Reg.MW_C_STATUS) Reg.MW_C_STATUS (setBits (s.reg Reg.MW_C_STATUS) 3 1 (c.step + 1))

/-- What a good step that is not the last leads to. -/
def stepNext (s : State) (c : MwComm) (m : CommMeas) : State :=
  ((stepShown s c).mwSt fun x => { x with comm := some { c.take m with step := c.step + 1 } }).commDrive (c.step + 1)

theorem exec_commissionStepDone_bad {m : CommMeas} {c : MwComm} {s : State} (comm : s.mw.comm = some c)
    (bad : commGood m c.step = false) : exec (.commissionStepDone m) s =
    .next (((s.commEnd (if c.step = 1 then 5 else if c.step = 2 ∨ c.step = 5 then 4 else 3)).mwGo Ms.off).mwTell s) := by
  show execCommissionStepDone m s = _
  unfold execCommissionStepDone
  rw [comm]
  exact congrArg Host.Outcome.next (if_pos bad)

theorem exec_commissionStepDone_good {m : CommMeas} {c : MwComm} {s : State} (comm : s.mw.comm = some c)
    (good : commGood m c.step = true) : exec (.commissionStepDone m) s = .next (State.mwTell
      (if c.step ≥ 6 then ((stepShown s c).commRecord (c.take m)).mwGo Ms.off else stepNext s c m) s) := by
  show execCommissionStepDone m s = _
  unfold execCommissionStepDone
  rw [comm]
  exact congrArg Host.Outcome.next (if_neg (by rw [good]; decide))

/-- The drive of a step goes on with the commissioning. -/
theorem commDrive_comm (s : State) (step : Nat) : (s.commDrive step).mw.comm = s.mw.comm := by
  unfold State.commDrive
  split_ifs
  · exact mwGo_comm _ s
  · exact mwGo_comm _ s
  · exact (mwPreset_comm _).trans (mwGo_comm _ s)

theorem commDrive_mwState (s : State) (step : Nat) : (s.commDrive step).mwState =
    if step = 4 then Ms.off else if step = 6 then Ms.generate else Ms.run := by
  unfold State.commDrive
  split_ifs
  · exact enters Ms.off s (by decide)
  · exact enters Ms.generate s (by decide)
  · exact (mwPreset_mwState _).trans (enters Ms.run s (by decide))

theorem stepNext_comm (s : State) (c : MwComm) (m : CommMeas) :
    (stepNext s c m).mw.comm = some { c.take m with step := c.step + 1 } := by
  rw [stepNext, commDrive_comm, mwSt_mw]

theorem stepNext_mwState (s : State) (c : MwComm) (m : CommMeas) : (stepNext s c m).mwState =
    if c.step = 3 then Ms.off else if c.step = 5 then Ms.generate else Ms.run := by
  simp only [stepNext, commDrive_mwState, Nat.reduceEqDiff]

/-- Settles O44. Storing the result leaves MW_STATUS alone (`status_kwStore`), and every drive keeps the commissioning. -/
theorem commissioning : Obligations.Commissioning := by
  refine ⟨fun s ok => ⟨s.commStart 0, by rw [exec_mwComm_eq, if_pos ok], commStart_effect s 0⟩,
    fun s no => by rw [exec_mwComm_eq, no, if_neg Bool.false_ne_true],
    fun c s comm => exec_mwAbort_of_comm comm,
    fun c s comm noCmd r => by rw [commEnd_of_no_cmd comm noCmd]; exact ⟨commClosed_comm s r, commClosed_flag s r⟩,
    fun m c s comm bad => exec_commissionStepDone_bad comm bad,
    fun m c s comm good early => ⟨stepNext s c m, ?_, stepNext_comm s c m, stepNext_mwState s c m⟩,
    fun m c s comm good last => ⟨((stepShown s c).commRecord (c.take m)).mwGo Ms.off, ?_, enters Ms.off _ (by decide)⟩⟩
  · rw [exec_commissionStepDone_good comm good, if_neg (Nat.not_le.mpr early)]
  · rw [exec_commissionStepDone_good comm good, if_pos last]

end Sys2Proof.Proofs
end

section
/-! PROOF. The statement on a learn of the capacity, with what the Gauge's shared operations leave alone. -/

namespace Sys2Proof.Proofs

open Sys2Proof.Machine Sys2Proof.Safety

/-! ### What the Gauge's shared operations leave alone -/

/-! Changing the Gauge's own state leaves every register. -/
@[simp] theorem gaSt_ga (s : State) (f : Ga → Ga) : (s.gaSt f).ga = f s.ga := rfl
@[simp] theorem gaSt_reg (s : State) (f : Ga → Ga) (k : Nat) : (s.gaSt f).reg k = s.reg k := rfl
@[simp] theorem gaSt_fld (s : State) (f : Ga → Ga) (k hi lo : Nat) : (s.gaSt f).fld k hi lo = s.fld k hi lo := rfl
@[simp] theorem gaSt_flag (s : State) (f : Ga → Ga) (k i : Nat) : (s.gaSt f).flag k i = s.flag k i := rfl

@[simp] theorem showInt_ga (s : State) (k w : Nat) (signed : Bool) (v : Int) : (s.showInt k w signed v).ga = s.ga := by
  rw [(showInt_frame s k w signed v).1]

theorem fld_showInt_ne {q k : Nat} (other : q ≠ k) (s : State) (w : Nat) (signed : Bool) (v : Int) (hi lo : Nat) :
    (s.showInt k w signed v).fld q hi lo = s.fld q hi lo :=
  congrArg (bits · hi lo) ((showInt_frame s k w signed v).2 q other)

theorem flag_showInt_ne {q k : Nat} (other : q ≠ k) (s : State) (w : Nat) (signed : Bool) (v : Int) (i : Nat) :
    (s.showInt k w signed v).flag q i = s.flag q i :=
  congrArg (bit · i) ((showInt_frame s k w signed v).2 q other)

/-- Bits stored as 0 read as 0. -/
theorem flag_setFld_zero (s : State) (k : Nat) {hi lo i : Nat} (above : lo ≤ i) (below : i ≤ hi) :
    (s.setFld k hi lo 0).flag k i = false := by
  rw [State.flag, State.setFld, State.reg_setReg_same, bit, Nat.testBit_mod_two_pow, testBit_setBits _ _ _ _ _ (by omega),
    if_neg (by omega), if_pos below, Nat.zero_testBit, Bool.and_false]

/-- `t` differs from `s` in registers and the Gauge's own state alone. -/
def GaugeOnly (s t : State) : Prop := t = { s with regs := t.regs, ga := t.ga }

section
variable {s t u : State}

theorem GaugeOnly.refl (s : State) : GaugeOnly s s := rfl

theorem GaugeOnly.trans (first : GaugeOnly s t) (second : GaugeOnly t u) : GaugeOnly s u := by
  unfold GaugeOnly at *
  rw [second, first]

theorem GaugeOnly.setReg (h : GaugeOnly s t) (k v : Nat) : GaugeOnly s (t.setReg k v) := h.trans rfl
theorem GaugeOnly.setFld (h : GaugeOnly s t) (k hi lo v : Nat) : GaugeOnly s (t.setFld k hi lo v) := h.setReg _ _
theorem GaugeOnly.setFlag (h : GaugeOnly s t) (k i : Nat) (b : Bool) : GaugeOnly s (t.setFlag k i b) := h.setFld _ _ _ _
theorem GaugeOnly.bump (h : GaugeOnly s t) (k : Nat) : GaugeOnly s (t.bump k) := h.setReg _ _
theorem GaugeOnly.gaSt (h : GaugeOnly s t) (f : Ga → Ga) : GaugeOnly s (t.gaSt f) := h.trans rfl
theorem GaugeOnly.packOff (h : GaugeOnly s t) : GaugeOnly s t.packOff := h.gaSt _
theorem GaugeOnly.gaLoad (h : GaugeOnly s t) : GaugeOnly s t.gaLoad := h.trans (gaLoad_frame t).1

end

/-! ### A learn of the capacity (R229 to R231) -/

theorem le_clampQ (lo hi v : Rat) : lo ≤ clampQ lo hi v := le_max_left _ _

theorem clampQ_le {lo hi : Rat} (h : lo ≤ hi) (v : Rat) : clampQ lo hi v ≤ hi := max_le h (min_le_left _ _)

theorem gaRated_le (s : State) : s.gaRated ≤ 65535 * 36000 := by
  have field : s.fld (Reg.GA_ID s.gaId) 23 8 ≤ 65535 := Nat.le_of_lt_succ (State.fld_lt _ _ _ _)
  unfold State.gaRated
  exact Nat.mul_le_mul field (by split <;> decide)

/-- The state that has learned the capacity v. -/
def learnTaken (s : State) (v : Rat) : State :=
  ((((s.setReg Reg.GA_CAP v.floor.toNat).setFlag Reg.GA_STATUS 13 (decide (2 * v < (s.gaRated : Rat)))).setFlag
    Reg.GA_STATUS 7 false).bump Reg.GA_LEARNS).setFlag Reg.GA_STATUS 12 true |>.gaSt
      fun g => { g with learns := sat32 (g.learns + 1), learnT := s.time }

/-- Whatever was measured, what is learned has been clamped to 0.3 and 1.1 times the rated value. -/
theorem gaLearn_clamps (s : State) (q : Rat) :
    ∃ m, s.gaLearn q = learnTaken s (clampQ (3 * (s.gaRated : Rat) / 10) (11 * (s.gaRated : Rat) / 10) m) := ⟨_, rfl⟩

theorem learnTaken_cap (s : State) (v : Rat) : (learnTaken s v).reg Reg.GA_CAP = v.floor.toNat % 2 ^ 32 := by
  simp (disch := decide) only [learnTaken, gaSt_reg, State.reg_setFlag_ne, State.reg_bump_ne, State.reg_setReg_same]

theorem learnTaken_learns (s : State) (v : Rat) : (learnTaken s v).reg Reg.GA_LEARNS = sat32 (s.reg Reg.GA_LEARNS + 1) := by
  simp (disch := decide) only [learnTaken, gaSt_reg, State.reg_setFlag_ne, State.reg_bump_same, State.reg_setReg_ne]

theorem learnTaken_flags (s : State) (v : Rat) :
    (learnTaken s v).flag Reg.GA_STATUS 13 = decide (2 * v < (s.gaRated : Rat)) ∧
    (learnTaken s v).flag Reg.GA_STATUS 7 = false := by
  simp (disch := decide) only [learnTaken, gaSt_flag, State.flag_setFlag_bit, State.flag_bump_ne, State.flag_setFlag_same,
    and_self]

theorem learnTaken_gaugeOnly (s : State) (v : Rat) : GaugeOnly s (learnTaken s v) :=
  ((((((GaugeOnly.refl s).setReg _ _).setFlag _ _ _).setFlag _ _ _).bump _).setFlag _ _ _).gaSt _

/-- Settles O47: a value clamped to 1.1 times the rated capacity fits its register (`gaRated_le`). -/
theorem learnLimits : Obligations.LearnLimits := by
  intro q s
  obtain ⟨m, learned⟩ := gaLearn_clamps s q
  have rated : (s.gaRated : Rat) ≤ 65535 * 36000 := mod_cast gaRated_le s
  have positive : (0 : Rat) ≤ s.gaRated := Nat.cast_nonneg _
  generalize bound : clampQ (3 * (s.gaRated : Rat) / 10) (11 * (s.gaRated : Rat) / 10) m = v at learned
  have low : 3 * (s.gaRated : Rat) / 10 ≤ v := bound ▸ le_clampQ _ _ _
  have high : v ≤ 11 * (s.gaRated : Rat) / 10 := bound ▸ clampQ_le (by linarith) _
  have fits : v.floor.toNat < 2 ^ 32 := by
    have : v.floor < 2 ^ 32 := Rat.floor_lt_iff.mpr (by push_cast; linarith)
    omega
  obtain ⟨worn, relearn⟩ := learnTaken_flags s v
  rw [learned]
  refine ⟨v, low, high, (learnTaken_cap s v).trans (Nat.mod_eq_of_lt fits), worn.trans ?_, relearn, learnTaken_learns s v,
    learnTaken_gaugeOnly s v⟩
  exact decide_eq_decide.mpr ⟨fun h => by linarith, fun h => by linarith⟩

end Sys2Proof.Proofs
end

section
/-! PROOF. The statement on a sample of the Gauge, step by step. -/

namespace Sys2Proof.Proofs

open Sys2Proof.Machine Sys2Proof.Safety

/-! ### Step 1 of a sample: current, voltage and the count (R211 to R213) -/

/-- The current that a sample counts. -/
def sampleCurrent (s : State) (m : GaSample) : Rat := if s.ga.zero then s.ga.i else s.gaCurrent m.vshunt

/-- The Gauge's own state with a sample counted. -/
def sampleCounted (s : State) (m : GaSample) : Ga :=
  { s.ga with
    i := sampleCurrent s m
    v := (m.vpackPin * s.fld Reg.GA_VDIV 15 0 : Nat) / 100000000
    q := s.ga.q + sampleCurrent s m / 1000
    n := s.ga.n + 1
    sum := s.ga.sum + sampleCurrent s m
    zero := false
    overN := if shuntOver m.vshunt then s.ga.overN + 1 else 0 }

/-- The state that shows the direction of a sample's current. -/
def sampleShown (s : State) (m : GaSample) : State :=
  ((if sampleCurrent s m > 0 then { s with ga := sampleCounted s m, tl.learnAt := s.now }
    else { s with ga := sampleCounted s m } : State).setFlag Reg.GA_STATUS 2 (decide (sampleCurrent s m > 0))).setFlag
      Reg.GA_STATUS 3 (decide (sampleCurrent s m < 0))

theorem gaTake_eq (s : State) (m : GaSample) : s.gaTake m = (sampleShown s m).gaMean.showInt Reg.GA_VPACK 16 false
    (100 * ((m.vpackPin * s.fld Reg.GA_VDIV 15 0 : Nat) / 100000000 : Rat)).floor := rfl

theorem sampleShown_frame (s : State) (m : GaSample) : sampleShown s m =
    { s with regs := (sampleShown s m).regs, ga := sampleCounted s m, tl := (sampleShown s m).tl } := by
  unfold sampleShown
  split <;> rfl

theorem sampleShown_charging (s : State) (m : GaSample) :
    (sampleShown s m).flag Reg.GA_STATUS 2 = decide (sampleCurrent s m > 0) :=
  (State.flag_setFlag_bit _ _ _ _ _ (by decide) (by decide)).trans (State.flag_setFlag_same _ _ _ _ (by decide))

/-- The mean current is shown once a second, and a new second begins. -/
theorem gaMean_ga (s : State) : s.gaMean.ga = if s.ga.n ≥ 1000 then { s.ga with n := 0, sum := 0 } else s.ga := by
  unfold State.gaMean
  split
  · rw [gaSt_ga, showInt_ga]
  · rfl

theorem flag_gaMean_ne {q : Nat} (other : q ≠ Reg.GA_CURRENT) (s : State) (i : Nat) : s.gaMean.flag q i = s.flag q i := by
  unfold State.gaMean
  split
  · rw [gaSt_flag, flag_showInt_ne other]
  · rfl

/-- A sample is counted, whether or not it ends a second. -/
theorem gaTake_ga (s : State) (m : GaSample) : (s.gaTake m).ga.i = sampleCurrent s m ∧
    (s.gaTake m).ga.q = s.ga.q + sampleCurrent s m / 1000 ∧
    (s.gaTake m).ga.v = (m.vpackPin * s.fld Reg.GA_VDIV 15 0 : Nat) / 100000000 ∧
    (s.gaTake m).ga.overN = (if shuntOver m.vshunt then s.ga.overN + 1 else 0) ∧ (s.gaTake m).ga.zero = false := by
  have counted : (sampleShown s m).ga = sampleCounted s m := by rw [sampleShown_frame]
  rw [gaTake_eq, showInt_ga, gaMean_ga, counted]
  split <;> exact ⟨rfl, rfl, rfl, rfl, rfl⟩

theorem gaTake_charging (s : State) (m : GaSample) :
    (s.gaTake m).flag Reg.GA_STATUS 2 = decide (sampleCurrent s m > 0) := by
  rw [gaTake_eq, flag_showInt_ne (by decide), flag_gaMean_ne (by decide), sampleShown_charging]

theorem gaTake_frame (s : State) (m : GaSample) : s.gaTake m =
    { s with regs := (s.gaTake m).regs, ga := (s.gaTake m).ga, free := (s.gaTake m).free, tl := (s.gaTake m).tl } := by
  rw [gaTake_eq, (showInt_frame _ _ _ _ _).1, (gaMean_frame _).1, sampleShown_frame]

/-! ### Step 2: the sense fault (R214) -/

theorem gaStep2_of_over {s : State} (ten : 10 ≤ s.ga.overN) :
    s.gaStep2 = (s.setFlag Reg.GA_STATUS 11 true).gaSt fun g => { g with span := false } :=
  if_pos (by simp [ten])

/-! ### Step 3: EOD and EOC (R218, R219) -/

/-- The state that shows EOD, its count at 0 and PACK_EN off. -/
def eodShown (s : State) : State :=
  (((((s.setFlag Reg.GA_STATUS 4 true).setFlag Reg.GA_STATUS 5 false).setFlag Reg.GA_STATUS 8 true).setFlag
    Reg.GA_STATUS 6 false).gaSt fun g => { g with anchor := 1, anchorQ := g.q, q := 0, span := true }).packOff

/-- The state that shows EOC, its count at Q_full. -/
def eocShown (s : State) : State :=
  ((((s.setFlag Reg.GA_STATUS 5 true).setFlag Reg.GA_STATUS 4 false).setFlag Reg.GA_STATUS 8 true).setFlag
    Reg.GA_STATUS 6 false).gaSt fun g => { g with anchor := 2, anchorQ := g.q, q := s.gaFull, span := true }

theorem gaStep3_of_eod {s : State} (present : s.gaPresent = true) (known : s.hasEod = true) (drawn : s.ga.i ≤ 0)
    (low : s.ga.v ≤ s.vEod + s.ga.i * s.gaR) : s.gaStep3 =
    (if s.ga.span && s.ga.anchor == 2 then some (s.gaFull - s.ga.q) else none, eodShown s) :=
  (if_neg (by simp [present])).trans (if_pos ⟨known, drawn, low⟩)

theorem gaStep3_of_eoc {s : State} (present : s.gaPresent = true) (known : s.hasEoc = true) (charged : 0 ≤ s.ga.i)
    (high : s.vEoc + s.ga.i * s.gaR ≤ s.ga.v) (notLow : s.vEod + s.ga.i * s.gaR < s.ga.v) : s.gaStep3 =
    (if s.ga.span && s.ga.anchor == 1 then some s.ga.q else none, eocShown s) :=
  (if_neg (by simp [present])).trans
    ((if_neg fun eod => absurd eod.2.2 (not_le.mpr notLow)).trans (if_pos ⟨known, charged, high⟩))

theorem eodShown_flags (s : State) : (eodShown s).flag Reg.GA_STATUS 4 = true ∧
    (eodShown s).flag Reg.GA_STATUS 5 = false ∧ (eodShown s).flag Reg.GA_STATUS 8 = true := by
  simp (disch := decide) only [eodShown, State.packOff, gaSt_flag, State.flag_setFlag_bit, State.flag_setFlag_same, and_self]

theorem eodShown_gaugeOnly (s : State) : GaugeOnly s (eodShown s) :=
  ((((((GaugeOnly.refl s).setFlag _ _ _).setFlag _ _ _).setFlag _ _ _).setFlag _ _ _).gaSt _).packOff

theorem eocShown_gaugeOnly (s : State) : GaugeOnly s (eocShown s) :=
  (((((GaugeOnly.refl s).setFlag _ _ _).setFlag _ _ _).setFlag _ _ _).setFlag _ _ _).gaSt _

theorem eocShown_flags (s : State) : (eocShown s).flag Reg.GA_STATUS 5 = true ∧
    (eocShown s).flag Reg.GA_STATUS 4 = false ∧ (eocShown s).flag Reg.GA_STATUS 8 = true := by
  simp (disch := decide) only [eocShown, gaSt_flag, State.flag_setFlag_bit, State.flag_setFlag_same, and_self]

/-! ### Step 5: the estimates and VALID (R221 to R226) -/

/-- VALID is read off four bits of GA_STATUS and the running of the first second. -/
theorem gaValid_congr {s t : State} (seen : t.ga.seenAt = s.ga.seenAt)
    (status : ∀ i ∈ [0, 9, 10, 11], t.flag Reg.GA_STATUS i = s.flag Reg.GA_STATUS i) : t.gaValid = s.gaValid := by
  simp only [List.forall_mem_cons] at status
  obtain ⟨present, unassigned, temp, sense, -⟩ := status
  simp only [State.gaValid, State.gaPresent, seen, present, unassigned, temp, sense]

/-- The state that has noted a new DISAGREE. -/
def disagreeNoted (s : State) : State :=
  if s.gaDis ∧ s.flag Reg.GA_STATUS 6 = false then
    (((s.setFlag Reg.GA_STATUS 6 true).setFlag Reg.GA_STATUS 7 true).bump Reg.GA_DISAGREES).note Rank.gauge
      (Config.eventValue 11) Sev.warning 0
  else s

/-- The state that shows the count. -/
def countShown (s : State) : State := s.showInt Reg.GA_COUNT 32 true (1000 * s.ga.q).floor

/-- The state that shows the voltage estimate. -/
def qvShown (s : State) : State := s.showInt Reg.GA_QV 32 true (1000 * s.gaQv).floor

/-- The state that shows V_oc. -/
def vocShown (s : State) : State := s.showInt Reg.GA_VOC 16 false (100 * s.gaVoc).floor

/-- The state that shows VALID. -/
def validShown (s : State) : State := s.setFlag Reg.GA_STATUS 1 s.gaValid

theorem gaShow_eq (s : State) (u : State) (shown : u = validShown (vocShown (qvShown (countShown (disagreeNoted s))))) :
    s.gaShow = if u.gaValid then u.showInt Reg.GA_EPACK 32 false (1000 * u.gaEnergy).floor else u.setReg Reg.GA_EPACK 0 := by
  subst shown
  rfl

theorem gaValid_showInt {k : Nat} (other : Reg.GA_STATUS ≠ k) (s : State) (w : Nat) (signed : Bool) (v : Int) :
    (s.showInt k w signed v).gaValid = s.gaValid :=
  gaValid_congr (by rw [showInt_ga]) fun i _ => flag_showInt_ne other s w signed v i

theorem gaValid_disagreeNoted (s : State) : (disagreeNoted s).gaValid = s.gaValid := by
  unfold disagreeNoted
  split
  · refine gaValid_congr rfl fun i mem => ?_
    have bit : i ≠ 6 ∧ i ≠ 7 ∧ i < 32 := by revert i; decide
    obtain ⟨disagree, relearn, lt⟩ := bit
    rw [State.flag_note, State.flag_bump_ne _ _ _ _ (by decide), State.flag_setFlag_bit _ _ _ _ _ relearn lt,
      State.flag_setFlag_bit _ _ _ _ _ disagree lt]
  · rfl

theorem gaValid_validShown (s : State) : (validShown s).gaValid = s.gaValid := by
  refine gaValid_congr rfl fun i mem => ?_
  have bit : i ≠ 1 ∧ i < 32 := by revert i; decide
  exact State.flag_setFlag_bit _ _ _ _ _ bit.1 bit.2

theorem validShown_flag (s : State) : (validShown s).flag Reg.GA_STATUS 1 = s.gaValid :=
  State.flag_setFlag_same _ _ _ _ (by decide)

/-- Without VALID the pack shows no energy. -/
theorem gaShow_of_invalid {s : State} (invalid : s.gaValid = false) :
    s.gaShow.flag Reg.GA_STATUS 1 = false ∧ s.gaShow.reg Reg.GA_EPACK = 0 := by
  have estimates : (vocShown (qvShown (countShown (disagreeNoted s)))).gaValid = false := by
    rw [vocShown, gaValid_showInt (by decide), qvShown, gaValid_showInt (by decide), countShown, gaValid_showInt (by decide),
      gaValid_disagreeNoted, invalid]
  rw [gaShow_eq s _ rfl, gaValid_validShown, estimates, if_neg Bool.false_ne_true]
  exact ⟨(State.flag_setReg_ne _ _ _ _ _ (by decide)).trans ((validShown_flag _).trans estimates),
    State.reg_setReg_same _ _ _⟩

/-- Settles O46, step by step; what is shown before VALID leaves the bits that VALID is read off (`gaValid_congr`). -/
theorem gaugeSample : Obligations.GaugeSample := by
  refine ⟨fun m s on => congrArg Host.Outcome.next (if_pos on), fun m s used => ?_, fun m s zero => ?_, fun s ten => ?_,
    fun s present known drawn low => ?_, fun s present known charged high notLow => ?_,
    fun s invalid => gaShow_of_invalid invalid⟩
  · have current : sampleCurrent s m = s.gaCurrent m.vshunt := if_neg (by simp [used])
    obtain ⟨i, q, v, overN, -⟩ := gaTake_ga s m
    rw [← current]
    exact ⟨i, q, v, overN, gaTake_charging s m, gaTake_frame s m⟩
  · obtain ⟨i, -, -, -, used⟩ := gaTake_ga s m
    exact ⟨i.trans (if_pos zero), used⟩
  · rw [gaStep2_of_over ten]
    exact ⟨State.flag_setFlag_same _ _ _ _ (by decide), rfl⟩
  · obtain ⟨eod, eoc, anchored⟩ := eodShown_flags s
    rw [gaStep3_of_eod present known drawn low]
    exact ⟨rfl, rfl, rfl, eod, eoc, anchored, rfl, eodShown_gaugeOnly s⟩
  · obtain ⟨eoc, eod, anchored⟩ := eocShown_flags s
    rw [gaStep3_of_eoc present known charged high notLow]
    exact ⟨rfl, rfl, eoc, eod, anchored, rfl, eocShown_gaugeOnly s⟩

end Sys2Proof.Proofs
end

section
/-! PROOF. The statement on the presence of a pack: insertion, removal, slow polls and FORGET. -/

namespace Sys2Proof.Proofs

open Sys2Proof.Machine Sys2Proof.Safety

/-! ### Insertion (R208, R238) -/

/-- The state that shows a pack, its first second running, before its limits are looked at and its record is taken. -/
def packShown (s : State) (code : Nat) : State :=
  (((((s.setFld Reg.GA_STATUS 18 16 code).setFld Reg.GA_STATUS 20 19 (s.fld (Reg.GA_ID code) 1 0)).setFlag Reg.GA_STATUS 9
    (s.gaUnassigned code)).setFlag Reg.GA_STATUS 11 false).setFlag Reg.GA_STATUS 0 true).gaSt
      fun g => { g with seenAt := some s.now, noId := 0, overN := 0, span := false }

/-- The state that also shows whether the pack's temperature lies outside its window. -/
def packWindowed (s : State) (code : Nat) : State :=
  (packShown s code).setFlag Reg.GA_STATUS 10 (packShown s code).gaTempOut

theorem gaPlaced_eq (s : State) (code : Nat) : s.gaPlaced code = (packWindowed s code).gaLoad.bump Reg.GA_INSERTS := rfl

theorem packWindowed_flags (s : State) (code : Nat) : (packWindowed s code).flag Reg.GA_STATUS 0 = true ∧
    (packWindowed s code).flag Reg.GA_STATUS 11 = false ∧
    (packWindowed s code).flag Reg.GA_STATUS 9 = s.gaUnassigned code := by
  simp (disch := decide) only [packWindowed, packShown, gaSt_flag, State.flag_setFlag_bit, State.flag_setFlag_same, and_self]

theorem packWindowed_code (s : State) {code : Nat} (lt : code < 8) :
    (packWindowed s code).fld Reg.GA_STATUS 18 16 = code := by
  simp (disch := decide) only [packWindowed, packShown, gaSt_fld, State.fld_setFlag_disj, State.fld_setFld_disj,
    State.fld_setFld_same]
  exact Nat.mod_eq_of_lt lt

theorem packWindowed_inserts (s : State) (code : Nat) :
    (packWindowed s code).reg Reg.GA_INSERTS = s.reg Reg.GA_INSERTS := by
  simp (disch := decide) only [packWindowed, packShown, gaSt_reg, State.reg_setFlag_ne, State.reg_setFld_ne]

/-- Taking the pack's record leaves of GA_STATUS all but RELEARN, so what the insertion showed stands. -/
theorem gaPlaced_effect (s : State) {code : Nat} (lt : code < 8) : (s.gaPlaced code).gaPresent = true ∧
    (s.gaPlaced code).gaId = code ∧ (s.gaPlaced code).ga.seenAt = some s.now ∧
    (s.gaPlaced code).flag Reg.GA_STATUS 11 = false ∧ (s.gaPlaced code).flag Reg.GA_STATUS 9 = s.gaUnassigned code ∧
    (s.gaPlaced code).reg Reg.GA_INSERTS = sat32 (s.reg Reg.GA_INSERTS + 1) := by
  obtain ⟨-, seen, status, id, inserts⟩ := gaLoad_frame (packWindowed s code)
  obtain ⟨present, sense, unassigned⟩ := packWindowed_flags s code
  have flag : ∀ i, i ≠ 7 → i < 32 →
      (s.gaPlaced code).flag Reg.GA_STATUS i = (packWindowed s code).flag Reg.GA_STATUS i :=
    fun i other fits => (State.flag_bump_ne _ _ _ _ (by decide)).trans (status i other fits)
  refine ⟨(flag 0 (by decide) (by decide)).trans present, ?_, ?_, (flag 11 (by decide) (by decide)).trans sense,
    (flag 9 (by decide) (by decide)).trans unassigned, ?_⟩
  · exact (State.fld_bump_ne _ _ _ _ _ (by decide)).trans (id.trans (packWindowed_code s lt))
  · rw [gaPlaced_eq, State.bump_ga, seen, packWindowed, State.setFlag_ga, packShown, gaSt_ga]
  · rw [gaPlaced_eq, State.reg_bump_same, inserts, packWindowed_inserts]

theorem packWindowed_gaugeOnly (s : State) (code : Nat) : GaugeOnly s (packWindowed s code) :=
  (((((((GaugeOnly.refl s).setFld _ _ _ _).setFld _ _ _ _).setFlag _ _ _).setFlag _ _ _).setFlag _ _ _).gaSt _).setFlag _ _ _

theorem gaPlaced_gaugeOnly (s : State) (code : Nat) : GaugeOnly s (s.gaPlaced code) :=
  (packWindowed_gaugeOnly s code).gaLoad.bump _

theorem exec_packInsertion_steady {code t : Nat} {s : State} (absent : s.gaPresent = false) (on : s.gaOn = true)
    (lt : code < 8) (steady : s.ga.steady = some (code, t)) (come : s.due t 500000 = true) :
    exec (.packInsertion code) s = .next (s.gaPlaced code).tlUpdate := by
  have ready : s.gaReady code = true := by simp [State.gaReady, steady, come]
  exact congrArg Host.Outcome.next (if_neg (by simp [absent, on, ready, lt]))

theorem exec_packInsertion_unsteady {code : Nat} {s : State} (unsteady : s.gaReady code = false) :
    exec (.packInsertion code) s = .next s :=
  congrArg Host.Outcome.next (if_pos (by simp [unsteady]))

/-! ### Removal (R207, R209) -/

theorem gaGone_flags (s : State) : s.gaGone.flag Reg.GA_STATUS 0 = false ∧ s.gaGone.flag Reg.GA_STATUS 1 = false ∧
    s.gaGone.flag Reg.GA_STATUS 8 = false := by
  unfold State.gaGone State.packOff
  simp (disch := decide) only [gaSt_flag, State.flag_bump_ne, State.flag_setReg_ne, flag_setFld_zero, State.flag_setFld_disj,
    State.flag_setFlag_bit, and_self]

theorem gaGone_regs (s : State) : s.gaGone.reg Reg.GA_EPACK = 0 ∧
    s.gaGone.reg Reg.GA_REMOVALS = sat32 (s.reg Reg.GA_REMOVALS + 1) := by
  unfold State.gaGone State.packOff
  simp (disch := decide) only [gaSt_reg, State.reg_bump_ne, State.reg_bump_same, State.reg_setReg_same, State.reg_setReg_ne,
    State.reg_setFld_ne, State.reg_setFlag_ne, Nat.zero_mod, and_self]

theorem gaGone_gaugeOnly (s : State) : GaugeOnly s s.gaGone := by
  unfold State.gaGone
  exact ((((((GaugeOnly.refl s).setFld _ _ _ _).setFld _ _ _ _).setFlag _ _ _).setFld _ _ _ _).setReg _ _).packOff
    |>.bump _ |>.gaSt _

theorem exec_packRemoval_present {s : State} (present : s.gaPresent = true) :
    exec .packRemoval s = .next (s.gaSt fun g => { g with steady := none }).gaRemove :=
  congrArg Host.Outcome.next (if_pos present)

/-! ### Slow polls (R203, R208 to R210) -/

/-- The state that holds a poll's code and temperature. -/
def pollTaken (s : State) (idUv ntcUv : Nat) : State :=
  ((s.gaSt fun g => { g with steady := s.gaSteady idUv ntcUv }).gaSt fun g => { g with temp := ntcTemp ntcUv }).showInt
    Reg.GA_TEMP 16 true (10 * ntcTemp ntcUv).floor

/-- The state that shows whether the polled temperature lies outside the pack's window. -/
def pollShown (s : State) (idUv ntcUv : Nat) : State :=
  (pollTaken s idUv ntcUv).setFlag Reg.GA_STATUS 10 (pollTaken s idUv ntcUv).gaTempOut

theorem pollShown_ga (s : State) (idUv ntcUv : Nat) :
    (pollShown s idUv ntcUv).ga = { s.ga with steady := s.gaSteady idUv ntcUv, temp := ntcTemp ntcUv } := by
  rw [pollShown, State.setFlag_ga, pollTaken, showInt_ga, gaSt_ga, gaSt_ga]

theorem pollShown_noId (s : State) (idUv ntcUv : Nat) : (pollShown s idUv ntcUv).ga.noId = s.ga.noId := by
  rw [pollShown_ga]

theorem pollShown_frame (s : State) (idUv ntcUv : Nat) : pollShown s idUv ntcUv = { s with
    regs := (pollShown s idUv ntcUv).regs, ga := (pollShown s idUv ntcUv).ga, free := (pollShown s idUv ntcUv).free } := by
  have measured : GaugeOnly s ((s.gaSt fun g => { g with steady := s.gaSteady idUv ntcUv }).gaSt fun g =>
    { g with temp := ntcTemp ntcUv }) := ((GaugeOnly.refl s).gaSt _).gaSt _
  unfold pollShown pollTaken
  generalize State.gaSt _ _ = u at measured
  rw [(showInt_frame u _ _ _ _).1, measured]
  rfl

theorem pollShown_gaPresent (s : State) (idUv ntcUv : Nat) : (pollShown s idUv ntcUv).gaPresent = s.gaPresent := by
  rw [State.gaPresent, pollShown, State.flag_setFlag_bit _ _ _ _ _ (by decide) (by decide), pollTaken,
    flag_showInt_ne (by decide), gaSt_flag, gaSt_flag, State.gaPresent]

theorem pollShown_gaId (s : State) (idUv ntcUv : Nat) : (pollShown s idUv ntcUv).gaId = s.gaId := by
  rw [State.gaId, pollShown, State.fld_setFlag_disj _ _ _ _ _ _ (by decide) (by decide), pollTaken,
    fld_showInt_ne (by decide), gaSt_fld, gaSt_fld, State.gaId]

/-- A poll of a present pack compares the code it reads with the pack's. -/
theorem exec_gaugeSlowPoll_present {idUv ntcUv : Nat} {s v : State} (on : s.gaOn = true) (present : s.gaPresent = true)
    (shown : v = pollShown s idUv ntcUv) : exec (.gaugeSlowPoll idUv ntcUv) s = .next
      (if idCode idUv = some s.gaId then v.gaSt fun g => { g with noId := 0 }
        else if 1 ≤ s.ga.noId then v.gaRemove else v.gaSt fun g => { g with noId := g.noId + 1 }) := by
  have present' : v.gaPresent = true := by rw [shown, pollShown_gaPresent, present]
  have id : v.gaId = s.gaId := by rw [shown, pollShown_gaId]
  have count : v.ga.noId = s.ga.noId := by rw [shown, pollShown_noId]
  rw [← id, ← count]
  subst shown
  exact congrArg Host.Outcome.next ((if_neg (by simp [on])).trans (if_neg fun absent => by
    rw [Bool.not_eq_true'] at absent
    exact Bool.noConfusion (absent.symm.trans present')))

/-! ### The end of the first second (R224, R225) -/

/-- The state whose count starts from the voltage estimate. -/
def countStarted (s : State) : State := s.gaSt fun g => { g with seenAt := none, q := s.gaQv, span := false }

theorem exec_gaugeSettled_due {t : Nat} {s : State} (seen : s.ga.seenAt = some t) (present : s.gaPresent = true)
    (come : s.due t 1000000 = true) : exec .gaugeSettled s = .next (countStarted s).gaStep5 := by
  show execGaugeSettled s = _
  unfold execGaugeSettled
  rw [seen]
  exact congrArg Host.Outcome.next (if_pos ⟨present, come⟩)

/-! ### FORGET (R238, R239) -/

/-- The state with the start values, their write-back due. -/
def forgotten (s : State) : State := s.gaFresh.setFlag Reg.GA_STATUS 12 true

theorem exec_gaForget_present {s : State} (present : s.gaPresent = true) : exec .gaForget s = .next (forgotten s).gaStep6 :=
  congrArg Host.Outcome.next (if_pos present)

theorem forgotten_flags (s : State) : (forgotten s).flag Reg.GA_STATUS 12 = true ∧
    (forgotten s).flag Reg.GA_STATUS 7 = true := by
  simp (disch := decide) only [forgotten, State.gaFresh, gaSt_flag, State.flag_setFlag_bit, State.flag_setFlag_same, and_self]

theorem forgotten_regs (s : State) : (forgotten s).reg Reg.GA_CAP = 8 * s.gaRated / 10 % 2 ^ 32 ∧
    (forgotten s).reg Reg.GA_RINT = s.gaRatedR % 2 ^ 32 := by
  simp (disch := decide) only [forgotten, State.gaFresh, gaSt_reg, State.reg_setFlag_ne, State.reg_setReg_ne,
    State.reg_setReg_same, and_self]

theorem forgotten_gaugeOnly (s : State) : GaugeOnly s (forgotten s) :=
  (((((GaugeOnly.refl s).setReg _ _).setReg _ _).setFlag _ _ _).gaSt _).setFlag _ _ _

/-- Settles O45: each command acts on a present or a steady pack alone, and what it does is said above. -/
theorem packPresence : Obligations.PackPresence := by
  refine ⟨⟨fun code t s absent on lt steady come => ?_, fun code s unsteady => exec_packInsertion_unsteady unsteady,
      fun s present => ?_⟩, ⟨fun idUv ntcUv s on present same => ?_, fun idUv ntcUv s on present other => ?_⟩,
    fun t s seen present come => ⟨_, exec_gaugeSettled_due seen present come, rfl, rfl, rfl⟩, fun s present => ?_,
    fun s => rfl⟩
  · obtain ⟨present, id, seen, sense, unassigned, inserts⟩ := gaPlaced_effect s lt
    exact ⟨_, exec_packInsertion_steady absent on lt steady come, present, id, seen, sense, unassigned, inserts,
      gaPlaced_gaugeOnly s code⟩
  · obtain ⟨absent, invalid, unanchored⟩ := gaGone_flags (s.gaSt fun g => { g with steady := none })
    obtain ⟨energy, removals⟩ := gaGone_regs (s.gaSt fun g => { g with steady := none })
    exact ⟨_, exec_packRemoval_present present, absent, invalid, unanchored, energy, rfl, rfl, rfl, removals,
      ((GaugeOnly.refl s).gaSt _).trans (gaGone_gaugeOnly _)⟩
  · refine ⟨_, (exec_gaugeSlowPoll_present on present rfl).trans (congrArg _ (if_pos same)),
      (pollShown_gaPresent s idUv ntcUv).trans present, rfl, ?_, ?_, ?_⟩
    · rw [gaSt_ga, pollShown_ga]
    · rw [gaSt_ga, pollShown_ga]
    · rw [pollShown_frame]
      rfl
  · exact ⟨_, (exec_gaugeSlowPoll_present on present rfl).trans (congrArg _ (if_neg other)),
      (pollShown_gaPresent s idUv ntcUv).trans present, pollShown_noId s idUv ntcUv,
      pollShown_frame s idUv ntcUv⟩
  · obtain ⟨pending, relearn⟩ := forgotten_flags s
    obtain ⟨cap, rint⟩ := forgotten_regs s
    exact ⟨_, exec_gaForget_present present, pending, relearn, cap, rint, rfl, forgotten_gaugeOnly s⟩

end Sys2Proof.Proofs
end

section
/-! PROOF. The statement on what the Mender takes up: the walk, repairs and resyncs. -/

namespace Sys2Proof.Proofs

open Sys2Proof.Machine Sys2Proof.Safety

theorem next_settle {t u : State} (same : t = u) : (Host.Outcome.next t.settle : Out) = .next u.settle := by
  rw [same]

/-! ### The Mender's tasks and its rate (R251, R264) -/

theorem menderOk_up {a : Nat} {s : State} (ok : s.menderOk a = true) : s.pfd = false := by
  simp only [State.menderOk, Bool.and_eq_true, Bool.not_eq_true'] at ok
  obtain ⟨⟨-, up⟩, -⟩ := ok
  exact up

/-- Moving to the present rate window leaves the arrays. -/
theorem rateRoll_arr (s : State) (a b : Nat) : (s.rateRoll a).arr? b = s.arr? b := by
  rw [State.arr?, (rateRoll_f s a).1, State.arr?]

/-- Moving to the present rate window leaves the walks. -/
theorem rateRoll_walk (s : State) (a b : Nat) : (s.rateRoll a).walk b = s.walk b := by
  obtain ⟨-, -, walks, -⟩ := rateRoll_f s a
  rw [State.walk, walks, State.walk]

/-- A task added after other changes of the Mender's state, none of them to the tasks, is the one new task. -/
theorem addTask_after {s v : State} (frame : v = { s with md := v.md }) (tasks : v.md.tasks = s.md.tasks) (kind : TKind)
    (a n off len : Nat) (phase : TPhase) :
    (∃ t, (v.addTask kind a n off len phase).2.md.tasks = s.md.tasks ++ [t] ∧ t.kind = kind ∧ t.arr = a ∧ t.stripe = n) ∧
    (v.addTask kind a n off len phase).2 = { s with
      md := (v.addTask kind a n off len phase).2.md, nextH := (v.addTask kind a n off len phase).2.nextH } := by
  obtain ⟨⟨t, added, is⟩, whole, -⟩ := addTask_spec v kind a n off len phase
  refine ⟨⟨t, added.trans (congrArg (· ++ [t]) tasks), is⟩, whole.trans ?_⟩
  rw [frame]

/-! ### The walk (R249, R264) -/

/-- The state whose walk of an array has issued its next stripe. -/
def walkIssuedNext (s : State) (a : Nat) (r : ArrayRec) : State :=
  (((s.rateRoll a).setWalk a { s.walk a with issued := (s.walk a).issued + 1 }).addTask (.walk (s.walk a).issued) a
    ((s.walk a).issued % r.count) 0 r.b (.step 0)).2

theorem walkGo_may {a : Nat} {r : ArrayRec} {s : State} (arr : s.arr? a = some r)
    (may : (s.rateRoll a).walkMayIssue a r = true) : s.walkGo a = walkIssuedNext s a r := by
  unfold State.walkGo
  rw [arr]
  dsimp only
  rw [may, rateRoll_walk]
  rfl

theorem walkIssuedNext_walk (s : State) (a : Nat) (r : ArrayRec) :
    (walkIssuedNext s a r).walk a = { s.walk a with issued := (s.walk a).issued + 1 } := walk_setWalk _ _ _

theorem walkIssuedNext_task (s : State) (a : Nat) (r : ArrayRec) :
    (∃ t, (walkIssuedNext s a r).md.tasks = s.md.tasks ++ [t] ∧ t.kind = .walk (s.walk a).issued ∧ t.arr = a ∧
      t.stripe = (s.walk a).issued % r.count) ∧
    walkIssuedNext s a r = { s with md := (walkIssuedNext s a r).md, nextH := (walkIssuedNext s a r).nextH } := by
  obtain ⟨whole, tasks, -⟩ := rateRoll_f s a
  unfold walkIssuedNext
  refine addTask_after ?_ ?_ _ _ _ _ _ _
  · rw [State.setWalk, whole]
  · exact tasks

/-- The walk gives way to PFD, a pause, resyncs and repairs. -/
theorem walkMayIssue_free {a : Nat} {r : ArrayRec} {s : State} (may : s.walkMayIssue a r = true) : s.pfd = false ∧
    (s.walk a).active = true ∧ s.flag Reg.MD_CTRL a = false ∧ s.resyncWaits a = [] ∧ s.repairWaits a = false := by
  simp only [State.walkMayIssue, Bool.and_eq_true, Bool.not_eq_true', List.isEmpty_iff] at may
  obtain ⟨⟨⟨⟨⟨⟨⟨⟨⟨ok, active⟩, -⟩, running⟩, noResync⟩, noRepair⟩, -⟩, -⟩, -⟩, -⟩ := may
  exact ⟨menderOk_up ok, active, running, noResync, noRepair⟩

/-! ### Repairs (R259, R264) -/

/-- The state in which the repair of a queue entry has begun. -/
def repairBegun (s : State) (e : RepEnt) (r : ArrayRec) : State :=
  (State.addTask { s.rateRoll e.arr with md.repq := (s.rateRoll e.arr).md.repq.erase e } (.repair e.pos e.map) e.arr e.stripe
    0 r.b (.step 0)).2

theorem repairGo_next {e : RepEnt} {r : ArrayRec} {s : State}
    (next : (s.md.repq.find? fun e => s.menderOk e.arr && (s.resyncWaits e.arr).isEmpty) = some e)
    (arr : s.arr? e.arr = some r) (rate : (s.rateRoll e.arr).rateOk e.arr r = true) : s.repairGo = repairBegun s e r := by
  unfold State.repairGo
  rw [next]
  dsimp only
  rw [arr]
  dsimp only
  rw [rate]
  rfl

theorem repairBegun_repq (s : State) (e : RepEnt) (r : ArrayRec) : (repairBegun s e r).md.repq = s.md.repq.erase e := by
  obtain ⟨-, -, -, repq⟩ := rateRoll_f s e.arr
  exact congrArg (List.erase · e) repq

theorem repairBegun_task (s : State) (e : RepEnt) (r : ArrayRec) :
    (∃ t, (repairBegun s e r).md.tasks = s.md.tasks ++ [t] ∧ t.kind = .repair e.pos e.map ∧ t.arr = e.arr ∧
      t.stripe = e.stripe) ∧
    repairBegun s e r = { s with md := (repairBegun s e r).md, nextH := (repairBegun s e r).nextH } := by
  obtain ⟨whole, tasks, -⟩ := rateRoll_f s e.arr
  unfold repairBegun
  refine addTask_after ?_ ?_ _ _ _ _ _ _
  · rw [whole]
  · exact tasks

/-! ### Resyncs (R260, R263) -/

/-- A stripe with no frame gets a task of its own. -/
theorem resyncGo_noFrame {e : LgLive} {r : ArrayRec} {s : State} (next : s.resyncNext = some e)
    (arr : s.arr? e.arr = some r) (noFrame : s.frameOf e.arr e.stripe = none) :
    s.resyncGo = (s.addTask .resync e.arr e.stripe 0 r.b (.step 0)).2 := by
  unfold State.resyncGo
  simp only [next, arr, noFrame]

/-- The frame of a stripe is destaged instead. -/
theorem resyncGo_frame {e : LgLive} {r : ArrayRec} {n : Nat} {f : Frame} {s : State} (next : s.resyncNext = some e)
    (arr : s.arr? e.arr = some r) (frame : s.frameOf e.arr e.stripe = some (n, f)) : s.resyncGo = s.resyncReady n := by
  unfold State.resyncGo
  simp only [next, arr, frame]

theorem resyncNext_waits {e : LgLive} {s : State} (next : s.resyncNext = some e) :
    e ∈ s.resyncWaits e.arr ∧ s.frameGoes e.arr e.stripe = false ∧ s.menderOk e.arr = true := by
  obtain ⟨-, chosen⟩ := List.mem_filter.mp (minBy_mem _ _ _ next)
  simp only [Bool.and_eq_true, Bool.not_eq_true', List.contains_iff_mem] at chosen
  obtain ⟨⟨ok, waits⟩, free⟩ := chosen
  exact ⟨waits, free, ok⟩

/-- Settles O51: what each row takes up is one new task, or the frame that holds the stripe. -/
theorem menderStarts : Obligations.MenderStarts := by
  refine ⟨?_, fun a r s may => walkMayIssue_free may, fun e r s next arr rate => ?_, fun e r s next arr noFrame => ?_,
    fun e r n f s next arr frame => next_settle (resyncGo_frame next arr frame),
    fun e s next => resyncNext_waits next⟩
  · rintro a r s v rfl arr may
    exact ⟨walkIssuedNext s a r, next_settle (walkGo_may arr may),
      congrArg Walk.issued (walkIssuedNext_walk s a r), walkIssuedNext_task s a r⟩
  · exact ⟨repairBegun s e r, next_settle (repairGo_next next arr rate),
      repairBegun_repq s e r, repairBegun_task s e r⟩
  · exact ⟨_, next_settle (resyncGo_noFrame next arr noFrame),
      addTask_after rfl rfl _ _ _ _ _ _⟩

end Sys2Proof.Proofs
end

section
/-! PROOF. The statement on the Mender's checkpoints, retries, idle marks and scrub passes. -/

namespace Sys2Proof.Proofs

open Sys2Proof.Machine

/-! ### Checkpoints (R252, R261) -/

theorem exec_rebuildCheckpoint_due {a : Nat} {s : State} (up : s.pfd = false) (active : (s.walk a).active = true)
    (behind : (s.walk a).ckWalked < (s.walk a).walked)
    (idle : (s.md.tasks.any fun t => t.arr == a && t.kind == .checkpoint) = false)
    (come : (s.walk a).ckWalked + 4096 ≤ (s.walk a).walked ∨ s.due (s.walk a).ckAt 1000000 = true) :
    exec (.rebuildCheckpoint a) s = .next (s.addTask .checkpoint a 0 0 0 (.step 0)).2 := by
  refine congrArg Host.Outcome.next ((if_neg ?_).trans (if_pos come))
  simp [up, active, idle, behind]

theorem exec_rebuildCheckpoint_none {a : Nat} {s : State}
    (none_ : s.pfd = true ∨ (s.walk a).active = false ∨ (s.walk a).walked ≤ (s.walk a).ckWalked) :
    exec (.rebuildCheckpoint a) s = .next s := by
  refine congrArg Host.Outcome.next (if_pos ?_)
  rcases none_ with h | h | h <;> simp [h]

/-- The state whose scrub position is stored in the Keep. -/
def scrubStored (s : State) (a : Nat) : State :=
  (s.scrubWord a (s.scrubOf a).next (s.scrubPasses a)).setScrub a { s.scrubOf a with ckAt := s.now, ckCount := 0 }

theorem exec_scrubCheckpoint_due {a : Nat} {s : State} (up : s.pfd = false) (running : (s.scrubOf a).running = true)
    (visited : 0 < (s.scrubOf a).ckCount)
    (come : 65536 ≤ (s.scrubOf a).ckCount ∨ s.due (s.scrubOf a).ckAt 60000000 = true) :
    exec (.scrubCheckpoint a) s = .next (scrubStored s a) := by
  refine congrArg Host.Outcome.next ((if_neg ?_).trans (if_pos come))
  simp [up, running, Nat.ne_of_gt visited]

theorem scrubStored_scrub (s : State) (a : Nat) :
    (scrubStored s a).scrubOf a = { s.scrubOf a with ckAt := s.now, ckCount := 0 } := scrub_setScrub _ _ _

theorem scrubStored_mem (s : State) (a : Nat) : (scrubStored s a).mem = s.mem := by
  show (s.scrubWord a (s.scrubOf a).next (s.scrubPasses a)).mem = s.mem
  rw [State.scrubWord, keepWord_frame]

/-! ### Retries and idle arrays (R251, R264) -/

theorem menderAgain_due {t : Nat} {x : Task} {s : State} (task : s.task? t = some x) (retry : x.phase = .retry)
    (come : s.due x.since 1000000 = true) (up : s.pfd = false) (notWalk : x.kind.isWalk = none) :
    s.menderAgain t = s.setTask { x with phase := .step 0 } := by
  unfold State.menderAgain
  simp only [task]
  rw [if_pos ⟨retry, come, up⟩, notWalk]
  rfl

theorem exec_arrayIdleTimer_due {a : Nat} {s : State}
    (unused : (s.cmds.any fun c => isPf0 c.f && s.cmdArr c == some a) = false)
    (come : s.due (mapGetD s.md.arrIdle a 0) 1000000 = true) :
    exec (.arrayIdleTimer a) s = .next { s with md.idleCap := s.md.idleCap ||| 1 <<< a } :=
  congrArg Host.Outcome.next (if_pos ⟨by rw [unused]; rfl, come⟩)

theorem testBit_or_one_shiftLeft_same (m a : Nat) : (m ||| 1 <<< a).testBit a = true := by
  rw [Nat.testBit_or, Nat.one_shiftLeft, Nat.testBit_two_pow_self, Bool.or_true]

theorem testBit_or_one_shiftLeft_ne (m : Nat) {a b : Nat} (other : b ≠ a) : (m ||| 1 <<< a).testBit b = m.testBit b := by
  rw [Nat.testBit_or, Nat.one_shiftLeft, Nat.testBit_two_pow_of_ne other.symm, Bool.or_false]

/-! ### Scrub passes (R261, R264, R412) -/

/-- The scrub gives way to PFD, an active walk, resyncs and repairs. -/
theorem scrubMay_free {a : Nat} {s : State} (may : s.scrubMay a = true) : s.pfd = false ∧ s.flag Reg.MD_CFG 0 = true ∧
    (s.walk a).active = false ∧ s.resyncWaits a = [] ∧ s.repairWaits a = false := by
  simp only [State.scrubMay, Bool.and_eq_true, Bool.not_eq_true', List.isEmpty_iff] at may
  obtain ⟨⟨⟨⟨⟨ok, on⟩, noWalk⟩, -⟩, noResync⟩, noRepair⟩ := may
  exact ⟨menderOk_up ok, on, noWalk, noResync, noRepair⟩

theorem scrubGo_start {a : Nat} {r : ArrayRec} {s : State} (arr : s.arr? a = some r) (may : (s.rateRoll a).scrubMay a = true)
    (resting : ((s.rateRoll a).scrubOf a).running = false) : s.scrubGo a = (s.rateRoll a).scrubStart a r := by
  unfold State.scrubGo
  simp only [arr]
  rw [if_neg (by simp [may]), if_pos resting]

theorem scrubGo_visit {a : Nat} {r : ArrayRec} {s v : State} (hv : v = s.rateRoll a) (arr : s.arr? a = some r)
    (may : v.scrubMay a = true) (running : (v.scrubOf a).running = true)
    (come : v.due (v.scrubOf a).visitAt (v.scrubUs r) = true) (rate : v.rateOk a r = true) :
    s.scrubGo a = if r.count ≤ (v.scrubOf a).next then v.scrubDone a
      else (v.scrubNext a).scrubAt a r (v.scrubOf a).next := by
  unfold State.scrubGo
  simp only [arr]
  rw [← hv, if_neg (by simp [may]), if_neg (by simp [running]), if_neg (by simp [come, rate])]

theorem scrubStart_scrub (s : State) (a : Nat) (r : ArrayRec) : ((s.scrubStart a r).scrubOf a).running = true :=
  congrArg Scrub.running (scrub_setScrub _ _ _)

/-- The end of a pass leaves the scrub at rest on stripe 0. -/
theorem scrubDone_scrub (s : State) (a : Nat) :
    (s.scrubDone a).scrubOf a = { s.scrubOf a with running := false, next := 0, ckCount := 0 } := by
  show ((s.scrubWord a 0 (s.scrubPasses a + 1)).setScrub a _).scrubOf a = _
  exact scrub_setScrub _ _ _

theorem scrubNext_scrub (s : State) (a : Nat) : ((s.scrubNext a).scrubOf a).next = (s.scrubOf a).next + 1 :=
  congrArg Scrub.next (scrub_setScrub _ _ _)

/-! ### The visit of a stripe (R261, R259) -/

theorem scrubAt_degraded {a n : Nat} (r : ArrayRec) {s : State} (marked : bit (s.sst a n) 28 = true)
    (degraded : s.sstState a n = Sst.degraded) : s.scrubAt a r n = (s.repAdd a n 0 0).setSstBit a n 28 false := by
  unfold State.scrubAt
  dsimp only
  rw [if_neg (by simp [marked]), if_pos degraded]

theorem scrubAt_task {a n : Nat} (r : ArrayRec) {s : State} (marked : bit (s.sst a n) 28 = true)
    (held : s.sstState a n = Sst.consistent ∨ s.sstState a n = Sst.open_ ∨ s.sstState a n = Sst.rebuilding) :
    s.scrubAt a r n = (s.addTask .scrub a n 0 r.b (.step 0)).2 := by
  have notDegraded : s.sstState a n ≠ Sst.degraded := by
    rcases held with h | h | h <;> rw [h] <;> decide
  unfold State.scrubAt
  dsimp only
  rw [if_neg (by simp [marked]), if_neg notDegraded, if_pos held]

/-- Settles O52: each row's equation at its time, with what the scrub record and the tasks then hold. -/
theorem menderTimes : Obligations.MenderTimes := by
  refine ⟨⟨fun a s up active behind idle come => ?_, fun a s none_ => exec_rebuildCheckpoint_none none_,
      fun a s up running visited come => ?_, fun t x s task retry come up notWalk => ?_, fun a s unused come => ?_⟩,
    fun a s may => scrubMay_free may, ?_, ?_, fun a n r s marked => ⟨scrubAt_degraded r marked, fun held => ?_⟩,
    fun a n r s notDue => if_pos notDue⟩
  · obtain ⟨⟨t, tasks, kind, arr, -⟩, whole, -⟩ := addTask_spec s .checkpoint a 0 0 0 (.step 0)
    exact ⟨_, exec_rebuildCheckpoint_due up active behind idle come, ⟨t, tasks, kind, arr⟩, whole⟩
  · exact ⟨scrubStored s a, exec_scrubCheckpoint_due up running visited come, congrArg Scrub.ckCount (scrubStored_scrub s a),
      by rw [scrubStored_scrub], rfl, scrubStored_mem s a⟩
  · exact next_settle (menderAgain_due task retry come up notWalk)
  · exact ⟨_, exec_arrayIdleTimer_due unused come, testBit_or_one_shiftLeft_same _ _,
      fun b other => testBit_or_one_shiftLeft_ne _ other, rfl⟩
  · rintro a r s v rfl arr may resting
    exact ⟨next_settle (scrubGo_start arr may resting), scrubStart_scrub _ a r⟩
  · intro a r s v hv arr may running come rate
    exact ⟨next_settle (scrubGo_visit hv arr may running come rate),
      congrArg Scrub.running (scrubDone_scrub v a), congrArg Scrub.next (scrubDone_scrub v a), scrubNext_scrub v a⟩
  · obtain ⟨task, frame, -⟩ := addTask_spec s .scrub a n 0 r.b (.step 0)
    rw [scrubAt_task r marked held]
    exact ⟨task, frame⟩

end Sys2Proof.Proofs
end

section
/-! PROOF. The statement on a late completion. -/

namespace Sys2Proof.Proofs

open Sys2Proof.Machine Sys2Proof.Safety

/-- A completion is the end of the command outstanding under its identifier. -/
theorem exec_memberCompletion_found {port qp cid : Nat} {c : MCmd} {s : State} (found : s.mpFind port qp cid = some c)
    (ok dnr : Bool) (pay : MPayload) :
    exec (.memberCompletion port qp cid ok dnr pay) s = .next (s.mpDone c ok dnr pay).settle := by
  show execMemberCompletion port qp cid ok dnr pay s = _
  rw [execMemberCompletion, found]

/-- The state whose late command has given its identifier back and is counted. -/
def lateCounted (s : State) (c : MCmd) : State := (s.mpRemove c).bump (Reg.MP_P_LATE c.port)

theorem mpDone_late {c : MCmd} (late : c.expired = true ∨ c.timedOut = true) (s : State) (ok dnr : Bool) (pay : MPayload) :
    s.mpDone c ok dnr pay = (lateCounted s c).mpPump c.port := if_pos late

theorem lateCounted_counted (s : State) (c : MCmd) :
    (lateCounted s c).reg (Reg.MP_P_LATE c.port) = sat32 (s.reg (Reg.MP_P_LATE c.port) + 1) :=
  State.reg_bump_same _ _

/-- Settles O49: the command is removed and counted, and what waits for its identifier is issued. -/
theorem lateCompletion : Obligations.LateCompletion := by
  intro port qp cid ok dnr pay c s found late
  refine ⟨lateCounted s c, ?_, rfl, lateCounted_counted s c, rfl, rfl⟩
  rw [exec_memberCompletion_found found, mpDone_late late]

end Sys2Proof.Proofs
end

section
/-! PROOF. The statement on member links, presence, power and SMART. -/

namespace Sys2Proof.Proofs

open Sys2Proof.Machine Sys2Proof.Safety

/-! ### What changes of the command lists do to a port's record and commands -/

@[simp] theorem port_initDrop (s : State) (p r : Nat) : (s.initDrop p).port r = s.port r := rfl

@[simp] theorem port_mpHold (s : State) (p r : Nat) : (s.mpHold p).port r = s.port r := rfl

@[simp] theorem port_mpEndAll (s : State) (p r : Nat) : (s.mpEndAll p).port r = s.port r := rfl

@[simp] theorem port_portNote (s : State) (p n sev r : Nat) : (s.portNote p n sev).port r = s.port r := rfl

/-- Holding the commands of a port leaves none of them outstanding. -/
theorem mpHold_clears (s : State) (p : Nat) : ∀ c ∈ (s.mpHold p).mp.cmds, c.port ≠ p := by
  intro c kept
  simpa using (List.mem_filter.mp kept).2

/-- Ending the commands of a port leaves none of them outstanding. -/
theorem mpEndAll_clears (s : State) (p : Nat) : ∀ c ∈ (s.mpEndAll p).mp.cmds, c.port ≠ p := by
  intro c kept
  simpa using (List.mem_filter.mp kept).2

/-! ### Links and bounds (R271, R281, R285) -/

/-- The state in which a READY port that lost its link is in RETRAIN, its commands held. -/
def retrainHeld (s : State) (p : Nat) : State :=
  ((s.initDrop p).updPort p fun q => { q with state := Ps.retrain, boundAt := s.now }).mpHold p

theorem linkDown_ready {p : Nat} {s : State} (ready : (s.port p).state = Ps.ready) (up : s.pfd = false) :
    s.linkDown p = retrainHeld s p :=
  (if_pos ready).trans (if_neg (Bool.eq_false_iff.mp up))

theorem retrainHeld_port (s : State) (p : Nat) :
    (retrainHeld s p).port p = { s.port p with state := Ps.retrain, boundAt := s.now } := by
  rw [retrainHeld, port_mpHold, port_updPort, port_initDrop]

/-- Is a link narrower than its port, or slower than 16 GT/s? -/
def linkReduced (s : State) (p lanes speed : Nat) : Bool := decide (lanes < s.fullLanes p) || decide (speed < 4)

/-- The state in which the link of a port has trained and initialisation begins. -/
def linkTrained (s : State) (p lanes speed : Nat) : State := s.updPort p fun q => { q with
  state := Ps.init, enAt := s.now, rdy := false, fromRetrain := q.state == Ps.retrain, lanes := lanes, speed := speed
  down := linkReduced s p lanes speed, idn := none }

theorem linkTrained_port (s : State) (p lanes speed : Nat) : (linkTrained s p lanes speed).port p = { s.port p with
    state := Ps.init, enAt := s.now, rdy := false, fromRetrain := (s.port p).state == Ps.retrain, lanes := lanes
    speed := speed, down := linkReduced s p lanes speed, idn := none } := port_updPort s p _

/-- A link that comes up starts initialisation, with a notice where it is newly reduced. -/
theorem linkUp_awaited {p : Nat} {s : State} (awaited : (s.port p).state = Ps.training ∨ (s.port p).state = Ps.retrain)
    (lanes speed : Nat) : s.linkUp p lanes speed =
      if linkReduced s p lanes speed && !(s.port p).down then (linkTrained s p lanes speed).portNote p 13 Sev.warning
      else linkTrained s p lanes speed := if_pos awaited

/-- The port as a link that came up leaves it; only a notice goes beyond the ports. -/
theorem linkUp_effect {p : Nat} {s : State} (awaited : (s.port p).state = Ps.training ∨ (s.port p).state = Ps.retrain)
    (lanes speed : Nat) : (s.linkUp p lanes speed).port p = (linkTrained s p lanes speed).port p ∧
      s.linkUp p lanes speed = { s with mp := (s.linkUp p lanes speed).mp, rg := (s.linkUp p lanes speed).rg } := by
  rw [linkUp_awaited awaited]
  split
  · exact ⟨port_portNote _ _ _ _ _, rfl⟩
  · exact ⟨rfl, rfl⟩

theorem portBarred_port (s : State) (p reason : Nat) :
    (s.portBarred p reason).port p = { s.port p with state := Ps.rejected, reason := reason } := by
  rw [State.portBarred, port_mpEndAll, port_updPort, port_initDrop]

theorem portBarred_clears (s : State) (p reason : Nat) : ∀ c ∈ (s.portBarred p reason).mp.cmds, c.port ≠ p :=
  mpEndAll_clears _ p

/-! ### Timeouts and the members' answers (R271, R285) -/

theorem exec_retrainTimeout_due {p : Nat} {s : State} (retrain : (s.port p).state = Ps.retrain)
    (come : s.due (s.port p).boundAt (retrainUs s) = true) :
    exec (.retrainTimeout p) s = .next (s.portReject p 6).settle := congrArg Host.Outcome.next (if_pos ⟨retrain, come⟩)

theorem exec_trainingTimeout_due {p : Nat} {s : State} (training : (s.port p).state = Ps.training)
    (come : s.due (s.port p).boundAt 1000000 = true) :
    exec (.trainingTimeout p) s = .next (s.portReject p 6).settle := congrArg Host.Outcome.next (if_pos ⟨training, come⟩)

theorem exec_readyWaitTimeout_waits {p : Nat} {s : State} (init : (s.port p).state = Ps.init)
    (waits : (s.port p).rdy = false) : exec (.readyWaitTimeout p) s = .next (s.portReject p 1).settle :=
  congrArg Host.Outcome.next (if_pos ⟨init, waits⟩)

theorem exec_cstsRdy_waits {p : Nat} {s : State} (init : (s.port p).state = Ps.init) (waits : (s.port p).rdy = false) :
    exec (.cstsRdy p) s = .next ((s.updPort p fun q => { q with rdy := true }).initCmd p .identCtrl 0).settle :=
  congrArg Host.Outcome.next (if_pos ⟨init, waits⟩)

/-! ### Presence and power (R283, R285) -/

theorem exec_powerWaitExpiry_due {p : Nat} {s : State} (powering : (s.port p).state = Ps.powering)
    (come : s.due (s.port p).since (pwrUs s) = true) : exec (.powerWaitExpiry p) s =
      .next (s.updPort p fun q => { q with state := Ps.training, boundAt := s.now }).sbSync :=
  congrArg Host.Outcome.next (if_pos ⟨powering, come⟩)

/-- A port seen present in two polls running is powered. -/
theorem portPresence_inserted {p : Nat} {s : State} (exists_ : s.portExists p = true)
    (absent : (s.port p).state = Ps.absent) (seen : 1 ≤ (s.port p).polls) : s.portPresence p true = s.setPort p { s.port p with
      present := true, polls := (s.port p).polls + 1, state := Ps.powering, since := s.now } := by
  have powered : (s.port p).state = Ps.absent ∧ (s.port p).polls + 1 ≥ 2 := ⟨absent, Nat.succ_le_succ seen⟩
  simp only [State.portPresence, exists_, Bool.true_eq_false, Bool.not_true, Bool.false_eq_true, if_false, if_pos powered]

theorem portPresence_removed {p : Nat} {s : State} (exists_ : s.portExists p = true)
    (occupied : (s.port p).state ≠ Ps.absent) : s.portPresence p false = s.portRemove p := by
  simp only [State.portPresence, exists_, Bool.true_eq_false, Bool.not_false, if_false, if_true, if_neg occupied]

theorem portGone_port (s : State) (p : Nat) (q : Port) : (s.portGone p q).port p = {
    failed := (s.port p).failed && s.assigned p, tmos := q.tmos, werrs := q.werrs, rerrs := q.rerrs } := by
  rw [State.portGone, port_updPort, port_mpEndAll, port_initDrop]

theorem portGone_clears (s : State) (p : Nat) (q : Port) : ∀ c ∈ (s.portGone p q).mp.cmds, c.port ≠ p :=
  mpEndAll_clears (s.initDrop p) p

/-! ### Presence polls (R283) -/

section
variable {s : State} (released : s.pw.held = false) (begun : 3 ≤ s.pw.step)
include released begun

/-- From step 3 on a poll takes effect by its answer. -/
theorem exec_presencePoll_open (bus : Nat) (ack : Bool) (bits : BitVec 16) : exec (.presencePoll bus ack bits) s =
    .next (if !ack then s.sbNak bus else (s.sbPoll bus bits).settle) := by
  refine congrArg Host.Outcome.next (if_neg ?_)
  simp [released, begun]

theorem exec_presencePoll_answered (bus : Nat) (bits : BitVec 16) :
    exec (.presencePoll bus true bits) s = .next (s.sbPoll bus bits).settle :=
  (exec_presencePoll_open released begun bus true bits).trans (congrArg Host.Outcome.next (if_neg (by decide)))

theorem exec_presencePoll_unanswered (bus : Nat) (bits : BitVec 16) :
    exec (.presencePoll bus false bits) s = .next (s.sbNak bus) :=
  (exec_presencePoll_open released begun bus false bits).trans (congrArg Host.Outcome.next (if_pos rfl))

end

/-- The polls of a bus running without an answer. -/
def missedPolls (s : State) (bus : Nat) : Nat := if bus = 0 then s.mp.nak0 else s.mp.nak1

/-- The state whose bus has counted one more poll without an answer. -/
def nakCounted (s : State) (bus : Nat) : State :=
  if bus = 0 then { s with mp.nak0 := missedPolls s bus + 1 } else { s with mp.nak1 := missedPolls s bus + 1 }

theorem nakCounted_frame (s : State) (bus : Nat) : nakCounted s bus = { s with mp := (nakCounted s bus).mp } := by
  unfold nakCounted
  split <;> rfl

/-- The third poll running without an answer sets SBERR. -/
theorem sbNak_third {bus : Nat} {s : State} (twice : 2 ≤ missedPolls s bus) :
    s.sbNak bus = (nakCounted s bus).setFlag Reg.MP_STATUS bus true := by
  unfold State.sbNak
  exact if_pos (Nat.succ_le_succ twice)

/-- SBERR of a bus is set, and besides registers only the count of polls changes. -/
theorem sbNak_third_effect {bus : Nat} {s : State} (twice : 2 ≤ missedPolls s bus) (two : bus < 2) :
    (s.sbNak bus).flag Reg.MP_STATUS bus = true ∧
      s.sbNak bus = { s with regs := (s.sbNak bus).regs, mp := (s.sbNak bus).mp } := by
  rw [sbNak_third twice]
  refine ⟨State.flag_setFlag_same _ _ _ _ (Nat.lt_trans two (by decide)), ?_⟩
  rw [nakCounted_frame]
  rfl

/-! ### SMART polls (R284) -/

theorem exec_smartPoll_due {p : Nat} {s : State} (ready : (s.port p).state = Ps.ready)
    (come : s.due (s.port p).smartAt (1000000 * max 1 (s.fld Reg.MP_CFG 15 8)) = true) : exec (.smartPoll p) s =
      .next ((s.updPort p fun q => { q with smartAt := s.now }).mpIssue (mcmd p .smart 0 0 .smart)) :=
  congrArg Host.Outcome.next (if_pos ⟨ready, come⟩)

/-- Settles O50: each row's equation in its state of the port, with the port as it leaves it. -/
theorem ports : Obligations.Ports := by
  refine ⟨⟨fun p s ready up => ?_, fun p lanes speed s awaited => ?_,
      fun _ _ => exec_retrainTimeout_due,
      fun _ _ => exec_trainingTimeout_due,
      fun p s init waits => ⟨exec_readyWaitTimeout_waits init waits, ?_⟩, fun p r s => ?_⟩,
    fun p s powering come => ?_, fun bus bits s released begun => exec_presencePoll_answered released begun bus bits,
    fun bus bits s released begun twice two => ?_, fun p s exists_ absent seen => ?_,
    fun _ _ => portPresence_removed, fun p q s => ?_, fun p s ready come => ?_⟩
  · have port := retrainHeld_port s p
    exact ⟨retrainHeld s p, next_settle (congrArg State.tlUpdate (linkDown_ready ready up)), by rw [port], by rw [port],
      mpHold_clears _ p, rfl⟩
  · obtain ⟨port, frame⟩ := linkUp_effect awaited lanes speed
    rw [linkTrained_port] at port
    exact ⟨s.linkUp p lanes speed, rfl, by rw [port], by rw [port], by rw [port], by rw [port], by rw [port]; rfl, frame⟩
  · exact ⟨s.updPort p fun q => { q with rdy := true }, exec_cstsRdy_waits init waits, by rw [port_updPort], rfl⟩
  · have port := portBarred_port s p r
    exact ⟨rfl, by rw [port], by rw [port], portBarred_clears s p r, rfl⟩
  · exact ⟨s.updPort p fun q => { q with state := Ps.training, boundAt := s.now }, exec_powerWaitExpiry_due powering come,
      by rw [port_updPort], rfl⟩
  · exact ⟨s.sbNak bus, exec_presencePoll_unanswered released begun bus bits, sbNak_third_effect twice two⟩
  · rw [portPresence_inserted exists_ absent seen, port_setPort]
    exact ⟨rfl, rfl, rfl, rfl⟩
  · have port := portGone_port s p q
    exact ⟨by rw [port]; rfl, by rw [port], portGone_clears s p q, rfl⟩
  · exact ⟨s.updPort p fun q => { q with smartAt := s.now }, exec_smartPoll_due ready come, by rw [port_updPort], rfl⟩

end Sys2Proof.Proofs
end

section
/-! PROOF. The statements of the host port chapter: resets and the link, the functions, configuration requests, BAR accesses,
Freeze and LTR; with the invariant on inhibited Keep writes. -/

namespace Sys2Proof.Proofs

open Sys2Proof.Machine Sys2Proof.Safety

/-! ### Inhibited Keep writes (R353) -/

/-- Settles O5: what every operation keeps (`Stays`) holds of every command but the two rows of a power-on reset. -/
theorem inhibitedKeep : Obligations.InhibitedKeep := fun c s t hpor hrail inhibited e =>
  (exec_stays c s t hpor hrail e).inhibit inhibited

/-! ### Host resets and the link (R302, R304, R305, R307) -/

/-- A link shown as down keeps what a host reset cleared. -/
theorem hostClear_linkZero {s : State} (h : hostClear s) : hostClear s.linkZero :=
  hostClear_congr h rfl rfl rfl rfl rfl rfl
    ⟨(linkBits s .pf0).1, fun f => ⟨(linkBits s f).2.1, (linkBits s f).2.2.1⟩⟩

/-- The bit that shows PERST# is none of those a host reset clears. -/
theorem hostClear_setPerst {s : State} (h : hostClear s) (b : Bool) : hostClear (s.setFlag Reg.HP_STATUS 1 b) := by
  refine hostClear_congr h rfl rfl rfl rfl rfl rfl ⟨?_, fun f => ?_⟩
  · exact State.flag_setFlag_bit _ _ _ _ _ (by decide) (by decide)
  · cases f
    all_goals exact ⟨State.flag_setFlag_bit _ _ _ _ _ (by decide) (by decide),
      State.fld_setFlag_disj _ _ _ _ _ _ (by decide) (by decide)⟩

theorem linkGone_eq (s : State) : s.linkGone = (s.bump Reg.HP_LINKDOWN).hostGone.linkZero := rfl

theorem hostLinkLost_up {s : State} (up : s.flag Reg.HP_STATUS 0 = true) (perst : s.flag Reg.HP_STATUS 1 = false) :
    s.hostLinkLost = s.linkGone.settle := if_pos ⟨up, perst⟩

/-- The registers and port state of a link that has trained with a width and a speed. -/
def linkTrainedUp (s : State) (w v : Nat) : State :=
  ((State.setFlag { s with hp.wake := false, hp.d3cold := false } Reg.HP_STATUS 0 true).setFld Reg.HP_STATUS 7 4 w).setFld
    Reg.HP_STATUS 10 8 v

theorem exec_hostLinkUp_released {s : State} (released : s.flag Reg.HP_STATUS 1 = false) (w v : Nat) :
    exec (.hostLinkUp w v) s = .next (linkTrainedUp s w v) :=
  congrArg Host.Outcome.next (if_neg (nf' released))

theorem linkTrainedUp_status (s : State) (w v : Nat) : (linkTrainedUp s w v).flag Reg.HP_STATUS 0 = true ∧
    (linkTrainedUp s w v).fld Reg.HP_STATUS 7 4 = w % 16 ∧ (linkTrainedUp s w v).fld Reg.HP_STATUS 10 8 = v % 8 := by
  unfold linkTrainedUp
  refine ⟨?_, ?_, State.fld_setFld_same _ _ _ _ _ (by decide) (by decide)⟩
  · rw [State.flag_setFld_disj _ _ _ _ _ _ (by decide) (by decide) (by decide),
      State.flag_setFld_disj _ _ _ _ _ _ (by decide) (by decide) (by decide),
      State.flag_setFlag_same _ _ _ _ (by decide)]
  · rw [State.fld_setFld_disj _ _ _ _ _ _ _ (by decide) (by decide) (by decide),
      State.fld_setFld_same _ _ _ _ _ (by decide) (by decide)]
    rfl

/-- Settles O13: host resets by `hostReset_clear`, PERST# release and link up by the registers they set. -/
theorem hostLink : Obligations.HostLink := by
  refine ⟨⟨fun s => ?_, fun s => ⟨s.hostReset, rfl, hostReset_clear s⟩, fun s up perst => ?_⟩, fun s => ?_,
    fun w v s released => ?_⟩
  · refine ⟨s.hostGone.linkZero.setFlag Reg.HP_STATUS 1 true, rfl,
      hostClear_setPerst (hostClear_linkZero (hostGone_clear s)) true, State.flag_setFlag_same _ _ _ _ (by decide), ?_⟩
    rw [State.flag_setFlag_bit _ _ _ _ _ (by decide) (by decide)]
    exact (linkBits s.hostGone .pf0).2.2.2
  · refine ⟨s.linkGone, congrArg Host.Outcome.next (hostLinkLost_up up perst), ?_⟩
    rw [linkGone_eq]
    exact ⟨hostClear_linkZero (hostGone_clear _), (linkBits _ .pf0).2.2.2⟩
  · exact ⟨s.setFlag Reg.HP_STATUS 1 false, rfl, State.flag_setFlag_same _ _ _ _ (by decide), rfl⟩
  · obtain ⟨up, width, speed⟩ := linkTrainedUp_status s w v
    exact ⟨linkTrainedUp s w v, exec_hostLinkUp_released released w v, up, width, speed, rfl, rfl⟩

/-! ### FLR (R303) -/

theorem flrBegin_inFlr (s : State) (f : Func) : (s.flrBegin f).inFlr f = true := by
  cases f <;> rfl

/-- No ring of a function whose FLR has begun is in another state than DISABLED. -/
theorem flrBegin_rings (s : State) (f : Func) : (∀ e ∈ (s.flrBegin f).rg.sq, keyFunc e.1 = f → e.2.state = 0) ∧
    (∀ e ∈ (s.flrBegin f).rg.cq, keyFunc e.1 = f → e.2.state = 0) := by
  have sq : (s.flrBegin f).rg.sq = (s.hostStop f 0 true).rg.sq.map fun e =>
    if keyFunc e.1 == f then (e.1, { e.2 with state := 0 }) else e := by cases f <;> rfl
  have cq : (s.flrBegin f).rg.cq = (s.hostStop f 0 true).rg.cq.map fun e =>
    if keyFunc e.1 == f then (e.1, { e.2 with state := 0 }) else e := by cases f <;> rfl
  rw [sq, cq]
  constructor
  all_goals
    intro e he hf
    obtain ⟨x, -, rfl⟩ := List.mem_map.mp he
    by_cases c : keyFunc x.1 == f
    · rw [if_pos c]
    · rw [if_neg c] at hf
      exact absurd (beq_iff_eq.mpr hf) c

/-- Closing the windows of a function changes registers of the window table alone. -/
theorem winReset_frame (s : State) (f : Func) : s.winReset f = { s with regs := (s.winReset f).regs } ∧
    (s.winReset f).reg Reg.HP_STATUS = s.reg Reg.HP_STATUS := by
  unfold State.winReset
  generalize List.range 64 = l
  induction l generalizing s with
  | nil => exact ⟨rfl, rfl⟩
  | cons w t ih =>
    rw [List.foldl_cons]
    split
    · obtain ⟨frame, status⟩ := ih (s.setFlag (Reg.WT_E_CTRL w) 0 false)
      have other : Reg.HP_STATUS ≠ Reg.WT_E_CTRL w := by unfold Reg.HP_STATUS Reg.WT_E_CTRL; omega
      exact ⟨by rw [frame]; rfl, status.trans (State.reg_setFlag_ne _ _ _ _ _ other)⟩
    · exact ih s

/-- The port's status belongs to no function: FLR does not return it to its reset value. -/
theorem domCleared_flr_status (f0 f1 : Bool) : domCleared false false false f0 f1 Reg.HP_STATUS = false := by
  cases f0 <;> cases f1 <;> decide +kernel

/-- The state in which the FLR of a function has ended, but for the end of its mark. -/
def flrCleared (s : State) (f : Func) : State :=
  ((((s.ringsReset f).cfgReset f true).winReset f).clearRegs false false false (isPf0 f) (!isPf0 f)).bump Reg.HP_FLR

theorem flrCleared_status (s : State) (f : Func) :
    (flrCleared s f).reg Reg.HP_STATUS = ((s.ringsReset f).cfgReset f true).reg Reg.HP_STATUS := by
  unfold flrCleared
  rw [State.reg_bump_ne _ _ _ (by decide), State.reg_clearRegs, domCleared_flr_status,
    if_neg (by decide), (winReset_frame _ f).2]

theorem flrCleared_parts (s : State) (f : Func) :
    (flrCleared s f).rg = (s.ringsReset f).rg ∧ (flrCleared s f).hp.msix = (s.ringsReset f).hp.msix := by
  unfold flrCleared
  rw [State.bump_rg, State.clearRegs_rg, State.bump_hp, State.clearRegs_hp, (winReset_frame _ f).1]
  exact ⟨rfl, rfl⟩

/-- The end of FLR clears the mark and, for PF1, what the admin functions hold; rings and registers are as the clearing left
them. -/
theorem flrEnd_parts (s : State) (f : Func) : (s.flrEnd f).regs = (flrCleared s f).regs ∧
    (s.flrEnd f).rg.sq = (flrCleared s f).rg.sq ∧ (s.flrEnd f).rg.inl = (flrCleared s f).rg.inl ∧
    (s.flrEnd f).hp.msix = (flrCleared s f).hp.msix ∧ (s.flrEnd f).inFlr f = false := by
  cases f <;> exact ⟨rfl, rfl, rfl, rfl, rfl⟩

theorem flrEnd_function (s : State) (f : Func) : (s.flrEnd f).bme f = false ∧ (s.flrEnd f).dstate f = 0 := by
  obtain ⟨bme, dstate⟩ := cfgReset_dst (s.ringsReset f) f true
  have status : (s.flrEnd f).reg Reg.HP_STATUS = ((s.ringsReset f).cfgReset f true).reg Reg.HP_STATUS :=
    (State.reg_congr (flrEnd_parts s f).1 _).trans (flrCleared_status s f)
  constructor
  · rw [← bme, State.bme, State.flag, status]; rfl
  · rw [← dstate, State.dstate, State.fld, status]; rfl

theorem flrEnd_rings (s : State) (f : Func) : (∀ e ∈ (s.flrEnd f).rg.sq, keyFunc e.1 ≠ f) ∧
    (∀ i ∈ (s.flrEnd f).rg.inl, i.f ≠ f) ∧ (∀ e ∈ (s.flrEnd f).hp.msix, keyFunc e.1 ≠ f) := by
  obtain ⟨-, sq, inl, msix, -⟩ := flrEnd_parts s f
  obtain ⟨rg, vectors⟩ := flrCleared_parts s f
  obtain ⟨sqReset, inlReset, msixReset⟩ := ringsReset_eq s f
  rw [sq, inl, msix, rg, vectors, sqReset, inlReset, msixReset]
  refine ⟨fun e he => ?_, fun i hi => ?_, fun e he => ?_⟩
  · simpa using (List.mem_filter.mp he).2
  · simpa using (List.mem_filter.mp hi).2
  · simpa using (List.mem_filter.mp he).2

theorem exec_flrWaitDone_over {f : Func} {t : Nat} {s : State} (begun : s.flrAt f = some t)
    (waited : s.hp.reads.all (fun r => r.req.f != f) = true ∨ s.due t 10000 = true) :
    exec (.flrWaitDone f) s = .next (s.flrEnd f).settle := by
  show (Host.Outcome.next (match s.flrAt f with | some t => _ | none => s) : Out) = _
  rw [begun]
  exact congrArg Host.Outcome.next (if_pos waited)

/-! ### Bus Master Enable and the D states (R296, R297, R306) -/

theorem bmeDrop_on {s : State} {f : Func} (on : s.bme f = true) :
    s.bmeDrop f = (s.setFlag Reg.HP_STATUS (bmeBit f) false).hostStop f 3 false := if_pos on

theorem bmeRaise_off {s : State} {f : Func} (off : s.bme f = false) :
    s.bmeRaise f = ((s.setFlag Reg.HP_STATUS (bmeBit f) true).msixPump f).reSignal f := if_neg (nf' off)

theorem toD3_awake {s : State} {f : Func} (awake : s.dstate f ≠ 3) :
    s.toD3 f = (if s.bme f then s.hostStop f 3 false else s).setFld Reg.HP_STATUS (dstLo f + 1) (dstLo f) 3 := if_neg awake

theorem dstate_setDst (s : State) (f : Func) (v : Nat) :
    (s.setFld Reg.HP_STATUS (dstLo f + 1) (dstLo f) v).dstate f = v % 4 := by
  cases f <;> exact State.fld_setFld_same _ _ _ _ _ (by decide) (by decide)

/-- Settles O14: the start and end of FLR, the halt of Bus Master Enable and the D states, each from its row. -/
theorem functionStates : Obligations.FunctionStates := by
  refine ⟨⟨fun f s idle => ?_, fun f s t begun waited => ?_⟩, fun f s on => ?_, fun f s off => ?_, fun f s awake => ?_,
    fun f s => ?_⟩
  · exact ⟨s.flrBegin f, congrArg Host.Outcome.next (if_neg (nf' idle)), flrBegin_inFlr s f, flrBegin_rings s f⟩
  · obtain ⟨bme, dstate⟩ := flrEnd_function s f
    obtain ⟨-, -, -, -, ended⟩ := flrEnd_parts s f
    exact ⟨s.flrEnd f, exec_flrWaitDone_over begun waited, ended, bme, dstate, flrEnd_rings s f⟩
  · refine ⟨s.bmeDrop f, rfl, ?_⟩
    rw [bmeDrop_on on]
    exact hostStop_run _ f 3 false (by decide)
  · exact congrArg Host.Outcome.next (bmeRaise_off off)
  · refine ⟨s.toD3 f, rfl, ?_, fun on => ?_⟩
    · rw [toD3_awake awake]
      exact dstate_setDst _ f 3
    · rw [toD3_awake awake, if_pos on]
      exact (hostStop_run s f 3 false (by decide)).1
  · exact ⟨s.toD0 f, rfl, dstate_setDst s f 0, rfl⟩

/-! ### Configuration requests (R286, R287, R305) -/

/-- Nothing waits that a command makes possible at once: `settle` finds no work. -/
structure Calm (s : State) : Prop where
  ends : s.mp.ends = []
  tasks : s.md.tasks = []
  dump : s.hm.dump = none
  restore : s.hm.restore = none
  cmds : s.cmds = []
  stopQ : s.ld.stopQ = []
  replaying : s.lg.replaying = 0
  stopped : s.hm.stopped = false
  booting : s.pw.step = 1
  writeBack : s.reg Reg.LD_STATUS = 0
  rstWait : s.hm.rstWait = false

theorem settleStep_of_calm {s : State} (h : Calm s) : s.settleStep = none := by
  have dump : s.dumpGo = s := by unfold State.dumpGo; rw [h.dump]
  have restore : s.rsGo = s := by unfold State.rsGo; rw [h.restore]
  unfold State.settleStep
  rw [h.ends, h.tasks, dump, restore]
  simp [State.hamperRead, State.stopNext, h.cmds, h.stopQ]

theorem settleN_of_calm {s : State} (h : Calm s) (n : Nat) : State.settleN n s = s := by
  cases n with
  | zero => rfl
  | succ n => rw [State.settleN, settleStep_of_calm h]

theorem settle_of_calm {s : State} (h : Calm s) : s.settle = s := by
  have replay : s.replayCheck = s := by simp [State.replayCheck, h.replaying]
  have image : s.noImageSafe = s := by simp [State.noImageSafe, h.stopped]
  have boot : s.bootCheck = s := by simp [State.bootCheck, h.booting]
  have writeThrough : s.wtCheck = s := by simp [State.wtCheck, State.flag, h.writeBack, bit]
  have writeBack : s.wbDone = s := by simp [State.wbDone, State.flag, h.writeBack, bit]
  have reset : s.rstNow = s := by simp [State.rstNow, h.rstWait]
  unfold State.settle
  rw [settleN_of_calm h, replay, image, boot, writeThrough, writeBack, reset]

theorem exec_configRequest_write {s : State} {f : Func} (up : s.hp.cfgReady = true) (released : s.flag Reg.HP_STATUS 1 = false)
    (noFlr : s.inFlr f = false) (off : Nat) (v : W32) :
    exec (.configRequest f off (some v)) s = .next (s.cfgWrite f (off / 4 * 4) v.toNat).settle := by
  refine congrArg Host.Outcome.next (if_neg ?_)
  simp [up, released, noFlr]

/-- PF0 up with the 224 tags it may take of 256 quarantined and one read waiting for a tag. -/
def tagsOut : State :=
  { State.setReg State.reset Reg.HP_STATUS 0x30001 with
    hp.cfgReady := true, hp.rdq := [⟨.pf0, 0x1000, 64, .gone⟩], hp.quar := (List.range 224).map fun t => ⟨t, 0⟩ }

/-- The same state after a host's write of configuration dwords. -/
theorem calm_tagsOut (m : NMap W32) : Calm { tagsOut with hp.cfg := m } :=
  ⟨rfl, rfl, rfl, rfl, rfl, rfl, rfl, rfl, rfl, (by decide +kernel : tagsOut.reg Reg.LD_STATUS = 0), rfl⟩

/-- The write of Device Control 2 that enables 10-bit tags sends the waiting read. -/
theorem tagsOut_sends : ((tagsOut.setCfg .pf0 0x88 0x1000).pumpReads).out ≠ [] := by decide +kernel

/-- Refutes O15: its clause on writes leaves out 0x04, 0x44, 0x50 and 0x68, but not 0x88 (Device Control 2), whose write gives
freed tags to waiting reads. In `tagsOut` the write that enables 10-bit tags sends a read, where a change of the written dwords
alone sends none. -/
theorem not_configSpace : ¬ Obligations.ConfigSpace := by
  rintro ⟨-, -, write⟩
  have released : tagsOut.flag Reg.HP_STATUS 1 = false := by decide +kernel
  obtain ⟨u, run, -, frame⟩ := write .pf0 0x88 0x1000 tagsOut rfl released rfl (by decide) (by decide) (by decide)
    (by decide) (by decide) (by decide)
  rw [exec_configRequest_write rfl released rfl] at run
  have same : (tagsOut.setCfg .pf0 0x88 0x1000).pumpReads.settle = u.settle := Host.Outcome.next.inj run
  have silent : u.settle.out = [] := by
    rw [frame, settle_of_calm (calm_tagsOut u.hp.cfg)]
    rfl
  have stays := (State.settle_stays (Stays.refl (tagsOut.setCfg .pf0 0x88 0x1000).pumpReads)).out
  rw [same, silent] at stays
  exact tagsOut_sends (List.prefix_nil.mp stays)

/-! ### Invalid BAR0 accesses and BAR2 windows (R289, R291, R292, R299) -/

theorem exec_bar0InvalidAccess_counted {f : Func} {off len : Nat} {wr : Bool} {s : State}
    (invalid : bar0Invalid f off len wr = true) (served : s.pf0Dropped f = false) :
    exec (.bar0InvalidAccess f off len wr) s = .next (if wr then s.bump Reg.HP_BADACC
      else (s.bump Reg.HP_BADACC).put [.barReply f 0 (zeros len)]) := by
  refine congrArg Host.Outcome.next ((if_neg ?_).trans (if_neg (nf' served)))
  rw [invalid]
  decide

theorem exec_bar0InvalidAccess_frozen {off len : Nat} {s : State} (invalid : bar0Invalid .pf0 off len true = true)
    (frozen : s.frozen = true) : exec (.bar0InvalidAccess .pf0 off len true) s = .next (s.bump Reg.HP_DROP_FRZ) := by
  have dropped : s.pf0Dropped .pf0 = true := by rw [State.pf0Dropped, frozen]; rfl
  refine congrArg Host.Outcome.next ((if_neg ?_).trans (if_pos dropped))
  rw [invalid]
  decide

/-- A run over no byte ends. -/
theorem winRun_zero (s : State) (f : Func) (x : Nat) (wr : Option (List Byte)) (ecc : Bool) (fuel : Nat) :
    s.winRun f x 0 wr ecc fuel = s := by
  cases fuel <;> rfl

/-- An access that stays in its window, or that no entry serves, has one part. -/
theorem winRun_onePart {s : State} {f : Func} {x n : Nat} {w : Option Nat} (served : s.winFind f x = w) (some_ : 0 < n)
    (inside : ∀ i, w = some i → x + n ≤ Win.base s i + Win.size s i) (wr : Option (List Byte)) (ecc : Bool) (fuel : Nat) :
    s.winRun f x n wr ecc (fuel + 1) = s.winPart f w x n wr ecc := by
  rw [State.winRun, if_neg (Nat.ne_of_gt some_), served]
  cases w with
  | none => dsimp only; rw [Nat.sub_self, winRun_zero]
  | some i =>
    have whole : min n (Win.base s i + Win.size s i - x) = n := by have := inside i rfl; omega
    dsimp only
    rw [whole, Nat.sub_self, winRun_zero]

theorem exec_bar2Access_run {f : Func} {s : State} (served : s.pf0Dropped f = false) (off len : Nat) (wr : Option (List Byte))
    (ecc : Bool) : exec (.bar2Access f off len wr ecc) s = .next (s.winRun f off (match wr with
      | some d => d.length
      | none => len) wr ecc 64) :=
  congrArg Host.Outcome.next (if_neg (nf' served))

/-- A read that no entry serves is a miss, answered as Unsupported Request. -/
theorem winPart_miss (s : State) (f : Func) (x n : Nat) (ecc : Bool) :
    s.winPart f none x n none ecc = (s.bump Reg.WT_MISS).put [.barReply f 1 []] := rfl

theorem winPart_readDram {s : State} {f : Func} {w x n : Nat} (readable : s.flag (Reg.WT_E_CTRL w) 2 = true)
    (dram : winArea (Win.tgt s w + (x - Win.base s w)) n = 1) : s.winPart f (some w) x n none false =
      s.put [.barReply f 0 (s.memN (Win.tgt s w + (x - Win.base s w)) n)] := by
  simp [State.winPart, State.internal, readable, dram]

theorem winPart_writeDram {s : State} {f : Func} {w x n : Nat} (writable : s.flag (Reg.WT_E_CTRL w) 3 = true)
    (service : s.mode = 3) (dram : winArea (Win.tgt s w + (x - Win.base s w)) n = 1) (d : List Byte) :
    s.winPart f (some w) x n (some d) false = s.memPut (Win.tgt s w + (x - Win.base s w)) (d.take n) := by
  simp [State.winPart, writable, service, dram]

/-- Settles O16: a dropped access counts, and a hit writes or reads the bytes at the translated address. -/
theorem barAccess : Obligations.BarAccess := by
  refine ⟨⟨fun f off len wr s invalid served => ?_, fun off len s invalid frozen => ?_⟩,
    fun f off len ecc s served some_ miss => ?_, fun f off len w s served some_ found inside readable dram => ?_,
    fun f off w d s served some_ found inside writable service dram => ?_⟩
  · refine ⟨_, exec_bar0InvalidAccess_counted invalid served, ?_⟩
    cases wr
    all_goals exact ⟨s.reg_bump_same Reg.HP_BADACC, rfl, rfl⟩
  · exact ⟨s.bump Reg.HP_DROP_FRZ, exec_bar0InvalidAccess_frozen invalid frozen, s.reg_bump_same _, rfl⟩
  · have run : s.winRun f off len none ecc 64 = (s.bump Reg.WT_MISS).put [.barReply f 1 []] :=
      (winRun_onePart miss some_ (fun _ e => nomatch e) none ecc 63).trans (winPart_miss s f off len ecc)
    exact ⟨_, (exec_bar2Access_run served off len none ecc).trans (congrArg Host.Outcome.next run),
      s.reg_bump_same Reg.WT_MISS, rfl, rfl⟩
  · rw [exec_bar2Access_run served]
    dsimp only
    rw [winRun_onePart found some_ (fun i e => Option.some.inj e ▸ inside), winPart_readDram readable dram]
    rfl
  · rw [exec_bar2Access_run served]
    dsimp only
    rw [winRun_onePart found some_ (fun i e => Option.some.inj e ▸ inside), winPart_writeDram writable service dram,
      List.take_length]

/-! ### Freeze (R298, R300) and LTR (R308) -/

theorem frzDrain_frame (s : State) : s.frzDrain = { s with regs := s.frzDrain.regs } ∧
    s.frzDrain.frozen = s.frozen ∧ s.frzDrain.fld Reg.HP_FREEZE 3 0 = s.fld Reg.HP_FREEZE 3 0 := by
  unfold State.frzDrain
  split
  · exact ⟨rfl, State.flag_setFlag_ne _ _ _ _ _ _ (by decide), State.fld_setFlag_disj _ _ _ _ _ _ (by decide) (by decide)⟩
  · exact ⟨rfl, rfl, rfl⟩

/-- A cause of Freeze shows in HP_FREEZE, and PF0 is frozen. -/
theorem freeze_shows {s : State} (thawed : s.frozen = false) (cause : Nat) (f : Func) :
    (s.freeze cause f).frozen = true ∧ (s.freeze cause f).fld Reg.HP_FREEZE 3 0 = cause % 16 := by
  unfold State.freeze
  rw [if_neg (nf' thawed)]
  dsimp only
  generalize (s.hostStop .pf0 4 false).hostStop .pf1 4 false = u
  obtain ⟨-, frozen, code⟩ := frzDrain_frame (((u.setFld Reg.HP_FREEZE 3 0 cause).setFlag Reg.HP_FREEZE 8
    (decide (cause ≤ 3) && !isPf0 f)).setFlag Reg.HP_STATUS 2 true)
  rw [frozen, code]
  refine ⟨State.flag_setFlag_same _ _ _ _ (by decide), ?_⟩
  rw [State.fld_setFlag_ne _ _ _ _ _ _ _ (by decide), State.fld_setFlag_disj _ _ _ _ _ _ (by decide) (by decide),
    State.fld_setFld_same _ _ _ _ _ (by decide) (by decide)]
  rfl

/-- `t` comes from `s` by messages to the host and completion counts: registers and quarantine are those of `s`. -/
structure SendsOnly (s t : State) : Prop where
  regs : t.regs = s.regs
  quar : t.hp.quar = s.hp.quar

theorem SendsOnly.refl (s : State) : SendsOnly s s := ⟨rfl, rfl⟩

theorem SendsOnly.trans {a b c : State} (h : SendsOnly a b) (k : SendsOnly b c) : SendsOnly a c :=
  ⟨k.regs.trans h.regs, k.quar.trans h.quar⟩

theorem SendsOnly.foldl {α : Type} {g : State → α → State} (one : ∀ t x, SendsOnly t (g t x)) (l : List α) (s : State) :
    SendsOnly s (l.foldl g s) := by
  induction l generalizing s with
  | nil => exact .refl s
  | cons x t ih => exact (one s x).trans (ih (g s x))

theorem unmaskSend_sendsOnly (s : State) (f : Func) (v : Nat) : SendsOnly s (s.unmaskSend f v) := by
  unfold State.unmaskSend
  dsimp only
  split <;> exact ⟨rfl, rfl⟩

theorem msixPump_sendsOnly (s : State) (f : Func) : SendsOnly s (s.msixPump f) :=
  SendsOnly.foldl (fun t v => unmaskSend_sendsOnly t f v) _ s

theorem sendMsix_sendsOnly (s : State) (f : Func) (v : Nat) : SendsOnly s (s.sendMsix f v) := by
  unfold State.sendMsix
  dsimp only
  repeat' split
  all_goals exact ⟨rfl, rfl⟩

theorem signal_sendsOnly (s : State) (f : Func) (c : Nat) : SendsOnly s (s.signal f c) :=
  (sendMsix_sendsOnly s f _).trans ⟨rfl, rfl⟩

theorem reSignal_sendsOnly (s : State) (f : Func) : SendsOnly s (s.reSignal f) := by
  unfold State.reSignal
  split
  · exact .refl s
  · exact SendsOnly.foldl (fun t e => signal_sendsOnly t f _) _ s

/-- The state in which Freeze has been released, before the messages held meanwhile go out. -/
def thawed (s : State) : State := (State.setReg { s with hp.quar := [] } Reg.HP_FREEZE 0).setFlag Reg.HP_STATUS 2 false

theorem freezeEnd_drained {s : State} (frozen : s.frozen = true) (drained : s.flag Reg.HP_FREEZE 4 = true) :
    SendsOnly (thawed s) s.freezeEnd := by
  unfold State.freezeEnd
  rw [if_pos ⟨frozen, drained⟩]
  exact (((msixPump_sendsOnly _ _).trans (msixPump_sendsOnly _ _)).trans (reSignal_sendsOnly _ _)).trans (reSignal_sendsOnly _ _)

theorem ltrSend_sends {s : State} {us : Nat} (enabled : bit (s.cfgW .pf0 0x88) 10 = true) (up : s.flag Reg.HP_STATUS 0 = true)
    (awake : s.dstate .pf0 = 0) (other : s.hp.ltrLast ≠ some us) :
    s.ltrSend us = State.put { s with hp.ltrLast := some us } [.ltr us] := if_pos ⟨enabled, up, awake, other⟩

theorem exec_ltrIdleTimer_due {s : State} {t : Nat} (idle : s.hp.ltrIdle = some t) (come : s.due t 1000 = true)
    (none_ : s.cmds.any (fun c => isPf0 c.f) = false) :
    exec .ltrIdleTimer s = .next (s.ltrSend (s.fld Reg.HP_LTR 25 16)) := by
  show (Host.Outcome.next (match s.hp.ltrIdle with | some t => _ | none => s) : Out) = _
  rw [idle]
  exact congrArg Host.Outcome.next (if_pos ⟨come, by rw [none_]; rfl⟩)

/-- Settles O17: the two triggers and the release by the fields of HP_FREEZE, the LTR message by its row. -/
theorem freezeAndLtr : Obligations.FreezeAndLtr := by
  refine ⟨⟨fun s warm => ⟨s.freeze 4 .pf0, rfl, freeze_shows warm 4 .pf0⟩, fun s warm => ⟨s.freeze 5 .pf0, rfl,
    freeze_shows warm 5 .pf0⟩, fun s frozen drained => ?_, fun s busy => ?_⟩,
    fun s t idle come none_ enabled up awake other => ?_⟩
  · obtain ⟨regs, quar⟩ := freezeEnd_drained frozen drained
    refine ⟨s.freezeEnd, rfl, (State.flag_congr regs _ _).trans ?_, quar, (State.reg_congr regs _).trans ?_⟩
    · exact State.flag_setFlag_same _ _ _ _ (by decide)
    · exact (State.reg_setFlag_ne _ _ _ _ _ (by decide)).trans (State.reg_setReg_same _ _ _)
  · exact congrArg Host.Outcome.next (if_neg fun h => nf' busy h.2)
  · exact ⟨_, (exec_ltrIdleTimer_due idle come none_).trans (congrArg Host.Outcome.next (ltrSend_sends enabled up awake other)),
      rfl, rfl, rfl⟩

end Sys2Proof.Proofs
end

section
/-! PROOF. The statements of the rings chapter: doorbells, inline push, ring states, reports, fetching and the ends of reads. -/

namespace Sys2Proof.Proofs

open Sys2Proof.Machine Sys2Proof.Safety

/-! ### Doorbells (R313 to R315) -/

/-- Is a tail doorbell's value a legal position within the ring's room? -/
def tailLegal (s : State) (f : Func) (q v : Nat) : Prop :=
  posValid (s.sqN f q) v = true ∧ posDiff (s.sqN f q) (s.sq f q).tail v ≤ s.sqN f q - s.sqOcc f q

theorem exec_sqTailDoorbell_served {f : Func} {s : State} (served : s.pf0Dropped f = false) (q : Nat) (v : W32) :
    exec (.sqTailDoorbell f q v) s = .next (s.tailDoorbell f q (v.toNat % 2 ^ 17)) :=
  congrArg Host.Outcome.next (if_neg (nf' served))

theorem exec_cqHeadDoorbell_served {f : Func} {s : State} (served : s.pf0Dropped f = false) (q : Nat) (v : W32) :
    exec (.cqHeadDoorbell f q v) s = .next (s.headDoorbell f q (v.toNat % 2 ^ 17)) :=
  congrArg Host.Outcome.next (if_neg (nf' served))

theorem pf0Dropped_frozen {s : State} (frozen : s.frozen = true) : s.pf0Dropped .pf0 = true := by
  rw [State.pf0Dropped, frozen]
  rfl

theorem tailDoorbell_legal {f : Func} {q v : Nat} {s : State} (running : (s.sq f q).state = 1) (legal : tailLegal s f q v) :
    s.tailDoorbell f q v = s.setSq f q { s.sq f q with tail := v } :=
  (if_neg (not_not_intro running)).trans (if_pos legal)

theorem tailDoorbell_illegal {f : Func} {q v : Nat} {s : State} (running : (s.sq f q).state = 1)
    (illegal : ¬ tailLegal s f q v) : s.tailDoorbell f q v = (s.bump (Reg.RG_BADDB (isPf0 f))).haltErr f q 1 :=
  (if_neg (not_not_intro running)).trans (if_neg illegal)

theorem haltErr_sq (s : State) (f : Func) (q err : Nat) :
    (s.haltErr f q err).sq f q = { s.sq f q with state := 5, err := err } := sq_setSq s f q _

theorem headDoorbell_legal {f : Func} {c v : Nat} {s : State} (enabled : (s.cq f c).state ≠ 0)
    (noWait : (s.cq f c).waitAt = none) (valid : posValid (s.cqN f c) v = true)
    (written : posDiff (s.cqN f c) (s.cq f c).head v ≤ posDiff (s.cqN f c) (s.cq f c).head (s.cq f c).tail) :
    s.headDoorbell f c v = s.setCq f c { s.cq f c with head := v } := by
  refine ((if_neg enabled).trans (if_pos ⟨valid, written⟩)).trans ?_
  unfold State.endWait
  rw [cq_setCq]
  dsimp only
  rw [noWait]

/-- Settles O18: a tail doorbell is legal by `tailLegal`, and each side of it has its own equation. -/
theorem doorbells : Obligations.Doorbells := by
  refine ⟨fun f q v s served running valid room => ?_, fun f q v s served running bad => ?_, fun q v s frozen => ?_,
    fun f q v s served enabled noWait valid written => ?_⟩
  · rw [exec_sqTailDoorbell_served served, tailDoorbell_legal running ⟨valid, room⟩]
  · have illegal : ¬ tailLegal s f q (v.toNat % 2 ^ 17) := by
      rintro ⟨valid, room⟩
      rcases bad with invalid | beyond
      · exact nf' invalid valid
      · omega
    refine ⟨_, (exec_sqTailDoorbell_served served q v).trans (congrArg _ (tailDoorbell_illegal running illegal)),
      haltErr_sq _ f q 1, s.reg_bump_same _⟩
  · have dropped := pf0Dropped_frozen frozen
    exact ⟨congrArg Host.Outcome.next (if_pos dropped), congrArg Host.Outcome.next (if_pos dropped)⟩
  · rw [exec_cqHeadDoorbell_served served, headDoorbell_legal enabled noWait valid written]

/-! ### Inline push (R321, R322, R326, R329) -/

theorem exec_inlineSlotWrite_ok {f : Func} {off : Nat} {d : List Byte} {s : State} (served : s.pf0Dropped f = false)
    (ok : inlineOk off d.length = true) (q : Nat) : exec (.inlineSlotWrite f q off d) s = .next (s.inlineWrite f q off d) :=
  congrArg Host.Outcome.next ((if_neg (nf' served)).trans (if_pos ok))

theorem exec_inlineSlotWrite_bad {f : Func} {off : Nat} {d : List Byte} {s : State} (served : s.pf0Dropped f = false)
    (bad : inlineOk off d.length = false) (q : Nat) : exec (.inlineSlotWrite f q off d) s = .next (s.bump Reg.HP_BADACC) :=
  congrArg Host.Outcome.next ((if_neg (nf' served)).trans (if_neg (nf' bad)))

/-- A write of a whole slot is committed at once. -/
theorem inlineWrite_whole {f : Func} {q : Nat} {d : List Byte} {s : State} (whole : d.length = 64)
    (running : (s.sq f q).state = 1) (inline_ : s.sqInline f q = true) : s.inlineWrite f q 0 d =
      (s.setSq f q { s.sq f q with asm := none }).inlineCommit f q (d.map some) := by
  unfold State.inlineWrite
  dsimp only
  rw [if_neg (by rw [running, inline_]; decide), if_pos rfl]
  dsimp only
  rw [asm64 d whole, if_pos ⟨by decide, by omega⟩]

/-- The state in which an entry of 64 bytes has been pushed at the tail of a ring whose record was `r`. -/
def pushed (s : State) (f : Func) (q : Nat) (r : Sq) (d : List Byte) : State :=
  { s.setSq f q { r with tail := posAdd (s.sqN f q) r.tail 1 } with rg.inl := s.rg.inl ++ [⟨f, q, r.tail, d, s.now⟩] }

/-- An entry without a gap enters the Basket when ring and Basket have room. -/
theorem inlineCommit_room {f : Func} {q : Nat} {s : State} (room : s.sqOcc f q < s.sqN f q)
    (basket : s.rg.inl.length < 128) (d : List Byte) :
    s.inlineCommit f q (d.map some) = pushed s f q (s.sq f q) d := by
  have noGap : (d.map some).any Option.isNone = false := by simp
  have bytes : (d.map some).map (·.getD 0) = d := by simp [Function.comp_def]
  unfold State.inlineCommit
  dsimp only
  rw [if_neg (by omega), noGap, if_neg (by decide), if_neg (by exact Nat.not_le.mpr basket), bytes]
  rfl

theorem sqOcc_setSq_asm (s : State) (f : Func) (q : Nat) :
    (s.setSq f q { s.sq f q with asm := none }).sqOcc f q = s.sqOcc f q := by
  unfold State.sqOcc
  rw [sq_setSq]
  rfl

theorem exec_inlineStaleTimeout_stale {i : InlItem} {s : State} (stale : s.rg.inl.find? (fun i => s.due i.at_ s.inlStaleUs) = some i) :
    exec .inlineStaleTimeout s = .next (({ s with rg.inl := s.rg.inl.erase i } : State).bump Reg.BK_INL_STALES) := by
  show (Host.Outcome.next (match s.rg.inl.find? (fun i => s.due i.at_ s.inlStaleUs) with | some i => _ | none => s) : Out) = _
  rw [stale]

/-- Settles O19: a whole slot is committed at once (`inlineWrite_whole`), where ring and Basket have room. -/
theorem inlinePush : Obligations.InlinePush := by
  refine ⟨fun f q d s served whole running inline_ room basket => ?_, fun f q off d s served bad =>
    exec_inlineSlotWrite_bad served bad q, fun f q s served => ?_, fun i s stale => exec_inlineStaleTimeout_stale stale⟩
  · have ok : inlineOk 0 d.length = true := by rw [whole]; decide
    refine ⟨pushed (s.setSq f q { s.sq f q with asm := none }) f q { s.sq f q with asm := none } d, ?_, rfl, sq_setSq _ f q _, rfl⟩
    rw [exec_inlineSlotWrite_ok served ok, inlineWrite_whole whole running inline_]
    have room' : (s.setSq f q { s.sq f q with asm := none }).sqOcc f q <
        (s.setSq f q { s.sq f q with asm := none }).sqN f q := by rw [sqOcc_setSq_asm]; exact room
    rw [inlineCommit_room room' basket, sq_setSq]
  · exact ⟨s.inlFlush f q, congrArg Host.Outcome.next (if_neg (nf' served)), rfl, sq_setSq s f q _, rfl⟩

/-! ### Ring states (R312, R323, R324) -/

theorem sqEnable_refused {f : Func} {q : Nat} {s : State} (served : s.pf0Dropped f = false) (off : (s.sq f q).state = 0)
    (refused : s.hrAddr f q = 0 ∨ (s.cq f (s.sqCq f q)).state ≠ 1) :
    s.sqEnable f q = s.setFlag (Reg.RG_STATUS (isPf0 f)) 0 true :=
  (if_neg (nf' served)).trans ((if_neg (not_not_intro off)).trans (if_pos refused))

theorem sqEnable_runs {f : Func} {q : Nat} {s : State} (served : s.pf0Dropped f = false) (off : (s.sq f q).state = 0)
    (report : s.hrAddr f q ≠ 0) (cq : (s.cq f (s.sqCq f q)).state = 1) : s.sqEnable f q =
      (s.setFlag (Reg.RG_SQ_CTRL (isPf0 f) q) 0 true).setSq f q
        { s.sq f q with state := 1, err := 0, tail := (s.sq f q).head, asm := none, headAt := none, ownAt := none } :=
  (if_neg (nf' served)).trans ((if_neg (not_not_intro off)).trans (if_neg (not_or_intro report (not_not_intro cq))))

theorem sqDisable_drains {f : Func} {q : Nat} {s : State} (served : s.pf0Dropped f = false) (on : (s.sq f q).state ≠ 0) :
    s.sqDisable f q = ((s.setFlag (Reg.RG_SQ_CTRL (isPf0 f) q) 0 false).fetchGone f q).setSq f q
      { s.sq f q with state := 2, asm := none } :=
  (if_neg (nf' served)).trans (if_neg on)

theorem cqEnable_runs {f : Func} {q : Nat} {s : State} (served : s.pf0Dropped f = false) (off : (s.cq f q).state = 0) :
    s.cqEnable f q = (s.setFlag (Reg.RG_CQ_CTRL (isPf0 f) q) 0 true).setCq f q
      { s.cq f q with state := 1, head := 0, tail := 0, unsig := 0, waitAt := none, stalled := false, pollAt := none } :=
  (if_neg (nf' served)).trans (if_neg (not_not_intro off))

theorem reportHead_issuing {f : Func} {s : State} (may : s.canIssue f = true) (q : Nat) : s.reportHead f q =
    (s.put [.memWrite f (s.hrAddr f q) (toLe 8 (s.sq f q).head)]).setSq f q
      { s.sq f q with pub := (s.sq f q).head, headAt := none } := by
  unfold State.reportHead State.hostWrite
  rw [if_pos may, if_pos may]

theorem reportHead_silent {f : Func} {s : State} (may : s.canIssue f = false) (q : Nat) : s.reportHead f q = s :=
  if_neg (nf' may)

/-- A head report changes output and the ring's record alone. -/
theorem reportHead_frame (s : State) (f : Func) (q : Nat) : s.reportHead f q =
    { s with out := (s.reportHead f q).out, rg.sq := (s.reportHead f q).rg.sq } := by
  cases may : s.canIssue f with
  | true => rw [reportHead_issuing may]; rfl
  | false => rw [reportHead_silent may]

theorem exec_ringDrainDone_drained {f : Func} {q : Nat} {s : State} (draining : (s.sq f q).state = 2)
    (none_ : s.inFlight f q = false) : exec (.ringDrainDone f q) s = .next ((s.reportHead f q).updSq f q fun r =>
      { r with state := 0, err := 0, headAt := none, ownAt := none }) :=
  congrArg Host.Outcome.next (if_pos ⟨draining, none_⟩)

/-- Discarded completions leave commands, memory and submission rings alone. -/
theorem discardComps_parts (s : State) (p : Func → Nat → Bool) : (s.discardComps p).2.cmds = s.cmds ∧
    (s.discardComps p).2.mem = s.mem ∧ (s.discardComps p).2.rg.sq = s.rg.sq := by
  unfold State.discardComps State.markPool
  dsimp only
  repeat' split
  all_goals exact ⟨rfl, rfl, rfl⟩

/-- The state in which a completion ring no submission ring uses has been disabled. -/
def cqOff (s : State) (f : Func) (q : Nat) : State :=
  let p := s.discardComps fun g c => g == f && c == q
  ((p.2.bumpN (Reg.RG_CQ_DISCARD (isPf0 f)) p.1).setFlag (Reg.RG_CQ_CTRL (isPf0 f) q) 0 false).updCq f q
    fun r => { r with state := 0, unsig := 0, waitAt := none, stalled := false, pollAt := none }

theorem cqDisable_unused {f : Func} {q : Nat} {s : State} (served : s.pf0Dropped f = false) (on : (s.cq f q).state ≠ 0)
    (unused : s.rg.sq.any (fun e => keyFunc e.1 == f && e.2.state != 0 && s.sqCq f (e.1 % 256) == q) = false) :
    s.cqDisable f q = cqOff s f q :=
  (if_neg (nf' served)).trans ((if_neg on).trans (if_neg (nf' unused)))

theorem cqDisable_used {f : Func} {q : Nat} {s : State} (served : s.pf0Dropped f = false) (on : (s.cq f q).state ≠ 0)
    (used : s.rg.sq.any (fun e => keyFunc e.1 == f && e.2.state != 0 && s.sqCq f (e.1 % 256) == q) = true) :
    s.cqDisable f q = s.setFlag (Reg.RG_STATUS (isPf0 f)) 0 true :=
  (if_neg (nf' served)).trans ((if_neg on).trans (if_pos used))

/-- Settles O20: one equation per change of a ring state, over the record that `setSq` or `setCq` puts. -/
theorem ringStates : Obligations.RingStates := by
  refine ⟨fun f q s served off report cq => ?_, fun f q s served off refused =>
    congrArg Host.Outcome.next (sqEnable_refused served off refused), fun f q s served on => ?_,
    fun f q s draining none_ => ?_, fun f q s served off => ?_, fun f q s served on used =>
    congrArg Host.Outcome.next (cqDisable_used served on used), fun f q s served on unused => ?_⟩
  · exact ⟨_, congrArg Host.Outcome.next (sqEnable_runs served off report cq), sq_setSq _ f q _,
      State.flag_setFlag_same _ _ _ _ (by decide), rfl⟩
  · exact ⟨_, congrArg Host.Outcome.next (sqDisable_drains served on), sq_setSq _ f q _,
      State.flag_setFlag_same s _ _ _ (by decide), rfl⟩
  · have reported := reportHead_frame s f q
    refine ⟨_, exec_ringDrainDone_drained draining none_, ?_⟩
    unfold State.updSq
    rw [sq_setSq]
    refine ⟨rfl, rfl, fun may => ?_, ?_⟩
    · rw [reportHead_issuing may]
      dsimp only
      rw [sq_setSq]
    · rw [reported]
      exact ⟨rfl, rfl, rfl⟩
  · exact ⟨_, congrArg Host.Outcome.next (cqEnable_runs served off), cq_setCq _ f q _,
      State.flag_setFlag_same _ _ _ _ (by decide), rfl⟩
  · refine ⟨cqOff s f q, congrArg Host.Outcome.next (cqDisable_unused served on unused), ?_,
      State.flag_setFlag_same _ _ _ _ (by decide), ?_⟩
    · unfold cqOff State.updCq
      dsimp only
      rw [cq_setCq]
    · have parts := discardComps_parts s fun g c => g == f && c == q
      unfold cqOff
      generalize (s.discardComps fun g c => g == f && c == q) = p at parts ⊢
      exact parts

/-! ### Head reports and MSI-X (R295, R320, R335, R336) -/

theorem exec_headReportTimer_due {f : Func} {q t : Nat} {s : State} (beyond : (s.sq f q).headAt = some t)
    (come : s.due t 2 = true) : exec (.headReportTimer f q) s = .next (s.reportHead f q) := by
  show (Host.Outcome.next (match (s.sq f q).headAt with | some t => _ | none => s) : Out) = _
  rw [beyond]
  exact congrArg Host.Outcome.next (if_pos come)

theorem msixEnt_setMsix (s : State) (f : Func) (v : Nat) (m : Msix) : (s.setMsix f v m).msixEnt f v = m :=
  mapGetD_mapSet_same _ _ _ _

/-- A pending vector that is no longer masked sends its message. -/
theorem unmaskSend_pending {f : Func} {v : Nat} {s : State} {m : Msix} (entry : s.msixEnt f v = m) (pend : m.pend = true)
    (unmasked : m.mask = false) (enabled : s.msixEn f = true) (open_ : s.msixFmask f = false) (may : s.canIssue f = true) :
    s.unmaskSend f v = (s.setMsix f v { m with pend := false }).put [.msix f v m.addr m.data] := by
  simp [State.unmaskSend, entry, pend, unmasked, enabled, open_, may]

/-- A message, sent, held or made pending, changes output and the MSI-X table alone. -/
theorem sendMsix_frame (s : State) (f : Func) (v : Nat) : (∃ o, (s.sendMsix f v).out = s.out ++ o) ∧
    s.sendMsix f v = { s with out := (s.sendMsix f v).out, hp.msix := (s.sendMsix f v).hp.msix } := by
  unfold State.sendMsix
  dsimp only
  split
  · exact ⟨⟨[], (List.append_nil _).symm⟩, rfl⟩
  · split
    · exact ⟨⟨[], (List.append_nil _).symm⟩, rfl⟩
    · exact ⟨⟨_, rfl⟩, rfl⟩

theorem sendMsix_rg (s : State) (f : Func) (v : Nat) : (s.sendMsix f v).rg = s.rg := by
  rw [(sendMsix_frame s f v).2]

/-- A signal sends the ring's message and changes of the rings only its count of completions not signalled. -/
theorem signal_cq (s : State) (f : Func) (c : Nat) : (s.signal f c).cq f c = { s.cq f c with unsig := 0 } := by
  unfold State.signal State.updCq
  rw [cq_setCq, cq_congr (congrArg Rings.cq (sendMsix_rg s f _))]

theorem signal_out (s : State) (f : Func) (c : Nat) : ∃ o, (s.signal f c).out = s.out ++ o :=
  (sendMsix_frame s f (s.cqVector f c)).1

theorem signal_notices (s : State) (f : Func) (c : Nat) : (s.signal f c).rg.notices = s.rg.notices := by
  have sent := congrArg Rings.notices (sendMsix_rg s f (s.cqVector f c))
  exact sent

theorem exec_coalesceTimeout_due {f : Func} {q : Nat} {s : State} (running : (s.cq f q).state = 1)
    (some_ : 0 < (s.cq f q).unsig) (enabled : s.cqIen f q = true)
    (come : s.due (s.cq f q).unsigAt (max 1 (s.fld (Reg.RG_CQ_COAL (isPf0 f) q) 23 8)) = true) :
    exec (.coalesceTimeout f q) s = .next (s.signal f q) :=
  congrArg Host.Outcome.next (if_pos ⟨running, some_, enabled, come⟩)

/-! ### The Collector (R327, R331 to R334) -/

/-- The state in which the arbiter has granted the deposit of a rank. -/
def granted (s : State) (r : Nat) (d : Deposit) : State := { s with
  rg.units := mapUpd s.rg.units r [] fun l => l.erase d
  rg.col := s.rg.col ++ [⟨r, d, s.now, false, !d.isNote, !d.isNote⟩]
  rg.sweep := (r + 1) % 32 }

/-- Waking the host touches no ring, no command and no memory. -/
theorem pmeSet_frame (s : State) (sev : Nat) : (s.pmeSet sev).rg = s.rg ∧ (s.pmeSet sev).cmds = s.cmds ∧
    (s.pmeSet sev).mem = s.mem := by
  unfold State.pmeSet
  dsimp only
  split
  · split <;> exact ⟨rfl, rfl, rfl⟩
  · exact ⟨rfl, rfl, rfl⟩

theorem grantDeposit_parts {r : Nat} {d : Deposit} {s : State}
    (found : (s.sweepOrder.find? fun r => (s.presented r).isSome) = some r) (presented : s.presented r = some d) :
    s.grantDeposit.rg = (granted s r d).rg ∧ s.grantDeposit.cmds = s.cmds ∧ s.grantDeposit.mem = s.mem := by
  unfold State.grantDeposit
  simp only [found, presented]
  cases d with
  | note n => exact pmeSet_frame (granted s r (.note n)) n.sev
  | comp c => exact ⟨rfl, rfl, rfl⟩

theorem exec_completionDrain_chosen {f : Func} {c : Nat} {s : State} (chosen : s.drainChoice = some (f, c)) :
    exec .completionDrain s = .next (s.drainRing f c) := by
  show (Host.Outcome.next (match s.drainChoice with | some (f, c) => _ | none => s) : Out) = _
  rw [chosen]

/-- The state in which a completion ring's stall has been reported. -/
def stallReported (s : State) (k : Nat) : State :=
  ((s.updCq (keyFunc k) (k % 256) fun r => { r with stalled := true, stalls := sat32 (r.stalls + 1) }).note
    Rank.ringEngine 0x02 Sev.notice (k % 256)).bump Reg.BK_COL_STALLS

theorem exec_stallNoticeTimeout_ring {e : Nat × Cq} {s : State} (stalled : s.rg.cq.find? s.stallDue = some e) :
    exec .stallNoticeTimeout s = .next (stallReported s e.1) := by
  show (Host.Outcome.next (match s.rg.cq.find? s.stallDue with | some e => _ | none => _) : Out) = _
  rw [stalled]
  rfl

theorem stallReported_cq (s : State) (k : Nat) : ((stallReported s k).cq (keyFunc k) (k % 256)).stalled = true := by
  have same : (stallReported s k).cq (keyFunc k) (k % 256) =
      { s.cq (keyFunc k) (k % 256) with stalled := true, stalls := sat32 ((s.cq (keyFunc k) (k % 256)).stalls + 1) } :=
    cq_setCq s _ _ _
  rw [same]

/-! ### Notices (R349) -/

/-- The state in which the front notice has been drained and counted. -/
def noticeTaken (s : State) : State := { s with
  rg.col := releaseItem (fun i => i.dep.isNote && !i.drained) (fun i => { i with drained := true }) s.rg.col
  rg.notices := s.rg.notices + 1 }

theorem exec_noticeDrain_released {n : Note} {s : State} (next : s.nextNotice = some n) (unrouted : s.noteRouted n = false) :
    exec .noticeDrain s = .next (noticeTaken s) := by
  show (Host.Outcome.next (match s.nextNotice with | none => s | some n => _) : Out) = _
  rw [next]
  exact congrArg Host.Outcome.next (if_neg (nf' unrouted))

theorem exec_noticeDrain_routed {n : Note} {s : State} (next : s.nextNotice = some n) (routed : s.noteRouted n = true)
    (room : 0 < s.cqRoom .pf1 s.rg.routeRing) (may : s.canIssue .pf1 = true) : exec .noticeDrain s =
      .next ((noticeTaken s).writeCq .pf1 s.rg.routeRing (noteComp n s.rg.routeRing (s.rg.notices + 1))) := by
  show (Host.Outcome.next (match s.nextNotice with | none => s | some n => _) : Out) = _
  rw [next]
  refine congrArg Host.Outcome.next ((if_pos routed).trans (if_neg ?_))
  exact not_or_intro (Nat.ne_of_gt room) (by rw [may]; decide)

/-- The 16 bytes of a completion entry at the tail of a ring, as the host sees them. -/
def entryBytes (s : State) (f : Func) (q : Nat) (c : Comp) : List Byte :=
  compBytes c (if ownMode (s.cqN f q) then 1 else 1 - posLap (s.cq f q).tail)

/-- The state in which an entry has been written at the tail of a completion ring, before any signal. -/
def entryWritten (s : State) (f : Func) (q : Nat) (c : Comp) : State :=
  (s.hostWrite f (s.cqBase f q + 16 * posIdx (s.cq f q).tail) (entryBytes s f q c)).setCq f q
    { s.cq f q with tail := posAdd (s.cqN f q) (s.cq f q).tail 1, count := ((s.cq f q).count + 1) % 2 ^ 32
                    unsig := (s.cq f q).unsig + 1
                    unsigAt := if (s.cq f q).unsig = 0 then (s.hostWrite f (s.cqBase f q + 16 * posIdx (s.cq f q).tail)
                      (entryBytes s f q c)).now else (s.cq f q).unsigAt }

theorem writeCq_cases (s : State) (f : Func) (q : Nat) (c : Comp) :
    s.writeCq f q c = entryWritten s f q c ∨ s.writeCq f q c = (entryWritten s f q c).signal f q :=
  (ite_eq_or_eq _ _ _).symm

/-- A written entry is the first of the output, the tail moves by one, and notices are not counted. -/
theorem writeCq_effect {f : Func} {q : Nat} {s : State} (may : s.canIssue f = true) (c : Comp) :
    ((s.writeCq f q c).cq f q).tail = posAdd (s.cqN f q) (s.cq f q).tail 1 ∧
    (s.writeCq f q c).rg.notices = s.rg.notices ∧
    ∃ o, (s.writeCq f q c).out =
      s.out ++ .memWrite f (s.cqBase f q + 16 * posIdx (s.cq f q).tail) (entryBytes s f q c) :: o := by
  have tail : ((entryWritten s f q c).cq f q).tail = posAdd (s.cqN f q) (s.cq f q).tail 1 := by
    rw [entryWritten, cq_setCq]
  have write : s.hostWrite f (s.cqBase f q + 16 * posIdx (s.cq f q).tail) (entryBytes s f q c) =
      s.put [.memWrite f (s.cqBase f q + 16 * posIdx (s.cq f q).tail) (entryBytes s f q c)] := if_pos may
  have notices : (entryWritten s f q c).rg.notices = s.rg.notices := by rw [entryWritten, write]; rfl
  have out : (entryWritten s f q c).out =
      s.out ++ [.memWrite f (s.cqBase f q + 16 * posIdx (s.cq f q).tail) (entryBytes s f q c)] := by
    rw [entryWritten, write]; rfl
  rcases writeCq_cases s f q c with quiet | signalled
  · rw [quiet]
    exact ⟨tail, notices, [], out⟩
  · obtain ⟨o, more⟩ := signal_out (entryWritten s f q c) f q
    rw [signalled, signal_cq, signal_notices, more, out]
    exact ⟨tail, notices, o, by rw [List.append_assoc]; rfl⟩

/-- Settles O21: each report has the state it leaves, and a completion written is `writeCq_effect`. -/
theorem ringReports : Obligations.RingReports := by
  refine ⟨⟨fun f q t s beyond come may => ?_, fun f v s pend enabled open_ may => ?_, fun f q s running some_ enabled come =>
      ⟨exec_coalesceTimeout_due running some_ enabled come, signal_cq s f q⟩⟩,
    fun r d s found presented => ?_, fun f c s => exec_completionDrain_chosen, fun s any_ => ?_, fun e s stalled => ?_,
    fun n s next unrouted => ?_, fun n s next routed room may => ?_⟩
  · rw [exec_headReportTimer_due beyond come, reportHead_issuing may]
    exact ⟨_, rfl, sq_setSq _ f q _, rfl, rfl⟩
  · refine ⟨_, congrArg Host.Outcome.next (unmaskSend_pending (msixEnt_setMsix s f v { s.msixEnt f v with mask := false })
      pend rfl enabled open_ may), msixEnt_setMsix _ f v _, rfl, rfl⟩
  · obtain ⟨rg, cmds, mem⟩ := grantDeposit_parts found presented
    refine ⟨s.grantDeposit, rfl, ?_, ?_, ?_, cmds, mem⟩
    all_goals rw [rg]; rfl
  · exact ⟨_, congrArg Host.Outcome.next (if_pos any_), rfl, s.reg_bump_same Reg.BK_COL_PROMOTED, rfl⟩
  · exact ⟨stallReported s e.1, exec_stallNoticeTimeout_ring stalled, stallReported_cq s e.1, s.reg_bump_same _, rfl, rfl⟩
  · exact ⟨noticeTaken s, exec_noticeDrain_released next unrouted, rfl, rfl, rfl⟩
  · obtain ⟨tail, notices, out⟩ := writeCq_effect (s := noticeTaken s) may
      (q := s.rg.routeRing) (noteComp n s.rg.routeRing (s.rg.notices + 1))
    exact ⟨_, exec_noticeDrain_routed next routed room may, notices, tail, out⟩

/-! ### Reads from the host (R293, R294) -/

/-- A free tag lets a read go at once. -/
theorem tryRead_goes {s : State} {f : Func} {t : Nat} (may : s.canIssue f = true) (tag : s.readTag f = some t)
    (addr len : Nat) (purp : RdPurpose) : s.tryRead ⟨f, addr, len, purp⟩ = { s with
      hp.reads := s.hp.reads ++ [⟨t, ⟨f, addr, len, purp⟩, s.now, ctoUs (bits (s.cfgW f 0x88) 3 0), false, false⟩]
      out := s.out ++ [.memRead f t addr len] } := by
  unfold State.tryRead
  dsimp only
  rw [may, tag]
  rfl

@[simp] theorem markPool_out (s : State) : s.markPool.out = s.out := by
  unfold State.markPool
  repeat' split
  all_goals rfl

/-! ### Grants (R317 to R319) -/

/-- A grant turns to a ring of PF0 or PF1 by its key; work of PF0 shows in LTR. -/
theorem fetchNext_picked {c k : Nat} {s t : State} (picked : s.inlSweep.grantPick = some (c, k, t)) :
    s.fetchNext = if k < 256 then ({ t with rg.rr := mapSet t.rg.rr c k } : State).ltrActive.grantRing .pf0 (k % 256)
      else ({ t with rg.rr := mapSet t.rg.rr c k } : State).grantRing .pf1 (k % 256) := by
  unfold State.fetchNext
  dsimp only
  rw [picked]
  dsimp only [keyFunc]
  split <;> rfl

/-- Where the Basket holds no next entry, one read fetches entries from the head of the ring on. -/
theorem grantRing_reads {f : Func} {q : Nat} {s : State}
    (noItem : inlRun (s.rg.inl.take 16) f q (s.sqN f q) (min (min 8 (s.creditRoom f q)) (s.sqOcc f q)) (s.sq f q).head = []) :
    s.grantRing f q = (s.tryRead ⟨f, s.sqBase f q + 64 * posIdx (s.sq f q).head,
      64 * min (min 8 (s.creditRoom f q)) (min (s.sqOcc f q) (s.sqN f q - posIdx (s.sq f q).head)),
      .fetch q (s.sq f q).head
        (min (min 8 (s.creditRoom f q)) (min (s.sqOcc f q) (s.sqN f q - posIdx (s.sq f q).head)))⟩).markPool := by
  unfold State.grantRing
  dsimp only
  rw [noItem]
  rfl

theorem exec_ownRereadTimeout_due {f : Func} {q t : Nat} {s : State} (unowned : (s.sq f q).ownAt = some t)
    (running : (s.sq f q).state = 1) (come : s.due t 1 = true) (credit : 0 < s.creditRoom f q) (may : s.canIssue f = true)
    (none_ : (s.liveReads.any fun x => x.f == f && x.purp.ring == some q) = false) :
    exec (.ownRereadTimeout f q) s = .next (s.tryRead
      ⟨f, s.sqBase f q + 64 * posIdx (s.sq f q).head, 64, .reread q (s.sq f q).head⟩).markPool := by
  show (Host.Outcome.next (match (s.sq f q).ownAt with | none => s | some t => _) : Out) = _
  rw [unowned]
  exact congrArg Host.Outcome.next (if_pos ⟨running, come, credit, may, by rw [none_]; rfl⟩)

/-- A ring in ownership mode without room that has not been polled is polled at once. -/
theorem exec_cqOwnPoll_first {f : Func} {q : Nat} {s : State} (own : ownMode (s.cqN f q) = true)
    (running : (s.cq f q).state = 1) (full : s.cqRoom f q = 0) (waits : s.cqWaiting f q = true) (may : s.canIssue f = true)
    (unpolled : (s.cq f q).pollAt = none) : exec (.cqOwnPoll f q) s =
      .next ((s.setCq f q { s.cq f q with pollAt := some s.now }).tryRead
        ⟨f, s.cqBase f q + 16 * (posIdx (s.cq f q).head / 4 * 4), 64, .cqLine q (s.cq f q).head⟩) := by
  refine congrArg Host.Outcome.next (if_pos ?_)
  simp [own, running, full, waits, may, unpolled]

/-- Settles O22: a read that may go is one request (`tryRead_goes`), for an entry or for a polled line. -/
theorem ringFetching : Obligations.RingFetching := by
  refine ⟨⟨fun c k s t picked => next_settle (fetchNext_picked picked),
    fun f q t s may tag noItem => ?_, fun f q t s => exec_ownRereadTimeout_due⟩,
    fun f q t s own running full waits may unpolled tag => ?_⟩
  · rw [grantRing_reads noItem, markPool_out, tryRead_goes may tag]
  · have polled := cq_setCq s f q { s.cq f q with pollAt := some s.now }
    refine ⟨_, exec_cqOwnPoll_first own running full waits may unpolled, ?_⟩
    rw [tryRead_goes (s := s.setCq f q { s.cq f q with pollAt := some s.now }) may tag]
    exact ⟨polled, rfl⟩

/-! ### The ends of reads (R298, R301) -/

theorem hostCompletion_ok {tag : Nat} {r : HostRead} {s : State}
    (found : s.hp.reads.find? (fun r => r.tag == tag) = some r) (live : r.stopped = false) (d : List Byte) :
    s.hostCompletion tag .ok d = State.pumpReads (State.markPool ((s.readDone r).readData r.req d)) := by
  unfold State.hostCompletion
  rw [found]
  exact if_neg (nf' live)

theorem hostCompletion_poison {tag : Nat} {r : HostRead} {s : State}
    (found : s.hp.reads.find? (fun r => r.tag == tag) = some r) (live : r.stopped = false) (d : List Byte) :
    s.hostCompletion tag .poison d =
      State.pumpReads (State.markPool (((s.readDone r).bump Reg.HP_POISON).readFailed r 3)) := by
  unfold State.hostCompletion
  rw [found]
  exact if_neg (nf' live)

theorem hostCompletion_late {tag : Nat} {s : State} (unknown : s.hp.reads.find? (fun r => r.tag == tag) = none)
    (quarantined : (s.hp.quar.any fun q => q.tag == tag) = true) (st : RdStatus) (d : List Byte) :
    s.hostCompletion tag st d = s.bump Reg.HP_LATE := by
  unfold State.hostCompletion
  rw [unknown]
  exact if_pos quarantined

/-- The state in which a read has run out of time: counted, forgotten, its tag quarantined. -/
def readQuarantined (s : State) (tag : Nat) (r : HostRead) : State :=
  { (s.bump Reg.HP_CTO).readDone r with hp.quar := ((s.bump Reg.HP_CTO).readDone r).hp.quar ++ [⟨tag, r.issued + 2 * r.timeout⟩] }

theorem hostTimeout_due {tag : Nat} {r : HostRead} {s : State} (found : s.hp.reads.find? (fun r => r.tag == tag) = some r)
    (come : s.due r.issued r.timeout = true) :
    s.hostTimeout tag = ((readQuarantined s tag r).readFailed r 1).markPool := by
  unfold State.hostTimeout
  rw [found]
  exact if_pos come

theorem frzDrain_cases (s : State) : s.frzDrain = s ∨ s.frzDrain = s.setFlag Reg.HP_FREEZE 4 true :=
  (ite_eq_or_eq _ _ _).symm

theorem readQuarantined_effect (s : State) (tag : Nat) (r : HostRead) :
    (∀ x ∈ (readQuarantined s tag r).hp.reads, x.tag ≠ r.tag) ∧
    (readQuarantined s tag r).hp.quar = s.hp.quar ++ [⟨tag, r.issued + 2 * r.timeout⟩] ∧
    (readQuarantined s tag r).reg Reg.HP_CTO = sat32 (s.reg Reg.HP_CTO + 1) := by
  have forgotten : ∀ x ∈ s.hp.reads.filter (fun x => x.tag != r.tag), x.tag ≠ r.tag := fun x hx => by
    simpa using (List.mem_filter.mp hx).2
  have counted := s.reg_bump_same Reg.HP_CTO
  unfold readQuarantined State.readDone
  rcases frzDrain_cases { s.bump Reg.HP_CTO with
    hp.reads := (s.bump Reg.HP_CTO).hp.reads.filter fun x => x.tag != r.tag } with same | drained
  · rw [same]
    exact ⟨forgotten, rfl, counted⟩
  · rw [drained]
    exact ⟨forgotten, rfl, (State.reg_setFlag_ne _ _ _ _ _ (by decide)).trans counted⟩

/-- Settles O23: one equation per end of a read, and `readQuarantined` for the read out of time. -/
theorem readEnds : Obligations.ReadEnds := by
  refine ⟨fun tag d r s found live => ?_, fun tag d r s found live => ?_, fun tag st d s unknown quarantined => ?_,
    fun cause r s enabled noFlr => if_pos ⟨enabled, noFlr⟩, fun tag r s found come => ?_,
    fun tag s free => congrArg Host.Outcome.next (if_pos free)⟩
  · exact next_settle (hostCompletion_ok found live d)
  · exact next_settle (hostCompletion_poison found live d)
  · exact next_settle (hostCompletion_late unknown quarantined st d)
  · exact ⟨readQuarantined s tag r, next_settle (hostTimeout_due found come),
      readQuarantined_effect s tag r⟩

end Sys2Proof.Proofs
end

section
/-! PROOF. The statements of the commands chapter: completion, data commands, admin commands, firmware and keys. -/

namespace Sys2Proof.Proofs

open Sys2Proof.Machine Sys2Proof.Safety

/-! ### The end of a command (R331, R339) -/

/-- What a command's end leaves before the host's idle time is marked: a quiet command gives its credit back, any other
deposits its completion. -/
def commandEnded (s : State) (rank : Nat) (c : Cmd) : State :=
  if c.quiet then s.dropCmd c
  else State.deposit { s.arrEnded c with cmds := s.cmds.filter fun d => d.h != c.h } rank (.comp (compOf c))

theorem finish_eq (s : State) (rank : Nat) (c : Cmd) : s.finish rank c = (commandEnded s rank c).markIdle := by
  unfold State.finish commandEnded
  dsimp only
  split <;> rfl

/-- The end of a command, quiet or not, removes it and touches no byte of DRAM, Keep, registers or output. -/
theorem finish_parts (s : State) (rank : Nat) (c : Cmd) : (s.finish rank c).cmds = s.cmds.filter (fun d => d.h != c.h) ∧
    (s.finish rank c).mem = s.mem ∧ (s.finish rank c).keep = s.keep ∧ (s.finish rank c).regs = s.regs ∧
    (s.finish rank c).out = s.out := by
  obtain ⟨-, mem, keep, regs, out⟩ := arrEnded_f s c
  obtain ⟨-, mem', keep', regs', out', cmds'⟩ := mark_f (commandEnded s rank c)
  rw [finish_eq, mem', keep', regs', out', cmds']
  unfold commandEnded
  split
  · exact ⟨rfl, mem, keep, regs, out⟩
  · exact ⟨rfl, mem, keep, regs, out⟩

/-- A completion always finds its place behind what its unit presents. -/
theorem units_deposit_comp (s : State) (rank : Nat) (c : Comp) :
    (s.deposit rank (.comp c)).rg.units = mapSet s.rg.units rank (mapGetD s.rg.units rank [] ++ [.comp c]) := rfl

theorem finish_units {c : Cmd} (loud : c.quiet = false) (s : State) (rank : Nat) :
    (s.finish rank c).rg.units = mapSet s.rg.units rank (mapGetD s.rg.units rank [] ++ [.comp (compOf c)]) := by
  obtain ⟨rg, -⟩ := mark_f (commandEnded s rank c)
  obtain ⟨same, -⟩ := arrEnded_f s c
  rw [finish_eq, rg, commandEnded, if_neg (nf' loud), units_deposit_comp]
  dsimp only
  rw [same]

/-- Settles O25: `finish` is a deposit and the removal of the command (`finish_units`, `finish_parts`). -/
theorem completion : Obligations.Completion := by
  intro rank c s loud
  rw [finish_units loud]
  exact ⟨mapGetD_mapSet_same _ _ _ _, fun r other => mapGetD_mapSet_ne _ _ _ _ _ other, finish_parts s rank c⟩

/-! ### Data commands (R341, R342) -/

/-- Settles O24: each row runs the ready command its handle names, which a failing check ends and its opcode carries out. -/
theorem dataCommands : Obligations.DataCommands := by
  refine ⟨fun i h o c s row ready fails => ?_, fun h o c s ready pass => ?_⟩
  · have ended := fun act => next_settle (pf0_no ready fails act)
    simp only [List.mem_cons, Prod.mk.injEq, List.not_mem_nil, or_false] at row
    rcases row with ⟨rfl, rfl⟩ | ⟨rfl, rfl⟩ | ⟨rfl, rfl⟩ | ⟨rfl, rfl⟩ | ⟨rfl, rfl⟩ | ⟨rfl, rfl⟩ | ⟨rfl, rfl⟩ | ⟨rfl, rfl⟩ |
      ⟨rfl, rfl⟩
    all_goals exact ended _
  · have run := fun act => next_settle (pf0_ok ready pass act)
    refine ⟨?_, ?_, ?_, ?_, ?_, ?_, ?_, ?_⟩
    · rintro rfl
      exact run _
    · intro i row
      simp only [List.mem_cons, Prod.mk.injEq, List.not_mem_nil, or_false] at row
      rcases row with ⟨rfl, rfl⟩ | ⟨rfl, rfl⟩ | ⟨rfl, rfl⟩
      all_goals exact run State.writeRun
    · rintro rfl
      exact run _
    · rintro rfl turn
      obtain ⟨named, -⟩ := ready
      show (Host.Outcome.next (match s.cmd? h with | some c => _ | none => s) : Out) = _
      rw [named]
      exact congrArg Host.Outcome.next ((if_pos turn).trans (Host.Outcome.next.inj (run State.append)))
    · rintro rfl
      exact run _
    · rintro rfl
      exact run State.trimRun
    · rintro rfl
      exact run _
    · rintro rfl
      exact run _

/-! ### Admin commands (R343, R344, R348) -/

/-- A command is no longer among those that wait for an event. -/
def longOver (s : State) (h : Nat) : State := { s with st.long := s.st.long.filter fun e => e.1 != h }

/-- An admin command with its status; RES0 comes with SUCCESS only (R348). -/
def answered (c : Cmd) (st res0 : Nat) : Cmd :=
  { c with status := st, res0 := if st = 0 then res0 else 0, res1 := 0, cflags := 0 }

theorem adminEnd_named {s : State} {h : Nat} {c : Cmd} (named : s.cmd? h = some c) (st res0 : Nat) :
    s.adminEnd h st res0 = (longOver s h).finish Rank.reeve (answered c st res0) := by
  have found : (longOver s h).cmd? h = some c := named
  show (match (longOver s h).cmd? h with | some c => _ | none => _) = _
  rw [found]
  rfl

theorem adminEnd_unnamed {s : State} {h : Nat} (unnamed : s.cmd? h = none) (st res0 : Nat) :
    s.adminEnd h st res0 = longOver s h := by
  have found : (longOver s h).cmd? h = none := unnamed
  show (match (longOver s h).cmd? h with | some c => _ | none => _) = _
  rw [found]
  rfl

/-- A finished admin command leaves every byte of DRAM, Keep and registers. -/
theorem adminEnd_parts (s : State) (h st res0 : Nat) : (s.adminEnd h st res0).mem = s.mem ∧
    (s.adminEnd h st res0).keep = s.keep ∧ (s.adminEnd h st res0).regs = s.regs := by
  cases named : s.cmd? h with
  | none =>
    rw [adminEnd_unnamed named]
    exact ⟨rfl, rfl, rfl⟩
  | some c =>
    rw [adminEnd_named named]
    obtain ⟨-, mem, keep, regs, -⟩ := finish_parts (longOver s h) Rank.reeve (answered c st res0)
    exact ⟨mem, keep, regs⟩

/-- A check that fails ends the command; data not yet at hand is read first. -/
theorem adminRun_unready {s : State} {h o : Nat} {c : Cmd} (ready : adminReady s h o c) (act : State → Cmd → State) :
    (s.check c ≠ St.success → s.adminRun h o act = s.adminEnd h (s.check c) 0) ∧
    (s.check c = St.success → c.dataIn = false → s.adminRun h o act = s.adminRead c) := by
  rw [ad_step ready act]
  exact ⟨fun fails => if_pos fails, fun pass missing => (if_neg (not_not_intro pass)).trans (if_neg (nf' missing))⟩

/-- Settles O28: every admin row runs the ready command its handle names. -/
theorem adminCommands : Obligations.AdminCommands := by
  refine ⟨fun h st res0 c s named same loud => ?_, fun i h o c s row ready => ?_⟩
  · refine ⟨?_, ?_, adminEnd_parts s h st res0⟩
    all_goals rw [adminEnd_named named]
    · rw [finish_units (c := answered c st res0) loud]
      exact mapGetD_mapSet_same _ _ _ _
    · rw [(finish_parts (longOver s h) Rank.reeve (answered c st res0)).1, show (answered c st res0).h = h from same]
      intro d hd
      simpa using (List.mem_filter.mp hd).2
  · have run : ∀ act, (s.check c ≠ St.success → (Host.Outcome.next (s.adminRun h o act).settle : Out) =
          .next (s.adminEnd h (s.check c) 0).settle) ∧
        (s.check c = St.success → c.dataIn = false → (Host.Outcome.next (s.adminRun h o act).settle : Out) =
          .next (s.adminRead c).settle) := fun act =>
      ⟨fun fails => next_settle ((adminRun_unready ready act).1 fails),
        fun pass missing => next_settle ((adminRun_unready ready act).2 pass missing)⟩
    simp only [List.mem_cons, Prod.mk.injEq, List.not_mem_nil, or_false] at row
    rcases row with ⟨rfl, rfl⟩ | ⟨rfl, rfl⟩ | ⟨rfl, rfl⟩ | ⟨rfl, rfl⟩ | ⟨rfl, rfl⟩ | ⟨rfl, rfl⟩ | ⟨rfl, rfl⟩ | ⟨rfl, rfl⟩ |
      ⟨rfl, rfl⟩ | ⟨rfl, rfl⟩ | ⟨rfl, rfl⟩ | ⟨rfl, rfl⟩ | ⟨rfl, rfl⟩ | ⟨rfl, rfl⟩ | ⟨rfl, rfl⟩ | ⟨rfl, rfl⟩ | ⟨rfl, rfl⟩ |
      ⟨rfl, rfl⟩ | ⟨rfl, rfl⟩ | ⟨rfl, rfl⟩ | ⟨rfl, rfl⟩ | ⟨rfl, rfl⟩ | ⟨rfl, rfl⟩
    all_goals exact run _

/-! ### Firmware and ALMANAC_CLEAR (R346, R360, R371) -/

theorem fwActivate_waits {c : Cmd} {s : State} (some_ : 1 ≤ Ent.p1 c.ent) (fits : Ent.p1 c.ent ≤ 1048576)
    (verified : Config.fwVerify (s.memN fwArea (Ent.p1 c.ent)) = true) :
    s.fwActivate c = s.setCmd { c with ph := .waiting, since := s.now } := if_pos ⟨some_, fits, verified⟩

theorem fwActivate_refused {c : Cmd} {s : State} (refused : Config.fwVerify (s.memN fwArea (Ent.p1 c.ent)) = false) :
    s.fwActivate c = s.adminEnd c.h St.imageInvalid 0 := if_neg fun h => nf' refused h.2.2

theorem fwGo_waiting {c : Cmd} {s : State}
    (waits : s.cmds.find? (fun c => !isPf0 c.f && Ent.opc c.ent == 0x93 && c.ph == .waiting) = some c) : s.fwGo =
      ((s.setReg Reg.RV_FW (Config.fwVersion (s.memN fwArea (Ent.p1 c.ent))).toNat).setFlag Reg.RV_FW_SRC 0 true).adminEnd c.h
        St.success (Config.fwVersion (s.memN fwArea (Ent.p1 c.ent))).toNat := by
  unfold State.fwGo
  rw [waits]

/-- Settles O32: the branches of activation and clear, and the restart by the frame of `adminEnd`. -/
theorem firmwareAndKeys : Obligations.FirmwareAndKeys := by
  refine ⟨⟨fun c s => fwActivate_refused, fun c s => fwActivate_waits, fun c s waits => ?_⟩, fun c s refused => if_neg (nf' refused),
    fun c s verified => if_pos verified⟩
  refine ⟨s.fwGo, rfl, ?_⟩
  rw [fwGo_waiting waits]
  generalize Config.fwVersion (s.memN fwArea (Ent.p1 c.ent)) = v
  obtain ⟨mem, keep, regs⟩ := adminEnd_parts ((s.setReg Reg.RV_FW v.toNat).setFlag Reg.RV_FW_SRC 0 true) c.h St.success v.toNat
  refine ⟨(State.reg_congr regs _).trans ?_, (State.flag_congr regs _ _).trans ?_, mem, keep⟩
  · rw [State.reg_setFlag_ne _ _ _ _ _ (by decide), State.reg_setReg_same, Nat.mod_eq_of_lt v.isLt]
  · exact State.flag_setFlag_same _ _ _ _ (by decide)

end Sys2Proof.Proofs
end

section
/-! PROOF. The statements of the Keep and Almanac chapter: skipped Keep writes, the service ports and the Almanac. -/

namespace Sys2Proof.Proofs

open Sys2Proof.Machine Sys2Proof.Safety

/-! ### KW writes of the stored value (R354) -/

/-- What precedes a KW write: the learning time of the Tally and the value a drive parameter had are kept; no register
changes. -/
theorem kwBefore_frame (s : State) (k : Nat) : s.kwBefore k = { s with tl := (s.kwBefore k).tl, mw := (s.kwBefore k).mw } := by
  unfold State.kwBefore State.mwStage
  repeat' split
  all_goals rfl

theorem reg_kwBefore (s : State) (k q : Nat) : (s.kwBefore k).reg q = s.reg q := by
  rw [kwBefore_frame]
  rfl

theorem kwStore_stored {s : State} {k v : Nat} (stored : s.reg k = v % 2 ^ 32) (page : Nat) :
    s.kwStore page k v = s.bump Reg.KP_SKIPPED := if_pos stored

/-- A KW write that brings no error of the Keep is judged as a whole and stored. -/
theorem exec_kwFieldWrite_stores {off w : Nat} {val : W32} {d : RegDesc} {s : State} (desc : regDesc? off = some d)
    (kw : (d.fields.any fun x => x.ty == .kw) = true)
    (fix : s.kwFix off (s.reg off) (d.kwWrite (s.reg off) val.toNat) = some w) : exec (.kwFieldWrite off ⟨val, []⟩) s =
      .next (((s.kwBefore off).kwStore (Config.settingsPage off) off w).kwAfter off) := by
  have write : s.kwWrite off val.toNat = ((s.kwBefore off).kwStore (Config.settingsPage off) off w).kwAfter off := by
    unfold State.kwWrite
    rw [desc]
    dsimp only
    rw [if_pos kw, fix]
  exact congrArg Host.Outcome.next write

/-- Settles O55: the stored value ends the write in a count (`kwStore`), behind a step that leaves every register. -/
theorem skippedWrites : Obligations.SkippedWrites := by
  intro off w val d s desc kw fix stored
  have same : (s.kwBefore off).reg off = w % 2 ^ 32 := (reg_kwBefore s off off).trans stored
  have keep : ((s.kwBefore off).bump Reg.KP_SKIPPED).keep = s.keep := by rw [kwBefore_frame]; rfl
  have counts : ((s.kwBefore off).bump Reg.KP_SKIPPED).kp = s.kp := by rw [kwBefore_frame]; rfl
  refine ⟨(s.kwBefore off).bump Reg.KP_SKIPPED, ?_, ?_, ?_, fun k other => ?_, State.kwAfter_same_keep keep off,
    State.kwAfter_same_kp counts off⟩
  · rw [exec_kwFieldWrite_stores desc kw fix, kwStore_stored same]
  · rw [State.reg_bump_same, reg_kwBefore]
  · rw [kwBefore_frame]; rfl
  · rw [State.reg_bump_ne _ _ _ other, reg_kwBefore]

/-! ### Records with their valid mark (R361) -/

theorem leNat_toLe (n v : Nat) : leNat (toLe n v) = v % 256 ^ n := by
  induction n generalizing v with
  | zero => rw [toLe, leNat, pow_zero, Nat.mod_one]
  | succ n ih =>
    have digit := Nat.mod_mul (x := v) (a := 256) (b := 256 ^ n)
    rw [pow_succ' 256 n, digit, toLe, leNat, ih, BitVec.toNat_ofNat]

theorem crcShift_lt (n : Nat) {c : Nat} (h : c < 2 ^ 32) : crcShift n c < 2 ^ 32 := by
  induction n generalizing c with
  | zero => exact h
  | succ n ih =>
    have half : c / 2 < 2 ^ 32 := by omega
    unfold crcShift
    split
    · exact ih (Nat.xor_lt_two_pow half (by decide))
    · exact ih half

theorem crc32c_lt (bs : List Byte) : crc32c bs < 2 ^ 32 := by
  have fold : ∀ (l : List Byte) (c : Nat), c < 2 ^ 32 → l.foldl (fun c b => crcShift 8 (c ^^^ b.toNat)) c < 2 ^ 32 := by
    intro l
    induction l with
    | nil => exact fun c h => h
    | cons b t ih => exact fun c h => ih _ (crcShift_lt 8 (Nat.xor_lt_two_pow h (by have := b.isLt; omega)))
  exact Nat.xor_lt_two_pow (fold bs _ (by decide)) (by decide)

/-- Bytes read back out of a string that holds them behind other bytes. -/
theorem bytesAt_append (a b c : List Byte) : bytesAt (a ++ b ++ c) a.length b.length = b := by
  rw [bytesAt_in _ _ _ (by simp only [List.length_append]; omega), List.append_assoc, List.drop_left, List.take_left]

/-- A body written with its mark is a valid record. -/
theorem recOk_alMark {body : List Byte} (len : body.length = 0x3F8) : recOk (alMark body) = true := by
  have crcLen := toLe_length 4 (crc32c body)
  have markLen := toLe_length 4 0xA1A1A1A1
  have front : bytesAt (alMark body) 0 0x3F8 = body := by
    have := bytesAt_append [] body (toLe 4 (crc32c body) ++ toLe 4 0xA1A1A1A1)
    rwa [List.nil_append, ← List.append_assoc, len] at this
  have crc : bytesAt (alMark body) 0x3F8 4 = toLe 4 (crc32c body) := by
    have := bytesAt_append body (toLe 4 (crc32c body)) (toLe 4 0xA1A1A1A1)
    rwa [len, crcLen] at this
  have mark : bytesAt (alMark body) 0x3FC 4 = toLe 4 0xA1A1A1A1 := by
    have := bytesAt_append (body ++ toLe 4 (crc32c body)) (toLe 4 0xA1A1A1A1) []
    rwa [List.append_nil, List.length_append, len, crcLen, markLen] at this
  unfold recOk leAt
  rw [front, crc, mark, leNat_toLe, leNat_toLe, Nat.mod_eq_of_lt (show crc32c body < 256 ^ 4 from crc32c_lt body)]
  simp

theorem alMark_length {body : List Byte} (len : body.length = 0x3F8) : (alMark body).length = 0x400 := by
  unfold alMark
  simp only [List.length_append, toLe_length, len]

/-! ### The management port (R369, R370) -/

/-- A record with a body and its mark in slot 64 of the Almanac, of whose words one can no longer be corrected, with the
management port on. -/
def badWordIn (body : List Byte) : State :=
  State.setReg { State.reset with keep := memWriteN [] (alSlot 64) (alMark body), kp.unc := [alSlot 64 / 8] } Reg.AL_MGT 0x80

theorem badWordIn_marked {body : List Byte} (len : body.length = 0x3F8) : recOk ((badWordIn body).alRec 64) = true := by
  have stored := memReadN_memWriteN_same (alMark body) [] (alSlot 64) rfl
  rw [alMark_length len] at stored
  have record : (badWordIn body).alRec 64 = alMark body := stored
  rw [record]
  exact recOk_alMark len

theorem badWordIn_invalid (body : List Byte) : (badWordIn body).alValid 64 = false := by
  have bad : (badWordIn body).keepBad (alSlot 64) 0x400 = true := rfl
  rw [State.alValid, bad]
  rfl

theorem exec_mgtSlotWrite_slot {slot : Nat} {s : State} (on : s.flag Reg.AL_MGT 7 = true) (lt : slot < 0x100) :
    exec (.mgtSlotWrite slot) s = .next { s with
      al.mgtSlot := slot, al.mgtBuf := s.alRec slot, al.mgtDone := true, al.mgtValid := s.alValid slot } := by
  have slot16 : slot % 65536 = slot := Nat.mod_eq_of_lt (by omega)
  have record : slot ≠ 0xFFFF := by omega
  refine congrArg Host.Outcome.next ((if_pos on).trans ?_)
  unfold State.mgtSnap
  rw [slot16]
  dsimp only
  rw [if_pos (Or.inl lt), if_neg record]
  rfl

/-- Refutes O56: its clause on SLOT gives VALID as the mark and CRC of the record alone, where the copy of a slot with a word
that cannot be corrected is not valid (R351). The record of `badWordIn` has both, and the port shows it as invalid. -/
theorem not_service : ¬ Obligations.Service := by
  rintro ⟨-, -, -, -, -, -, -, -, slots, -⟩
  have on : (badWordIn (zeros 0x3F8)).flag Reg.AL_MGT 7 = true := by decide +kernel
  obtain ⟨u, run, -, -, -, shown, -⟩ := slots 64 _ on (by decide)
  rw [exec_mgtSlotWrite_slot on (by decide)] at run
  have valid : (badWordIn (zeros 0x3F8)).alValid 64 = u.al.mgtValid :=
    congrArg (fun t : State => t.al.mgtValid) (Host.Outcome.next.inj run)
  rw [shown, badWordIn_invalid, badWordIn_marked (body := zeros 0x3F8) List.length_replicate] at valid
  exact Bool.false_ne_true valid

/-! ### Epochs, checkpoints and repeats (R363, R364, R366) -/

theorem exec_epochHourClose_due {s : State} (open_ : s.al.isOpen = true) (come : s.due s.al.cur.at_ 3600000000 = true) :
    exec .epochHourClose s = .next (s.alClose 1 1) := congrArg Host.Outcome.next (if_pos ⟨open_, come⟩)

theorem exec_almanacCheckpoint_due {s : State} (open_ : s.al.isOpen = true) (come : s.due s.al.cur.ckAt 600000000 = true) :
    exec .almanacCheckpoint s = .next s.alCheckpoint := congrArg Host.Outcome.next (if_pos ⟨open_, come⟩)

theorem exec_conditionCloseDelay_due {t : Nat} {s : State} (condition : s.al.cur.condAt = some t) (open_ : s.al.isOpen = true)
    (come : t ≤ s.now) : exec .conditionCloseDelay s = .next (s.alClose 2 3) := by
  show (Host.Outcome.next (match s.al.cur.condAt with | some t => _ | none => s) : Out) = _
  rw [condition]
  exact congrArg Host.Outcome.next (if_pos ⟨open_, come⟩)

/-- The state in which the open epoch has been closed, before the next one opens. -/
def epochClosed (s : State) (kind reason : Nat) : State :=
  { (s.alPut kind reason).saveWear.timeSave with al.lastClose := some (s.alPut kind reason).now }

theorem alClose_open {s : State} (open_ : s.al.isOpen = true) (kind reason : Nat) :
    s.alClose kind reason = (epochClosed s kind reason).alOpenEpoch := if_neg (by rw [open_]; decide)

theorem epochClosed_lastClose (s : State) (kind reason : Nat) : (epochClosed s kind reason).al.lastClose = some s.now :=
  congrArg some (State.alPut_stays (Stays.refl s) kind reason).now

/-- The record that repeats are written into, with its count of repeats raised. -/
def repeatsAdded (s : State) (n : Nat) : List Byte :=
  putBytes (bytesAt (s.alRec n) 0 0x3F8) 0x1C (toLe 4 (sat32 (leAt (s.alRec n) 0x1C 4 + s.al.reps)))

theorem alFlushReps_valid {n : Nat} {s : State} (some_ : 0 < s.al.reps) (slot : s.al.repSlot = n) (valid : s.alValid n = true)
    (condition : s.alKindOf n = 2) (closed : s.alOpenOf n = false) : s.alFlushReps =
      { s.alWrite n (repeatsAdded s n) with
        al := { (s.alWrite n (repeatsAdded s n)).al with reps := 0, repAt := s.now } } := by
  subst slot
  have suits : s.alValid s.al.repSlot = true ∧ s.alKindOf s.al.repSlot = 2 ∧ s.alOpenOf s.al.repSlot = false :=
    ⟨valid, condition, closed⟩
  unfold State.alFlushReps
  rw [if_neg (Nat.ne_of_gt some_)]
  dsimp only
  rw [if_pos suits]
  rfl

theorem alFlushReps_none {s : State} (none_ : s.al.reps = 0) : s.alFlushReps = s := if_pos none_

theorem exec_repeatFlush_due {s : State} (some_ : 0 < s.al.reps) (come : s.due s.al.repAt 1000000 = true) :
    exec .repeatFlush s = .next s.alFlushReps := congrArg Host.Outcome.next (if_pos ⟨some_, come⟩)

/-! ### Snapshots and samples (R362, R368) -/

/-- The state in which the record of a slot has been copied for reading. -/
def snapped (s : State) (slot : Nat) : State :=
  (State.setReg { s with al.rbuf := s.alRec slot } Reg.AL_RSEL slot).setReg Reg.AL_RSTAT (1 + 2 * b2n (s.alValid slot))

theorem alSnap_slot {slot : Nat} (lt : slot < 0x100) (s : State) : s.alSnap slot = snapped s slot := by
  have record : slot ≠ 0x1FF := by omega
  unfold State.alSnap
  rw [if_pos (Or.inl lt)]
  dsimp only
  rw [if_neg record]
  rfl

theorem snapped_shows {slot : Nat} (lt : slot < 0x100) (s : State) : (snapped s slot).reg Reg.AL_RSEL = slot ∧
    (snapped s slot).flag Reg.AL_RSTAT 0 = true ∧ (snapped s slot).flag Reg.AL_RSTAT 1 = s.alValid slot := by
  unfold snapped
  refine ⟨?_, ?_, ?_⟩
  · rw [State.reg_setReg_ne _ _ _ _ (by decide), State.reg_setReg_same, Nat.mod_eq_of_lt (by omega)]
  · rw [State.flag, State.reg_setReg_same]
    cases s.alValid slot <;> decide
  · rw [State.flag, State.reg_setReg_same]
    cases s.alValid slot <;> decide

/-- The supplies and Tj as a sample shows them in the registers. -/
def sampleShownSs (s : State) (m : AlSample) : State :=
  ((s.tjSeen m.tj).setReg Reg.SS_VDDC (min m.vddCore 0xFFFF)).setReg Reg.SS_VIN (min m.vin 0xFFFF)

theorem sampleShownSs_frame (s : State) (m : AlSample) : sampleShownSs s m =
    { s with regs := (sampleShownSs s m).regs, rg := (sampleShownSs s m).rg } := by
  have tj := (tjSeen_f s m.tj).1
  unfold sampleShownSs
  rw [tj]
  rfl

theorem sampleShownSs_regs (s : State) (m : AlSample) :
    (sampleShownSs s m).reg Reg.SS_VDDC = min m.vddCore 0xFFFF ∧ (sampleShownSs s m).reg Reg.SS_VIN = min m.vin 0xFFFF ∧
    (sampleShownSs s m).reg Reg.SS_TJ = intBits 16 m.tj := by
  unfold sampleShownSs
  refine ⟨?_, ?_, ?_⟩
  · rw [State.reg_setReg_ne _ _ _ _ (by decide), State.reg_setReg_same, Nat.mod_eq_of_lt (by omega)]
  · rw [State.reg_setReg_same, Nat.mod_eq_of_lt (by omega)]
  · rw [State.reg_setReg_ne _ _ _ _ (by decide), State.reg_setReg_ne _ _ _ _ (by decide)]
    exact (tjSeen_f s m.tj).2

theorem sampleShownSs_al (s : State) (m : AlSample) : (sampleShownSs s m).al = s.al := by
  rw [sampleShownSs_frame]

theorem exec_almanacSample_closed {s : State} (closed : s.al.isOpen = false) (m : AlSample) :
    exec (.almanacSample m) s = .next (sampleShownSs s m) := by
  have still : ¬ (sampleShownSs s m).al.isOpen = true := by rw [sampleShownSs_al]; exact nf' closed
  exact congrArg Host.Outcome.next (if_neg still)

theorem exec_almanacSample_open {s : State} (open_ : s.al.isOpen = true) (m : AlSample) :
    exec (.almanacSample m) s = .next (((sampleShownSs s m).sampleHists m).sampleExts m) := by
  have still : (sampleShownSs s m).al.isOpen = true := by rw [sampleShownSs_al]; exact open_
  exact congrArg Host.Outcome.next (if_pos still)

/-! ### Events (R363, R366) -/

theorem exec_almanacEventTake_first {i : ColItem} {n : Note} {s : State} (open_ : s.al.isOpen = true)
    (found : s.rg.col.find? (fun i => i.dep.isNote && !i.taken) = some i) (note : i.dep = .note n) :
    exec .almanacEventTake s = .next (State.alTake { s with rg.col := execAlmanacEventTake.releaseOne s.rg.col } n) := by
  show execAlmanacEventTake s = _
  unfold execAlmanacEventTake
  rw [if_neg (by rw [open_]; decide), found]
  dsimp only
  rw [note]

/-- A console line changes output alone: the Almanac, its records and its registers are those of the state without it. -/
theorem conLine_frame (s : State) (n : Note) : s.conLine n = { s with out := (s.conLine n).out } := by
  unfold State.conLine
  split <;> rfl

/-- The event is counted in the histogram of severities, as on a console without lines. -/
theorem alHist_conLine (s : State) (n : Note) (h bin : Nat) :
    (s.conLine n).alHist h bin = { s.alHist h bin with out := (s.conLine n).out } := by
  rw [conLine_frame]
  rfl

/-- An event that repeats the newest closed record is counted for it. -/
theorem alTake_repeat {n : Note} {s : State} (again : (s.alHist 9 n.sev).alIsRepeat n = true) :
    s.alTake n = State.alRepeat { s.alHist 9 n.sev with out := (s.conLine n).out } n := by
  unfold State.alTake
  dsimp only
  rw [alHist_conLine]
  exact if_pos again

/-- Repeats are counted at once where none wait for another record. -/
theorem alRepeat_counts {n : Note} {s : State} (free : s.al.reps = 0 ∨ s.alNewest = some s.al.repSlot) :
    s.alRepeat n = State.bumpN { s with al.reps := s.al.reps + 1 + n.rep, al.repSlot := s.alNewest.getD 0 } Reg.AL_REPEATS
      (1 + n.rep) := by
  have kept : (if s.al.repSlot = s.alNewest.getD 0 then s else s.alFlushReps) = s := by
    rcases free with none_ | newest
    · rw [alFlushReps_none none_, ite_self]
    · exact if_pos (by rw [newest]; rfl)
  unfold State.alRepeat
  dsimp only
  rw [kept]

/-- Settles O57: one equation per row, each with the state it leaves. -/
theorem almanacRows : Obligations.AlmanacRows := by
  refine ⟨⟨fun s => exec_epochHourClose_due, fun s => exec_almanacCheckpoint_due, fun t s => exec_conditionCloseDelay_due,
      fun k r s open_ => ?_, fun n s some_ come slot valid condition closed => ?_, fun slot s lt => ?_, fun m s closed => ?_,
      fun m s open_ => ?_⟩, fun i n s => exec_almanacEventTake_first, fun n s again free => ?_⟩
  · rw [alClose_open open_]
    exact ⟨epochClosed s k r, rfl, epochClosed_lastClose s k r, rfl, rfl, rfl⟩
  · refine ⟨s.alFlushReps, exec_repeatFlush_due some_ come, ?_⟩
    rw [alFlushReps_valid some_ slot valid condition closed]
    exact ⟨rfl, rfl⟩
  · obtain ⟨sel, done, ok⟩ := snapped_shows lt s
    exact ⟨snapped s slot, congrArg Host.Outcome.next (alSnap_slot lt s), rfl, sel, done, ok, rfl⟩
  · obtain ⟨vddc, vin, tj⟩ := sampleShownSs_regs s m
    exact ⟨sampleShownSs s m, exec_almanacSample_closed closed m, vddc, vin, tj, sampleShownSs_al s m, sampleShownSs_frame s m⟩
  · exact ⟨sampleShownSs s m, exec_almanacSample_open open_ m, (sampleShownSs_regs s m).1, sampleShownSs_frame s m⟩
  · have counted := alRepeat_counts (n := n) (s := { s.alHist 9 n.sev with out := (s.conLine n).out }) free
    rw [alTake_repeat again, counted]
    exact ⟨(State.reg_setReg_same _ _ _).trans (Nat.mod_eq_of_lt (by unfold sat32; omega)), rfl⟩

end Sys2Proof.Proofs
end

section
/-! PROOF. The statements of the power and reset chapter: resets, start-up, clocks, power states, upkeep and monitors. -/

namespace Sys2Proof.Proofs

open Sys2Proof.Machine Sys2Proof.Safety

/-! ### CHIP reset, core reset and their releases (R378, R383, R384, R386) -/

theorem exec_chipRstAssert_now {s : State} (live : s.pw.held = false) (free : s.hm.rstWait = false) (calm : s.rstDeferred = false) :
    exec .chipRstAssert s = .next ((s.rstAt true).chipReset false false) := by
  have idle : ¬ ((s.rstAt true).pw.held = true ∨ (s.rstAt true).hm.rstWait = true) := not_or.2 ⟨nf' live, nf' free⟩
  exact congrArg Host.Outcome.next ((if_neg idle).trans (if_neg (nf' calm)))

theorem exec_chipRstRelease_held {strap : BitVec 2} {s : State} (held : s.pw.held = true) (chip : s.pw.core = false) :
    exec (.chipRstRelease strap) s = .next ((s.rstAt false).strapAt strap).release :=
  congrArg Host.Outcome.next (if_pos ⟨held, chip⟩)

/-- The state that a core reset leaves. -/
def coreCleared (s : State) : State :=
  { (s.bump Reg.SS_CORE_RESETS).chipReset false true with
    pw := { ((s.bump Reg.SS_CORE_RESETS).chipReset false true).pw with core := true } }

theorem exec_coreReset_low {mv : Nat} (low : mv < 520) (s : State) : exec (.coreReset mv) s = .next (coreCleared s) :=
  congrArg Host.Outcome.next (if_pos low)

theorem coreCleared_counts (s : State) : (coreCleared s).reg Reg.SS_CORE_RESETS = sat32 (s.reg Reg.SS_CORE_RESETS + 1) := by
  obtain ⟨-, -, -, -, kept⟩ := chipReset_clear (s.bump Reg.SS_CORE_RESETS) false true
  calc (coreCleared s).reg Reg.SS_CORE_RESETS
      = (s.bump Reg.SS_CORE_RESETS).reg Reg.SS_CORE_RESETS := kept rfl rfl
    _ = sat32 (s.reg Reg.SS_CORE_RESETS + 1) := State.reg_bump_same _ _

/-- The state of a core reset whose supplies are back, before its release. -/
def coreFreed (s : State) (strap : BitVec 2) : State := State.strapAt { s with pw.core := false } strap

theorem exec_coreResetRelease_due {strap : BitVec 2} {mv : Nat} {s : State} (held : s.pw.held = true) (core : s.pw.core = true)
    (up : 700 < mv) (back : s.vinReturned = true) (high : s.pw.rstLow = false) :
    exec (.coreResetRelease strap mv) s = .next (coreFreed s strap).release := by
  have pin : ¬ (coreFreed s strap).pw.rstLow = true := nf' high
  exact congrArg Host.Outcome.next ((if_pos ⟨held, core, up, back⟩).trans (if_neg pin))

/-- Settles O7: a reset that takes effect leaves the CHIP domain clear and held, and a release is one `State.release`. -/
theorem chipReset : Obligations.ChipReset := by
  unfold Obligations.ChipReset
  refine ⟨fun s live free calm => ?_, fun strap s held chip => ?_, fun mv s low => ?_, fun strap mv s held core up back high => ?_⟩
  · obtain ⟨clear, pw, inhibit, -, -⟩ := chipReset_clear (s.rstAt true) false false
    refine ⟨_, exec_chipRstAssert_now live free calm, clear, ?_, ?_, ?_, inhibit⟩ <;> (rw [pw]; rfl)
  · obtain ⟨frame, free, -, step, sampled, since, -, low, -⟩ := release_spec ((s.rstAt false).strapAt strap)
    refine ⟨_, exec_chipRstRelease_held held chip, free, low, step, sampled, since, ?_, ?_⟩ <;> (rw [frame]; rfl)
  · obtain ⟨clear, pw, -, -, -⟩ := chipReset_clear (s.bump Reg.SS_CORE_RESETS) false true
    refine ⟨coreCleared s, exec_coreReset_low low s, clear, ?_, rfl, ?_, coreCleared_counts s⟩
    · exact congrArg Power.held pw
    · exact congrArg Power.rstDone pw
  · obtain ⟨frame, free, chip, step, sampled, since, -⟩ := release_spec (coreFreed s strap)
    refine ⟨_, exec_coreResetRelease_due held core up back high, free, chip, step, sampled, since, ?_, ?_⟩ <;> (rw [frame]; rfl)

/-! ### The start-up sequence (R387, R246) -/

theorem exec_startupStep_eq {s t : State} (step : s.bootStep = t) : exec .startupStep s = .next t.settle :=
  congrArg (fun u => Host.Outcome.next (State.settle u)) step

/-- In STARTUP and out of reset the next step of Table 17-8 is the one that its number names. -/
theorem bootStep_live {s : State} (boot : s.mode = 0) (live : s.pw.held = false) : s.bootStep =
    if s.pw.step = 1 then { s.bootScan with pw := { s.bootScan.pw with step := 2 } }
    else if s.pw.step = 2 then (s.alOpenEpoch.dumpCorrect.bootRun s.now).tlUpdate
    else if s.pw.step = 3 then s.bootTrain
    else if s.pw.step = 4 then if s.usedPorts.all s.portSettled then s.bootLoad else s
    else if s.pw.step = 9 then if s.loadsDone then s.bootReplay else s
    else if s.pw.step = 10 then if s.hm.restore.isNone ∧ s.lg.replaying = 0 then s.bootStreams else s
    else if s.pw.step = 20 then
      let s := if s.streamsRun then s else { s with sv.recovering := false }
      if s.streamsRun ∨ s.sv.bootT.isNone then s else s.bootEnd
    else s := if_neg (not_or.2 ⟨not_not.2 boot, nf' live⟩)

theorem bootStep_scan {s : State} (boot : s.mode = 0) (live : s.pw.held = false) (step : s.pw.step = 1) :
    s.bootStep = { s.bootScan with pw := { s.bootScan.pw with step := 2 } } := by
  rw [bootStep_live boot live, if_pos step]

theorem bootStep_run {s : State} (boot : s.mode = 0) (live : s.pw.held = false) (step : s.pw.step = 2) :
    s.bootStep = (s.alOpenEpoch.dumpCorrect.bootRun s.now).tlUpdate := by
  rw [bootStep_live boot live, if_neg (by omega), if_pos step]

theorem bootStep_train {s : State} (boot : s.mode = 0) (live : s.pw.held = false) (step : s.pw.step = 3) :
    s.bootStep = s.bootTrain := by
  rw [bootStep_live boot live, if_neg (by omega), if_neg (by omega), if_pos step]

theorem bootStep_load {s : State} (boot : s.mode = 0) (live : s.pw.held = false) (step : s.pw.step = 4)
    (settled : s.usedPorts.all s.portSettled = true) : s.bootStep = s.bootLoad := by
  rw [bootStep_live boot live, if_neg (by omega), if_neg (by omega), if_neg (by omega), if_pos step, if_pos settled]

/-- Step 3 of the sequence has begun, and RST_DONE is high. -/
theorem bootRun_tlUpdate_pw (s : State) (t : Nat) : (s.bootRun t).tlUpdate.pw.step = 3 ∧ (s.bootRun t).tlUpdate.pw.rstDone = true := by
  have pw : (s.bootRun t).tlUpdate.pw = (s.bootRun t).pw := State.tlUpdate_same_pw (s := s.bootRun t) rfl
  rw [pw]
  exact ⟨rfl, rfl⟩

theorem bootTrain_trained (s : State) : s.bootTrain.flag Reg.DC_STATUS 3 = false :=
  State.flag_setFlag_same _ _ _ _ (by decide)

/-- Settles O8: each number of the sequence has its step, and the member wait folds over the ports that have not settled. -/
theorem startupSteps : Obligations.StartupSteps := by
  unfold Obligations.StartupSteps
  refine ⟨fun s boot live step => ?_, fun s boot live step => ?_, fun s boot live step => ?_,
    fun s boot live step settled => ?_, fun s boot step due => ?_⟩
  · exact exec_startupStep_eq (bootStep_scan boot live step)
  · obtain ⟨three, done⟩ := bootRun_tlUpdate_pw s.alOpenEpoch.dumpCorrect s.now
    exact ⟨_, exec_startupStep_eq (bootStep_run boot live step), three, done⟩
  · exact ⟨s.bootTrain, exec_startupStep_eq (bootStep_train boot live step), rfl, rfl, bootTrain_trained s, rfl, rfl, rfl, rfl⟩
  · exact ⟨s.bootLoad, exec_startupStep_eq (bootStep_load boot live step settled), rfl⟩
  · exact congrArg Host.Outcome.next (if_pos ⟨boot, step, due⟩)

/-! ### Clock loss and THERM_N (R379, R380) -/

/-- The state that shows a clock lost for the first time. -/
theorem clkGone_first {s : State} {b : Nat} (first : s.flag Reg.SS_STATUS b = false) (n sev : Nat) : s.clkGone b n sev =
    ((s.setFlag Reg.SS_STATUS b true).bump Reg.SS_CLKLOSS).note Rank.supply (Config.eventValue n) sev 0 := if_neg (nf' first)

theorem clkGone_shows {s : State} {b : Nat} (first : s.flag Reg.SS_STATUS b = false) (small : b < 32) (n sev : Nat) :
    (s.clkGone b n sev).flag Reg.SS_STATUS b = true ∧
    (s.clkGone b n sev).reg Reg.SS_CLKLOSS = sat32 (s.reg Reg.SS_CLKLOSS + 1) ∧ (s.clkGone b n sev).mem = s.mem ∧
    (s.clkGone b n sev).keep = s.keep ∧ (s.clkGone b n sev).cmds = s.cmds ∧ (s.clkGone b n sev).hp = s.hp := by
  rw [clkGone_first first]
  refine ⟨?_, ?_, rfl, rfl, rfl, rfl⟩
  · calc (((s.setFlag Reg.SS_STATUS b true).bump Reg.SS_CLKLOSS).note Rank.supply (Config.eventValue n) sev 0).flag Reg.SS_STATUS b
        = ((s.setFlag Reg.SS_STATUS b true).bump Reg.SS_CLKLOSS).flag Reg.SS_STATUS b := State.flag_congr rfl _ _
      _ = (s.setFlag Reg.SS_STATUS b true).flag Reg.SS_STATUS b := by
          rw [State.flag, State.flag, State.reg_bump_ne _ _ _ (by decide)]
      _ = true := State.flag_setFlag_same _ _ _ _ small
  · calc (((s.setFlag Reg.SS_STATUS b true).bump Reg.SS_CLKLOSS).note Rank.supply (Config.eventValue n) sev 0).reg Reg.SS_CLKLOSS
        = ((s.setFlag Reg.SS_STATUS b true).bump Reg.SS_CLKLOSS).reg Reg.SS_CLKLOSS := State.reg_congr rfl _
      _ = sat32 (s.reg Reg.SS_CLKLOSS + 1) := by
          rw [State.reg_bump_same, State.reg_setFlag_ne _ _ _ _ _ (by decide)]

theorem exec_refclkLoss_first {s : State} {clk : RefClk} {b : Nat}
    (which : (clk = .mref ∧ b = 6) ∨ (clk = .xtal ∧ b = 5) ∨ (clk = .aonclk ∧ b = 7)) (first : s.flag Reg.SS_STATUS b = false) :
    ∃ u : State, exec (.refclkLoss clk) s = .next u ∧ u.flag Reg.SS_STATUS b = true ∧
      u.reg Reg.SS_CLKLOSS = sat32 (s.reg Reg.SS_CLKLOSS + 1) ∧ u.mem = s.mem ∧ u.keep = s.keep ∧ u.cmds = s.cmds ∧ u.hp = s.hp := by
  rcases which with ⟨rfl, rfl⟩ | ⟨rfl, rfl⟩ | ⟨rfl, rfl⟩
  · exact ⟨_, rfl, clkGone_shows first (by decide) 16 Sev.fault⟩
  · exact ⟨_, rfl, clkGone_shows first (by decide) 17 Sev.critical⟩
  · exact ⟨_, rfl, clkGone_shows first (by decide) 18 Sev.warning⟩

/-- The limit of THERM_N in 0.1 °C. -/
def thermLimit (s : State) : Int := (10 * clampN 85 150 (s.fld Reg.SS_THERM 7 0) : Nat)

/-- The hysteresis of THERM_N in 0.1 °C. -/
def thermHys (s : State) : Int := (10 * max 1 (s.fld Reg.SS_THERM 11 8) : Nat)

theorem tjSeen_tjNow {tj : Int} (lo : -0x8000 ≤ tj) (hi : tj < 0x8000) (s : State) : (s.tjSeen tj).tjNow = tj := by
  rw [State.tjNow, State.fld, (tjSeen_f s tj).2, signExt_intBits16 tj lo hi]

theorem tjSeen_therm (s : State) (tj : Int) : (s.tjSeen tj).flag Reg.SS_STATUS 8 =
    (decide (tj ≥ thermLimit s) || (s.flag Reg.SS_STATUS 8 && decide (tj ≥ thermLimit s - thermHys s))) :=
  (State.flag_congr (seenRegs s tj).1 _ _).trans (State.flag_setFlag_same _ _ _ _ (by decide))

theorem tjSeen_therm_hot {s : State} {tj : Int} (hot : tj ≥ thermLimit s) : (s.tjSeen tj).flag Reg.SS_STATUS 8 = true := by
  rw [tjSeen_therm, decide_eq_true hot, Bool.true_or]

theorem tjSeen_therm_cool {s : State} {tj : Int} (cool : tj < thermLimit s - thermHys s) :
    (s.tjSeen tj).flag Reg.SS_STATUS 8 = false := by
  have below : ¬ tj ≥ thermLimit s := by unfold thermHys at cool; omega
  rw [tjSeen_therm, decide_eq_false below, decide_eq_false (not_le.2 cool), Bool.and_false, Bool.or_false]

/-! ### Power states (R381, R382) -/

theorem spPick_lt (s : State) (budget : Nat) : s.spPick budget < 4 := by
  unfold State.spPick
  dsimp only
  generalize hl : ([3, 2, 1].filter fun st => decide (st ≤ s.fld Reg.SP_CFG 1 0)) = l
  generalize hx : l.find? _ = x
  cases x with
  | none => decide
  | some st =>
    have inList : st ∈ [3, 2, 1] := List.mem_of_mem_filter (hl ▸ List.mem_of_find?_eq_some hx)
    simp only [List.mem_cons, List.not_mem_nil, or_false] at inList
    rw [Option.getD_some]
    omega

theorem tNext_lt (s : State) : s.tNext < 2 ^ 32 := by
  unfold State.tNext sat32
  split <;> omega

theorem spMove_frame (s : State) (p : Nat) (small : p < 4) :
    s.spMove p = { s with regs := (s.spMove p).regs, pw := (s.spMove p).pw } := by
  unfold State.spMove
  split
  · exact (spGo_spState s 0 (by decide)).2
  · split
    · exact (spGo_spState s p small).2
    · rfl

/-- With no state to enter the block goes to A0; otherwise the deeper of the two states holds. -/
theorem spMove_spState {s : State} {p : Nat} (small : p < 4) :
    (s.spMove p).spState = if p = 0 then 0 else max s.spState p := by
  unfold State.spMove
  split
  · exact (spGo_spState s 0 (by decide)).1
  · split
    · rw [(spGo_spState s p small).1]
      omega
    · omega

theorem spMove_reg {q : Nat} (status : q ≠ Reg.SP_STATUS) (dram : q ≠ Reg.DC_STATUS) (s : State) (p : Nat) :
    (s.spMove p).reg q = s.reg q := by
  unfold State.spMove
  split
  · exact spGo_reg s 0 q status dram
  · split
    · exact spGo_reg s p q status dram
    · rfl

theorem spShow_spState (s : State) : s.spShow.spState = s.spState :=
  State.fld_setFld_disj _ _ _ _ _ _ _ (by decide) (by decide) (by decide)

theorem spShow_reg {q : Nat} (status : q ≠ Reg.SP_STATUS) (s : State) : s.spShow.reg q = s.reg q :=
  State.reg_setFld_ne _ _ _ _ _ _ status

theorem spTimes_reg {q : Nat} (next : q ≠ Reg.SP_NEXT_US) (host : q ≠ Reg.SP_HOST_US) (s : State) : s.spTimes.reg q = s.reg q := by
  unfold State.spTimes
  rw [State.reg_setReg_ne _ _ _ _ host, State.reg_setReg_ne _ _ _ _ next]

theorem spTimes_next (s : State) : s.spTimes.reg Reg.SP_NEXT_US = s.tNext := by
  unfold State.spTimes
  rw [State.reg_setReg_ne _ _ _ _ (by decide), State.reg_setReg_same, Nat.mod_eq_of_lt (tNext_lt s)]

theorem spTimes_host (s : State) : s.spTimes.reg Reg.SP_HOST_US = s.tHost % 2 ^ 32 := State.reg_setReg_same _ _ _

/-- The state after the Sleep Planner has judged. -/
def slept (s : State) : State := (s.spHold.spTimes.spMove s.spHold.spWant).spShow

theorem exec_sleepEval_live {s : State} (live : s.pw.held = false) : exec .sleepEval s = .next (slept s) :=
  congrArg Host.Outcome.next (if_neg (nf' live))

theorem slept_spState (s : State) :
    (slept s).spState = if s.spHold.spWant = 0 then 0 else max s.spState s.spHold.spWant := by
  have before : s.spHold.spTimes.spState = s.spState :=
    congrArg (bits · 1 0) (spTimes_reg (q := Reg.SP_STATUS) (by decide) (by decide) s.spHold)
  unfold slept
  rw [spShow_spState, spMove_spState (s := s.spHold.spTimes) (p := s.spHold.spWant) (spPick_lt _ _), before]

theorem slept_times (s : State) :
    (slept s).reg Reg.SP_NEXT_US = s.spHold.tNext ∧ (slept s).reg Reg.SP_HOST_US = s.spHold.tHost % 2 ^ 32 := by
  unfold slept
  constructor
  · rw [spShow_reg (by decide), spMove_reg (by decide) (by decide), spTimes_next]
  · rw [spShow_reg (by decide), spMove_reg (by decide) (by decide), spTimes_host]

theorem slept_frame (s : State) : slept s = { s with regs := (slept s).regs, pw := (slept s).pw } := by
  have moved := spMove_frame s.spHold.spTimes s.spHold.spWant (spPick_lt _ _)
  unfold slept State.spShow
  rw [moved]
  rfl

theorem woken_counts (s : State) : ((s.bump Reg.SP_WAKES).spGo 0).reg Reg.SP_WAKES = sat32 (s.reg Reg.SP_WAKES + 1) := by
  rw [spGo_reg _ _ _ (by decide) (by decide), State.reg_bump_same]

/-- Settles O11: `clkGone` once per clock, THERM_N from `tjSeen_therm`, and the move of the Sleep Planner from `spMove`. -/
theorem clocksAndPower : Obligations.ClocksAndPower := by
  unfold Obligations.ClocksAndPower
  refine ⟨⟨fun s => rfl, fun s clk b which first => exec_refclkLoss_first which first⟩, fun tj s lo hi => ?_, fun w s => ?_,
    fun s live => ?_⟩
  · obtain ⟨-, mem, keep, cmds, -, -⟩ := seenRegs s tj
    exact ⟨s.tjSeen tj, rfl, tjSeen_tjNow lo hi s, mem, keep, cmds, tjSeen_therm_hot, tjSeen_therm_cool⟩
  · obtain ⟨awake, frame⟩ := spGo_spState (s.bump Reg.SP_WAKES) 0 (by decide)
    exact ⟨_, rfl, awake, woken_counts s, frame⟩
  · obtain ⟨next, host⟩ := slept_times s
    exact ⟨slept s, exec_sleepEval_live live, slept_spState s, next, host, slept_frame s⟩

/-! ### DRAM upkeep and saved time (R385, R389) -/

theorem tjSeen_reg {q : Nat} (tjReg : q ≠ Reg.SS_TJ) (status : q ≠ Reg.SS_STATUS) (s : State) (tj : Int) :
    (s.tjSeen tj).reg q = s.reg q := by
  rw [State.reg_congr (seenRegs s tj).1, State.reg_setFlag_ne _ _ _ _ _ status, State.reg_setReg_ne _ _ _ _ tjReg]

/-- The state that follows a reading of Tj with its refresh rate. -/
def refreshed (s : State) (tj : Int) : State :=
  ((s.tjSeen tj).setFld Reg.DC_STATUS 1 0 (refreshRate ((s.tjSeen tj).fld Reg.DC_STATUS 1 0) tj)).setFlag Reg.DC_STATUS 4
    (decide (tj > 1350))

theorem refreshed_hot (s : State) (tj : Int) : (refreshed s tj).flag Reg.DC_STATUS 4 = decide (tj > 1350) :=
  State.flag_setFlag_same _ _ _ _ (by decide)

theorem refreshed_rate (s : State) (tj : Int) :
    (refreshed s tj).fld Reg.DC_STATUS 1 0 = refreshRate ((s.tjSeen tj).fld Reg.DC_STATUS 1 0) tj % 4 := by
  unfold refreshed
  rw [State.fld_setFlag_disj _ _ _ _ _ _ (by decide) (by decide), State.fld_setFld_same _ _ _ _ _ (by decide) (by decide)]
  rfl

theorem refreshRate_hot {tj : Int} (hot : tj > 1250) (cur : Nat) : refreshRate cur tj = 3 := by
  have hotter : tj > 1220 := by omega
  unfold refreshRate
  rw [if_pos hot, if_pos hotter]
  dsimp only
  omega

theorem refreshRate_cool {tj : Int} (cool : tj ≤ 820) (cur : Nat) : refreshRate cur tj = 0 := by
  unfold refreshRate
  rw [if_neg (by omega), if_neg (by omega), if_neg (by omega), if_neg (by omega), if_neg (by omega), if_neg (by omega)]
  dsimp only
  omega

/-- The state that follows a retraining of the DRAM. -/
def retrained (s : State) (tj : Int) : State := ((s.tjSeen tj).trained tj).bump Reg.DC_RETRAINS

theorem retrained_counts (s : State) (tj : Int) : (retrained s tj).reg Reg.DC_RETRAINS = sat32 (s.reg Reg.DC_RETRAINS + 1) := by
  unfold retrained
  rw [State.reg_bump_same]
  exact congrArg (fun n => sat32 (n + 1)) (tjSeen_reg (by decide) (by decide) s tj)

theorem exec_dramRetrain_due {tj : Int} {s : State} (awake : s.flag Reg.DC_STATUS 2 = false) (idle : s.flag Reg.DC_STATUS 3 = false)
    (come : s.due s.pw.trainAt (1000000 * clampN 10 3600 (s.fld Reg.DC_RETRAIN 15 0)) = true ∨ (tj - s.pw.trainTj).natAbs ≥ 200) :
    exec (.dramRetrain tj) s = .next (retrained s tj) := by
  obtain ⟨-, -, -, -, now, pw⟩ := seenRegs s tj
  have status : (s.tjSeen tj).reg Reg.DC_STATUS = s.reg Reg.DC_STATUS := tjSeen_reg (by decide) (by decide) s tj
  have period : (s.tjSeen tj).reg Reg.DC_RETRAIN = s.reg Reg.DC_RETRAIN := tjSeen_reg (by decide) (by decide) s tj
  have free : ¬ ((s.tjSeen tj).flag Reg.DC_STATUS 3 = true ∨ (s.tjSeen tj).flag Reg.DC_STATUS 2 = true) := by
    unfold State.flag at awake idle ⊢
    rw [status]
    exact not_or.2 ⟨nf' idle, nf' awake⟩
  have due : (s.tjSeen tj).due (s.tjSeen tj).pw.trainAt (1000000 * clampN 10 3600 ((s.tjSeen tj).fld Reg.DC_RETRAIN 15 0)) = true ∨
      (tj - (s.tjSeen tj).pw.trainTj).natAbs ≥ 200 := by
    unfold State.due State.fld at come ⊢
    rw [period, now, pw]
    exact come
  exact congrArg Host.Outcome.next ((if_neg free).trans (if_pos due))

theorem reg64_lt {s : State} {lo : Nat} (low : regReset lo < 2 ^ 32) (high : regReset (lo + 4) < 2 ^ 32) : s.reg64 lo < 2 ^ 64 := by
  have lowReg := reg_lt s lo low
  have highReg := reg_lt s (lo + 4) high
  unfold State.reg64
  omega

theorem exec_timeSaveTimer_due {s : State} (live : s.pw.held = false) (come : s.due s.pw.savedAt 60000000 = true) :
    exec .timeSaveTimer s = .next s.timeSave := congrArg Host.Outcome.next (if_pos ⟨live, come⟩)

/-- The time of the last save is now. -/
def savedNow (s : State) : State := { s with pw.savedAt := s.now }

theorem timeSave_same {s : State} (same : s.reg64 Reg.SS_TSAVE_LO = s.time) :
    s.timeSave = (savedNow s).bump Reg.KP_SKIPPED := if_pos same

theorem timeSave_stores {s : State} (other : s.reg64 Reg.SS_TSAVE_LO ≠ s.time) (open_ : s.kp.inhibit = false) :
    s.timeSave = ((savedNow s).setReg64 Reg.SS_TSAVE_LO s.time).addWear (Config.settingsPage Reg.SS_TSAVE_LO) 1 :=
  (if_neg other).trans (if_neg (nf' open_))

/-- The saved time is the present one whether it stood there already or is stored. -/
theorem timeSave_shows {s : State} (open_ : s.kp.inhibit = false) : s.timeSave.reg64 Reg.SS_TSAVE_LO = s.time % 2 ^ 64 := by
  by_cases same : s.reg64 Reg.SS_TSAVE_LO = s.time
  · have small : s.reg64 Reg.SS_TSAVE_LO < 2 ^ 64 := reg64_lt (by decide +kernel) (by decide +kernel)
    rw [timeSave_same same, State.reg64, State.reg_bump_ne _ _ _ (by decide), State.reg_bump_ne _ _ _ (by decide)]
    show s.reg64 Reg.SS_TSAVE_LO = _
    omega
  · rw [timeSave_stores same open_, wear_reg64 _ _ _ _ (by decide) (by decide) (by decide) (by decide), reg64_set]

theorem timeSave_frame {s : State} (open_ : s.kp.inhibit = false) :
    s.timeSave.pw.savedAt = s.now ∧ s.timeSave.mem = s.mem ∧ s.timeSave.cmds = s.cmds := by
  by_cases same : s.reg64 Reg.SS_TSAVE_LO = s.time
  · rw [timeSave_same same]
    exact ⟨rfl, rfl, rfl⟩
  · rw [timeSave_stores same open_, addWear_frame]
    exact ⟨rfl, rfl, rfl⟩

/-! ### Speed monitors (R19) -/

/-- The speed indices of the eight monitors. -/
def speedIndices (laps : List Nat) : List Nat := (List.range 8).map fun n => speedIndex (laps.getD n 0) (Config.lapTrim n)

/-- The monitor that LN_SPEED names as the slowest. -/
def slowest (laps : List Nat) : Nat := (minBy (fun n => (speedIndices laps).getD n 0) (List.range 8)).getD 0

/-- The windows of all monitors have closed. -/
def windowsClosed (s : State) (laps : List Nat) : State :=
  (List.range 8).foldl (fun s n => s.monClose n ((speedIndices laps).getD n 0)) { s with pw.laps := laps }

/-- The state that a speed window leaves. -/
def windowDone (s : State) (laps : List Nat) : State :=
  (((windowsClosed s laps).setFld Reg.LN_SPEED 9 0 ((speedIndices laps).getD (slowest laps) 0)).setFld Reg.LN_SPEED 12 10
    (slowest laps)).setFld Reg.LN_SPEED 31 16 (((windowsClosed s laps).fld Reg.LN_SPEED 31 16 + 1) % 65536)

theorem exec_speedWindow_eq (laps : List Nat) (s : State) : exec (.speedWindow laps) s = .next (windowDone s laps) := rfl

theorem speedIndices_at {n : Nat} (lt : n < 8) (laps : List Nat) :
    (speedIndices laps).getD n 0 = min 1023 (256 * laps.getD n 0 / Config.lapTrim n) := by
  unfold speedIndices
  rw [List.getD_eq_getElem?_getD, List.getElem?_map, List.getElem?_range lt]
  rfl

theorem slowest_le {n : Nat} (lt : n < 8) (laps : List Nat) :
    (speedIndices laps).getD (slowest laps) 0 ≤ (speedIndices laps).getD n 0 := by
  obtain ⟨y, found, least⟩ := minBy_le (fun n => (speedIndices laps).getD n 0) (List.range 8) (by decide)
  unfold slowest
  rw [found]
  exact least n (List.mem_range.2 lt)

theorem mon_ne_speed {n : Nat} (lt : n < 8) : Reg.LN_MON n ≠ Reg.LN_SPEED := by
  unfold Reg.LN_MON Reg.LN_SPEED
  omega

theorem fld_windowsClosed_speed (s : State) (laps : List Nat) (hi lo : Nat) :
    (windowsClosed s laps).fld Reg.LN_SPEED hi lo = s.fld Reg.LN_SPEED hi lo := by
  obtain ⟨-, others, -⟩ := mon_fold (speedIndices laps) (List.range 8) { s with pw.laps := laps } List.nodup_range
  exact congrArg (bits · hi lo) (others Reg.LN_SPEED fun n at_ => (mon_ne_speed (List.mem_range.1 at_)).symm)

theorem fld_windowDone_mon {n : Nat} (lt : n < 8) (s : State) (laps : List Nat) (hi lo : Nat) :
    (windowDone s laps).fld (Reg.LN_MON n) hi lo = (windowsClosed s laps).fld (Reg.LN_MON n) hi lo := by
  unfold windowDone
  rw [State.fld_setFld_ne _ _ _ _ _ _ _ _ (mon_ne_speed lt), State.fld_setFld_ne _ _ _ _ _ _ _ _ (mon_ne_speed lt),
    State.fld_setFld_ne _ _ _ _ _ _ _ _ (mon_ne_speed lt)]

theorem windowDone_index {n : Nat} (lt : n < 8) (s : State) (laps : List Nat) :
    (windowDone s laps).fld (Reg.LN_MON n) 9 0 = (speedIndices laps).getD n 0 := by
  obtain ⟨mons, -, -⟩ := mon_fold (speedIndices laps) (List.range 8) { s with pw.laps := laps } List.nodup_range
  have small := speedIndices_at lt laps
  calc (windowDone s laps).fld (Reg.LN_MON n) 9 0
      = (windowsClosed s laps).fld (Reg.LN_MON n) 9 0 := fld_windowDone_mon lt s laps 9 0
    _ = (speedIndices laps).getD n 0 % 1024 := (mons n (List.mem_range.2 lt)).1
    _ = (speedIndices laps).getD n 0 := Nat.mod_eq_of_lt (by omega)

theorem windowDone_low {n : Nat} (lt : n < 8) (s : State) (laps : List Nat) :
    (windowDone s laps).fld (Reg.LN_MON n) 25 16 = min (s.fld (Reg.LN_MON n) 25 16) ((speedIndices laps).getD n 0) := by
  obtain ⟨mons, -, -⟩ := mon_fold (speedIndices laps) (List.range 8) { s with pw.laps := laps } List.nodup_range
  have small := speedIndices_at lt laps
  calc (windowDone s laps).fld (Reg.LN_MON n) 25 16
      = (windowsClosed s laps).fld (Reg.LN_MON n) 25 16 := fld_windowDone_mon lt s laps 25 16
    _ = min ((speedIndices laps).getD n 0) (s.fld (Reg.LN_MON n) 25 16) % 1024 := (mons n (List.mem_range.2 lt)).2
    _ = min ((speedIndices laps).getD n 0) (s.fld (Reg.LN_MON n) 25 16) := Nat.mod_eq_of_lt (by omega)
    _ = min (s.fld (Reg.LN_MON n) 25 16) ((speedIndices laps).getD n 0) := Nat.min_comm _ _

theorem windowDone_slowest (s : State) (laps : List Nat) :
    (windowDone s laps).fld Reg.LN_SPEED 9 0 ≤ (speedIndices laps).getD (slowest laps) 0 := by
  unfold windowDone
  rw [State.fld_setFld_disj _ _ _ _ _ _ _ (by decide) (by decide) (by decide),
    State.fld_setFld_disj _ _ _ _ _ _ _ (by decide) (by decide) (by decide),
    State.fld_setFld_same _ _ _ _ _ (by decide) (by decide)]
  exact Nat.mod_le _ _

theorem windowDone_count (s : State) (laps : List Nat) :
    (windowDone s laps).fld Reg.LN_SPEED 31 16 = (s.fld Reg.LN_SPEED 31 16 + 1) % 65536 := by
  unfold windowDone
  rw [State.fld_setFld_same _ _ _ _ _ (by decide) (by decide), fld_windowsClosed_speed]
  exact Nat.mod_mod _ _

theorem windowDone_frame (s : State) (laps : List Nat) :
    windowDone s laps = { s with regs := (windowDone s laps).regs, pw := (windowDone s laps).pw } := by
  obtain ⟨-, -, frame⟩ := mon_fold (speedIndices laps) (List.range 8) { s with pw.laps := laps } List.nodup_range
  obtain ⟨regs, closed⟩ : ∃ regs, windowsClosed s laps = { s with regs := regs, pw := { s.pw with laps := laps } } := ⟨_, frame⟩
  unfold windowDone
  generalize (speedIndices laps).getD (slowest laps) 0 = least
  generalize slowest laps = slow
  generalize (windowsClosed s laps).fld Reg.LN_SPEED 31 16 + 1 = count
  rw [closed]
  rfl

/-- Settles O12: each row is a change of a few fields, and the speed window a fold of `monClose` over the monitors. -/
theorem upkeep : Obligations.Upkeep := by
  unfold Obligations.Upkeep
  refine ⟨⟨fun tj s => ?_, fun tj s awake idle come => ?_⟩, fun s live come open_ => ?_, fun laps s => ?_, fun n s lt => ?_⟩
  · obtain ⟨-, mem, keep, cmds, -, -⟩ := seenRegs s tj
    refine ⟨refreshed s tj, rfl, mem, keep, cmds, refreshed_hot s tj, fun hot => ?_, fun cool => ?_⟩
    · rw [refreshed_rate, refreshRate_hot hot]
    · rw [refreshed_rate, refreshRate_cool cool]
  · obtain ⟨-, mem, keep, cmds, now, -⟩ := seenRegs s tj
    exact ⟨retrained s tj, exec_dramRetrain_due awake idle come, now, rfl, retrained_counts s tj, mem, keep, cmds⟩
  · exact ⟨s.timeSave, exec_timeSaveTimer_due live come, timeSave_shows open_, timeSave_frame open_⟩
  · refine ⟨windowDone s laps, exec_speedWindow_eq laps s, fun n lt => ⟨?_, ?_, ?_⟩, windowDone_count s laps,
      windowDone_frame s laps⟩
    · rw [windowDone_index lt, speedIndices_at lt]
    · rw [windowDone_low lt, windowDone_index lt]
    · rw [windowDone_index lt]
      exact (windowDone_slowest s laps).trans (slowest_le lt laps)
  · refine ⟨s.lowClr n, rfl, ?_, ?_, rfl⟩
    · exact State.fld_setFld_same _ _ _ _ _ (by decide) (by decide)
    · exact State.fld_setFld_disj _ _ _ _ _ _ _ (by decide) (by decide) (by decide)

end Sys2Proof.Proofs
end
